-- ==== Sys2Proof/Word.lean ====
section
/-! DEFINITION. The word types of the JS7 (R2, R59): 64-bit registers, 128-bit vector registers, bytes, and the plainest arithmetic on them. -/

namespace Sys2Proof

/-- An x register, a control register or an address: 64 bits (R59). -/
abbrev Word := BitVec 64

/-- An f register: 128 bits (R59). -/
abbrev QWord := BitVec 128

/-- A byte of memory. -/
abbrev Byte := BitVec 8

/-- The number of an x or f register. -/
abbrev Reg := BitVec 5

/-- The number of a predicate register. -/
abbrev PReg := BitVec 3

end Sys2Proof
end

