-- ==== Sys2Proof/Syntax.lean ====
section
/-! DEFINITION. Every instruction of the opcode table as one constructor: the 226 encoded instructions, whose operands are the fields of their words, and the 90 steps of the other agents, whose operands (which unit acts, what came in) stand in the state. -/

namespace Sys2Proof

/-- The register blocks only the supervisor writes (R12 to R14, R130 to R140, R306, R332, R36): `core c`, `cluster k`,
`launch` (the launch unit's block), `fabric` (the Wyvik switch's block), `chip` (the chip control block),
`partition p` (the descriptor of R34), `supervisor i` (a supervisor core's block). -/
inductive Block where
  | core (c : Nat)
  | cluster (k : Nat)
  | launch
  | fabric
  | chip
  | partition (p : Nat)
  | supervisor (i : Nat)
deriving DecidableEq, Repr

/-- One constructor per row of the opcode table. A register field is its number, `sc` the stall count (R62, R69).
Rows without an encoding are the steps of the machine's other agents; which unit acts, and what came in, stands in the
state's `arg` when the step is taken (a constructor past the 244th that carries fields cannot be compiled). -/
inductive Instr where
  /-- R81: Writes x[ra] + x[rb] to x[rd]. -/
  | add (rd : BitVec 5) (ra : BitVec 5) (rb : BitVec 5) (sc : BitVec 3)
  /-- R81: Writes x[ra] − x[rb] to x[rd]. -/
  | sub (rd : BitVec 5) (ra : BitVec 5) (rb : BitVec 5) (sc : BitVec 3)
  /-- R81: Writes the bitwise AND of x[ra] and x[rb] to x[rd]. -/
  | and (rd : BitVec 5) (ra : BitVec 5) (rb : BitVec 5) (sc : BitVec 3)
  /-- R81: Writes the bitwise OR of x[ra] and x[rb] to x[rd]. -/
  | or (rd : BitVec 5) (ra : BitVec 5) (rb : BitVec 5) (sc : BitVec 3)
  /-- R81: Writes the bitwise XOR of x[ra] and x[rb] to x[rd]. -/
  | xor (rd : BitVec 5) (ra : BitVec 5) (rb : BitVec 5) (sc : BitVec 3)
  /-- R81: Shifts x[ra] left by x[rb][5:0]. -/
  | sll (rd : BitVec 5) (ra : BitVec 5) (rb : BitVec 5) (sc : BitVec 3)
  /-- R81: Shifts x[ra] right logically by x[rb][5:0]. -/
  | srl (rd : BitVec 5) (ra : BitVec 5) (rb : BitVec 5) (sc : BitVec 3)
  /-- R81: Shifts x[ra] right arithmetically by x[rb][5:0]. -/
  | sra (rd : BitVec 5) (ra : BitVec 5) (rb : BitVec 5) (sc : BitVec 3)
  /-- R81: Writes 1 if x[ra] < x[rb] as signed values, else 0. -/
  | slt (rd : BitVec 5) (ra : BitVec 5) (rb : BitVec 5) (sc : BitVec 3)
  /-- R81: Writes 1 if x[ra] < x[rb] as unsigned values, else 0. -/
  | sltn (rd : BitVec 5) (ra : BitVec 5) (rb : BitVec 5) (sc : BitVec 3)
  /-- R81: Writes the signed minimum of x[ra] and x[rb]. -/
  | min (rd : BitVec 5) (ra : BitVec 5) (rb : BitVec 5) (sc : BitVec 3)
  /-- R81: Writes the signed maximum of x[ra] and x[rb]. -/
  | max (rd : BitVec 5) (ra : BitVec 5) (rb : BitVec 5) (sc : BitVec 3)
  /-- R81: Writes the unsigned minimum of x[ra] and x[rb]. -/
  | minn (rd : BitVec 5) (ra : BitVec 5) (rb : BitVec 5) (sc : BitVec 3)
  /-- R81: Writes the unsigned maximum of x[ra] and x[rb]. -/
  | maxn (rd : BitVec 5) (ra : BitVec 5) (rb : BitVec 5) (sc : BitVec 3)
  /-- R81: Writes the low 64 bits of the product x[ra] × x[rb]. -/
  | mul (rd : BitVec 5) (ra : BitVec 5) (rb : BitVec 5) (sc : BitVec 3)
  /-- R81: Writes the high 64 bits of the signed product. -/
  | mulh (rd : BitVec 5) (ra : BitVec 5) (rb : BitVec 5) (sc : BitVec 3)
  /-- R81: Writes the high 64 bits of the unsigned product. -/
  | mulhn (rd : BitVec 5) (ra : BitVec 5) (rb : BitVec 5) (sc : BitVec 3)
  /-- R82: Signed division truncated toward zero; the slot parks for the fixed latency. -/
  | div (rd : BitVec 5) (ra : BitVec 5) (rb : BitVec 5) (sc : BitVec 3)
  /-- R82: Unsigned division; the slot parks for the fixed latency. -/
  | divn (rd : BitVec 5) (ra : BitVec 5) (rb : BitVec 5) (sc : BitVec 3)
  /-- R82: Signed remainder, with the sign of the dividend; the slot parks. -/
  | rem (rd : BitVec 5) (ra : BitVec 5) (rb : BitVec 5) (sc : BitVec 3)
  /-- R82: Unsigned remainder; the slot parks. -/
  | remn (rd : BitVec 5) (ra : BitVec 5) (rb : BitVec 5) (sc : BitVec 3)
  /-- R81: Writes x[ra] + (x[rb] shifted left by the scale in aux). -/
  | lea (rd : BitVec 5) (ra : BitVec 5) (rb : BitVec 5) (k : BitVec 2) (sc : BitVec 3)
  /-- R81: Writes x[ra] if x[rd] is non-zero, else x[rb]. -/
  | sel (rd : BitVec 5) (ra : BitVec 5) (rb : BitVec 5) (sc : BitVec 3)
  /-- R83: Writes x[ra] + sign-extended imm12. -/
  | addi (rd : BitVec 5) (ra : BitVec 5) (imm : BitVec 12) (sc : BitVec 3)
  /-- R83: Writes x[ra] AND sign-extended imm12. -/
  | andi (rd : BitVec 5) (ra : BitVec 5) (imm : BitVec 12) (sc : BitVec 3)
  /-- R83: Writes x[ra] OR sign-extended imm12. -/
  | ori (rd : BitVec 5) (ra : BitVec 5) (imm : BitVec 12) (sc : BitVec 3)
  /-- R83: Writes x[ra] XOR sign-extended imm12. -/
  | xori (rd : BitVec 5) (ra : BitVec 5) (imm : BitVec 12) (sc : BitVec 3)
  /-- R83: Signed compare of x[ra] against the immediate. -/
  | slti (rd : BitVec 5) (ra : BitVec 5) (imm : BitVec 12) (sc : BitVec 3)
  /-- R83: Unsigned compare of x[ra] against the immediate. -/
  | sltni (rd : BitVec 5) (ra : BitVec 5) (imm : BitVec 12) (sc : BitVec 3)
  /-- R84: Shifts x[ra] left by an immediate amount. -/
  | slli (rd : BitVec 5) (ra : BitVec 5) (h : BitVec 6) (sc : BitVec 3)
  /-- R84: Shifts x[ra] right logically by an immediate amount. -/
  | srli (rd : BitVec 5) (ra : BitVec 5) (h : BitVec 6) (sc : BitVec 3)
  /-- R84: Shifts x[ra] right arithmetically by an immediate amount. -/
  | srai (rd : BitVec 5) (ra : BitVec 5) (h : BitVec 6) (sc : BitVec 3)
  /-- R85: Writes sign-extended imm20 × 4096. -/
  | lui (rd : BitVec 5) (imm : BitVec 20)
  /-- R86: Writes PC + imm20 × 2 as a 48-bit address. -/
  | adpc (rd : BitVec 5) (imm : BitVec 20)
  /-- R87: Counts the leading zero bits of x[ra]. -/
  | clz (rd : BitVec 5) (ra : BitVec 5) (sc : BitVec 3)
  /-- R87: Counts the trailing zero bits of x[ra]. -/
  | ctz (rd : BitVec 5) (ra : BitVec 5) (sc : BitVec 3)
  /-- R87: Counts the one bits of x[ra]. -/
  | popc (rd : BitVec 5) (ra : BitVec 5) (sc : BitVec 3)
  /-- R87: Sign-extends the low byte of x[ra]. -/
  | sxb (rd : BitVec 5) (ra : BitVec 5) (sc : BitVec 3)
  /-- R87: Sign-extends the low halfword of x[ra]. -/
  | sxh (rd : BitVec 5) (ra : BitVec 5) (sc : BitVec 3)
  /-- R87: Sign-extends the low word of x[ra]. -/
  | sxw (rd : BitVec 5) (ra : BitVec 5) (sc : BitVec 3)
  /-- R87: Zero-extends the low byte of x[ra]. -/
  | zxb (rd : BitVec 5) (ra : BitVec 5) (sc : BitVec 3)
  /-- R87: Zero-extends the low halfword of x[ra]. -/
  | zxh (rd : BitVec 5) (ra : BitVec 5) (sc : BitVec 3)
  /-- R87: Zero-extends the low word of x[ra]. -/
  | zxw (rd : BitVec 5) (ra : BitVec 5) (sc : BitVec 3)
  /-- R88: Extracts a bit field of x[ra] and sign-extends it. -/
  | bexs (rd : BitVec 5) (ra : BitVec 5) (o : BitVec 6) (w : BitVec 6) (sc : BitVec 3)
  /-- R88: Extracts a bit field of x[ra] and zero-extends it. -/
  | bexn (rd : BitVec 5) (ra : BitVec 5) (o : BitVec 6) (w : BitVec 6) (sc : BitVec 3)
  /-- R88: Inserts the low bits of x[ra] into a field of x[rd]. -/
  | bins (rd : BitVec 5) (ra : BitVec 5) (o : BitVec 6) (w : BitVec 6) (sc : BitVec 3)
  /-- R89: Sets p[pd] to 0xFF if x[ra] = x[rb], else to 0x00. -/
  | psetEq (p : BitVec 3) (ra : BitVec 5) (rb : BitVec 5) (sc : BitVec 3)
  /-- R89: Sets p[pd] to 0xFF if x[ra] ≠ x[rb]. -/
  | psetNe (p : BitVec 3) (ra : BitVec 5) (rb : BitVec 5) (sc : BitVec 3)
  /-- R89: Sets p[pd] from a signed less-than compare. -/
  | psetLt (p : BitVec 3) (ra : BitVec 5) (rb : BitVec 5) (sc : BitVec 3)
  /-- R89: Sets p[pd] from a signed greater-or-equal compare. -/
  | psetGe (p : BitVec 3) (ra : BitVec 5) (rb : BitVec 5) (sc : BitVec 3)
  /-- R89: Sets p[pd] from an unsigned less-than compare. -/
  | psetLtn (p : BitVec 3) (ra : BitVec 5) (rb : BitVec 5) (sc : BitVec 3)
  /-- R89: Sets p[pd] from an unsigned greater-or-equal compare. -/
  | psetGen (p : BitVec 3) (ra : BitVec 5) (rb : BitVec 5) (sc : BitVec 3)
  /-- R89: ANDs two predicate registers. -/
  | pand (rd : BitVec 3) (ra : BitVec 3) (rb : BitVec 3) (sc : BitVec 3)
  /-- R89: ORs two predicate registers. -/
  | por (rd : BitVec 3) (ra : BitVec 3) (rb : BitVec 3) (sc : BitVec 3)
  /-- R89: Inverts a predicate register. -/
  | pnot (rd : BitVec 3) (ra : BitVec 3) (sc : BitVec 3)
  /-- R89: Copies x[ra][7:0] into a predicate register. -/
  | pmovToPredicate (rd : BitVec 3) (ra : BitVec 5) (sc : BitVec 3)
  /-- R89: Copies a predicate register, zero-extended, into x[rd]. -/
  | pmovFromPredicate (rd : BitVec 5) (ra : BitVec 3) (sc : BitVec 3)
  /-- R90: Branches if x[ra] = x[rb]. -/
  | beq (ra : BitVec 5) (rb : BitVec 5) (o : BitVec 12)
  /-- R90: Branches if x[ra] ≠ x[rb]. -/
  | bne (ra : BitVec 5) (rb : BitVec 5) (o : BitVec 12)
  /-- R90: Branches on a signed less-than compare. -/
  | blt (ra : BitVec 5) (rb : BitVec 5) (o : BitVec 12)
  /-- R90: Branches on a signed greater-or-equal compare. -/
  | bge (ra : BitVec 5) (rb : BitVec 5) (o : BitVec 12)
  /-- R90: Branches on an unsigned less-than compare. -/
  | bltn (ra : BitVec 5) (rb : BitVec 5) (o : BitVec 12)
  /-- R90: Branches on an unsigned greater-or-equal compare. -/
  | bgen (ra : BitVec 5) (rb : BitVec 5) (o : BitVec 12)
  /-- R91: Branches if the predicate is not 0x00. -/
  | bpt (p : BitVec 3) (o : BitVec 20)
  /-- R91: Branches if the predicate is 0x00. -/
  | bpf (p : BitVec 3) (o : BitVec 20)
  /-- R92: Writes the link PC + 4 and jumps PC-relative. -/
  | jal (rd : BitVec 5) (o : BitVec 20)
  /-- R93: Jumps to x[ra] + imm and writes the link, or traps on a misaligned or out-of-range target. -/
  | jalr (rd : BitVec 5) (ra : BitVec 5) (imm : BitVec 12) (sc : BitVec 3)
  /-- R95: Opens a counted loop, or skips the body when the count is zero. -/
  | loop (ra : BitVec 5) (imm : BitVec 12) (sc : BitVec 3)
  /-- R28: Ends the activation and frees its slot, inbox cell and object; for an inline child, returns to the parent. -/
  | done (sc : BitVec 3)
  /-- R118: Retires and then traps SYS with the code in TRAPADDR. -/
  | sys (c : BitVec 10) (sc : BitVec 3)
  /-- R119: Supervisor core: clears INTRAP and returns from a trap. -/
  | tret (sc : BitVec 3)
  /-- R118: Retires and then traps BREAK with the code in TRAPADDR. -/
  | brk (c : BitVec 10) (sc : BitVec 3)
  /-- R120: Reads a control register into x[rd]. -/
  | ctlrd (rd : BitVec 5) (r : BitVec 12)
  /-- R120: Writes a control register field by field and returns its old value. -/
  | ctlwr (rd : BitVec 5) (ra : BitVec 5) (r : BitVec 12)
  /-- R120: ORs x[ra] into a control register and returns its old value. -/
  | ctlset (rd : BitVec 5) (ra : BitVec 5) (r : BitVec 12)
  /-- R120: Clears the bits of x[ra] in a control register and returns its old value. -/
  | ctlclr (rd : BitVec 5) (ra : BitVec 5) (r : BitVec 12)
  /-- R178: Loads 1–8 bytes, sign-extended, after the checks of R147. -/
  | ld (rd : BitVec 5) (ra : BitVec 5) (z : BitVec 2) (imm : BitVec 10) (sc : BitVec 3)
  /-- R178: Loads 1–8 bytes, zero-extended. -/
  | ldn (rd : BitVec 5) (ra : BitVec 5) (z : BitVec 2) (imm : BitVec 10) (sc : BitVec 3)
  /-- R178: Loads 2–16 bytes into an f register, or pushes them into a write stream. -/
  | fld (rd : BitVec 5) (ra : BitVec 5) (z : BitVec 2) (imm : BitVec 10) (sc : BitVec 3)
  /-- R178: Stores 1–8 bytes; a store to a transmit-window page is reflected. -/
  | st (rd : BitVec 5) (ra : BitVec 5) (z : BitVec 2) (imm : BitVec 10) (sc : BitVec 3)
  /-- R178: Stores 2–16 bytes of an f register, or pops a read stream. -/
  | fst (rd : BitVec 5) (ra : BitVec 5) (z : BitVec 2) (imm : BitVec 10) (sc : BitVec 3)
  /-- R180: Parks until the word is full and then returns it. -/
  | ldsync (rd : BitVec 5) (ra : BitVec 5) (sc : BitVec 3)
  /-- R180: Parks until the word is full, returns it and empties it. -/
  | ldtake (rd : BitVec 5) (ra : BitVec 5) (sc : BitVec 3)
  /-- R180: Releases at chip scope, then writes the word and sets it full. -/
  | stfill (rd : BitVec 5) (ra : BitVec 5) (sc : BitVec 3)
  /-- R181: Empties a range of full/empty words. -/
  | feclr (ra : BitVec 5) (rb : BitVec 5) (sc : BitVec 3)
  /-- R184: Writes one 4-bit element indivisibly at its home. -/
  | stnib (rd : BitVec 5) (ra : BitVec 5) (rb : BitVec 5) (sc : BitVec 3)
  /-- R185: Atomic add at the home; returns the old value. -/
  | amoAdd (rd : BitVec 5) (ra : BitVec 5) (rb : BitVec 5) (z : BitVec 1) (l : BitVec 1) (q : BitVec 1) (c : BitVec 2)
  /-- R185: Atomic AND at the home. -/
  | amoAnd (rd : BitVec 5) (ra : BitVec 5) (rb : BitVec 5) (z : BitVec 1) (l : BitVec 1) (q : BitVec 1) (c : BitVec 2)
  /-- R185: Atomic OR at the home. -/
  | amoOr (rd : BitVec 5) (ra : BitVec 5) (rb : BitVec 5) (z : BitVec 1) (l : BitVec 1) (q : BitVec 1) (c : BitVec 2)
  /-- R185: Atomic XOR at the home. -/
  | amoXor (rd : BitVec 5) (ra : BitVec 5) (rb : BitVec 5) (z : BitVec 1) (l : BitVec 1) (q : BitVec 1) (c : BitVec 2)
  /-- R185: Atomic signed minimum at the home. -/
  | amoMin (rd : BitVec 5) (ra : BitVec 5) (rb : BitVec 5) (z : BitVec 1) (l : BitVec 1) (q : BitVec 1) (c : BitVec 2)
  /-- R185: Atomic signed maximum at the home. -/
  | amoMax (rd : BitVec 5) (ra : BitVec 5) (rb : BitVec 5) (z : BitVec 1) (l : BitVec 1) (q : BitVec 1) (c : BitVec 2)
  /-- R185: Atomic unsigned minimum at the home. -/
  | amoMinn (rd : BitVec 5) (ra : BitVec 5) (rb : BitVec 5) (z : BitVec 1) (l : BitVec 1) (q : BitVec 1) (c : BitVec 2)
  /-- R185: Atomic unsigned maximum at the home. -/
  | amoMaxn (rd : BitVec 5) (ra : BitVec 5) (rb : BitVec 5) (z : BitVec 1) (l : BitVec 1) (q : BitVec 1) (c : BitVec 2)
  /-- R185: Atomic swap at the home. -/
  | amoSwap (rd : BitVec 5) (ra : BitVec 5) (rb : BitVec 5) (z : BitVec 1) (l : BitVec 1) (q : BitVec 1) (c : BitVec 2)
  /-- R185: Atomic compare-and-swap at the home. -/
  | amoCas (rd : BitVec 5) (ra : BitVec 5) (rb : BitVec 5) (z : BitVec 1) (l : BitVec 1) (q : BitVec 1) (c : BitVec 2)
  /-- R186: Atomic FP32 add, per lane, with RNE. -/
  | amoFadd (rd : BitVec 5) (ra : BitVec 5) (rb : BitVec 5) (z : BitVec 1) (l : BitVec 1) (q : BitVec 1) (c : BitVec 2)
  /-- R186: Atomic FP32 maximum, per lane. -/
  | amoFmax (rd : BitVec 5) (ra : BitVec 5) (rb : BitVec 5) (z : BitVec 1) (l : BitVec 1) (q : BitVec 1) (c : BitVec 2)
  /-- R189: Records a condition that holds back later operations of the successor set. -/
  | fence (p : BitVec 4) (u : BitVec 4) (c : BitVec 2) (sc : BitVec 3)
  /-- R190: Parks until earlier loads are performed, then invalidates the L1 at cluster scope or wider. -/
  | acq (c : BitVec 2) (sc : BitVec 3)
  /-- R190: Parks until the earlier operations are performed at every observer of the scope. -/
  | rel (c : BitVec 2) (sc : BitVec 3)
  /-- R188: Invalidates the cluster's L1 between earlier and later loads. -/
  | l1inv (sc : BitVec 3)
  /-- R191: Writes a dirty L2 line back to LPDDR 6 and parks until that is done. -/
  | l2wb (ra : BitVec 5) (sc : BitVec 3)
  /-- R192: Zeroes a 64-byte line and clears its poison and full bits. -/
  | l2zero (ra : BitVec 5) (sc : BitVec 3)
  /-- R191: Brings a line into its home slice, and into L1 under L1+L2; never traps. -/
  | pfetch (ra : BitVec 5) (sc : BitVec 3)
  /-- R115: Arrives at a barrier word, then parks until its phase changes. -/
  | wfa (rd : BitVec 5) (ra : BitVec 5) (rb : BitVec 5) (m : BitVec 2) (sc : BitVec 3)
  /-- R115: Parks, without arriving, until the barrier word's phase differs from P. -/
  | wfp (rd : BitVec 5) (ra : BitVec 5) (rb : BitVec 5) (m : BitVec 2) (sc : BitVec 3)
  /-- R115: Arrives at a barrier word with no bytes. -/
  | arr (rd : BitVec 5) (ra : BitVec 5) (rb : BitVec 5) (m : BitVec 2) (sc : BitVec 3)
  /-- R115: Arrives at a barrier word and adds a byte count. -/
  | arrx (rd : BitVec 5) (ra : BitVec 5) (rb : BitVec 5) (m : BitVec 2) (sc : BitVec 3)
  /-- R117: Adds the caller to a group and parks until the group table records it. -/
  | gjoin (g : BitVec 12) (sc : BitVec 3)
  /-- R117: Removes the caller from a group, completing its part of open instances. -/
  | gleave (g : BitVec 12) (sc : BitVec 3)
  /-- R324: Sends a contribution for the member's next instance to the switch. -/
  | gcontrib (rd : BitVec 5) (g : BitVec 12) (sc : BitVec 3)
  /-- R325: Parks until the member's result register holds its last instance, then returns the result. -/
  | gread (rd : BitVec 5) (g : BitVec 12) (sc : BitVec 3)
  /-- R101: Allocates a promise home entry, sends the invocation and returns the promise handle. -/
  | inv (rd : BitVec 5) (ra : BitVec 5) (rb : BitVec 5) (sc : BitVec 3)
  /-- R103: Sends an invocation that carries the activation's own reply. -/
  | invp (ra : BitVec 5) (rb : BitVec 5) (sc : BitVec 3)
  /-- R104: Resolves REPLYH with a handle. -/
  | reply (ra : BitVec 5) (sc : BitVec 3)
  /-- R104: Resolves REPLYH with a datum made from x10–x13. -/
  | replyDatum (ra : BitVec 5) (sc : BitVec 3)
  /-- R104: Resolves a local promise with a handle. -/
  | replyLocalPromise (ra : BitVec 5) (rb : BitVec 5) (sc : BitVec 3)
  /-- R104: Resolves a local promise with a datum. -/
  | replyDatumLocalPromise (ra : BitVec 5) (rb : BitVec 5) (sc : BitVec 3)
  /-- R105: Breaks REPLYH with a program reason code. -/
  | rbreak (ra : BitVec 5) (sc : BitVec 3)
  /-- R105: Breaks a local promise with a program reason code. -/
  | rbreakLocalPromise (ra : BitVec 5) (rb : BitVec 5) (sc : BitVec 3)
  /-- R110: Sends an anonymous activation, or runs it inline when no credit is held. -/
  | spawn (ra : BitVec 5) (rb : BitVec 5) (sc : BitVec 3)
  /-- R106: Allocates a local promise and returns its handle. -/
  | hnew (rd : BitVec 5) (sc : BitVec 3)
  /-- R107: Drops a promise or datum handle, freeing or marking the entry. -/
  | hdrop (ra : BitVec 5) (sc : BitVec 3)
  /-- R108: Reports what the core knows of a handle. -/
  | hstat (rd : BitVec 5) (ra : BitVec 5) (sc : BitVec 3)
  /-- R109: Registers one activation of a channel for when a handle resolves. -/
  | when (ra : BitVec 5) (rb : BitVec 5) (sc : BitVec 3)
  /-- R251: Loads a tensor map from its image after checks. -/
  | tmset (t : BitVec 4) (ra : BitVec 5) (sc : BitVec 3)
  /-- R250: Makes a tensor map invalid. -/
  | tmclr (t : BitVec 4) (sc : BitVec 3)
  /-- R250: Sets the shadow source to a map with a given base. -/
  | xsrcLocal (t : BitVec 4) (ra : BitVec 5) (sc : BitVec 3)
  /-- R250: Sets the shadow source to a map with its image base. -/
  | xsrcImageBase (t : BitVec 4) (sc : BitVec 3)
  /-- R250: Sets the shadow source to a remote endpoint. -/
  | xsrcRemote (t : BitVec 4) (ra : BitVec 5) (rb : BitVec 5) (sc : BitVec 3)
  /-- R250: Sets the shadow destination to a map with a given base. -/
  | xdstLocal (t : BitVec 4) (ra : BitVec 5) (sc : BitVec 3)
  /-- R250: Sets the shadow destination to a map with its image base. -/
  | xdstImageBase (t : BitVec 4) (sc : BitVec 3)
  /-- R250: Sets the shadow destination to an operand ring. -/
  | xdstRing (o : BitVec 4) (sc : BitVec 3)
  /-- R250: Sets the shadow destination to a remote endpoint. -/
  | xdstRemote (t : BitVec 4) (ra : BitVec 5) (rb : BitVec 5) (sc : BitVec 3)
  /-- R250: Sets CTL and the barrier address in the shadow. -/
  | xset (ra : BitVec 5) (rb : BitVec 5) (sc : BitVec 3)
  /-- R250: Sets the post value and address in the shadow. -/
  | xsetPost (ra : BitVec 5) (rb : BitVec 5) (sc : BitVec 3)
  /-- R250: Sets the activate PC and the gather index address in the shadow. -/
  | xsetAct (ra : BitVec 5) (rb : BitVec 5) (sc : BitVec 3)
  /-- R250: Sets the chain list address in the shadow. -/
  | xsetChain (ra : BitVec 5) (sc : BitVec 3)
  /-- R252: Issues a copy command from the shadow image and returns its transfer identifier. -/
  | xgo (rd : BitVec 5) (sc : BitVec 3)
  /-- R252: Issues a looping copy command with iterations, stages and a step record. -/
  | xloop (rd : BitVec 5) (ra : BitVec 5) (rb : BitVec 5) (sc : BitVec 3)
  /-- R253: Frees a stage of a looping copy after the slot's earlier accesses are performed. -/
  | xrel (ra : BitVec 5) (sc : BitVec 3)
  /-- R252: Places a triggered copy command in the pending list. -/
  | xarm (rd : BitVec 5) (ra : BitVec 5) (rb : BitVec 5) (sc : BitVec 3)
  /-- R244: Returns the status word of a transfer identifier. -/
  | xstat (rd : BitVec 5) (ra : BitVec 5) (sc : BitVec 3)
  /-- R254: Cancels a copy command and returns its prior status. -/
  | xcancel (rd : BitVec 5) (ra : BitVec 5) (sc : BitVec 3)
  /-- R222: Lane-wise add with one rounding. -/
  | fadd (rd : BitVec 5) (ra : BitVec 5) (rb : BitVec 5) (m : BitVec 2) (sc : BitVec 3)
  /-- R222: Lane-wise subtract. -/
  | fsub (rd : BitVec 5) (ra : BitVec 5) (rb : BitVec 5) (m : BitVec 2) (sc : BitVec 3)
  /-- R222: Lane-wise multiply. -/
  | fmul (rd : BitVec 5) (ra : BitVec 5) (rb : BitVec 5) (m : BitVec 2) (sc : BitVec 3)
  /-- R223: Lane-wise minimum. -/
  | fmin (rd : BitVec 5) (ra : BitVec 5) (rb : BitVec 5) (m : BitVec 2) (sc : BitVec 3)
  /-- R223: Lane-wise maximum. -/
  | fmax (rd : BitVec 5) (ra : BitVec 5) (rb : BitVec 5) (m : BitVec 2) (sc : BitVec 3)
  /-- R222: Clears the sign bit of each lane. -/
  | fabs (rd : BitVec 5) (ra : BitVec 5) (m : BitVec 2) (sc : BitVec 3)
  /-- R222: Inverts the sign bit of each lane. -/
  | fneg (rd : BitVec 5) (ra : BitVec 5) (m : BitVec 2) (sc : BitVec 3)
  /-- R222: Selects each lane from a or b by the LANEP predicate. -/
  | fsel (rd : BitVec 5) (ra : BitVec 5) (rb : BitVec 5) (m : BitVec 2) (sc : BitVec 3)
  /-- R222: Copies lanes unchanged. -/
  | fmv (rd : BitVec 5) (ra : BitVec 5) (m : BitVec 2) (sc : BitVec 3)
  /-- R222: Lane-wise divide; parks for the fixed latency. -/
  | fdiv (rd : BitVec 5) (ra : BitVec 5) (rb : BitVec 5) (m : BitVec 2) (sc : BitVec 3)
  /-- R222: Lane-wise square root; parks. -/
  | fsqrt (rd : BitVec 5) (ra : BitVec 5) (m : BitVec 2) (sc : BitVec 3)
  /-- R224: Fused multiply-add with one rounding. -/
  | fma (rd : BitVec 5) (ra : BitVec 5) (rb : BitVec 5) (c : BitVec 5) (f : BitVec 2) (sc : BitVec 2)
  /-- R224: Fused negated multiply-add with one rounding. -/
  | fnma (rd : BitVec 5) (ra : BitVec 5) (rb : BitVec 5) (c : BitVec 5) (f : BitVec 2) (sc : BitVec 2)
  /-- R225: Correctly rounded reciprocal per lane. -/
  | frcp (rd : BitVec 5) (ra : BitVec 5) (m : BitVec 2) (sc : BitVec 3)
  /-- R225: Correctly rounded reciprocal square root per lane. -/
  | frsq (rd : BitVec 5) (ra : BitVec 5) (m : BitVec 2) (sc : BitVec 3)
  /-- R225: Correctly rounded 2^a per lane. -/
  | fexp2 (rd : BitVec 5) (ra : BitVec 5) (m : BitVec 2) (sc : BitVec 3)
  /-- R225: Correctly rounded log2 per lane. -/
  | flog2 (rd : BitVec 5) (ra : BitVec 5) (m : BitVec 2) (sc : BitVec 3)
  /-- R226: Sums the lanes in a fixed pairwise tree. -/
  | fsum (rd : BitVec 5) (ra : BitVec 5) (m : BitVec 2) (sc : BitVec 3)
  /-- R226: Takes the maximum of the lanes in a fixed tree. -/
  | fmaxr (rd : BitVec 5) (ra : BitVec 5) (m : BitVec 2) (sc : BitVec 3)
  /-- R227: Compares lanes and writes a predicate. -/
  | fcmp (p : BitVec 3) (k : BitVec 2) (ra : BitVec 5) (rb : BitVec 5) (m : BitVec 2) (sc : BitVec 3)
  /-- R228: Converts lanes between formats. -/
  | fcvt (rd : BitVec 5) (ra : BitVec 5) (u : BitVec 5) (r : BitVec 3) (t : BitVec 4) (sc : BitVec 3)
  /-- R221: Configures a stream's base, count and kind. -/
  | sscfg (f : BitVec 2) (ra : BitVec 5) (rb : BitVec 5) (m : BitVec 2) (sc : BitVec 3)
  /-- R220: Enables a configured stream. -/
  | ssen (f : BitVec 2) (sc : BitVec 3)
  /-- R220: Disables a stream and returns its remaining count. -/
  | ssdis (rd : BitVec 5) (f : BitVec 2) (sc : BitVec 3)
  /-- R229: Rounds FP32 lanes of two registers into 16-bit lanes. -/
  | fpack (rd : BitVec 5) (ra : BitVec 5) (rb : BitVec 5) (m : BitVec 2) (sc : BitVec 3)
  /-- R229: Widens half of the 16-bit lanes to FP32. -/
  | funpack (rd : BitVec 5) (ra : BitVec 5) (h : BitVec 1) (m : BitVec 2) (sc : BitVec 3)
  /-- R229: Permutes lanes by the indices in x[rb]. -/
  | fshuf (rd : BitVec 5) (ra : BitVec 5) (rb : BitVec 5) (m : BitVec 2) (sc : BitVec 3)
  /-- R271: Defines or retires an operand ring from its image. -/
  | mring (n : BitVec 4) (ra : BitVec 5) (sc : BitVec 3)
  /-- R271: Defines a scale ring with a group length. -/
  | mringScale (n : BitVec 4) (ra : BitVec 5) (rb : BitVec 5) (sc : BitVec 3)
  /-- R272: Claims a tile from each of two rings and queues one multiply step on the working bank. -/
  | mma (ra : BitVec 4) (rb : BitVec 4) (m : BitVec 2) (sc : BitVec 3)
  /-- R273: Queues a multiply step with 4-bit weights dequantised by a scale ring. -/
  | mmaq (c : BitVec 4) (ra : BitVec 4) (rb : BitVec 4) (m : BitVec 2) (sc : BitVec 3)
  /-- R274: Queues a clear of the working bank and its poison bit. -/
  | mzero (sc : BitVec 3)
  /-- R274: Queues a bank exchange and parks until it is made. -/
  | mswap (sc : BitVec 3)
  /-- R275: Queues a load of the epilogue state. -/
  | mepi (ra : BitVec 5) (sc : BitVec 3)
  /-- R276: Returns one ranked pair of a row's top-k list after earlier commands are done. -/
  | mtopk (rd : BitVec 5) (ra : BitVec 5) (sc : BitVec 3)
  /-- R275: Queues a seeding of the 64 noise generators. -/
  | mseed (ra : BitVec 5) (sc : BitVec 3)
  /-- R276: Reports core or ring state of the matrix unit without waiting. -/
  | mstat (rd : BitVec 5) (ra : BitVec 5) (sc : BitVec 3)
  /-- R286: Sets the auction source to a score tile. -/
  | merLoadTile (ra : BitVec 5) (rb : BitVec 5) (sc : BitVec 3)
  /-- R286: Sets the auction source to candidate lists. -/
  | merLoadCand (ra : BitVec 5) (rb : BitVec 5) (sc : BitVec 3)
  /-- R286: Sets per-column capacities from memory. -/
  | merCap (ra : BitVec 5) (sc : BitVec 3)
  /-- R286: Sets one capacity for every column. -/
  | merCapAll (ra : BitVec 5) (sc : BitVec 3)
  /-- R287: Sets the rounds, copies, policy, bias use, epsilon and floor. -/
  | merCfg (ra : BitVec 5) (rb : BitVec 5) (sc : BitVec 3)
  /-- R288: Hands the shadow to the sector engine and parks until it is taken. -/
  | merGo (rd : BitVec 5) (sc : BitVec 3)
  /-- R293: Parks until the slot's auction stops, then returns its status. -/
  | merStat (rd : BitVec 5) (sc : BitVec 3)
  /-- R294: Writes the assignment and ragged records and parks until they are filled. -/
  | merOut (ra : BitVec 5) (rb : BitVec 5) (sc : BitVec 3)
  /-- R295: Publishes σ × price as the new bias vector. -/
  | merBias (rd : BitVec 5) (ra : BitVec 5) (sc : BitVec 3)
  /-- R295: Adds σ × price to the bias vector. -/
  | merBiasAdd (rd : BitVec 5) (ra : BitVec 5) (sc : BitVec 3)
  /-- R295: Publishes a bias vector copied from memory. -/
  | merBiasCopy (rd : BitVec 5) (ra : BitVec 5) (sc : BitVec 3)
  /-- R297: Writes the end prices of the slot's last auction. -/
  | merSnap (rd : BitVec 5) (ra : BitVec 5) (sc : BitVec 3)
  /-- R297: Writes the engine's current bias vector. -/
  | merSnapBias (rd : BitVec 5) (ra : BitVec 5) (sc : BitVec 3)
  /-- R302: Reads a launch record and appends it to a launch queue. -/
  | lqPush (q : BitVec 4) (ra : BitVec 5) (sc : BitVec 3)
  /-- R313: Returns the state of a launch queue. -/
  | lqStat (rd : BitVec 5) (q : BitVec 4) (sc : BitVec 3)
  /-- R314: Adds to an event's count. -/
  | evSig (ra : BitVec 5) (rb : BitVec 5) (sc : BitVec 3)
  /-- R314: Sets an event's count. -/
  | evSigSet (ra : BitVec 5) (rb : BitVec 5) (sc : BitVec 3)
  /-- R305: Parks until a completion queue holds a record, then copies it out. -/
  | cqPop (rd : BitVec 5) (ra : BitVec 5) (c : BitVec 4) (sc : BitVec 3)
  /-- R315: Arms a completion queue to pop one record and queue an activation. -/
  | cqPopAct (p : BitVec 5) (ra : BitVec 5) (c : BitVec 4) (sc : BitVec 3)
  /-- R342: Parks until every window tracker drains, then returns 0 or a failure word. -/
  | rfence (rd : BitVec 5) (sc : BitVec 3)
  /-- R342: Parks until one window's tracker drains, then returns its status. -/
  | rflush (rd : BitVec 5) (ra : BitVec 5) (sc : BitVec 3)
  /-- R123: Clears a slot's trap park so it re-executes or continues. -/
  | svResume (rd : BitVec 5) (ra : BitVec 5) (sc : BitVec 3)
  /-- R123: Clears a slot's trap park and sets its x10. -/
  | svResumeX10 (rd : BitVec 5) (ra : BitVec 5) (rb : BitVec 5) (sc : BitVec 3)
  /-- R124: Ends a slot's activation, breaking its reply and withdrawing its waits. -/
  | svBreak (rd : BitVec 5) (ra : BitVec 5) (sc : BitVec 3)
  /-- R123: Freezes a slot or engine. -/
  | svFreeze (rd : BitVec 5) (ra : BitVec 5) (sc : BitVec 3)
  /-- R123: Thaws a frozen slot or engine; recorded wakes take effect. -/
  | svThaw (rd : BitVec 5) (ra : BitVec 5) (sc : BitVec 3)
  /-- R319: Pre-empts a partition into its save area. -/
  | svSave (rd : BitVec 5) (ra : BitVec 5) (rb : BitVec 5) (sc : BitVec 3)
  /-- R321: Restores a saved partition and lets it run. -/
  | svLoad (rd : BitVec 5) (ra : BitVec 5) (rb : BitVec 5) (sc : BitVec 3)
  /-- R193: Starts a shootdown of a partition's address range and parks for its status. -/
  | tlbinv (rd : BitVec 5) (ra : BitVec 5) (rb : BitVec 5) (sc : BitVec 3)
  /-- R64: 16-bit form of add rd, x0, rb. -/
  | cMv (rd : BitVec 5) (rb : BitVec 5)
  /-- R64: 16-bit form of add rd, rd, rb. -/
  | cAdd (rd : BitVec 5) (rb : BitVec 5)
  /-- R64: 16-bit form of sub rd, rd, rb. -/
  | cSub (rd : BitVec 5) (rb : BitVec 5)
  /-- R64: 16-bit form of addi rd, rd, imm. -/
  | cAddi (rd : BitVec 5) (imm : BitVec 6)
  /-- R64: 16-bit form of addi rd, x0, imm. -/
  | cLi (rd : BitVec 5) (imm : BitVec 6)
  /-- R64: 16-bit form of and rd, rd, rb. -/
  | cAnd (rd : BitVec 5) (rb : BitVec 5)
  /-- R64: 16-bit form of or rd, rd, rb. -/
  | cOr (rd : BitVec 5) (rb : BitVec 5)
  /-- R64: 16-bit form of slli rd, rd, sh. -/
  | cSlli (rd : BitVec 5) (h : BitVec 6)
  /-- R64: 16-bit form of srli rd, rd, sh. -/
  | cSrli (rd : BitVec 5) (h : BitVec 6)
  /-- R64: 16-bit form of ld.d rd, off(ra). -/
  | cLd (rd : BitVec 5) (ra : BitVec 5) (o : BitVec 1)
  /-- R64: 16-bit form of st.d rd, off(ra). -/
  | cSd (rd : BitVec 5) (ra : BitVec 5) (o : BitVec 1)
  /-- R64: 16-bit form of beq ra, x0, label. -/
  | cBeqz (ra : BitVec 5) (o : BitVec 6)
  /-- R64: 16-bit form of bne ra, x0, label. -/
  | cBnez (ra : BitVec 5) (o : BitVec 6)
  /-- R64: 16-bit form of jal x0, label. -/
  | cJ (o : BitVec 11)
  /-- R64: 16-bit form of done. -/
  | cDone
  /-- R82: A parked divide or remainder writes its result at cycle t + 33 and the slot may issue again. -/
  | divideResult
  /-- R69: The data of a load that was not served locally returns, is written to its register, and the slot wakes. -/
  | loadDataReturn
  /-- R167: A retired store or atomic is performed at its home bank or slice and acknowledged. -/
  | storePerformedAtHome
  /-- R16: A message reaches the receiving interface: capability check, sequence check and delivery. -/
  | invocationArrival
  /-- R45: A message with channel bit 6 set is looked up among answer and alias entries, then queued, passed on, delivered or broken. -/
  | forwardedInvocationArrival
  /-- R44: A freed entry, pair or cell lets a held message, break or notice go ahead. -/
  | tableEntryWaitRelease
  /-- R18: A queued message waiting for an inbox cell takes a freed cell, or breaks NOINBOX when INBOXEN has been cleared. -/
  | inboxCellAssignment
  /-- R20: In a cycle with a free slot, the core admits the runnable head of highest effective priority. -/
  | activationAdmission
  /-- R47: A resolution notice reaches a core, allocates an alias if needed, resolves the entry, fires its when registrations and passes on. -/
  | resolutionNotice
  /-- R102: The home of an unlocated promise sets LOC and passes on its held messages. -/
  | locationNotice
  /-- R55: A watch request adds a when record to an entry, or answers at once. -/
  | watchRequest
  /-- R55: A when-notice queues the registered activation on the caller's object. -/
  | whenNotice
  /-- R56: A release notice frees an answer, moved or alias entry, or removes a datum entry's key. -/
  | releaseNotice
  /-- R57: A target cluster grants a block of 8 receive-queue slots in request order. -/
  | reservationRequest
  /-- R57: A granted block reaches the requester and wakes sends waiting for credit. -/
  | reservationGrant
  /-- R57: A credit returns to its sender when the message's receive-queue slot frees. -/
  | creditReturn
  /-- R57: After 10 µs with no send and all credits home, a core returns its block. -/
  | reservationBlockReturn
  /-- R35: A slot's elapsed-cycle count reaches RUNLIMIT, and the core sends a run-limit notice. -/
  | runLimitExpiry
  /-- R29: A parked slot's wake condition holds, and its instruction completes or re-executes. -/
  | slotWake
  /-- R231: A free copy engine takes the next command by priority and round-robin, reserving a ring stage if needed. -/
  | copyCommandStart
  /-- R242: One item of a copy is written, or fails with a status. -/
  | copyItem
  /-- R241: After the last payload write, the engine performs arrive, post, fill and activate in order. -/
  | copyCompletion
  /-- R245: A looping copy starts its next iteration once the stage is free and the previous completion is written. -/
  | loopIterationStart
  /-- R246: An armed command fires when its counter reaches the threshold. -/
  | triggeredCopyFire
  /-- R222: A parked fdiv or fsqrt writes its result and flags at cycle t + 23. -/
  | fdivFsqrtResult
  /-- R264: In a cycle with the array free, the arbiter grants a core's ready mma head, subject to the governor. -/
  | matrixGrant
  /-- R266: A granted step finishes, is checked against the shadow column, writes the working bank, pops its stages and ORs MFLAGS. -/
  | matrixStepRetire
  /-- R261: mzero, mepi, mseed or an mswap exchange is performed once every earlier command of the core is done. -/
  | matrixQueueCommandPerform
  /-- R269: The top-k epilogue over the newly visible bank ends 64 cycles after the exchange. -/
  | epilogueComplete
  /-- R265: A 64-cycle governor window ends and the sector's grant budget starts again. -/
  | governorWindowEnd
  /-- R288: The engine takes the next shadow, reserves a buffer, copies the bias and reads the inputs. -/
  | auctionTake
  /-- R290: One round of bids, acceptances and price updates, preceded by the stop tests. -/
  | auctionRound
  /-- R310: The launch unit takes the highest-priority head whose events are satisfied. -/
  | launchRecordTake
  /-- R303: The unit reads the next record part and sends one message on behalf of the pushing core. -/
  | launchExpansionSend
  /-- R304: An expanded activation's end reaches the launch unit. -/
  | activationEndNotice
  /-- R304: When an expansion is complete and its queue has room, the unit writes its completion record. -/
  | completionRecordWrite
  /-- R315: An armed completion queue receives a record, which is written out and its activation queued. -/
  | cqArmFire
  /-- R318: A partition's slice count reaches SLICE, and it is saved, or reported complete if idle. -/
  | sliceExpiry
  /-- R337: The window port takes a reflected store, checks its transmit entry and sends it to every receiver. -/
  | windowPortTake
  /-- R339: A reflected store, remote write packet or get is checked against its receive entry and placed or NACKed. -/
  | windowArrival
  /-- R341: An acknowledgement or NACK lowers a tracker's count or records a failure. -/
  | windowAnswer
  /-- R341: A store or packet unanswered after PLACETMO fails NACK. -/
  | placementTimeout
  /-- R347: A get's answer writes its data into the requester's destination. -/
  | getReply
  /-- R336: A write to a receive entry's STATE opens it or starts a close. -/
  | receiveEntryStateWrite
  /-- R344: A chip answers a close notice once its stores to that window are answered. -/
  | closeNotice
  /-- R345: A close answer lowers PENDING, and the entry becomes CLOSED when it drains. -/
  | closeAnswer
  /-- R345: CLOSEAGE reaches CLOSETMO and the entry becomes CLOSED. -/
  | closeTimeout
  /-- R349: An unanswered connectionless packet is resent after max(20 µs, 2 × SRTT). -/
  | farResendTimer
  /-- R349: A far message table entry's tombstone lapses after MSGLIFE. -/
  | tombstoneExpiry
  /-- R350: On a NACK or 2 × SRTT without answer, the sender resends go-back-N. -/
  | queuePairResend
  /-- R351: At the end of an SRTT without halving, a rate group's RATE rises by STEP. -/
  | rateIncrease
  /-- R359: A link receives a flit, checks CRC and sequence, accepts it or requests a retry. -/
  | flitReceive
  /-- R359: After 16 resends without progress the link retrains; after three failed retrains it goes down. -/
  | linkRetrain
  /-- R384: A rekey marker packet switches the receiving end to the next key. -/
  | linkRekeyMarker
  /-- R329: A contribution or child partial reaches a switch, takes a reduction slot, and may complete the instance. -/
  | groupContribution
  /-- R329: A result passes down through a switch, writes its members' registers, frees the slot and closes the instance. -/
  | groupResult
  /-- R330: A reduction slot's timeout expires, sending the partial up or delivering TIMEOUT at the root. -/
  | groupSlotTimeout
  /-- R145: A walker completes a translation walk and fills the TLB or reports a fault. -/
  | translationWalk
  /-- R127: A store leaves a watched entry valid and not discarded; translations are removed and waiting slots and held commands wake. -/
  | pageMonitorWake
  /-- R146: Every 4096 cycles, a walker rereads an entry it could not arm a monitor on, or whose line is poisoned. -/
  | monitorPoll
  /-- R151: A tlbinv invalidation meets its completion conditions and its status is written. -/
  | shootdownComplete
  /-- R132: A write of a bank register's ROLE or FMT; a role change may start a drain. -/
  | bankRegisterWrite
  /-- R133: A drain or clearing ends, the new role takes effect and BUSY clears. -/
  | bankRoleDrainComplete
  /-- R140: A write of the translation root waits for translations in flight, then empties the TLB. -/
  | translationRootWrite
  /-- R51: A write of SEQBASE or QBASE marks every receive pair and queue-record cell free. -/
  | sequenceAreaBaseWrite
  /-- R172: A home slice evicts a line, writing it and its full bits to LPDDR 6. -/
  | l2LineEviction
  /-- R380: The scrubber reads a line and writes it back if it corrected it. -/
  | patrolScrub
  /-- R372: A write of GO starts the containment reset of a partition's rectangle on this chip. -/
  | containmentResetGo
  /-- R373: The reset ends: STATE goes idle, BUSY clears and the 0x00D0 record is written. -/
  | containmentResetComplete
  /-- R385: Astrolabe loads a fresh random key into a memory key slot. -/
  | mailboxLoadkey
  /-- R385: Astrolabe empties a memory key slot. -/
  | mailboxErasekey
  /-- R385: Installs the next key of a Wyvik port and zeroes the buffer. -/
  | mailboxLinkkey
  /-- R385: Installs the next key of an Ethernet flow. -/
  | mailboxFlowkey
  /-- R387: Astrolabe writes a signed job-start record. -/
  | mailboxJobstart
  /-- R387: Astrolabe writes a signed job-end record. -/
  | mailboxJobend
  /-- R386: Extends a measurement register M4–M7 with a digest. -/
  | mailboxExtend
  /-- R385: An unassigned mailbox request returns STATUS 2. -/
  | mailboxInvalidOp
  /-- R388: An Astrolabe request finishes, its status is set and BUSY clears. -/
  | mailboxRequestComplete
  /-- R389: The supervisor has not written the watchdog doubleword for 1 s. -/
  | watchdogExpiry
  /-- R396: A sensor reaches 100 °C, capping sector budgets and writing a record, or 110 °C, a fatal error. -/
  | thermalThreshold
  /-- R391: Power-good or a management-port reset runs the boot sequence through Astrolabe and the supervisor. -/
  | chipReset
  /-- R393: A precision time protocol update slews TIME and is carried to every chip. -/
  | timeCorrection
  /-- R394: A write of a cluster power register's REQ starts a power state change. -/
  | clusterPowerRequest
  /-- R394: A cluster reaches its requested power state and BUSY clears. -/
  | clusterPowerChangeComplete
  /-- R306: A write that clears EN or changes PART empties a launch queue without completion records. -/
  | launchQueueConfigWrite
  /-- R318: A write that sets ARMED restarts a partition's slice timer. -/
  | sliceRegisterWrite
  /-- R4: A supervisor write to a configuration or control-block register without behaviour of its own. -/
  | configRegisterWrite
  /-- R63: A fetched word or halfword whose major, selector, modifier, reserved or unused field is unassigned traps ILLEGAL, with the word in TRAPADDR. -/
  | illegalInstruction
  /-- R61: A fetch from a page without the execute right, or from a page that is not present, traps PROTECTION or NOTPRESENT before any word is decoded. -/
  | instructionFetchFault
  /-- R389: An uncorrectable error in Astrolabe's own memory is a fatal error, and the chip writes the fatal dump and halts. -/
  | astrolabeMemoryError
deriving DecidableEq, Repr

end Sys2Proof
end

