-- ==== Sys2Proof/WellFormed.lean ====
section
/-! DEFINITION. Which instructions are well formed: the operand values that R63, R99, R195, R230, R255, R277 and R64 leave unassigned, and that no fixed bit of an encoding rules out, are not. -/

namespace Sys2Proof

/-- A two-bit fmt2 field takes only codes 0 to 2 (R68). -/
def fmt2Ok (m : BitVec 2) : Bool := m != 3

/-- The source or destination format code of fcvt: 0 to 9, less INT4 and FP4 (R206, R228, R230). -/
def cvtFmtOk (c : Nat) : Bool := decide (c < 10) && c != 6 && c != 7

/-- The well-formedness check: true of every instruction the spec assigns. Events have no encoding and no ill-formed operand. -/
def Instr.wf : Instr → Bool
  | .add _ _ _ _ => true
  | .sub _ _ _ _ => true
  | .and _ _ _ _ => true
  | .or _ _ _ _ => true
  | .xor _ _ _ _ => true
  | .sll _ _ _ _ => true
  | .srl _ _ _ _ => true
  | .sra _ _ _ _ => true
  | .slt _ _ _ _ => true
  | .sltn _ _ _ _ => true
  | .min _ _ _ _ => true
  | .max _ _ _ _ => true
  | .minn _ _ _ _ => true
  | .maxn _ _ _ _ => true
  | .mul _ _ _ _ => true
  | .mulh _ _ _ _ => true
  | .mulhn _ _ _ _ => true
  | .div _ _ _ _ => true
  | .divn _ _ _ _ => true
  | .rem _ _ _ _ => true
  | .remn _ _ _ _ => true
  | .lea _ _ _ _ _ => true
  | .sel _ _ _ _ => true
  | .addi _ _ _ _ => true
  | .andi _ _ _ _ => true
  | .ori _ _ _ _ => true
  | .xori _ _ _ _ => true
  | .slti _ _ _ _ => true
  | .sltni _ _ _ _ => true
  | .slli _ _ _ _ => true
  | .srli _ _ _ _ => true
  | .srai _ _ _ _ => true
  | .lui _ _ => true
  | .adpc _ _ => true
  | .clz _ _ _ => true
  | .ctz _ _ _ => true
  | .popc _ _ _ => true
  | .sxb _ _ _ => true
  | .sxh _ _ _ => true
  | .sxw _ _ _ => true
  | .zxb _ _ _ => true
  | .zxh _ _ _ => true
  | .zxw _ _ _ => true
  | .bexs _ _ _ _ _ => true
  | .bexn _ _ _ _ _ => true
  | .bins _ _ _ _ _ => true
  | .psetEq _ _ _ _ => true
  | .psetNe _ _ _ _ => true
  | .psetLt _ _ _ _ => true
  | .psetGe _ _ _ _ => true
  | .psetLtn _ _ _ _ => true
  | .psetGen _ _ _ _ => true
  | .pand _ _ _ _ => true
  | .por _ _ _ _ => true
  | .pnot _ _ _ => true
  | .pmovToPredicate _ _ _ => true
  | .pmovFromPredicate _ _ _ => true
  | .beq _ _ _ => true
  | .bne _ _ _ => true
  | .blt _ _ _ => true
  | .bge _ _ _ => true
  | .bltn _ _ _ => true
  | .bgen _ _ _ => true
  | .bpt _ _ => true
  | .bpf _ _ => true
  | .jal _ _ => true
  | .jalr _ _ _ _ => true
  | .loop _ imm _ => imm != 0
  | .done _ => true
  | .sys _ _ => true
  | .tret _ => true
  | .brk _ _ => true
  | .ctlrd _ _ => true
  | .ctlwr _ _ _ => true
  | .ctlset _ _ _ => true
  | .ctlclr _ _ _ => true
  | .ld _ _ _ _ _ => true
  | .ldn _ _ _ _ _ => true
  | .fld _ _ _ _ _ => true
  | .st _ _ _ _ _ => true
  | .fst _ _ _ _ _ => true
  | .ldsync _ _ _ => true
  | .ldtake _ _ _ => true
  | .stfill _ _ _ => true
  | .feclr _ _ _ => true
  | .stnib _ _ _ _ => true
  | .amoAdd _ _ _ _ _ _ _ => true
  | .amoAnd _ _ _ _ _ _ _ => true
  | .amoOr _ _ _ _ _ _ _ => true
  | .amoXor _ _ _ _ _ _ _ => true
  | .amoMin _ _ _ _ _ _ _ => true
  | .amoMax _ _ _ _ _ _ _ => true
  | .amoMinn _ _ _ _ _ _ _ => true
  | .amoMaxn _ _ _ _ _ _ _ => true
  | .amoSwap _ _ _ _ _ _ _ => true
  | .amoCas _ _ _ _ _ _ _ => true
  | .amoFadd _ _ _ _ _ _ _ => true
  | .amoFmax _ _ _ _ _ _ _ => true
  | .fence _ _ _ _ => true
  | .acq _ _ => true
  | .rel _ _ => true
  | .l1inv _ => true
  | .l2wb _ _ => true
  | .l2zero _ _ => true
  | .pfetch _ _ => true
  | .wfa _ _ _ m _ => fmt2Ok m
  | .wfp _ _ _ m _ => fmt2Ok m
  | .arr _ _ _ m _ => fmt2Ok m
  | .arrx _ _ _ m _ => fmt2Ok m
  | .gjoin _ _ => true
  | .gleave _ _ => true
  | .gcontrib _ _ _ => true
  | .gread _ _ _ => true
  | .inv _ _ _ _ => true
  | .invp _ _ _ => true
  | .reply _ _ => true
  | .replyDatum _ _ => true
  | .replyLocalPromise _ _ _ => true
  | .replyDatumLocalPromise _ _ _ => true
  | .rbreak _ _ => true
  | .rbreakLocalPromise _ _ _ => true
  | .spawn _ _ _ => true
  | .hnew _ _ => true
  | .hdrop _ _ => true
  | .hstat _ _ _ => true
  | .when _ _ _ => true
  | .tmset _ _ _ => true
  | .tmclr _ _ => true
  | .xsrcLocal _ _ _ => true
  | .xsrcImageBase _ _ => true
  | .xsrcRemote _ _ _ _ => true
  | .xdstLocal _ _ _ => true
  | .xdstImageBase _ _ => true
  | .xdstRing _ _ => true
  | .xdstRemote _ _ _ _ => true
  | .xset _ _ _ => true
  | .xsetPost _ _ _ => true
  | .xsetAct _ _ _ => true
  | .xsetChain _ _ => true
  | .xgo _ _ => true
  | .xloop _ _ _ _ => true
  | .xrel _ _ => true
  | .xarm _ _ _ _ => true
  | .xstat _ _ _ => true
  | .xcancel _ _ _ => true
  | .fadd _ _ _ m _ => fmt2Ok m
  | .fsub _ _ _ m _ => fmt2Ok m
  | .fmul _ _ _ m _ => fmt2Ok m
  | .fmin _ _ _ m _ => fmt2Ok m
  | .fmax _ _ _ m _ => fmt2Ok m
  | .fabs _ _ m _ => fmt2Ok m
  | .fneg _ _ m _ => fmt2Ok m
  | .fsel _ _ _ m _ => fmt2Ok m
  | .fmv _ _ m _ => fmt2Ok m
  | .fdiv _ _ _ m _ => fmt2Ok m
  | .fsqrt _ _ m _ => fmt2Ok m
  | .fma _ _ _ _ f _ => fmt2Ok f
  | .fnma _ _ _ _ f _ => fmt2Ok f
  | .frcp _ _ m _ => fmt2Ok m
  | .frsq _ _ m _ => fmt2Ok m
  | .fexp2 _ _ m _ => fmt2Ok m
  | .flog2 _ _ m _ => fmt2Ok m
  | .fsum _ _ m _ => fmt2Ok m
  | .fmaxr _ _ m _ => fmt2Ok m
  | .fcmp _ _ _ _ m _ => fmt2Ok m
  | .fcvt _ _ u r t _ => cvtFmtOk t.toNat && cvtFmtOk u.toNat && decide (r.toNat < 6)
  | .sscfg _ _ _ m _ => fmt2Ok m
  | .ssen _ _ => true
  | .ssdis _ _ _ => true
  | .fpack _ _ _ m _ => m == 1 || m == 2
  | .funpack _ _ _ m _ => m == 1 || m == 2
  | .fshuf _ _ _ m _ => fmt2Ok m
  | .mring _ _ _ => true
  | .mringScale _ _ _ _ => true
  | .mma _ _ m _ => fmt2Ok m
  | .mmaq _ _ _ m _ => decide (m.toNat < 2)
  | .mzero _ => true
  | .mswap _ => true
  | .mepi _ _ => true
  | .mtopk _ _ _ => true
  | .mseed _ _ => true
  | .mstat _ _ _ => true
  | .merLoadTile _ _ _ => true
  | .merLoadCand _ _ _ => true
  | .merCap _ _ => true
  | .merCapAll _ _ => true
  | .merCfg _ _ _ => true
  | .merGo _ _ => true
  | .merStat _ _ => true
  | .merOut _ _ _ => true
  | .merBias _ _ _ => true
  | .merBiasAdd _ _ _ => true
  | .merBiasCopy _ _ _ => true
  | .merSnap _ _ _ => true
  | .merSnapBias _ _ _ => true
  | .lqPush _ _ _ => true
  | .lqStat _ _ _ => true
  | .evSig _ _ _ => true
  | .evSigSet _ _ _ => true
  | .cqPop _ _ _ _ => true
  | .cqPopAct _ _ _ _ => true
  | .rfence _ _ => true
  | .rflush _ _ _ => true
  | .svResume _ _ _ => true
  | .svResumeX10 _ _ _ _ => true
  | .svBreak _ _ _ => true
  | .svFreeze _ _ _ => true
  | .svThaw _ _ _ => true
  | .svSave _ _ _ _ => true
  | .svLoad _ _ _ _ => true
  | .tlbinv _ _ _ _ => true
  | .cMv rd rb => !(rd == 0 && rb == 0)
  | .cAdd _ _ => true
  | .cSub _ _ => true
  | .cAddi _ _ => true
  | .cLi _ _ => true
  | .cAnd _ _ => true
  | .cOr _ _ => true
  | .cSlli _ _ => true
  | .cSrli _ _ => true
  | .cLd _ _ _ => true
  | .cSd _ _ _ => true
  | .cBeqz _ _ => true
  | .cBnez _ _ => true
  | .cJ _ => true
  | .cDone => true
  | .divideResult => true
  | .loadDataReturn => true
  | .storePerformedAtHome => true
  | .invocationArrival => true
  | .forwardedInvocationArrival => true
  | .tableEntryWaitRelease => true
  | .inboxCellAssignment => true
  | .activationAdmission => true
  | .resolutionNotice => true
  | .locationNotice => true
  | .watchRequest => true
  | .whenNotice => true
  | .releaseNotice => true
  | .reservationRequest => true
  | .reservationGrant => true
  | .creditReturn => true
  | .reservationBlockReturn => true
  | .runLimitExpiry => true
  | .slotWake => true
  | .copyCommandStart => true
  | .copyItem => true
  | .copyCompletion => true
  | .loopIterationStart => true
  | .triggeredCopyFire => true
  | .fdivFsqrtResult => true
  | .matrixGrant => true
  | .matrixStepRetire => true
  | .matrixQueueCommandPerform => true
  | .epilogueComplete => true
  | .governorWindowEnd => true
  | .auctionTake => true
  | .auctionRound => true
  | .launchRecordTake => true
  | .launchExpansionSend => true
  | .activationEndNotice => true
  | .completionRecordWrite => true
  | .cqArmFire => true
  | .sliceExpiry => true
  | .windowPortTake => true
  | .windowArrival => true
  | .windowAnswer => true
  | .placementTimeout => true
  | .getReply => true
  | .receiveEntryStateWrite => true
  | .closeNotice => true
  | .closeAnswer => true
  | .closeTimeout => true
  | .farResendTimer => true
  | .tombstoneExpiry => true
  | .queuePairResend => true
  | .rateIncrease => true
  | .flitReceive => true
  | .linkRetrain => true
  | .linkRekeyMarker => true
  | .groupContribution => true
  | .groupResult => true
  | .groupSlotTimeout => true
  | .translationWalk => true
  | .pageMonitorWake => true
  | .monitorPoll => true
  | .shootdownComplete => true
  | .bankRegisterWrite => true
  | .bankRoleDrainComplete => true
  | .translationRootWrite => true
  | .sequenceAreaBaseWrite => true
  | .l2LineEviction => true
  | .patrolScrub => true
  | .containmentResetGo => true
  | .containmentResetComplete => true
  | .mailboxLoadkey => true
  | .mailboxErasekey => true
  | .mailboxLinkkey => true
  | .mailboxFlowkey => true
  | .mailboxJobstart => true
  | .mailboxJobend => true
  | .mailboxExtend => true
  | .mailboxInvalidOp => true
  | .mailboxRequestComplete => true
  | .watchdogExpiry => true
  | .thermalThreshold => true
  | .chipReset => true
  | .timeCorrection => true
  | .clusterPowerRequest => true
  | .clusterPowerChangeComplete => true
  | .launchQueueConfigWrite => true
  | .sliceRegisterWrite => true
  | .configRegisterWrite => true
  | .illegalInstruction => true
  | .instructionFetchFault => true
  | .astrolabeMemoryError => true

/-- Does the instruction have a word of its own (false of the steps of the other agents)? -/
def Instr.encoded : Instr → Bool
  | .add _ _ _ _ => true
  | .sub _ _ _ _ => true
  | .and _ _ _ _ => true
  | .or _ _ _ _ => true
  | .xor _ _ _ _ => true
  | .sll _ _ _ _ => true
  | .srl _ _ _ _ => true
  | .sra _ _ _ _ => true
  | .slt _ _ _ _ => true
  | .sltn _ _ _ _ => true
  | .min _ _ _ _ => true
  | .max _ _ _ _ => true
  | .minn _ _ _ _ => true
  | .maxn _ _ _ _ => true
  | .mul _ _ _ _ => true
  | .mulh _ _ _ _ => true
  | .mulhn _ _ _ _ => true
  | .div _ _ _ _ => true
  | .divn _ _ _ _ => true
  | .rem _ _ _ _ => true
  | .remn _ _ _ _ => true
  | .lea _ _ _ _ _ => true
  | .sel _ _ _ _ => true
  | .addi _ _ _ _ => true
  | .andi _ _ _ _ => true
  | .ori _ _ _ _ => true
  | .xori _ _ _ _ => true
  | .slti _ _ _ _ => true
  | .sltni _ _ _ _ => true
  | .slli _ _ _ _ => true
  | .srli _ _ _ _ => true
  | .srai _ _ _ _ => true
  | .lui _ _ => true
  | .adpc _ _ => true
  | .clz _ _ _ => true
  | .ctz _ _ _ => true
  | .popc _ _ _ => true
  | .sxb _ _ _ => true
  | .sxh _ _ _ => true
  | .sxw _ _ _ => true
  | .zxb _ _ _ => true
  | .zxh _ _ _ => true
  | .zxw _ _ _ => true
  | .bexs _ _ _ _ _ => true
  | .bexn _ _ _ _ _ => true
  | .bins _ _ _ _ _ => true
  | .psetEq _ _ _ _ => true
  | .psetNe _ _ _ _ => true
  | .psetLt _ _ _ _ => true
  | .psetGe _ _ _ _ => true
  | .psetLtn _ _ _ _ => true
  | .psetGen _ _ _ _ => true
  | .pand _ _ _ _ => true
  | .por _ _ _ _ => true
  | .pnot _ _ _ => true
  | .pmovToPredicate _ _ _ => true
  | .pmovFromPredicate _ _ _ => true
  | .beq _ _ _ => true
  | .bne _ _ _ => true
  | .blt _ _ _ => true
  | .bge _ _ _ => true
  | .bltn _ _ _ => true
  | .bgen _ _ _ => true
  | .bpt _ _ => true
  | .bpf _ _ => true
  | .jal _ _ => true
  | .jalr _ _ _ _ => true
  | .loop _ _ _ => true
  | .done _ => true
  | .sys _ _ => true
  | .tret _ => true
  | .brk _ _ => true
  | .ctlrd _ _ => true
  | .ctlwr _ _ _ => true
  | .ctlset _ _ _ => true
  | .ctlclr _ _ _ => true
  | .ld _ _ _ _ _ => true
  | .ldn _ _ _ _ _ => true
  | .fld _ _ _ _ _ => true
  | .st _ _ _ _ _ => true
  | .fst _ _ _ _ _ => true
  | .ldsync _ _ _ => true
  | .ldtake _ _ _ => true
  | .stfill _ _ _ => true
  | .feclr _ _ _ => true
  | .stnib _ _ _ _ => true
  | .amoAdd _ _ _ _ _ _ _ => true
  | .amoAnd _ _ _ _ _ _ _ => true
  | .amoOr _ _ _ _ _ _ _ => true
  | .amoXor _ _ _ _ _ _ _ => true
  | .amoMin _ _ _ _ _ _ _ => true
  | .amoMax _ _ _ _ _ _ _ => true
  | .amoMinn _ _ _ _ _ _ _ => true
  | .amoMaxn _ _ _ _ _ _ _ => true
  | .amoSwap _ _ _ _ _ _ _ => true
  | .amoCas _ _ _ _ _ _ _ => true
  | .amoFadd _ _ _ _ _ _ _ => true
  | .amoFmax _ _ _ _ _ _ _ => true
  | .fence _ _ _ _ => true
  | .acq _ _ => true
  | .rel _ _ => true
  | .l1inv _ => true
  | .l2wb _ _ => true
  | .l2zero _ _ => true
  | .pfetch _ _ => true
  | .wfa _ _ _ _ _ => true
  | .wfp _ _ _ _ _ => true
  | .arr _ _ _ _ _ => true
  | .arrx _ _ _ _ _ => true
  | .gjoin _ _ => true
  | .gleave _ _ => true
  | .gcontrib _ _ _ => true
  | .gread _ _ _ => true
  | .inv _ _ _ _ => true
  | .invp _ _ _ => true
  | .reply _ _ => true
  | .replyDatum _ _ => true
  | .replyLocalPromise _ _ _ => true
  | .replyDatumLocalPromise _ _ _ => true
  | .rbreak _ _ => true
  | .rbreakLocalPromise _ _ _ => true
  | .spawn _ _ _ => true
  | .hnew _ _ => true
  | .hdrop _ _ => true
  | .hstat _ _ _ => true
  | .when _ _ _ => true
  | .tmset _ _ _ => true
  | .tmclr _ _ => true
  | .xsrcLocal _ _ _ => true
  | .xsrcImageBase _ _ => true
  | .xsrcRemote _ _ _ _ => true
  | .xdstLocal _ _ _ => true
  | .xdstImageBase _ _ => true
  | .xdstRing _ _ => true
  | .xdstRemote _ _ _ _ => true
  | .xset _ _ _ => true
  | .xsetPost _ _ _ => true
  | .xsetAct _ _ _ => true
  | .xsetChain _ _ => true
  | .xgo _ _ => true
  | .xloop _ _ _ _ => true
  | .xrel _ _ => true
  | .xarm _ _ _ _ => true
  | .xstat _ _ _ => true
  | .xcancel _ _ _ => true
  | .fadd _ _ _ _ _ => true
  | .fsub _ _ _ _ _ => true
  | .fmul _ _ _ _ _ => true
  | .fmin _ _ _ _ _ => true
  | .fmax _ _ _ _ _ => true
  | .fabs _ _ _ _ => true
  | .fneg _ _ _ _ => true
  | .fsel _ _ _ _ _ => true
  | .fmv _ _ _ _ => true
  | .fdiv _ _ _ _ _ => true
  | .fsqrt _ _ _ _ => true
  | .fma _ _ _ _ _ _ => true
  | .fnma _ _ _ _ _ _ => true
  | .frcp _ _ _ _ => true
  | .frsq _ _ _ _ => true
  | .fexp2 _ _ _ _ => true
  | .flog2 _ _ _ _ => true
  | .fsum _ _ _ _ => true
  | .fmaxr _ _ _ _ => true
  | .fcmp _ _ _ _ _ _ => true
  | .fcvt _ _ _ _ _ _ => true
  | .sscfg _ _ _ _ _ => true
  | .ssen _ _ => true
  | .ssdis _ _ _ => true
  | .fpack _ _ _ _ _ => true
  | .funpack _ _ _ _ _ => true
  | .fshuf _ _ _ _ _ => true
  | .mring _ _ _ => true
  | .mringScale _ _ _ _ => true
  | .mma _ _ _ _ => true
  | .mmaq _ _ _ _ _ => true
  | .mzero _ => true
  | .mswap _ => true
  | .mepi _ _ => true
  | .mtopk _ _ _ => true
  | .mseed _ _ => true
  | .mstat _ _ _ => true
  | .merLoadTile _ _ _ => true
  | .merLoadCand _ _ _ => true
  | .merCap _ _ => true
  | .merCapAll _ _ => true
  | .merCfg _ _ _ => true
  | .merGo _ _ => true
  | .merStat _ _ => true
  | .merOut _ _ _ => true
  | .merBias _ _ _ => true
  | .merBiasAdd _ _ _ => true
  | .merBiasCopy _ _ _ => true
  | .merSnap _ _ _ => true
  | .merSnapBias _ _ _ => true
  | .lqPush _ _ _ => true
  | .lqStat _ _ _ => true
  | .evSig _ _ _ => true
  | .evSigSet _ _ _ => true
  | .cqPop _ _ _ _ => true
  | .cqPopAct _ _ _ _ => true
  | .rfence _ _ => true
  | .rflush _ _ _ => true
  | .svResume _ _ _ => true
  | .svResumeX10 _ _ _ _ => true
  | .svBreak _ _ _ => true
  | .svFreeze _ _ _ => true
  | .svThaw _ _ _ => true
  | .svSave _ _ _ _ => true
  | .svLoad _ _ _ _ => true
  | .tlbinv _ _ _ _ => true
  | .cMv _ _ => true
  | .cAdd _ _ => true
  | .cSub _ _ => true
  | .cAddi _ _ => true
  | .cLi _ _ => true
  | .cAnd _ _ => true
  | .cOr _ _ => true
  | .cSlli _ _ => true
  | .cSrli _ _ => true
  | .cLd _ _ _ => true
  | .cSd _ _ _ => true
  | .cBeqz _ _ => true
  | .cBnez _ _ => true
  | .cJ _ => true
  | .cDone => true
  | .divideResult => false
  | .loadDataReturn => false
  | .storePerformedAtHome => false
  | .invocationArrival => false
  | .forwardedInvocationArrival => false
  | .tableEntryWaitRelease => false
  | .inboxCellAssignment => false
  | .activationAdmission => false
  | .resolutionNotice => false
  | .locationNotice => false
  | .watchRequest => false
  | .whenNotice => false
  | .releaseNotice => false
  | .reservationRequest => false
  | .reservationGrant => false
  | .creditReturn => false
  | .reservationBlockReturn => false
  | .runLimitExpiry => false
  | .slotWake => false
  | .copyCommandStart => false
  | .copyItem => false
  | .copyCompletion => false
  | .loopIterationStart => false
  | .triggeredCopyFire => false
  | .fdivFsqrtResult => false
  | .matrixGrant => false
  | .matrixStepRetire => false
  | .matrixQueueCommandPerform => false
  | .epilogueComplete => false
  | .governorWindowEnd => false
  | .auctionTake => false
  | .auctionRound => false
  | .launchRecordTake => false
  | .launchExpansionSend => false
  | .activationEndNotice => false
  | .completionRecordWrite => false
  | .cqArmFire => false
  | .sliceExpiry => false
  | .windowPortTake => false
  | .windowArrival => false
  | .windowAnswer => false
  | .placementTimeout => false
  | .getReply => false
  | .receiveEntryStateWrite => false
  | .closeNotice => false
  | .closeAnswer => false
  | .closeTimeout => false
  | .farResendTimer => false
  | .tombstoneExpiry => false
  | .queuePairResend => false
  | .rateIncrease => false
  | .flitReceive => false
  | .linkRetrain => false
  | .linkRekeyMarker => false
  | .groupContribution => false
  | .groupResult => false
  | .groupSlotTimeout => false
  | .translationWalk => false
  | .pageMonitorWake => false
  | .monitorPoll => false
  | .shootdownComplete => false
  | .bankRegisterWrite => false
  | .bankRoleDrainComplete => false
  | .translationRootWrite => false
  | .sequenceAreaBaseWrite => false
  | .l2LineEviction => false
  | .patrolScrub => false
  | .containmentResetGo => false
  | .containmentResetComplete => false
  | .mailboxLoadkey => false
  | .mailboxErasekey => false
  | .mailboxLinkkey => false
  | .mailboxFlowkey => false
  | .mailboxJobstart => false
  | .mailboxJobend => false
  | .mailboxExtend => false
  | .mailboxInvalidOp => false
  | .mailboxRequestComplete => false
  | .watchdogExpiry => false
  | .thermalThreshold => false
  | .chipReset => false
  | .timeCorrection => false
  | .clusterPowerRequest => false
  | .clusterPowerChangeComplete => false
  | .launchQueueConfigWrite => false
  | .sliceRegisterWrite => false
  | .configRegisterWrite => false
  | .illegalInstruction => false
  | .instructionFetchFault => false
  | .astrolabeMemoryError => false

end Sys2Proof
end

