-- ==== Sys2Proof/Decode.lean ====
section
/-! DEFINITION. The decoder: total on any bytes, one function per major opcode (R61 to R66), rejecting by name; and after it the encoder, written from the same rows. -/

namespace Sys2Proof

/-- Bits [lo+n-1 : lo] of `w` as a number. -/
def bits (w lo n : Nat) : Nat := w / 2 ^ lo % 2 ^ n

/-- Bits [lo+n-1 : lo] of `w` as a field. -/
def fld (w lo n : Nat) : BitVec n := BitVec.ofNat n (w / 2 ^ lo)

/-- Major 0x01: R81, R82. -/
def decMajor01 (w : Nat) : Option Instr :=
  if bits w 25 7 = 0 then some (.add (fld w 7 5) (fld w 12 5) (fld w 17 5) (fld w 22 3)) else
  if bits w 25 7 = 1 then some (.sub (fld w 7 5) (fld w 12 5) (fld w 17 5) (fld w 22 3)) else
  if bits w 25 7 = 2 then some (.and (fld w 7 5) (fld w 12 5) (fld w 17 5) (fld w 22 3)) else
  if bits w 25 7 = 3 then some (.or (fld w 7 5) (fld w 12 5) (fld w 17 5) (fld w 22 3)) else
  if bits w 25 7 = 4 then some (.xor (fld w 7 5) (fld w 12 5) (fld w 17 5) (fld w 22 3)) else
  if bits w 25 7 = 5 then some (.sll (fld w 7 5) (fld w 12 5) (fld w 17 5) (fld w 22 3)) else
  if bits w 25 7 = 6 then some (.srl (fld w 7 5) (fld w 12 5) (fld w 17 5) (fld w 22 3)) else
  if bits w 25 7 = 7 then some (.sra (fld w 7 5) (fld w 12 5) (fld w 17 5) (fld w 22 3)) else
  if bits w 25 7 = 8 then some (.slt (fld w 7 5) (fld w 12 5) (fld w 17 5) (fld w 22 3)) else
  if bits w 25 7 = 9 then some (.sltn (fld w 7 5) (fld w 12 5) (fld w 17 5) (fld w 22 3)) else
  if bits w 25 7 = 10 then some (.min (fld w 7 5) (fld w 12 5) (fld w 17 5) (fld w 22 3)) else
  if bits w 25 7 = 11 then some (.max (fld w 7 5) (fld w 12 5) (fld w 17 5) (fld w 22 3)) else
  if bits w 25 7 = 12 then some (.minn (fld w 7 5) (fld w 12 5) (fld w 17 5) (fld w 22 3)) else
  if bits w 25 7 = 13 then some (.maxn (fld w 7 5) (fld w 12 5) (fld w 17 5) (fld w 22 3)) else
  if bits w 25 7 = 14 then some (.mul (fld w 7 5) (fld w 12 5) (fld w 17 5) (fld w 22 3)) else
  if bits w 25 7 = 15 then some (.mulh (fld w 7 5) (fld w 12 5) (fld w 17 5) (fld w 22 3)) else
  if bits w 25 7 = 16 then some (.mulhn (fld w 7 5) (fld w 12 5) (fld w 17 5) (fld w 22 3)) else
  if bits w 25 7 = 17 then some (.div (fld w 7 5) (fld w 12 5) (fld w 17 5) (fld w 22 3)) else
  if bits w 25 7 = 18 then some (.divn (fld w 7 5) (fld w 12 5) (fld w 17 5) (fld w 22 3)) else
  if bits w 25 7 = 19 then some (.rem (fld w 7 5) (fld w 12 5) (fld w 17 5) (fld w 22 3)) else
  if bits w 25 7 = 20 then some (.remn (fld w 7 5) (fld w 12 5) (fld w 17 5) (fld w 22 3)) else
  if bits w 25 5 = 21 then some (.lea (fld w 7 5) (fld w 12 5) (fld w 17 5) (fld w 30 2) (fld w 22 3)) else
  if bits w 25 7 = 22 then some (.sel (fld w 7 5) (fld w 12 5) (fld w 17 5) (fld w 22 3)) else
  none

/-- Major 0x02: R83. -/
def decMajor02 (w : Nat) : Option Instr :=
  some (.addi (fld w 7 5) (fld w 12 5) (fld w 20 12) (fld w 17 3))

/-- Major 0x03: R83. -/
def decMajor03 (w : Nat) : Option Instr :=
  some (.andi (fld w 7 5) (fld w 12 5) (fld w 20 12) (fld w 17 3))

/-- Major 0x04: R83. -/
def decMajor04 (w : Nat) : Option Instr :=
  some (.ori (fld w 7 5) (fld w 12 5) (fld w 20 12) (fld w 17 3))

/-- Major 0x05: R83. -/
def decMajor05 (w : Nat) : Option Instr :=
  some (.xori (fld w 7 5) (fld w 12 5) (fld w 20 12) (fld w 17 3))

/-- Major 0x06: R83. -/
def decMajor06 (w : Nat) : Option Instr :=
  some (.slti (fld w 7 5) (fld w 12 5) (fld w 20 12) (fld w 17 3))

/-- Major 0x07: R83. -/
def decMajor07 (w : Nat) : Option Instr :=
  some (.sltni (fld w 7 5) (fld w 12 5) (fld w 20 12) (fld w 17 3))

/-- Major 0x08: R84. -/
def decMajor08 (w : Nat) : Option Instr :=
  if bits w 26 6 = 0 then some (.slli (fld w 7 5) (fld w 12 5) (fld w 20 6) (fld w 17 3)) else
  if bits w 26 6 = 16 then some (.srli (fld w 7 5) (fld w 12 5) (fld w 20 6) (fld w 17 3)) else
  if bits w 26 6 = 32 then some (.srai (fld w 7 5) (fld w 12 5) (fld w 20 6) (fld w 17 3)) else
  none

/-- Major 0x09: R85. -/
def decMajor09 (w : Nat) : Option Instr :=
  some (.lui (fld w 7 5) (fld w 12 20))

/-- Major 0x0A: R86. -/
def decMajor0A (w : Nat) : Option Instr :=
  some (.adpc (fld w 7 5) (fld w 12 20))

/-- Major 0x0B: R87. -/
def decMajor0B (w : Nat) : Option Instr :=
  if bits w 17 5 = 0 ∧ bits w 25 7 = 0 then some (.clz (fld w 7 5) (fld w 12 5) (fld w 22 3)) else
  if bits w 17 5 = 0 ∧ bits w 25 7 = 1 then some (.ctz (fld w 7 5) (fld w 12 5) (fld w 22 3)) else
  if bits w 17 5 = 0 ∧ bits w 25 7 = 2 then some (.popc (fld w 7 5) (fld w 12 5) (fld w 22 3)) else
  if bits w 17 5 = 0 ∧ bits w 25 7 = 3 then some (.sxb (fld w 7 5) (fld w 12 5) (fld w 22 3)) else
  if bits w 17 5 = 0 ∧ bits w 25 7 = 4 then some (.sxh (fld w 7 5) (fld w 12 5) (fld w 22 3)) else
  if bits w 17 5 = 0 ∧ bits w 25 7 = 5 then some (.sxw (fld w 7 5) (fld w 12 5) (fld w 22 3)) else
  if bits w 17 5 = 0 ∧ bits w 25 7 = 6 then some (.zxb (fld w 7 5) (fld w 12 5) (fld w 22 3)) else
  if bits w 17 5 = 0 ∧ bits w 25 7 = 7 then some (.zxh (fld w 7 5) (fld w 12 5) (fld w 22 3)) else
  if bits w 17 5 = 0 ∧ bits w 25 7 = 8 then some (.zxw (fld w 7 5) (fld w 12 5) (fld w 22 3)) else
  none

/-- Major 0x0C: R88. -/
def decMajor0C (w : Nat) : Option Instr :=
  some (.bexs (fld w 7 5) (fld w 12 5) (fld w 20 6) (fld w 26 6) (fld w 17 3))

/-- Major 0x0D: R88. -/
def decMajor0D (w : Nat) : Option Instr :=
  some (.bexn (fld w 7 5) (fld w 12 5) (fld w 20 6) (fld w 26 6) (fld w 17 3))

/-- Major 0x0E: R88. -/
def decMajor0E (w : Nat) : Option Instr :=
  some (.bins (fld w 7 5) (fld w 12 5) (fld w 20 6) (fld w 26 6) (fld w 17 3))

/-- Major 0x0F: R89. -/
def decMajor0F (w : Nat) : Option Instr :=
  if bits w 10 2 = 0 ∧ bits w 25 7 = 0 then some (.psetEq (fld w 7 3) (fld w 12 5) (fld w 17 5) (fld w 22 3)) else
  if bits w 10 2 = 0 ∧ bits w 25 7 = 1 then some (.psetNe (fld w 7 3) (fld w 12 5) (fld w 17 5) (fld w 22 3)) else
  if bits w 10 2 = 0 ∧ bits w 25 7 = 2 then some (.psetLt (fld w 7 3) (fld w 12 5) (fld w 17 5) (fld w 22 3)) else
  if bits w 10 2 = 0 ∧ bits w 25 7 = 3 then some (.psetGe (fld w 7 3) (fld w 12 5) (fld w 17 5) (fld w 22 3)) else
  if bits w 10 2 = 0 ∧ bits w 25 7 = 4 then some (.psetLtn (fld w 7 3) (fld w 12 5) (fld w 17 5) (fld w 22 3)) else
  if bits w 10 2 = 0 ∧ bits w 25 7 = 5 then some (.psetGen (fld w 7 3) (fld w 12 5) (fld w 17 5) (fld w 22 3)) else
  if bits w 10 2 = 0 ∧ bits w 15 2 = 0 ∧ bits w 20 2 = 0 ∧ bits w 25 7 = 6 then some (.pand (fld w 7 3) (fld w 12 3) (fld w 17 3) (fld w 22 3)) else
  if bits w 10 2 = 0 ∧ bits w 15 2 = 0 ∧ bits w 20 2 = 0 ∧ bits w 25 7 = 7 then some (.por (fld w 7 3) (fld w 12 3) (fld w 17 3) (fld w 22 3)) else
  if bits w 10 2 = 0 ∧ bits w 15 7 = 0 ∧ bits w 25 7 = 8 then some (.pnot (fld w 7 3) (fld w 12 3) (fld w 22 3)) else
  if bits w 10 2 = 0 ∧ bits w 17 5 = 0 ∧ bits w 25 7 = 9 then some (.pmovToPredicate (fld w 7 3) (fld w 12 5) (fld w 22 3)) else
  if bits w 15 7 = 4 ∧ bits w 25 7 = 9 then some (.pmovFromPredicate (fld w 7 5) (fld w 12 3) (fld w 22 3)) else
  none

/-- Major 0x10: R90. -/
def decMajor10 (w : Nat) : Option Instr :=
  if bits w 7 3 = 0 then some (.beq (fld w 10 5) (fld w 15 5) (fld w 20 12)) else
  if bits w 7 3 = 1 then some (.bne (fld w 10 5) (fld w 15 5) (fld w 20 12)) else
  if bits w 7 3 = 2 then some (.blt (fld w 10 5) (fld w 15 5) (fld w 20 12)) else
  if bits w 7 3 = 3 then some (.bge (fld w 10 5) (fld w 15 5) (fld w 20 12)) else
  if bits w 7 3 = 4 then some (.bltn (fld w 10 5) (fld w 15 5) (fld w 20 12)) else
  if bits w 7 3 = 5 then some (.bgen (fld w 10 5) (fld w 15 5) (fld w 20 12)) else
  none

/-- Major 0x11: R91. -/
def decMajor11 (w : Nat) : Option Instr :=
  if bits w 10 2 = 0 then some (.bpt (fld w 7 3) (fld w 12 20)) else
  if bits w 10 2 = 1 then some (.bpf (fld w 7 3) (fld w 12 20)) else
  none

/-- Major 0x12: R92. -/
def decMajor12 (w : Nat) : Option Instr :=
  some (.jal (fld w 7 5) (fld w 12 20))

/-- Major 0x13: R93. -/
def decMajor13 (w : Nat) : Option Instr :=
  some (.jalr (fld w 7 5) (fld w 12 5) (fld w 20 12) (fld w 17 3))

/-- Major 0x14: R95. -/
def decMajor14 (w : Nat) : Option Instr :=
  if bits w 7 5 = 0 then some (.loop (fld w 12 5) (fld w 20 12) (fld w 17 3)) else
  none

/-- Major 0x15: R28, R118, R119. -/
def decMajor15 (w : Nat) : Option Instr :=
  if bits w 7 10 = 0 ∧ bits w 20 12 = 0 then some (.done (fld w 17 3)) else
  if bits w 7 10 = 0 ∧ bits w 20 2 = 1 then some (.sys (fld w 22 10) (fld w 17 3)) else
  if bits w 7 10 = 0 ∧ bits w 20 12 = 2 then some (.tret (fld w 17 3)) else
  if bits w 7 10 = 0 ∧ bits w 20 2 = 3 then some (.brk (fld w 22 10) (fld w 17 3)) else
  none

/-- Major 0x16: R120. -/
def decMajor16 (w : Nat) : Option Instr :=
  if bits w 12 8 = 0 then some (.ctlrd (fld w 7 5) (fld w 20 12)) else
  if bits w 17 3 = 1 then some (.ctlwr (fld w 7 5) (fld w 12 5) (fld w 20 12)) else
  if bits w 17 3 = 2 then some (.ctlset (fld w 7 5) (fld w 12 5) (fld w 20 12)) else
  if bits w 17 3 = 3 then some (.ctlclr (fld w 7 5) (fld w 12 5) (fld w 20 12)) else
  none

/-- Major 0x17: R178. -/
def decMajor17 (w : Nat) : Option Instr :=
  some (.ld (fld w 7 5) (fld w 12 5) (fld w 17 2) (fld w 22 10) (fld w 19 3))

/-- Major 0x18: R178. -/
def decMajor18 (w : Nat) : Option Instr :=
  some (.ldn (fld w 7 5) (fld w 12 5) (fld w 17 2) (fld w 22 10) (fld w 19 3))

/-- Major 0x19: R178. -/
def decMajor19 (w : Nat) : Option Instr :=
  some (.fld (fld w 7 5) (fld w 12 5) (fld w 17 2) (fld w 22 10) (fld w 19 3))

/-- Major 0x1A: R178. -/
def decMajor1A (w : Nat) : Option Instr :=
  some (.st (fld w 7 5) (fld w 12 5) (fld w 17 2) (fld w 22 10) (fld w 19 3))

/-- Major 0x1B: R178. -/
def decMajor1B (w : Nat) : Option Instr :=
  some (.fst (fld w 7 5) (fld w 12 5) (fld w 17 2) (fld w 22 10) (fld w 19 3))

/-- Major 0x1C: R180, R181. -/
def decMajor1C (w : Nat) : Option Instr :=
  if bits w 17 5 = 0 ∧ bits w 25 7 = 0 then some (.ldsync (fld w 7 5) (fld w 12 5) (fld w 22 3)) else
  if bits w 17 5 = 0 ∧ bits w 25 7 = 1 then some (.ldtake (fld w 7 5) (fld w 12 5) (fld w 22 3)) else
  if bits w 17 5 = 0 ∧ bits w 25 7 = 2 then some (.stfill (fld w 7 5) (fld w 12 5) (fld w 22 3)) else
  if bits w 7 5 = 0 ∧ bits w 25 7 = 3 then some (.feclr (fld w 12 5) (fld w 17 5) (fld w 22 3)) else
  none

/-- Major 0x1D: R184. -/
def decMajor1D (w : Nat) : Option Instr :=
  if bits w 25 7 = 0 then some (.stnib (fld w 7 5) (fld w 12 5) (fld w 17 5) (fld w 22 3)) else
  none

/-- Major 0x1E: R185, R186. -/
def decMajor1E (w : Nat) : Option Instr :=
  if bits w 25 5 = 0 then some (.amoAdd (fld w 7 5) (fld w 12 5) (fld w 17 5) (fld w 22 1) (fld w 23 1) (fld w 24 1) (fld w 30 2)) else
  if bits w 25 5 = 1 then some (.amoAnd (fld w 7 5) (fld w 12 5) (fld w 17 5) (fld w 22 1) (fld w 23 1) (fld w 24 1) (fld w 30 2)) else
  if bits w 25 5 = 2 then some (.amoOr (fld w 7 5) (fld w 12 5) (fld w 17 5) (fld w 22 1) (fld w 23 1) (fld w 24 1) (fld w 30 2)) else
  if bits w 25 5 = 3 then some (.amoXor (fld w 7 5) (fld w 12 5) (fld w 17 5) (fld w 22 1) (fld w 23 1) (fld w 24 1) (fld w 30 2)) else
  if bits w 25 5 = 4 then some (.amoMin (fld w 7 5) (fld w 12 5) (fld w 17 5) (fld w 22 1) (fld w 23 1) (fld w 24 1) (fld w 30 2)) else
  if bits w 25 5 = 5 then some (.amoMax (fld w 7 5) (fld w 12 5) (fld w 17 5) (fld w 22 1) (fld w 23 1) (fld w 24 1) (fld w 30 2)) else
  if bits w 25 5 = 6 then some (.amoMinn (fld w 7 5) (fld w 12 5) (fld w 17 5) (fld w 22 1) (fld w 23 1) (fld w 24 1) (fld w 30 2)) else
  if bits w 25 5 = 7 then some (.amoMaxn (fld w 7 5) (fld w 12 5) (fld w 17 5) (fld w 22 1) (fld w 23 1) (fld w 24 1) (fld w 30 2)) else
  if bits w 25 5 = 8 then some (.amoSwap (fld w 7 5) (fld w 12 5) (fld w 17 5) (fld w 22 1) (fld w 23 1) (fld w 24 1) (fld w 30 2)) else
  if bits w 25 5 = 9 then some (.amoCas (fld w 7 5) (fld w 12 5) (fld w 17 5) (fld w 22 1) (fld w 23 1) (fld w 24 1) (fld w 30 2)) else
  if bits w 25 5 = 10 then some (.amoFadd (fld w 7 5) (fld w 12 5) (fld w 17 5) (fld w 22 1) (fld w 23 1) (fld w 24 1) (fld w 30 2)) else
  if bits w 25 5 = 11 then some (.amoFmax (fld w 7 5) (fld w 12 5) (fld w 17 5) (fld w 22 1) (fld w 23 1) (fld w 24 1) (fld w 30 2)) else
  none

/-- Major 0x1F: R188, R189, R190, R191, R192. -/
def decMajor1F (w : Nat) : Option Instr :=
  if bits w 11 1 = 0 ∧ bits w 16 6 = 0 ∧ bits w 25 5 = 0 then some (.fence (fld w 7 4) (fld w 12 4) (fld w 30 2) (fld w 22 3)) else
  if bits w 7 15 = 0 ∧ bits w 25 5 = 1 then some (.acq (fld w 30 2) (fld w 22 3)) else
  if bits w 7 15 = 0 ∧ bits w 25 5 = 2 then some (.rel (fld w 30 2) (fld w 22 3)) else
  if bits w 7 15 = 0 ∧ bits w 25 7 = 3 then some (.l1inv (fld w 22 3)) else
  if bits w 7 5 = 0 ∧ bits w 17 5 = 0 ∧ bits w 25 7 = 4 then some (.l2wb (fld w 12 5) (fld w 22 3)) else
  if bits w 7 5 = 0 ∧ bits w 17 5 = 0 ∧ bits w 25 7 = 5 then some (.l2zero (fld w 12 5) (fld w 22 3)) else
  if bits w 7 5 = 0 ∧ bits w 17 5 = 0 ∧ bits w 25 7 = 6 then some (.pfetch (fld w 12 5) (fld w 22 3)) else
  none

/-- Major 0x20: R115. -/
def decMajor20 (w : Nat) : Option Instr :=
  if bits w 27 5 = 0 then some (.wfa (fld w 7 5) (fld w 12 5) (fld w 17 5) (fld w 25 2) (fld w 22 3)) else
  if bits w 27 5 = 1 then some (.wfp (fld w 7 5) (fld w 12 5) (fld w 17 5) (fld w 25 2) (fld w 22 3)) else
  if bits w 27 5 = 2 then some (.arr (fld w 7 5) (fld w 12 5) (fld w 17 5) (fld w 25 2) (fld w 22 3)) else
  if bits w 27 5 = 3 then some (.arrx (fld w 7 5) (fld w 12 5) (fld w 17 5) (fld w 25 2) (fld w 22 3)) else
  none

/-- Major 0x21: R117, R324, R325. -/
def decMajor21 (w : Nat) : Option Instr :=
  if bits w 7 5 = 0 ∧ bits w 27 5 = 0 then some (.gjoin (BitVec.ofNat 12 (bits w 25 2 * 1024 + bits w 12 10)) (fld w 22 3)) else
  if bits w 7 5 = 0 ∧ bits w 27 5 = 1 then some (.gleave (BitVec.ofNat 12 (bits w 25 2 * 1024 + bits w 12 10)) (fld w 22 3)) else
  if bits w 27 5 = 2 then some (.gcontrib (fld w 7 5) (BitVec.ofNat 12 (bits w 25 2 * 1024 + bits w 12 10)) (fld w 22 3)) else
  if bits w 27 5 = 3 then some (.gread (fld w 7 5) (BitVec.ofNat 12 (bits w 25 2 * 1024 + bits w 12 10)) (fld w 22 3)) else
  none

/-- Major 0x22: R101, R103, R104, R105, R106, R107, R108, R109, R110. -/
def decMajor22 (w : Nat) : Option Instr :=
  if bits w 25 7 = 0 then some (.inv (fld w 7 5) (fld w 12 5) (fld w 17 5) (fld w 22 3)) else
  if bits w 7 5 = 0 ∧ bits w 25 7 = 4 then some (.invp (fld w 12 5) (fld w 17 5) (fld w 22 3)) else
  if bits w 7 5 = 0 ∧ bits w 17 5 = 0 ∧ bits w 25 7 = 8 then some (.reply (fld w 12 5) (fld w 22 3)) else
  if bits w 7 5 = 0 ∧ bits w 17 5 = 0 ∧ bits w 25 7 = 9 then some (.replyDatum (fld w 12 5) (fld w 22 3)) else
  if bits w 7 5 = 0 ∧ bits w 25 7 = 10 then some (.replyLocalPromise (fld w 12 5) (fld w 17 5) (fld w 22 3)) else
  if bits w 7 5 = 0 ∧ bits w 25 7 = 11 then some (.replyDatumLocalPromise (fld w 12 5) (fld w 17 5) (fld w 22 3)) else
  if bits w 7 5 = 0 ∧ bits w 17 5 = 0 ∧ bits w 25 7 = 12 then some (.rbreak (fld w 12 5) (fld w 22 3)) else
  if bits w 7 5 = 0 ∧ bits w 25 7 = 13 then some (.rbreakLocalPromise (fld w 12 5) (fld w 17 5) (fld w 22 3)) else
  if bits w 7 5 = 0 ∧ bits w 25 7 = 16 then some (.spawn (fld w 12 5) (fld w 17 5) (fld w 22 3)) else
  if bits w 12 10 = 0 ∧ bits w 25 7 = 20 then some (.hnew (fld w 7 5) (fld w 22 3)) else
  if bits w 7 5 = 0 ∧ bits w 17 5 = 0 ∧ bits w 25 7 = 24 then some (.hdrop (fld w 12 5) (fld w 22 3)) else
  if bits w 17 5 = 0 ∧ bits w 25 7 = 28 then some (.hstat (fld w 7 5) (fld w 12 5) (fld w 22 3)) else
  if bits w 7 5 = 0 ∧ bits w 25 7 = 32 then some (.when (fld w 12 5) (fld w 17 5) (fld w 22 3)) else
  none

/-- Major 0x23: R244, R250, R251, R252, R253, R254. -/
def decMajor23 (w : Nat) : Option Instr :=
  if bits w 11 1 = 0 ∧ bits w 17 5 = 0 ∧ bits w 25 7 = 0 then some (.tmset (fld w 7 4) (fld w 12 5) (fld w 22 3)) else
  if bits w 11 11 = 0 ∧ bits w 25 7 = 4 then some (.tmclr (fld w 7 4) (fld w 22 3)) else
  if bits w 11 1 = 0 ∧ bits w 17 5 = 0 ∧ bits w 25 7 = 8 then some (.xsrcLocal (fld w 7 4) (fld w 12 5) (fld w 22 3)) else
  if bits w 11 11 = 0 ∧ bits w 25 7 = 9 then some (.xsrcImageBase (fld w 7 4) (fld w 22 3)) else
  if bits w 11 1 = 0 ∧ bits w 25 7 = 11 then some (.xsrcRemote (fld w 7 4) (fld w 12 5) (fld w 17 5) (fld w 22 3)) else
  if bits w 11 1 = 0 ∧ bits w 17 5 = 0 ∧ bits w 25 7 = 12 then some (.xdstLocal (fld w 7 4) (fld w 12 5) (fld w 22 3)) else
  if bits w 11 11 = 0 ∧ bits w 25 7 = 13 then some (.xdstImageBase (fld w 7 4) (fld w 22 3)) else
  if bits w 11 11 = 0 ∧ bits w 25 7 = 14 then some (.xdstRing (fld w 7 4) (fld w 22 3)) else
  if bits w 11 1 = 0 ∧ bits w 25 7 = 15 then some (.xdstRemote (fld w 7 4) (fld w 12 5) (fld w 17 5) (fld w 22 3)) else
  if bits w 7 5 = 0 ∧ bits w 25 7 = 16 then some (.xset (fld w 12 5) (fld w 17 5) (fld w 22 3)) else
  if bits w 7 5 = 0 ∧ bits w 25 7 = 17 then some (.xsetPost (fld w 12 5) (fld w 17 5) (fld w 22 3)) else
  if bits w 7 5 = 0 ∧ bits w 25 7 = 18 then some (.xsetAct (fld w 12 5) (fld w 17 5) (fld w 22 3)) else
  if bits w 7 5 = 0 ∧ bits w 17 5 = 0 ∧ bits w 25 7 = 19 then some (.xsetChain (fld w 12 5) (fld w 22 3)) else
  if bits w 12 10 = 0 ∧ bits w 25 7 = 20 then some (.xgo (fld w 7 5) (fld w 22 3)) else
  if bits w 25 7 = 24 then some (.xloop (fld w 7 5) (fld w 12 5) (fld w 17 5) (fld w 22 3)) else
  if bits w 7 5 = 0 ∧ bits w 17 5 = 0 ∧ bits w 25 7 = 28 then some (.xrel (fld w 12 5) (fld w 22 3)) else
  if bits w 25 7 = 32 then some (.xarm (fld w 7 5) (fld w 12 5) (fld w 17 5) (fld w 22 3)) else
  if bits w 17 5 = 0 ∧ bits w 25 7 = 36 then some (.xstat (fld w 7 5) (fld w 12 5) (fld w 22 3)) else
  if bits w 17 5 = 0 ∧ bits w 25 7 = 40 then some (.xcancel (fld w 7 5) (fld w 12 5) (fld w 22 3)) else
  none

/-- Major 0x24: R222, R223. -/
def decMajor24 (w : Nat) : Option Instr :=
  if bits w 27 5 = 0 then some (.fadd (fld w 7 5) (fld w 12 5) (fld w 17 5) (fld w 25 2) (fld w 22 3)) else
  if bits w 27 5 = 1 then some (.fsub (fld w 7 5) (fld w 12 5) (fld w 17 5) (fld w 25 2) (fld w 22 3)) else
  if bits w 27 5 = 2 then some (.fmul (fld w 7 5) (fld w 12 5) (fld w 17 5) (fld w 25 2) (fld w 22 3)) else
  if bits w 27 5 = 3 then some (.fmin (fld w 7 5) (fld w 12 5) (fld w 17 5) (fld w 25 2) (fld w 22 3)) else
  if bits w 27 5 = 4 then some (.fmax (fld w 7 5) (fld w 12 5) (fld w 17 5) (fld w 25 2) (fld w 22 3)) else
  if bits w 17 5 = 0 ∧ bits w 27 5 = 5 then some (.fabs (fld w 7 5) (fld w 12 5) (fld w 25 2) (fld w 22 3)) else
  if bits w 17 5 = 0 ∧ bits w 27 5 = 6 then some (.fneg (fld w 7 5) (fld w 12 5) (fld w 25 2) (fld w 22 3)) else
  if bits w 27 5 = 7 then some (.fsel (fld w 7 5) (fld w 12 5) (fld w 17 5) (fld w 25 2) (fld w 22 3)) else
  if bits w 17 5 = 0 ∧ bits w 27 5 = 8 then some (.fmv (fld w 7 5) (fld w 12 5) (fld w 25 2) (fld w 22 3)) else
  if bits w 27 5 = 9 then some (.fdiv (fld w 7 5) (fld w 12 5) (fld w 17 5) (fld w 25 2) (fld w 22 3)) else
  if bits w 17 5 = 0 ∧ bits w 27 5 = 10 then some (.fsqrt (fld w 7 5) (fld w 12 5) (fld w 25 2) (fld w 22 3)) else
  none

/-- Major 0x25: R224. -/
def decMajor25 (w : Nat) : Option Instr :=
  if bits w 31 1 = 0 then some (.fma (fld w 7 5) (fld w 12 5) (fld w 17 5) (fld w 22 5) (fld w 27 2) (fld w 29 2)) else
  if bits w 31 1 = 1 then some (.fnma (fld w 7 5) (fld w 12 5) (fld w 17 5) (fld w 22 5) (fld w 27 2) (fld w 29 2)) else
  none

/-- Major 0x26: R225, R226, R227. -/
def decMajor26 (w : Nat) : Option Instr :=
  if bits w 17 5 = 0 ∧ bits w 27 5 = 0 then some (.frcp (fld w 7 5) (fld w 12 5) (fld w 25 2) (fld w 22 3)) else
  if bits w 17 5 = 0 ∧ bits w 27 5 = 1 then some (.frsq (fld w 7 5) (fld w 12 5) (fld w 25 2) (fld w 22 3)) else
  if bits w 17 5 = 0 ∧ bits w 27 5 = 2 then some (.fexp2 (fld w 7 5) (fld w 12 5) (fld w 25 2) (fld w 22 3)) else
  if bits w 17 5 = 0 ∧ bits w 27 5 = 3 then some (.flog2 (fld w 7 5) (fld w 12 5) (fld w 25 2) (fld w 22 3)) else
  if bits w 17 5 = 0 ∧ bits w 27 5 = 4 then some (.fsum (fld w 7 5) (fld w 12 5) (fld w 25 2) (fld w 22 3)) else
  if bits w 17 5 = 0 ∧ bits w 27 5 = 5 then some (.fmaxr (fld w 7 5) (fld w 12 5) (fld w 25 2) (fld w 22 3)) else
  if bits w 27 5 = 6 then some (.fcmp (fld w 7 3) (fld w 10 2) (fld w 12 5) (fld w 17 5) (fld w 25 2) (fld w 22 3)) else
  none

/-- Major 0x27: R228. -/
def decMajor27 (w : Nat) : Option Instr :=
  some (.fcvt (fld w 7 5) (fld w 12 5) (fld w 17 5) (fld w 25 3) (fld w 28 4) (fld w 22 3))

/-- Major 0x28: R220, R221, R229. -/
def decMajor28 (w : Nat) : Option Instr :=
  if bits w 9 3 = 0 ∧ bits w 27 5 = 0 then some (.sscfg (fld w 7 2) (fld w 12 5) (fld w 17 5) (fld w 25 2) (fld w 22 3)) else
  if bits w 9 13 = 0 ∧ bits w 25 7 = 4 then some (.ssen (fld w 7 2) (fld w 22 3)) else
  if bits w 14 8 = 0 ∧ bits w 25 7 = 8 then some (.ssdis (fld w 7 5) (fld w 12 2) (fld w 22 3)) else
  if bits w 27 5 = 3 then some (.fpack (fld w 7 5) (fld w 12 5) (fld w 17 5) (fld w 25 2) (fld w 22 3)) else
  if bits w 18 4 = 0 ∧ bits w 27 5 = 4 then some (.funpack (fld w 7 5) (fld w 12 5) (fld w 17 1) (fld w 25 2) (fld w 22 3)) else
  if bits w 27 5 = 5 then some (.fshuf (fld w 7 5) (fld w 12 5) (fld w 17 5) (fld w 25 2) (fld w 22 3)) else
  none

/-- Major 0x29: R271, R272, R273, R274, R275, R276. -/
def decMajor29 (w : Nat) : Option Instr :=
  if bits w 11 1 = 0 ∧ bits w 17 5 = 0 ∧ bits w 25 7 = 0 then some (.mring (fld w 7 4) (fld w 12 5) (fld w 22 3)) else
  if bits w 11 1 = 0 ∧ bits w 25 7 = 1 then some (.mringScale (fld w 7 4) (fld w 12 5) (fld w 17 5) (fld w 22 3)) else
  if bits w 7 5 = 0 ∧ bits w 16 1 = 0 ∧ bits w 21 1 = 0 ∧ bits w 27 5 = 1 then some (.mma (fld w 12 4) (fld w 17 4) (fld w 25 2) (fld w 22 3)) else
  if bits w 11 1 = 0 ∧ bits w 16 1 = 0 ∧ bits w 21 1 = 0 ∧ bits w 27 5 = 2 then some (.mmaq (fld w 7 4) (fld w 12 4) (fld w 17 4) (fld w 25 2) (fld w 22 3)) else
  if bits w 7 15 = 0 ∧ bits w 25 7 = 12 then some (.mzero (fld w 22 3)) else
  if bits w 7 15 = 0 ∧ bits w 25 7 = 16 then some (.mswap (fld w 22 3)) else
  if bits w 7 5 = 0 ∧ bits w 17 5 = 0 ∧ bits w 25 7 = 20 then some (.mepi (fld w 12 5) (fld w 22 3)) else
  if bits w 17 5 = 0 ∧ bits w 25 7 = 24 then some (.mtopk (fld w 7 5) (fld w 12 5) (fld w 22 3)) else
  if bits w 7 5 = 0 ∧ bits w 17 5 = 0 ∧ bits w 25 7 = 28 then some (.mseed (fld w 12 5) (fld w 22 3)) else
  if bits w 17 5 = 0 ∧ bits w 25 7 = 32 then some (.mstat (fld w 7 5) (fld w 12 5) (fld w 22 3)) else
  none

/-- Major 0x2A: R286, R287, R288, R293, R294, R295, R297. -/
def decMajor2A (w : Nat) : Option Instr :=
  if bits w 7 5 = 0 ∧ bits w 25 7 = 0 then some (.merLoadTile (fld w 12 5) (fld w 17 5) (fld w 22 3)) else
  if bits w 7 5 = 0 ∧ bits w 25 7 = 1 then some (.merLoadCand (fld w 12 5) (fld w 17 5) (fld w 22 3)) else
  if bits w 7 5 = 0 ∧ bits w 17 5 = 0 ∧ bits w 25 7 = 4 then some (.merCap (fld w 12 5) (fld w 22 3)) else
  if bits w 7 5 = 0 ∧ bits w 17 5 = 0 ∧ bits w 25 7 = 5 then some (.merCapAll (fld w 12 5) (fld w 22 3)) else
  if bits w 7 5 = 0 ∧ bits w 25 7 = 8 then some (.merCfg (fld w 12 5) (fld w 17 5) (fld w 22 3)) else
  if bits w 12 10 = 0 ∧ bits w 25 7 = 12 then some (.merGo (fld w 7 5) (fld w 22 3)) else
  if bits w 12 10 = 0 ∧ bits w 25 7 = 16 then some (.merStat (fld w 7 5) (fld w 22 3)) else
  if bits w 7 5 = 0 ∧ bits w 25 7 = 20 then some (.merOut (fld w 12 5) (fld w 17 5) (fld w 22 3)) else
  if bits w 17 5 = 0 ∧ bits w 25 7 = 24 then some (.merBias (fld w 7 5) (fld w 12 5) (fld w 22 3)) else
  if bits w 17 5 = 0 ∧ bits w 25 7 = 25 then some (.merBiasAdd (fld w 7 5) (fld w 12 5) (fld w 22 3)) else
  if bits w 17 5 = 0 ∧ bits w 25 7 = 26 then some (.merBiasCopy (fld w 7 5) (fld w 12 5) (fld w 22 3)) else
  if bits w 17 5 = 0 ∧ bits w 25 7 = 28 then some (.merSnap (fld w 7 5) (fld w 12 5) (fld w 22 3)) else
  if bits w 17 5 = 0 ∧ bits w 25 7 = 29 then some (.merSnapBias (fld w 7 5) (fld w 12 5) (fld w 22 3)) else
  none

/-- Major 0x2B: R302, R305, R313, R314, R315. -/
def decMajor2B (w : Nat) : Option Instr :=
  if bits w 11 1 = 0 ∧ bits w 17 5 = 0 ∧ bits w 25 7 = 0 then some (.lqPush (fld w 7 4) (fld w 12 5) (fld w 22 3)) else
  if bits w 16 6 = 0 ∧ bits w 25 7 = 4 then some (.lqStat (fld w 7 5) (fld w 12 4) (fld w 22 3)) else
  if bits w 7 5 = 0 ∧ bits w 25 7 = 8 then some (.evSig (fld w 12 5) (fld w 17 5) (fld w 22 3)) else
  if bits w 7 5 = 0 ∧ bits w 25 7 = 9 then some (.evSigSet (fld w 12 5) (fld w 17 5) (fld w 22 3)) else
  if bits w 21 1 = 0 ∧ bits w 25 7 = 12 then some (.cqPop (fld w 7 5) (fld w 12 5) (fld w 17 4) (fld w 22 3)) else
  if bits w 21 1 = 0 ∧ bits w 25 7 = 13 then some (.cqPopAct (fld w 7 5) (fld w 12 5) (fld w 17 4) (fld w 22 3)) else
  none

/-- Major 0x2C: R342. -/
def decMajor2C (w : Nat) : Option Instr :=
  if bits w 12 10 = 0 ∧ bits w 25 7 = 0 then some (.rfence (fld w 7 5) (fld w 22 3)) else
  if bits w 17 5 = 0 ∧ bits w 25 7 = 4 then some (.rflush (fld w 7 5) (fld w 12 5) (fld w 22 3)) else
  none

/-- Major 0x2D: R123, R124, R193, R319, R321. -/
def decMajor2D (w : Nat) : Option Instr :=
  if bits w 17 5 = 0 ∧ bits w 25 7 = 0 then some (.svResume (fld w 7 5) (fld w 12 5) (fld w 22 3)) else
  if bits w 25 7 = 1 then some (.svResumeX10 (fld w 7 5) (fld w 12 5) (fld w 17 5) (fld w 22 3)) else
  if bits w 17 5 = 0 ∧ bits w 25 7 = 4 then some (.svBreak (fld w 7 5) (fld w 12 5) (fld w 22 3)) else
  if bits w 17 5 = 0 ∧ bits w 25 7 = 8 then some (.svFreeze (fld w 7 5) (fld w 12 5) (fld w 22 3)) else
  if bits w 17 5 = 0 ∧ bits w 25 7 = 12 then some (.svThaw (fld w 7 5) (fld w 12 5) (fld w 22 3)) else
  if bits w 25 7 = 16 then some (.svSave (fld w 7 5) (fld w 12 5) (fld w 17 5) (fld w 22 3)) else
  if bits w 25 7 = 20 then some (.svLoad (fld w 7 5) (fld w 12 5) (fld w 17 5) (fld w 22 3)) else
  if bits w 25 7 = 24 then some (.tlbinv (fld w 7 5) (fld w 12 5) (fld w 17 5) (fld w 22 3)) else
  none

/-- A 32-bit word by its major (R65); none where no row matches. -/
def rawWord32 (w : Nat) : Option Instr :=
  match bits w 1 6 with
  | 0x01 => decMajor01 w
  | 0x02 => decMajor02 w
  | 0x03 => decMajor03 w
  | 0x04 => decMajor04 w
  | 0x05 => decMajor05 w
  | 0x06 => decMajor06 w
  | 0x07 => decMajor07 w
  | 0x08 => decMajor08 w
  | 0x09 => decMajor09 w
  | 0x0A => decMajor0A w
  | 0x0B => decMajor0B w
  | 0x0C => decMajor0C w
  | 0x0D => decMajor0D w
  | 0x0E => decMajor0E w
  | 0x0F => decMajor0F w
  | 0x10 => decMajor10 w
  | 0x11 => decMajor11 w
  | 0x12 => decMajor12 w
  | 0x13 => decMajor13 w
  | 0x14 => decMajor14 w
  | 0x15 => decMajor15 w
  | 0x16 => decMajor16 w
  | 0x17 => decMajor17 w
  | 0x18 => decMajor18 w
  | 0x19 => decMajor19 w
  | 0x1A => decMajor1A w
  | 0x1B => decMajor1B w
  | 0x1C => decMajor1C w
  | 0x1D => decMajor1D w
  | 0x1E => decMajor1E w
  | 0x1F => decMajor1F w
  | 0x20 => decMajor20 w
  | 0x21 => decMajor21 w
  | 0x22 => decMajor22 w
  | 0x23 => decMajor23 w
  | 0x24 => decMajor24 w
  | 0x25 => decMajor25 w
  | 0x26 => decMajor26 w
  | 0x27 => decMajor27 w
  | 0x28 => decMajor28 w
  | 0x29 => decMajor29 w
  | 0x2A => decMajor2A w
  | 0x2B => decMajor2B w
  | 0x2C => decMajor2C w
  | 0x2D => decMajor2D w
  | _ => none

/-- A 16-bit form by its op4 (R64); none where no row matches. -/
def rawWord16 (w : Nat) : Option Instr :=
  match bits w 1 4 with
  | 0 => if bits w 15 1 = 0 then some (.cMv (fld w 5 5) (fld w 10 5)) else none
  | 1 => if bits w 15 1 = 0 then some (.cAdd (fld w 5 5) (fld w 10 5)) else none
  | 2 => if bits w 15 1 = 0 then some (.cSub (fld w 5 5) (fld w 10 5)) else none
  | 3 => some (.cAddi (fld w 5 5) (fld w 10 6))
  | 4 => some (.cLi (fld w 5 5) (fld w 10 6))
  | 5 => if bits w 15 1 = 0 then some (.cAnd (fld w 5 5) (fld w 10 5)) else none
  | 6 => if bits w 15 1 = 0 then some (.cOr (fld w 5 5) (fld w 10 5)) else none
  | 7 => some (.cSlli (fld w 5 5) (fld w 10 6))
  | 8 => some (.cSrli (fld w 5 5) (fld w 10 6))
  | 9 => some (.cLd (fld w 5 5) (fld w 10 5) (fld w 15 1))
  | 10 => some (.cSd (fld w 5 5) (fld w 10 5) (fld w 15 1))
  | 11 => some (.cBeqz (fld w 5 5) (fld w 10 6))
  | 12 => some (.cBnez (fld w 5 5) (fld w 10 6))
  | 13 => some (.cJ (fld w 5 11))
  | 14 => if bits w 5 11 = 0 then some (.cDone) else none
  | _ => none

/-- The instruction of a word, or none where R63 or R64 makes it ILLEGAL. Bit 0 tells the two lengths apart (R61). -/
def decodeWord (w : Nat) : Option Instr :=
  (if w % 2 = 1 then rawWord32 w else rawWord16 w).filter Instr.wf

/-- What the decoder makes of the bytes at the program counter. -/
inductive Decoded where
  | instr (i : Instr) (len : Nat)             -- an instruction of `len` bytes
  | illegal (word : BitVec 32) (len : Nat)    -- ILLEGAL: the halfword or word, zero-extended (R63)
  | short                                     -- fewer bytes than the instruction needs
deriving DecidableEq, Repr

/-- A halfword of a byte list, little-endian (R2). -/
def half (b0 b1 : Byte) : Nat := b0.toNat + 256 * b1.toNat

/-- Decode the bytes at the program counter, in rising address order (R2, R61). -/
def decode : List Byte → Decoded
  | b0 :: b1 :: rest =>
    if b0.toNat % 2 = 0 then
      match decodeWord (half b0 b1) with
      | some i => .instr i 2
      | none => .illegal (BitVec.ofNat 32 (half b0 b1)) 2
    else
      match rest with
      | b2 :: b3 :: _ =>
        match decodeWord (half b0 b1 + 65536 * half b2 b3) with
        | some i => .instr i 4
        | none => .illegal (BitVec.ofNat 32 (half b0 b1 + 65536 * half b2 b3)) 4
      | _ => .short
  | _ => .short

/-- The first `n` bytes of a number, lowest first. -/
def leBytes (n w : Nat) : List Byte := (List.range n).map (fun k => BitVec.ofNat 8 (w / 2 ^ (8 * k)))

/-- The instruction the decoder reads from a table row's word: its bytes as the hardware stores them, zeros above `nbits`. -/
def decodeTableWord (nbits w : Nat) : Option Instr :=
  match decode (leBytes 4 (w % 2 ^ nbits)) with
  | .instr i _ => some i
  | _ => none

/-- The length in bytes of an encoded instruction (R61). -/
def Instr.len : Instr → Nat
  | .cMv _ _ => 2
  | .cAdd _ _ => 2
  | .cSub _ _ => 2
  | .cAddi _ _ => 2
  | .cLi _ _ => 2
  | .cAnd _ _ => 2
  | .cOr _ _ => 2
  | .cSlli _ _ => 2
  | .cSrli _ _ => 2
  | .cLd _ _ _ => 2
  | .cSd _ _ _ => 2
  | .cBeqz _ _ => 2
  | .cBnez _ _ => 2
  | .cJ _ => 2
  | .cDone => 2
  | _ => 4

/-- A word of fixed bits and fields, each field given with its lowest bit. -/
def pack (fixed : Nat) : List (Nat × Nat) → Nat
  | [] => fixed
  | (v, lo) :: l => v * 2 ^ lo + pack fixed l

/-- The word of an instruction, as a number whose bit 0 is the word's bit 0; none for the steps without an encoding. -/
def encodeWord : Instr → Option Nat
  | .add rd ra rb sc => some (pack 0x3 [(rd.toNat, 7), (ra.toNat, 12), (rb.toNat, 17), (sc.toNat, 22)])
  | .sub rd ra rb sc => some (pack 0x2000003 [(rd.toNat, 7), (ra.toNat, 12), (rb.toNat, 17), (sc.toNat, 22)])
  | .and rd ra rb sc => some (pack 0x4000003 [(rd.toNat, 7), (ra.toNat, 12), (rb.toNat, 17), (sc.toNat, 22)])
  | .or rd ra rb sc => some (pack 0x6000003 [(rd.toNat, 7), (ra.toNat, 12), (rb.toNat, 17), (sc.toNat, 22)])
  | .xor rd ra rb sc => some (pack 0x8000003 [(rd.toNat, 7), (ra.toNat, 12), (rb.toNat, 17), (sc.toNat, 22)])
  | .sll rd ra rb sc => some (pack 0xA000003 [(rd.toNat, 7), (ra.toNat, 12), (rb.toNat, 17), (sc.toNat, 22)])
  | .srl rd ra rb sc => some (pack 0xC000003 [(rd.toNat, 7), (ra.toNat, 12), (rb.toNat, 17), (sc.toNat, 22)])
  | .sra rd ra rb sc => some (pack 0xE000003 [(rd.toNat, 7), (ra.toNat, 12), (rb.toNat, 17), (sc.toNat, 22)])
  | .slt rd ra rb sc => some (pack 0x10000003 [(rd.toNat, 7), (ra.toNat, 12), (rb.toNat, 17), (sc.toNat, 22)])
  | .sltn rd ra rb sc => some (pack 0x12000003 [(rd.toNat, 7), (ra.toNat, 12), (rb.toNat, 17), (sc.toNat, 22)])
  | .min rd ra rb sc => some (pack 0x14000003 [(rd.toNat, 7), (ra.toNat, 12), (rb.toNat, 17), (sc.toNat, 22)])
  | .max rd ra rb sc => some (pack 0x16000003 [(rd.toNat, 7), (ra.toNat, 12), (rb.toNat, 17), (sc.toNat, 22)])
  | .minn rd ra rb sc => some (pack 0x18000003 [(rd.toNat, 7), (ra.toNat, 12), (rb.toNat, 17), (sc.toNat, 22)])
  | .maxn rd ra rb sc => some (pack 0x1A000003 [(rd.toNat, 7), (ra.toNat, 12), (rb.toNat, 17), (sc.toNat, 22)])
  | .mul rd ra rb sc => some (pack 0x1C000003 [(rd.toNat, 7), (ra.toNat, 12), (rb.toNat, 17), (sc.toNat, 22)])
  | .mulh rd ra rb sc => some (pack 0x1E000003 [(rd.toNat, 7), (ra.toNat, 12), (rb.toNat, 17), (sc.toNat, 22)])
  | .mulhn rd ra rb sc => some (pack 0x20000003 [(rd.toNat, 7), (ra.toNat, 12), (rb.toNat, 17), (sc.toNat, 22)])
  | .div rd ra rb sc => some (pack 0x22000003 [(rd.toNat, 7), (ra.toNat, 12), (rb.toNat, 17), (sc.toNat, 22)])
  | .divn rd ra rb sc => some (pack 0x24000003 [(rd.toNat, 7), (ra.toNat, 12), (rb.toNat, 17), (sc.toNat, 22)])
  | .rem rd ra rb sc => some (pack 0x26000003 [(rd.toNat, 7), (ra.toNat, 12), (rb.toNat, 17), (sc.toNat, 22)])
  | .remn rd ra rb sc => some (pack 0x28000003 [(rd.toNat, 7), (ra.toNat, 12), (rb.toNat, 17), (sc.toNat, 22)])
  | .lea rd ra rb k sc => some (pack 0x2A000003 [(rd.toNat, 7), (ra.toNat, 12), (rb.toNat, 17), (k.toNat, 30), (sc.toNat, 22)])
  | .sel rd ra rb sc => some (pack 0x2C000003 [(rd.toNat, 7), (ra.toNat, 12), (rb.toNat, 17), (sc.toNat, 22)])
  | .addi rd ra imm sc => some (pack 0x5 [(rd.toNat, 7), (ra.toNat, 12), (imm.toNat, 20), (sc.toNat, 17)])
  | .andi rd ra imm sc => some (pack 0x7 [(rd.toNat, 7), (ra.toNat, 12), (imm.toNat, 20), (sc.toNat, 17)])
  | .ori rd ra imm sc => some (pack 0x9 [(rd.toNat, 7), (ra.toNat, 12), (imm.toNat, 20), (sc.toNat, 17)])
  | .xori rd ra imm sc => some (pack 0xB [(rd.toNat, 7), (ra.toNat, 12), (imm.toNat, 20), (sc.toNat, 17)])
  | .slti rd ra imm sc => some (pack 0xD [(rd.toNat, 7), (ra.toNat, 12), (imm.toNat, 20), (sc.toNat, 17)])
  | .sltni rd ra imm sc => some (pack 0xF [(rd.toNat, 7), (ra.toNat, 12), (imm.toNat, 20), (sc.toNat, 17)])
  | .slli rd ra h sc => some (pack 0x11 [(rd.toNat, 7), (ra.toNat, 12), (h.toNat, 20), (sc.toNat, 17)])
  | .srli rd ra h sc => some (pack 0x40000011 [(rd.toNat, 7), (ra.toNat, 12), (h.toNat, 20), (sc.toNat, 17)])
  | .srai rd ra h sc => some (pack 0x80000011 [(rd.toNat, 7), (ra.toNat, 12), (h.toNat, 20), (sc.toNat, 17)])
  | .lui rd imm => some (pack 0x13 [(rd.toNat, 7), (imm.toNat, 12)])
  | .adpc rd imm => some (pack 0x15 [(rd.toNat, 7), (imm.toNat, 12)])
  | .clz rd ra sc => some (pack 0x17 [(rd.toNat, 7), (ra.toNat, 12), (sc.toNat, 22)])
  | .ctz rd ra sc => some (pack 0x2000017 [(rd.toNat, 7), (ra.toNat, 12), (sc.toNat, 22)])
  | .popc rd ra sc => some (pack 0x4000017 [(rd.toNat, 7), (ra.toNat, 12), (sc.toNat, 22)])
  | .sxb rd ra sc => some (pack 0x6000017 [(rd.toNat, 7), (ra.toNat, 12), (sc.toNat, 22)])
  | .sxh rd ra sc => some (pack 0x8000017 [(rd.toNat, 7), (ra.toNat, 12), (sc.toNat, 22)])
  | .sxw rd ra sc => some (pack 0xA000017 [(rd.toNat, 7), (ra.toNat, 12), (sc.toNat, 22)])
  | .zxb rd ra sc => some (pack 0xC000017 [(rd.toNat, 7), (ra.toNat, 12), (sc.toNat, 22)])
  | .zxh rd ra sc => some (pack 0xE000017 [(rd.toNat, 7), (ra.toNat, 12), (sc.toNat, 22)])
  | .zxw rd ra sc => some (pack 0x10000017 [(rd.toNat, 7), (ra.toNat, 12), (sc.toNat, 22)])
  | .bexs rd ra o w sc => some (pack 0x19 [(rd.toNat, 7), (ra.toNat, 12), (o.toNat, 20), (w.toNat, 26), (sc.toNat, 17)])
  | .bexn rd ra o w sc => some (pack 0x1B [(rd.toNat, 7), (ra.toNat, 12), (o.toNat, 20), (w.toNat, 26), (sc.toNat, 17)])
  | .bins rd ra o w sc => some (pack 0x1D [(rd.toNat, 7), (ra.toNat, 12), (o.toNat, 20), (w.toNat, 26), (sc.toNat, 17)])
  | .psetEq p ra rb sc => some (pack 0x1F [(p.toNat, 7), (ra.toNat, 12), (rb.toNat, 17), (sc.toNat, 22)])
  | .psetNe p ra rb sc => some (pack 0x200001F [(p.toNat, 7), (ra.toNat, 12), (rb.toNat, 17), (sc.toNat, 22)])
  | .psetLt p ra rb sc => some (pack 0x400001F [(p.toNat, 7), (ra.toNat, 12), (rb.toNat, 17), (sc.toNat, 22)])
  | .psetGe p ra rb sc => some (pack 0x600001F [(p.toNat, 7), (ra.toNat, 12), (rb.toNat, 17), (sc.toNat, 22)])
  | .psetLtn p ra rb sc => some (pack 0x800001F [(p.toNat, 7), (ra.toNat, 12), (rb.toNat, 17), (sc.toNat, 22)])
  | .psetGen p ra rb sc => some (pack 0xA00001F [(p.toNat, 7), (ra.toNat, 12), (rb.toNat, 17), (sc.toNat, 22)])
  | .pand rd ra rb sc => some (pack 0xC00001F [(rd.toNat, 7), (ra.toNat, 12), (rb.toNat, 17), (sc.toNat, 22)])
  | .por rd ra rb sc => some (pack 0xE00001F [(rd.toNat, 7), (ra.toNat, 12), (rb.toNat, 17), (sc.toNat, 22)])
  | .pnot rd ra sc => some (pack 0x1000001F [(rd.toNat, 7), (ra.toNat, 12), (sc.toNat, 22)])
  | .pmovToPredicate rd ra sc => some (pack 0x1200001F [(rd.toNat, 7), (ra.toNat, 12), (sc.toNat, 22)])
  | .pmovFromPredicate rd ra sc => some (pack 0x1202001F [(rd.toNat, 7), (ra.toNat, 12), (sc.toNat, 22)])
  | .beq ra rb o => some (pack 0x21 [(ra.toNat, 10), (rb.toNat, 15), (o.toNat, 20)])
  | .bne ra rb o => some (pack 0xA1 [(ra.toNat, 10), (rb.toNat, 15), (o.toNat, 20)])
  | .blt ra rb o => some (pack 0x121 [(ra.toNat, 10), (rb.toNat, 15), (o.toNat, 20)])
  | .bge ra rb o => some (pack 0x1A1 [(ra.toNat, 10), (rb.toNat, 15), (o.toNat, 20)])
  | .bltn ra rb o => some (pack 0x221 [(ra.toNat, 10), (rb.toNat, 15), (o.toNat, 20)])
  | .bgen ra rb o => some (pack 0x2A1 [(ra.toNat, 10), (rb.toNat, 15), (o.toNat, 20)])
  | .bpt p o => some (pack 0x23 [(p.toNat, 7), (o.toNat, 12)])
  | .bpf p o => some (pack 0x423 [(p.toNat, 7), (o.toNat, 12)])
  | .jal rd o => some (pack 0x25 [(rd.toNat, 7), (o.toNat, 12)])
  | .jalr rd ra imm sc => some (pack 0x27 [(rd.toNat, 7), (ra.toNat, 12), (imm.toNat, 20), (sc.toNat, 17)])
  | .loop ra imm sc => some (pack 0x29 [(ra.toNat, 12), (imm.toNat, 20), (sc.toNat, 17)])
  | .done sc => some (pack 0x2B [(sc.toNat, 17)])
  | .sys c sc => some (pack 0x10002B [(c.toNat, 22), (sc.toNat, 17)])
  | .tret sc => some (pack 0x20002B [(sc.toNat, 17)])
  | .brk c sc => some (pack 0x30002B [(c.toNat, 22), (sc.toNat, 17)])
  | .ctlrd rd r => some (pack 0x2D [(rd.toNat, 7), (r.toNat, 20)])
  | .ctlwr rd ra r => some (pack 0x2002D [(rd.toNat, 7), (ra.toNat, 12), (r.toNat, 20)])
  | .ctlset rd ra r => some (pack 0x4002D [(rd.toNat, 7), (ra.toNat, 12), (r.toNat, 20)])
  | .ctlclr rd ra r => some (pack 0x6002D [(rd.toNat, 7), (ra.toNat, 12), (r.toNat, 20)])
  | .ld rd ra z imm sc => some (pack 0x2F [(rd.toNat, 7), (ra.toNat, 12), (z.toNat, 17), (imm.toNat, 22), (sc.toNat, 19)])
  | .ldn rd ra z imm sc => some (pack 0x31 [(rd.toNat, 7), (ra.toNat, 12), (z.toNat, 17), (imm.toNat, 22), (sc.toNat, 19)])
  | .fld rd ra z imm sc => some (pack 0x33 [(rd.toNat, 7), (ra.toNat, 12), (z.toNat, 17), (imm.toNat, 22), (sc.toNat, 19)])
  | .st rd ra z imm sc => some (pack 0x35 [(rd.toNat, 7), (ra.toNat, 12), (z.toNat, 17), (imm.toNat, 22), (sc.toNat, 19)])
  | .fst rd ra z imm sc => some (pack 0x37 [(rd.toNat, 7), (ra.toNat, 12), (z.toNat, 17), (imm.toNat, 22), (sc.toNat, 19)])
  | .ldsync rd ra sc => some (pack 0x39 [(rd.toNat, 7), (ra.toNat, 12), (sc.toNat, 22)])
  | .ldtake rd ra sc => some (pack 0x2000039 [(rd.toNat, 7), (ra.toNat, 12), (sc.toNat, 22)])
  | .stfill rd ra sc => some (pack 0x4000039 [(rd.toNat, 7), (ra.toNat, 12), (sc.toNat, 22)])
  | .feclr ra rb sc => some (pack 0x6000039 [(ra.toNat, 12), (rb.toNat, 17), (sc.toNat, 22)])
  | .stnib rd ra rb sc => some (pack 0x3B [(rd.toNat, 7), (ra.toNat, 12), (rb.toNat, 17), (sc.toNat, 22)])
  | .amoAdd rd ra rb z l q c => some (pack 0x3D [(rd.toNat, 7), (ra.toNat, 12), (rb.toNat, 17), (z.toNat, 22), (l.toNat, 23), (q.toNat, 24), (c.toNat, 30)])
  | .amoAnd rd ra rb z l q c => some (pack 0x200003D [(rd.toNat, 7), (ra.toNat, 12), (rb.toNat, 17), (z.toNat, 22), (l.toNat, 23), (q.toNat, 24), (c.toNat, 30)])
  | .amoOr rd ra rb z l q c => some (pack 0x400003D [(rd.toNat, 7), (ra.toNat, 12), (rb.toNat, 17), (z.toNat, 22), (l.toNat, 23), (q.toNat, 24), (c.toNat, 30)])
  | .amoXor rd ra rb z l q c => some (pack 0x600003D [(rd.toNat, 7), (ra.toNat, 12), (rb.toNat, 17), (z.toNat, 22), (l.toNat, 23), (q.toNat, 24), (c.toNat, 30)])
  | .amoMin rd ra rb z l q c => some (pack 0x800003D [(rd.toNat, 7), (ra.toNat, 12), (rb.toNat, 17), (z.toNat, 22), (l.toNat, 23), (q.toNat, 24), (c.toNat, 30)])
  | .amoMax rd ra rb z l q c => some (pack 0xA00003D [(rd.toNat, 7), (ra.toNat, 12), (rb.toNat, 17), (z.toNat, 22), (l.toNat, 23), (q.toNat, 24), (c.toNat, 30)])
  | .amoMinn rd ra rb z l q c => some (pack 0xC00003D [(rd.toNat, 7), (ra.toNat, 12), (rb.toNat, 17), (z.toNat, 22), (l.toNat, 23), (q.toNat, 24), (c.toNat, 30)])
  | .amoMaxn rd ra rb z l q c => some (pack 0xE00003D [(rd.toNat, 7), (ra.toNat, 12), (rb.toNat, 17), (z.toNat, 22), (l.toNat, 23), (q.toNat, 24), (c.toNat, 30)])
  | .amoSwap rd ra rb z l q c => some (pack 0x1000003D [(rd.toNat, 7), (ra.toNat, 12), (rb.toNat, 17), (z.toNat, 22), (l.toNat, 23), (q.toNat, 24), (c.toNat, 30)])
  | .amoCas rd ra rb z l q c => some (pack 0x1200003D [(rd.toNat, 7), (ra.toNat, 12), (rb.toNat, 17), (z.toNat, 22), (l.toNat, 23), (q.toNat, 24), (c.toNat, 30)])
  | .amoFadd rd ra rb z l q c => some (pack 0x1400003D [(rd.toNat, 7), (ra.toNat, 12), (rb.toNat, 17), (z.toNat, 22), (l.toNat, 23), (q.toNat, 24), (c.toNat, 30)])
  | .amoFmax rd ra rb z l q c => some (pack 0x1600003D [(rd.toNat, 7), (ra.toNat, 12), (rb.toNat, 17), (z.toNat, 22), (l.toNat, 23), (q.toNat, 24), (c.toNat, 30)])
  | .fence p u c sc => some (pack 0x3F [(p.toNat, 7), (u.toNat, 12), (c.toNat, 30), (sc.toNat, 22)])
  | .acq c sc => some (pack 0x200003F [(c.toNat, 30), (sc.toNat, 22)])
  | .rel c sc => some (pack 0x400003F [(c.toNat, 30), (sc.toNat, 22)])
  | .l1inv sc => some (pack 0x600003F [(sc.toNat, 22)])
  | .l2wb ra sc => some (pack 0x800003F [(ra.toNat, 12), (sc.toNat, 22)])
  | .l2zero ra sc => some (pack 0xA00003F [(ra.toNat, 12), (sc.toNat, 22)])
  | .pfetch ra sc => some (pack 0xC00003F [(ra.toNat, 12), (sc.toNat, 22)])
  | .wfa rd ra rb m sc => some (pack 0x41 [(rd.toNat, 7), (ra.toNat, 12), (rb.toNat, 17), (m.toNat, 25), (sc.toNat, 22)])
  | .wfp rd ra rb m sc => some (pack 0x8000041 [(rd.toNat, 7), (ra.toNat, 12), (rb.toNat, 17), (m.toNat, 25), (sc.toNat, 22)])
  | .arr rd ra rb m sc => some (pack 0x10000041 [(rd.toNat, 7), (ra.toNat, 12), (rb.toNat, 17), (m.toNat, 25), (sc.toNat, 22)])
  | .arrx rd ra rb m sc => some (pack 0x18000041 [(rd.toNat, 7), (ra.toNat, 12), (rb.toNat, 17), (m.toNat, 25), (sc.toNat, 22)])
  | .gjoin g sc => some (pack 0x43 [(g.toNat % 1024, 12), (g.toNat / 1024, 25), (sc.toNat, 22)])
  | .gleave g sc => some (pack 0x8000043 [(g.toNat % 1024, 12), (g.toNat / 1024, 25), (sc.toNat, 22)])
  | .gcontrib rd g sc => some (pack 0x10000043 [(rd.toNat, 7), (g.toNat % 1024, 12), (g.toNat / 1024, 25), (sc.toNat, 22)])
  | .gread rd g sc => some (pack 0x18000043 [(rd.toNat, 7), (g.toNat % 1024, 12), (g.toNat / 1024, 25), (sc.toNat, 22)])
  | .inv rd ra rb sc => some (pack 0x45 [(rd.toNat, 7), (ra.toNat, 12), (rb.toNat, 17), (sc.toNat, 22)])
  | .invp ra rb sc => some (pack 0x8000045 [(ra.toNat, 12), (rb.toNat, 17), (sc.toNat, 22)])
  | .reply ra sc => some (pack 0x10000045 [(ra.toNat, 12), (sc.toNat, 22)])
  | .replyDatum ra sc => some (pack 0x12000045 [(ra.toNat, 12), (sc.toNat, 22)])
  | .replyLocalPromise ra rb sc => some (pack 0x14000045 [(ra.toNat, 12), (rb.toNat, 17), (sc.toNat, 22)])
  | .replyDatumLocalPromise ra rb sc => some (pack 0x16000045 [(ra.toNat, 12), (rb.toNat, 17), (sc.toNat, 22)])
  | .rbreak ra sc => some (pack 0x18000045 [(ra.toNat, 12), (sc.toNat, 22)])
  | .rbreakLocalPromise ra rb sc => some (pack 0x1A000045 [(ra.toNat, 12), (rb.toNat, 17), (sc.toNat, 22)])
  | .spawn ra rb sc => some (pack 0x20000045 [(ra.toNat, 12), (rb.toNat, 17), (sc.toNat, 22)])
  | .hnew rd sc => some (pack 0x28000045 [(rd.toNat, 7), (sc.toNat, 22)])
  | .hdrop ra sc => some (pack 0x30000045 [(ra.toNat, 12), (sc.toNat, 22)])
  | .hstat rd ra sc => some (pack 0x38000045 [(rd.toNat, 7), (ra.toNat, 12), (sc.toNat, 22)])
  | .when ra rb sc => some (pack 0x40000045 [(ra.toNat, 12), (rb.toNat, 17), (sc.toNat, 22)])
  | .tmset t ra sc => some (pack 0x47 [(t.toNat, 7), (ra.toNat, 12), (sc.toNat, 22)])
  | .tmclr t sc => some (pack 0x8000047 [(t.toNat, 7), (sc.toNat, 22)])
  | .xsrcLocal t ra sc => some (pack 0x10000047 [(t.toNat, 7), (ra.toNat, 12), (sc.toNat, 22)])
  | .xsrcImageBase t sc => some (pack 0x12000047 [(t.toNat, 7), (sc.toNat, 22)])
  | .xsrcRemote t ra rb sc => some (pack 0x16000047 [(t.toNat, 7), (ra.toNat, 12), (rb.toNat, 17), (sc.toNat, 22)])
  | .xdstLocal t ra sc => some (pack 0x18000047 [(t.toNat, 7), (ra.toNat, 12), (sc.toNat, 22)])
  | .xdstImageBase t sc => some (pack 0x1A000047 [(t.toNat, 7), (sc.toNat, 22)])
  | .xdstRing o sc => some (pack 0x1C000047 [(o.toNat, 7), (sc.toNat, 22)])
  | .xdstRemote t ra rb sc => some (pack 0x1E000047 [(t.toNat, 7), (ra.toNat, 12), (rb.toNat, 17), (sc.toNat, 22)])
  | .xset ra rb sc => some (pack 0x20000047 [(ra.toNat, 12), (rb.toNat, 17), (sc.toNat, 22)])
  | .xsetPost ra rb sc => some (pack 0x22000047 [(ra.toNat, 12), (rb.toNat, 17), (sc.toNat, 22)])
  | .xsetAct ra rb sc => some (pack 0x24000047 [(ra.toNat, 12), (rb.toNat, 17), (sc.toNat, 22)])
  | .xsetChain ra sc => some (pack 0x26000047 [(ra.toNat, 12), (sc.toNat, 22)])
  | .xgo rd sc => some (pack 0x28000047 [(rd.toNat, 7), (sc.toNat, 22)])
  | .xloop rd ra rb sc => some (pack 0x30000047 [(rd.toNat, 7), (ra.toNat, 12), (rb.toNat, 17), (sc.toNat, 22)])
  | .xrel ra sc => some (pack 0x38000047 [(ra.toNat, 12), (sc.toNat, 22)])
  | .xarm rd ra rb sc => some (pack 0x40000047 [(rd.toNat, 7), (ra.toNat, 12), (rb.toNat, 17), (sc.toNat, 22)])
  | .xstat rd ra sc => some (pack 0x48000047 [(rd.toNat, 7), (ra.toNat, 12), (sc.toNat, 22)])
  | .xcancel rd ra sc => some (pack 0x50000047 [(rd.toNat, 7), (ra.toNat, 12), (sc.toNat, 22)])
  | .fadd rd ra rb m sc => some (pack 0x49 [(rd.toNat, 7), (ra.toNat, 12), (rb.toNat, 17), (m.toNat, 25), (sc.toNat, 22)])
  | .fsub rd ra rb m sc => some (pack 0x8000049 [(rd.toNat, 7), (ra.toNat, 12), (rb.toNat, 17), (m.toNat, 25), (sc.toNat, 22)])
  | .fmul rd ra rb m sc => some (pack 0x10000049 [(rd.toNat, 7), (ra.toNat, 12), (rb.toNat, 17), (m.toNat, 25), (sc.toNat, 22)])
  | .fmin rd ra rb m sc => some (pack 0x18000049 [(rd.toNat, 7), (ra.toNat, 12), (rb.toNat, 17), (m.toNat, 25), (sc.toNat, 22)])
  | .fmax rd ra rb m sc => some (pack 0x20000049 [(rd.toNat, 7), (ra.toNat, 12), (rb.toNat, 17), (m.toNat, 25), (sc.toNat, 22)])
  | .fabs rd ra m sc => some (pack 0x28000049 [(rd.toNat, 7), (ra.toNat, 12), (m.toNat, 25), (sc.toNat, 22)])
  | .fneg rd ra m sc => some (pack 0x30000049 [(rd.toNat, 7), (ra.toNat, 12), (m.toNat, 25), (sc.toNat, 22)])
  | .fsel rd ra rb m sc => some (pack 0x38000049 [(rd.toNat, 7), (ra.toNat, 12), (rb.toNat, 17), (m.toNat, 25), (sc.toNat, 22)])
  | .fmv rd ra m sc => some (pack 0x40000049 [(rd.toNat, 7), (ra.toNat, 12), (m.toNat, 25), (sc.toNat, 22)])
  | .fdiv rd ra rb m sc => some (pack 0x48000049 [(rd.toNat, 7), (ra.toNat, 12), (rb.toNat, 17), (m.toNat, 25), (sc.toNat, 22)])
  | .fsqrt rd ra m sc => some (pack 0x50000049 [(rd.toNat, 7), (ra.toNat, 12), (m.toNat, 25), (sc.toNat, 22)])
  | .fma rd ra rb c f sc => some (pack 0x4B [(rd.toNat, 7), (ra.toNat, 12), (rb.toNat, 17), (c.toNat, 22), (f.toNat, 27), (sc.toNat, 29)])
  | .fnma rd ra rb c f sc => some (pack 0x8000004B [(rd.toNat, 7), (ra.toNat, 12), (rb.toNat, 17), (c.toNat, 22), (f.toNat, 27), (sc.toNat, 29)])
  | .frcp rd ra m sc => some (pack 0x4D [(rd.toNat, 7), (ra.toNat, 12), (m.toNat, 25), (sc.toNat, 22)])
  | .frsq rd ra m sc => some (pack 0x800004D [(rd.toNat, 7), (ra.toNat, 12), (m.toNat, 25), (sc.toNat, 22)])
  | .fexp2 rd ra m sc => some (pack 0x1000004D [(rd.toNat, 7), (ra.toNat, 12), (m.toNat, 25), (sc.toNat, 22)])
  | .flog2 rd ra m sc => some (pack 0x1800004D [(rd.toNat, 7), (ra.toNat, 12), (m.toNat, 25), (sc.toNat, 22)])
  | .fsum rd ra m sc => some (pack 0x2000004D [(rd.toNat, 7), (ra.toNat, 12), (m.toNat, 25), (sc.toNat, 22)])
  | .fmaxr rd ra m sc => some (pack 0x2800004D [(rd.toNat, 7), (ra.toNat, 12), (m.toNat, 25), (sc.toNat, 22)])
  | .fcmp p k ra rb m sc => some (pack 0x3000004D [(p.toNat, 7), (k.toNat, 10), (ra.toNat, 12), (rb.toNat, 17), (m.toNat, 25), (sc.toNat, 22)])
  | .fcvt rd ra u r t sc => some (pack 0x4F [(rd.toNat, 7), (ra.toNat, 12), (u.toNat, 17), (r.toNat, 25), (t.toNat, 28), (sc.toNat, 22)])
  | .sscfg f ra rb m sc => some (pack 0x51 [(f.toNat, 7), (ra.toNat, 12), (rb.toNat, 17), (m.toNat, 25), (sc.toNat, 22)])
  | .ssen f sc => some (pack 0x8000051 [(f.toNat, 7), (sc.toNat, 22)])
  | .ssdis rd f sc => some (pack 0x10000051 [(rd.toNat, 7), (f.toNat, 12), (sc.toNat, 22)])
  | .fpack rd ra rb m sc => some (pack 0x18000051 [(rd.toNat, 7), (ra.toNat, 12), (rb.toNat, 17), (m.toNat, 25), (sc.toNat, 22)])
  | .funpack rd ra h m sc => some (pack 0x20000051 [(rd.toNat, 7), (ra.toNat, 12), (h.toNat, 17), (m.toNat, 25), (sc.toNat, 22)])
  | .fshuf rd ra rb m sc => some (pack 0x28000051 [(rd.toNat, 7), (ra.toNat, 12), (rb.toNat, 17), (m.toNat, 25), (sc.toNat, 22)])
  | .mring n ra sc => some (pack 0x53 [(n.toNat, 7), (ra.toNat, 12), (sc.toNat, 22)])
  | .mringScale n ra rb sc => some (pack 0x2000053 [(n.toNat, 7), (ra.toNat, 12), (rb.toNat, 17), (sc.toNat, 22)])
  | .mma ra rb m sc => some (pack 0x8000053 [(ra.toNat, 12), (rb.toNat, 17), (m.toNat, 25), (sc.toNat, 22)])
  | .mmaq c ra rb m sc => some (pack 0x10000053 [(c.toNat, 7), (ra.toNat, 12), (rb.toNat, 17), (m.toNat, 25), (sc.toNat, 22)])
  | .mzero sc => some (pack 0x18000053 [(sc.toNat, 22)])
  | .mswap sc => some (pack 0x20000053 [(sc.toNat, 22)])
  | .mepi ra sc => some (pack 0x28000053 [(ra.toNat, 12), (sc.toNat, 22)])
  | .mtopk rd ra sc => some (pack 0x30000053 [(rd.toNat, 7), (ra.toNat, 12), (sc.toNat, 22)])
  | .mseed ra sc => some (pack 0x38000053 [(ra.toNat, 12), (sc.toNat, 22)])
  | .mstat rd ra sc => some (pack 0x40000053 [(rd.toNat, 7), (ra.toNat, 12), (sc.toNat, 22)])
  | .merLoadTile ra rb sc => some (pack 0x55 [(ra.toNat, 12), (rb.toNat, 17), (sc.toNat, 22)])
  | .merLoadCand ra rb sc => some (pack 0x2000055 [(ra.toNat, 12), (rb.toNat, 17), (sc.toNat, 22)])
  | .merCap ra sc => some (pack 0x8000055 [(ra.toNat, 12), (sc.toNat, 22)])
  | .merCapAll ra sc => some (pack 0xA000055 [(ra.toNat, 12), (sc.toNat, 22)])
  | .merCfg ra rb sc => some (pack 0x10000055 [(ra.toNat, 12), (rb.toNat, 17), (sc.toNat, 22)])
  | .merGo rd sc => some (pack 0x18000055 [(rd.toNat, 7), (sc.toNat, 22)])
  | .merStat rd sc => some (pack 0x20000055 [(rd.toNat, 7), (sc.toNat, 22)])
  | .merOut ra rb sc => some (pack 0x28000055 [(ra.toNat, 12), (rb.toNat, 17), (sc.toNat, 22)])
  | .merBias rd ra sc => some (pack 0x30000055 [(rd.toNat, 7), (ra.toNat, 12), (sc.toNat, 22)])
  | .merBiasAdd rd ra sc => some (pack 0x32000055 [(rd.toNat, 7), (ra.toNat, 12), (sc.toNat, 22)])
  | .merBiasCopy rd ra sc => some (pack 0x34000055 [(rd.toNat, 7), (ra.toNat, 12), (sc.toNat, 22)])
  | .merSnap rd ra sc => some (pack 0x38000055 [(rd.toNat, 7), (ra.toNat, 12), (sc.toNat, 22)])
  | .merSnapBias rd ra sc => some (pack 0x3A000055 [(rd.toNat, 7), (ra.toNat, 12), (sc.toNat, 22)])
  | .lqPush q ra sc => some (pack 0x57 [(q.toNat, 7), (ra.toNat, 12), (sc.toNat, 22)])
  | .lqStat rd q sc => some (pack 0x8000057 [(rd.toNat, 7), (q.toNat, 12), (sc.toNat, 22)])
  | .evSig ra rb sc => some (pack 0x10000057 [(ra.toNat, 12), (rb.toNat, 17), (sc.toNat, 22)])
  | .evSigSet ra rb sc => some (pack 0x12000057 [(ra.toNat, 12), (rb.toNat, 17), (sc.toNat, 22)])
  | .cqPop rd ra c sc => some (pack 0x18000057 [(rd.toNat, 7), (ra.toNat, 12), (c.toNat, 17), (sc.toNat, 22)])
  | .cqPopAct p ra c sc => some (pack 0x1A000057 [(p.toNat, 7), (ra.toNat, 12), (c.toNat, 17), (sc.toNat, 22)])
  | .rfence rd sc => some (pack 0x59 [(rd.toNat, 7), (sc.toNat, 22)])
  | .rflush rd ra sc => some (pack 0x8000059 [(rd.toNat, 7), (ra.toNat, 12), (sc.toNat, 22)])
  | .svResume rd ra sc => some (pack 0x5B [(rd.toNat, 7), (ra.toNat, 12), (sc.toNat, 22)])
  | .svResumeX10 rd ra rb sc => some (pack 0x200005B [(rd.toNat, 7), (ra.toNat, 12), (rb.toNat, 17), (sc.toNat, 22)])
  | .svBreak rd ra sc => some (pack 0x800005B [(rd.toNat, 7), (ra.toNat, 12), (sc.toNat, 22)])
  | .svFreeze rd ra sc => some (pack 0x1000005B [(rd.toNat, 7), (ra.toNat, 12), (sc.toNat, 22)])
  | .svThaw rd ra sc => some (pack 0x1800005B [(rd.toNat, 7), (ra.toNat, 12), (sc.toNat, 22)])
  | .svSave rd ra rb sc => some (pack 0x2000005B [(rd.toNat, 7), (ra.toNat, 12), (rb.toNat, 17), (sc.toNat, 22)])
  | .svLoad rd ra rb sc => some (pack 0x2800005B [(rd.toNat, 7), (ra.toNat, 12), (rb.toNat, 17), (sc.toNat, 22)])
  | .tlbinv rd ra rb sc => some (pack 0x3000005B [(rd.toNat, 7), (ra.toNat, 12), (rb.toNat, 17), (sc.toNat, 22)])
  | .cMv rd rb => some (pack 0x0 [(rd.toNat, 5), (rb.toNat, 10)])
  | .cAdd rd rb => some (pack 0x2 [(rd.toNat, 5), (rb.toNat, 10)])
  | .cSub rd rb => some (pack 0x4 [(rd.toNat, 5), (rb.toNat, 10)])
  | .cAddi rd imm => some (pack 0x6 [(rd.toNat, 5), (imm.toNat, 10)])
  | .cLi rd imm => some (pack 0x8 [(rd.toNat, 5), (imm.toNat, 10)])
  | .cAnd rd rb => some (pack 0xA [(rd.toNat, 5), (rb.toNat, 10)])
  | .cOr rd rb => some (pack 0xC [(rd.toNat, 5), (rb.toNat, 10)])
  | .cSlli rd h => some (pack 0xE [(rd.toNat, 5), (h.toNat, 10)])
  | .cSrli rd h => some (pack 0x10 [(rd.toNat, 5), (h.toNat, 10)])
  | .cLd rd ra o => some (pack 0x12 [(rd.toNat, 5), (ra.toNat, 10), (o.toNat, 15)])
  | .cSd rd ra o => some (pack 0x14 [(rd.toNat, 5), (ra.toNat, 10), (o.toNat, 15)])
  | .cBeqz ra o => some (pack 0x16 [(ra.toNat, 5), (o.toNat, 10)])
  | .cBnez ra o => some (pack 0x18 [(ra.toNat, 5), (o.toNat, 10)])
  | .cJ o => some (pack 0x1A [(o.toNat, 5)])
  | .cDone => some (pack 0x1C [])
  | .divideResult => none
  | .loadDataReturn => none
  | .storePerformedAtHome => none
  | .invocationArrival => none
  | .forwardedInvocationArrival => none
  | .tableEntryWaitRelease => none
  | .inboxCellAssignment => none
  | .activationAdmission => none
  | .resolutionNotice => none
  | .locationNotice => none
  | .watchRequest => none
  | .whenNotice => none
  | .releaseNotice => none
  | .reservationRequest => none
  | .reservationGrant => none
  | .creditReturn => none
  | .reservationBlockReturn => none
  | .runLimitExpiry => none
  | .slotWake => none
  | .copyCommandStart => none
  | .copyItem => none
  | .copyCompletion => none
  | .loopIterationStart => none
  | .triggeredCopyFire => none
  | .fdivFsqrtResult => none
  | .matrixGrant => none
  | .matrixStepRetire => none
  | .matrixQueueCommandPerform => none
  | .epilogueComplete => none
  | .governorWindowEnd => none
  | .auctionTake => none
  | .auctionRound => none
  | .launchRecordTake => none
  | .launchExpansionSend => none
  | .activationEndNotice => none
  | .completionRecordWrite => none
  | .cqArmFire => none
  | .sliceExpiry => none
  | .windowPortTake => none
  | .windowArrival => none
  | .windowAnswer => none
  | .placementTimeout => none
  | .getReply => none
  | .receiveEntryStateWrite => none
  | .closeNotice => none
  | .closeAnswer => none
  | .closeTimeout => none
  | .farResendTimer => none
  | .tombstoneExpiry => none
  | .queuePairResend => none
  | .rateIncrease => none
  | .flitReceive => none
  | .linkRetrain => none
  | .linkRekeyMarker => none
  | .groupContribution => none
  | .groupResult => none
  | .groupSlotTimeout => none
  | .translationWalk => none
  | .pageMonitorWake => none
  | .monitorPoll => none
  | .shootdownComplete => none
  | .bankRegisterWrite => none
  | .bankRoleDrainComplete => none
  | .translationRootWrite => none
  | .sequenceAreaBaseWrite => none
  | .l2LineEviction => none
  | .patrolScrub => none
  | .containmentResetGo => none
  | .containmentResetComplete => none
  | .mailboxLoadkey => none
  | .mailboxErasekey => none
  | .mailboxLinkkey => none
  | .mailboxFlowkey => none
  | .mailboxJobstart => none
  | .mailboxJobend => none
  | .mailboxExtend => none
  | .mailboxInvalidOp => none
  | .mailboxRequestComplete => none
  | .watchdogExpiry => none
  | .thermalThreshold => none
  | .chipReset => none
  | .timeCorrection => none
  | .clusterPowerRequest => none
  | .clusterPowerChangeComplete => none
  | .launchQueueConfigWrite => none
  | .sliceRegisterWrite => none
  | .configRegisterWrite => none
  | .illegalInstruction => none
  | .instructionFetchFault => none
  | .astrolabeMemoryError => none

/-- The bytes of an instruction, lowest address first. -/
def encode (i : Instr) : Option (List Byte) := (encodeWord i).map (leBytes i.len)

end Sys2Proof
end

