-- ==== Sys2Proof/Config.lean ====
section
/-! DEFINITION. The free values: what the manual leaves open, as constants without a body, so that a statement holds whatever they are. -/

namespace Sys2Proof

/-- The registers of a slot after `done` (R28), by a running number (DESIGN CHOICE, log entry 6). -/
opaque Config.freeWord : Nat → Word

/-- The f registers of a slot after `done` (R28; DESIGN CHOICE, log entry 6). -/
opaque Config.freeQWord : Nat → QWord

/-- The predicate registers of a slot after `done` (R28; DESIGN CHOICE, log entry 6). -/
opaque Config.freeByte : Nat → Byte

/-- What a byte stored under one key decrypts to under another (R383): reading key, writing key (each a key slot and its
key's number), physical address, stored byte (DESIGN CHOICE, log entry 55). -/
opaque Config.decrypted : Nat × Nat → Nat × Nat → Nat → Byte → Byte

/-- A byte of a packet as it travels on a link, encrypted (R384): by the key, the nonce and the byte's place among the packet's payload bytes
(DESIGN CHOICE, log entry 21). -/
opaque Config.linkByte : BitVec 256 → BitVec 96 → Nat → Byte

/-- The salt of an Ethernet flow's nonces (R384): the manual does not say where it comes from (DESIGN CHOICE, log entry 91). -/
opaque Config.flowSalt : Nat → BitVec 32

/-- The status in the header of a queue pair's NACK that carries the expected number (R348, R350; DESIGN CHOICE, log entry 91). -/
opaque Config.expectedStatus : BitVec 32

/-- A hedged ML-DSA-44 signature, 2420 bytes (R387), by a running number for its randomness (PRESUMED, log entry 7). -/
opaque Config.signature : Nat → List Byte → Nat → Byte

/-- The digest of the firmware that a boot's step loads (R386, R391), by a running number and the step (DESIGN CHOICE, log entry 5). -/
opaque Config.firmware : Nat → Nat → BitVec 256

/-- The digest of a boot's training and repair results (R391): by a running number, the rows on the pending-repair list and those that stay
(DESIGN CHOICE, log entry 5). -/
opaque Config.tierResults : Nat → List (Nat × BitVec 32) → List (Nat × BitVec 32) → BitVec 256

/-- A data word whose value the manual does not state, by a running number (DESIGN CHOICE, log entries 19 and 28). -/
opaque Config.freeData : Nat → Word

/-- What an identity register reads on a supervisor core: the manual gives the values for compute cores only (R25). By
control register number and supervisor core (DESIGN CHOICE, log entry 43). -/
opaque Config.supervisorId : Nat → Nat → Word

/-- The cause that the fault message of an item gives whose status is no trap cause: NACK, WINDOWCLOSED, BADCMD or FORMAT, by its code (R149,
R242; DESIGN CHOICE, log entry 77). -/
opaque Config.itemCause : Nat → Word

/-- Which line of a full set of an L1 or an L2 slice makes room (R135, R137): by a running number (DESIGN CHOICE, log entry 5). -/
opaque Config.victim : Nat → Nat

/-- The memory channel of a physical line (R381): the manual gives no address map of LPDDR 6 (DESIGN CHOICE, log entry 54). -/
opaque Config.channelOf : Nat → BitVec 8

/-- Rank, bank and row of a physical line, laid out as bits [30:8] of a repair entry (R381; DESIGN CHOICE, log entry 54). -/
opaque Config.rowOf : Nat → BitVec 23

/-- Whether a core's built-in self-test passes (R379): by a running number and the core (DESIGN CHOICE, log entry 11). -/
opaque Config.selfTest : Nat → Nat → Bool

/-- Whether hard repair of a pending row succeeds at a chip reset (R382): by a running number, and the row as its channel and an entry with position 0 (DESIGN CHOICE, log entry 5). -/
opaque Config.repaired : Nat → Nat × BitVec 32 → Bool

/-- The device identity's public key, 1312 bytes (R386; DESIGN CHOICE, log entry 5). -/
opaque Config.publicKey : BitVec 10496

/-- The supervisor firmware's entry (R391; DESIGN CHOICE, log entry 15). -/
opaque Config.firmwareEntry : BitVec 48

/-- The base of the fatal dump, which Astrolabe's non-volatile storage holds (R390; DESIGN CHOICE, log entry 28). -/
opaque Config.dumpBase : BitVec 40

/-- The cause code of a thermal fatal error in the dump's header (R390, R396): the manual gives codes 1 to 4 only (DESIGN CHOICE, log entry 28). -/
opaque Config.thermalCause : BitVec 32

end Sys2Proof
end

