-- ==== Sys2Proof/Machine/SMap.lean ====
section
/-! DEFINITION. Sparse maps as plain data: a list of (key, value) pairs in rising key order; an unlisted key has the default the reader names. -/

namespace Sys2Proof.Machine

/-- A sparse map: keys rise strictly, a key that is not listed has the default. -/
abbrev SMap (α : Type) := List (Nat × α)

/-- The value at key `k`, `d` where none is listed. -/
def look {α : Type} (d : α) : SMap α → Nat → α
  | [], _ => d
  | (k', v) :: m, k => if k' = k then v else look d m k

/-- `m` with `v` at key `k`, keys kept rising. -/
def put {α : Type} (k : Nat) (v : α) : SMap α → SMap α
  | [] => [(k, v)]
  | (k', v') :: m => if k < k' then (k, v) :: (k', v') :: m
                     else if k = k' then (k, v) :: m
                     else (k', v') :: put k v m

/-- `m` without key `k`. -/
def del {α : Type} (k : Nat) (m : SMap α) : SMap α := m.filter (fun e => e.1 != k)

/-- The listed value at key `k`, if any. -/
def find? {α : Type} : SMap α → Nat → Option α
  | [], _ => none
  | (k', v) :: m, k => if k' = k then some v else find? m k

/-- A list without its `n`-th element. -/
def dropNth {α : Type} : List α → Nat → List α
  | [], _ => []
  | _ :: l, 0 => l
  | a :: l, n + 1 => a :: dropNth l n

/-- A list with its `n`-th element replaced. -/
def setNth {α : Type} : List α → Nat → α → List α
  | [], _, _ => []
  | _ :: l, 0, b => b :: l
  | a :: l, n + 1, b => a :: setNth l n b

/-- Strictly rising keys. -/
def risingKeys {α : Type} : SMap α → Bool
  | [] => true
  | [_] => true
  | (k, _) :: (k', v') :: m => decide (k < k') && risingKeys ((k', v') :: m)

end Sys2Proof.Machine
end

