-- ==== Sys2Proof/Machine/State.lean ====
section
/-! DEFINITION. The state of one JS7 chip as plain data, and the chip right after reset. A core is named by its index, cluster * 8 + core (0 to 2047), supervisor core i by 2048 + i; a slot by core index * 8 + slot; a domain (what shares one translation root) by its cluster, or 256 + i for supervisor core i. -/

namespace Sys2Proof.Machine

/-! ## Why a run can stop -/

/-- The reasons a step can stop the machine. -/
inductive Fault where
  /-- The chip is halted after a fatal error (R390): raised by `step` alone; safe, the manual's own halt. -/
  | chipHalted
deriving DecidableEq, Repr

/-- The reasons a step can be refused. -/
inductive Refusal where
  /-- No meaning yet for the instruction of this mnemonic: raised by `exec`'s arm alone; safe. -/
  | notModelled (mnemonic : String)
deriving DecidableEq, Repr

/-! ## Slots -/

/-- Which register file a result goes to. -/
inductive RegKind where
  | x | f | p
deriving DecidableEq, Repr

/-- A register result not yet written (R69, R72): bits of `mask` are replaced, readable from cycle `land` on. -/
structure PendWrite where
  kind : RegKind
  reg  : Nat
  val  : QWord
  mask : QWord
  land : Nat
  pc   : BitVec 48
deriving DecidableEq, Repr

/-- The scopes of R7, narrowest first. -/
inductive Scope where
  | co | cl | ch | sy
deriving DecidableEq, Repr

/-- Where an access that has passed its checks is performed: a scratchpad byte of a cluster, or a physical address
at a home slice under a policy and a key slot (R137 to R139). -/
inductive Home where
  | sram (k off : Nat)
  | dram (slice pa policy keyslot : Nat)
deriving DecidableEq, Repr

/-- A load whose data is still to come (R69). -/
structure OutLoad where
  addr   : Word
  home   : Home
  size   : Nat
  rd     : Nat
  toF    : Bool
  signed : Bool
  stream : Option Nat -- fld into an enabled write stream: its number (R216)
  zero   : Bool       -- from a discarded page: zero, with no memory access (R150)
  half   : Option (Bool × List Byte)   -- the half of a 128-bit load that has been performed: whether the upper, and its bytes (R155)
deriving DecidableEq, Repr

/-- An atomic on its way to its home (R185, R186). `op` is the fn field. -/
structure OutAmo where
  op    : Nat
  home  : Home
  addr  : Word
  size  : Nat
  v     : Word
  c     : Word
  rd    : Nat
  aq    : Bool
  scope : Scope
deriving DecidableEq, Repr

/-- The condition under which a parked instruction re-executes (R29); its entry names the rule. -/
inductive Wait where
  | credit (target : Nat)            -- a credit for chip * 256 + cluster (R57)
  | pair (target : Word)             -- a send pair for the target can be made (R110)
  | cell                             -- a queue-record cell frees (R109)
  | copyQueue (armed : Bool)         -- the command queue, or for xarm the pending list, has a free entry, and fewer than 64 commands stand out (R231, R244, R252)
  | matQueue                         -- the matrix queue has a free entry (R261)
  | tile (ring : Nat) (stage : BitVec 32)  -- a stage of a ring of the cluster is produced (R272)
  | loads                            -- acq, wfp, l1inv: earlier loads, atomics and sends performed (R158, R190)
  | sends                            -- a synchronising load: earlier sends performed (R158)
  | release (scope : Scope)          -- rel, and what waits as a release (R190)
  | fence (mask : BitVec 4)          -- an operation of these classes, held by a fence's condition (R189)
  | walk                             -- a walk is free (R146)
  | send (scope : Scope)             -- an invocation send, which waits for less than `release` (R158, R164)
  | group (g : Nat)                  -- gread (R325)
  | stage (serial stage : Nat)       -- xrel (R253)
  | auction (id : Nat)               -- mer.stat, mer.out: the auction has stopped (R293)
  | meridian (sector : Nat)          -- mer.out, mer.snap: the engine is not frozen (R123)
  | record (c : Nat)                 -- cq.pop: the queue holds a record for the slot (R305)
  | trackers (w : Option Nat)        -- rfence, rflush (R342)
  | tracker (w n : Nat)              -- n stores through window w wait for a tracker and places in the window queue (R341)
deriving DecidableEq, Repr

/-- A launch record (R301, R308), with the sequence it took. -/
structure LRec where
  mode    : BitVec 2
  cq      : BitVec 4
  cqen    : Bool
  channel : BitVec 6
  tag     : Word
  src     : Word
  nrec    : Nat
  map     : Word
  arg1    : Word
  arg2    : Word
  arg3    : Word
  events  : List Word
  core    : Nat                  -- pushing core
  part    : Nat
  queue   : Nat
  seq     : Nat
deriving DecidableEq, Repr

/-- One dimension of a tensor map (R233). -/
structure TDim where
  size   : BitVec 32
  bound  : BitVec 32
  stride : Word
deriving DecidableEq, Repr

/-- A tensor map (R233); `valid` false after reset and `tmclr`. -/
structure TMap where
  valid   : Bool
  base    : Word
  fmt     : BitVec 4
  padmode : BitVec 2
  padval  : BitVec 32
  dims    : List TDim
deriving DecidableEq, Repr

def TMap.invalid : TMap := ⟨false, 0, 0, 0, 0, []⟩

/-- Where an element of a push goes: its address, its value, and its home or its window (R217). -/
abbrev PushTo := Word × Nat × (Home ⊕ Nat)

/-- Why a slot is parked and what ends the park (R29). -/
inductive Park where
  | run                                              -- not parked
  | trap (entry : Option Nat)                        -- by a trap; the watched table entry, if any: its physical address plus its level (R127)
  | clean (slice pa sc : Nat)                        -- l2wb: until the line is written back (R191)
  | give (rd : Nat) (v : Word) (sc : Nat)            -- the result is there; the slot gets it as it wakes (R69)
  | divide (rd : Nat) (v : Word) (due : Nat) (sc : Nat)   -- R82
  | fdivide (rd : Nat) (v mask : QWord) (flags : BitVec 5) (due : Nat) (sc : Nat)  -- R222
  | fpush (bytes : Nat) (els : List PushTo) (flags : BitVec 5) (due : Nat) (sc : Nat)  -- R222 with a write stream as destination (R217)
  | load (ld : OutLoad) (len sc : Nat)               -- R69; len of the instruction in bytes
  | amo (a : OutAmo)                                 -- R185
  | sync (home : Home) (addr : Word) (take : Bool) (rd sc order : Nat)  -- ldsync and ldtake, by the order their waits reached the home (R182)
  | barrier (home : Option Home) (addr : Word) (phase : Bool) (rd sc : Nat) (scope : Scope)  -- wfa and wfp, the arrival made (R115); none: to be translated
  | again (w : Wait)                                 -- re-executes the instruction at its wake (R29)
  | swap (sc : Nat)                                  -- mswap in the queue (R274)
  | merGo (rd : Nat) (sc : Nat)                      -- waits for the take (R288)
  | tmset (n : Nat) (m : TMap) (sc : Nat)            -- until the map's image is read (R251)
  | topk (v : Word) (ahead rd sc : Nat)              -- mtopk, with how many earlier matrix commands of the core are not yet done (R276)
  | shoot (rd : Nat) (id : Nat) (sc : Nat)           -- tlbinv (R193)
  | group (g : Nat) (join : Bool) (sc : Nat)         -- gjoin or gleave, until the group table has recorded it (R117)
  | merOut (a g : Word) (sc : Nat)                   -- mer.out, until the engine has written its records (R294)
  | merSnap (a : Word) (l : List (BitVec 32)) (rd : Nat) (v : Word) (sc : Nat)   -- mer.snap, until the engine has written the vector (R297)
  | push (r : LRec) (sc : Nat)                       -- lq.push, its record read, until its release is met and the queue has room (R302)
deriving DecidableEq, Repr

/-- One stream of a slot (R214, R218). -/
structure Stream where
  configured : Bool
  enabled    : Bool
  fmt        : BitVec 2
  base       : Word
  count      : Nat
  write      : Bool
  acc        : Bool
  start      : Nat      -- a = x[ra][11:0] of an accumulator stream
  pos        : Nat
deriving DecidableEq, Repr

def Stream.off : Stream := ⟨false, false, 0, 0, 0, false, false, 0, 0⟩

/-- The shadow image of a copy (R238). -/
structure Shadow where
  smap    : BitVec 5
  sbase   : Word
  skind   : BitVec 2
  sremote : Word
  dmap    : BitVec 5
  dbase   : Word
  dkind   : BitVec 3
  dring   : BitVec 4
  dremote : Word
  ctl     : Word
  baddr   : Word
  postval : Word
  paddr   : Word
  actpc   : Word
  gidx    : Word
  chain   : Word
deriving DecidableEq, Repr

def Shadow.reset : Shadow := ⟨0x1F, 0, 0, 0, 0x1F, 0, 0, 0, 0, 0, 0, 0, 0, 0, 0, 0⟩

/-- The assignment shadow (R285). -/
structure MerShadow where
  loaded     : Bool
  smode      : Bool
  src        : Word
  rows       : BitVec 10
  cols       : BitVec 9
  stride     : BitVec 24
  capmode    : BitVec 2
  capaddr    : Word
  capall     : BitVec 10
  cfg        : BitVec 27
  eps        : BitVec 32
  floor      : BitVec 32
  configured : Bool
deriving DecidableEq, Repr

def MerShadow.reset : MerShadow := ⟨false, false, 0, 0, 0, 0, 0, 0, 0, 0, 0, 0, false⟩

/-- A window tracker (R341); `id` is the model's own number, by which late answers are told from those of a later tracker. -/
structure Tracker where
  id       : Nat
  window   : Nat
  out      : Nat
  fail     : Bool
  status   : Nat
  receiver : Nat
  count    : Nat
  order    : Nat       -- moment of the first failure, for the order among trackers (R342)
deriving DecidableEq, Repr

/-- What a retired write does at its home (R177): store bytes, write a nibble (R184), empty words (R181), or zero a line (R192). -/
inductive StOp where
  | bytes (l : List Byte)
  | nibble (high : Bool) (v : BitVec 4)
  | clearFull (words : Nat)
  | zeroLine
deriving DecidableEq, Repr

/-- A store of a slot that has retired and is not yet performed (R177). -/
structure PendStore where
  home : Home
  op   : StOp
deriving DecidableEq, Repr

/-- What a release that does not park its slot does once what precedes it is performed: the update of an event (R314), or a contribution to a
group, with the member's place in the fold order and the instance (R324). -/
inductive Sig where
  | event (n : Nat) (set : Bool) (v : BitVec 32)
  | contribute (group key : Nat) (v : Word) (num : BitVec 16)
deriving DecidableEq, Repr

/-- The condition a `fence` lays on later operations (R189), or that an `ev.sig` or `gcontrib` waits for with what it sends (R314, R324). -/
structure FenceCond where
  scope  : Scope
  pred   : BitVec 4
  succ   : BitVec 4
  stores : Nat          -- stores of the slot that stood before the fence
  wins   : Nat          -- reflected stores with numbers up to this one stood before it
  cmds   : List Nat     -- copy commands issued before the fence
  sig    : Option Sig   -- of an `ev.sig` or `gcontrib`: what it sends
deriving DecidableEq, Repr

/-- What started an activation (R24). -/
inductive Source where
  | message | whenRes | anonymous | engine
deriving DecidableEq, Repr

/-- The activation a slot holds (R23, R24). -/
structure Act where
  obj       : Nat          -- table index of its object; 0 for an anonymous activation (R30)
  handle    : Word         -- target handle, or the registering object's
  datum     : Bool         -- the target is a datum
  cls       : BitVec 4
  channel   : BitVec 6
  kinds     : BitVec 8
  prio      : BitVec 2
  source    : Source
  paylen    : BitVec 9
  cell      : Option Nat   -- inbox cell held, by its offset (R18)
  handler   : BitVec 48
  expansion : Option (Nat × Nat)   -- the expansion it comes from and its place there (R304)
deriving DecidableEq, Repr

def Act.none : Act := ⟨0, 0, false, 0, 0, 0, 0, .message, 0, Option.none, 0, Option.none⟩

/-- What a slot keeps for the parent while an inline child runs (R31, R98). -/
structure Inline where
  x10    : Word
  x11    : Word
  x12    : Word
  x13    : Word
  lstart : BitVec 48
  lend   : BitVec 48
  lcount : Word
  pc     : BitVec 48       -- the spawn's own address
deriving DecidableEq, Repr

/-- A slot of a core (R59). -/
structure Slot where
  x        : SMap Word
  f        : SMap QWord
  p        : SMap Byte
  pc       : BitVec 48
  ready    : Nat                 -- cycle from which the slot may issue (the stall counter, R59, R69)
  pend     : List PendWrite
  active   : Bool                -- holds an activation
  park     : Park
  frozen   : Bool
  woken    : Bool                -- a wake recorded while frozen (R123)
  waited   : Bool                -- the instruction at its PC has parked before and executes again
  act      : Act
  actNo    : Nat                 -- the model's own number of the activation
  replyh   : Word
  actarg   : Word
  xferid   : Word
  lstart   : BitVec 48
  lend     : BitVec 48
  lcount   : Word
  rmode    : BitVec 3
  rowmask  : Word
  temp     : BitVec 16
  lanep    : BitVec 3
  tcause   : BitVec 8
  taddr    : Word
  tpc      : BitVec 48
  vec      : BitVec 48           -- TVEC.VEC
  intrap   : Bool                -- TVEC.INTRAP
  tsc      : Nat                 -- stall count of the sys or brk that trapped, to count after the resumption (R118)
  grstat   : Word
  nanseen  : Word
  merstat  : BitVec 32
  merfault : BitVec 9
  retired  : Word
  elapsed  : Nat                 -- cycle from which RUNLIMIT is counted; while frozen, the cycles counted so far (R35)
  noticed  : Bool                -- the run-limit notice of this admission or wake is sent
  lost     : Bool                -- the grant its send waits for cannot be reached (R397)
  inl      : Option Inline
  streams  : SMap Stream
  shadow   : Shadow
  mshadow  : MerShadow
  auction  : Option Nat          -- the last auction the slot started (R283)
  waiting  : Bool                -- its shadow waits in the take order
  trackers : List Tracker
  stores   : List PendStore
  sends    : List (Nat × Nat)    -- ranges of packet numbers that the activation's invocation sends took (R190)
  fences   : List FenceCond
  cmds     : List Nat            -- copy commands the activation issued, by serial number
deriving DecidableEq, Repr

/-- A slot after reset. -/
def Slot.reset : Slot :=
  { x := [], f := [], p := [], pc := 0, ready := 0, pend := [], active := false, park := .run, frozen := false,
    woken := false, waited := false, act := Act.none, actNo := 0, replyh := 0, actarg := 0, xferid := 0, lstart := 0, lend := 0, lcount := 0,
    rmode := 0, rowmask := 0xFFFFFFFFFFFFFFFF, temp := 0x3F80, lanep := 0, tcause := 0, taddr := 0, tpc := 0,
    vec := 0, intrap := false, tsc := 0, grstat := 0, nanseen := 0, merstat := 0, merfault := 0, retired := 0, elapsed := 0,
    noticed := false, lost := false, inl := none, streams := [], shadow := Shadow.reset, mshadow := MerShadow.reset, auction := none,
    waiting := false, trackers := [], stores := [], sends := [], fences := [], cmds := [] }

/-! ## Messages, notices and queues -/

/-- A message's header and payload (R15). -/
structure Msg where
  target   : Word
  reply    : Word
  arg0     : Word
  arg1     : Word
  arg2     : Word
  arg3     : Word
  sender   : Nat          -- chip [24:11], cluster [10:3], core [2:0]
  seq      : BitVec 16
  channel  : BitVec 6
  fwd      : Bool         -- channel bit 6
  kinds    : BitVec 8
  cap      : BitVec 14
  payload  : List Byte
  poisoned : Bool
  hop      : Nat          -- the core whose credit it arrived on (R57, R58)
  expansion : Option (Nat × Nat)  -- expanded by the launch unit: the expansion and the place in its order (R303)
  fault    : Option Nat   -- a message to a partition's fault-handler object: the partition (R36)
deriving DecidableEq, Repr

/-- A resolution as a notice carries it (R47, R54). -/
structure Resol where
  broken : Bool
  handle : Word           -- the resolution handle, or the origin
  reason : BitVec 16
  cause  : BitVec 8
  d0     : Word           -- the datum's 32 bytes
  d1     : Word
  d2     : Word
  d3     : Word
  stale  : Option (Nat × Word)   -- the sender and target of a message that broke STALE, whose pair its sender frees (R50)
deriving DecidableEq, Repr

/-- Who waits on an entry (R55, R104). -/
inductive Watcher where
  | object (core : Nat) (obj gen : Nat) (channel : BitVec 6)   -- a `when` registration of an object, by its index and generation
  | entry (core : Nat) (idx gen : Nat)                         -- an answer entry that waits for a promise (R46)
deriving DecidableEq, Repr

/-- What travels between cores, switches and the launch unit. A core's number is laid out as the header's sender; supervisor
core i of a chip has number 2^25 + chip * 16 + i. -/
inductive Body where
  | invoke (m : Msg)
  | resolve (key : Word) (r : Resol) (hop loc : Nat)       -- hop 0: to the resolution's core, with the answer's LOC; 1: to the key's home; 2: to LOC (R47)
  | locate (key : Word) (core : Nat)                       -- R102
  | watch (h : Word) (w : Watcher)                         -- R55
  | whenAns (w : Watcher) (h : Word) (r : Resol)           -- R55
  | release (key : Word) (datum : Bool)                    -- R56
  | resvReq (cluster : Nat)                                -- R57
  | grant (cluster : Nat)
  | credit (cluster : Nat)
  | giveBack (cluster : Nat)                                 -- a block of 8 goes back (R57)
  | endNotice (expansion : Nat × Nat) (reason : BitVec 16) -- R304
  | contribution (group : Nat) (id : Nat) (v : Word) (num : BitVec 16)   -- R324
  | partialUp (group : Nat) (port : Nat) (v : Word) (count nan : Nat) (num : BitVec 16)
  | result (group : Nat) (v : Word) (status count nan : Nat) (num : BitVec 16)
  | closeAsk (window : Nat)                                -- R344
  | closeAns (window : Nat)                                -- R344
deriving DecidableEq, Repr

/-- A packet in transit. -/
structure Packet where
  id   : Nat              -- model's own number
  src  : Nat
  dst  : Nat
  body : Body
deriving DecidableEq, Repr

/-- A waiting head's contents (R19, R30, R241, R315). -/
inductive QBody where
  | msg (m : Msg) (cell : Option Nat)                      -- with its inbox cell, once it has one
  | whenRes (channel : BitVec 6) (h : Word) (r : Resol)
  | anon (pc : BitVec 48) (a0 a1 a2 a3 : Word) (expansion : Option (Nat × Nat))
  | engine (pc : BitVec 48) (postval xferid : Word)
  | arm (pc : BitVec 48) (word addr : Word)
deriving DecidableEq, Repr

/-- A place in an object's queue or the anonymous queue. `since` is the cycle it became head and runnable (R21). -/
structure QItem where
  body   : QBody
  sender : Nat
  since  : Option Nat
deriving DecidableEq, Repr

/-- A handle-table entry (R41): its eight doublewords, as they stand in memory. -/
structure HEntry where
  w0 : Word
  w1 : Word
  w2 : Word
  w3 : Word
  w4 : Word
  w5 : Word
  w6 : Word
  w7 : Word
deriving DecidableEq, Repr

/-- A send or receive pair (R50), read from its 16 bytes. -/
structure Pair where
  keyh : BitVec 50
  peer : Nat
  num  : BitVec 16
  next : Nat
deriving DecidableEq, Repr

def Pair.free : Pair := ⟨0, 0, 0, 0⟩

/-- A cell of the queue-record pool (R41, R51): a queued invocation or a `when` record, and the next cell of its list. -/
structure QCell where
  msg   : Option Msg
  watch : Option Watcher
  next  : Nat
deriving DecidableEq, Repr

/-- What waits at a core for a free entry, pair, cell, place or credit (R44, R45, R52, R55, R58). -/
inductive Held where
  | packet (p : Packet)                                                    -- refused, and kept at the previous hop
  | brk (reply : Word) (loc : Nat) (r : Resol)                             -- a break that needs an entry
  | forward (m : Msg) (dst cell : Nat)                                     -- a forward that waits for a grant, in its cell (R58)
  | notice (key : Word) (dst : Nat) (r : Resol) (hop loc : Nat)            -- a notice behind the queued messages of its key (R47)
  | pair (i keyh sender : Nat)                                             -- messages of a pair that now match (R52)
  | pass (key : Word)                                                      -- messages held for an own promise that go on (R102)
  | ask (key : Nat)                                                        -- a reservation request, while no block can go back (R57)
deriving DecidableEq, Repr

/-- Credits a core holds for one target cluster (R57). -/
structure Credit where
  blocks    : Nat
  avail     : Nat
  requested : Bool            -- a block is wanted, and its request sent but for a `Held.ask`
  last      : Nat             -- cycle of the last send or grant
deriving DecidableEq, Repr

def Credit.none : Credit := ⟨0, 0, false, 0⟩

/-! ## Copy engines -/

/-- Where a command stands (R231, R244). -/
inductive CmdStage where
  | queued | armed | held | fired | running | looping | done | cancelled
deriving DecidableEq, Repr

/-- Destination bytes of one item on their way to a remote window: the window offset, the item's place in the walk. -/
structure Seg where
  off    : Nat
  bytes  : List Byte
  poison : Bool
  item   : Nat
deriving DecidableEq, Repr

/-- A get that is not yet answered (R347): its packet's number, the first place of the walk it writes, its item's place,
the elements asked for. -/
structure GetReq where
  id    : Nat
  pos   : Nat
  item  : Nat
  count : Nat
deriving DecidableEq, Repr

/-- A copy command with the maps and values it took at issue (R234, R238). -/
structure CopyCmd where
  serial  : Nat                -- model's own number, rising over the chip's life
  id      : BitVec 16
  core    : Nat
  slot    : Nat
  part    : Nat
  sh      : Shadow
  smap    : TMap
  dmap    : TMap
  loop    : Bool
  iters   : Nat
  stages  : Nat
  steps   : List Int           -- STEP_d of the step record
  sstride : Word
  busy    : List Nat           -- busy stages (R245)
  iter    : Nat                -- iteration in hand, or next
  trig    : Option (Option Home × Word)   -- counter, none on a discarded page, and threshold (R246)
  counter : Word               -- the counter's address
  met     : Bool               -- the counter has been seen at the threshold, at the end of a cycle
  stage   : CmdStage
  pos     : Nat                -- places of the walk behind it: two for each destination element, its first bytes and those behind a line's end
  ring    : Option Nat         -- the ring stage it reserved (R259)
  status  : BitVec 8           -- of the iterations behind it: their first failing item, else PHASE where an arrive failed
  istatus : BitVec 8           -- of the iteration in hand
  failed  : Nat
  refused : Bool
  chain   : List Nat           -- chips after DREMOTE (R361)
  sent    : Nat                -- remote packets unanswered
  words   : List Word          -- addresses of destination words that hold a written byte, for the fill of the iteration in hand
  segs    : List Seg           -- remote bytes not yet sent
  gets    : List GetReq
  fitems  : List Nat           -- items of the iteration in hand that failed, by their first place in the walk
  skips   : List Nat           -- those of them whose bytes are not to be written
  fpos    : Option Nat         -- place in the walk of the first failing item of the iteration in hand
  ended   : Bool               -- the iteration's last payload byte is written or sent, and its ring stage with it
  told    : Bool               -- arrive, post and fill of the iteration in hand are done; its activation waits
deriving DecidableEq, Repr

/-- An engine (R231). -/
structure Engine where
  cmd    : Option CopyCmd
  frozen : Bool
  rr     : Nat        -- core whose queue it served last
deriving DecidableEq, Repr

/-- An engine with nothing in hand, which serves core 0 first (DESIGN CHOICE, log entry 99). -/
def Engine.idle : Engine := ⟨none, false, 7⟩

/-- An entry of a core's status table (R244). -/
structure XStat where
  used   : Bool
  id     : BitVec 16
  state  : BitVec 3
  status : BitVec 8
  failed : BitVec 32
deriving DecidableEq, Repr

def XStat.empty : XStat := ⟨false, 0, 0, 0, 0⟩

/-! ## Matrix unit -/

/-- A ring (R258). CLAIM, POP, QCNT and QRET are kept per consumer core. -/
structure Ring where
  defined : Bool
  scale   : Bool
  group   : BitVec 2
  owner   : Nat
  first   : Nat
  nbanks  : Nat
  fmt     : BitVec 4
  cmask   : BitVec 8
  resv    : BitVec 32
  head    : BitVec 32
  was     : BitVec 32          -- HEAD before the cycle in which it last moved
  moved   : Nat                -- one more than that cycle (R279)
  done    : List Nat           -- reserved stages written but not yet produced in order
  claim   : SMap (BitVec 32)
  pop     : SMap (BitVec 32)
  qcnt    : SMap Nat
  qret    : SMap Nat
deriving DecidableEq, Repr

def Ring.undefined : Ring := ⟨false, false, 0, 0, 0, 0, 0, 0, 0, 0, 0, 0, [], [], [], [], []⟩

/-- An accepted matrix command (R261). -/
inductive MatCmd where
  | mma (ringA ringB : Nat) (sa sb : BitVec 32) (mask : Word) (slot act : Nat) (pc : BitVec 48)
  | mmaq (ringA ringB ringS : Nat) (sa sb ss : BitVec 32) (mask : Word) (slot act : Nat) (pc : BitVec 48)
  | mzero
  | mswap (slot act : Nat) (mask : Word) (temp : BitVec 16)
  | mepi (cfg : Word)
  | mseed (seed : Word)
deriving DecidableEq, Repr

/-- The epilogue state of a core (R267). Pairs are (score, column), highest first. -/
structure Epi where
  k       : BitVec 4
  noise   : Bool
  colnext : BitVec 16
  limit   : BitVec 16
  gens    : SMap Word
  lists   : SMap (List (BitVec 32 × BitVec 16))
  poison  : Bool
  running : Option (Word × BitVec 16)    -- ROWMASK and TEMP of the epilogue under way
  due     : Nat                          -- cycle at which it ends
deriving DecidableEq, Repr

def Epi.reset : Epi := ⟨0, false, 0, 0, [], [], false, none, 0⟩

/-! ## Cores -/

/-- A handler-table entry (R14). -/
structure Handler where
  pc    : BitVec 48
  prio  : BitVec 2
  mask  : Bool
  valid : Bool
deriving DecidableEq, Repr

def Handler.reset : Handler := ⟨0, 0, false, false⟩

/-- A class descriptor (R13). -/
structure ClassD where
  valid   : Bool
  datum   : Bool
  inbox   : BitVec 4
  inboxen : Bool
deriving DecidableEq, Repr

def ClassD.reset : ClassD := ⟨false, false, 0, false⟩

/-- A region descriptor of a core (R12), or a protection region of a cluster (R130; `name` unused). -/
structure Region where
  base  : BitVec 20
  size  : BitVec 21
  part  : BitVec 8
  valid : Bool
  rd    : Bool
  wr    : Bool
  name  : Word
deriving DecidableEq, Repr

def Region.reset : Region := ⟨0, 0, 0, false, false, false, 0⟩

/-- A core: its configuration block, its interface and its shares of the engines. -/
structure Core where
  handlers : SMap Handler
  classes  : SMap ClassD
  regions  : SMap Region
  agesint  : BitVec 24           -- AGEINT
  htbase   : BitVec 48
  seqbase  : BitVec 48
  sendlog  : BitVec 4
  recvlog  : BitVec 4
  qbase    : BitVec 48
  qlog     : BitVec 4
  rused    : List Nat            -- receive pairs in use (R51)
  cells    : SMap QCell          -- cells of the queue-record pool in use
  freedAt  : Nat                 -- cycle in which a pair or cell was last freed (R51)
  freedPairs : List Nat          -- receive pairs freed in that cycle, free again from the next on
  freedCells : List Nat          -- cells freed in that cycle
  dataDue  : List Nat            -- local promises resolved to a datum elsewhere, its bytes still to come (R47)
  keyless  : List Nat            -- datum entries whose key a release notice has removed (R56), which `hnew` did not make (R104)
  queues   : SMap (List QItem)   -- by table index
  anon     : List QItem
  reorder  : List Msg
  held     : List Held
  credits  : SMap Credit         -- by chip * 256 + cluster
  last     : Nat                 -- slot last issued from (R27)
  issued   : Nat                 -- one more than the cycle of the last issue (R27)
  admitted : Nat                 -- one more than the cycle of the last admission (R20)
  flags    : BitVec 5
  flagsDue : BitVec 5            -- flags of results delivered in this cycle, which FLAGS takes at its end (R202)
  mflags   : BitVec 5
  scheck   : Bool
  govstall : BitVec 32
  govSince : Nat                 -- one more than the cycle up to which the governor's refusals are counted, 0 for none
  tmaps    : SMap TMap
  xq       : List CopyCmd
  xstat    : SMap XStat
  xseq     : BitVec 13
  mq       : List MatCmd
  working  : SMap (BitVec 32)    -- row * 64 + column
  visible  : SMap (BitVec 32)
  wpoison  : Bool
  vpoison  : Bool
  epi      : Epi
  quar     : Bool                -- quarantined (R379)
  waitGrant : List Nat           -- clusters a grant of which slots wait for
  notices  : SMap Nat            -- cycle of the last table-full notice, by table (R36)
deriving DecidableEq, Repr

def Core.reset : Core :=
  { handlers := [], classes := [], regions := [], agesint := 0x7D0, htbase := 0, seqbase := 0, sendlog := 0,
    recvlog := 0, qbase := 0, qlog := 0, rused := [], cells := [], freedAt := 0, freedPairs := [], freedCells := [], dataDue := [], keyless := [], queues := [], anon := [],
    reorder := [], held := [], credits := [], last := 0, issued := 0, admitted := 0, flags := 0, flagsDue := 0, mflags := 0, scheck := false, govstall := 0, govSince := 0,
    tmaps := [], xq := [], xstat := [], xseq := 0, mq := [], working := [], visible := [], wpoison := false,
    vpoison := false, epi := Epi.reset, quar := false, waitGrant := [], notices := [] }

/-! ## Clusters and sectors -/

/-- A bank register (R132); `next` is the role a drain leads to. -/
structure Bank where
  role : BitVec 2
  fmt  : BitVec 4
  busy : Bool
  next : BitVec 2
deriving DecidableEq, Repr

def Bank.reset : Bank := ⟨0, 0, false, 0⟩

/-- A leaf entry as a TLB holds it (R143), with the size of its page in 64 KiB units. -/
structure Leaf where
  word  : Word
  pages : Nat
  line  : Nat        -- the table entry, which the monitor watches (R144): its physical address plus its level
deriving DecidableEq, Repr

/-- A store on its way to the window port (R337). -/
structure WStore where
  slot  : Nat
  tracker : Nat
  no    : Nat        -- the store's number, rising over the chip's life
  part  : Nat
  winno : Nat
  addr  : Word
  bytes : List Byte
deriving DecidableEq, Repr

/-- A step in the array (R264, R266). -/
structure Step where
  core  : Nat
  cmd   : MatCmd
  due   : Nat
deriving DecidableEq, Repr

/-- A cluster; domain 256 + i uses only the translation fields, for supervisor core i (R140). -/
structure Cluster where
  prot    : SMap Region
  banks   : SMap Bank
  en      : Bool
  root    : BitVec 28
  tlb     : SMap Leaf            -- by virtual page number, va / 65536
  l1      : List Nat             -- L1 lines held, by physical line number
  weights : SMap (BitVec 4)
  ptr     : Nat
  credit  : Nat
  budget  : BitVec 8             -- of the sector, at its corner cluster (R265)
  granted : Nat
  govLast : Nat
  govAt   : Nat                  -- one more than the cycle in which the governor last divided what its window had left, and the units it then allowed (R265)
  govSet  : List Nat
  biaspart : BitVec 8            -- at the corner cluster (R284)
  req     : BitVec 2
  pstate  : BitVec 2
  pbusy   : Bool
  used    : Nat                  -- receive-queue slots in use
  lent    : Nat                  -- blocks out
  waiters : List Nat             -- requesting cores, oldest first
  rings   : SMap Ring
  array   : Option Step
  steps   : Nat                  -- granted steps counted (R266)
  engine0 : Engine
  engine1 : Engine
  pending : List CopyCmd         -- triggered, held and looping commands (R231, R245)
  wq      : List WStore          -- the interface's window queue
deriving DecidableEq, Repr

def Cluster.reset : Cluster :=
  { prot := [], banks := [], en := false, root := 0, tlb := [], l1 := [], weights := [], ptr := 0, credit := 0,
    budget := 0, granted := 0, govLast := 0, govAt := 0, govSet := [], biaspart := 0, req := 0, pstate := 0, pbusy := false, used := 0, lent := 0,
    waiters := [], rings := [], array := none, steps := 0, engine0 := Engine.idle, engine1 := Engine.idle,
    pending := [], wq := [] }

/-- An auction (R283, R288 to R291). -/
structure Auction where
  id      : Nat
  slot    : Nat
  part    : Nat
  sh      : MerShadow
  gen     : BitVec 32
  bias    : SMap (BitVec 32)
  caps    : SMap Nat
  cands   : SMap (List (Nat × BitVec 32))      -- by row: column and score
  prices  : SMap (BitVec 32)
  held    : SMap (Nat × BitVec 32)             -- by copy (row * 4 + q): column held and bid
  rounds  : Nat
  stopped : Bool
  ran     : Bool                               -- false: an auction that never ran (R293)
  cause   : BitVec 2
  poison  : Bool
  abandon : Bool
deriving DecidableEq, Repr

/-- A sector's Meridian engine (R283, R295). -/
structure Sector where
  order   : List Nat             -- slots whose shadows wait, in take order
  current : Option Nat           -- auction that runs
  buffers : List Auction         -- result buffers in use, at most four
  bias    : SMap (BitVec 32)
  gen     : BitVec 32
  frozen  : Bool
  resume  : List Nat             -- restored auctions that go on before any shadow is taken (R299)
  tc      : SMap Leaf            -- the Meridian translation cache (R146), by domain * 2^32 + virtual page number
  walkAt  : Nat                  -- one more than the cycle in which the sector's walker last took a walk
  walks   : List Nat             -- the pages it walks in that cycle, numbered likewise
deriving DecidableEq, Repr

def Sector.reset : Sector := ⟨[], none, [], [], 0, false, [], [], 0, []⟩

/-- A watched table line of one walker (R127, R146), by sector * 2^34 + physical line: waiting slots, and held copy
commands by serial number with the entry each waits for. -/
structure Monitor where
  slots : List Nat
  cmds  : List (Nat × Nat)       -- serial, entry
  armed : Bool                   -- false: none of the 128 monitors was free; the walker polls
  due   : Option Nat             -- cycle of the next reread, while the walker polls
deriving DecidableEq, Repr

def Monitor.none : Monitor := ⟨[], [], false, Option.none⟩

/-! ## Launch unit -/

/-- A launch queue (R306). -/
structure LQueue where
  part : BitVec 8
  prio : BitVec 2
  en   : Bool
  recs : List LRec
  seq  : Nat
deriving DecidableEq, Repr

def LQueue.reset : LQueue := ⟨0, 0, false, [], 0⟩

/-- A completion record's four doublewords (R304). -/
structure CRec where
  w0 : Word
  w1 : Word
  w2 : Word
  w3 : Word
deriving DecidableEq, Repr

/-- An arm of `cq.pop.act` (R315). -/
structure Arm where
  core : Nat
  part : Nat
  pc   : BitVec 48
  addr : Word
deriving DecidableEq, Repr

/-- A completion queue (R307). -/
structure CQueue where
  part : BitVec 8
  en   : Bool
  recs : List CRec
  arm  : Option Arm
  regs : List (Option Nat)       -- who waits for a record, oldest first: a slot parked in cq.pop, or (none) the arm
deriving DecidableEq, Repr

def CQueue.reset : CQueue := ⟨0, false, [], none, []⟩

/-- An event (R311). -/
structure EvReg where
  count  : BitVec 32
  part   : BitVec 8
  group  : BitVec 12
  gbind  : Bool
  failed : Bool
  addAt  : Nat                   -- one more than the cycle in which bound results were last added, and how many (R323)
  adds   : BitVec 32
deriving DecidableEq, Repr

def EvReg.reset : EvReg := ⟨0, 0, 0, false, false, 0, 0⟩

/-- A record in expansion (R303, R309, R310). -/
structure Expansion where
  id     : Nat                   -- chip * 2^40 + a running number
  lrec   : LRec
  i      : Nat                   -- part in hand
  t      : Nat                   -- tile within it
  rflags : BitVec 8
  count  : Nat
  ended  : Nat
  failed : Option (Nat × BitVec 16)   -- earliest failed place in expansion order, with its reason
  read   : Bool                  -- every part has been read
  part   : Option (List Word)    -- the doublewords read of the part in hand; under MODE 1 the cluster mask
  place  : Nat                   -- place of its completion among those of the chip, 0 while it is not complete
deriving DecidableEq, Repr

/-- A slice register (R318). -/
structure Slice where
  slice : BitVec 32
  armed : Bool
  area  : BitVec 32              -- AREA [47:16]
  count : Nat
deriving DecidableEq, Repr

def Slice.reset : Slice := ⟨0, false, 0, 0⟩

structure Launch where
  queues : SMap LQueue
  comps  : SMap CQueue
  events : SMap EvReg
  slices : SMap Slice
  exps   : List Expansion        -- taken earliest first
  lastOf : SMap Nat              -- by priority: the queue last taken
  nextId : Nat
  took   : Nat                   -- one more than the cycle in which a record was last taken (R310)
  sent   : Nat                   -- one more than the cycle in which a message was last sent
  ended  : Nat                   -- expansions that have completed
  lost   : List (Nat × Nat)      -- (core, cluster key) whose reservation request could not be delivered (R397)
deriving DecidableEq, Repr

def Launch.reset : Launch := ⟨[], [], [], [], [], [], 0, 0, 0, 0, []⟩

/-! ## The Wyvik switch -/

/-- A receiver descriptor (R334). -/
structure Recv where
  chip   : BitVec 14
  window : BitVec 10
  gen    : BitVec 16
  valid  : Bool
  relay  : Bool
deriving DecidableEq, Repr

def Recv.reset : Recv := ⟨0, 0, 0, false, false⟩

/-- A transmit entry (R333). -/
structure TxEnt where
  valid : Bool
  part  : BitVec 8
  size  : BitVec 21
  vbase : BitVec 32
  recv  : SMap Recv
deriving DecidableEq, Repr

def TxEnt.reset : TxEnt := ⟨false, 0, 0, 0, []⟩

/-- A receive entry (R335). -/
structure RxEnt where
  st       : BitVec 2
  loopback : Bool
  redok    : Bool
  sendmap  : Bool
  part     : BitVec 8
  keyslot  : BitVec 8
  gen      : BitVec 16
  size     : BitVec 21
  plist    : BitVec 40
  smap     : BitVec 40
  pending  : Nat
  since    : Nat                 -- one more than the cycle in which CLOSING was last set, from which CLOSEAGE counts; 0 before
  taken    : Nat                 -- packets taken and not yet answered
  sigen    : Bool
  sigoff   : BitVec 33
deriving DecidableEq, Repr

def RxEnt.reset : RxEnt := ⟨0, false, false, false, 0, 0, 0, 0, 0, 0, 0, 0, 0, false, 0⟩

/-- A far destination (R348). -/
structure FarD where
  valid   : Bool
  qp      : Bool
  conn    : BitVec 12
  rgroup  : BitVec 8
  port    : BitVec 2
  udp     : BitVec 16
  chip    : BitVec 14
  addr    : BitVec 128
  flow    : BitVec 12
deriving DecidableEq, Repr

def FarD.reset : FarD := ⟨false, false, 0, 0, 0, 0, 0, 0, 0⟩

/-- A rate group (R351). -/
structure RGroup where
  rate   : BitVec 20
  max    : BitVec 20
  srtt   : BitVec 24
  halved : Bool                  -- halved in the running SRTT
  since  : Nat                   -- cycle at which the running SRTT began
  timer  : Bool                  -- its end stands out as a step
deriving DecidableEq, Repr

def RGroup.reset : RGroup := ⟨0x13880, 0x13880, 0, false, 0, false⟩

/-- What a window packet asks for (R339, R346, R347): a reflected store, a remote write, a reduction or a get. -/
inductive WOp where
  | store (gen : BitVec 16) (relay : Bool)   -- RELAY of its descriptor (R334)
  | write
  | reduce (op fmt : BitVec 2)       -- 1 add, 2 max, 3 absmax; RFMT
  | get (bytes : Nat)
deriving DecidableEq, Repr

/-- A window packet: on its way out (`dst` another chip), looping back, or arrived. -/
structure WPack where
  id      : Nat                  -- model's own number, by which answers are matched
  src     : Nat                  -- sending chip
  dst     : Nat                  -- receiving chip
  core    : Nat                  -- writing or issuing core, laid out as the header's sender field
  slot    : Nat                  -- its slot; 0 for an engine
  txwin   : Nat                  -- transmit window; 1024 for engine traffic
  recv    : Nat                  -- receiver descriptor index
  window  : Nat
  off     : Nat
  bytes   : List Byte
  op      : WOp
  key     : BitVec 14
  poison  : List (Nat × Nat)     -- the ranges of its bytes that are poisoned (R375)
  relays  : Nat
  serial  : Nat                  -- copy command, for engine traffic
  msgId   : Nat
  index   : Nat
  total   : Nat
  seq     : BitVec 32            -- of a queue pair (R350)
  chain   : List Nat
  sentAt  : Nat
  resent  : Nat                  -- cycle of the last sending
  far     : Option Nat           -- far destination used
  tracker : Nat                  -- the writer's tracker, 0 for none
  no      : Nat                  -- the number of the reflected store it carries, 0 for none
  items   : List Nat             -- places in the walk of the items it carries
  relayOf : Option (Nat × Nat)   -- sending chip and number of the packet this one passes on, answered after it
  ce      : Bool                 -- it came in over Ethernet marked congestion experienced (R348)
deriving DecidableEq, Repr

/-- An answer to a window packet: status 0 is an acknowledgement. -/
structure WAns where
  id     : Nat
  src    : Nat                   -- the chip that answers
  dst    : Nat
  status : BitVec 8
  data   : List Byte             -- of a get
  poison : Bool
  echo   : Bool                  -- ECN echo (R351)
  lost   : Option Packet         -- the message packet that a NACK 0x05 answers (R397)
deriving DecidableEq, Repr

/-- What leaves at an Ethernet port for a far destination entry (R348): a packet, an answer of this chip to packet `q`, the NACK of a
queue pair with the number it expects (R350), and a close notice for a window or the answer to one. -/
inductive EthOut where
  | packet (entry : Nat) (p : WPack)
  | answer (entry : Nat) (q : WPack) (status : BitVec 8) (data : List Byte) (poison echo : Bool)
  | expected (entry : Nat) (q : WPack) (num : BitVec 32)
  | close (entry window : Nat) (answer : Bool)
  | rekey (entry : Nat)                              -- the marker after which the flow goes on under its new key (R384)
deriving DecidableEq, Repr

/-- What arrives at an Ethernet port from a far chip: window traffic, an answer to a packet of this chip, a close notice for a window or the answer
to one (R348), and the rekey marker of its flow (R384). -/
inductive EthIn where
  | packet (p : WPack)
  | answer (a : WAns)
  | close (chip window : Nat) (answer : Bool)
  | rekey (chip : Nat)
deriving DecidableEq, Repr

/-- A packet at an Ethernet port: its flow, its number in the flow, its nonce (R384), its payload header (R348), and what it is. -/
structure EthPkt where
  flow   : Nat
  num    : Nat
  nonce  : BitVec 96
  header : List Byte
  what   : EthOut
deriving DecidableEq, Repr

/-- A packet that was placed and passed on, to be answered when `left` onward copies are (R338, R361). -/
structure Relay where
  orig   : WPack
  left   : Nat
  status : BitVec 8
deriving DecidableEq, Repr

/-- An entry of the far message table (R349). -/
structure FarMsg where
  src  : Nat
  id   : Nat
  seen : List Nat
  got  : Nat
  tomb : Option Nat              -- cycle at which the tombstone was made
deriving DecidableEq, Repr

/-- A flit on a link (R358): the fields of its link header, its 120 payload bytes and its CRC, and what the model knows of the packet it
belongs to. -/
structure Flit where
  seq    : BitVec 9
  ack    : BitVec 9
  retry  : Bool
  vc     : BitVec 2
  cls    : Bool
  cbuf   : BitVec 3
  ccount : BitVec 3
  poison : Bool
  head   : Bool
  tail   : Bool
  idle   : Bool
  payload : List Byte            -- bytes 0 to 119 as they travel, encrypted (R384)
  crc    : BitVec 32
  tagOk  : Bool                  -- the packet's GCM tag verifies (R384)
  marker : Bool                  -- a rekey marker packet (R384)
  dest   : Nat                   -- destination chip of the packet
  packet : Option Packet         -- the packet it completes, with its tail
  wpack  : Option WPack
  wans   : Option WAns
deriving DecidableEq, Repr

/-- A port's link state (R359, R360, R384). -/
structure Port where
  incoming : List Flit           -- flits at the receiver, oldest first
  out      : List Flit           -- flits queued for the link
  kept     : List Flit           -- sent and not acknowledged, at most 256
  counts   : SMap Nat            -- free places at the other end by VC * 2 + CLS; 16 where unlisted
  expect   : BitVec 9
  nextSeq  : BitVec 9
  asking   : Bool                -- RETRY is set on the next flit back
  back     : SMap Nat            -- places freed at the receiver and not yet returned, by VC * 2 + CLS
  coming   : SMap (Nat × List Nat)   -- by VC * 2 + CLS: flits taken of the packet in progress, and those of them that are poisoned
  again    : List Flit           -- kept flits to be sent again, oldest first
  sent     : List Flit           -- what left last: the flits of one step
  resends  : Nat                 -- resends without progress
  resent   : Nat                 -- flits resent since the link last came up
  retrains : Nat
  down     : Bool
  epoch    : BitVec 32           -- of the receiving direction (R384)
  nextKey  : Bool                -- a next key is installed for it (R385)
  packets  : Nat                 -- its packet counter
  tagFails : Nat
  epochOut : BitVec 32           -- epoch and packet counter of the sending direction
  packetsOut : Nat
deriving DecidableEq, Repr

def Port.reset : Port := ⟨[], [], [], [], 0, 0, false, [], [], [], [], 0, 0, 0, false, 0, false, 0, 0, 0, 0⟩

/-- A group entry of the switch (R362). -/
structure Group where
  valid    : Bool
  part     : BitVec 8
  op       : BitVec 4
  parent   : BitVec 4
  children : BitVec 8
  timeout  : BitVec 32
  nexti    : BitVec 16
  late     : BitVec 32
  closed   : List (BitVec 16)    -- closed instances that lie before NEXTI (R330)
deriving DecidableEq, Repr

def Group.reset : Group := ⟨false, 0, 0, 0, 0, 0, 0, 0, []⟩

/-- A member record (R363): identity is core index * 4096 + table index for an object, or, for an anonymous
activation, core index * 4096 * 8 + slot with `anon`. -/
structure Member where
  group   : Nat
  core    : Nat
  anon    : Bool
  idx     : Nat                  -- table index, or slot
  counter : BitVec 16
  joined  : BitVec 16            -- instances before this one are not the member's: the counter at gjoin, moved on as results come (R329)
  result  : Word
  status  : BitVec 8
  count   : Nat
  nan     : Nat
  num     : BitVec 16
  has     : Bool                 -- a result has been delivered
  sent    : Bool                 -- it has contributed since it joined
deriving DecidableEq, Repr

/-- A reduction slot (R329): contributions present as (order key, value, count, NaN count). -/
structure RSlot where
  group  : Nat
  num    : BitVec 16
  expect : List Nat              -- order keys still expected
  got    : List (Nat × (Word × (Nat × Nat)))
  since  : Nat
  sentUp : Bool
deriving DecidableEq, Repr

structure Fabric where
  tx      : SMap TxEnt
  rx      : SMap RxEnt
  far     : SMap FarD
  rates   : SMap RGroup
  closetmo : BitVec 16
  placetmo : BitVec 16
  msglife  : BitVec 16
  coord   : BitVec 28
  coordSet : Bool                -- the supervisor has written the coordinate register, and an entry of the route table (R391)
  routesSet : Bool
  routes  : SMap (BitVec 18)
  ports   : SMap Port
  groups  : SMap Group
  members : List Member
  rslots  : SMap RSlot           -- slots 0 to 63
  flying  : List WPack           -- packets at this chip's receiver side, oldest first
  outgo   : List WPack           -- sent and unanswered
  answers : List WAns
  relaying : List Relay
  farTab  : List FarMsg
  inMsgs  : List FarMsg          -- messages that arrive in order, for their signal (R346)
  sendSeq : SMap (BitVec 32)     -- per connection (R350)
  recvSeq : SMap (BitVec 32)
  farMsgId : Nat
  onward   : SMap Nat            -- numbers of messages passed on over Ethernet, by issuing chip * 2^32 + its number (R361)
  etherOut : List EthPkt         -- what has left at the Ethernet ports, oldest first
  nextId  : Nat
  tookAt  : Nat                  -- one more than the cycle in which the window port last took a store (R337)
deriving DecidableEq, Repr

def Fabric.reset : Fabric :=
  { tx := [], rx := [], far := [], rates := [], closetmo := 0x64, placetmo := 0x3E8, msglife := 0x7D0, coord := 0,
    coordSet := false, routesSet := false, routes := [], ports := [], groups := [], members := [], rslots := [], flying := [], outgo := [], answers := [], relaying := [],
    farTab := [], inMsgs := [], sendSeq := [], recvSeq := [], farMsgId := 0, onward := [], etherOut := [], nextId := 0, tookAt := 0 }

/-! ## The chip -/

/-- A partition descriptor (R34). STATE 0 idle, 1 running, 2 saved, 3 resetting. -/
structure Part where
  partno   : BitVec 8
  known    : Bool            -- PARTNO is the partition's own number: it is described
  collo    : BitVec 4
  rowlo    : BitVec 4
  colhi    : BitVec 4
  rowhi    : BitVec 4
  key      : BitVec 14
  keyslot  : BitVec 8
  st       : BitVec 2
  runlimit : BitVec 32
  gbase    : BitVec 12
  gcount   : BitVec 13
deriving DecidableEq, Repr

def Part.reset : Part := ⟨0, false, 0, 0, 0, 0, 0, 0, 0, 0, 0, 0⟩

/-- A line of an L2 slice (R137). Its bytes and full bits lie in `mem` and `full` under the slice's keys; `mask` is the write mask, bit i
for byte i, and `dirty` says that the line, or its poison bit, is still to be written back. -/
structure L2Line where
  dirty   : Bool
  mask    : BitVec 64
  keyslot : BitVec 8
deriving DecidableEq, Repr

/-- A key slot (R383); `key` is the model's own number of the key, by which one key is told from another. -/
structure KeySlot where
  loaded : Bool
  loads  : BitVec 32
  key    : Nat
deriving DecidableEq, Repr

def KeySlot.reset : KeySlot := ⟨false, 0, 0⟩

/-- A shootdown under way (R193). -/
structure Shoot where
  id    : Nat
  slot  : Nat
  part  : Nat
  first : Nat          -- first 64 KiB page
  pages : Nat
  ranges : List (Nat × Nat)   -- the pages it removes: the range, and larger pages that overlap it (R193)
deriving DecidableEq, Repr

/-- A save of a partition. Its area holds the fields that R320 gives one by one and the state of rings, auctions and the launch unit; what a JS7
packs into the ranges of its slot and core records that R320 leaves open is kept whole here, under the number that the area holds. -/
structure Saved where
  no      : Nat                          -- the save's number, rising over the chip's life
  area    : Word
  moved   : Bool
  desc    : Part
  sram    : Nat                          -- offset of the SRAM images in the area
  slots   : SMap Slot
  cores   : SMap Core
  pending : SMap (List CopyCmd)
  engines : SMap (Engine × Engine)
  events  : SMap EvReg                   -- events of the partition as they stood at the save
  ended   : List (Nat × Nat × BitVec 16) -- end notices of its expansions that have come since: expansion, place, reason
  touched : List Nat                     -- cores whose SEQBASE or QBASE has been written since
  dom     : Nat                          -- the domain under whose root the area lies
  since   : Nat                          -- cycle of the save
deriving DecidableEq, Repr

/-- A record on its way to the chip supervisor queue (R370): cause, bytes 2 to 7, and the second and third doublewords. -/
structure SRec where
  cause : BitVec 16
  info  : BitVec 48
  w1    : Word
  w2    : Word
deriving DecidableEq, Repr

/-- A request of the Astrolabe mailbox (R385). -/
structure MailReq where
  op     : BitVec 8
  arg    : BitVec 8
  buf    : BitVec 48
  status : BitVec 8              -- what STATUS will read when BUSY clears
deriving DecidableEq, Repr

/-- What a boot reports over the management port: the device's public key (R386), the rows that stay as erasures (R382), and a step that
failed (R391). -/
inductive Mgmt where
  | publicKey (k : BitVec 10496)
  | erasures (l : List (Nat × BitVec 32))
  | failed (step : Nat)
deriving DecidableEq, Repr

/-- The chip control block and Astrolabe (R36, R172, R370 to R390). -/
structure Chip where
  fhandle : SMap Word
  fullEn  : Bool
  fullBase : BitVec 6
  sqbase  : BitVec 48
  sqlog   : BitVec 4
  sqhead  : BitVec 32
  sqtail  : BitVec 32
  lost    : BitVec 32
  rstPart : BitVec 8
  rstBusy : Bool
  paction : BitVec 256
  keys    : SMap KeySlot
  mail    : Option MailReq
  mstatus : BitVec 8
  meas    : SMap (BitVec 256)
  jobs    : List (Word × BitVec 256)     -- open jobs: handle, digest of the start record
  counter : Word
  prev    : BitVec 256
  wdog    : Nat                          -- cycle of the last write of 0x310
  repair  : List (Nat × BitVec 32)       -- channel and entry of the repair tables
  pendRep : List (Nat × BitVec 32)       -- Astrolabe's pending-repair list
  corrected : List (Nat × Nat)           -- line row and symbol corrected in this scrub period
  thermal : Nat                          -- one more than the cycle of the last thermal override
  ratestep : BitVec 16
  chipid  : BitVec 14
  linkKeys : SMap (BitVec 256)           -- by port * 4: the current key of its receiving direction, of its sending one, and the next key (R384, R385)
  flowKeys : SMap (BitVec 256)           -- by flow * 4: the keys of its two directions and the next key, as in `linkKeys`
  flowNext : SMap Nat                    -- by flow: the number of its next packet out (R384)
  flowSeen : SMap (Nat × List Nat)       -- by flow: highest packet number accepted, and those accepted below it
  flowFails : SMap Nat                   -- by flow: tag failures in its epoch; from the third on it is down (R384)
  opened  : Bool                         -- step 4 of the boot has ended: links and Ethernet ports take traffic (R391)
  slew    : Int                          -- correction of TIME still to be made, in ns (R393)
  slewed  : Nat                          -- cycles since the last ns of it
  mgmt    : List Mgmt                    -- what boots have reported over the management port, oldest first
deriving DecidableEq, Repr

def Chip.reset : Chip :=
  { fhandle := [], fullEn := false, fullBase := 0, sqbase := 0, sqlog := 0, sqhead := 0, sqtail := 0, lost := 0,
    rstPart := 0, rstBusy := false, paction := 0, keys := [], mail := none, mstatus := 0, meas := [],
    jobs := [], counter := 0, prev := 0, wdog := 0, repair := [], pendRep := [], corrected := [], thermal := 0,
    ratestep := 0x64, chipid := 0, linkKeys := [], flowKeys := [], flowNext := [], mgmt := [], flowSeen := [], flowFails := [], opened := false, slew := 0, slewed := 0 }

/-- The operands of the step in hand when it is not an encoded instruction: which unit acts (`a`, `b`, `c`), the value
or word that came in (`v`), the block of a configuration write, and a yes or no of the outside. -/
structure Arg where
  a   : Nat
  b   : Nat
  c   : Nat
  v   : Word
  blk : Block
  ok  : Bool
deriving DecidableEq, Repr

def Arg.zero : Arg := ⟨0, 0, 0, 0, .chip, false⟩

/-- A step of another agent that is to be taken: the constructor and its operands. -/
structure Event where
  i   : Instr
  arg : Arg
deriving DecidableEq, Repr

/-- Who moves next, and what comes in from outside. -/
inductive Turn where
  | issue (core : Nat)                    -- that core issues from its next ready slot (R27)
  | tick (n : Nat)                        -- n cycles pass
  | event (e : Event)                     -- a step of another agent
  | etherIn (flow num : Nat) (tagOk : Bool) (x : EthIn)   -- a packet of a far chip arrives over Ethernet (R348, R384)
  | flitIn (port : Nat) (f : Flit)
  | checker (core : Nat)                  -- what the core issues next fails its check and the replay of it (R379)
  | sramError (line : Nat)                -- a double error in a word of SRAM or L2 (R382)
  | lpError (line sym : Nat)              -- a symbol of a stored line of LPDDR 6 goes bad (R380)
  | dropL1 (domain line : Nat)            -- the L1 replaces a line (R135)
  | dropTlb (domain page : Nat)           -- a TLB replaces a translation (R146)
  | chipId (n : BitVec 14)                -- the chip gets its number at bring-up (R353)
deriving DecidableEq, Repr

/-- One JS7 chip. -/
structure State where
  cur     : Nat                   -- the slot whose instruction is in hand
  focus   : Nat                   -- the core that issues when the agenda is empty
  agenda  : List Turn
  work    : List Event            -- steps of other agents that stand out, to be tried from the next cycle on
  todo    : List Event            -- those that are still to be tried in this cycle, in the order of their places
  rank    : Nat                   -- the place in its cycle of the step last taken
  arg     : Arg
  deferred : Bool                 -- the event just tried found that it cannot take place yet
  fresh   : Nat                   -- how many free values have been taken
  cycle   : Nat
  time    : Word                  -- TIME.NS
  halted  : Option Nat            -- the fatal error's cause (R389, R390)
  slots   : SMap Slot
  cores   : SMap Core
  clusters : SMap Cluster
  sectors : SMap Sector
  monitors : SMap Monitor
  parts   : SMap Part
  launch  : Launch
  fabric  : Fabric
  chip    : Chip
  mem     : List Host.Cell
  full    : SMap Bool             -- by address in the byte space / 8
  poison  : SMap Bool             -- by address in the byte space / 64
  fills   : List Home             -- words filled in this cycle, whose waits are checked at its end (R182)
  l2      : SMap L2Line           -- by (slice, physical line): slice * 2^34 + line
  errors  : SMap (List Nat)       -- LPDDR line: the symbols of its codeword that are bad (R380)
  written : SMap (Nat × Nat)      -- LPDDR line: key slot and key under which it was written
  net     : List Packet           -- packets in transit to this chip's cores and switch
  netOut  : List Packet           -- packets that have left the chip
  shoots  : List Shoot
  saved   : SMap Saved            -- by partition, while it is saved
  saves   : SMap Saved            -- by number: every save there has been
  records : List SRec             -- records on their way to the supervisor queue
  serial  : Nat                   -- the model's own numbers given so far (copy commands, packets, waits)
deriving DecidableEq, Repr

/-- The chip right after reset: every register at the value its map states, and the values of log entries 1 to 3 (DESIGN CHOICE) elsewhere. -/
def State.reset : State :=
  { cur := 0, focus := 0, agenda := [], work := [], todo := [], rank := 0, arg := Arg.zero, deferred := false, fresh := 0, cycle := 0, time := 0, halted := none,
    slots := [], cores := [], clusters := [], sectors := [], monitors := [], parts := [], launch := Launch.reset,
    fabric := Fabric.reset, chip := Chip.reset, mem := [], full := [], poison := [], fills := [], l2 := [], errors := [], written := [],
    net := [], netOut := [], shoots := [], saved := [], saves := [], records := [], serial := 0 }

end Sys2Proof.Machine
end

