-- ==== Sys2Proof/Machine/Base.lean ====
section
/-! DEFINITION. Accessors: the numbers that name slots, cores and clusters, the registers of a slot with the hard-wired x0 and p0 (R5), and the parts of the state by their number. -/

namespace Sys2Proof.Machine

/-! ## Numbers -/

/-- The core of a slot key. -/
def coreOf (k : Nat) : Nat := k / 8

/-- Whether a core index names a supervisor core. -/
def isSup (c : Nat) : Bool := decide (2048 ≤ c)

/-- The cluster of a compute core. -/
def clusterOf (c : Nat) : Nat := c / 8

/-- The domain of a core: its cluster, or its own for a supervisor core. -/
def domainOf (c : Nat) : Nat := if isSup c then 256 + (c - 2048) else c / 8

/-- The sector of a cluster (R26). -/
def sectorOf (k : Nat) : Nat := 4 * (k / 16 / 4) + k % 16 / 4

/-- The corner cluster of a sector (R26). -/
def cornerOf (s : Nat) : Nat := 16 * (4 * (s / 4)) + 4 * (s % 4)

/-- The sixteen clusters of a sector, rows first. -/
def sectorClusters (s : Nat) : List Nat := (List.range 16).map fun i => cornerOf s + 16 * (i / 4) + i % 4

/-- A slot specifier (R122): slot, core, cluster. -/
def slotSpec (k : Nat) : Nat := k % 8 + 8 * (k / 8 % 8) + 64 * (k / 64)

/-- The low `n` bits of a number as a word. -/
abbrev w64 (n : Nat) : Word := BitVec.ofNat 64 n

/-- Bits `lo` up to `lo + n - 1` of a word, as a number. -/
def wbits (w : Word) (lo n : Nat) : Nat := w.toNat / 2 ^ lo % 2 ^ n

/-- An address as PC holds it: bit 0 is always 0 (R59). -/
def evenPc (pc : BitVec 48) : BitVec 48 := pc &&& 0xFFFFFFFFFFFE

/-- sext(v, w) of R5 from the low `w` bits of `v`, for w from 1 to 64. -/
def sextN (v : Word) (w : Nat) : Word := ((v <<< (64 - w)).sshiftRight (64 - w))

/-- zext(v, w) of R5. -/
def zextN (v : Word) (w : Nat) : Word := ((v <<< (64 - w)) >>> (64 - w))

/-- The signed reading of a word. -/
abbrev sgn (v : Word) : Int := v.toInt

/-- `n` little-endian bytes of a number (R2). -/
def toBytes : Nat → Nat → List Byte
  | 0, _ => []
  | n + 1, v => BitVec.ofNat 8 v :: toBytes n (v / 256)

/-- The number little-endian bytes hold (R2). -/
def ofBytes : List Byte → Nat
  | [] => 0
  | b :: l => b.toNat + 256 * ofBytes l

/-! ## Registers of a slot -/

/-- x[r]; x0 reads 0 (R5). -/
def Slot.getX (sl : Slot) (r : Reg) : Word := if r = 0 then 0 else look 0 sl.x r.toNat

/-- A write of x[r]; one to x0 is discarded (R5). -/
def Slot.setX (r : Reg) (v : Word) (sl : Slot) : Slot := if r = 0 then sl else { sl with x := put r.toNat v sl.x }

/-- f[r]. -/
def Slot.getF (sl : Slot) (r : Reg) : QWord := look 0 sl.f r.toNat

/-- A write of f[r]. -/
def Slot.setF (r : Reg) (v : QWord) (sl : Slot) : Slot := { sl with f := put r.toNat v sl.f }

/-- p[r]; p0 reads 0xFF (R5). -/
def Slot.getP (sl : Slot) (r : PReg) : Byte := if r = 0 then 0xFF else look 0 sl.p r.toNat

/-- A write of p[r]; one to p0 is discarded (R5). -/
def Slot.setP (r : PReg) (v : Byte) (sl : Slot) : Slot := if r = 0 then sl else { sl with p := put r.toNat v sl.p }

/-! ## Parts of the state -/

def State.slot (s : State) (k : Nat) : Slot := look Slot.reset s.slots k
def State.setSlot (k : Nat) (v : Slot) (s : State) : State := { s with slots := put k v s.slots }
def State.modSlot (k : Nat) (f : Slot → Slot) (s : State) : State := s.setSlot k (f (s.slot k))

def State.core (s : State) (c : Nat) : Core := look Core.reset s.cores c
def State.setCore (c : Nat) (v : Core) (s : State) : State := { s with cores := put c v s.cores }
def State.modCore (c : Nat) (f : Core → Core) (s : State) : State := s.setCore c (f (s.core c))

def State.cluster (s : State) (k : Nat) : Cluster := look Cluster.reset s.clusters k
def State.setCluster (k : Nat) (v : Cluster) (s : State) : State := { s with clusters := put k v s.clusters }
def State.modCluster (k : Nat) (f : Cluster → Cluster) (s : State) : State := s.setCluster k (f (s.cluster k))

def State.sector (s : State) (n : Nat) : Sector := look Sector.reset s.sectors n
def State.setSector (n : Nat) (v : Sector) (s : State) : State := { s with sectors := put n v s.sectors }
def State.modSector (n : Nat) (f : Sector → Sector) (s : State) : State := s.setSector n (f (s.sector n))

def State.part (s : State) (p : Nat) : Part := look Part.reset s.parts p
def State.modPart (p : Nat) (f : Part → Part) (s : State) : State := { s with parts := put p (f (s.part p)) s.parts }

def State.modLaunch (f : Launch → Launch) (s : State) : State := { s with launch := f s.launch }
def State.modFabric (f : Fabric → Fabric) (s : State) : State := { s with fabric := f s.fabric }
def State.modChip (f : Chip → Chip) (s : State) : State := { s with chip := f s.chip }

/-- The slot whose instruction is in hand. -/
def State.me (s : State) : Slot := s.slot s.cur
def State.modMe (f : Slot → Slot) (s : State) : State := s.modSlot s.cur f

/-- The core of the slot in hand. -/
def State.myCore (s : State) : Nat := coreOf s.cur

/-- x[r] of the slot in hand. -/
def State.x (s : State) (r : Reg) : Word := s.me.getX r
/-- f[r] of the slot in hand, as a register. -/
def State.f (s : State) (r : Reg) : QWord := s.me.getF r
/-- p[r] of the slot in hand. -/
def State.p (s : State) (r : PReg) : Byte := s.me.getP r

/-- Writes x[r] of the slot in hand. -/
def State.setX (r : Reg) (v : Word) (s : State) : State := s.modMe (Slot.setX r v)
def State.setF (r : Reg) (v : QWord) (s : State) : State := s.modMe (Slot.setF r v)
def State.setP (r : PReg) (v : Byte) (s : State) : State := s.modMe (Slot.setP r v)

/-- The next of the model's own numbers. -/
def State.number (s : State) : Nat × State := (s.serial + 1, { s with serial := s.serial + 1 })

/-- A step of another agent that is now due to come. -/
def State.post (i : Instr) (a : Arg) (s : State) : State := { s with work := s.work ++ [⟨i, a⟩] }

/-- An event's operands. -/
def arg1 (a : Nat) : Arg := ⟨a, 0, 0, 0, .chip, false⟩
def arg2 (a b : Nat) : Arg := ⟨a, b, 0, 0, .chip, false⟩
def arg3 (a b c : Nat) : Arg := ⟨a, b, c, 0, .chip, false⟩

/-- The answer of an event whose condition does not hold: nothing changes but the mark that it was tried in vain. -/
def State.defer (s : State) : State := { s with deferred := true }

/-! ## Partitions (R34) -/

/-- Whether partition `d` owns cluster `k`. -/
def Part.owns (d : Part) (k : Nat) : Bool :=
  d.known && decide (d.collo.toNat ≤ k % 16) && decide (k % 16 ≤ d.colhi.toNat) &&
  decide (d.rowlo.toNat ≤ k / 16) && decide (k / 16 ≤ d.rowhi.toNat)

/-- The partition that owns cluster `k`, 0 for none. -/
def State.partOf (s : State) (k : Nat) : Nat :=
  match s.parts.find? (fun e => e.2.owns k) with
  | some e => e.1
  | none => 0

/-- The partition of a core; 0 for a supervisor core. -/
def State.corePart (s : State) (c : Nat) : Nat := if isSup c then 0 else s.partOf (clusterOf c)

/-- PARTKEY (R25). -/
def State.partKey (s : State) (c : Nat) : BitVec 14 :=
  let p := s.corePart c
  if p = 0 then 0 else (s.part p).key

/-- The clusters of a partition's rectangle, in rising order. -/
def Part.clusters (d : Part) : List Nat := (List.range 256).filter d.owns

/-- The slots of a core that hold an activation. -/
def State.activeSlots (s : State) (c : Nat) : List Nat := ((List.range 8).map (fun i => c * 8 + i)).filter (fun k => (s.slot k).active)

/-- The slot keys that are listed, in rising order. -/
def State.slotKeys (s : State) : List Nat := s.slots.map (·.1)

end Sys2Proof.Machine
end

