-- ==== Sys2Proof/Machine/Flags.lean ====
section
/-! DEFINITION. Exact arithmetic, rounding and flags (R197 to R211, R222 to R228): values are decoded to exact dyadic numbers, computed on exactly, and rounded once. -/

namespace Sys2Proof.Machine

/-- The flags of R202: NV, DZ, OF, UF, NX from bit 0 up. -/
abbrev FFlags := BitVec 5
def fNV : FFlags := 1
def fDZ : FFlags := 2
def fOF : FFlags := 4
def fUF : FFlags := 8
def fNX : FFlags := 16

/-- The three IEEE formats (R197); fmt2 codes 0 to 2. -/
inductive Fmt where
  | f32 | bf16 | f16
deriving DecidableEq, Repr

/-- The format of a fmt2 code (R68). -/
def fmtOf (m : BitVec 2) : Fmt := if m = 0 then .f32 else if m = 1 then .bf16 else .f16

namespace Fmt
/-- Bits of an element. -/
def width : Fmt → Nat
  | .f32 => 32
  | _ => 16
/-- Fraction bits. -/
def frac : Fmt → Nat
  | .f32 => 23
  | .bf16 => 7
  | .f16 => 10
/-- Exponent bits. -/
def ebits : Fmt → Nat
  | .f16 => 5
  | _ => 8
def bias (f : Fmt) : Int := (2 ^ (f.ebits - 1) : Nat) - 1
/-- Exponent of the smallest normal number. -/
def emin (f : Fmt) : Int := 1 - f.bias
/-- All ones in the exponent field. -/
def expMax (f : Fmt) : Nat := 2 ^ f.ebits - 1
def signBit (f : Fmt) : Nat := 2 ^ (f.width - 1)
def infBits (f : Fmt) : Nat := f.expMax * 2 ^ f.frac
/-- The canonical quiet NaN (R198). -/
def nanBits (f : Fmt) : Nat := f.infBits + 2 ^ (f.frac - 1)
def maxBits (f : Fmt) : Nat := f.infBits - 1
/-- Lanes of an f register (R212). -/
def lanes : Fmt → Nat
  | .f32 => 4
  | _ => 8
/-- The sign bit `neg` and magnitude bits `b` together. -/
def signed (f : Fmt) (neg : Bool) (b : Nat) : Nat := if neg then f.signBit + b else b
end Fmt

/-- A value: a NaN, an infinity, a signed zero, or the exact number ± m × 2^e with m > 0. -/
inductive FV where
  | nan (signalling : Bool)
  | inf (neg : Bool)
  | zero (neg : Bool)
  | fin (neg : Bool) (m : Nat) (e : Int)
deriving DecidableEq, Repr

/-- Reads a field set (R197); a subnormal BF16 reads as zero (R199). -/
def Fmt.decode (f : Fmt) (b : Nat) : FV :=
  let neg := decide (b / f.signBit % 2 = 1)
  let ex := b / 2 ^ f.frac % 2 ^ f.ebits
  let fr := b % 2 ^ f.frac
  if ex = f.expMax then (if fr = 0 then .inf neg else .nan (decide (fr < 2 ^ (f.frac - 1))))
  else if ex = 0 then
    (if fr = 0 ∨ f = .bf16 then .zero neg else .fin neg fr (f.emin - f.frac))
  else .fin neg (2 ^ f.frac + fr) ((ex : Int) - f.bias - f.frac)

def FV.isNan : FV → Bool
  | .nan _ => true
  | _ => false
def FV.isSNan : FV → Bool
  | .nan s => s
  | _ => false
def FV.neg : FV → FV
  | .nan s => .nan s
  | .inf n => .inf !n
  | .zero n => .zero !n
  | .fin n m e => .fin (!n) m e

/-! ## Rounding (R199, R200) -/

/-- Rounding mode codes (R68). -/
def mRNE : Nat := 0
def mRTZ : Nat := 1
def mRDN : Nat := 2
def mRUP : Nat := 3
def mRMM : Nat := 4

/-- Whether the magnitude is rounded up: `q` kept, `r` of `2 ^ sh` dropped, `sticky` for more below. -/
def roundUp (mode : Nat) (neg : Bool) (q r half : Nat) (sticky : Bool) : Bool :=
  let inexact := decide (r ≠ 0) || sticky
  match mode with
  | 1 => false
  | 2 => neg && inexact
  | 3 => !neg && inexact
  | 4 => decide (half ≤ r)
  | _ => decide (half < r) || (decide (r = half) && (sticky || decide (q % 2 = 1)))

/-- (m + sticky part) / 2^sh rounded to an integer, and whether it is inexact. -/
def roundShift (mode : Nat) (neg : Bool) (m : Nat) (sh : Int) (sticky : Bool) : Nat × Bool :=
  match sh with
  | .ofNat 0 => (m, sticky)
  | .ofNat (n + 1) =>
    let q := m / 2 ^ (n + 1)
    let r := m % 2 ^ (n + 1)
    (if roundUp mode neg q r (2 ^ n) sticky then q + 1 else q, decide (r ≠ 0) || sticky)
  | .negSucc n => (m * 2 ^ (n + 1), sticky)

/-- Bits of a number; 0 for 0. -/
def bitLen (m : Nat) : Nat := if m = 0 then 0 else Nat.log2 m + 1

/-- RND_fmt of R200 and R199 on ± (m + sticky part) × 2^e, m > 0. With `sticky`, m must have more bits than the format. -/
def Fmt.round (f : Fmt) (mode : Nat) (neg : Bool) (m : Nat) (e : Int) (sticky : Bool) : Nat × FFlags :=
  let p : Int := f.frac + 1
  let ex : Int := e + bitLen m - 1
  -- with an unbounded exponent
  let (q, inexact) := roundShift mode neg m (bitLen m - p) sticky
  let ex' := if q = 2 ^ (f.frac + 1) then ex + 1 else ex
  if ex' < f.emin then
    if f = .bf16 then (f.signed neg 0, fUF ||| fNX)
    else
      let (d, inex) := roundShift mode neg m (f.emin - f.frac - e) sticky
      (f.signed neg d, if inex then fUF ||| fNX else 0)
  else if f.bias < ex' then
    let toInf := match mode with
      | 1 => false
      | 2 => neg
      | 3 => !neg
      | _ => true
    (f.signed neg (if toInf then f.infBits else f.maxBits), fOF ||| fNX)
  else
    let fr := if q = 2 ^ (f.frac + 1) then 0 else q - 2 ^ f.frac
    (f.signed neg ((ex' + f.bias).toNat * 2 ^ f.frac + fr), if inexact then fNX else 0)

/-- A value already exact, rounded into a format; NaN becomes canonical, NV for a signalling one (R198). -/
def Fmt.enc (f : Fmt) (mode : Nat) (v : FV) : Nat × FFlags :=
  match v with
  | .nan s => (f.nanBits, if s then fNV else 0)
  | .inf n => (f.signed n f.infBits, 0)
  | .zero n => (f.signed n 0, 0)
  | .fin n m e => f.round mode n m e false

/-! ## Operations on lanes (R222 to R226) -/

/-- The exact sum of two finite values: sign and magnitude at the lower exponent. -/
def signedM (n : Bool) (m : Nat) (e lo : Int) : Int :=
  let x : Int := (m * 2 ^ (e - lo).toNat : Nat)
  if n then -x else x

/-- a + b as an exact value; `none` stands for the sum of two infinities of opposite sign. -/
def FV.add (mode : Nat) (a b : FV) : Option FV :=
  match a, b with
  | .nan s, .nan t => some (.nan (s || t))
  | .nan s, _ => some (.nan s)
  | _, .nan s => some (.nan s)
  | .inf n, .inf m => if n = m then some (.inf n) else none
  | .inf n, _ => some (.inf n)
  | _, .inf n => some (.inf n)
  | .zero n, .zero m => some (.zero (if n = m then n else mode = mRDN))
  | .zero _, b => some b
  | a, .zero _ => some a
  | .fin n m e, .fin n' m' e' =>
    let lo := Min.min e e'
    let t := signedM n m e lo + signedM n' m' e' lo
    if t = 0 then some (.zero (mode = mRDN)) else some (.fin (t < 0) t.natAbs lo)

/-- a × b as an exact value; `none` stands for 0 × ∞. -/
def FV.mul (a b : FV) : Option FV :=
  match a, b with
  | .nan s, .nan t => some (.nan (s || t))
  | .nan s, _ => some (.nan s)
  | _, .nan s => some (.nan s)
  | .inf n, .inf m => some (.inf (n != m))
  | .inf _, .zero _ => none
  | .zero _, .inf _ => none
  | .inf n, .fin m _ _ => some (.inf (n != m))
  | .fin n _ _, .inf m => some (.inf (n != m))
  | .zero n, .zero m => some (.zero (n != m))
  | .zero n, .fin m _ _ => some (.zero (n != m))
  | .fin n _ _, .zero m => some (.zero (n != m))
  | .fin n m e, .fin n' m' e' => some (.fin (n != n') (m * m') (e + e'))

/-- Rounds a result that may be an invalid operation. -/
def Fmt.fin (f : Fmt) (mode : Nat) (v : Option FV) : Nat × FFlags :=
  match v with
  | none => (f.nanBits, fNV)
  | some v => f.enc mode v

def Fmt.fadd (f : Fmt) (mode a b : Nat) : Nat × FFlags := f.fin mode (FV.add mode (f.decode a) (f.decode b))
def Fmt.fsub (f : Fmt) (mode a b : Nat) : Nat × FFlags := f.fin mode (FV.add mode (f.decode a) (f.decode b).neg)
def Fmt.fmul (f : Fmt) (mode a b : Nat) : Nat × FFlags := f.fin mode (FV.mul (f.decode a) (f.decode b))

/-- a × b + c rounded once, or −(a × b) + c (R224). 0 × ∞ raises NV whatever c is. -/
def Fmt.ffma (f : Fmt) (mode : Nat) (negate : Bool) (a b c : Nat) : Nat × FFlags :=
  let x := f.decode a
  let y := f.decode b
  let z := f.decode c
  match FV.mul x y with
  | none => (f.nanBits, fNV)
  | some p =>
    match p with
    | .nan _ => (f.nanBits, if x.isSNan || y.isSNan || z.isSNan then fNV else 0)
    | p => f.fin mode (FV.add mode (if negate then p.neg else p) z)

/-- a / b (R222). -/
def Fmt.fdiv (f : Fmt) (mode a b : Nat) : Nat × FFlags :=
  match f.decode a, f.decode b with
  | .nan s, .nan t => (f.nanBits, if s || t then fNV else 0)
  | .nan s, _ => (f.nanBits, if s then fNV else 0)
  | _, .nan s => (f.nanBits, if s then fNV else 0)
  | .inf _, .inf _ => (f.nanBits, fNV)
  | .inf n, .zero m => (f.signed (n != m) f.infBits, 0)
  | .inf n, .fin m _ _ => (f.signed (n != m) f.infBits, 0)
  | .zero _, .zero _ => (f.nanBits, fNV)
  | .zero n, .inf m => (f.signed (n != m) 0, 0)
  | .zero n, .fin m _ _ => (f.signed (n != m) 0, 0)
  | .fin n _ _, .inf m => (f.signed (n != m) 0, 0)
  | .fin n _ _, .zero m => (f.signed (n != m) f.infBits, fDZ)
  | .fin n m e, .fin n' m' e' =>
    let q := m * 2 ^ 96 / m'
    f.round mode (n != n') q (e - e' - 96) (decide (m * 2 ^ 96 % m' ≠ 0))

/-- The integer square root, bit by bit. -/
def isqrtFrom (n : Nat) : Nat → Nat → Nat
  | 0, r => r
  | i + 1, r => isqrtFrom n i (if (r + 2 ^ i) * (r + 2 ^ i) ≤ n then r + 2 ^ i else r)
def isqrt (n : Nat) : Nat := isqrtFrom n (bitLen n / 2 + 1) 0

/-- √a (R222). -/
def Fmt.fsqrt (f : Fmt) (mode a : Nat) : Nat × FFlags :=
  match f.decode a with
  | .nan s => (f.nanBits, if s then fNV else 0)
  | .inf true => (f.nanBits, fNV)
  | .inf false => (f.infBits, 0)
  | .zero n => (f.signed n 0, 0)
  | .fin true _ _ => (f.nanBits, fNV)
  | .fin false m e =>
    let (m, e) := if e % 2 = 0 then (m, e) else (2 * m, e - 1)
    let n := m * 2 ^ 192
    let r := isqrt n
    f.round mode false r (e / 2 - 96) (decide (r * r ≠ n))

/-- 1 / a (R225). -/
def Fmt.frcp (f : Fmt) (mode a : Nat) : Nat × FFlags :=
  match f.decode a with
  | .nan s => (f.nanBits, if s then fNV else 0)
  | .inf n => (f.signed n 0, 0)
  | .zero n => (f.signed n f.infBits, fDZ)
  | .fin n m e => f.round mode n (2 ^ 128 / m) (-e - 128) (decide (2 ^ 128 % m ≠ 0))

/-- 1 / √a (R225). -/
def Fmt.frsq (f : Fmt) (mode a : Nat) : Nat × FFlags :=
  match f.decode a with
  | .nan s => (f.nanBits, if s then fNV else 0)
  | .inf true => (f.nanBits, fNV)
  | .inf false => (0, 0)
  | .zero n => (f.signed n f.infBits, fDZ)
  | .fin true _ _ => (f.nanBits, fNV)
  | .fin false m e =>
    let (m, e) := if e % 2 = 0 then (m, e) else (2 * m, e - 1)
    let r := isqrt (2 ^ 256 / m)
    f.round mode false r (-(e / 2) - 128) (decide (r * r * m ≠ 2 ^ 256))

/-! ## Exponential and logarithm, in fixed point with 256 bits after the point -/

def fixBits : Nat := 256
def fixOne : Nat := 2 ^ fixBits

/-- Σ z^(2k+1)/(2k+1), the area tangent, by `n` terms; `p` is the current odd power. -/
def atanhFrom (z2 : Nat) : Nat → Nat → Nat → Nat → Nat
  | 0, _, _, acc => acc
  | n + 1, p, k, acc => atanhFrom z2 n (p * z2 / fixOne) (k + 2) (acc + p / k)
/-- ln of y / 2^256, for y from 2^256 up to 2^257. -/
def lnFix (y : Nat) : Nat :=
  let z := (y - fixOne) * fixOne / (y + fixOne)
  2 * atanhFrom (z * z / fixOne) 100 z 1 0
def ln2Fix : Nat := lnFix (2 * fixOne)

/-- Σ t^k/k! by `n` terms; `p` is t^k/k!. -/
def expFrom (t : Nat) : Nat → Nat → Nat → Nat → Nat
  | 0, _, _, acc => acc
  | n + 1, p, k, acc => expFrom t n (p * t / fixOne / (k + 1)) (k + 1) (acc + p)
def expFix (t : Nat) : Nat := expFrom t 90 fixOne 0 0

/-- 2^a (R225): exact for an integer, else irrational. -/
def Fmt.fexp2 (f : Fmt) (mode a : Nat) : Nat × FFlags :=
  match f.decode a with
  | .nan s => (f.nanBits, if s then fNV else 0)
  | .inf true => (0, 0)
  | .inf false => (f.infBits, 0)
  | .zero _ => f.round mode false 1 0 false
  | .fin n m e =>
    let big := decide (14 ≤ e + bitLen m)
    if big then f.round mode false (2 ^ 80) (if n then -16384 else 16384) false
    else if 0 ≤ e then
      let k : Int := (m * 2 ^ e.toNat : Nat)
      f.round mode false 1 (if n then -k else k) false
    else
      let d := (-e).toNat
      let x : Int := if n then -(m : Int) else m
      let k := x.fdiv (2 ^ d : Nat)
      let r := (x.fmod (2 ^ d : Nat)).toNat
      if r = 0 then f.round mode false 1 k false
      else f.round mode false (expFix (r * fixOne / 2 ^ d * ln2Fix / fixOne)) (k - fixBits) true

/-- log₂ a (R225): exact for a power of two, else irrational. -/
def Fmt.flog2 (f : Fmt) (mode a : Nat) : Nat × FFlags :=
  match f.decode a with
  | .nan s => (f.nanBits, if s then fNV else 0)
  | .inf true => (f.nanBits, fNV)
  | .inf false => (f.infBits, 0)
  | .zero _ => (f.signed true f.infBits, fDZ)
  | .fin true _ _ => (f.nanBits, fNV)
  | .fin false m e =>
    let k : Int := e + bitLen m - 1
    if m = 2 ^ (bitLen m - 1) then
      (if k = 0 then (0, 0) else f.round mode (k < 0) k.natAbs 0 false)
    else
      let y := m * fixOne / 2 ^ (bitLen m - 1)
      let v : Int := k * fixOne + (lnFix y * fixOne / ln2Fix : Nat)
      if v < 0 then f.round mode true (v.natAbs - 1) (-(fixBits : Int)) true
      else f.round mode false v.natAbs (-(fixBits : Int)) true

/-! ## Order (R223, R227) -/

/-- Below, equal or above, for values that are not NaN; the zeros are equal. -/
def FV.key (v : FV) : Int × (Nat × Int) :=
  match v with
  | .inf n => (if n then -2 else 2, 0, 0)
  | .zero _ => (0, 0, 0)
  | .fin n m e => (if n then -1 else 1, m, e)
  | .nan _ => (0, 0, 0)

/-- a < b for values that are not NaN. -/
def FV.lt (a b : FV) : Bool :=
  let x := a.key
  let y := b.key
  if x.1 ≠ y.1 then decide (x.1 < y.1)
  else if x.1 = 1 ∨ x.1 = -1 then
    let lo := Min.min x.2.2 y.2.2
    decide (signedM (x.1 < 0) x.2.1 x.2.2 lo < signedM (y.1 < 0) y.2.1 y.2.2 lo)
  else false

/-- −0 below +0, otherwise as `lt` (R223). -/
def FV.below (a b : FV) : Bool :=
  match a, b with
  | .zero true, .zero false => true
  | a, b => FV.lt a b

/-- The lesser (`mx` false) or the greater of two lanes under R223. -/
def Fmt.pick (f : Fmt) (mx : Bool) (a b : Nat) : Nat × FFlags :=
  let x := f.decode a
  let y := f.decode b
  let nv := if x.isSNan || y.isSNan then fNV else 0
  let flush := fun (v : FV) (n : Nat) => match v with
    | .zero s => f.signed s 0
    | _ => n
  if x.isNan && y.isNan then (f.nanBits, nv)
  else if x.isNan then (flush y b, nv)
  else if y.isNan then (flush x a, nv)
  else if mx then (if FV.below x y then flush y b else flush x a, nv)
  else (if FV.below y x then flush y b else flush x a, nv)

/-- The conditions of `fcmp` (R227). -/
def Fmt.cmp (f : Fmt) (cond : Nat) (a b : Nat) : Bool × FFlags :=
  let x := f.decode a
  let y := f.decode b
  let un := x.isNan || y.isNan
  let snan := x.isSNan || y.isSNan
  match cond with
  | 0 => (!un && !FV.lt x y && !FV.lt y x, if snan then fNV else 0)
  | 1 => (!un && FV.lt x y, if un then fNV else 0)
  | 2 => (!un && !FV.lt y x, if un then fNV else 0)
  | _ => (un, if snan then fNV else 0)

/-! ## Tapered formats (R203 to R205) -/

/-- The number of top bits equal to `b` in the low `n` bits of `m`. -/
def runLen (m : Nat) (b : Bool) : Nat → Nat
  | 0 => 0
  | n + 1 => if (m / 2 ^ n % 2 = 1) = b then 1 + runLen m b n else 0

/-- A magnitude code of `c` bits, in units of 2^-12 (R203); 0 for code 0. -/
def taperMag (c m : Nat) : Nat :=
  if m = 0 then 0 else
  let b := decide (m / 2 ^ (c - 1) % 2 = 1)
  let n := runLen m b c
  let k : Int := if b then (n : Int) - 1 else -n
  let r := c - n - 1
  let below := m % 2 ^ r
  let e := if r = 0 then 0 else below / 2 ^ (r - 1)
  let w := r - 1
  let fr := below % 2 ^ w
  -- 2^(2k+e) (1 + fr/2^w), scaled by 2^12
  ((2 ^ w + fr) * 2 ^ (2 * k + e + 12).toNat) / 2 ^ w

/-- The value of a tapered code of `c` + 1 bits. -/
def taperDecode (c b : Nat) : FV :=
  let m := b % 2 ^ c
  let s := decide (b / 2 ^ c % 2 = 1)
  if m = 0 then (if s then .nan false else .zero false) else .fin s (taperMag c m) (-12)

/-- The greatest code from `n` down whose magnitude does not exceed a value of 2^-12 units given as m × 2^e. -/
def taperFloor (c m : Nat) (e : Int) : Nat → Nat
  | 0 => 0
  | n + 1 =>
    let le := if 0 ≤ e then decide (taperMag c (n + 1) ≤ m * 2 ^ e.toNat) else decide (taperMag c (n + 1) * 2 ^ (-e).toNat ≤ m)
    if le then n + 1 else taperFloor c m e n

/-- Encoding into T8 (c = 7) or T6 (c = 5) (R205). -/
def taperEncode (c : Nat) (v : FV) : Nat × FFlags :=
  let top := 2 ^ c - 1
  let sg := fun (n : Bool) (code : Nat) => if n then 2 ^ c + code else code
  match v with
  | .nan s => (2 ^ c, if s then fNV else 0)
  | .zero _ => (0, 0)
  | .inf n => (sg n top, fOF ||| fNX)
  | .fin n m e =>
    let e12 := e + 12
    -- twice the value against twice a magnitude or a sum of two, in 2^-12 units
    let cmp := fun (x : Nat) => if 0 ≤ e12 then compare (2 * m * 2 ^ e12.toNat) x else compare (2 * m) (x * 2 ^ (-e12).toNat)
    if cmp (2 * taperMag c top) = .gt then (sg n top, fOF ||| fNX)
    else if cmp (2 * taperMag c 1) = .lt then
      ((if cmp (taperMag c 1) = .gt then sg n 1 else 0), fUF ||| fNX)
    else
      let lo := taperFloor c m e12 top
      if cmp (2 * taperMag c lo) = .eq then (sg n lo, 0)
      else
        match cmp (taperMag c lo + taperMag c (lo + 1)) with
        | .lt => (sg n lo, fNX)
        | .gt => (sg n (lo + 1), fNX)
        | .eq => (sg n (if lo % 2 = 0 then lo else lo + 1), fNX)

/-! ## Conversions (R209), by the format codes of R68 -/

/-- Bits of an element of a format code. -/
def fmtBits (c : Nat) : Nat :=
  match c with
  | 0 => 32
  | 8 => 32
  | 1 => 16
  | 2 => 16
  | 9 => 16
  | 6 => 4
  | 7 => 4
  | _ => 8

def isInt (c : Nat) : Bool := c == 5 || c == 8 || c == 9
def isTaper (c : Nat) : Bool := c == 3 || c == 4
def taperBits (c : Nat) : Nat := if c = 3 then 7 else 5
def ieee (c : Nat) : Fmt := if c = 0 then .f32 else if c = 2 then .f16 else .bf16

/-- Two's complement of width `w`. -/
def toSigned (w b : Nat) : Int := if b / 2 ^ (w - 1) % 2 = 1 then (b % 2 ^ w : Nat) - (2 ^ w : Nat) else (b % 2 ^ w : Nat)
def ofSigned (w : Nat) (i : Int) : Nat := (i % (2 ^ w : Nat)).toNat

/-- An integer saturated to width `w`, and whether it was outside. -/
def saturate (w : Nat) (i : Int) : Int × Bool :=
  let hi : Int := (2 ^ (w - 1) : Nat) - 1
  let lo : Int := -(2 ^ (w - 1) : Nat)
  if hi < i then (hi, true) else if i < lo then (lo, true) else (i, false)

/-- The exact value of an integer. -/
def FV.ofInt (i : Int) : FV := if i = 0 then .zero false else .fin (i < 0) i.natAbs 0

/-- FP value to an integer of width `w` by mode (R209). -/
def FV.toInt (w mode : Nat) (v : FV) : Nat × FFlags :=
  match v with
  | .nan _ => (0, fNV)
  | .zero _ => (0, 0)
  | .inf n => (ofSigned w (if n then -(2 ^ (w - 1) : Nat) else (2 ^ (w - 1) : Nat) - 1), fNV)
  | .fin n m e =>
    let (q, inexact) := roundShift mode n m (-e) false
    let (i, out) := saturate w (if n then -(q : Int) else q)
    (ofSigned w i, if out then fNV else if inexact then fNX else 0)

/-- The value of an element of a format code. -/
def fmtDecode (c b : Nat) : FV :=
  if isInt c then FV.ofInt (toSigned (fmtBits c) b)
  else if isTaper c then taperDecode (taperBits c) b
  else (ieee c).decode b

/-- A conversion of one element from format `src` to format `dst` under mode `m` (R209). -/
def convert (src dst m b : Nat) : Nat × FFlags :=
  if src = dst then (if src = 4 then b % 64 else b, 0)
  else if isInt src && isInt dst then
    let (i, out) := saturate (fmtBits dst) (toSigned (fmtBits src) b)
    (ofSigned (fmtBits dst) i, if out then fNV else 0)
  else
    let v := fmtDecode src b
    if isTaper dst then taperEncode (taperBits dst) v
    else if isInt dst then v.toInt (fmtBits dst) m
    else (ieee dst).enc m v

/-! ## 4-bit weights (R206, R207) -/

/-- The value of an FP4 or INT4 weight, in halves. -/
def weightHalves (fp4 : Bool) (q : Nat) : Int :=
  if fp4 then
    let e := q / 2 % 4
    let m := q % 2
    let v : Int := if e = 0 then m else (2 + m) * 2 ^ (e - 1)
    if q / 8 % 2 = 1 then -v else v
  else 2 * toSigned 4 q

/-- Dequantises a weight by a BF16 scale (R207). -/
def dequant (fp4 : Bool) (q scale : Nat) : Nat × FFlags :=
  let h := weightHalves fp4 q
  let qv : FV := if h = 0 then .zero (fp4 && decide (q / 8 % 2 = 1)) else .fin (h < 0) h.natAbs (-1)
  match Fmt.bf16.decode scale with
  | .nan s => (Fmt.bf16.nanBits, if s || decide (h = 0) then fNV else 0)
  | .inf n => if h = 0 then (Fmt.bf16.nanBits, fNV) else (Fmt.bf16.signed (n != (h < 0)) Fmt.bf16.infBits, 0)
  | v => Fmt.bf16.fin mRNE (FV.mul qv v)

/-! ## The dot product (R210, R211) -/

/-- One element of an `mma` step: `acc` as FP32, `a` and `b` as BF16 pairs. -/
def dotStep (acc : Nat) (ab : List (Nat × Nat)) : Nat × FFlags :=
  let av := Fmt.f32.decode acc
  let vs := ab.map fun x => (Fmt.bf16.decode x.1, Fmt.bf16.decode x.2)
  let ps := vs.map fun x => FV.mul x.1 x.2
  if av.isSNan || vs.any (fun x => x.1.isSNan || x.2.isSNan) then (Fmt.f32.nanBits, fNV)
  else if ps.any (·.isNone) then (Fmt.f32.nanBits, fNV)
  else
    let l := av :: ps.filterMap id
    if l.any (·.isNan) then (Fmt.f32.nanBits, 0)
    else
      let pos := l.any (fun v => v = .inf false)
      let neg := l.any (fun v => v = .inf true)
      if pos && neg then (Fmt.f32.nanBits, fNV)
      else if pos || neg then (Fmt.f32.signed neg Fmt.f32.infBits, 0)
      else
        let t := l.foldl (fun (r : Option FV) v => match r with
          | none => some v
          | some r => FV.add mRNE r v) none
        match t with
        | some (.fin n m e) => Fmt.f32.round mRNE n m e false
        | _ => (Fmt.f32.signed (l.all (fun v => v = .zero true)) 0, 0)

end Sys2Proof.Machine
end

