-- ==== Sys2Proof/Machine/Memory.lean ====
section
/-! DEFINITION. The chip's bytes: cluster SRAM, L2 slices, LPDDR 6 and L1 copies in one byte space, with poison and full bits, keys, line fills and evictions (R134 to R139, R171, R172, R375, R383). -/

namespace Sys2Proof.Machine

/-! ## The byte space

Keys below 2^40 are LPDDR 6; 2^40 + cluster * 2^20 + offset is cluster SRAM; 2^41 + slice * 2^40 + address is a line's
copy in an L2 slice; 2^52 + domain * 2^40 + address is a line's copy in a cluster's L1. A byte that is not listed is 0. -/

/-- The value of an unlisted byte (DESIGN CHOICE, log entry 2). -/
def Memory.unlisted : Byte := 0

/-- The byte at a key. -/
def Memory.get (m : List Host.Cell) (k : Nat) : Byte := look Memory.unlisted m k

/-- `m` with byte `b` at key `k`; the form stays canonical. -/
def Memory.set (k : Nat) (b : Byte) (m : List Host.Cell) : List Host.Cell :=
  if b = Memory.unlisted then del k m else put k b m

/-- The canonical form: addresses strictly rising, and no entry equal to what an unlisted address reads as. -/
def Memory.wf (m : List Host.Cell) : Bool := risingKeys m && m.all (fun e => e.2 != Memory.unlisted)

/-- `m` with the bytes of `l` from key `k` on. -/
def Memory.setList (k : Nat) : List Byte → List Host.Cell → List Host.Cell
  | [], m => m
  | b :: l, m => Memory.setList (k + 1) l (Memory.set k b m)

/-- `n` bytes from key `k` on. -/
def Memory.getList (m : List Host.Cell) : Nat → Nat → List Byte
  | _, 0 => []
  | k, n + 1 => Memory.get m k :: Memory.getList m (k + 1) n

/-- `m` without the `n` bytes from key `k` on (they read 0). -/
def Memory.drop (k n : Nat) (m : List Host.Cell) : List Host.Cell :=
  m.filter (fun e => !(decide (k ≤ e.1) && decide (e.1 < k + n)))

def sramKey (k off : Nat) : Nat := 2 ^ 40 + k * 2 ^ 20 + off
def l2Key (slice pa : Nat) : Nat := 2 ^ 41 + slice * 2 ^ 40 + pa
def l1Key (dom pa : Nat) : Nat := 2 ^ 52 + dom * 2 ^ 40 + pa

/-- The byte at a key of the byte space. -/
def State.byteAt (s : State) (k : Nat) : Byte := Memory.get s.mem k
def State.setBytes (k : Nat) (l : List Byte) (s : State) : State := { s with mem := Memory.setList k l s.mem }

/-- The poison bit of the line at a key (R375). -/
def State.poisonAt (s : State) (k : Nat) : Bool := look false s.poison (k / 64)
def State.setPoison (k : Nat) (b : Bool) (s : State) : State :=
  { s with poison := if b then put (k / 64) true s.poison else del (k / 64) s.poison }

/-- The full bit of the word at a key (R171). -/
def State.fullAt (s : State) (k : Nat) : Bool := look false s.full (k / 8)
def State.setFullAt (k : Nat) (b : Bool) (s : State) : State :=
  { s with full := if b then put (k / 8) true s.full else del (k / 8) s.full }

/-- A record for the chip supervisor queue (R370); it is written when the step ends. -/
def State.record (cause : Nat) (info : Nat) (w1 w2 : Word) (s : State) : State :=
  { s with records := s.records ++ [⟨BitVec.ofNat 16 cause, BitVec.ofNat 48 info, w1, w2⟩] }

/-! ## Codewords of LPDDR 6 (R380, R381) -/

/-- The repair entry for a symbol position of a line (R381). -/
def repairEntry (line sym : Nat) : BitVec 32 := BitVec.ofNat 32 (sym % 128 + (Config.rowOf line).toNat * 2 ^ 8 + 2 ^ 31)

/-- Channel and rank as bytes 2 and 3 of a record (R370). -/
def lineInfo (line : Nat) : Nat := (Config.channelOf line).toNat + (Config.rowOf line).toNat % 2 * 2 ^ 8

/-- A position recorded in its channel's repair table, unless it is there or the table is full (R381). -/
def State.recordPosition (line sym : Nat) (s : State) : State :=
  let ch := (Config.channelOf line).toNat
  let e := repairEntry line sym
  if s.chip.repair.contains (ch, e) || decide (64 ≤ (s.chip.repair.filter fun x => x.1 = ch).length) then s
  else (s.modChip fun c => { c with repair := c.repair ++ [(ch, e)], pendRep := c.pendRep ++ [(ch, e)] }).record 0xA0 (lineInfo line)
    (w64 (line * 64)) (e.setWidth 64)

/-- A corrected error at a position whose place the decoder did not know: recorded at once, or on its second occurrence. -/
def State.correctedAt (line : Nat) (once : Bool) (s : State) (sym : Nat) : State :=
  let key := ((Config.channelOf line).toNat * 2 ^ 23 + (Config.rowOf line).toNat, sym)
  if once || s.chip.corrected.contains key then s.recordPosition line sym
  else s.modChip fun c => { c with corrected := key :: c.corrected }

/-- The bad symbols of a line's codeword. -/
def State.badSymbols (s : State) (line : Nat) : List Nat := look [] s.errors line

/-- Whether a position is recorded for a line's row, so that the decoder treats it as an erasure (R381). -/
def State.erasure (s : State) (line sym : Nat) : Bool := s.chip.repair.contains ((Config.channelOf line).toNat, repairEntry line sym)

/-- The bad symbols at positions that the decoder does not know. -/
def State.unknownErrors (s : State) (line : Nat) : List Nat := (s.badSymbols line).filter fun sym => !s.erasure line sym

/-- Whether the decoder corrects a line: 2e + f ≤ 8 (R380). -/
def State.correctable (s : State) (line : Nat) : Bool :=
  decide ((s.badSymbols line).length + (s.unknownErrors line).length ≤ 8)

/-- What reading a line of LPDDR does beside its data: the positions corrected are noted, or the record of a line that is not corrected
is written (R380, R381). -/
def State.decodeLine (line : Nat) (s : State) : State :=
  if (s.badSymbols line).isEmpty then s
  else if s.correctable line then
    let l := s.unknownErrors line
    l.foldl (State.correctedAt line (decide (2 < l.length))) s
  else
    let row := s.chip.repair.find? fun x => decide (x.1 = (Config.channelOf line).toNat) && decide (x.2.toNat / 2 ^ 8 = 2 ^ 23 + (Config.rowOf line).toNat)
    s.record 0xA1 (lineInfo line) (w64 (line * 64)) (((row.map Prod.snd).getD 0).setWidth 64)

/-- A line of LPDDR is written: its codeword is made anew. A write of part of it reads the line first, and leaves it poisoned where it was not
corrected (R380). -/
def State.renew (pa : Nat) (whole : Bool) (s : State) : State :=
  if (s.badSymbols (pa / 64)).isEmpty then s
  else
    let ok := whole || s.correctable (pa / 64)
    let t := if whole then s else s.decodeLine (pa / 64)
    { if ok then t else t.setPoison pa true with errors := del (pa / 64) t.errors }

/-! ## LPDDR 6 and its keys (R139, R383) -/

def State.keyLoaded (s : State) (k : Nat) : Bool := (look KeySlot.reset s.chip.keys k).loaded

/-- A key slot with the key it holds. -/
def State.keyOf (s : State) (k : Nat) : Nat × Nat := (k, (look KeySlot.reset s.chip.keys k).key)

/-- The byte at a physical address, read under a key slot that is loaded. -/
def State.lpByte (s : State) (ks pa : Nat) : Byte :=
  match find? s.written (pa / 64) with
  | none => s.byteAt pa
  | some w => if w = s.keyOf ks then s.byteAt pa else Config.decrypted (s.keyOf ks) w pa (s.byteAt pa)

/-- Whether a line of LPDDR reads poisoned under a key slot (R375, R380, R383). -/
def State.lpPoison (s : State) (ks pa : Nat) : Bool := !s.keyLoaded ks || s.poisonAt pa || !s.correctable (pa / 64)

/-- The record of an access through an empty key slot (R370, R383). -/
def State.keyRecord (ks pa : Nat) (s : State) : State := if s.keyLoaded ks then s else s.record 0xA3 ks (w64 pa) 0

/-- A write of bytes inside one line of LPDDR under a key slot. The rest of the line keeps what it reads as under that key. -/
def State.lpWrite (ks pa : Nat) (l : List Byte) (s : State) : State :=
  if !s.keyLoaded ks then s.keyRecord ks pa
  else
    let base := pa / 64 * 64
    let s := s.renew pa (decide (l.length = 64))
    let s' := match find? s.written (pa / 64) with
      | none => s
      | some w => if w = s.keyOf ks then s else s.setBytes base ((List.range 64).map fun i => s.lpByte ks (base + i))
    { s'.setBytes pa l with written := put (pa / 64) (s.keyOf ks) s.written }

/-! ## Full bits in LPDDR (R172) -/

/-- The byte of the full-bit area that covers a physical address. -/
def State.areaAddr (s : State) (pa : Nat) : Nat := s.chip.fullBase.toNat * 2 ^ 34 + pa / 64

/-- The eight full bits the area holds for a line; all empty while the area is off or its byte is poisoned. -/
def State.areaBits (s : State) (pa : Nat) : Byte :=
  if s.chip.fullEn && !s.lpPoison 0 (s.areaAddr pa) then s.lpByte 0 (s.areaAddr pa) else 0

/-- Writes the eight full bits of a line to the area, if it is in use. -/
def State.setAreaBits (pa : Nat) (b : Byte) (s : State) : State :=
  if s.chip.fullEn then s.lpWrite 0 (s.areaAddr pa) [b] else s

/-- The full bits of the eight words at a byte-space line, bit i for word i. -/
def State.lineFull (s : State) (k : Nat) : Byte :=
  BitVec.ofNat 8 ((List.range 8).foldl (fun n i => n + if s.fullAt (k / 64 * 64 + 8 * i) then 2 ^ i else 0) 0)

/-- Sets the full bits of the eight words of a byte-space line. -/
def State.setLineFull (k : Nat) (b : Byte) (s : State) : State :=
  (List.range 8).foldl (fun s i => s.setFullAt (k / 64 * 64 + 8 * i) (b.getLsbD i)) s

/-! ## L2 slices (R137) -/

def l2Index (slice pa : Nat) : Nat := slice * 2 ^ 34 + pa / 64

/-- Whether a slice holds the line of a physical address. -/
def State.l2Has (s : State) (slice pa : Nat) : Bool := (find? s.l2 (l2Index slice pa)).isSome

/-- Copies the listed bytes of `[src, src + n)` to `dst`, which reads 0 elsewhere in its range. -/
def Memory.copy (src dst n : Nat) (m : List Host.Cell) : List Host.Cell :=
  (m.filter (fun e => decide (src ≤ e.1) && decide (e.1 < src + n))).foldl
    (fun m' e => Memory.set (e.1 - src + dst) e.2 m') (Memory.drop dst n m)

/-- Writes a line of a slice to LPDDR under the key slot it was reached through: the bytes of its write mask, and its poison (R137,
R139, R375). -/
def State.cleanL2 (slice pa : Nat) (s : State) : State :=
  match find? s.l2 (l2Index slice pa) with
  | none => s
  | some l =>
    if !l.dirty then s else
    let base := pa / 64 * 64
    let k := l2Key slice base
    let ks := l.keyslot.toNat
    let s := { s with l2 := put (l2Index slice pa) { l with dirty := false, mask := 0 } s.l2 }
    if !s.keyLoaded ks then s.keyRecord ks base
    else
      (if l.mask = BitVec.allOnes 64 then s.lpWrite ks base ((List.range 64).map fun i => s.byteAt (k + i))
       else ((List.range 64).filter l.mask.getLsbD).foldl (fun (s : State) i => s.lpWrite ks (base + i) [s.byteAt (k + i)]) s).setPoison
        base (s.poisonAt k || (decide (l.mask ≠ BitVec.allOnes 64) && !s.correctable (pa / 64)))

/-- Evicts a line of a slice (R137, R172). -/
def State.evictL2 (slice pa : Nat) (s : State) : State :=
  if !s.l2Has slice pa then s else
  let base := pa / 64 * 64
  let k := l2Key slice base
  let s := s.cleanL2 slice pa
  let s := s.setAreaBits base (s.lineFull k)
  { (s.setPoison k false).setLineFull k 0 with
    mem := Memory.drop k 64 s.mem, l2 := del (l2Index slice pa) s.l2 }

/-- The lines a slice holds in the set of a physical address: 16 MiB in 16 ways are 16384 sets, taken by line number (DESIGN CHOICE, log
entry 69). -/
def State.l2Set (s : State) (slice pa : Nat) : List Nat :=
  (s.l2.filter fun e => decide (e.1 / 2 ^ 34 = slice) && decide (e.1 % 16384 = pa / 64 % 16384)).map fun e => e.1 % 2 ^ 34

/-- One of the lines of a list, by a free value. -/
def State.pickVictim (s : State) (l : List Nat) : Option Nat := l[Config.victim s.fresh % l.length]?

/-- Makes room for a line in a slice: of a full set one line is evicted. -/
def State.roomL2 (slice pa : Nat) (s : State) : State :=
  let l := s.l2Set slice pa
  if s.l2Has slice pa || decide (l.length < 16) then s
  else match s.pickVictim l with
    | none => s
    | some v => { s with fresh := s.fresh + 1 }.evictL2 slice (v * 64)

/-- Brings a line into its home slice (R137): data, poison, and full bits from the area (R172). -/
def State.fillL2 (slice ks pa : Nat) (s : State) : State :=
  if s.l2Has slice pa then s else
  let s := s.roomL2 slice pa
  let base := pa / 64 * 64
  let k := l2Key slice base
  let bad := s.lpPoison ks base || (s.chip.fullEn && s.lpPoison 0 (s.areaAddr base))
  let s := s.decodeLine (base / 64)
  let s := if s.chip.fullEn then s.decodeLine (s.areaAddr base / 64) else s
  let m := match find? s.written (base / 64) with
    | none => Memory.copy base k 64 s.mem
    | some w => if w = s.keyOf ks then Memory.copy base k 64 s.mem
                else Memory.setList k ((List.range 64).map fun i => s.lpByte ks (base + i)) s.mem
  ((({ s with mem := m, l2 := put (l2Index slice pa) ⟨false, 0, BitVec.ofNat 8 ks⟩ s.l2 }.setPoison k bad).setLineFull k
    (s.areaBits base)).keyRecord ks base)

/-- The bits of a write mask for `n` bytes from a physical address on. -/
def byteMask (pa n : Nat) : BitVec 64 := BitVec.ofNat 64 ((2 ^ n - 1) * 2 ^ (pa % 64))

/-- A slice's line with `n` more bytes written from a physical address on (R169). -/
def State.maskL2 (slice pa n ks : Nat) (s : State) : State :=
  let old := match find? s.l2 (l2Index slice pa) with
    | some l => l.mask
    | none => 0
  { s with l2 := put (l2Index slice pa) ⟨true, old ||| byteMask pa n, BitVec.ofNat 8 ks⟩ s.l2 }

/-! ## L1 (R135, R136) -/

/-- Whether a cluster has an L1: a bank in the cache role. -/
def State.hasL1 (s : State) (k : Nat) : Bool :=
  decide (k < 256) && (s.cluster k).banks.any (fun e => e.2.role = 1)

/-- Whether a cluster's L1 holds the line of a physical address. -/
def State.l1Has (s : State) (k pa : Nat) : Bool := (s.cluster k).l1.contains (pa / 64)

/-- Takes one line out of a cluster's L1. -/
def State.dropL1 (k pa : Nat) (s : State) : State :=
  if s.l1Has k pa then
    { (s.modCluster k fun c => { c with l1 := c.l1.filter (· != pa / 64) }).setPoison (l1Key k pa) false with
      mem := Memory.drop (l1Key k (pa / 64 * 64)) 64 s.mem }
  else s

/-- Invalidates a cluster's whole L1. -/
def State.flushL1 (k : Nat) (s : State) : State :=
  if (s.cluster k).l1.isEmpty then s else
  { s.modCluster k (fun c => { c with l1 := [] }) with
    mem := Memory.drop (l1Key k 0) (2 ^ 40) s.mem,
    poison := s.poison.filter fun e => decide (e.1 * 64 / 2 ^ 40 ≠ l1Key k 0 / 2 ^ 40) }

/-- The sets of a cluster's L1: 512 lines a cache-role bank in 8 ways. -/
def State.l1Sets (s : State) (k : Nat) : Nat := 64 * ((s.cluster k).banks.filter fun e => e.2.role = 1).length

/-- The lines an L1 holds in the set of a physical address, taken by line number (DESIGN CHOICE, log entry 69). -/
def State.l1Set (s : State) (k pa : Nat) : List Nat := (s.cluster k).l1.filter fun n => n % s.l1Sets k = pa / 64 % s.l1Sets k

/-- Makes room for a line in a cluster's L1: a full set loses one line. -/
def State.roomL1 (k pa : Nat) (s : State) : State :=
  let l := s.l1Set k pa
  if l.length < 8 then s
  else match s.pickVictim l with
    | none => s
    | some v => { s with fresh := s.fresh + 1 }.dropL1 k (v * 64)

/-- Allocates a line in a cluster's L1, copied from its home slice's copy. -/
def State.fillL1 (k slice pa : Nat) (s : State) : State :=
  if !s.hasL1 k || s.l1Has k pa then s else
  let s := s.roomL1 k pa
  let base := pa / 64 * 64
  { s.modCluster k (fun c => { c with l1 := (pa / 64) :: c.l1 }) with
    mem := Memory.copy (l2Key slice base) (l1Key k base) 64 s.mem }

/-! ## Accesses at a home -/

/-- The physical or scratchpad line key under which stores are compared: two accesses overlap if their places do. -/
def Home.place : Home → Nat
  | .sram k off => sramKey k off
  | .dram _ pa _ _ => pa

/-- `h` moved on by `i` bytes. -/
def Home.plus (h : Home) (i : Nat) : Home :=
  match h with
  | .sram k off => .sram k (off + i)
  | .dram sl pa p ks => .dram sl (pa + i) p ks

/-- One byte as its home has it. -/
def State.homeByte (s : State) (h : Home) : Byte :=
  match h with
  | .sram k off => s.byteAt (sramKey k off)
  | .dram sl pa _ ks => if s.l2Has sl pa then s.byteAt (l2Key sl pa) else s.lpByte ks pa

/-- `n` bytes as their home has them. -/
def State.homeBytes (s : State) (h : Home) : Nat → List Byte
  | n => (List.range n).map fun i => s.homeByte (h.plus i)

/-- Whether the line at a home is poisoned (R375). -/
def State.homePoison (s : State) (h : Home) : Bool :=
  match h with
  | .sram k off => s.poisonAt (sramKey k off)
  | .dram sl pa _ ks => if s.l2Has sl pa then s.poisonAt (l2Key sl pa) else s.lpPoison ks pa

/-- What a read leaves behind: under policies L1+L2 and L2 only the line is allocated in its home slice (R138), and an
empty key slot is recorded (R383). -/
def State.touch (h : Home) (s : State) : State :=
  match h with
  | .sram _ _ => s
  | .dram sl pa p ks => if p = 2 then (if s.l2Has sl pa then s else (s.keyRecord ks pa).decodeLine (pa / 64)) else s.fillL2 sl ks pa

/-- A store to a line that is watched makes its walkers look again (R127). -/
def State.notice (pa : Nat) (s : State) : State :=
  (s.monitors.filter (fun e => e.1 % 2 ^ 34 = pa / 64)).foldl (fun s e => s.post .pageMonitorWake (arg2 e.1 1)) s

/-- Bytes written inside one line at their home (R138); poison and full bits stay as they are (R179). -/
def State.homeWrite (h : Home) (l : List Byte) (s : State) : State :=
  match h with
  | .sram k off => s.setBytes (sramKey k off) l
  | .dram sl pa p ks =>
    let s := if p = 2 then
        (if s.l2Has sl pa then ((s.setBytes (l2Key sl pa) l).maskL2 sl pa l.length ks).cleanL2 sl pa else s.lpWrite ks pa l)
      else ((s.fillL2 sl ks pa).setBytes (l2Key sl pa) l).maskL2 sl pa l.length ks
    s.notice pa

/-- Whether two homes are the same place: in one scratchpad, or at one physical address of one slice (R137). -/
def Home.same : Home → Home → Bool
  | .sram k off, .sram k' off' => decide (k = k') && decide (off = off')
  | .dram sl pa _ _, .dram sl' pa' _ _ => decide (sl = sl') && decide (pa = pa')
  | _, _ => false

/-- Sets or clears the poison bit of the line at a home. -/
def State.setHomePoison (h : Home) (b : Bool) (s : State) : State :=
  match h with
  | .sram k off => s.setPoison (sramKey k off) b
  | .dram sl pa p ks =>
    if s.l2Has sl pa then
      let s := s.setPoison (l2Key sl pa) b
      if p = 2 then s.setPoison pa b
      else match find? s.l2 (l2Index sl pa) with
        | none => s
        | some l => { s with l2 := put (l2Index sl pa) { l with dirty := true } s.l2 }
    else if s.keyLoaded ks then s.setPoison pa b else s

/-- The full bit of the word at a home (R171, R172). -/
def State.homeFull (s : State) (h : Home) : Bool :=
  match h with
  | .sram k off => s.fullAt (sramKey k off)
  | .dram sl pa _ _ => if s.l2Has sl pa then s.fullAt (l2Key sl pa) else (s.areaBits pa).getLsbD (pa / 8 % 8)

/-- Sets or clears the full bit of the word at a home. -/
def State.setHomeFull (h : Home) (b : Bool) (s : State) : State :=
  match h with
  | .sram k off => s.setFullAt (sramKey k off) b
  | .dram sl pa p ks =>
    let s := if p = 2 then s else s.fillL2 sl ks pa
    let s' := if s.l2Has sl pa then s.setFullAt (l2Key sl pa) b else s
    if p = 2 then
      let old := s.areaBits pa
      let bit : Byte := BitVec.ofNat 8 (2 ^ (pa / 8 % 8))
      s'.setAreaBits pa (if b then old ||| bit else old &&& ~~~bit)
    else s'

/-- An engine's write inside one line (R376): poisoned data sets the poison bit, a whole unpoisoned line clears it. -/
def State.engineWrite (h : Home) (l : List Byte) (bad : Bool) (s : State) : State :=
  let s := s.homeWrite h l
  if bad then s.setHomePoison h true
  else if l.length = 64 then s.setHomePoison h false else s

/-- `l2zero` at the home (R192): zero data, poison clear, the line's eight words empty. -/
def State.homeZero (h : Home) (s : State) : State :=
  let z : List Byte := List.replicate 64 0
  match h with
  | .sram k off => ((s.setBytes (sramKey k off) z).setPoison (sramKey k off) false).setLineFull (sramKey k off) 0
  | .dram sl pa p ks =>
    if p = 2 then
      let k := l2Key sl pa
      let s := if s.l2Has sl pa then (((((s.setBytes k z).setPoison k false).setLineFull k 0).maskL2 sl pa 64 ks).cleanL2 sl pa)
        else (s.lpWrite ks pa z).setHomePoison h false
      (s.setAreaBits pa 0).notice pa
    else
      let k := l2Key sl pa
      (((((s.roomL2 sl pa).setBytes k z).maskL2 sl pa 64 ks).setPoison k false).setLineFull k 0).notice pa

/-- A retired write performed at its home (R177). -/
def State.perform (h : Home) (op : StOp) (s : State) : State :=
  match op with
  | .bytes l => s.homeWrite h l
  | .nibble high v =>
    let old := s.homeByte h
    s.homeWrite h [if high then (old &&& 0x0F) ||| ((v.setWidth 8) <<< 4) else (old &&& 0xF0) ||| v.setWidth 8]
  | .clearFull n => (List.range n).foldl (fun s i => s.setHomeFull (h.plus (8 * i)) false) s
  | .zeroLine => s.homeZero h

/-- Whether a retired write removes its line from the own L1 without condition: a nibble store, which is an atomic, and `l2zero` (R167, R187,
R192). -/
def StOp.dropsLine : StOp → Bool
  | .nibble _ _ => true
  | .zeroLine => true
  | .bytes _ => false
  | .clearFull _ => false

/-- How many bytes from its home on a retired write covers. -/
def StOp.size : StOp → Nat
  | .bytes l => l.length
  | .nibble _ _ => 1
  | .clearFull n => 8 * n
  | .zeroLine => 64

/-- Whether a pending write and `n` bytes at a home overlap. -/
def PendStore.overlaps (p : PendStore) (h : Home) (n : Nat) : Bool :=
  decide (p.home.place < h.place + n) && decide (h.place < p.home.place + p.op.size)

/-- The slot without the pending writes that `gone` selects; each fence counts those of its predecessors that are left (R189). -/
def Slot.dropStores (gone : PendStore → Bool) (sl : Slot) : Slot :=
  { sl with
    stores := sl.stores.filter fun p => !gone p,
    fences := sl.fences.map fun f => { f with stores := ((sl.stores.take f.stores).filter fun p => !gone p).length } }

end Sys2Proof.Machine
end

