-- ==== Sys2Proof/Machine/Access.lean ====
section
/-! DEFINITION. Address forms, protection regions, translation and the checks of every access (R128 to R131, R140 to R147, R150). -/

namespace Sys2Proof.Machine

/-! ## Trap causes (R368) -/

def cILLEGAL : Nat := 1
def cMISALIGN : Nat := 2
def cNOTPRESENT : Nat := 3
def cDISCARDWRITE : Nat := 4
def cPROTECTION : Nat := 5
def cPOISON : Nat := 6
def cSTALLSHORT : Nat := 7
def cCHECKER : Nat := 8
def cCAPABILITY : Nat := 9
def cPHASE : Nat := 10
def cRING : Nat := 11
def cWINDOWLOAD : Nat := 12
def cSYS : Nat := 13
def cBREAK : Nat := 14
def cSILENT : Nat := 15

/-! ## The scratchpad form -/

/-- The region test of R131 for a requester of partition `q`: one VALID region of cluster `k` covers all `n` bytes. -/
def Region.allows (r : Region) (q off n : Nat) (rd wr : Bool) : Bool :=
  r.valid && decide (q ≠ 0) && decide (r.part.toNat = q) && decide (r.base.toNat % 64 = 0) &&
  decide (r.size.toNat % 64 = 0) && decide (r.base.toNat ≤ off) &&
  decide (off + n ≤ Nat.min (r.base.toNat + r.size.toNat) 0x100000) && (!rd || r.rd) && (!wr || r.wr)

/-- Whether every bank the bytes lie in has the scratchpad role (R133). -/
def State.scratchRole (s : State) (k off n : Nat) : Bool :=
  (List.range ((off + n - 1) / 32768 - off / 32768 + 1)).all fun i =>
    (look Bank.reset (s.cluster k).banks (off / 32768 + i)).role = 0

/-- Whether a cluster lies in a partition that is under containment reset on this chip (R131, R373). -/
def State.resetting (s : State) (k : Nat) : Bool :=
  let p := s.partOf k
  decide (p ≠ 0) && decide ((s.part p).st = 3)

/-- Whether a cluster's SRAM serves accesses: not while its power is off (R394). -/
def State.powered (s : State) (k : Nat) : Bool := decide ((s.cluster k).pstate ≠ 0)

/-- Whether a home lies in a scratchpad that serves nobody: under containment reset, or without power (R373, R394). -/
def State.closed (s : State) (h : Home) : Bool := match h with
  | .sram k _ => s.resetting k || !s.powered k
  | _ => false

/-- What a check of an access answers. -/
inductive Chk where
  | ok (h : Home)                                   -- performed at this home
  | window (winno : Nat)                            -- a store handed to the window port (R143)
  | disc                                            -- a discarded page, checks 1 to 5 passed (R150)
  | bad (cause : Nat) (entry : Option Nat)          -- the check that failed; the invalid table entry, to be watched
  | busy                                            -- every walk of the sector is busy (R146)
deriving DecidableEq, Repr

/-- The scratchpad form's check 2 of R147: its zero bits. -/
def scratchForm (a : Word) : Bool := decide (wbits a 32 31 = 0) && decide (wbits a 20 4 = 0)

/-- Check 2 and 3a of R147 for the scratchpad form, made for core `c`. A supervisor core has no cluster of its own that 0xFF could name: it
traps PROTECTION (DESIGN CHOICE, log entry 74), and so does one of a powered-off cluster (DEDUCED, log entry 100). -/
def State.checkScratch (s : State) (c : Nat) (a : Word) (n : Nat) (rd wr : Bool) : Chk :=
  let k0 := wbits a 24 8
  let off := wbits a 0 20
  if !scratchForm a then .bad cPROTECTION none
  else if k0 = 255 ∧ isSup c then .bad cPROTECTION none
  else
    let k := if k0 = 255 then clusterOf c else k0
    if off + n > 0x100000 then .bad cPROTECTION none
    else if s.resetting k ∨ !s.powered k ∨ !s.scratchRole k off n then .bad cPROTECTION none
    else if isSup c ∨ (s.cluster k).prot.any (fun r => r.2.allows (s.corePart c) off n rd wr) then .ok (.sram k off)
    else .bad cPROTECTION none

/-! ## Translation (R140 to R146) -/

/-- Eight bytes of a table line, read at slice a[23:16] under key slot 0 (R145). -/
def tableHome (pa : Nat) : Home := .dram (pa / 2 ^ 16 % 256) pa 1 0

def State.tableEntry (s : State) (pa : Nat) : Word := w64 (ofBytes (s.homeBytes (tableHome pa) 8))

/-- A malformed entry of R144, at level `l`. -/
def entryMalformed (l : Nat) (e : Word) : Bool :=
  if e.getLsbD 5 then
    decide (l = 0) || decide (wbits e 36 4 ≠ 0) || decide (wbits e 6 2 = 3) || decide (wbits e 34 2 = 3) ||
    (decide (l = 2) && decide (wbits e 40 5 ≠ 0)) || (decide (l = 1) && decide (wbits e 40 14 ≠ 0))
  else
    decide (l = 3) || decide (wbits e 1 4 ≠ 0) || decide (wbits e 6 6 ≠ 0) || decide (wbits e 40 24 ≠ 0)

/-- What a walk finds: a leaf with its page size in 64 KiB units, the first invalid entry, or poison; or that no walk is free. An entry is
named by its physical address plus the level it stands at. -/
inductive Walk where
  | leaf (l : Leaf) (first : Nat)
  | invalid (entry : Nat)
  | poison (entry : Nat)
  | busy
deriving DecidableEq, Repr

/-- Where level `l` indexes a virtual address (R141). -/
def levelIndex (va l : Nat) : Nat :=
  match l with
  | 0 => va / 2 ^ 39 % 512
  | 1 => va / 2 ^ 30 % 512
  | 2 => va / 2 ^ 21 % 512
  | _ => va / 2 ^ 16 % 32

/-- Pages of 64 KiB a leaf at level `l` maps (R141). -/
def levelPages (l : Nat) : Nat :=
  match l with
  | 1 => 2 ^ 14
  | 2 => 2 ^ 5
  | _ => 1

/-- The walk from level `4 - fuel` with its table at `tab`. -/
def State.walkFrom (s : State) (va : Nat) : Nat → Nat → Walk
  | 0, tab => .invalid tab
  | n + 1, tab =>
    let l := 3 - n
    let pa := tab + 8 * levelIndex va l
    let e := s.tableEntry pa
    if s.homePoison (tableHome pa) then .poison (pa + l)
    else if !e.getLsbD 0 || entryMalformed l e then .invalid (pa + l)
    else if e.getLsbD 5 then
      .leaf ⟨e, levelPages l, pa + l⟩ (va / 2 ^ 16 / levelPages l * levelPages l)
    else s.walkFrom va n (wbits e 12 28 * 4096)

/-- The table entries a walk from level `4 - fuel` reads. -/
def State.walkReads (s : State) (va : Nat) : Nat → Nat → List Nat
  | 0, _ => []
  | n + 1, tab =>
    let l := 3 - n
    let pa := tab + 8 * levelIndex va l
    let e := s.tableEntry pa
    if s.homePoison (tableHome pa) || !e.getLsbD 0 || entryMalformed l e || e.getLsbD 5 then [pa]
    else pa :: s.walkReads va n (wbits e 12 28 * 4096)

/-- The root register of a domain (R140). -/
def State.rootOf (s : State) (dom : Nat) : Bool × Nat := ((s.cluster dom).en, (s.cluster dom).root.toNat * 4096)

/-- A translation held for a page. -/
def tlbFind (t : SMap Leaf) (vpn : Nat) : Option Leaf :=
  (t.find? (fun e => decide (e.1 ≤ vpn) && decide (vpn < e.1 + e.2.pages))).map (·.2)

/-- Holds a translation in place of those it overlaps; at most `cap` (R146), the least numbers going first. -/
def tlbHold (t : SMap Leaf) (first : Nat) (l : Leaf) (cap : Nat) : SMap Leaf :=
  let t := t.filter fun e => decide (e.1 + e.2.pages ≤ first) || decide (first + l.pages ≤ e.1)
  put first l (if t.length < cap then t else t.drop 1)

/-- The translations without one that covers a page. -/
def tlbForget (t : SMap Leaf) (vpn : Nat) : SMap Leaf := t.filter fun e => !(decide (e.1 ≤ vpn) && decide (vpn < e.1 + e.2.pages))

/-- What caches an access's translation (R146): its domain's TLB, or a sector's Meridian translation cache. -/
inductive TUnit where
  | tlb
  | meridian (sector : Nat)
deriving DecidableEq, Repr

/-- The number of a domain's page 0 in a unit. -/
def TUnit.base (u : TUnit) (dom : Nat) : Nat := match u with
  | .tlb => 0
  | .meridian _ => dom * 2 ^ 32
def TUnit.cap (u : TUnit) : Nat := match u with
  | .tlb => 512
  | .meridian _ => 64
/-- The translations a unit holds for a domain. -/
def State.held (s : State) (u : TUnit) (dom : Nat) : SMap Leaf := match u with
  | .tlb => (s.cluster dom).tlb
  | .meridian n => (s.sector n).tc
def State.modHeld (u : TUnit) (dom : Nat) (f : SMap Leaf → SMap Leaf) (s : State) : State := match u with
  | .tlb => s.modCluster dom fun c => { c with tlb := f c.tlb }
  | .meridian n => s.modSector n fun e => { e with tc := f e.tc }

/-- The sector whose walker serves a miss; none for a supervisor core's (R146). -/
def TUnit.walker (u : TUnit) (dom : Nat) : Option Nat := match u with
  | .tlb => if dom < 256 then some (sectorOf dom) else none
  | .meridian n => some n

/-- A sector's walker takes a walk for a page, merged with one for the same page; none where its 64 walks are busy. A walk takes one
cycle (DESIGN CHOICE, log entry 72). -/
def State.takeWalk (u : TUnit) (dom page : Nat) (s : State) : Option State :=
  match u.walker dom with
  | none => some s
  | some n =>
    let e := s.sector n
    let now := if e.walkAt = s.cycle + 1 then e.walks else []
    let key := dom * 2 ^ 32 + page
    if now.contains key then some s
    else if 64 ≤ now.length then none
    else some (s.modSector n fun e => { e with walkAt := s.cycle + 1, walks := key :: now })

/-- A walk of a domain's tables for an address: its reads allocate the lines in their slices (R138, R145), and a leaf is held. -/
def State.walk (u : TUnit) (dom va : Nat) (s : State) : Walk × State :=
  match s.takeWalk u dom (va / 65536) with
  | none => (.busy, s)
  | some s =>
    let w := s.walkFrom va 4 (s.rootOf dom).2
    let s := (s.walkReads va 4 (s.rootOf dom).2).foldl (fun (s : State) pa => s.touch (tableHome pa)) s
    match w with
    | .leaf l first => (w, s.modHeld u dom fun t => tlbHold t (u.base dom + first) l u.cap)
    | w => (w, s.modHeld u dom fun t => tlbForget t (u.base dom + va / 65536))

/-- A translation of `va` in a domain: the held one unless it is discarded (R146), else a walk. -/
def State.translate (u : TUnit) (dom va : Nat) (s : State) : Walk × State :=
  match tlbFind (s.held u dom) (u.base dom + va / 65536) with
  | some l => if l.word.getLsbD 1 then s.walk u dom va else (.leaf l (va / 65536 / l.pages * l.pages), s)
  | none => s.walk u dom va

/-- The physical address a leaf gives. -/
def Leaf.pa (l : Leaf) (va : Nat) : Nat := wbits l.word 40 24 * 65536 + va % (l.pages * 65536)

/-- Checks 2 and 3b to 6 of R147 on a leaf. `win`: check 5 applies. -/
def leafChk (l : Leaf) (va : Nat) (rd wr ex win : Bool) : Chk :=
  let e := l.word
  if ex && e.getLsbD 1 then .bad cNOTPRESENT (some l.line)
  else if (rd && !e.getLsbD 2) || (wr && !e.getLsbD 3) || (ex && !e.getLsbD 4) then .bad cPROTECTION none
  else if win && decide (wbits e 34 2 = 1) then .bad cWINDOWLOAD none
  else if e.getLsbD 1 then .disc
  else if wbits e 34 2 = 1 then .window (wbits e 24 10)
  else .ok (.dram (wbits e 16 8) (l.pa va) (wbits e 6 2) (wbits e 8 8))

/-- What an access asks for: read, write, execute, and whether check 5 applies to it. A fetch from a page under a transmit window has no
frame to read, and traps WINDOWLOAD as a load does (DESIGN CHOICE, log entry 75). -/
structure Need where
  rd  : Bool
  wr  : Bool
  ex  : Bool
  win : Bool
deriving DecidableEq, Repr

def Need.load : Need := ⟨true, false, false, true⟩
def Need.store : Need := ⟨false, true, false, false⟩
def Need.atomic : Need := ⟨true, true, false, true⟩
def Need.fetch : Need := ⟨false, false, true, true⟩
/-- An engine's read and write: a page with WTYPE = 1 fails both (R149). -/
def Need.engineRead : Need := ⟨true, false, false, true⟩
def Need.engineWrite : Need := ⟨false, true, false, true⟩

/-- Checks 2 to 6 of R147 for `n` bytes at `a`, made for core `c` by way of a translation cache (`n` bytes lie in one page). -/
def State.checkBy (u : TUnit) (c : Nat) (a : Word) (n : Nat) (need : Need) (s : State) : Chk × State :=
  if a.getLsbD 63 then
    (if need.ex then .bad cPROTECTION none else s.checkScratch c a n need.rd need.wr, s)
  else if wbits a 48 15 ≠ 0 then (.bad cPROTECTION none, s)
  else
    let dom := domainOf c
    if !(s.rootOf dom).1 then (.bad cPROTECTION none, s)
    else
      let (w, s) := s.translate u dom a.toNat
      match w with
      | .poison _ => (.bad cPOISON none, s)
      | .busy => (.busy, s)
      | .invalid e => (.bad cNOTPRESENT (some e), s)
      | .leaf l _ =>
        match leafChk l a.toNat need.rd need.wr need.ex need.win with
        | .disc => (.disc, s)
        | r => (r, s)

/-- The checks of an access by way of its domain's TLB. -/
abbrev State.check (c : Nat) (a : Word) (n : Nat) (need : Need) (s : State) : Chk × State := s.checkBy .tlb c a n need

/-- The table entry that maps an address, by the translation a unit holds, for the monitor of a discarded page (R127). -/
def State.entryBy (u : TUnit) (s : State) (c : Nat) (a : Word) : Option Nat :=
  (tlbFind (s.held u (domainOf c)) (u.base (domainOf c) + a.toNat / 65536)).map Leaf.line

abbrev State.entryOf (s : State) (c : Nat) (a : Word) : Option Nat := s.entryBy .tlb c a

/-- A walk under way in a unit's walker ends. -/
def State.endWalk (u : TUnit) (dom : Nat) (s : State) : State := match u.walker dom with
  | none => s
  | some n => s.modSector n fun e => { e with walks := e.walks.drop 1 }

end Sys2Proof.Machine
end

