-- ==== Sys2Proof/Machine/Tables.lean ====
section
/-! DEFINITION. Handles, and a core's handle table, sequence pairs and queue-record cells, which lie in memory where HTBASE, SEQBASE and QBASE place them (R38 to R42, R50, R51); and the layout of a save area (R320), to which writes for a moved cluster are redirected (R243). -/

namespace Sys2Proof.Machine

/-! ## Core numbers and handles (R15, R38) -/

/-- A core's number: the header's sender layout for a compute core; 2^25 + chip * 16 + i for supervisor core i. -/
def coreNum (chip c : Nat) : Nat := if isSup c then 2 ^ 25 + chip * 16 + (c - 2048) else chip * 2048 + c
def numChip (n : Nat) : Nat := if 2 ^ 25 ≤ n then (n - 2 ^ 25) / 16 else n / 2048
def numCore (n : Nat) : Nat := if 2 ^ 25 ≤ n then 2048 + (n - 2 ^ 25) % 16 else n % 2048

def State.chipNo (s : State) : Nat := s.chip.chipid.toNat
def State.numOf (s : State) (c : Nat) : Nat := coreNum s.chipNo c

def hNum (h : Word) : Nat := h.toNat / 2 ^ 39
def hIdx (h : Word) : Nat := wbits h 27 12
def hGen (h : Word) : Nat := wbits h 16 11
def hKind (h : Word) : Nat := wbits h 14 2
def hCap (h : Word) : Nat := wbits h 0 14
/-- Bits [63:14] of a handle: the key of its sequence pairs (R50). -/
def hKey (h : Word) : Nat := h.toNat / 2 ^ 14

def mkHandle (num idx gen kind cap : Nat) : Word := w64 (num * 2 ^ 39 + idx * 2 ^ 27 + gen * 2 ^ 16 + kind * 2 ^ 14 + cap)

/-- `h` with another kind. -/
def hWithKind (h : Word) (k : Nat) : Word := w64 (h.toNat / 2 ^ 16 * 2 ^ 16 + k * 2 ^ 14 + h.toNat % 2 ^ 14)

/-- Two handles key the same entry: equal in every bit but the kind (R41). -/
def keyEq (a b : Word) : Bool := hWithKind a 0 == hWithKind b 0

/-! ## Reason codes (R53) -/

def rDEPENDENCY : Nat := 1
def rSTALE : Nat := 2
def rNOHANDLER : Nat := 3
def rNOINBOX : Nat := 4
def rCAPABILITY : Nat := 5
def rTRAP : Nat := 6
def rPOISON : Nat := 7
def rRESET : Nat := 8
def rCHECKER : Nat := 9
def rSILENT : Nat := 10
def rSUPERVISOR : Nat := 11
def rTABLEFULL : Nat := 12
def rSEQUENCE : Nat := 13
def rUNREACHABLE : Nat := 14

/-! ## Entries (R41) -/

/-- A word with `n` bits from `lo` on replaced by `v`. -/
def wset (w : Word) (lo n v : Nat) : Word :=
  w64 (w.toNat / 2 ^ (lo + n) * 2 ^ (lo + n) + v % 2 ^ n * 2 ^ lo + w.toNat % 2 ^ lo)

namespace HEntry
def zero : HEntry := ⟨0, 0, 0, 0, 0, 0, 0, 0⟩
def st (e : HEntry) : Nat := wbits e.w0 0 2
def role (e : HEntry) : Nat := wbits e.w0 2 2
def gen (e : HEntry) : Nat := wbits e.w0 4 11
def cls (e : HEntry) : Nat := wbits e.w0 15 4
def watch (e : HEntry) : Bool := e.w0.getLsbD 19
def moved (e : HEntry) : Bool := e.w0.getLsbD 20
def passed (e : HEntry) : Bool := e.w0.getLsbD 21
def dropped (e : HEntry) : Bool := e.w0.getLsbD 22
def loc (e : HEntry) : Nat := wbits e.w0 23 25
def reason (e : HEntry) : Nat := wbits e.w3 0 16
def cause (e : HEntry) : Nat := wbits e.w3 16 8
def seqlist (e : HEntry) : Nat := wbits e.w3 24 16
/-- A fresh entry of a role, pending, keeping the generation. -/
def mk' (e : HEntry) (role loc : Nat) (key : Word) : HEntry :=
  ⟨w64 (1 + role * 4 + e.gen * 16 + loc % 2 ^ 25 * 2 ^ 23), 0, key, 0, 0, 0, 0, 0⟩
def set0 (e : HEntry) (lo n v : Nat) : HEntry := { e with w0 := wset e.w0 lo n v }
def set3 (e : HEntry) (lo n v : Nat) : HEntry := { e with w3 := wset e.w3 lo n v }
/-- The entry freed: every field clear but GEN, which advances, 2047 being followed by 1 (R42). -/
def freed (e : HEntry) : HEntry := ⟨w64 ((if e.gen = 2047 then 1 else e.gen + 1) * 16), 0, 0, 0, 0, 0, 0, 0⟩
def words (e : HEntry) : List Word := [e.w0, e.w1, e.w2, e.w3, e.w4, e.w5, e.w6, e.w7]
end HEntry

/-- Where a core's own areas lie: its translation of an address, read without rights (the supervisor maps them). -/
def State.peek (s : State) (c : Nat) (va : Nat) : Option Home :=
  let dom := domainOf c
  if !(s.rootOf dom).1 then none else
  match s.walkFrom va 4 (s.rootOf dom).2 with
  | .leaf l _ => match leafChk l va false false false true with
    | .ok h => some h
    | _ => none
  | _ => none

/-- The handle-table entry `i` of core `c`; a free entry where the table cannot be reached. -/
def State.entry (s : State) (c i : Nat) : HEntry :=
  let b := (s.core c).htbase.toNat
  if b = 0 then HEntry.zero else
  match s.peek c (b + 64 * i) with
  | none => HEntry.zero
  | some h =>
    let g := fun j => w64 (ofBytes (s.homeBytes (h.plus (8 * j)) 8))
    ⟨g 0, g 1, g 2, g 3, g 4, g 5, g 6, g 7⟩

/-- Writes a handle-table entry. -/
def State.setEntry (c i : Nat) (e : HEntry) (s : State) : State :=
  let b := (s.core c).htbase.toNat
  if b = 0 then s else
  match s.peek c (b + 64 * i) with
  | none => s
  | some h => s.homeWrite h (e.words.flatMap fun w => toBytes 8 w.toNat)

/-- Doubleword `j` of entry `i` of a table, without a walk for each: the table spans four pages. -/
def State.entryWord (s : State) (pages : List (Option Home)) (i j : Nat) : Word :=
  match pages[i / 1024]? with
  | some (some h) => w64 (ofBytes (s.homeBytes (h.plus (64 * (i % 1024) + 8 * j)) 8))
  | _ => 0

def State.tablePages (s : State) (c : Nat) : List (Option Home) :=
  let b := (s.core c).htbase.toNat
  if b = 0 then [none, none, none, none] else (List.range 4).map fun p => s.peek c (b + 65536 * p)

/-- The lowest free index from 1 up (R42); none when the table is full or HTBASE is 0 (R40). -/
def State.freeIndex (s : State) (c : Nat) : Option Nat :=
  let pg := s.tablePages c
  ((List.range 4096).drop 1).find? fun i =>
    (match pg[i / 1024]? with | some (some _) => true | _ => false) && decide (wbits (s.entryWord pg i 0) 0 2 = 0)

/-- The answer or alias entry of core `c` keyed by a handle (R41). -/
def State.keyedIndex (s : State) (c : Nat) (key : Word) : Option Nat :=
  let pg := s.tablePages c
  ((List.range 4096).drop 1).find? fun i =>
    let w := s.entryWord pg i 0
    decide (wbits w 0 2 ≠ 0) && decide (2 ≤ wbits w 2 2) && keyEq (s.entryWord pg i 2) key

/-- Whether a handle names entry `hIdx h` of core `c` in its present generation. -/
def State.namesEntry (s : State) (c : Nat) (h : Word) : Bool :=
  decide (hNum h = s.numOf c % 2 ^ 25) && decide (hIdx h ≠ 0) && decide ((s.entry c (hIdx h)).st ≠ 0) &&
  decide ((s.entry c (hIdx h)).gen = hGen h)

/-- The handle of entry `i` of core `c`. -/
def State.handleOf (s : State) (c i kind : Nat) : Word :=
  mkHandle (s.numOf c % 2 ^ 25) i (s.entry c i).gen kind (s.partKey c).toNat

/-! ## Cells of the queue-record pool (R41, R51) -/

def logSize (l : BitVec 4) : Nat := 2 ^ (Nat.min l.toNat 6 + 10)

def State.cellAddr (s : State) (c n : Nat) : Word := if n = 0 then 0 else w64 ((s.core c).qbase.toNat + 64 * n)
def State.cellNo (s : State) (c : Nat) (a : Word) : Nat := if a = 0 then 0 else (a.toNat - (s.core c).qbase.toNat) / 64

/-- The lowest free number from 1 up to `n - 1` that is not in use. -/
def lowestFree (used : Nat → Bool) (n : Nat) : Option Nat := ((List.range n).drop 1).find? fun i => !used i

/-- Pairs or cells freed in this very cycle, which are free again from the next (R51). -/
def State.freedNow (s : State) (c : Nat) (l : List Nat) : List Nat := if (s.core c).freedAt = s.cycle then l else []

/-- A core with pairs and cells freed in this cycle. -/
def Core.freeing (now : Nat) (pairs cells : List Nat) (k : Core) : Core :=
  { k with freedAt := now, freedPairs := (if k.freedAt = now then k.freedPairs else []) ++ pairs,
           freedCells := (if k.freedAt = now then k.freedCells else []) ++ cells }

/-- The lowest free cell. -/
def State.lowCell (s : State) (c : Nat) : Option Nat :=
  let k := s.core c
  if k.qbase = 0 then none
  else lowestFree (fun i => (find? k.cells i).isSome || (s.freedNow c k.freedCells).contains i) (logSize k.qlog)

/-- Takes the lowest free cell for a record. -/
def State.newCell (c : Nat) (q : QCell) (s : State) : Option (Nat × State) :=
  (s.lowCell c).map fun n => (n, s.modCore c fun k => { k with cells := put n q k.cells })

def State.freeCell (c n : Nat) (s : State) : State :=
  s.modCore c fun k => { k.freeing s.cycle [] [n] with cells := del n k.cells }

/-- The cells of a list, from cell `n` on. -/
def cellList (cells : SMap QCell) : Nat → Nat → List (Nat × QCell)
  | 0, _ => []
  | f + 1, n => if n = 0 then [] else
    match find? cells n with
    | none => []
    | some q => (n, q) :: cellList cells f q.next

/-- The invocations queued on an entry, with their cells, oldest first. -/
def State.queued (s : State) (c : Nat) (e : HEntry) : List (Nat × Msg) :=
  (cellList (s.core c).cells 65536 (s.cellNo c e.w4)).filterMap fun q => q.2.msg.map fun m => (q.1, m)

/-- The registrations on an entry, with their cells, in order. -/
def State.watching (s : State) (c : Nat) (e : HEntry) : List (Nat × Watcher) :=
  (cellList (s.core c).cells 65536 (s.cellNo c e.w6)).filterMap fun q => q.2.watch.map fun w => (q.1, w)

/-- Links a new cell behind cell `last`. -/
def State.linkCell (c last n : Nat) (s : State) : State :=
  s.modCore c fun k => match find? k.cells last with
    | none => k
    | some q => { k with cells := put last { q with next := n } k.cells }

/-- Queues an invocation at the tail of entry `i` (R45); none when the pool is full. -/
def State.enqueue (c i : Nat) (m : Msg) (s : State) : Option State :=
  match s.newCell c ⟨some m, none, 0⟩ with
  | none => none
  | some (n, s) =>
    let e := s.entry c i
    let a := s.cellAddr c n
    if e.w4 = 0 then some (s.setEntry c i { e with w4 := a, w5 := a })
    else some ((s.linkCell c (s.cellNo c e.w5) n).setEntry c i { e with w5 := a })

/-- Places a registration on entry `i` (R55, R109); none when the pool is full. -/
def State.addWatch (c i : Nat) (w : Watcher) (s : State) : Option State :=
  match s.newCell c ⟨none, some w, 0⟩ with
  | none => none
  | some (n, s) =>
    let e := s.entry c i
    let e' := e.set0 19 1 1
    if e.w6 = 0 then some (s.setEntry c i { e' with w6 := s.cellAddr c n })
    else
      let l := cellList (s.core c).cells 65536 (s.cellNo c e.w6)
      some ((s.linkCell c ((l.getLast?.map (·.1)).getD 0) n).setEntry c i e')

/-! ## Sequence pairs (R50, R51) -/

def pairOf (w0 w1 : Word) : Pair := ⟨BitVec.ofNat 50 w0.toNat, wbits w1 0 25, BitVec.ofNat 16 (wbits w1 25 16), wbits w1 41 16⟩
def Pair.w0 (p : Pair) : Word := p.keyh.setWidth 64
def Pair.w1 (p : Pair) : Word := w64 (p.peer % 2 ^ 25 + p.num.toNat * 2 ^ 25 + p.next % 2 ^ 16 * 2 ^ 41)

def State.sendCount (s : State) (c : Nat) : Nat := logSize (s.core c).sendlog
def State.recvCount (s : State) (c : Nat) : Nat := logSize (s.core c).recvlog

/-- Where a pair lies: send pairs first, then the receive pool (R40). -/
def State.pairVa (s : State) (c : Nat) (recv : Bool) (i : Nat) : Nat :=
  (s.core c).seqbase.toNat + 16 * ((if recv then s.sendCount c else 0) + i)

/-- A pair; none where the area cannot be reached. -/
def State.pair (s : State) (c : Nat) (recv : Bool) (i : Nat) : Option Pair :=
  if (s.core c).seqbase = 0 then none else
  match s.peek c (s.pairVa c recv i) with
  | none => none
  | some h => some (pairOf (w64 (ofBytes (s.homeBytes h 8))) (w64 (ofBytes (s.homeBytes (h.plus 8) 8))))

def State.setPair (c : Nat) (recv : Bool) (i : Nat) (p : Pair) (s : State) : State :=
  match s.peek c (s.pairVa c recv i) with
  | none => s
  | some h => s.homeWrite h (toBytes 8 p.w0.toNat ++ toBytes 8 p.w1.toNat)

/-- The place a key is looked for first (R51). -/
def pairIndex (keyh m n : Nat) : Nat := (Nat.xor (Nat.xor keyh (keyh / 2 ^ m)) (keyh / 2 ^ (2 * m))) % n

/-- The place of the send pair for a key: the pair, or the first free place met, within 16 places. -/
def State.findSend (s : State) (c keyh : Nat) : Option (Nat × Pair) :=
  let n := s.sendCount c
  let i0 := pairIndex keyh (Nat.min (s.core c).sendlog.toNat 6 + 10) n
  let ps := (List.range 16).filterMap fun j => (s.pair c false ((i0 + j) % n)).map fun p => ((i0 + j) % n, p)
  match ps.find? (fun e => e.2.keyh.toNat = keyh) with
  | some e => some e
  | none => ps.find? (fun e => e.2.keyh = 0)

/-- The number the next message on a pair carries, the pair made if need be (R50); none fails TABLEFULL. -/
def State.nextSeq (c : Nat) (target : Word) (peer : Nat) (s : State) : Option (BitVec 16 × State) :=
  match s.findSend c (hKey target) with
  | none => none
  | some (i, p) =>
    let p := if p.keyh = 0 then ⟨BitVec.ofNat 50 (hKey target), peer, 0, 0⟩ else p
    some (p.num, s.setPair c false i { p with num := p.num + 1 })

/-- Moves pairs back into gap `g` up to the first free place (R51). -/
def State.closeGap (c n m g : Nat) : Nat → Nat → State → State
  | 0, _, s => s
  | f + 1, i, s =>
    match s.pair c false (i % n) with
    | none => s
    | some p =>
      if p.keyh = 0 then s else
      let home := pairIndex p.keyh.toNat m n
      let own := i % n
      let dist := fun a b => (b + n - a) % n
      -- `home` lies cyclically in (g, own]
      if decide (dist g home ≠ 0) && decide (dist g home ≤ dist g own) then s.closeGap c n m g f (i + 1)
      else
        ((s.setPair c false g p).setPair c false own Pair.free).closeGap c n m own f (i + 1)

/-- Frees the send pair of a target (R50, R51). -/
def State.freeSend (c : Nat) (target : Word) (s : State) : State :=
  match s.findSend c (hKey target) with
  | none => s
  | some (i, p) =>
    if p.keyh.toNat ≠ hKey target then s else
    let n := s.sendCount c
    (s.setPair c false i Pair.free).closeGap c n (Nat.min (s.core c).sendlog.toNat 6 + 10) i n (i + 1)

/-- The receive pairs of a list, with their places. -/
def State.recvList (s : State) (c : Nat) : Nat → Nat → List (Nat × Pair)
  | 0, _ => []
  | f + 1, i => if i = 0 then [] else
    match s.pair c true i with
    | none => []
    | some p => (i, p) :: s.recvList c f p.next

/-- The receive pair of (sender, key) on entry `i`, made with number 0 if need be; none when the pool is full. -/
def State.recvPair (c i : Nat) (sender keyh : Nat) (s : State) : Option (Nat × Pair × State) :=
  let e := s.entry c i
  let l := s.recvList c 65536 e.seqlist
  match l.find? (fun p => p.2.keyh.toNat = keyh && p.2.peer = sender % 2 ^ 25) with
  | some (n, p) => some (n, p, s)
  | none =>
    if (s.core c).seqbase = 0 then none else
    match lowestFree (fun n => (s.core c).rused.contains n || (s.freedNow c (s.core c).freedPairs).contains n) (s.recvCount c) with
    | none => none
    | some n =>
      let p : Pair := ⟨BitVec.ofNat 50 keyh, sender % 2 ^ 25, 0, e.seqlist⟩
      let s := (s.modCore c fun k => { k with rused := n :: k.rused }).setPair c true n p
      some (n, p, s.setEntry c i (e.set3 24 16 n))

/-- Frees the receive pairs of an entry (R42, R51). -/
def State.freeRecv (c : Nat) (e : HEntry) (s : State) : State :=
  (s.recvList c 65536 e.seqlist).foldl (fun s p =>
    (s.modCore c fun k => { k.freeing s.cycle [p.1] [] with rused := k.rused.filter (· != p.1) }).setPair c true p.1 Pair.free) s

/-! ## The save area (R320) -/

/-- Offset and length of each section, for `n` clusters whose auctions and launch state take `mer` and `launch` bytes. -/
def saveSections (n mer launch : Nat) (moved : Bool) : List (Nat × Nat) :=
  let up := fun (x : Nat) => (x + 65535) / 65536 * 65536
  let lens := [2048 * 64 * n, 65536 * 8 * n, 1024 * n, mer, launch, if moved then 2 ^ 20 * n else 0, 0, 0]
  (lens.foldl (fun (b : List (Nat × Nat) × Nat) l => (b.1 ++ [(b.2, l)], b.2 + up l)) ([], 65536)).1

/-- The sectors a rectangle touches. -/
def Part.sectors (d : Part) : List Nat := (List.range 16).filter fun i => (sectorClusters i).any d.owns

/-- Where a byte of cluster `k`'s SRAM lies while the cluster's SRAM is moved out: the domain and address in the save area. -/
def State.movedTo (s : State) (k off : Nat) : Option (Nat × Nat) :=
  let p := s.partOf k
  match find? s.saved p with
  | none => none
  | some v =>
    if !v.moved || decide ((s.part p).st ≠ 2) then none
    else
      (v.desc.clusters.findIdx? (· = k)).map fun i => (v.dom, v.area.toNat + v.sram + i * 2 ^ 20 + off)

/-- The home of a byte of the save area: the page its domain maps, under key slot 0 (R319). -/
def State.saveHome (s : State) (dom va : Nat) : Option Home :=
  if !(s.rootOf dom).1 then none else
  match s.walkFrom va 4 (s.rootOf dom).2 with
  | .leaf l _ => match leafChk l va false true false true with
    | .ok (.dram sl pa p _) => some (.dram sl pa p 0)
    | _ => none
  | _ => none

/-- Where an interface's write at a home lands: in the save area where the cluster's SRAM is moved out (R243). -/
def State.landHome (s : State) (h : Home) : Home :=
  match h with
  | .sram k off => match s.movedTo k off with
    | none => h
    | some (dom, va) => (s.saveHome dom va).getD h
  | _ => h

end Sys2Proof.Machine
end

