-- ==== Sys2Proof/Machine/Net.lean ====
section
/-! DEFINITION. Messages: packets and credits, delivery, broken and resolved replies, registrations, and the queues of objects (R15 to R21, R36, R43 to R58, R102). -/

namespace Sys2Proof.Machine

/-! ## Packets -/

/-- A message that arrived on no credit: a fault message, or one the launch unit sent. -/
def noHop : Nat := 2 ^ 27

/-- The step that takes a packet where it arrives. -/
def Body.step : Body → Instr
  | .invoke m => if m.fwd then .forwardedInvocationArrival else .invocationArrival
  | .resolve _ _ _ _ => .resolutionNotice
  | .locate _ _ => .locationNotice
  | .watch _ _ => .watchRequest
  | .whenAns _ _ _ => .whenNotice
  | .release _ _ => .releaseNotice
  | .resvReq _ => .reservationRequest
  | .grant _ => .reservationGrant
  | .credit _ => .creditReturn
  | .giveBack _ => .reservationRequest
  | .endNotice _ _ => .activationEndNotice
  | .contribution _ _ _ _ => .groupContribution
  | .partialUp _ _ _ _ _ _ => .groupContribution
  | .result _ _ _ _ _ _ => .groupResult
  | .closeAsk _ => .closeNotice
  | .closeAns _ => .closeAnswer

/-- Hands a packet to the network: to this chip's own, whose step then stands out, or to another chip. -/
def State.sendPacket (src dst : Nat) (b : Body) (s : State) : State :=
  let (n, s) := s.number
  let p : Packet := ⟨n, src, dst, b⟩
  if numChip dst = s.chipNo then { s with net := s.net ++ [p] }.post b.step (arg1 n)
  else { s with netOut := s.netOut ++ [p] }

/-- The packet of a number, and the network without it. -/
def State.takePacket (n : Nat) (s : State) : Option (Packet × State) :=
  match s.net.find? (fun p => p.id = n) with
  | none => none
  | some p => some (p, { s with net := s.net.filter (fun p => p.id != n) })

/-- An expanded activation's end, or its failure, goes to the launch unit that expanded it (R304). -/
def State.expEnd (c : Nat) (e : Option (Nat × Nat)) (reason : Nat) (s : State) : State :=
  match e with
  | none => s
  | some e => s.sendPacket (coreNum s.chipNo c) (e.1 / 2 ^ 40 * 2048) (.endNotice e (BitVec.ofNat 16 reason))

/-! ## Messages to the fault-handler object (R36) -/

/-- The record written where such a message cannot be delivered. -/
def State.faultRecord (part chan : Nat) (a0 a1 : Word) (s : State) : State := s.record (0xF0 + chan) part a0 a1

/-- Sends a message to a partition's fault-handler object. A cluster of no partition has no such register; its messages are written as
records too, with partition 0 (DEDUCED, log entry 63). -/
def State.tellHandler (c part chan : Nat) (a0 a1 a2 a3 : Word) (s : State) : State :=
  let h := look 0 s.chip.fhandle part
  if part = 0 ∨ h = 0 then s.faultRecord part chan a0 a1 else
  let m : Msg :=
    { target := h, reply := 0, arg0 := a0, arg1 := a1, arg2 := a2, arg3 := a3, sender := s.numOf c, seq := 0,
      channel := BitVec.ofNat 6 chan, fwd := false, kinds := 0, cap := BitVec.ofNat 14 (hCap h), payload := [],
      poisoned := false, hop := noHop, expansion := none, fault := some part }
  s.sendPacket (s.numOf c) (2 ^ 25 + h.toNat / 2 ^ 50 * 16 + wbits h 39 4) (.invoke m)

/-- The table-full notice, at most one per table in 1000 cycles (R36). -/
def State.tableNotice (c table : Nat) (a1 a2 : Word) (s : State) : State :=
  let due := match find? (s.core c).notices table with
    | none => true
    | some t => decide (t + 1000 ≤ s.cycle)
  if due then
    (s.modCore c fun k => { k with notices := put table s.cycle k.notices }).tellHandler c (s.corePart c) 2
      (w64 table) a1 a2 (w64 (s.numOf c))
  else s

/-! ## Reservations (R57) -/

/-- The cluster whose receive queue a core's messages take a place in. -/
def creditKey (num : Nat) : Nat := numChip num * 256 + numCore num / 8 % 256

def State.credit (s : State) (c key : Nat) : Credit := look Credit.none (s.core c).credits key
def State.setCredit (c key : Nat) (v : Credit) (s : State) : State :=
  s.modCore c fun k => { k with credits := put key v k.credits }

/-- Takes a block back from a core, to lend again. -/
def State.returnBlock (c key : Nat) (s : State) : State :=
  let v := s.credit c key
  (s.setCredit c key { v with blocks := v.blocks - 1, avail := v.avail - 8 }).sendPacket (s.numOf c)
    (coreNum (key / 256) (key % 256 * 8)) (.giveBack (key % 256))

/-- What a core does later when something frees. -/
def State.hold (c : Nat) (h : Held) (s : State) : State :=
  let n := (s.core c).held.length
  (s.modCore c fun k => { k with held := k.held ++ [h] }).post .tableEntryWaitRelease (arg2 c n)

/-- Whether a held thing is a reservation request for a cluster. -/
def Held.asks (h : Held) (key : Nat) : Bool := h == .ask key

/-- The target clusters a core holds blocks for or has asked. -/
def State.blockClusters (s : State) (c : Nat) : List (Nat × Credit) :=
  (s.core c).credits.filter fun e =>
    decide (0 < e.2.blocks) || (e.2.requested && !(s.core c).held.any fun h => h.asks e.1)

/-- The cluster whose blocks have all their credits home and have been idle longest. -/
def State.idleCluster (s : State) (c : Nat) : Option (Nat × Credit) :=
  ((s.blockClusters c).filter fun e => decide (0 < e.2.blocks) && decide (e.2.avail = 8 * e.2.blocks)).foldl
    (fun b e => match b with
      | none => some e
      | some b => if e.2.last < b.2.last then some e else some b) none

/-- Sends the request for a block; for a 65th cluster the blocks idle longest go back first, and while none is idle the request
waits: none. -/
def State.sendAsk (c key : Nat) (s : State) : Option State :=
  let ask := fun (s : State) => s.sendPacket (s.numOf c) (coreNum (key / 256) (key % 256 * 8)) (.resvReq (key % 256))
  let others := (s.blockClusters c).filter fun e => e.1 ≠ key
  if others.length < 64 ∨ 0 < (s.credit c key).blocks then some (ask s)
  else (s.idleCluster c).map fun e => ask ((List.range e.2.blocks).foldl (fun s _ => s.returnBlock c e.1) s)

/-- Asks for a block of credits, once until it is granted (R57). -/
def State.askBlock (c key : Nat) (s : State) : State :=
  let v := s.credit c key
  if v.requested then s else
  let s := s.setCredit c key { v with requested := true }
  match s.sendAsk c key with
  | some s => s
  | none => s.hold c (.ask key)

/-- Spends a credit, asking for a new block when the last is gone; none when there is none. -/
def State.spend (c key : Nat) (s : State) : Option State :=
  let v := s.credit c key
  if v.avail = 0 then none else
  let s := s.setCredit c key { v with avail := v.avail - 1, last := s.cycle }
  some (if v.avail = 1 then s.askBlock c key else s)

/-- A message's receive-queue place frees, and its credit goes back to the core it came from (R57). -/
def State.creditBack (c : Nat) (m : Msg) (s : State) : State :=
  if m.hop = noHop then s else s.sendPacket (s.numOf c) m.hop (.credit (clusterOf c))

/-- A place taken in, or given back to, the receive queue of a core's cluster. -/
def State.usePlace (c : Nat) (s : State) : State := s.modCluster (domainOf c) fun k => { k with used := k.used + 1 }
def State.freePlace (c : Nat) (m : Msg) (s : State) : State :=
  (s.modCluster (domainOf c) fun k => { k with used := k.used - 1 }).creditBack c m

/-- Whether messages that were queued on a key's entry of core `c` still wait to be handed to the network. -/
def State.forwarding (s : State) (c : Nat) (key : Word) : Bool :=
  (s.core c).held.any fun h => match h with
    | .forward m _ _ => m.fwd && keyEq m.target key
    | _ => false

/-- Hands a message on to another core on this core's own credit. One that has to wait for a grant stays in a cell of the queue-record
pool (R58), and so does one behind older messages of its promise that wait (R49); none where the pool is full. -/
def State.forward (c : Nat) (m : Msg) (dst : Nat) (s : State) : Option State :=
  match if m.fwd && s.forwarding c m.target then none else s.spend c (creditKey dst) with
  | some s => some (s.sendPacket (s.numOf c) dst (.invoke { m with hop := s.numOf c }))
  | none => (s.newCell c ⟨some m, none, 0⟩).map fun x => (x.2.askBlock c (creditKey dst)).hold c (.forward m dst x.1)

/-- As `forward`, for a message that lies in cell `n` already. -/
def State.forwardCell (c n : Nat) (m : Msg) (dst : Nat) (s : State) : State :=
  match if m.fwd && s.forwarding c m.target then none else s.spend c (creditKey dst) with
  | some s => (s.freeCell c n).sendPacket (s.numOf c) dst (.invoke { m with hop := s.numOf c })
  | none => ((s.modCore c fun k => { k with cells := put n ⟨some m, none, 0⟩ k.cells }).askBlock c (creditKey dst)).hold c (.forward m dst n)

/-! ## Resolution (R46, R47, R54 to R56) -/

def Resol.brk (reason : Nat) (origin : Word) (cause : Nat) : Resol :=
  ⟨true, origin, BitVec.ofNat 16 reason, BitVec.ofNat 8 cause, 0, 0, 0, 0, none⟩
def Resol.val (h : Word) : Resol := ⟨false, h, 0, 0, 0, 0, 0, 0, none⟩

/-- The cause carried by a dependant broken from a broken handle alone (R46). -/
def State.causeOf (s : State) (c : Nat) (h : Word) : Nat := if s.namesEntry c h then (s.entry c (hIdx h)).cause else 0

/-- The origin of what depends on a broken handle: the first failure's, where the entry that records it lies on core `c` (R46, R54). -/
def State.originOf (s : State) (c : Nat) (h : Word) : Word :=
  if s.namesEntry c h ∧ (s.entry c (hIdx h)).st = 3 then (s.entry c (hIdx h)).w1 else h

/-- Whether the head of an object's queue is runnable (R19). -/
def State.headRunnable (s : State) (c i : Nat) (it : QItem) : Bool :=
  let k := s.core c
  let e := s.entry c i
  let chan := match it.body with
    | .msg m _ => m.channel.toNat
    | .whenRes ch _ _ => ch.toNat
    | _ => 0
  let cell := match it.body with
    | .msg m cell => m.payload.isEmpty || cell.isSome
    | _ => true
  !((s.activeSlots c).any fun sl => (s.slot sl).act.obj = i) && cell &&
  !(look Handler.reset k.handlers (64 * e.cls + chan)).mask

/-- Sets the cycle from which each object head, and each anonymous one, has been runnable (R21, R30). -/
def State.refreshHeads (c : Nat) (s : State) : State :=
  let fix := fun (i : Nat) (q : List QItem) => match q with
    | [] => []
    | it :: r => (if s.headRunnable c i it then { it with since := some (it.since.getD s.cycle) } else { it with since := none }) :: r
  s.modCore c fun k =>
    { k with queues := (k.queues.map fun e => (e.1, fix e.1 e.2)).filter (fun e => !e.2.isEmpty),
             anon := k.anon.map fun it => { it with since := some (it.since.getD s.cycle) } }

/-- Something may now be admitted on a core. -/
def State.stir (c : Nat) (s : State) : State := (s.refreshHeads c).post .activationAdmission (arg1 c)

/-- Joins an item to the tail of an object's queue (R19). -/
def State.joinQueue (c i : Nat) (it : QItem) (s : State) : State :=
  (s.modCore c fun k => { k with queues := put i (look [] k.queues i ++ [it]) k.queues }).stir c

/-- Joins an item to the anonymous queue (R30). -/
def State.joinAnon (c : Nat) (it : QItem) (s : State) : State :=
  (s.modCore c fun k => { k with anon := k.anon ++ [it] }).stir c

/-- Sends one notice of a resolved key, behind the messages that were queued on it (R47). -/
def State.sendNotice (c : Nat) (key : Word) (dst : Nat) (r : Resol) (hop loc : Nat) (s : State) : State :=
  if s.forwarding c key then s.hold c (.notice key dst r hop loc) else s.sendPacket (s.numOf c) dst (.resolve key r hop loc)

/-- Sends the notices of a resolved key to its home and, where it is another core, to LOC (R47). -/
def State.sendNotices (c : Nat) (key : Word) (r : Resol) (loc : Nat) (s : State) : State :=
  let s := s.sendNotice c key (hNum key) r 1 0
  if loc ≠ hNum key then s.sendNotice c key loc r 2 0 else s

/-- Whether a held message waits at entry `i` of core `c`: it names the entry, or its promise is keyed to it or resolved to it. -/
def State.heldFor (s : State) (c i : Nat) (m : Msg) : Bool :=
  if m.fwd then match s.keyedIndex c m.target with
    | none => false
    | some j => decide (j = i) || (decide ((s.entry c j).st = 2) && decide (hNum (s.entry c j).w1 = s.numOf c % 2 ^ 25) && decide (hIdx (s.entry c j).w1 = i))
  else decide (hIdx m.target = i) && decide (hNum m.target = s.numOf c % 2 ^ 25)

/-- The origin of a reply that is the first to break: its own key with kind 1 (R54). -/
def ownOrigin (reply : Word) : Word := hWithKind reply 1

/-- What the reply of message `m` breaks with. -/
def Msg.breaks (m : Msg) (reason : Nat) (origin : Word) (cause : Nat) : Resol :=
  { Resol.brk reason origin cause with stale := if reason = rSTALE then some (m.sender, m.target) else none }

/-- Frees an entry (R42): its cells and receive pairs with it; messages held for it break STALE (R52), as soon as the core comes to it. -/
def State.freeEntry (c i : Nat) (s : State) : State :=
  let e := s.entry c i
  let mine := (s.core c).reorder.filter (s.heldFor c i)
  let s := s.modCore c fun k => { k with reorder := k.reorder.filter fun m => !mine.contains m, dataDue := k.dataDue.filter (· ≠ i), keyless := k.keyless.filter (· ≠ i) }
  let s := s.freeRecv c e
  let s := if e.st = 1 then (s.watching c e).foldl (fun (s : State) q => s.freeCell c q.1) s else s
  let s := s.setEntry c i e.freed
  mine.foldl (fun (s : State) (m : Msg) =>
    ((s.freePlace c m).expEnd c m.expansion rSTALE).hold c (.brk m.reply m.sender (m.breaks rSTALE (ownOrigin m.reply) 0))) s

/-- Stores a datum's four words in an entry. -/
def HEntry.withDatum (e : HEntry) (r : Resol) : HEntry := { e with w4 := r.d0, w5 := r.d1, w6 := r.d2, w7 := r.d3 }

/-- A local promise resolved to a datum of another core, whose bytes a notice is still to bring: its registrations stay (R47, R54). -/
def HEntry.resolvedAway (e : HEntry) (h : Word) : HEntry := { e.set0 0 2 2 with w1 := h, w4 := 0, w5 := 0 }

/-- An entry as it stands once resolved to `r`. -/
def HEntry.resolved (e : HEntry) (r : Resol) : HEntry :=
  if r.broken then
    { ((e.set0 0 2 3).set0 19 1 0).set3 0 24 (r.reason.toNat + r.cause.toNat * 2 ^ 16) with w1 := r.handle, w4 := 0, w5 := 0, w6 := 0 }
  else { ((e.set0 0 2 2).set0 19 1 0).withDatum r with w1 := r.handle }

/-- Messages in the reorder area that wait for a key come up again (R45). -/
def State.recheck (c : Nat) (key : Word) (s : State) : State :=
  let mine := (s.core c).reorder.filter fun m => m.fwd && keyEq m.target key
  let s := s.modCore c fun k => { k with reorder := k.reorder.filter fun m => !(m.fwd && keyEq m.target key) }
  mine.foldl (fun (s : State) (m : Msg) => (s.modCluster (domainOf c) fun k => { k with used := k.used - 1 }).sendPacket m.hop (s.numOf c) (.invoke m)) s

/-- Whether entry `i` of core `c` still stands in generation `gen`. -/
def State.stands (s : State) (c i gen : Nat) : Bool := decide ((s.entry c i).st ≠ 0) && decide ((s.entry c i).gen = gen)

/-- Queues a `when` activation on an object of core `c` (R55), which must still stand in the generation that registered; `sender` is the core
that produced the notice. -/
def State.fireWhen (c obj gen : Nat) (ch : BitVec 6) (h : Word) (r : Resol) (sender : Nat) (s : State) : State :=
  if s.stands c obj gen then s.joinQueue c obj ⟨.whenRes ch h r, sender, none⟩ else s

/-- Whether entry `i` of core `c` is a local promise: an answer whose key is its own handle (R106). -/
def State.isLocalPromise (s : State) (c i : Nat) : Bool :=
  let e := s.entry c i
  decide (e.role = 2) && decide (hNum e.w2 = s.numOf c % 2 ^ 25) && decide (hIdx e.w2 = i) && decide (hGen e.w2 = e.gen) && decide (e.w2 ≠ 0)

/-- Frees the cells of queued invocations or registrations. -/
def State.freeCells (c : Nat) (l : List Nat) (s : State) : State := l.foldl (fun s n => s.freeCell c n) s

/-- The answer entry of a message that core `c` sends on to `dst` is moved there too (R47), and what is queued on it follows
(DEDUCED, log entry 20). -/
def State.moveAnswer (c dst : Nat) : Nat → Word → State → State
  | 0, _, s => s
  | f + 1, reply, s =>
    if reply = 0 then s else
    match s.keyedIndex c reply with
    | none => s
    | some j =>
      let e := s.entry c j
      if e.st ≠ 1 then s else
      let q := s.queued c e
      let s := s.setEntry c j { (e.set0 20 1 1).set0 23 25 dst with w4 := 0, w5 := 0 }
      q.foldl (fun s x => State.moveAnswer c dst f x.2.reply (s.forwardCell c x.1 { x.2 with target := e.w2, fwd := true } dst)) s

/-- Whether entry `i`, of handle `h`, is resolved to the datum it holds itself. -/
def HEntry.ownDatum (e : HEntry) (h : Word) : Bool := decide (e.st = 2) && decide (hKind e.w1 = 2) && keyEq e.w1 h

/-- A promise home or a local promise that no longer is pending is let go (R56, R107): a local promise that is its own datum
loses only its key; any other entry is freed, and release notices leave. -/
def State.dropPromise (c i : Nat) (s : State) : State :=
  let e := s.entry c i
  let key := s.handleOf c i 1
  let here := s.numOf c
  let own := decide (e.role ≠ 1)
  if own && e.ownDatum key then s.setEntry c i { e.set0 22 1 0 with w2 := 0 }
  else
    let s := s.freeEntry c i
    let s := if own then s else s.sendPacket here e.loc (.release key false)
    if e.st = 2 ∧ hNum e.w1 ≠ e.loc then s.sendPacket here (hNum e.w1) (.release key false) else s

/-- A resolution to a datum that lies on core `c`, with its 32 bytes. -/
def State.withBytes (s : State) (c : Nat) (r : Resol) : Resol :=
  if !r.broken && decide (hKind r.handle = 2) && s.namesEntry c r.handle then
    let e := s.entry c (hIdx r.handle)
    if e.ownDatum r.handle then { r with d0 := e.w4, d1 := e.w5, d2 := e.w6, d3 := e.w7 } else r
  else r

mutual
/-- Answer or alias entry `i` of core `c` resolves to `r` (R47), by a notice of core `src` or, where that is its own, locally (R20); `tell`: its
notices leave. `fuel` bounds the chain of replies that break with it. -/
def State.resolveEntry (c : Nat) (fuel : Nat) (i : Nat) (r : Resol) (tell : Bool) (src : Nat) (s : State) : State :=
  match fuel with
  | 0 => s
  | fuel + 1 =>
    let e := s.entry c i
    let q := s.queued c e
    let w := s.watching c e
    let own := s.isLocalPromise c i
    let here := s.numOf c
    let away := !r.broken && decide (hNum r.handle ≠ here % 2 ^ 25)
    let due := own && away && decide (hKind r.handle = 2)
    let s := if due then (s.setEntry c i (e.resolvedAway r.handle)).modCore c fun k => { k with dataDue := i :: k.dataDue }
      else (s.freeCells c (w.map (·.1))).setEntry c i (e.resolved r)
    let s := if r.broken then
        State.breakAll c fuel (q.map fun x => x.2.reply) (Resol.brk rDEPENDENCY r.handle r.cause.toNat) src
          (q.foldl (fun s x => s.expEnd c x.2.expansion rDEPENDENCY) (s.freeCells c (q.map (·.1))))
      else
        q.foldl (fun s x =>
          let s := s.forwardCell c x.1 { x.2 with target := e.w2, fwd := true } (hNum r.handle)
          if away then s.moveAnswer c (hNum r.handle) 4096 x.2.reply else s) s
    let s := if due then s else State.fireAll c fuel (w.map (·.2)) e.w2 r src s
    let s := if !tell then s
      else if away then s.sendNotice c e.w2 (hNum r.handle) r 0 e.loc
      else if own then s
      else s.sendNotices c e.w2 r e.loc
    if own && e.dropped && !due then s.dropPromise c i else s
termination_by structural fuel

/-- Breaks replies whose answer entries lie on core `c`. -/
def State.breakAll (c : Nat) (fuel : Nat) (l : List Word) (r : Resol) (src : Nat) (s : State) : State :=
  match fuel with
  | 0 => s
  | fuel + 1 => l.foldl (fun s reply => if reply = 0 then s else
      match s.keyedIndex c reply with
      | none => s
      | some j => if (s.entry c j).st = 1 then s.resolveEntry c fuel j r true src else s) s
termination_by structural fuel

/-- Answers registrations on a handle with its resolution (R55, R104), which core `src` brought (R20); one that is broken is shown as the
handle with kind 3. An answer entry that is no longer the one that waits gets nothing. -/
def State.fireAll (c : Nat) (fuel : Nat) (l : List Watcher) (h : Word) (r : Resol) (src : Nat) (s : State) : State :=
  match fuel with
  | 0 => s
  | fuel + 1 => l.foldl (fun s w =>
      let home := match w with
        | .object n _ _ _ => n
        | .entry n _ _ => n
      let shown := if r.broken then hWithKind h 3 else r.handle
      if home = s.numOf c then
        match w with
        | .object _ obj gen ch => s.fireWhen c obj gen ch shown r src
        | .entry _ i gen => if s.stands c i gen && decide ((s.entry c i).st = 1) then
            s.resolveEntry c fuel i (if r.broken then Resol.brk rDEPENDENCY r.handle r.cause.toNat else r) true src else s
      else s.sendPacket (s.numOf c) home (.whenAns w shown r)) s
termination_by structural fuel
end

/-- Depth to which replies that resolve or break together are followed: two for each entry of a handle table, and two more. -/
def chainFuel : Nat := 8194

/-- The sender of a message that broke STALE frees the message's send pair (R50). -/
def State.freeStale (c : Nat) (r : Resol) (s : State) : State :=
  match r.stale with
  | some (n, t) => if n = s.numOf c then s.freeSend c t else s
  | none => s

/-- As `freeStale`, where no notice of the break goes to the sender: one goes there for the pair alone (DEDUCED, log entry 86). -/
def State.tellStale (c : Nat) (r : Resol) (s : State) : State :=
  match r.stale with
  | some (n, _) => if n = s.numOf c then s.freeStale c r else s.sendPacket (s.numOf c) n (.resolve 0 r 2 0)
  | none => s

/-- Breaks a reply at core `c` (R44) with `r`: its answer entry there breaks, or one is allocated broken; none when no entry is free. -/
def State.breakReply (c : Nat) (reply : Word) (loc : Nat) (r : Resol) (s : State) : Option State :=
  if reply = 0 then some (s.tellStale c r) else
  match s.keyedIndex c reply with
  | some j => some ((if (s.entry c j).st = 1 then s.resolveEntry c chainFuel j { r with stale := none } true (s.numOf c) else s).tellStale c r)
  | none => (s.freeIndex c).map fun i =>
      (((s.setEntry c i (((s.entry c i).mk' 2 loc reply).resolved r)).recheck c reply).sendNotices c reply r loc).freeStale c r

/-- A break that waits for an entry where none is free (R44); `target` is the handle its table-full notice carries. -/
def State.breakOrHold (c : Nat) (target reply : Word) (loc : Nat) (r : Resol) (s : State) : State :=
  match s.breakReply c reply loc r with
  | some s => s
  | none => (s.tableNotice c 1 target reply).hold c (.brk reply loc r)

/-- A message that core `c` does not take: its reply breaks and its credit goes back; a message to a fault-handler object becomes a
record (R36). None when no entry is free. -/
def State.failMsg (c : Nat) (m : Msg) (reason : Nat) (origin : Word) (cause : Nat) (s : State) : Option State :=
  match m.fault with
  | some p => some (s.faultRecord p m.channel.toNat m.arg0 m.arg1)
  | none => (s.breakReply c m.reply m.sender (m.breaks reason origin cause)).map fun s => (s.creditBack c m).expEnd c m.expansion reason

/-! ## Routing (R43) -/

inductive Route where
  | go (num : Nat) (fwd : Bool)
  | broken (reason : Nat) (origin : Option Word) (cause : Nat)
deriving DecidableEq, Repr

/-- Where an invocation of `t` goes, as core `c` sees it. -/
def State.route (s : State) (c : Nat) (t : Word) : Route :=
  match hKind t with
  | 1 =>
    if hNum t = s.numOf c % 2 ^ 25 then
      let e := s.entry c (hIdx t)
      if hIdx t = 0 ∨ e.st = 0 ∨ e.gen ≠ hGen t then .broken rSTALE none 0
      else if e.st = 1 then .go e.loc true
      else if e.st = 2 then .go (if e.role = 0 then hNum t else hNum e.w1) true
      else .broken rDEPENDENCY (some e.w1) e.cause
    else .go (hNum t) false
  | 3 => .broken rDEPENDENCY (some t) (s.causeOf c t)
  | _ => .go (hNum t) false

/-- Puts a message before the first of the same sender that has a later number. -/
def insertSeq (m : Msg) : List Msg → List Msg
  | [] => [m]
  | x :: l => if x.sender = m.sender ∧ (m.seq - x.seq).getLsbD 15 then m :: x :: l else x :: insertSeq m l

/-- Messages with those of each sender in sequence order. -/
def seqOrder (l : List Msg) : List Msg := l.foldl (fun r m => insertSeq m r) []

/-- The messages a home holds on its own promise. -/
def State.heldOn (s : State) (c : Nat) (key : Word) : List Msg :=
  (s.core c).reorder.filter fun m => m.fwd && keyEq m.target key

/-- One of those goes on as R43 routes it; none while no cell is free for it. -/
def State.passOne (c : Nat) (m : Msg) (s : State) : Option State :=
  let s := s.modCore c fun k => { k with reorder := k.reorder.erase m }
  match s.route c m.target with
  | .go num fwd => (s.forward c { m with fwd := fwd } num).map fun s => s.freePlace c m
  | .broken reason origin cause =>
    some (((s.freePlace c m).expEnd c m.expansion reason).breakOrHold c m.target m.reply m.sender
      (m.breaks reason (origin.getD (ownOrigin m.reply)) cause))

/-- The messages a home holds on its own promise go on in sequence order, once it is located or resolved (R102). -/
def State.passSome (c : Nat) (key : Word) (s : State) : State :=
  (seqOrder (s.heldOn c key)).foldl (fun (s : State) m => (s.passOne c m).getD s) s

/-- As `passSome`; what does not find a cell waits. -/
def State.passHeld (c : Nat) (key : Word) (s : State) : State :=
  let s := s.passSome c key
  if (s.heldOn c key).isEmpty then s else s.hold c (.pass key)

/-- The home entry of a promise resolves by a notice of core `src`, which LOC then names where the promise was unlocated (DEDUCED, log
entry 64); a local promise gets the bytes of a datum that lies elsewhere (R47, R54, R56, R102). -/
def State.resolveHome (c : Nat) (key : Word) (r : Resol) (src : Nat) (s : State) : State :=
  let i := hIdx key
  let e := s.entry c i
  let w := s.watching c e
  let finish := fun (e' : HEntry) (s : State) =>
    let s := (s.freeCells c (w.map (·.1))).setEntry c i e'
    let s := s.fireAll c chainFuel (w.map (·.2)) key r src
    let s := s.passHeld c key
    if e.dropped then s.dropPromise c i else s
  if !s.namesEntry c key then s
  else if e.role = 1 ∧ e.st = 1 then
    finish (if e.loc ≠ s.numOf c % 2 ^ 25 then e.resolved r else (e.resolved r).set0 23 25 src) s
  else if (s.core c).dataDue.contains i then
    finish (e.resolved r) (s.modCore c fun k => { k with dataDue := k.dataDue.filter (· ≠ i) })
  else s

/-! ## Delivery (R17, R44, R45, R52)

An answer of `Except.error t` is a refusal for want: 1 a handle-table entry, 3 a receive pair, 4 a queue-record cell, 0 a
place in the reorder area. -/

/-- The answer entry of an accepted message (R44), and the location notice of R102. A message on a promise carries no mark of whether the
reply's home is located: the notice goes for every one whose reply's home is its sender, and one that is located takes nothing from it. Where
the reply keys an entry here already, as when `invp` brings a chain back, no second one is made, and it keeps its LOC (both DEDUCED, log
entry 87). -/
def State.acceptReply (c : Nat) (m : Msg) (s : State) : Except Nat State :=
  if m.reply = 0 then .ok s else
  let tell := fun (s : State) =>
    if hKind m.target = 1 ∧ hNum m.reply = m.sender then
      s.sendPacket (s.numOf c) (hNum m.reply) (.locate m.reply (s.numOf c)) else s
  match s.keyedIndex c m.reply with
  | some j => .ok (tell (s.setEntry c j ((s.entry c j).set0 20 1 0)))
  | none =>
    match s.freeIndex c with
    | none => .error 1
    | some i => .ok (tell ((s.setEntry c i ((s.entry c i).mk' 2 m.sender m.reply)).recheck c m.reply))

/-- The message's argument `i`. -/
def Msg.arg (m : Msg) (i : Nat) : Word := match i with
  | 0 => m.arg0
  | 1 => m.arg1
  | 2 => m.arg2
  | _ => m.arg3
def Msg.kind (m : Msg) (i : Nat) : Nat := m.kinds.toNat / 4 ^ i % 4

/-- The origin and cause of an argument that is a handle known broken at core `c` (R17). -/
def State.brokenArg (s : State) (c : Nat) (h : Word) : Option (Word × Nat) :=
  if hKind h = 3 then some (s.originOf c h, s.causeOf c h)
  else if hKind h ≠ 1 then none
  else if s.namesEntry c h ∧ (s.entry c (hIdx h)).st = 3 then some ((s.entry c (hIdx h)).w1, (s.entry c (hIdx h)).cause)
  else match s.keyedIndex c h with
    | none => none
    | some j => if (s.entry c j).st = 3 then some ((s.entry c j).w1, (s.entry c j).cause) else none

/-- Cells of an inbox region that an activation or a queued message of core `c` holds, by offset. -/
def State.cellsHeld (s : State) (c : Nat) : List Nat :=
  ((s.activeSlots c).filterMap fun k => (s.slot k).act.cell) ++
  (s.saved.flatMap fun v => (v.2.slots.filter fun e => decide (coreOf e.1 = c) && e.2.active).filterMap fun e => e.2.act.cell) ++
  (s.core c).queues.flatMap fun e => e.2.filterMap fun it => match it.body with
    | .msg _ cell => cell
    | _ => none

/-- The lowest free 256-byte cell of a class's inbox region (R18). -/
def State.freeInbox (s : State) (c cls : Nat) : Option Nat :=
  let r := look Region.reset (s.core c).regions (look ClassD.reset (s.core c).classes cls).inbox.toNat
  let used := s.cellsHeld c
  ((List.range (r.size.toNat / 256)).map fun i => r.base.toNat + 256 * i).find? fun o => !used.contains o

/-- Whether a queued message has a payload and no cell yet. -/
def QItem.needsCell (it : QItem) : Bool := match it.body with
  | .msg m none => !m.payload.isEmpty
  | _ => false

/-- Whether a message of core `c` already waits for a cell of the inbox region that class `cls` uses: a later one takes none before it (R18,
R37). -/
def State.cellAwaited (s : State) (c cls : Nat) : Bool :=
  let cd := fun (n : Nat) => look ClassD.reset (s.core c).classes n
  (s.core c).queues.any fun e =>
    let d := cd (s.entry c e.1).cls
    e.2.any QItem.needsCell && d.inboxen && decide (d.inbox = (cd cls).inbox)

/-- Writes bytes line by line from a place in a cluster's SRAM on, in the save area where the cluster's SRAM is moved out (R243); `n` bounds
the lines. -/
def State.depositAt (k : Nat) : Nat → Nat → List Byte → State → State
  | 0, _, _, s => s
  | _, _, [], s => s
  | n + 1, off, l, s =>
    let m := 64 - off % 64
    State.depositAt k n (off + m) (l.drop m) (s.engineWrite (s.landHome (.sram k off)) (l.take m) false)

/-- Deposits a payload in a cell (R18, R131: placed by the cluster itself, not checked). A bank that is no scratchpad takes nothing: the bytes
are dropped (R133; DESIGN CHOICE, log entry 73). -/
def State.deposit (c cell : Nat) (l : List Byte) (s : State) : State :=
  if l.isEmpty || !s.scratchRole (clusterOf c) cell l.length then s else s.depositAt (clusterOf c) (l.length + 1) cell l

/-- The fate of a message that has passed its sequence check at final target `i` (R17). A poisoned payload breaks its reply after the
rows for handler and inbox and before that for a broken argument (DESIGN CHOICE, log entry 60). -/
def State.deliver (c i : Nat) (m : Msg) (s : State) : Except Nat State :=
  let k := s.core c
  let e := s.entry c i
  let cd := look ClassD.reset k.classes e.cls
  let h := look Handler.reset k.handlers (64 * e.cls + m.channel.toNat)
  let stop := fun (reason : Nat) (origin : Word) (cause : Nat) =>
    match s.failMsg c m reason origin cause with
    | some s => Except.ok s
    | none => .error 1
  let own := ownOrigin m.reply
  let bad := (List.range 4).findSome? fun j => if m.kind j = 1 then s.brokenArg c (m.arg j) else none
  if k.quar then stop rCHECKER own cCHECKER
  else if !cd.valid || !h.valid || (decide (e.role = 0) == cd.datum) then stop rNOHANDLER own 0
  else if !m.payload.isEmpty && !cd.inboxen then stop rNOINBOX own 0
  else if m.poisoned then stop rPOISON own 0
  else match bad with
    | some (o, ca) => stop rDEPENDENCY o ca
    | none =>
      match s.acceptReply c m with
      | .error t => .error t
      | .ok s =>
        let s := s.usePlace c
        if m.payload.isEmpty then .ok (s.joinQueue c i ⟨.msg m none, m.sender, none⟩)
        else match if s.cellAwaited c e.cls then none else s.freeInbox c e.cls with
          | some cell => .ok ((s.deposit c cell m.payload).joinQueue c i ⟨.msg m (some cell), m.sender, none⟩)
          | none => .ok ((s.joinQueue c i ⟨.msg m none, m.sender, none⟩).post .inboxCellAssignment (arg2 c i))

/-- Held messages of a pair that now match are delivered in turn (R52); one that finds no entry waits for it (R44). -/
def State.deliverHeld (c i keyh sender : Nat) : Nat → State → State
  | 0, s => s
  | f + 1, s =>
    match (s.recvList c 65536 (s.entry c i).seqlist).find? (fun p => p.2.keyh.toNat = keyh && p.2.peer = sender % 2 ^ 25) with
    | none => s
    | some (n, p) =>
      match (s.core c).reorder.find? (fun m => decide (hKey m.target = keyh) && decide (m.sender = sender) && decide (m.seq = p.num)) with
      | none => s
      | some m =>
        let s' := (s.modCore c fun k => { k with reorder := k.reorder.erase m }).setPair c true n { p with num := p.num + 1 }
        let s' := s'.modCluster (domainOf c) fun k => { k with used := k.used - 1 }
        match s'.deliver c i m with
        | .ok s => s.deliverHeld c i keyh sender f
        | .error t =>
          let s := s.tableNotice c t m.target m.reply
          if (s.core c).held.contains (.pair i keyh sender) then s else s.hold c (.pair i keyh sender)

/-- A message at its final target, entry `i` of core `c`, whose generation must be `gen` (R50, R52). -/
def State.atTarget (c i gen : Nat) (m : Msg) (s : State) : Except Nat State :=
  let e := s.entry c i
  let stop := fun (s : State) (reason : Nat) =>
    match s.failMsg c m reason (ownOrigin m.reply) 0 with
    | some s => Except.ok s
    | none => .error 1
  if e.st = 0 ∨ e.gen ≠ gen then stop s rSTALE
  else if isSup c then s.deliver c i m
  else match s.recvPair c i m.sender (hKey m.target) with
    | none => .error 3
    | some (n, p, s) =>
      let d := (m.seq - p.num).toNat
      if d = 0 then
        match (s.setPair c true n { p with num := p.num + 1 }).deliver c i m with
        | .error t => .error t
        | .ok s => .ok (s.deliverHeld c i (hKey m.target) m.sender 64)
      else if d < 32768 then
        if (s.core c).reorder.length < 64 then
          .ok ((s.modCore c fun k => { k with reorder := k.reorder ++ [m] }).usePlace c)
        else .error 0
      else stop s rSEQUENCE

/-- Core `c` passes a message on, and the credit it came on goes back (R58); refused while no cell is free for its wait. -/
def State.passOn (c : Nat) (m : Msg) (fwd : Bool) (num : Nat) (s : State) : Except Nat State :=
  match s.forward c { m with fwd := fwd } num with
  | some s => .ok (s.creditBack c m)
  | none => .error 4

/-- A message with channel bit 6 set, looked up by its target (R45). -/
def State.atForward (c : Nat) (m : Msg) (s : State) : Except Nat State :=
  match s.keyedIndex c m.target with
  | none =>
    if (s.core c).reorder.length < 64 then
      .ok ((s.modCore c fun k => { k with reorder := k.reorder ++ [m] }).usePlace c)
    else .error 0
  | some j =>
    let e := s.entry c j
    if e.st = 1 then
      if e.moved then s.passOn c m m.fwd e.loc
      else match s.acceptReply c m with
        | .error t => .error t
        | .ok s' =>
          match s'.enqueue c j m with
          | none => .error 4
          | some s' => .ok (s'.creditBack c m)
    else if e.st = 2 then
      if hNum e.w1 = s.numOf c % 2 ^ 25 then s.atTarget c (hIdx e.w1) (hGen e.w1) m
      else s.passOn c m m.fwd (hNum e.w1)
    else match s.failMsg c m rDEPENDENCY e.w1 e.cause with
      | some s => .ok s
      | none => .error 1

/-- An invocation that reaches core `c` (R16, R43, R45, R110). -/
def State.arrive (c : Nat) (m : Msg) (s : State) : Except Nat State :=
  if !isSup c ∧ m.fault.isNone ∧ m.cap ≠ s.partKey c then
    let s := s.record cCAPABILITY (m.channel.toNat + m.sender % 2 ^ 25 * 2 ^ 16) m.target m.reply
    match s.failMsg c m rCAPABILITY (ownOrigin m.reply) 0 with
    | some s => .ok s
    | none => .error 1
  else if m.fwd then s.atForward c m
  else if hIdx m.target = 0 then
    if (s.core c).quar then .ok ((s.creditBack c m).expEnd c m.expansion rCHECKER)
    else .ok ((s.usePlace c).joinAnon c ⟨.anon (m.reply.setWidth 48) m.arg0 m.arg1 m.arg2 m.arg3 m.expansion, m.sender, none⟩)
  else if hKind m.target = 1 ∧ !isSup c then
    match s.route c m.target with
    | .go num fwd => s.passOn c m fwd num
    | .broken reason origin cause =>
      match s.failMsg c m reason (origin.getD (ownOrigin m.reply)) cause with
      | some s => .ok s
      | none => .error 1
  else s.atTarget c (hIdx m.target) (hGen m.target) m

end Sys2Proof.Machine
end

