-- ==== Sys2Proof/Machine/Groups.lean ====
section
/-! DEFINITION. Groups and reductions at the chip's Wyvik switch: membership, instances, the fixed fold order, results (R32, R33, R117, R324 to R330, R362 to R367), and the events bound to them (R312). -/

namespace Sys2Proof.Machine

def State.group (s : State) (g : Nat) : Group := look Group.reset s.fabric.groups g
def State.modGroup (g : Nat) (f : Group → Group) (s : State) : State :=
  s.modFabric fun fb => { fb with groups := put g (f (look Group.reset fb.groups g)) fb.groups }

/-- Whether group `g` lies in the range of the slot's partition (R32). -/
def State.groupInRange (s : State) (c g : Nat) : Bool :=
  let p := s.corePart c
  let d := s.part p
  decide (p ≠ 0) && decide (d.gbase.toNat ≤ g) && decide (g < d.gbase.toNat + d.gcount.toNat)

/-- Whether a member record is that of slot `k`'s activation (R32): its object, or core and slot for an anonymous one. -/
def Member.isOf (m : Member) (s : State) (k : Nat) : Bool :=
  let a := (s.slot k).act
  decide (m.core = coreOf k) && (if a.obj = 0 then m.anon && decide (m.idx = k % 8) else !m.anon && decide (m.idx = a.obj))

def State.member (s : State) (k g : Nat) : Option Member := s.fabric.members.find? fun m => decide (m.group = g) && m.isOf s k

/-- A member's place in the fold order (R365). Child ports come after every member. -/
def Member.order (m : Member) : Nat := (m.core * 2 + (if m.anon then 1 else 0)) * 4096 + m.idx
def portOrder (p : Nat) : Nat := 2 ^ 40 + p

/-- What an instance expects at this switch as it opens (R362). -/
def State.expected (s : State) (g : Nat) : List Nat :=
  (s.fabric.members.filter fun m => m.group = g).map Member.order ++
  ((List.range 8).filter fun p => (s.group g).children.getLsbD p).map portOrder

/-- The value bits of an operator (R364). -/
def opBits (op : Nat) : Nat := if op = 1 then 16 else if op = 2 ∨ op = 5 ∨ op = 6 ∨ op = 9 ∨ op = 10 then 64 else 32

/-- Whether a contribution counts as a NaN (R365). -/
def opNan (op : Nat) (v : Word) : Bool :=
  match op with
  | 0 => (Fmt.f32.decode (wbits v 0 32)).isNan
  | 1 => (Fmt.bf16.decode (wbits v 0 16)).isNan
  | 3 => (Fmt.f32.decode (wbits v 0 32)).isNan
  | 4 => (Fmt.f32.decode (wbits v 0 32)).isNan
  | 7 => (Fmt.f32.decode (wbits v 0 32)).isNan
  | 8 => (Fmt.f32.decode (wbits v 0 32)).isNan
  | _ => false

/-- What a single contribution puts into the fold: under OP 7 and 8 its magnitude, a NaN giving +0 (R328). -/
def opFirst (op : Nat) (v : Word) : Word :=
  match op with
  | 1 => w64 (wbits v 0 16)
  | 7 => if opNan 7 v then 0 else w64 (wbits v 0 31)
  | 8 => if opNan 8 v then 0 else w64 (wbits v 0 31)
  | _ => w64 (wbits v 0 (opBits op))

/-- Folds a later value into the running one (R365). -/
def opFold (op : Nat) (r v : Word) : Word :=
  match op with
  | 0 => w64 (Fmt.f32.fadd mRNE r.toNat v.toNat).1
  | 1 => w64 (Fmt.bf16.fadd mRNE r.toNat v.toNat).1
  | 2 => r + v
  | 3 => w64 (Fmt.f32.pick false r.toNat v.toNat).1
  | 4 => w64 (Fmt.f32.pick true r.toNat v.toNat).1
  | 5 => if sgn v < sgn r then v else r
  | 6 => if sgn r < sgn v then v else r
  | 7 => if r.toNat < v.toNat then v else r
  | 8 => if r.toNat < v.toNat then v else r
  | 9 => r &&& v
  | _ => r ||| v

/-- The partial of a slot: value, count and NaN count, folded in order, absent values skipped (R33, R365). -/
def RSlot.fold (op : Nat) (r : RSlot) : Word × Nat × Nat :=
  let l := (r.got.map fun e => e.2).filter fun e => e.2.1 ≠ 0
  let v := match l with
    | [] => 0
    | e :: es => es.foldl (fun v e => opFold op v e.1) e.1
  (v, (l.map fun e => e.2.1).sum, (l.map fun e => e.2.2).sum)

/-- The result the root delivers (R328). -/
def rootValue (op : Nat) (v : Word) (count nan : Nat) : Word :=
  if op = 7 ∧ 0 < nan then 0x7FC00000
  else if op = 8 ∧ 0 < count ∧ nan = count then 0x7FC00000 else v

/-- a before b, both modulo 2^16 (R330). -/
def before16 (a b : BitVec 16) : Bool := (a - b).getLsbD 15

/-- An event bound to a group takes a result's status (R312). -/
def State.groupEvents (g : Nat) (status : Nat) (s : State) : State :=
  let upd := fun (e : Nat × EvReg) =>
    if (e.2.gbind && decide (e.2.group.toNat = g)) = true then
      (e.1, if status = 1 then { e.2 with failed := true }
        else { e.2 with count := e.2.count + 1, addAt := s.cycle + 1, adds := (if e.2.addAt = s.cycle + 1 then e.2.adds else 0) + 1 })
    else e
  (s.modLaunch fun l => { l with events := l.events.map upd }).post .launchRecordTake Arg.zero

/-- The bound a member's result starts at once instance `num` has come: the counter at its `gjoin`, moved on so that it never falls more than
16384 instances behind, for instances compare as a signed 16-bit difference (R330). -/
def joinedAfter (joined num : BitVec 16) : BitVec 16 := if 16384 < (num - joined).toNat then num - 16384 else joined

/-- A result passes down through this switch (R329): members' registers, the slot, the closed mark, the bound events, the children. -/
def State.groupDeliver (g : Nat) (num : BitVec 16) (v : Word) (status count nan : Nat) (s : State) : State :=
  let e := s.group g
  let s := s.modFabric fun fb =>
    { fb with
      members := fb.members.map fun m =>
        if m.group = g ∧ !before16 num m.joined then
          { m with result := v, status := BitVec.ofNat 8 status, count := count, nan := nan, num := num, has := true,
                   joined := joinedAfter m.joined num }
        else m
      rslots := fb.rslots.filter fun r => !(decide (r.2.group = g) && decide (r.2.num = num)) }
  let next := if before16 num e.nexti then e.nexti else num + 1
  let s := s.modGroup g fun e =>
    { e with closed := num :: e.closed.filter fun n => n ≠ num && before16 n next, nexti := next }
  let s := s.groupEvents g status
  let s := { s with netOut := s.netOut ++ ((List.range 8).filter fun p => e.children.getLsbD p).map fun p =>
      (⟨0, s.chipNo * 2048, portOrder p, .result g v status count nan num⟩ : Packet) }
  (s.slotKeys.filter fun k => (s.slot k).park = Park.again (.group g)).foldl (fun s k => s.post .slotWake (arg1 k)) s

/-- A slot of an instance that holds everything it expects: the root delivers, another switch sends its partial up (R329). -/
def State.groupComplete (i : Nat) (status : Nat) (s : State) : State :=
  match find? s.fabric.rslots i with
  | none => s
  | some r =>
    let e := s.group r.group
    let (v, count, nan) := r.fold e.op.toNat
    if 8 ≤ e.parent.toNat then s.groupDeliver r.group r.num (rootValue e.op.toNat v count nan) status count nan
    else if r.sentUp then s
    else
      let s := { s with netOut := s.netOut ++ [(⟨0, s.chipNo * 2048, portOrder e.parent.toNat, .partialUp r.group 0 v count nan r.num⟩ : Packet)] }
      s.modFabric fun fb => { fb with rslots := put i { r with sentUp := true } fb.rslots }

def RSlot.full (r : RSlot) : Bool := r.expect.all fun k => r.got.any fun e => e.1 = k

/-- Whether an instance is closed to contributions at this switch (R329, R330). -/
def State.instanceClosed (s : State) (g : Nat) (num : BitVec 16) : Bool := (s.group g).closed.contains num

/-- The switch takes a contribution or partial at place `key` of an instance (R329, R330); none while no slot is free. -/
def State.groupTake (g : Nat) (num : BitVec 16) (key : Nat) (v : Word) (count nan : Nat) (s : State) : Option State :=
  let late := s.modGroup g fun e => { e with late := if e.late = 0xFFFFFFFF then e.late else e.late + 1 }
  if s.instanceClosed g num then some late else
  let slot := s.fabric.rslots.find? fun r => decide (r.2.group = g) && decide (r.2.num = num)
  let add := fun (i : Nat) (r : RSlot) (s : State) =>
    let r := { r with got := put key (v, count, nan) r.got }
    let s := s.modFabric fun fb => { fb with rslots := put i r fb.rslots }
    if r.full then s.groupComplete i 0 else s
  match slot with
  | some (i, r) => if r.sentUp then some late else some (add i r s)
  | none =>
    match (List.range 64).find? fun i => (find? s.fabric.rslots i).isNone with
    | none => none
    | some i =>
      let r : RSlot := ⟨g, num, s.expected g, [], s.cycle, false⟩
      let s := s.modGroup g fun e => { e with nexti := if before16 num e.nexti then e.nexti else num + 1 }
      let s := s.post .groupSlotTimeout (arg1 i)
      some (add i r s)

/-- Whether a member's contribution to an instance is on its way to the switch. -/
def State.contributing (s : State) (g key : Nat) (num : BitVec 16) : Bool :=
  (s.net.any fun p => match p.body with
    | .contribution g' key' _ num' => decide (g' = g) && decide (key' = key) && decide (num' = num)
    | _ => false) ||
  s.slots.any fun e => e.2.fences.any fun f => match f.sig with
    | some (.contribute g' key' _ num') => decide (g' = g) && decide (key' = key) && decide (num' = num)
    | _ => false

/-- A member leaves a group (R32, R33): what it has contributed still counts, and its part of every open instance counts as present without a value. -/
def State.leaveGroup (g : Nat) (m : Member) (s : State) : State :=
  let s := s.modFabric fun fb => { fb with members := fb.members.erase m }
  (s.fabric.rslots.filter fun r => decide (r.2.group = g) && r.2.expect.contains m.order && !(r.2.got.any fun e => e.1 = m.order) &&
      !s.contributing g m.order r.2.num).foldl
    (fun s e =>
      let r := { e.2 with got := put m.order (0, 0, 0) e.2.got }
      let s := s.modFabric fun fb => { fb with rslots := put e.1 r fb.rslots }
      if r.full && !r.sentUp then s.groupComplete e.1 0 else s) s

/-- A slot's activation joins group `g` (R117, R363). -/
def State.joinGroup (k g : Nat) (s : State) : State :=
  let a := (s.slot k).act
  let n := (s.group g).nexti
  let m : Member := ⟨g, coreOf k, decide (a.obj = 0), if a.obj = 0 then k % 8 else a.obj, n, n, 0, 0, 0, 0, 0, false, false⟩
  s.modFabric fun fb => { fb with members := fb.members ++ [m] }

/-- Takes an anonymous activation's slot out of every group it joined (R32). -/
def State.leaveAll (k : Nat) (s : State) : State :=
  if (s.slot k).act.obj ≠ 0 then s else
  (s.fabric.members.filter fun m => m.anon && decide (m.core = coreOf k) && decide (m.idx = k % 8)).foldl
    (fun s m => s.leaveGroup m.group m) s

end Sys2Proof.Machine
end

