-- ==== Sys2Proof/Machine/Ops.lean ====
section
/-! DEFINITION. What the meanings share: results and their latency, retirement with the loop rule, parking and waking, taking a trap and returning from one, and the end of an activation (R6, R28, R29, R69 to R72, R94 to R98, R118, R119, R123 to R127, R377, R389). -/

namespace Sys2Proof.Machine

/-! ## Register results (R69, R72) -/

/-- A pending write landed in its register. -/
def Slot.landOne (w : PendWrite) (sl : Slot) : Slot :=
  match w.kind with
  | .x => sl.setX (BitVec.ofNat 5 w.reg) (w.val.setWidth 64)
  | .f => let r : Reg := BitVec.ofNat 5 w.reg
          sl.setF r ((sl.getF r &&& ~~~w.mask) ||| (w.val &&& w.mask))
  | .p => sl.setP (BitVec.ofNat 3 w.reg) (w.val.setWidth 8)

/-- Every pending write of a slot landed, in issue order. -/
def Slot.flush (sl : Slot) : Slot := { sl.pend.foldl (fun sl w => sl.landOne w) sl with pend := [] }

/-- The pending writes due by cycle `t` landed. -/
def Slot.landBy (t : Nat) (sl : Slot) : Slot :=
  { (sl.pend.filter fun w => w.land ≤ t).foldl (fun sl w => sl.landOne w) sl with pend := sl.pend.filter fun w => t < w.land }

/-- A result of latency `l` of the slot in hand: written at once for 1, else pending until cycle + l. -/
def State.result (kind : RegKind) (reg : Nat) (val mask : QWord) (l : Nat) (s : State) : State :=
  s.modMe fun sl => { sl with pend := sl.pend ++ [⟨kind, reg, val, mask, s.cycle + l, sl.pc⟩] }

def State.resultX (r : Reg) (v : Word) (l : Nat) (s : State) : State :=
  if l ≤ 1 then s.setX r v else s.result .x r.toNat (v.setWidth 128) 0 l
def State.resultF (r : Reg) (v mask : QWord) (l : Nat) (s : State) : State := s.result .f r.toNat v mask l
def State.resultP (r : PReg) (v : Byte) (l : Nat) (s : State) : State :=
  if l ≤ 1 then s.setP r v else s.result .p r.toNat (v.setWidth 128) 0 l

/-- FLAGS of every core takes the flags of the results delivered in the cycle (R202). -/
def State.endFlags (s : State) : State :=
  if s.cores.all fun e => e.2.flagsDue = 0 then s
  else { s with cores := s.cores.map fun e => (e.1, { e.2 with flags := e.2.flags ||| e.2.flagsDue, flagsDue := 0 }) }

/-! ## Retirement -/

/-- The next sequential address, with the loop rule for an instruction that takes no transfer (R97, rules 2 and 3). -/
def Slot.seq (len : Nat) (sl : Slot) : Slot :=
  let next := sl.pc + BitVec.ofNat 48 len
  if sl.lcount = 0 then { sl with pc := next }
  else if next = sl.lend then
    if 1 < sl.lcount.toNat then { sl with pc := sl.lstart, lcount := sl.lcount - 1 }
    else { sl with pc := sl.lend, lcount := 0 }
  else if sl.pc.toNat < sl.lend.toNat ∧ sl.lend.toNat < next.toNat then { sl with pc := next, lcount := 0 }
  else { sl with pc := next }

/-- A transfer of control, with the loop rule (R97, rule 1). -/
def Slot.goto (t : BitVec 48) (sl : Slot) : Slot :=
  if sl.lcount ≠ 0 ∧ ¬ (sl.lstart.toNat ≤ t.toNat ∧ t.toNat < sl.lend.toNat) then { sl with pc := t, lcount := 0 }
  else { sl with pc := t }

/-- Counts a retired instruction (R392) and starts its stall count (R69). -/
def Slot.retired1 (ready : Nat) (sl : Slot) : Slot := { sl with retired := sl.retired + 1, ready := ready, waited := false }

/-- The instruction in hand retires without a transfer. `len` is its length in bytes, `sc` its stall count. -/
def State.retire (len sc : Nat) (s : State) : State := s.modMe fun sl => (sl.seq len).retired1 (s.cycle + 1 + sc)

/-- The instruction in hand is accepted by a unit that retires it later (R261): the slot goes on, and RETIRED does not count it yet. -/
def State.accepted (len sc : Nat) (s : State) : State :=
  s.modMe fun sl => { (sl.seq len).retired1 (s.cycle + 1 + sc) with retired := sl.retired }

/-- The instruction in hand retires with a transfer to `t`. -/
def State.jump (t : BitVec 48) (sc : Nat) (s : State) : State := s.modMe fun sl => (sl.goto t).retired1 (s.cycle + 1 + sc)

/-- A parked instruction of slot `k` completes: it retires and the slot runs on. -/
def State.completeAt (k len : Nat) (s : State) : State :=
  s.modSlot k fun sl => { sl.seq len with retired := sl.retired + 1, park := .run, waited := false, elapsed := if sl.frozen then 0 else s.cycle, noticed := false }

/-! ## Parking (R29) -/

/-- The slot in hand parks; its pending writes land before it issues again (R72). -/
def State.parkMe (p : Park) (sc : Nat) (s : State) : State :=
  s.modMe fun sl => { sl.flush with park := p, ready := s.cycle + 1 + sc }

/-- The slot in hand parks until `w` holds, and then executes its instruction again. -/
def State.waitFor (w : Wait) (s : State) : State := (s.parkMe (.again w) 0).post .slotWake (arg1 s.cur)

/-- The slot in hand parks with a result for an x register, which it gets as it wakes (R69). -/
def State.giveX (r : Reg) (v : Word) (sc : Nat) (s : State) : State := (s.parkMe (.give r.toNat v sc) sc).post .slotWake (arg1 s.cur)

/-- Whether a park ends with the instruction executed again. -/
def Park.again? : Park → Bool
  | .again _ => true
  | _ => false

/-- A slot runs again; RUNLIMIT is counted anew (R35). -/
def State.unpark (k : Nat) (s : State) : State :=
  s.modSlot k fun sl => { sl with park := .run, waited := sl.park.again?, elapsed := if sl.frozen then 0 else s.cycle, noticed := false }

/-! ## The end of an activation (R28, R124) -/

/-- The registers of a slot once they are undefined: free values (R28). -/
def Slot.undefined (n : Nat) (sl : Slot) : Slot :=
  { sl with
    x := (List.range 31).map fun i => (i + 1, Config.freeWord (n + i)),
    f := (List.range 32).map fun i => (i, Config.freeQWord (n + i)),
    p := (List.range 7).map fun i => (i + 1, Config.freeByte (n + i)) }

/-- A slot's share of its sector's engine ends (R283): a waiting shadow is withdrawn, and a buffer frees; an auction that
has not stopped is abandoned at the end of its round. -/
def State.endAuctions (k : Nat) (s : State) : State :=
  if isSup (coreOf k) then s else
  s.modSector (sectorOf (clusterOf (coreOf k))) fun se =>
    { se with
      order := se.order.filter (· != k),
      buffers := (se.buffers.filter fun a => !(a.slot = k && a.stopped)).map fun a =>
        if a.slot = k then { a with abandon := true } else a }

/-- Waiters of a wait for a receive-queue grant and completion-queue arms forget the slot. -/
def State.forgetPops (k : Nat) (s : State) : State :=
  s.modLaunch fun l => { l with comps := l.comps.map fun e => (e.1, { e.2 with regs := e.2.regs.filter (· != some k) }) }

/-- The activation of slot `k` ends as `done` lays down (R28), `reason` being that of its end notice (R304). -/
def State.endActivation (k reason : Nat) (s : State) : State :=
  let sl := s.slot k
  let c := coreOf k
  let s := s.leaveAll k
  let s := s.endAuctions k
  let s := s.forgetPops k
  let s := s.expEnd c sl.act.expansion reason
  let s := s.modSlot k fun sl =>
    { (sl.undefined s.fresh) with
      active := false, park := .run, frozen := false, woken := false, waited := false, act := Act.none, lcount := 0, inl := none,
      streams := [], auction := none, waiting := false, fences := sl.fences.filter fun f => f.sig.isSome, sends := [], pend := [], ready := s.cycle + 1 }
  let s := { s with fresh := s.fresh + 32 }
  let obj := sl.act.obj
  (s.stir c).post .inboxCellAssignment (arg2 c obj)

/-- Breaks the running activation's reply, if it has one (R46, R54). -/
def State.breakMine (k reason cause : Nat) (s : State) : State :=
  let r := (s.slot k).replyh
  let t := (s.slot k).act.handle
  let s := s.modSlot k fun sl => { sl with replyh := 0 }
  if r = 0 then s else s.breakOrHold (coreOf k) t r (s.numOf (coreOf k)) (Resol.brk reason (ownOrigin r) cause)

/-- `sv.break` on slot `k` (R124), with the reason and cause its reply breaks with. -/
def State.breakActivation (k reason cause : Nat) (s : State) : State :=
  (s.breakMine k reason cause).endActivation k reason

/-! ## Traps (R6, R119, R126, R127, R377, R389) -/

/-- A fatal error (R390): the chip halts. -/
def State.fatal (cause : Nat) (s : State) : State := { s with halted := some cause }

/-- A walker watches table line `key` for one more waiter, and looks again at once; without a free monitor it rereads the
line every 4096 cycles (R127, R146). -/
def State.watchLine (key : Nat) (f : Monitor → Monitor) (s : State) : State :=
  let old := look Monitor.none s.monitors key
  let used := (s.monitors.filter fun e => decide (e.1 / 2 ^ 34 = key / 2 ^ 34) && e.2.armed).length
  let m := { f old with armed := old.armed || decide (used < 128) }
  if m.armed then { s with monitors := put key m s.monitors }.post .pageMonitorWake (arg1 key)
  else
    let s' := { s with monitors := put key { m with due := some (m.due.getD (s.cycle + 4096)) } s.monitors }
    if m.due.isSome then s' else s'.post .monitorPoll (arg1 key)

/-- The number of a watched line: its walker's sector, and the line of the entry. -/
def lineKey (sec entry : Nat) : Nat := sec * 2 ^ 34 + entry / 64

/-- A trapped slot waits on a table entry. -/
def State.armMonitor (k entry : Nat) (s : State) : State :=
  s.watchLine (lineKey (sectorOf (clusterOf (coreOf k))) entry) fun m => { m with slots := m.slots.filter (· != k) ++ [k] }

/-- Taking a trap on slot `k`: the three trap registers (R369), and then, on a compute core, the park and the fault
message (R29, R126), or the end of the activation where the poison action map says so (R377); on a supervisor core the
handler at VEC (R119), or a fatal error (R389). -/
def State.trapAt (k cause : Nat) (addr : Word) (pc : BitVec 48) (entry : Option Nat) (s : State) : State :=
  let c := coreOf k
  let s := s.modSlot k fun sl => { sl.flush with tcause := BitVec.ofNat 8 cause, taddr := addr, tpc := pc, tsc := 0, waited := false, ready := s.cycle + 1 }
  if isSup c then
    let sl := s.slot k
    if sl.intrap ∨ sl.vec = 0 then s.fatal 1
    else s.modSlot k fun sl => { sl with intrap := true, pc := evenPc sl.vec, park := .run }
  else
    let p := s.corePart c
    let s := s.tellHandler c p 0 (w64 cause) addr (pc.setWidth 64) (w64 (slotSpec k))
    if cause = cPOISON ∧ s.chip.paction.getLsbD p then s.breakActivation k rPOISON cPOISON
    else
      let s := s.modSlot k fun sl => { sl with park := .trap entry }
      match entry with
      | none => s
      | some e => s.armMonitor k e

/-- The instruction in hand traps: nothing else of it happens (R6). -/
def State.trap (cause : Nat) (addr : Word) (s : State) : State := s.trapAt s.cur cause addr s.me.pc none

/-- As `trap`, for an access whose table entry is to be watched. -/
def State.trapEntry (cause : Nat) (addr : Word) (entry : Option Nat) (s : State) : State :=
  s.trapAt s.cur cause addr s.me.pc entry

/-- `sys` and `brk` (R118): the instruction retires, and then the trap is taken; TRAPPC is its own address, and the stall count counts
after the resumption. As the last instruction of a loop body it closes an iteration as it retires (R97), so that a compute slot goes
on at LSTART; the return from the trap on a supervisor core is a transfer to TRAPPC + 4 (DEDUCED, log entry 68). -/
def State.trapAfter (cause : Nat) (code : Word) (sc : Nat) (s : State) : State :=
  let pc := s.me.pc
  let s' := s.retire 4 sc
  (s'.trapAt s.cur cause code pc none).modMe fun sl => { sl with tsc := sc }

/-- The return from a trap on a supervisor core (R119); the stall count of a `sys` or `brk` counts from here (R118). -/
def State.trapReturn (s : State) : State :=
  s.modMe fun sl =>
    let t := if sl.tcause = BitVec.ofNat 8 cSYS ∨ sl.tcause = BitVec.ofNat 8 cBREAK then sl.tpc + 4 else sl.tpc
    { (sl.goto (evenPc t)).retired1 (s.cycle + 1 + sl.tsc) with intrap := false, tsc := 0 }

/-! ## What releases and fences wait for (R161, R189, R190) -/

/-- A command of a cluster by its number, wherever it stands: a running one that is saved too. -/
def State.findCmd (s : State) (cl serial : Nat) : Option CopyCmd :=
  let k := s.cluster cl
  let l := (List.range 8).flatMap (fun i => (s.core (cl * 8 + i)).xq) ++ k.engine0.cmd.toList ++ k.engine1.cmd.toList ++ k.pending ++
    s.saved.flatMap fun e => match find? e.2.engines cl with
      | some (a, b) => a.cmd.toList ++ b.cmd.toList
      | none => []
  l.find? fun c => c.serial = serial

/-- Whether the packets of copy command `serial` are as far as a release at chip scope asks: none is on its way to a window of this chip,
or waits in a link's queue (R161, rule 1). -/
def State.packetsLeft (s : State) (serial : Nat) : Bool :=
  let mine := fun (p : WPack) => decide (p.src = s.chipNo) && decide (p.serial = serial)
  !(s.fabric.flying.any fun p => mine p && decide (p.dst = s.chipNo)) &&
  !(s.fabric.ports.any fun e => e.2.out.any fun f => f.wpack.any mine)

/-- Whether a command's writes are performed, as far as a release at a scope asks (R161, rule 1). A triggered copy that has
not fired is not covered, and of a looping one only the stages it has started. What an engine holds is performed once its walk has ended;
a get once its replies are written as well, a remote write or reduction by what has left, or by its answers; and arrive, post and fill, which are writes of the command too, once they are made (R164). -/
def State.cmdPerformed (s : State) (sc : Scope) (c : CopyCmd) : Bool :=
  let engine := c.told || (c.ended && decide (wbits c.sh.ctl 8 3 = 0) && (decide (c.sent = 0) || (!decide (wbits c.sh.ctl 0 4 = 5) &&
    match sc with
    | .sy => false
    | .ch => s.packetsLeft c.serial
    | _ => true)))
  match c.stage with
  | .armed => true
  | .looping => true
  | .done => true
  | .queued => c.loop
  | .running => engine
  | .cancelled => engine
  | _ => false

/-- Whether the slot's reflected stores of the numbers that `mine` selects are as far as a release at a scope asks (R161, rule 2). -/
def State.windowsPerformed (s : State) (k : Nat) (mine : Nat → Bool) (sc : Scope) : Bool :=
  let left := !((s.cluster (domainOf (coreOf k))).wq.any fun w => decide (w.slot = k) && mine w.no)
  let of := fun (p : WPack) => decide (p.src = s.chipNo) && decide (p.slot = k) && decide (p.txwin < 1024) && mine p.no
  let looped := !(s.fabric.flying.any fun p => of p && decide (p.dst = s.chipNo))
  match sc with
  | .sy => left && looped && !(s.fabric.outgo.any of)
  | .ch => left && looped
  | _ => left

def State.cmdsPerformed (s : State) (k : Nat) (l : List Nat) (sc : Scope) : Bool :=
  l.all fun n => (s.findCmd (clusterOf (coreOf k)) n).all (s.cmdPerformed sc)

/-- What an invocation send waits for as a release at a scope (columns IS of R158 to R160): sends of one pair keep their order by their
numbers. -/
def State.sendReleased (s : State) (k : Nat) (sc : Scope) : Bool :=
  (s.slot k).stores.isEmpty && s.cmdsPerformed k (s.slot k).cmds sc && s.windowsPerformed k (fun _ => true) sc

/-- The packets an invocation send is made of. -/
def Body.isSend : Body → Bool
  | .invoke _ => true
  | .resolve _ _ _ _ => true
  | .whenAns _ _ _ => true
  | .contribution _ _ _ _ => true
  | _ => false

/-- Whether the slot's earlier invocation sends are performed: each has been taken where it goes, or has left the chip (DEDUCED, log
entry 71). -/
def State.sendsPerformed (s : State) (k : Nat) : Bool :=
  let mine := fun (p : Packet) => p.body.isSend && (s.slot k).sends.any fun r => decide (r.1 < p.id) && decide (p.id ≤ r.2)
  !(s.net.any mine) && !(s.cores.any fun e => e.2.held.any fun h => match h with
    | .packet p => mine p
    | _ => false) && !((s.slot k).fences.any fun f => f.sig.isSome)

/-- The packets that `f` sends count as invocation sends of the slot in hand. -/
def State.asSend (f : State → State) (s : State) : State :=
  let t := f s
  t.modSlot s.cur fun sl => { sl with sends := sl.sends ++ [(s.serial, t.serial)] }

/-- The wait of `rel` at a scope (R190). -/
def State.released (s : State) (k : Nat) (sc : Scope) : Bool := s.sendReleased k sc && s.sendsPerformed k

/-- Whether a pending write is a nibble store, whose read counts among loads (R153, R156). -/
def PendStore.reads (p : PendStore) : Bool := match p.op with
  | .nibble _ _ => true
  | _ => false

/-- Whether the slot's earlier loads and atomics are performed: all but a nibble store end their instruction's park (R190). -/
def State.loadsPerformed (s : State) (k : Nat) : Bool := !(s.slot k).stores.any PendStore.reads

/-- Whether a fence's predecessors are performed (R189). -/
def State.fenceMet (s : State) (k : Nat) (f : FenceCond) : Bool :=
  (!f.pred.getLsbD 0 || !((s.slot k).stores.take f.stores).any PendStore.reads) && (!f.pred.getLsbD 1 || decide (f.stores = 0)) && (!f.pred.getLsbD 2 || s.cmdsPerformed k f.cmds f.scope) &&
  (!f.pred.getLsbD 3 || s.windowsPerformed k (fun n => decide (n ≤ f.wins)) f.scope)

/-- Whether some fence of slot `k` holds back an operation of the classes in `mask` (bit 0 load, 1 store, 2 engine, 3 window). -/
def State.fenced (s : State) (k : Nat) (mask : BitVec 4) : Bool :=
  (s.slot k).fences.any fun f => (f.succ &&& mask) != 0 && !s.fenceMet k f

/-- An operation of the classes in `mask`: held back by a fence, or done (R189). -/
def State.gated (mask : BitVec 4) (s : State) (f : State → State) : State :=
  if s.fenced s.cur mask then s.waitFor (.fence mask)
  else f (s.modMe fun sl => { sl with fences := sl.fences.filter fun c => c.sig.isSome || !s.fenceMet s.cur c })

/-- The scope of a scope field (R66). -/
def scopeOf (c : BitVec 2) : Scope := if c = 0 then .co else if c = 1 then .cl else if c = 2 then .ch else .sy

/-- An acquire: at cluster scope or wider the cluster's L1 is invalidated (R165). -/
def State.acquire (k : Nat) (sc : Scope) (s : State) : State :=
  if sc = .co then s else s.flushL1 (domainOf (coreOf k))

/-- `done` (R28, R31): an inline child returns to its parent; an activation ends. -/
def State.finishActivation (s : State) : State :=
  match s.me.inl with
  | some i =>
    s.modMe fun sl =>
      let sl := { sl with x := put 10 i.x10 (put 11 i.x11 (put 12 i.x12 (put 13 i.x13 sl.x))), inl := none,
                          lstart := i.lstart, lend := i.lend, lcount := i.lcount, pc := i.pc }
      (sl.seq 4).retired1 (s.cycle + 1)
  | none => (s.modMe fun sl => { sl with retired := sl.retired + 1 }).endActivation s.cur 0

/-- `done`, which for an expanded activation is a release at chip scope first (R304). -/
def State.doneOrWait (s : State) : State :=
  if s.me.inl.isNone && s.me.act.expansion.isSome && !s.released s.cur .ch then s.waitFor (.release .ch)
  else s.finishActivation

end Sys2Proof.Machine
end

