-- ==== Sys2Proof/Machine/Operands.lean ====
section
/-! DEFINITION. Operands: which registers an instruction reads and writes, what must land before it issues (R69 to R72, R212), memory operands with the checks of R147, loads and stores of a slot, and streams as operands (R214 to R219). -/

namespace Sys2Proof.Machine

/-! ## Registers an instruction names (R70, R72) -/

/-- The registers an instruction reads, named or implied, and those it writes. x registers are 0 to 31, f registers 32 to 63, p registers 64 to 71. -/
structure Uses where
  reads  : List Nat
  writes : List Nat
deriving DecidableEq, Repr

def xr (r : Reg) : Nat := r.toNat
def fr (r : Reg) : Nat := 32 + r.toNat
def pr (r : PReg) : Nat := 64 + r.toNat

/-- What each instruction reads and writes. -/
def Instr.uses : Sys2Proof.Instr → Uses
  | .add rd ra rb _ => ⟨[xr ra, xr rb], [xr rd]⟩
  | .sub rd ra rb _ => ⟨[xr ra, xr rb], [xr rd]⟩
  | .and rd ra rb _ => ⟨[xr ra, xr rb], [xr rd]⟩
  | .or rd ra rb _ => ⟨[xr ra, xr rb], [xr rd]⟩
  | .xor rd ra rb _ => ⟨[xr ra, xr rb], [xr rd]⟩
  | .sll rd ra rb _ => ⟨[xr ra, xr rb], [xr rd]⟩
  | .srl rd ra rb _ => ⟨[xr ra, xr rb], [xr rd]⟩
  | .sra rd ra rb _ => ⟨[xr ra, xr rb], [xr rd]⟩
  | .slt rd ra rb _ => ⟨[xr ra, xr rb], [xr rd]⟩
  | .sltn rd ra rb _ => ⟨[xr ra, xr rb], [xr rd]⟩
  | .min rd ra rb _ => ⟨[xr ra, xr rb], [xr rd]⟩
  | .max rd ra rb _ => ⟨[xr ra, xr rb], [xr rd]⟩
  | .minn rd ra rb _ => ⟨[xr ra, xr rb], [xr rd]⟩
  | .maxn rd ra rb _ => ⟨[xr ra, xr rb], [xr rd]⟩
  | .mul rd ra rb _ => ⟨[xr ra, xr rb], [xr rd]⟩
  | .mulh rd ra rb _ => ⟨[xr ra, xr rb], [xr rd]⟩
  | .mulhn rd ra rb _ => ⟨[xr ra, xr rb], [xr rd]⟩
  | .div rd ra rb _ => ⟨[xr ra, xr rb], [xr rd]⟩
  | .divn rd ra rb _ => ⟨[xr ra, xr rb], [xr rd]⟩
  | .rem rd ra rb _ => ⟨[xr ra, xr rb], [xr rd]⟩
  | .remn rd ra rb _ => ⟨[xr ra, xr rb], [xr rd]⟩
  | .lea rd ra rb _ _ => ⟨[xr ra, xr rb], [xr rd]⟩
  | .sel rd ra rb _ => ⟨[xr rd, xr ra, xr rb], [xr rd]⟩
  | .addi rd ra _ _ => ⟨[xr ra], [xr rd]⟩
  | .andi rd ra _ _ => ⟨[xr ra], [xr rd]⟩
  | .ori rd ra _ _ => ⟨[xr ra], [xr rd]⟩
  | .xori rd ra _ _ => ⟨[xr ra], [xr rd]⟩
  | .slti rd ra _ _ => ⟨[xr ra], [xr rd]⟩
  | .sltni rd ra _ _ => ⟨[xr ra], [xr rd]⟩
  | .slli rd ra _ _ => ⟨[xr ra], [xr rd]⟩
  | .srli rd ra _ _ => ⟨[xr ra], [xr rd]⟩
  | .srai rd ra _ _ => ⟨[xr ra], [xr rd]⟩
  | .lui rd _ => ⟨[], [xr rd]⟩
  | .adpc rd _ => ⟨[], [xr rd]⟩
  | .clz rd ra _ => ⟨[xr ra], [xr rd]⟩
  | .ctz rd ra _ => ⟨[xr ra], [xr rd]⟩
  | .popc rd ra _ => ⟨[xr ra], [xr rd]⟩
  | .sxb rd ra _ => ⟨[xr ra], [xr rd]⟩
  | .sxh rd ra _ => ⟨[xr ra], [xr rd]⟩
  | .sxw rd ra _ => ⟨[xr ra], [xr rd]⟩
  | .zxb rd ra _ => ⟨[xr ra], [xr rd]⟩
  | .zxh rd ra _ => ⟨[xr ra], [xr rd]⟩
  | .zxw rd ra _ => ⟨[xr ra], [xr rd]⟩
  | .bexs rd ra _ _ _ => ⟨[xr ra], [xr rd]⟩
  | .bexn rd ra _ _ _ => ⟨[xr ra], [xr rd]⟩
  | .bins rd ra _ _ _ => ⟨[xr rd, xr ra], [xr rd]⟩
  | .psetEq p ra rb _ => ⟨[xr ra, xr rb], [pr p]⟩
  | .psetNe p ra rb _ => ⟨[xr ra, xr rb], [pr p]⟩
  | .psetLt p ra rb _ => ⟨[xr ra, xr rb], [pr p]⟩
  | .psetGe p ra rb _ => ⟨[xr ra, xr rb], [pr p]⟩
  | .psetLtn p ra rb _ => ⟨[xr ra, xr rb], [pr p]⟩
  | .psetGen p ra rb _ => ⟨[xr ra, xr rb], [pr p]⟩
  | .pand rd ra rb _ => ⟨[pr ra, pr rb], [pr rd]⟩
  | .por rd ra rb _ => ⟨[pr ra, pr rb], [pr rd]⟩
  | .pnot rd ra _ => ⟨[pr ra], [pr rd]⟩
  | .pmovToPredicate rd ra _ => ⟨[xr ra], [pr rd]⟩
  | .pmovFromPredicate rd ra _ => ⟨[pr ra], [xr rd]⟩
  | .beq ra rb _ => ⟨[xr ra, xr rb], []⟩
  | .bne ra rb _ => ⟨[xr ra, xr rb], []⟩
  | .blt ra rb _ => ⟨[xr ra, xr rb], []⟩
  | .bge ra rb _ => ⟨[xr ra, xr rb], []⟩
  | .bltn ra rb _ => ⟨[xr ra, xr rb], []⟩
  | .bgen ra rb _ => ⟨[xr ra, xr rb], []⟩
  | .bpt p _ => ⟨[pr p], []⟩
  | .bpf p _ => ⟨[pr p], []⟩
  | .jal rd _ => ⟨[], [xr rd]⟩
  | .jalr rd ra _ _ => ⟨[xr ra], [xr rd]⟩
  | .loop ra _ _ => ⟨[xr ra], []⟩
  | .ctlrd rd _ => ⟨[], [xr rd]⟩
  | .ctlwr rd ra _ => ⟨[xr ra], [xr rd]⟩
  | .ctlset rd ra _ => ⟨[xr ra], [xr rd]⟩
  | .ctlclr rd ra _ => ⟨[xr ra], [xr rd]⟩
  | .ld rd ra _ _ _ => ⟨[xr ra], [xr rd]⟩
  | .ldn rd ra _ _ _ => ⟨[xr ra], [xr rd]⟩
  | .fld rd ra _ _ _ => ⟨[xr ra], [fr rd]⟩
  | .st rd ra _ _ _ => ⟨[xr rd, xr ra], []⟩
  | .fst rd ra _ _ _ => ⟨[fr rd, xr ra], []⟩
  | .ldsync rd ra _ => ⟨[xr ra], [xr rd]⟩
  | .ldtake rd ra _ => ⟨[xr ra], [xr rd]⟩
  | .stfill rd ra _ => ⟨[xr rd, xr ra], []⟩
  | .feclr ra rb _ => ⟨[xr ra, xr rb], []⟩
  | .stnib rd ra rb _ => ⟨[xr rd, xr ra, xr rb], []⟩
  | .amoAdd rd ra rb _ _ _ _ => ⟨[xr ra, xr rb], [xr rd]⟩
  | .amoAnd rd ra rb _ _ _ _ => ⟨[xr ra, xr rb], [xr rd]⟩
  | .amoOr rd ra rb _ _ _ _ => ⟨[xr ra, xr rb], [xr rd]⟩
  | .amoXor rd ra rb _ _ _ _ => ⟨[xr ra, xr rb], [xr rd]⟩
  | .amoMin rd ra rb _ _ _ _ => ⟨[xr ra, xr rb], [xr rd]⟩
  | .amoMax rd ra rb _ _ _ _ => ⟨[xr ra, xr rb], [xr rd]⟩
  | .amoMinn rd ra rb _ _ _ _ => ⟨[xr ra, xr rb], [xr rd]⟩
  | .amoMaxn rd ra rb _ _ _ _ => ⟨[xr ra, xr rb], [xr rd]⟩
  | .amoSwap rd ra rb _ _ _ _ => ⟨[xr ra, xr rb], [xr rd]⟩
  | .amoCas rd ra rb _ _ _ _ => ⟨[xr rd, xr ra, xr rb], [xr rd]⟩
  | .amoFadd rd ra rb _ _ _ _ => ⟨[xr ra, xr rb], [xr rd]⟩
  | .amoFmax rd ra rb _ _ _ _ => ⟨[xr ra, xr rb], [xr rd]⟩
  | .l2wb ra _ => ⟨[xr ra], []⟩
  | .l2zero ra _ => ⟨[xr ra], []⟩
  | .pfetch ra _ => ⟨[xr ra], []⟩
  | .wfa rd ra rb _ _ => ⟨[xr ra, xr rb], [xr rd]⟩
  | .wfp rd ra rb _ _ => ⟨[xr ra, xr rb], [xr rd]⟩
  | .arr rd ra rb _ _ => ⟨[xr ra, xr rb], [xr rd]⟩
  | .arrx rd ra rb _ _ => ⟨[xr ra, xr rb], [xr rd]⟩
  | .gcontrib rd _ _ => ⟨[xr rd], []⟩
  | .gread rd _ _ => ⟨[], [xr rd]⟩
  | .inv rd ra rb _ => ⟨[xr ra, xr rb, 10, 11, 12, 13], [xr rd]⟩
  | .invp ra rb _ => ⟨[xr ra, xr rb, 10, 11, 12, 13], []⟩
  | .reply ra _ => ⟨[xr ra], []⟩
  | .replyDatum ra _ => ⟨[xr ra, 10, 11, 12, 13], []⟩
  | .replyLocalPromise ra rb _ => ⟨[xr ra, xr rb], []⟩
  | .replyDatumLocalPromise ra rb _ => ⟨[xr ra, xr rb, 10, 11, 12, 13], []⟩
  | .rbreak ra _ => ⟨[xr ra], []⟩
  | .rbreakLocalPromise ra rb _ => ⟨[xr ra, xr rb], []⟩
  | .spawn ra rb _ => ⟨[xr ra, xr rb, 10, 11, 12, 13], []⟩
  | .hnew rd _ => ⟨[], [xr rd]⟩
  | .hdrop ra _ => ⟨[xr ra], []⟩
  | .hstat rd ra _ => ⟨[xr ra], [xr rd]⟩
  | .when ra rb _ => ⟨[xr ra, xr rb], []⟩
  | .tmset _ ra _ => ⟨[xr ra], []⟩
  | .xsrcLocal _ ra _ => ⟨[xr ra], []⟩
  | .xsrcRemote _ ra rb _ => ⟨[xr ra, xr rb], []⟩
  | .xdstLocal _ ra _ => ⟨[xr ra], []⟩
  | .xdstRemote _ ra rb _ => ⟨[xr ra, xr rb], []⟩
  | .xset ra rb _ => ⟨[xr ra, xr rb], []⟩
  | .xsetPost ra rb _ => ⟨[xr ra, xr rb], []⟩
  | .xsetAct ra rb _ => ⟨[xr ra, xr rb], []⟩
  | .xsetChain ra _ => ⟨[xr ra], []⟩
  | .xgo rd _ => ⟨[], [xr rd]⟩
  | .xloop rd ra rb _ => ⟨[xr ra, xr rb], [xr rd]⟩
  | .xrel ra _ => ⟨[xr ra], []⟩
  | .xarm rd ra rb _ => ⟨[xr ra, xr rb], [xr rd]⟩
  | .xstat rd ra _ => ⟨[xr ra], [xr rd]⟩
  | .xcancel rd ra _ => ⟨[xr ra], [xr rd]⟩
  | .fadd rd ra rb _ _ => ⟨[fr ra, fr rb], [fr rd]⟩
  | .fsub rd ra rb _ _ => ⟨[fr ra, fr rb], [fr rd]⟩
  | .fmul rd ra rb _ _ => ⟨[fr ra, fr rb], [fr rd]⟩
  | .fmin rd ra rb _ _ => ⟨[fr ra, fr rb], [fr rd]⟩
  | .fmax rd ra rb _ _ => ⟨[fr ra, fr rb], [fr rd]⟩
  | .fabs rd ra _ _ => ⟨[fr ra], [fr rd]⟩
  | .fneg rd ra _ _ => ⟨[fr ra], [fr rd]⟩
  | .fsel rd ra rb _ _ => ⟨[fr ra, fr rb], [fr rd]⟩
  | .fmv rd ra _ _ => ⟨[fr ra], [fr rd]⟩
  | .fdiv rd ra rb _ _ => ⟨[fr ra, fr rb], [fr rd]⟩
  | .fsqrt rd ra _ _ => ⟨[fr ra], [fr rd]⟩
  | .fma rd ra rb c _ _ => ⟨[fr ra, fr rb, fr c], [fr rd]⟩
  | .fnma rd ra rb c _ _ => ⟨[fr ra, fr rb, fr c], [fr rd]⟩
  | .frcp rd ra _ _ => ⟨[fr ra], [fr rd]⟩
  | .frsq rd ra _ _ => ⟨[fr ra], [fr rd]⟩
  | .fexp2 rd ra _ _ => ⟨[fr ra], [fr rd]⟩
  | .flog2 rd ra _ _ => ⟨[fr ra], [fr rd]⟩
  | .fsum rd ra _ _ => ⟨[fr ra], [fr rd]⟩
  | .fmaxr rd ra _ _ => ⟨[fr ra], [fr rd]⟩
  | .fcmp p _ ra rb _ _ => ⟨[fr ra, fr rb], [pr p]⟩
  | .fcvt rd ra _ _ _ _ => ⟨[fr ra], [fr rd]⟩
  | .sscfg _ ra rb _ _ => ⟨[xr ra, xr rb], []⟩
  | .ssdis rd _ _ => ⟨[], [xr rd]⟩
  | .fpack rd ra rb _ _ => ⟨[fr ra, fr rb], [fr rd]⟩
  | .funpack rd ra _ _ _ => ⟨[fr ra], [fr rd]⟩
  | .fshuf rd ra rb _ _ => ⟨[fr ra, xr rb], [fr rd]⟩
  | .mring _ ra _ => ⟨[xr ra], []⟩
  | .mringScale _ ra rb _ => ⟨[xr ra, xr rb], []⟩
  | .mepi ra _ => ⟨[xr ra], []⟩
  | .mtopk rd ra _ => ⟨[xr ra], [xr rd]⟩
  | .mseed ra _ => ⟨[xr ra], []⟩
  | .mstat rd ra _ => ⟨[xr ra], [xr rd]⟩
  | .merLoadTile ra rb _ => ⟨[xr ra, xr rb], []⟩
  | .merLoadCand ra rb _ => ⟨[xr ra, xr rb], []⟩
  | .merCap ra _ => ⟨[xr ra], []⟩
  | .merCapAll ra _ => ⟨[xr ra], []⟩
  | .merCfg ra rb _ => ⟨[xr ra, xr rb], []⟩
  | .merGo rd _ => ⟨[], [xr rd]⟩
  | .merStat rd _ => ⟨[], [xr rd]⟩
  | .merOut ra rb _ => ⟨[xr ra, xr rb], []⟩
  | .merBias rd ra _ => ⟨[xr ra], [xr rd]⟩
  | .merBiasAdd rd ra _ => ⟨[xr ra], [xr rd]⟩
  | .merBiasCopy rd ra _ => ⟨[xr ra], [xr rd]⟩
  | .merSnap rd ra _ => ⟨[xr ra], [xr rd]⟩
  | .merSnapBias rd ra _ => ⟨[xr ra], [xr rd]⟩
  | .lqPush _ ra _ => ⟨[xr ra], []⟩
  | .lqStat rd _ _ => ⟨[], [xr rd]⟩
  | .evSig ra rb _ => ⟨[xr ra, xr rb], []⟩
  | .evSigSet ra rb _ => ⟨[xr ra, xr rb], []⟩
  | .cqPop rd ra _ _ => ⟨[xr ra], [xr rd]⟩
  | .cqPopAct p ra _ _ => ⟨[xr p, xr ra], []⟩
  | .rfence rd _ => ⟨[], [xr rd]⟩
  | .rflush rd ra _ => ⟨[xr ra], [xr rd]⟩
  | .svResume rd ra _ => ⟨[xr ra], [xr rd]⟩
  | .svResumeX10 rd ra rb _ => ⟨[xr ra, xr rb], [xr rd]⟩
  | .svBreak rd ra _ => ⟨[xr ra], [xr rd]⟩
  | .svFreeze rd ra _ => ⟨[xr ra], [xr rd]⟩
  | .svThaw rd ra _ => ⟨[xr ra], [xr rd]⟩
  | .svSave rd ra rb _ => ⟨[xr ra, xr rb], [xr rd]⟩
  | .svLoad rd ra rb _ => ⟨[xr ra, xr rb], [xr rd]⟩
  | .tlbinv rd ra rb _ => ⟨[xr ra, xr rb], [xr rd]⟩
  | .cMv rd rb => ⟨[xr rb], [xr rd]⟩
  | .cAdd rd rb => ⟨[xr rd, xr rb], [xr rd]⟩
  | .cSub rd rb => ⟨[xr rd, xr rb], [xr rd]⟩
  | .cAddi rd _ => ⟨[xr rd], [xr rd]⟩
  | .cLi rd _ => ⟨[], [xr rd]⟩
  | .cAnd rd rb => ⟨[xr rd, xr rb], [xr rd]⟩
  | .cOr rd rb => ⟨[xr rd, xr rb], [xr rd]⟩
  | .cSlli rd _ => ⟨[xr rd], [xr rd]⟩
  | .cSrli rd _ => ⟨[xr rd], [xr rd]⟩
  | .cLd rd ra _ => ⟨[xr ra], [xr rd]⟩
  | .cSd rd ra _ => ⟨[xr ra, xr rd], []⟩
  | .cBeqz ra _ => ⟨[xr ra], []⟩
  | .cBnez ra _ => ⟨[xr ra], []⟩
  | _ => ⟨[], []⟩

/-- The interlocking instructions of R70: formats B, P and J, major 0x16 and the 16-bit forms. -/
def Instr.interlocks : Sys2Proof.Instr → Bool
  | .beq _ _ _ => true
  | .bne _ _ _ => true
  | .blt _ _ _ => true
  | .bge _ _ _ => true
  | .bltn _ _ _ => true
  | .bgen _ _ _ => true
  | .bpt _ _ => true
  | .bpf _ _ => true
  | .jal _ _ => true
  | .ctlrd _ _ => true
  | .ctlwr _ _ _ => true
  | .ctlset _ _ _ => true
  | .ctlclr _ _ _ => true
  | .cMv _ _ => true
  | .cAdd _ _ => true
  | .cSub _ _ => true
  | .cAddi _ _ => true
  | .cLi _ _ => true
  | .cAnd _ _ => true
  | .cOr _ _ => true
  | .cSlli _ _ => true
  | .cSrli _ _ => true
  | .cLd _ _ _ => true
  | .cSd _ _ _ => true
  | .cBeqz _ _ => true
  | .cBnez _ _ => true
  | .cJ _ => true
  | .cDone => true
  | _ => false

/-- The instructions that read the LANEP predicate (R212). -/
def Instr.readsLanep : Sys2Proof.Instr → Bool
  | .fadd _ _ _ _ _ => true
  | .fsub _ _ _ _ _ => true
  | .fmul _ _ _ _ _ => true
  | .fmin _ _ _ _ _ => true
  | .fmax _ _ _ _ _ => true
  | .fabs _ _ _ _ => true
  | .fneg _ _ _ _ => true
  | .fsel _ _ _ _ _ => true
  | .fmv _ _ _ _ => true
  | .fdiv _ _ _ _ _ => true
  | .fsqrt _ _ _ _ => true
  | .fma _ _ _ _ _ _ => true
  | .fnma _ _ _ _ _ _ => true
  | .frcp _ _ _ _ => true
  | .frsq _ _ _ _ => true
  | .fexp2 _ _ _ _ => true
  | .flog2 _ _ _ _ => true
  | .fsum _ _ _ _ => true
  | .fmaxr _ _ _ _ => true
  | .fcmp _ _ _ _ _ _ => true
  | .fpack _ _ _ _ _ => true
  | .funpack _ _ _ _ _ => true
  | _ => false

/-- The number of the register a pending write goes to. -/
def PendWrite.num (w : PendWrite) : Nat := match w.kind with
  | .x => w.reg
  | .f => 32 + w.reg
  | .p => 64 + w.reg

/-- Register numbers that hold a value: not x0, not p0, and not a register that is a stream at present (R5, R214). -/
def Slot.plain (sl : Slot) (n : Nat) : Bool :=
  decide (n ≠ 0) && decide (n ≠ 64) && !(decide (32 ≤ n) && decide (n < 36) && (look Stream.off sl.streams (n - 32)).enabled)

/-- Whether an instruction must wait for results of its own slot (R70, R212). -/
def Slot.interlocked (sl : Slot) (t : Nat) (i : Sys2Proof.Instr) : Bool :=
  let late := sl.pend.filter fun w => decide (t < w.land)
  (Instr.interlocks i && !late.isEmpty) ||
  (Instr.readsLanep i && late.any fun w => decide (64 < w.num)) ||
  ((Instr.uses i).writes.any fun n => sl.plain n && late.any fun w => w.num = n)

/-- The pending write an instruction reads too early, if any: its producer's address (R72). -/
def Slot.early (sl : Slot) (t : Nat) (i : Sys2Proof.Instr) : Option (BitVec 48) :=
  ((sl.pend.filter fun w => decide (t < w.land)).find? fun w => (Instr.uses i).reads.any fun n => sl.plain n && w.num = n).map (·.pc)

/-! ## Immediates -/

/-- A signed immediate of `n` bits as a word. -/
abbrev sx {n : Nat} (i : BitVec n) : Word := i.signExtend 64

/-- The word of the instruction in hand, for the TRAPADDR of ILLEGAL (R63). -/
def wordOf (i : Sys2Proof.Instr) : Word := w64 ((Sys2Proof.encodeWord i).getD 0)

/-- A trap ILLEGAL of the instruction in hand. -/
def State.illegal (i : Sys2Proof.Instr) (s : State) : State := s.trap cILLEGAL (wordOf i)

/-! ## Memory operands (R147, R176) -/

/-- What went wrong at an access: cause, TRAPADDR, and the table entry to watch; cause 0 where no walk was free. -/
abbrev Bad := Nat × Word × Option Nat

/-- A trap taken for a failed access; the instruction waits where no walk was free (R146). -/
def State.bad (b : Bad) (s : State) : State := if b.1 = 0 then s.waitFor .walk else s.trapEntry b.1 b.2.1 b.2.2

/-- Where an access of `n` bytes at `ea` of the slot in hand goes; the state keeps the translation the checks fetched. -/
def State.place (ea : Word) (n : Nat) (need : Need) (s : State) : Chk × State :=
  if ea.toNat % n ≠ 0 then (.bad cMISALIGN none, s) else s.check s.myCore ea n need

/-- An access of the slot in hand: its alignment and the checks of R147, then what follows for plain memory, for a
discarded page and for a transmit-window page; a failed check traps. -/
def State.access (ea : Word) (n : Nat) (need : Need) (ok : Home → State → State) (disc : State → State)
    (win : Nat → State → State) (s : State) : State :=
  match s.place ea n need with
  | (.ok h, s) => ok h s
  | (.disc, s) => disc s
  | (.window w, s) => win w s
  | (.busy, s) => s.waitFor .walk
  | (.bad c e, s) => s.trapEntry c ea e

/-- The trap of a write or atomic to a discarded page (R150), with the entry to watch. -/
def State.discardTrap (ea : Word) (s : State) : State := s.trapEntry cDISCARDWRITE ea (s.entryOf s.myCore ea)

/-- An access that the checks let through to plain memory only. -/
def State.accessHome (ea : Word) (n : Nat) (need : Need) (ok : Home → State → State) (s : State) : State :=
  s.access ea n need ok (State.discardTrap ea) (fun _ s => s.trap cWINDOWLOAD ea)

/-! ## Loads -/

/-- Whether a load is served locally: from the own cluster's scratchpad, or by a hit in L1 (R69). -/
def State.servedLocally (s : State) (c : Nat) (h : Home) : Bool :=
  !isSup c && match h with
  | .sram k _ => decide (k = clusterOf c)
  | .dram _ pa p _ => decide (p = 0) && s.l1Has (clusterOf c) pa

/-- A supervisor store that leaves an object's entry free destroys the object (DESIGN CHOICE, log entry 62): the core's receive pairs
and cells of it are free again, messages held for it or queued on it break STALE, and its generation advances (R42, R52, R56). -/
def State.destroyed (c i : Nat) (old : HEntry) (s : State) : State :=
  let mine := (s.core c).reorder.filter (s.heldFor c i)
  let q := look [] (s.core c).queues i
  let cells := cellList (s.core c).cells 65536 (s.cellNo c old.w4) ++ cellList (s.core c).cells 65536 (s.cellNo c old.w6)
  let s := ((s.freeRecv c old).freeCells c (cells.map (·.1))).modCore c fun k =>
    { k with reorder := k.reorder.filter (fun m => !mine.contains m), queues := del i k.queues }
  let s := s.setEntry c i old.freed
  let s := mine.foldl (fun (s : State) (m : Msg) =>
    (s.modCluster (domainOf c) fun k => { k with used := k.used - 1 }).sendPacket m.hop (s.numOf c) (.invoke m)) s
  q.foldl (fun (s : State) it => match it.body with
    | .msg m _ => ((s.freePlace c m).expEnd c m.expansion rSTALE).breakOrHold c m.target m.reply m.sender (m.breaks rSTALE (ownOrigin m.reply) 0)
    | _ => s) s

/-- The core and index of the handle-table entry that lies at a home, if one does. -/
def State.entryAt (s : State) (h : Home) : Option (Nat × Nat) :=
  s.cores.findSome? fun (e : Nat × Core) =>
    (List.range 4).findSome? fun (p : Nat) => match (s.tablePages e.1)[p]? with
      | some (some b) => if b.place ≤ h.place ∧ h.place < b.place + 65536 then some (e.1, 1024 * p + (h.place - b.place) / 64) else none
      | _ => none

/-- A retired write of slot `k` performed at its home; one into a cluster under containment reset, or whose power is off, is discarded
(R177, R394). -/
def State.performStore (k : Nat) (p : PendStore) (s : State) : State :=
  if s.closed p.home then s
  else if !isSup (coreOf k) then s.perform p.home p.op
  else match s.entryAt p.home with
    | none => s.perform p.home p.op
    | some (c, i) =>
      let old := s.entry c i
      let s := s.perform p.home p.op
      if old.st = 2 ∧ old.role = 0 ∧ (s.entry c i).st = 0 then s.destroyed c i old else s

/-- Performs the pending writes of slot `k` that overlap `n` bytes at `h`, in order (grid cell A of R158). -/
def State.settleStores (k : Nat) (h : Home) (n : Nat) (s : State) : State :=
  if !((s.slot k).stores.any fun p => p.overlaps h n) then s else
  let l := (s.slot k).stores
  let s := s.modSlot k (Slot.dropStores fun p => p.overlaps h n)
  (l.filter (fun p => p.overlaps h n)).foldl (fun s p => s.performStore k p) s

/-- Performs every pending write of a cluster's slots that overlaps `n` bytes at `h`. -/
def State.settleCluster (k : Nat) (h : Home) (n : Nat) (s : State) : State :=
  (s.slotKeys.filter fun sl => decide (clusterOf (coreOf sl) = k) && !isSup (coreOf sl)).foldl (fun s sl => s.settleStores sl h n) s

/-- The bytes a load of core `c` returns from a home or from its L1, and whether their line is poisoned; a miss under
policy L1+L2 allocates in L1 and in the slice (R135, R138). -/
def State.read (c : Nat) (h : Home) (n : Nat) (s : State) : (List Byte × Bool) × State :=
  match h with
  | .sram _ _ => ((s.homeBytes h n, s.homePoison h), s)
  | .dram sl pa p _ =>
    if decide (p = 0) && !isSup c && s.l1Has (clusterOf c) pa then
      ((((List.range n).map fun i => s.byteAt (l1Key (clusterOf c) (pa + i))), s.poisonAt (l1Key (clusterOf c) pa)), s)
    else
      let s := s.touch h
      let bad := s.homePoison h
      let s := if p = 0 ∧ !isSup c ∧ !bad then
          (s.settleCluster (clusterOf c) (.dram sl (pa / 64 * 64) p 0) 64).fillL1 (clusterOf c) sl pa else s
      ((s.homeBytes h n, bad), s)

/-! ## Stores -/

/-- The writes a retired store makes at its home: a 128-bit one is two halves (R155). -/
def storeParts (h : Home) (op : StOp) : List PendStore :=
  match op with
  | .bytes l => if l.length = 16 then [⟨h, .bytes (l.take 8)⟩, ⟨h.plus 8, .bytes (l.drop 8)⟩] else [⟨h, op⟩]
  | _ => [⟨h, op⟩]

/-- A store of slot `k` retires (R177): a hit in its cluster's L1 updates the line (R135, R167); a nibble store, which is an atomic, and
`l2zero` remove it (R167, R192); its home performs it later. -/
def State.store (k : Nat) (h : Home) (op : StOp) (s : State) : State :=
  let c := coreOf k
  let s := match h with
    | .dram _ pa p _ =>
      if isSup c then s
      else if op.dropsLine then s.dropL1 (clusterOf c) pa
      else if decide (p = 0) && s.l1Has (clusterOf c) pa then
        let s := s.settleCluster (clusterOf c) h op.size
        match op with
        | .bytes l => s.setBytes (l1Key (clusterOf c) pa) l
        | _ => s
      else s
    | _ => s
  (storeParts h op).foldl (fun (s : State) p =>
    (s.modSlot k fun sl => { sl with stores := sl.stores ++ [p] }).post .storePerformedAtHome (arg2 k 0)) s

/-! ## Stores through a transmit window (R337, R341) -/

def Slot.tracker? (sl : Slot) (w : Nat) : Option Tracker := sl.trackers.find? fun t => t.window = w

/-- Whether slot `k` can hand `n` more stores for window `w` to its interface: a tracker and places in the queue. -/
def State.windowRoom (s : State) (k w n : Nat) : Bool :=
  let sl := s.slot k
  ((sl.tracker? w).isSome || decide (sl.trackers.length < 8)) &&
  decide ((s.cluster (domainOf (coreOf k))).wq.length + n ≤ 64)

/-- Hands a store to the interface's window queue; the slot's tracker for the window is taken if need be. -/
def State.reflect (k w : Nat) (ea : Word) (l : List Byte) (s : State) : State :=
  let (id, s) : Nat × State := match (s.slot k).tracker? w with
    | some t => (t.id, s)
    | none =>
      let (n, s) := s.number
      (n, s.modSlot k fun (sl : Slot) => { sl with trackers := sl.trackers ++ [⟨n, w, 0, false, 0, 0, 0, 0⟩] })
  let d := domainOf (coreOf k)
  let (no, s) := s.number
  (s.modCluster d fun c => { c with wq := c.wq ++ [⟨k, id, no, s.corePart (coreOf k), w, ea, l⟩] }).post .windowPortTake (arg1 d)

/-! ## Lanes -/

/-- The lanes of an f register in a format (R60). -/
def lanesOf (f : Fmt) (q : QWord) : List Nat := (List.range f.lanes).map fun i => q.toNat / 2 ^ (f.width * i) % 2 ^ f.width

/-- The number that `w`-bit elements make, the first lowest. -/
def packLanes (w : Nat) : List Nat → Nat
  | [] => 0
  | v :: l => v % 2 ^ w + 2 ^ w * packLanes w l

/-- The bits of the lanes that a list of booleans selects. -/
def laneMask (f : Fmt) (l : List Bool) : QWord := BitVec.ofNat 128 (packLanes f.width (l.map fun b => if b then 2 ^ f.width - 1 else 0))

/-- Bytes of an element. -/
def Fmt.bytes (f : Fmt) : Nat := f.width / 8

/-- The lane mask the LANEP predicate gives (R212). -/
def State.laneBits (s : State) : Byte := s.p s.me.lanep

/-! ## Streams as operands (R214 to R218) -/

/-- The enabled stream that register `r` is, if it is one. -/
def State.streamAt (s : State) (r : Reg) : Option Stream :=
  if r.toNat < 4 then
    let st := look Stream.off s.me.streams r.toNat
    if st.enabled then some st else none
  else none

/-- The ILLEGAL cases of R215: a format that differs, a source that is a write stream, a destination that is a read stream. -/
def State.streamIllegal (m : BitVec 2) (dst : Option Reg) (srcs : List Reg) (s : State) : Bool :=
  (srcs.any fun r => match s.streamAt r with
    | some st => st.fmt != m || st.write
    | none => false) ||
  match dst with
  | none => false
  | some r => match s.streamAt r with
    | some st => st.fmt != m || !st.write
    | none => false

/-- The length n of R215. -/
def State.vecLen (f : Fmt) (regs : List Reg) (s : State) : Nat :=
  (regs.filterMap s.streamAt).foldl (fun n st => Nat.min n (st.count - st.pos)) f.lanes

/-- Every enabled stream among the operands moves on by n, once each. -/
def State.advance (regs : List Reg) (n : Nat) (s : State) : State :=
  ((regs.filter fun r => (s.streamAt r).isSome).map (·.toNat)).eraseDups.foldl
    (fun s r => s.modMe fun sl =>
      let st := look Stream.off sl.streams r
      { sl with streams := put r { st with pos := st.pos + n } sl.streams }) s

/-- Element `j` of a read stream, as the instruction that pops it reads it (R217, R218): it is read at the pop (DESIGN CHOICE, log entry 97). -/
def State.element (st : Stream) (j : Nat) (s : State) : Except (Bad × State) (Nat × State) :=
  let f := fmtOf st.fmt
  if st.acc then
    if (s.core s.myCore).vpoison then .error ((cPOISON, w64 (st.start + j), none), s)
    else .ok ((look 0 (s.core s.myCore).visible (st.start + j)).toNat, s)
  else
    let ea := st.base + w64 (j * f.bytes)
    match s.place ea f.bytes .load with
    | (.ok h, s) =>
      let s := s.settleStores s.cur h f.bytes
      match s.read s.myCore h f.bytes with
      | ((l, bad), s) => if bad then .error ((cPOISON, ea, none), s) else .ok (ofBytes l, s)
    | (.disc, s) => .ok (0, s)
    | (.window _, s) => .error ((cWINDOWLOAD, ea, none), s)
    | (.busy, s) => .error ((0, ea, none), s)
    | (.bad c e, s) => .error ((c, ea, e), s)

/-- Elements `j` to `j + n - 1` of a read stream. -/
def State.elements (st : Stream) (j : Nat) : Nat → State → Except (Bad × State) (List Nat × State)
  | 0, s => .ok ([], s)
  | n + 1, s => match s.element st j with
    | .error e => .error e
    | .ok (v, s) => match State.elements st (j + 1) n s with
      | .error e => .error e
      | .ok (l, s) => .ok (v :: l, s)

/-- The lanes a source operand gives: a register's, or the next n elements of a stream, +0 from n on. -/
def State.source (f : Fmt) (n : Nat) (r : Reg) (s : State) : Except (Bad × State) (List Nat × State) :=
  match s.streamAt r with
  | none => .ok (lanesOf f (s.f r), s)
  | some st => match State.elements st st.pos n s with
    | .error e => .error e
    | .ok (l, s) => .ok (l ++ List.replicate (f.lanes - n) 0, s)

/-- The lanes of all sources. -/
def State.sources (f : Fmt) (n : Nat) : List Reg → State → Except (Bad × State) (List (List Nat) × State)
  | [], s => .ok ([], s)
  | r :: rs, s => match s.source f n r with
    | .error e => .error e
    | .ok (l, s) => match State.sources f n rs s with
      | .error e => .error e
      | .ok (ls, s) => .ok (l :: ls, s)

/-- The checks of the elements a push writes (R217): all of them before any is stored. -/
def State.pushChecks (st : Stream) : List (Nat × Nat) → State → Except (Bad × State) (List PushTo × State)
  | [], s => .ok ([], s)
  | (j, v) :: l, s =>
    let f := fmtOf st.fmt
    let ea := st.base + w64 (j * f.bytes)
    match s.place ea f.bytes .store with
    | (.bad c e, s) => .error ((c, ea, e), s)
    | (.busy, s) => .error ((0, ea, none), s)
    | (.disc, s) => .error ((cDISCARDWRITE, ea, s.entryOf s.myCore ea), s)
    | (.window w, s) => match State.pushChecks st l s with
      | .error e => .error e
      | .ok (r, s) => .ok ((ea, v, .inr w) :: r, s)
    | (.ok h, s) => match State.pushChecks st l s with
      | .error e => .error e
      | .ok (r, s) => .ok ((ea, v, .inl h) :: r, s)

/-- The classes of the stores a push makes (R153): 2 plain stores, 8 reflected ones. -/
def pushMask (l : List PushTo) : BitVec 4 :=
  (if l.any fun p => p.2.2.isLeft then 2 else 0) ||| (if l.any fun p => p.2.2.isRight then 8 else 0)

/-- The windows a push goes through. -/
def pushWindows (l : List PushTo) : List Nat := l.filterMap fun p => match p.2.2 with
  | .inr w => some w
  | .inl _ => none

/-- Stores the elements of a push of slot `k`. -/
def State.pushAll (k bytes : Nat) (l : List PushTo) (s : State) : State :=
  l.foldl (fun s p => match p.2.2 with
    | .inl h => s.store k h (.bytes (toBytes bytes p.2.1))
    | .inr w => s.reflect k w p.1 (toBytes bytes p.2.1)) s

/-- Whether the window port has room for a push of slot `k`: places in its queue, and a tracker for every window it goes through (R341). -/
def State.pushRoom (k : Nat) (l : List PushTo) (s : State) : Bool :=
  let sl := s.slot k
  let ws := pushWindows l
  let more := (ws.filter fun w => (sl.tracker? w).isNone).eraseDups
  ws.isEmpty || (decide (sl.trackers.length + more.length ≤ 8) && decide ((s.cluster (domainOf (coreOf k))).wq.length + ws.length ≤ 64))

/-- Lanes 0 to n - 1 of a result for a write stream, those that `on` selects (R213, R215), checked; then `fin` with where they go. The
instruction traps, or waits for a fence or for room at the window port, with nothing pushed. -/
def State.pushPlan (st : Stream) (vals : List Nat) (on : List Bool) (n : Nat) (fin : List PushTo → State → State) (s : State) : State :=
  let els := ((List.range n).zip (vals.zip on)).filterMap fun e => if e.2.2 then some (st.pos + e.1, e.2.1) else none
  match State.pushChecks st els s with
  | .error (b, s) => s.bad b
  | .ok (l, s) =>
    if s.fenced s.cur (pushMask l) then s.waitFor (.fence (pushMask l))
    else if s.pushRoom s.cur l then fin l s
    else s.waitFor (.tracker ((pushWindows l).headD 0) (pushWindows l).length)

/-- A push made as the instruction retires. -/
def State.push (st : Stream) (vals : List Nat) (on : List Bool) (n : Nat) (fin : State → State) (s : State) : State :=
  s.pushPlan st vals on n fun l s => fin (s.pushAll s.cur (fmtOf st.fmt).bytes l)

/-- FLAGS of the core in hand, with more flags raised (R202). -/
def State.raise (fl : FFlags) (s : State) : State := s.modCore s.myCore fun c => { c with flags := c.flags ||| fl }

/-- The class of memory access that the streams among the sources make (R217, R189). -/
def State.streamMask (srcs : List Reg) (s : State) : BitVec 4 :=
  if srcs.any fun r => match s.streamAt r with
    | some st => !st.acc
    | none => false then 1 else 0

/-- A vector instruction of format code `m` with an f destination, or none, and its sources: ILLEGAL, `none` at n = 0, a
trap at a source, or `body` with n and the sources' lanes. -/
def State.vectorOr (i : Sys2Proof.Instr) (m : BitVec 2) (dst : Option Reg) (srcs : List Reg) (none : State → State)
    (body : Nat → List (List Nat) → State → State) (s : State) : State :=
  if s.streamIllegal m dst srcs then s.illegal i
  else if s.fenced s.cur (s.streamMask srcs) then s.waitFor (.fence (s.streamMask srcs))
  else
    let n := s.vecLen (fmtOf m) (dst.toList ++ srcs)
    if n = 0 then none s
    else match s.sources (fmtOf m) n srcs with
      | .error (b, s) => s.bad b
      | .ok (ls, s) => body n ls s

/-- A vector instruction that at n = 0 does nothing and retires (R215). -/
def State.vector (i : Sys2Proof.Instr) (m : BitVec 2) (dst : Option Reg) (srcs : List Reg) (sc : Nat)
    (body : Nat → List (List Nat) → State → State) (s : State) : State := s.vectorOr i m dst srcs (fun s => s.retire 4 sc) body

/-- The result of a vector instruction: its lanes where `on` selects them, of latency `lat`, or pushed; the flags are
raised and the streams move on as it retires. -/
def State.vecResult (m : BitVec 2) (rd : Reg) (regs : List Reg) (n : Nat) (vals : List Nat) (on : List Bool) (fl : FFlags)
    (lat sc : Nat) (s : State) : State :=
  let f := fmtOf m
  let fin := fun (s : State) => ((s.raise fl).advance regs n).retire 4 sc
  match s.streamAt rd with
  | some st => s.push st vals on n fin
  | none => fin (s.resultF rd (BitVec.ofNat 128 (packLanes f.width vals)) (laneMask f on) lat)

/-- The active lanes (R212): below n, and selected by LANEP. -/
def State.active (n lanes : Nat) (s : State) : List Bool :=
  (List.range lanes).map fun i => decide (i < n) && s.laneBits.getLsbD i

end Sys2Proof.Machine
end

