-- ==== Sys2Proof/Machine/Sync.lean ====
section
/-! DEFINITION. Words that slots wait on: full/empty words and their wakes (R171 to R173, R180 to R182), and barrier words and their arrivals (R113 to R116). -/

namespace Sys2Proof.Machine

/-- The doubleword at a home. -/
def State.word8 (s : State) (h : Home) : Word := w64 (ofBytes (s.homeBytes h 8))

/-- The instruction slot `k` is parked in completes with a result for an x register (R29, R69). -/
def State.deliverX (k : Nat) (r : Reg) (v : Word) (s : State) : State := (s.modSlot k (Slot.setX r v)).completeAt k 4

/-- A parked `ldsync` or `ldtake` of slot `k` gets its word (R180): a poisoned one traps. -/
def State.deliverSync (k : Nat) (h : Home) (addr : Word) (take : Bool) (rd : Nat) (s : State) : State :=
  if s.homePoison h then s.trapAt k cPOISON addr (s.slot k).pc none
  else
    let v := s.word8 h
    (if take then s.setHomeFull h false else s).deliverX k (BitVec.ofNat 5 rd) v

/-- The slots parked in `ldsync` or in `ldtake` on the word at `h`, with the order their waits reached the home. -/
def State.syncWaiters (s : State) (h : Home) (take : Bool) : List (Nat × Nat × Word × Nat) :=
  s.slots.filterMap fun e => match e.2.park with
    | .sync h' a t rd _ o => if h'.same h ∧ t = take then some (o, e.1, a, rd) else none
    | _ => none

/-- The least of a list by its first component. -/
def earliest {α : Type} : List (Nat × α) → Option (Nat × α)
  | [] => none
  | e :: l => match earliest l with
    | none => some e
    | some b => if e.1 ≤ b.1 then some e else some b

/-- A word that has become full wakes every `ldsync`, and then the `ldtake` that came first (R182). -/
def State.wakeFull (h : Home) (s : State) : State :=
  if !s.homeFull h then s else
  let s := (s.syncWaiters h false).foldl (fun s w => s.deliverSync w.2.1 h w.2.2.1 false w.2.2.2) s
  match earliest (s.syncWaiters h true) with
  | none => s
  | some (_, k, a, rd) => s.deliverSync k h a true rd

/-- A word set full; its waits are looked at when the cycle ends (R182). -/
def State.fillWord (h : Home) (s : State) : State := { s.setHomeFull h true with fills := s.fills ++ [h] }

/-- The end of a cycle: the waits of the words that were filled in it are looked at (R182). -/
def State.endFills (s : State) : State := s.fills.foldl (fun s h => s.wakeFull h) { s with fills := [] }

/-! ## Barrier words -/

/-- The fields of a barrier word (R113). -/
structure Barrier where
  phase    : Bool
  bytes    : Int
  expected : Nat
  arrived  : Nat
  early    : Nat
  top      : Bool
deriving DecidableEq, Repr

def Barrier.ofWord (w : Word) : Barrier :=
  ⟨w.getLsbD 0, (BitVec.ofNat 32 (w.toNat / 2)).toInt, wbits w 33 12, wbits w 45 12, wbits w 57 6, w.getLsbD 63⟩

def Barrier.word (b : Barrier) : Word :=
  w64 ((if b.phase then 1 else 0) + (b.bytes % (2 ^ 32 : Nat)).toNat * 2 + b.expected * 2 ^ 33 + b.arrived * 2 ^ 45 +
    b.early * 2 ^ 57 + (if b.top then 2 ^ 63 else 0))

/-- One arrival for phase bit `p` with `b` bytes (R114); none fails PHASE. -/
def Barrier.arrive (p : Bool) (b : Int) (w : Barrier) : Option Barrier :=
  let fin := fun (w : Barrier) =>
    if w.arrived = w.expected ∧ w.bytes = 0 then
      let w := { w with phase := !w.phase, arrived := w.early, early := 0 }
      if w.arrived = w.expected then { w with phase := !w.phase, arrived := 0 } else w
    else w
  if w.expected = 0 ∨ w.top then none
  else if p = w.phase then
    if w.arrived = w.expected ∨ w.bytes + b < -2147483648 ∨ 2147483647 < w.bytes + b then none
    else some (fin { w with arrived := w.arrived + 1, bytes := w.bytes + b })
  else if b ≠ 0 ∨ w.early = Nat.min w.expected 63 then none
  else some (fin { w with early := w.early + 1 })

/-- An arrival performed at its home: the word before it, or none where it fails PHASE and the word is unchanged. -/
def State.arriveAt (h : Home) (p : Bool) (b : Int) (s : State) : Option (Word × State) :=
  let w := s.word8 h
  match (Barrier.ofWord w).arrive p b with
  | none => none
  | some w' => some (w, s.homeWrite h (toBytes 8 w'.word.toNat))

end Sys2Proof.Machine
end

