-- ==== Sys2Proof/Machine/Scalar.lean ====
section
/-! DEFINITION. Scalar, immediate, shift, unary and bit-field instructions, and division (R80 to R88), with the steps that write a parked division's result. -/

namespace Sys2Proof.Machine

/-- A result of latency 1 in an x register, and the end of a 32-bit instruction. -/
def State.alu (rd : Reg) (v : Word) (sc : BitVec 3) (s : State) : State := (s.setX rd v).retire 4 sc.toNat

/-- A result of latency `l` in an x register, and the end of a 32-bit instruction. -/
def State.aluLate (rd : Reg) (v : Word) (l : Nat) (sc : BitVec 3) (s : State) : State := (s.resultX rd v l).retire 4 sc.toNat

/-- 1 or 0 as a word. -/
def flag (b : Bool) : Word := if b then 1 else 0

/-- The bits [127:64] of a product. -/
def highHalf (p : Int) : Word := BitVec.ofInt 64 (p / (2 ^ 64 : Nat))

/-! ## Division (R82) -/

/-- Signed quotient, truncated toward zero, with R82's corners. -/
def quotS (a b : Word) : Word :=
  if b = 0 then BitVec.allOnes 64
  else if a = 0x8000000000000000 ∧ b = BitVec.allOnes 64 then a
  else BitVec.ofInt 64 (Int.tdiv (sgn a) (sgn b))
/-- Signed remainder: a − q × b. -/
def remS (a b : Word) : Word :=
  if b = 0 then a
  else if a = 0x8000000000000000 ∧ b = BitVec.allOnes 64 then 0
  else a - quotS a b * b
def quotU (a b : Word) : Word := if b = 0 then BitVec.allOnes 64 else BitVec.ofNat 64 (a.toNat / b.toNat)
def remU (a b : Word) : Word := if b = 0 then a else a - quotU a b * b

/-- A division parks its slot; the result is written at the end of cycle t + 33. -/
def State.divide (rd : Reg) (v : Word) (sc : BitVec 3) (s : State) : State :=
  (s.parkMe (.divide rd.toNat v (s.cycle + 33) sc.toNat) sc.toNat).post .divideResult (arg1 s.cur)

/-! ## Unary and bit-field functions (R87, R88) -/

/-- Leading zero bits of an `n`-bit number. -/
def clzN : Nat → Nat → Nat
  | 0, _ => 0
  | n + 1, v => if v / 2 ^ n % 2 = 1 then 0 else 1 + clzN n v
/-- Trailing zero bits among the lowest `n`. -/
def ctzN : Nat → Nat → Nat
  | 0, _ => 0
  | n + 1, v => if v % 2 = 1 then 0 else 1 + ctzN n (v / 2)
/-- One bits among the lowest `n`. -/
def popN : Nat → Nat → Nat
  | 0, _ => 0
  | n + 1, v => v % 2 + popN n (v / 2)

/-- The width a field is cut to (R88). -/
def cutWidth (off wid : Nat) : Nat := Nat.min wid (64 - off)

def extractS (v : Word) (off wid : Nat) : Word := if wid = 0 then 0 else sextN (v >>> off) (cutWidth off wid)
def extractU (v : Word) (off wid : Nat) : Word := if wid = 0 then 0 else zextN (v >>> off) (cutWidth off wid)
def insertBits (old v : Word) (off wid : Nat) : Word :=
  if wid = 0 then old
  else
    let mask : Word := BitVec.ofNat 64 (2 ^ cutWidth off wid - 1) <<< off
    (old &&& ~~~mask) ||| ((v <<< off) &&& mask)

/-! ## Major 0x01 (R81, R82) -/

/-- `add` (R81). -/
def execAdd (rd ra rb : Reg) (sc : BitVec 3) (s : State) : Host.Outcome State Fault Refusal :=
  .next (s.alu rd (s.x ra + s.x rb) sc)

/-- `sub` (R81). -/
def execSub (rd ra rb : Reg) (sc : BitVec 3) (s : State) : Host.Outcome State Fault Refusal :=
  .next (s.alu rd (s.x ra - s.x rb) sc)

/-- `and` (R81). -/
def execAnd (rd ra rb : Reg) (sc : BitVec 3) (s : State) : Host.Outcome State Fault Refusal :=
  .next (s.alu rd (s.x ra &&& s.x rb) sc)

/-- `or` (R81). -/
def execOr (rd ra rb : Reg) (sc : BitVec 3) (s : State) : Host.Outcome State Fault Refusal :=
  .next (s.alu rd (s.x ra ||| s.x rb) sc)

/-- `xor` (R81). -/
def execXor (rd ra rb : Reg) (sc : BitVec 3) (s : State) : Host.Outcome State Fault Refusal :=
  .next (s.alu rd (s.x ra ^^^ s.x rb) sc)

/-- `sll` (R81). -/
def execSll (rd ra rb : Reg) (sc : BitVec 3) (s : State) : Host.Outcome State Fault Refusal :=
  .next (s.alu rd (s.x ra <<< wbits (s.x rb) 0 6) sc)

/-- `srl` (R81). -/
def execSrl (rd ra rb : Reg) (sc : BitVec 3) (s : State) : Host.Outcome State Fault Refusal :=
  .next (s.alu rd (s.x ra >>> wbits (s.x rb) 0 6) sc)

/-- `sra` (R81). -/
def execSra (rd ra rb : Reg) (sc : BitVec 3) (s : State) : Host.Outcome State Fault Refusal :=
  .next (s.alu rd ((s.x ra).sshiftRight (wbits (s.x rb) 0 6)) sc)

/-- `slt` (R81). -/
def execSlt (rd ra rb : Reg) (sc : BitVec 3) (s : State) : Host.Outcome State Fault Refusal :=
  .next (s.alu rd (flag (sgn (s.x ra) < sgn (s.x rb))) sc)

/-- `sltn` (R81). -/
def execSltn (rd ra rb : Reg) (sc : BitVec 3) (s : State) : Host.Outcome State Fault Refusal :=
  .next (s.alu rd (flag ((s.x ra).toNat < (s.x rb).toNat)) sc)

/-- `min` (R81). -/
def execMin (rd ra rb : Reg) (sc : BitVec 3) (s : State) : Host.Outcome State Fault Refusal :=
  .next (s.alu rd (if sgn (s.x ra) < sgn (s.x rb) then s.x ra else s.x rb) sc)

/-- `max` (R81). -/
def execMax (rd ra rb : Reg) (sc : BitVec 3) (s : State) : Host.Outcome State Fault Refusal :=
  .next (s.alu rd (if sgn (s.x ra) < sgn (s.x rb) then s.x rb else s.x ra) sc)

/-- `minn` (R81). -/
def execMinn (rd ra rb : Reg) (sc : BitVec 3) (s : State) : Host.Outcome State Fault Refusal :=
  .next (s.alu rd (if (s.x ra).toNat < (s.x rb).toNat then s.x ra else s.x rb) sc)

/-- `maxn` (R81). -/
def execMaxn (rd ra rb : Reg) (sc : BitVec 3) (s : State) : Host.Outcome State Fault Refusal :=
  .next (s.alu rd (if (s.x ra).toNat < (s.x rb).toNat then s.x rb else s.x ra) sc)

/-- `mul` (R81): the low half of the product. -/
def execMul (rd ra rb : Reg) (sc : BitVec 3) (s : State) : Host.Outcome State Fault Refusal :=
  .next (s.aluLate rd (s.x ra * s.x rb) 3 sc)

/-- `mulh` (R81): the high half of the signed product. -/
def execMulh (rd ra rb : Reg) (sc : BitVec 3) (s : State) : Host.Outcome State Fault Refusal :=
  .next (s.aluLate rd (highHalf (sgn (s.x ra) * sgn (s.x rb))) 3 sc)

/-- `mulhn` (R81): the high half of the unsigned product. -/
def execMulhn (rd ra rb : Reg) (sc : BitVec 3) (s : State) : Host.Outcome State Fault Refusal :=
  .next (s.aluLate rd (BitVec.ofNat 64 ((s.x ra).toNat * (s.x rb).toNat / 2 ^ 64)) 3 sc)

/-- `div` (R82). -/
def execDiv (rd ra rb : Reg) (sc : BitVec 3) (s : State) : Host.Outcome State Fault Refusal :=
  .next (s.divide rd (quotS (s.x ra) (s.x rb)) sc)

/-- `divn` (R82). -/
def execDivn (rd ra rb : Reg) (sc : BitVec 3) (s : State) : Host.Outcome State Fault Refusal :=
  .next (s.divide rd (quotU (s.x ra) (s.x rb)) sc)

/-- `rem` (R82). -/
def execRem (rd ra rb : Reg) (sc : BitVec 3) (s : State) : Host.Outcome State Fault Refusal :=
  .next (s.divide rd (remS (s.x ra) (s.x rb)) sc)

/-- `remn` (R82). -/
def execRemn (rd ra rb : Reg) (sc : BitVec 3) (s : State) : Host.Outcome State Fault Refusal :=
  .next (s.divide rd (remU (s.x ra) (s.x rb)) sc)

/-- `lea` (R81). -/
def execLea (rd ra rb : Reg) (k : BitVec 2) (sc : BitVec 3) (s : State) : Host.Outcome State Fault Refusal :=
  .next (s.alu rd (s.x ra + s.x rb <<< k.toNat) sc)

/-- `sel` (R81): rd is the condition. -/
def execSel (rd ra rb : Reg) (sc : BitVec 3) (s : State) : Host.Outcome State Fault Refusal :=
  .next (s.alu rd (if s.x rd ≠ 0 then s.x ra else s.x rb) sc)

/-! ## Immediates, shifts and constants (R83 to R86) -/

/-- `addi` (R83). -/
def execAddi (rd ra : Reg) (imm : BitVec 12) (sc : BitVec 3) (s : State) : Host.Outcome State Fault Refusal :=
  .next (s.alu rd (s.x ra + sx imm) sc)

/-- `andi` (R83). -/
def execAndi (rd ra : Reg) (imm : BitVec 12) (sc : BitVec 3) (s : State) : Host.Outcome State Fault Refusal :=
  .next (s.alu rd (s.x ra &&& sx imm) sc)

/-- `ori` (R83). -/
def execOri (rd ra : Reg) (imm : BitVec 12) (sc : BitVec 3) (s : State) : Host.Outcome State Fault Refusal :=
  .next (s.alu rd (s.x ra ||| sx imm) sc)

/-- `xori` (R83). -/
def execXori (rd ra : Reg) (imm : BitVec 12) (sc : BitVec 3) (s : State) : Host.Outcome State Fault Refusal :=
  .next (s.alu rd (s.x ra ^^^ sx imm) sc)

/-- `slti` (R83). -/
def execSlti (rd ra : Reg) (imm : BitVec 12) (sc : BitVec 3) (s : State) : Host.Outcome State Fault Refusal :=
  .next (s.alu rd (flag (sgn (s.x ra) < sgn (sx imm))) sc)

/-- `sltni` (R83). -/
def execSltni (rd ra : Reg) (imm : BitVec 12) (sc : BitVec 3) (s : State) : Host.Outcome State Fault Refusal :=
  .next (s.alu rd (flag ((s.x ra).toNat < (sx imm).toNat)) sc)

/-- `slli` (R84). -/
def execSlli (rd ra : Reg) (h : BitVec 6) (sc : BitVec 3) (s : State) : Host.Outcome State Fault Refusal :=
  .next (s.alu rd (s.x ra <<< h.toNat) sc)

/-- `srli` (R84). -/
def execSrli (rd ra : Reg) (h : BitVec 6) (sc : BitVec 3) (s : State) : Host.Outcome State Fault Refusal :=
  .next (s.alu rd (s.x ra >>> h.toNat) sc)

/-- `srai` (R84). -/
def execSrai (rd ra : Reg) (h : BitVec 6) (sc : BitVec 3) (s : State) : Host.Outcome State Fault Refusal :=
  .next (s.alu rd ((s.x ra).sshiftRight h.toNat) sc)

/-- `lui` (R85). -/
def execLui (rd : Reg) (imm : BitVec 20) (s : State) : Host.Outcome State Fault Refusal :=
  .next ((s.setX rd (sx imm <<< 12)).retire 4 0)

/-- `adpc` (R86). -/
def execAdpc (rd : Reg) (imm : BitVec 20) (s : State) : Host.Outcome State Fault Refusal :=
  .next ((s.setX rd ((s.me.pc + (imm.signExtend 48 <<< 1)).setWidth 64)).retire 4 0)

/-! ## Unary operations and bit fields (R87, R88) -/

/-- `clz` (R87). -/
def execClz (rd ra : Reg) (sc : BitVec 3) (s : State) : Host.Outcome State Fault Refusal :=
  .next (s.alu rd (w64 (clzN 64 (s.x ra).toNat)) sc)

/-- `ctz` (R87). -/
def execCtz (rd ra : Reg) (sc : BitVec 3) (s : State) : Host.Outcome State Fault Refusal :=
  .next (s.alu rd (w64 (ctzN 64 (s.x ra).toNat)) sc)

/-- `popc` (R87). -/
def execPopc (rd ra : Reg) (sc : BitVec 3) (s : State) : Host.Outcome State Fault Refusal :=
  .next (s.alu rd (w64 (popN 64 (s.x ra).toNat)) sc)

/-- `sxb` (R87). -/
def execSxb (rd ra : Reg) (sc : BitVec 3) (s : State) : Host.Outcome State Fault Refusal :=
  .next (s.alu rd (sextN (s.x ra) 8) sc)

/-- `sxh` (R87). -/
def execSxh (rd ra : Reg) (sc : BitVec 3) (s : State) : Host.Outcome State Fault Refusal :=
  .next (s.alu rd (sextN (s.x ra) 16) sc)

/-- `sxw` (R87). -/
def execSxw (rd ra : Reg) (sc : BitVec 3) (s : State) : Host.Outcome State Fault Refusal :=
  .next (s.alu rd (sextN (s.x ra) 32) sc)

/-- `zxb` (R87). -/
def execZxb (rd ra : Reg) (sc : BitVec 3) (s : State) : Host.Outcome State Fault Refusal :=
  .next (s.alu rd (zextN (s.x ra) 8) sc)

/-- `zxh` (R87). -/
def execZxh (rd ra : Reg) (sc : BitVec 3) (s : State) : Host.Outcome State Fault Refusal :=
  .next (s.alu rd (zextN (s.x ra) 16) sc)

/-- `zxw` (R87). -/
def execZxw (rd ra : Reg) (sc : BitVec 3) (s : State) : Host.Outcome State Fault Refusal :=
  .next (s.alu rd (zextN (s.x ra) 32) sc)

/-- `bexs` (R88). -/
def execBexs (rd ra : Reg) (o w : BitVec 6) (sc : BitVec 3) (s : State) : Host.Outcome State Fault Refusal :=
  .next (s.alu rd (extractS (s.x ra) o.toNat w.toNat) sc)

/-- `bexn` (R88). -/
def execBexn (rd ra : Reg) (o w : BitVec 6) (sc : BitVec 3) (s : State) : Host.Outcome State Fault Refusal :=
  .next (s.alu rd (extractU (s.x ra) o.toNat w.toNat) sc)

/-- `bins` (R88). -/
def execBins (rd ra : Reg) (o w : BitVec 6) (sc : BitVec 3) (s : State) : Host.Outcome State Fault Refusal :=
  .next (s.alu rd (insertBits (s.x rd) (s.x ra) o.toNat w.toNat) sc)

/-! ## The result of a division (R82) -/

/-- The division slot `k` is parked in is done: its result, and the stall count from cycle `due` on. -/
def State.divideDone (k rd : Nat) (v : Word) (due sc : Nat) (s : State) : State :=
  (s.deliverX k (BitVec.ofNat 5 rd) v).modSlot k fun sl => { sl with ready := due + 1 + sc }

/-- DIVIDE_RESULT: the parked division of slot `arg.a` writes its result at the end of its cycle, and the slot may issue again. -/
def execDivideResult (s : State) : Host.Outcome State Fault Refusal :=
  let k := s.arg.a
  .next (match (s.slot k).park with
    | .divide rd v due sc => if due < s.cycle then s.divideDone k rd v due sc else s.defer
    | _ => s)

end Sys2Proof.Machine
end

