-- ==== Sys2Proof/Machine/LoadStore.lean ====
section
/-! DEFINITION. Loads and stores (R176 to R179, R216), the return of a load's data, and the performing of a retired store or atomic at its home (R167, R177). -/

namespace Sys2Proof.Machine

/-- The value `n` loaded bytes give an x register (R178). -/
def loadValue (signed : Bool) (l : List Byte) : Word :=
  let v := w64 (ofBytes l)
  if signed then sextN v (8 * l.length) else v

/-- The data of a load goes where it belongs (R178, R216): an x register, an f register, or a write stream; `lat` is its
latency, 0 for a parked load; `fin` ends the instruction. -/
def State.loaded (ld : OutLoad) (l : List Byte) (lat : Nat) (fin : State → State) (s : State) : State :=
  let q := BitVec.ofNat 128 (ofBytes l)
  match ld.stream with
  | some i =>
    let st := look Stream.off s.me.streams i
    let f := fmtOf st.fmt
    let n := Nat.min f.lanes (st.count - st.pos)
    s.push st (lanesOf f q) (List.replicate f.lanes true) n (fun s => fin (s.advance [BitVec.ofNat 5 i] n))
  | none =>
    if ld.toF then
      fin (if lat = 0 then s.setF (BitVec.ofNat 5 ld.rd) q else s.resultF (BitVec.ofNat 5 ld.rd) q (BitVec.allOnes 128) lat)
    else
      let v := loadValue ld.signed l
      fin (if lat = 0 then s.setX (BitVec.ofNat 5 ld.rd) v else s.resultX (BitVec.ofNat 5 ld.rd) v lat)

/-- A load of `n` bytes by the slot in hand. One served locally is performed as it issues (DESIGN CHOICE, log entry 70), with latency 4
(R69), which a 16-bit form waits out before its slot issues again (R70); any other parks the slot until the data comes; a discarded page gives zero with no memory access (R150). -/
def State.load (i : Sys2Proof.Instr) (ea : Word) (n : Nat) (rd : Reg) (toF signed : Bool) (sc : Nat) (s : State) : State :=
  let strm := if toF then s.streamAt rd else none
  if strm.any fun st => !st.write then s.illegal i
  else if s.fenced s.cur 1 then s.waitFor (.fence 1)
  else
    let ld := fun (h : Home) (z : Bool) => (⟨ea, h, n, rd.toNat, toF, signed, strm.map fun _ => rd.toNat, z, none⟩ : OutLoad)
    let later := fun (l : OutLoad) (s : State) => (s.parkMe (.load l i.len sc) sc).post .loadDataReturn (arg1 s.cur)
    s.access ea n .load
      (fun h s =>
        if s.servedLocally s.myCore h then
          let s := s.settleStores s.cur h n
          match s.read s.myCore h n with
          | ((l, bad), s) => if bad then s.trap cPOISON ea else s.loaded (ld h false) l 4 (fun s => s.retire i.len (if i.len = 2 then 3 else sc))
        else later (ld h false) s)
      (later (ld (.sram 0 0) true))
      (fun _ s => s.trap cWINDOWLOAD ea)

/-- The address of an L/S form: x[ra] + sext(imm10) × n (R176, R178). -/
def State.lsAddr (ra : Reg) (imm : BitVec 10) (n : Nat) (s : State) : Word := s.x ra + sx imm * w64 n

/-- Bytes of an x-register access and of an f-register access by its size code (R75). -/
def xBytes (z : BitVec 2) : Nat := 2 ^ z.toNat
def fBytes (z : BitVec 2) : Nat := 2 ^ (z.toNat + 1)

/-- A store of the slot in hand: to its home, or through a transmit window, a 128-bit one as two halves (R337), held back by a fence on
stores or on reflected stores (R189); `fin` ends the instruction. -/
def State.storeAccess (ea : Word) (l : List Byte) (fin : State → State) (s : State) : State :=
  s.access ea l.length .store
    (fun h s => if s.fenced s.cur 2 then s.waitFor (.fence 2) else fin (s.store s.cur h (.bytes l)))
    (State.discardTrap ea)
    (fun w s =>
      let halves := if l.length = 16 then 2 else 1
      if s.fenced s.cur 8 then s.waitFor (.fence 8)
      else if !s.windowRoom s.cur w halves then s.waitFor (.tracker w halves)
      else if halves = 2 then fin ((s.reflect s.cur w ea (l.take 8)).reflect s.cur w (ea + 8) (l.drop 8))
      else fin (s.reflect s.cur w ea l))

/-- A store instruction of an x register. -/
def State.storeX (ea : Word) (n : Nat) (v : Word) (len sc : Nat) (s : State) : State :=
  s.storeAccess ea (toBytes n v.toNat) (fun s => s.retire len sc)

/-! ## Majors 0x17 to 0x1B (R178) -/

/-- `ld` (R178). -/
def execLd (rd ra : Reg) (z : BitVec 2) (imm : BitVec 10) (sc : BitVec 3) (s : State) : Host.Outcome State Fault Refusal :=
  .next (s.load (.ld rd ra z imm sc) (s.lsAddr ra imm (xBytes z)) (xBytes z) rd false true sc.toNat)

/-- `ldn` (R178). -/
def execLdn (rd ra : Reg) (z : BitVec 2) (imm : BitVec 10) (sc : BitVec 3) (s : State) : Host.Outcome State Fault Refusal :=
  .next (s.load (.ldn rd ra z imm sc) (s.lsAddr ra imm (xBytes z)) (xBytes z) rd false false sc.toNat)

/-- `fld` (R178, R216). -/
def execFld (rd ra : Reg) (z : BitVec 2) (imm : BitVec 10) (sc : BitVec 3) (s : State) : Host.Outcome State Fault Refusal :=
  .next (s.load (.fld rd ra z imm sc) (s.lsAddr ra imm (fBytes z)) (fBytes z) rd true false sc.toNat)

/-- `st` (R178). -/
def execSt (rd ra : Reg) (z : BitVec 2) (imm : BitVec 10) (sc : BitVec 3) (s : State) : Host.Outcome State Fault Refusal :=
  .next (s.storeX (s.lsAddr ra imm (xBytes z)) (xBytes z) (s.x rd) 4 sc.toNat)

/-- `fst` (R178, R216): from a register, or from a read stream, which it pops. -/
def execFst (rd ra : Reg) (z : BitVec 2) (imm : BitVec 10) (sc : BitVec 3) (s : State) : Host.Outcome State Fault Refusal :=
  let ea := s.lsAddr ra imm (fBytes z)
  let bytes := fun (q : Nat) => toBytes (fBytes z) q
  .next (match s.streamAt rd with
    | none => s.storeAccess ea (bytes (s.f rd).toNat) (fun s => s.retire 4 sc.toNat)
    | some st =>
      if st.write then s.illegal (.fst rd ra z imm sc)
      else if !st.acc && s.fenced s.cur 1 then s.waitFor (.fence 1)
      else
        let f := fmtOf st.fmt
        let n := Nat.min f.lanes (st.count - st.pos)
        match s.elements st st.pos n with
        | .error (b, s) => s.bad b
        | .ok (l, s) => s.storeAccess ea (bytes (packLanes f.width l)) (fun s => (s.advance [rd] n).retire 4 sc.toNat))

/-! ## The other side of loads and stores -/

/-- The data of slot `k`'s load comes back (from a cluster that has since begun a reset it traps, R131); of a 128-bit load one half and then the other, the upper first where `upper` says so, since no
order between them is kept (R155). -/
def State.returnLoad (k : Nat) (ld : OutLoad) (len sc : Nat) (upper : Bool) (s : State) : State :=
  let old := s.cur
  let s := { s with cur := k }
  let fin := fun (l : List Byte) (s : State) => s.loaded ld l 0 (fun s => s.completeAt k len)
  let get := fun (h : Home) (n : Nat) (f : List Byte → State → State) (s : State) =>
    if s.closed h then s.trap cPROTECTION ld.addr else
    match (s.settleStores k h n).read (coreOf k) h n with
    | ((l, bad), s) => if bad then s.trap cPOISON ld.addr else f l s
  let s :=
    if ld.zero then fin (List.replicate ld.size 0) s
    else if ld.size ≠ 16 then get ld.home ld.size fin s
    else match ld.half with
      | none => get (ld.home.plus (if upper then 8 else 0)) 8 (fun l s =>
          (s.modSlot k fun sl => { sl with park := .load { ld with half := some (upper, l) } len sc }).post .loadDataReturn (arg1 k)) s
      | some (true, hi) => get ld.home 8 (fun l => fin (l ++ hi)) s
      | some (false, lo) => get (ld.home.plus 8) 8 (fun l => fin (lo ++ l)) s
  { s with cur := old }

/-- LOAD_DATA_RETURN (R69): the data of slot `arg.a`'s load, or a half of it, returns as its home has it at this moment (R155); poisoned data
traps. -/
def execLoadDataReturn (s : State) : Host.Outcome State Fault Refusal :=
  .next (match (s.slot s.arg.a).park with
    | .load ld len sc => s.returnLoad s.arg.a ld len sc (s.arg.b % 2 = 1)
    | _ => s)

/-- The flags and the new value of an atomic (R185, R186), by its fn field, on `w`-bit operands. -/
def amoNew (op w : Nat) (old v c : Nat) : Option Nat × FFlags :=
  let sg := fun (n : Nat) => toSigned w n
  let lanes := fun (f : Nat → Nat → Nat × FFlags) =>
    if w = 32 then let r := f old v; (some r.1, r.2)
    else
      let a := f (old % 2 ^ 32) (v % 2 ^ 32)
      let b := f (old / 2 ^ 32) (v / 2 ^ 32)
      (some (a.1 + 2 ^ 32 * b.1), a.2 ||| b.2)
  match op with
  | 0 => (some ((old + v) % 2 ^ w), 0)
  | 1 => (some (Nat.land old v), 0)
  | 2 => (some (Nat.lor old v), 0)
  | 3 => (some (Nat.xor old v), 0)
  | 4 => (some (if sg v < sg old then v else old), 0)
  | 5 => (some (if sg old < sg v then v else old), 0)
  | 6 => (some (Nat.min old v), 0)
  | 7 => (some (Nat.max old v), 0)
  | 8 => (some v, 0)
  | 9 => (if old = c then some v else none, 0)
  | 10 => lanes (Fmt.f32.fadd mRNE)
  | _ => lanes (Fmt.f32.pick true)

/-- The atomic slot `k` is parked in is performed at its home (R168, R185 to R187): poisoned data traps, the line leaves the
own cluster's L1, the old value is the result, and an acquire takes effect. It waits for an earlier store of the slot to the same bytes
(grid cell A of R158). -/
def State.performAmo (k : Nat) (a : OutAmo) (s : State) : State :=
  if (s.slot k).stores.any fun p => p.overlaps a.home a.size then s.defer
  else if s.closed a.home then s.trapAt k cPROTECTION a.addr (s.slot k).pc none else
  let s := s.touch a.home
  if s.homePoison a.home then s.trapAt k cPOISON a.addr (s.slot k).pc none
  else
    let old := ofBytes (s.homeBytes a.home a.size)
    let r := amoNew a.op (8 * a.size) old (a.v.toNat % 2 ^ (8 * a.size)) (a.c.toNat % 2 ^ (8 * a.size))
    let s := match r.1 with
      | some v => s.homeWrite a.home (toBytes a.size v)
      | none => s
    let s := match a.home with
      | .dram _ pa _ _ => if isSup (coreOf k) then s else s.dropL1 (clusterOf (coreOf k)) pa
      | _ => s
    let s := s.modCore (coreOf k) fun c => { c with flagsDue := c.flagsDue ||| r.2 }
    let s := if a.aq then s.acquire k a.scope else s
    s.deliverX k (BitVec.ofNat 5 a.rd) (w64 old)


/-- STORE_PERFORMED_AT_HOME (R167): the oldest retired write of slot `arg.a` is performed and acknowledged; with none left,
the atomic the slot is parked in. Words that `feclr` empties go one at a time (R181). -/
def execStorePerformedAtHome (s : State) : Host.Outcome State Fault Refusal :=
  let k := s.arg.a
  .next (match (s.slot k).stores[s.arg.b]? with
    | some p =>
      if ((s.slot k).stores.take s.arg.b).any fun q => q.overlaps p.home p.op.size then s.defer
      else match p.op with
      | .clearFull (n + 2) =>
        ((s.modSlot k fun sl => { sl with stores := setNth sl.stores s.arg.b ⟨p.home.plus 8, .clearFull (n + 1)⟩ }).performStore k
          ⟨p.home, .clearFull 1⟩).post .storePerformedAtHome (arg2 k s.arg.b)
      | _ =>
        let sl := s.slot k
        let s := s.setSlot k { sl with
          stores := dropNth sl.stores s.arg.b,
          fences := sl.fences.map fun f => { f with stores := if s.arg.b < f.stores then f.stores - 1 else f.stores } }
        s.performStore k p
    | none => match (s.slot k).park with
      | .amo a => s.performAmo k a
      | _ => s)

end Sys2Proof.Machine
end

