-- ==== Sys2Proof/Machine/Sharing.lean ====
section
/-! DEFINITION. Full/empty instructions (R180 to R183), the nibble store (R184), atomics (R185 to R187), barrier words (R113 to R116), fences, releases, acquires and cache instructions (R188 to R192), and group instructions (R117, R324, R325). -/

namespace Sys2Proof.Machine

/-- What follows once a release at a scope is met; the instruction waits until then (R190, R164). -/
def State.releasing (sc : Scope) (f : State → State) (s : State) : State :=
  if s.released s.cur sc then f s else s.waitFor (.release sc)

/-- What follows an invocation send's release (R158, R164). -/
def State.sendReleasing (sc : Scope) (f : State → State) (s : State) : State :=
  if s.sendReleased s.cur sc then f s else s.waitFor (.send sc)

/-- What follows once the slot's earlier loads, atomics and sends are performed (column Aq of R158, R190). -/
def State.afterLoads (f : State → State) (s : State) : State :=
  if s.loadsPerformed s.cur && s.sendsPerformed s.cur then f s else s.waitFor .loads

/-- What follows once the slot's earlier sends are performed (column SL of R158). -/
def State.afterSends (f : State → State) (s : State) : State := if s.sendsPerformed s.cur then f s else s.waitFor .sends

/-- The own cluster's L1 loses a line an atomic acts on (R187). -/
def State.dropOwn (h : Home) (s : State) : State :=
  match h with
  | .dram _ pa _ _ => if isSup s.myCore then s else s.dropL1 (clusterOf s.myCore) pa
  | _ => s

/-! ## Full/empty instructions -/

/-- `ldsync` and `ldtake` (R180): the wait is registered at the word's home, and ends at once where the word is full. -/
def State.syncLoad (take : Bool) (rd ra : Reg) (sc : Nat) (s : State) : State :=
  if s.fenced s.cur 1 then s.waitFor (.fence 1)
  else
    let ea := s.x ra
    s.accessHome ea 8 .atomic fun h s => s.afterSends fun s =>
      let s := (s.settleStores s.cur h 8).touch h
      let (o, s) := s.number
      let s := s.parkMe (.sync h ea take rd.toNat sc o) sc
      if s.homeFull h then s.deliverSync s.cur h ea take rd.toNat else s

/-- `ldsync` (R180). -/
def execLdsync (rd ra : Reg) (sc : BitVec 3) (s : State) : Host.Outcome State Fault Refusal := .next (s.syncLoad false rd ra sc.toNat)

/-- `ldtake` (R180). -/
def execLdtake (rd ra : Reg) (sc : BitVec 3) (s : State) : Host.Outcome State Fault Refusal := .next (s.syncLoad true rd ra sc.toNat)

/-- `stfill` (R180): a release at chip scope, then the word is written and full, and its waiters wake. -/
def execStfill (rd ra : Reg) (sc : BitVec 3) (s : State) : Host.Outcome State Fault Refusal :=
  let ea := s.x ra
  let v := s.x rd
  .next (if s.fenced s.cur 2 then s.waitFor (.fence 2)
    else s.accessHome ea 8 .atomic fun h s =>
      s.releasing .ch fun s =>
        ((((s.homeWrite h (toBytes 8 v.toNat)).dropOwn h).fillWord h).retire 4 sc.toNat))

/-- Whether `n` words from `ea` lie in one 64 KiB page, or within one cluster's scratchpad (R181). -/
def wordRange (ea : Word) (n : Nat) : Bool :=
  decide (n ≤ 8192) &&
  (if ea.getLsbD 63 then decide (wbits ea 0 20 + 8 * n ≤ 0x100000) else decide (ea.toNat % 65536 + 8 * n ≤ 65536))

/-- `feclr` (R181): the words of the range are emptied, as stores. -/
def execFeclr (ra rb : Reg) (sc : BitVec 3) (s : State) : Host.Outcome State Fault Refusal :=
  let ea := s.x ra
  let n := (s.x rb).toNat
  .next (if n = 0 then s.retire 4 sc.toNat
    else if s.fenced s.cur 2 then s.waitFor (.fence 2)
    else if ea.toNat % 8 ≠ 0 then s.trap cMISALIGN ea
    else if !wordRange ea n then s.trap cPROTECTION ea
    else match s.check s.myCore ea (8 * n) .atomic with
      | (.ok h, s) => (s.store s.cur h (.clearFull n)).retire 4 sc.toNat
      | (.disc, s) => s.discardTrap ea
      | (.window _, s) => s.trap cWINDOWLOAD ea
      | (.busy, s) => s.waitFor .walk
      | (.bad c e, s) => s.trapEntry c ea e)

/-! ## The nibble store and atomics -/

/-- `stnib` (R184). -/
def execStnib (rd ra rb : Reg) (sc : BitVec 3) (s : State) : Host.Outcome State Fault Refusal :=
  let i := s.x rb
  let v : BitVec 4 := (s.x rd).setWidth 4
  .next (if s.fenced s.cur 3 then s.waitFor (.fence 3)
    else s.accessHome (s.x ra + (i >>> 1)) 1 .atomic fun h s =>
      (s.store s.cur h (.nibble (i.getLsbD 0) v)).retire 4 sc.toNat)

/-- An atomic by its fn field (R185): the checks, the release of rl, and the park until its home has performed it. -/
def State.amo (op : Nat) (rd ra rb : Reg) (z l q : BitVec 1) (c : BitVec 2) (s : State) : State :=
  let n := if z = 1 then 8 else 4
  let ea := s.x ra
  let v := s.x rb
  let cmp := s.x rd
  if s.fenced s.cur 3 then s.waitFor (.fence 3)
  else s.accessHome ea n .atomic fun h s =>
    let go := fun (s : State) =>
      (s.parkMe (.amo ⟨op, h, ea, n, v, cmp, rd.toNat, q = 1, scopeOf c⟩) 0).post .storePerformedAtHome (arg2 s.cur 0)
    if l = 1 then s.releasing (scopeOf c) go else go s

/-- `amo.add` (R185). -/
def execAmoAdd (rd ra rb : Reg) (z l q : BitVec 1) (c : BitVec 2) (s : State) : Host.Outcome State Fault Refusal :=
  .next (s.amo 0 rd ra rb z l q c)

/-- `amo.and` (R185). -/
def execAmoAnd (rd ra rb : Reg) (z l q : BitVec 1) (c : BitVec 2) (s : State) : Host.Outcome State Fault Refusal :=
  .next (s.amo 1 rd ra rb z l q c)

/-- `amo.or` (R185). -/
def execAmoOr (rd ra rb : Reg) (z l q : BitVec 1) (c : BitVec 2) (s : State) : Host.Outcome State Fault Refusal :=
  .next (s.amo 2 rd ra rb z l q c)

/-- `amo.xor` (R185). -/
def execAmoXor (rd ra rb : Reg) (z l q : BitVec 1) (c : BitVec 2) (s : State) : Host.Outcome State Fault Refusal :=
  .next (s.amo 3 rd ra rb z l q c)

/-- `amo.min` (R185). -/
def execAmoMin (rd ra rb : Reg) (z l q : BitVec 1) (c : BitVec 2) (s : State) : Host.Outcome State Fault Refusal :=
  .next (s.amo 4 rd ra rb z l q c)

/-- `amo.max` (R185). -/
def execAmoMax (rd ra rb : Reg) (z l q : BitVec 1) (c : BitVec 2) (s : State) : Host.Outcome State Fault Refusal :=
  .next (s.amo 5 rd ra rb z l q c)

/-- `amo.minn` (R185). -/
def execAmoMinn (rd ra rb : Reg) (z l q : BitVec 1) (c : BitVec 2) (s : State) : Host.Outcome State Fault Refusal :=
  .next (s.amo 6 rd ra rb z l q c)

/-- `amo.maxn` (R185). -/
def execAmoMaxn (rd ra rb : Reg) (z l q : BitVec 1) (c : BitVec 2) (s : State) : Host.Outcome State Fault Refusal :=
  .next (s.amo 7 rd ra rb z l q c)

/-- `amo.swap` (R185). -/
def execAmoSwap (rd ra rb : Reg) (z l q : BitVec 1) (c : BitVec 2) (s : State) : Host.Outcome State Fault Refusal :=
  .next (s.amo 8 rd ra rb z l q c)

/-- `amo.cas` (R185). -/
def execAmoCas (rd ra rb : Reg) (z l q : BitVec 1) (c : BitVec 2) (s : State) : Host.Outcome State Fault Refusal :=
  .next (s.amo 9 rd ra rb z l q c)

/-- `amo.fadd` (R185). -/
def execAmoFadd (rd ra rb : Reg) (z l q : BitVec 1) (c : BitVec 2) (s : State) : Host.Outcome State Fault Refusal :=
  .next (s.amo 10 rd ra rb z l q c)

/-- `amo.fmax` (R185). -/
def execAmoFmax (rd ra rb : Reg) (z l q : BitVec 1) (c : BitVec 2) (s : State) : Host.Outcome State Fault Refusal :=
  .next (s.amo 11 rd ra rb z l q c)

/-! ## Fences, acquires, releases and the caches -/

/-- `fence` (R189): records its condition; with both sets empty it records none. -/
def execFence (p u : BitVec 4) (c : BitVec 2) (sc : BitVec 3) (s : State) : Host.Outcome State Fault Refusal :=
  .next (if p = 0 ∧ u = 0 then s.retire 4 sc.toNat
    else (s.modMe fun sl => { sl with fences := sl.fences ++ [⟨scopeOf c, p, u, sl.stores.length, s.serial, sl.cmds, none⟩] }).retire 4 sc.toNat)

/-- `acq` (R190): waits until the slot's earlier loads and atomics are performed; the L1 is invalidated. -/
def execAcq (c : BitVec 2) (sc : BitVec 3) (s : State) : Host.Outcome State Fault Refusal :=
  .next (s.afterLoads fun s => (s.acquire s.cur (scopeOf c)).retire 4 sc.toNat)

/-- `rel` (R190). -/
def execRel (c : BitVec 2) (sc : BitVec 3) (s : State) : Host.Outcome State Fault Refusal :=
  .next (s.releasing (scopeOf c) fun s => s.retire 4 sc.toNat)

/-- `l1inv` (R156, R188). -/
def execL1inv (sc : BitVec 3) (s : State) : Host.Outcome State Fault Refusal :=
  .next (s.afterLoads fun s => (s.flushL1 (domainOf s.myCore)).retire 4 sc.toNat)

/-- The leaf held for an address. -/
def State.leafOf (s : State) (c : Nat) (a : Word) : Option Leaf := tlbFind (s.cluster (domainOf c)).tlb (a.toNat / 65536)

/-- Whether the page of an address has WTYPE 0, as far as the core's held leaf says. -/
def State.noWindow (s : State) (c : Nat) (a : Word) : Bool :=
  match s.leafOf c a with
  | some l => decide (wbits l.word 34 2 = 0)
  | none => false

/-- `l2wb` (R191): writes a dirty line to LPDDR 6, for which the slot parks; traps as a load does at checks 2 to 4. -/
def execL2wb (ra : Reg) (sc : BitVec 3) (s : State) : Host.Outcome State Fault Refusal :=
  let ea := s.x ra
  let fin := fun (s : State) => s.retire 4 sc.toNat
  .next (if ea.getLsbD 63 then
      (if wbits ea 32 31 ≠ 0 ∨ wbits ea 20 4 ≠ 0 then s.trap cPROTECTION ea else fin s)
    else match s.check s.myCore ea 1 ⟨true, false, false, false⟩ with
      | (.ok (.dram sl pa p _), s) => if p = 2 ∨ !s.noWindow s.myCore ea then fin s
          else (s.parkMe (.clean sl pa sc.toNat) sc.toNat).post .slotWake (arg1 s.cur)
      | (.bad c e, s) => s.trapEntry c ea e
      | (.busy, s) => s.waitFor .walk
      | (_, s) => fin s)

/-- `l2zero` (R192): zeroes a line, as a store. -/
def execL2zero (ra : Reg) (sc : BitVec 3) (s : State) : Host.Outcome State Fault Refusal :=
  let ea := s.x ra
  .next (if s.fenced s.cur 2 then s.waitFor (.fence 2)
    else s.accessHome ea 64 ⟨false, true, false, true⟩ fun h s => (s.store s.cur h .zeroLine).retire 4 sc.toNat)

/-- `pfetch` (R191): brings a line in, or does nothing; it never traps and never waits. -/
def execPfetch (ra : Reg) (sc : BitVec 3) (s : State) : Host.Outcome State Fault Refusal :=
  let ea := s.x ra
  .next (if ea.getLsbD 63 then s.retire 4 sc.toNat
    else match s.check s.myCore ea 1 .load with
      | (.ok h, s) => match h with
        | .dram _ _ p _ => (if p = 2 ∨ !s.noWindow s.myCore ea then s else (s.read s.myCore h 1).2).retire 4 sc.toNat
        | _ => s.retire 4 sc.toNat
      | (_, s) => s.retire 4 sc.toNat)

/-! ## Barrier words (R115) -/

/-- An arrival of the slot in hand with phase bit `p` and `b` bytes: the checks of a 64-bit atomic, the release, and the
update at the home; then `fin` with the word before it. A failed arrival traps PHASE. -/
def State.arrival (ea : Word) (p : Bool) (b : Int) (m : BitVec 2) (fin : Home → Word → State → State) (s : State) : State :=
  s.access ea 8 .atomic
    (fun h s => s.releasing (scopeOf m) fun s =>
      let s := s.touch h
      if s.homePoison h then s.trap cPOISON ea
      else match s.arriveAt h p b with
        | none => s.trap cPHASE ea
        | some (w, s) => fin h w (s.dropOwn h))
    (fun s => s.trap cPHASE ea)
    (fun _ s => s.trap cWINDOWLOAD ea)

/-- The wait of `wfa`, and of `wfp` where its condition does not hold. -/
def State.awaitPhase (h : Home) (ea : Word) (p : Bool) (rd : Reg) (sc : Nat) (m : BitVec 2) (s : State) : State :=
  (s.parkMe (.barrier (some h) ea p rd.toNat sc (scopeOf m)) sc).post .slotWake (arg1 s.cur)

/-- `wfa` (R115). -/
def execWfa (rd ra rb : Reg) (m : BitVec 2) (sc : BitVec 3) (s : State) : Host.Outcome State Fault Refusal :=
  let ea := s.x ra
  let p := (s.x rb).getLsbD 0
  .next (s.arrival ea p 0 m fun h _ s => s.awaitPhase h ea p rd sc.toNat m)

/-- `wfp` (R115): waits without arriving; where its condition holds, and on a discarded page, it completes without parking. -/
def execWfp (rd ra rb : Reg) (m : BitVec 2) (sc : BitVec 3) (s : State) : Host.Outcome State Fault Refusal :=
  let ea := s.x ra
  let p := (s.x rb).getLsbD 0
  .next (s.access ea 8 .atomic
    (fun h s =>
      let s := (s.settleStores s.cur h 8).touch h
      if s.homePoison h then s.trap cPOISON ea
      else s.afterLoads fun s =>
        if (s.word8 h).getLsbD 0 ≠ p then ((s.acquire s.cur (scopeOf m)).setX rd (s.word8 h)).retire 4 sc.toNat
        else s.awaitPhase h ea p rd sc.toNat m)
    (fun s => s.afterLoads fun s => ((s.acquire s.cur (scopeOf m)).setX rd 0).retire 4 sc.toNat)
    (fun _ s => s.trap cWINDOWLOAD ea))

/-- `arr` (R115): the result is delivered by parking. -/
def execArr (rd ra rb : Reg) (m : BitVec 2) (sc : BitVec 3) (s : State) : Host.Outcome State Fault Refusal :=
  .next (s.arrival (s.x ra) ((s.x rb).getLsbD 0) 0 m fun _ w s => s.giveX rd w sc.toNat)

/-- `arrx` (R115): adds x[rb][63:32] bytes; bit 63 set traps PHASE. -/
def execArrx (rd ra rb : Reg) (m : BitVec 2) (sc : BitVec 3) (s : State) : Host.Outcome State Fault Refusal :=
  let b := s.x rb
  .next (if b.getLsbD 63 then s.trap cPHASE (s.x ra)
    else s.arrival (s.x ra) (b.getLsbD 0) (wbits b 32 32) m fun _ w s => s.giveX rd w sc.toNat)

/-! ## Groups (R117, R324 to R327) -/

/-- A membership instruction parks until the group table has recorded the change (R117). -/
def State.changeGroup (g : BitVec 12) (join : Bool) (sc : Nat) (s : State) : State :=
  if !s.groupInRange s.myCore g.toNat then s.trap cPROTECTION (g.setWidth 64)
  else (s.parkMe (.group g.toNat join sc) sc).post .slotWake (arg1 s.cur)

/-- The group table records what slot `k` asks for: a second join by a member and a leave by a non-member change nothing (R32); none while
no member record is free (R363). -/
def State.recordGroup (k g : Nat) (join : Bool) (s : State) : Option State :=
  match s.member k g with
  | none => if !join then some s else if 16384 ≤ s.fabric.members.length then none else some (s.joinGroup k g)
  | some m => some (if join then s else s.leaveGroup g m)

/-- `gjoin` (R117, R363). -/
def execGjoin (g : BitVec 12) (sc : BitVec 3) (s : State) : Host.Outcome State Fault Refusal :=
  .next (s.changeGroup g true sc.toNat)

/-- `gleave` (R117, R33). -/
def execGleave (g : BitVec 12) (sc : BitVec 3) (s : State) : Host.Outcome State Fault Refusal :=
  .next (s.changeGroup g false sc.toNat)

/-- Slot `k`'s contribution to an instance leaves for the switch (R324), as an invocation send of the slot. -/
def State.contribute (k g key : Nat) (v : Word) (num : BitVec 16) (s : State) : State :=
  let t := s.sendPacket (s.numOf (coreOf k)) (s.chipNo * 2048) (.contribution g key v num)
  t.modSlot k fun sl => { sl with sends := sl.sends ++ [(s.serial, t.serial)] }

/-- The slot in hand goes on, and what it sends as a release waits for the slot's earlier stores, engine writes and reflected stores (R314, R324). -/
def State.signalLater (sc : Scope) (g : Sig) (s : State) : State :=
  let f := fun (sl : Slot) => (⟨sc, 14, 0, sl.stores.length, s.serial, sl.cmds, some g⟩ : FenceCond)
  (s.modMe fun sl => { sl with fences := sl.fences ++ [f sl] }).post .launchRecordTake (arg2 1 s.cur)

/-- `gcontrib` (R324, R363, R364): sends x[rd] for the member's next instance, without parking. -/
def execGcontrib (rd : Reg) (g : BitVec 12) (sc : BitVec 3) (s : State) : Host.Outcome State Fault Refusal :=
  let e := s.group g.toNat
  .next (match s.member s.cur g.toNat with
    | none => s.trap cPROTECTION (g.setWidth 64)
    | some m =>
      if !s.groupInRange s.myCore g.toNat || !e.valid || decide (10 < e.op.toNat) || decide (e.part.toNat ≠ s.corePart s.myCore) then
        s.trap cPROTECTION (g.setWidth 64)
      else
        let v := w64 (wbits (s.x rd) 0 (opBits e.op.toNat))
        let s := s.modFabric fun fb => { fb with
          members := fb.members.map fun x => if x = m then { x with counter := x.counter + 1, sent := true } else x }
        (if s.sendReleased s.cur .sy then s.contribute s.cur g.toNat m.order v m.counter
          else s.signalLater .sy (.contribute g.toNat m.order v m.counter)).retire 4 sc.toNat)

/-- Whether a member's result register holds its last contributed instance (R325). -/
def Member.ready (m : Member) : Bool := m.has && decide (m.num = m.counter - 1)

/-- `gread` (R325 to R327). -/
def execGread (rd : Reg) (g : BitVec 12) (sc : BitVec 3) (s : State) : Host.Outcome State Fault Refusal :=
  .next (if s.fenced s.cur 1 then s.waitFor (.fence 1)
    else match s.member s.cur g.toNat with
    | none => s.trap cPROTECTION (g.setWidth 64)
    | some m =>
      if !s.groupInRange s.myCore g.toNat || !m.sent then s.trap cPROTECTION (g.setWidth 64)
      else s.afterSends fun s =>
        if !m.ready then s.waitFor (.group g.toNat) else
        ((s.modMe fun sl =>
          { (sl.setX rd m.result) with
            grstat := w64 (m.status.toNat + m.count % 2 ^ 24 * 2 ^ 8 + m.num.toNat * 2 ^ 32),
            nanseen := (wset sl.nanseen 8 24 m.nan) ||| (if m.nan ≠ 0 then 1 else 0) })).retire 4 sc.toNat)

end Sys2Proof.Machine
end

