-- ==== Sys2Proof/Machine/Invoke.lean ====
section
/-! DEFINITION. Invocation (R100 to R112): the descriptor, sends and their promises, replies and breaks, local promises, handles' state and release, registrations, and anonymous work. -/

namespace Sys2Proof.Machine

/-! ## The descriptor (R100) -/

def dKINDS (d : Word) : BitVec 8 := d.setWidth 8
def dCHANNEL (d : Word) : BitVec 6 := (d >>> 8).setWidth 6
def dPAYLEN (d : Word) : Nat := wbits d 14 9
/-- The payload's address: PAYOFF in the own cluster's scratchpad. -/
def dPayload (d : Word) : Word := w64 (0x80000000FF000000 + wbits d 32 20)

/-- x10 to x13 as arguments, one of kind 3 being sent as 0 (R100). -/
def State.argument (s : State) (kinds : BitVec 8) (i : Nat) : Word :=
  if kinds.toNat / 4 ^ i % 4 = 3 then 0 else s.x (BitVec.ofNat 5 (10 + i))

/-- The payload of a descriptor and whether it is poisoned (R101), or what went wrong. -/
def State.payload (d : Word) (s : State) : Except (Bad × State) ((List Byte × Bool) × State) :=
  let n := dPAYLEN d
  let a := dPayload d
  if 256 < n then .error ((cPROTECTION, d, none), s)
  else if n = 0 then .ok (([], false), s)
  else if a.toNat % 8 ≠ 0 then .error ((cMISALIGN, a, none), s)
  else match s.check s.myCore a n .load with
    | (.ok h, s) =>
      let s := s.settleStores s.cur h n
      let bad := (List.range ((h.place % 64 + n + 63) / 64)).any fun i => s.homePoison (h.plus (64 * i - (if i = 0 then 0 else h.place % 64)))
      .ok ((s.homeBytes h n, bad), s)
    | (.bad c e, s) => .error ((c, a, e), s)
    | (.busy, s) => .error ((0, a, none), s)
    | (_, s) => .error ((cPROTECTION, a, none), s)

/-- A message of the slot in hand, unnumbered (R15). -/
def State.header (target reply : Word) (d : Word) (pl : List Byte × Bool) (fwd : Bool) (s : State) : Msg :=
  let kd := dKINDS d
  { target := target, reply := reply, arg0 := s.argument kd 0, arg1 := s.argument kd 1, arg2 := s.argument kd 2,
    arg3 := s.argument kd 3, sender := s.numOf s.myCore, seq := 0, channel := dCHANNEL d, fwd := fwd, kinds := kd,
    cap := target.setWidth 14, payload := pl.1, poisoned := pl.2, hop := s.numOf s.myCore, expansion := none, fault := none }

/-- The narrowest scope that contains a core, as core `c` sees it (R164). -/
def State.scopeTo (s : State) (c num : Nat) : Scope :=
  if num = s.numOf c % 2 ^ 25 then .co
  else if numChip num ≠ s.chipNo then .sy
  else if clusterOf (numCore num) = clusterOf c then .cl
  else .ch

/-- A send's release scope (R101, R164). -/
def State.sendScope (s : State) (t : Word) : Scope := if hKind t = 1 then .sy else s.scopeTo s.myCore (hNum t)

/-- The slot in hand waits until its core holds a credit for a cluster, which it asks for (R57). -/
def State.needCredit (key : Nat) (s : State) : State := (s.askBlock s.myCore key).waitFor (.credit key)

/-- Whether the core in hand holds an unspent credit for a cluster. -/
def State.hasCredit (s : State) (key : Nat) : Bool := decide ((s.credit s.myCore key).avail ≠ 0)

/-- The slot in hand sends on a credit: no grant that could not be reached concerns it any more (R397). -/
def State.onCredit (s : State) : State := if s.me.lost then s.modMe fun sl => { sl with lost := false } else s

/-- Hands a numbered message to the network on one credit (R57). -/
def State.launchMsg (m : Msg) (num : Nat) (s : State) : State :=
  match s.spend s.myCore (creditKey num) with
  | some s => s.asSend fun s => s.sendPacket (s.numOf s.myCore) num (.invoke m)
  | none => s

/-- The broken handle that `inv` and `hnew` return when no entry is free (R39). -/
def State.noEntry (s : State) : Word := mkHandle (s.numOf s.myCore % 2 ^ 25) 0 0 3 (s.partKey s.myCore).toNat

/-! ## inv and invp -/

/-- The checks and waits of a send (R101): a trap, a wait for the release or for a credit, or what follows with the payload
and the route. -/
def State.sending (t d : Word) (f : List Byte × Bool → Route → State → State) (s : State) : State :=
  if s.fenced s.cur 1 && decide (dPAYLEN d ≠ 0) then s.waitFor (.fence 1)
  else match s.payload d with
    | .error (b, s) => s.bad b
    | .ok (pl, s) =>
      match s.route s.myCore t with
      | .broken r o c => f pl (.broken r o c) s
      | .go num fwd => s.sendReleasing (s.sendScope t) fun s =>
          if s.hasCredit (creditKey num) then f pl (.go num fwd) s.onCredit
          else if s.me.lost then f pl (.broken rUNREACHABLE none 0) (s.modMe fun sl => { sl with lost := false })
          else s.needCredit (creditKey num)

/-- A message numbered and sent, or its reply broken TABLEFULL (R50) with the table-full notice. -/
def State.numberAndSend (m : Msg) (num : Nat) (s : State) : State :=
  match s.nextSeq s.myCore m.target num with
  | some (n, s) => s.launchMsg { m with seq := n } num
  | none => (s.tableNotice s.myCore 2 m.target m.reply)

/-- Whether a send pair for a target is there or can be made (R51). -/
def State.hasPair (s : State) (c : Nat) (target : Word) : Bool := (s.findSend c (hKey target)).isSome

/-- `inv` (R101): the promise home entry, the message, and the promise's handle, delivered by parking (R69). -/
def execInv (rd ra rb : Reg) (sc : BitVec 3) (s : State) : Host.Outcome State Fault Refusal :=
  let t := s.x ra
  let d := s.x rb
  .next (s.sending t d fun pl route s =>
    let c := s.myCore
    match s.freeIndex c with
    | none => s.giveX rd s.noEntry sc.toNat
    | some i =>
      let loc := match route with
        | .go num _ => if hKind t = 1 ∧ hNum t ≠ s.numOf c % 2 ^ 25 then s.numOf c else num
        | .broken _ _ _ => s.numOf c
      let s := s.setEntry c i ((s.entry c i).mk' 1 loc t)
      let h := s.handleOf c i 1
      let s := match route with
        | .broken r o ca => s.setEntry c i ((s.entry c i).resolved (Resol.brk r (o.getD h) ca))
        | .go num fwd =>
          if s.hasPair c t then s.numberAndSend (s.header t h d pl fwd) num
          else (s.setEntry c i ((s.entry c i).resolved (Resol.brk rTABLEFULL h 0))).tableNotice c 2 t h
      s.giveX rd h sc.toNat)

/-- `invp` (R103, R48): the message carries REPLYH; its answer entry is passed, and REPLYH becomes 0. -/
def execInvp (ra rb : Reg) (sc : BitVec 3) (s : State) : Host.Outcome State Fault Refusal :=
  let t := s.x ra
  let d := s.x rb
  .next (s.sending t d fun pl route s =>
    let c := s.myCore
    let reply := s.me.replyh
    let s := if reply = 0 then s else match s.keyedIndex c reply with
      | none => s
      | some j => s.setEntry c j ((s.entry c j).set0 21 1 1)
    let s := s.modMe fun sl => { sl with replyh := 0 }
    let s := match route with
      | .broken r o ca => s.breakOrHold c t reply (s.numOf c) (Resol.brk r (o.getD (ownOrigin reply)) ca)
      | .go num fwd =>
        if s.hasPair c t then s.numberAndSend (s.header t reply d pl fwd) num
        else (s.tableNotice c 2 t reply).breakOrHold c t reply (s.numOf c) (Resol.brk rTABLEFULL (ownOrigin reply) 0)
    s.retire 4 sc.toNat)

/-! ## Registrations (R55, R104, R109) -/

/-- Places a registration on the entry of core `c` that `h` names, or answers it at once; none while the pool is full. One on a local
promise whose datum's bytes are still on their way is answered with them (DEDUCED, log entry 66). -/
def State.watchHere (c : Nat) (h : Word) (w : Watcher) (s : State) : Option State :=
  let e := s.entry c (hIdx h)
  let here := s.numOf c
  if hIdx h = 0 ∨ e.st = 0 ∨ e.gen ≠ hGen h then
    some (s.fireAll c chainFuel [w] h (Resol.brk rSTALE (ownOrigin h) 0) here)
  else if e.st = 1 then s.addWatch c (hIdx h) w
  else if e.st = 3 then some (s.fireAll c chainFuel [w] h (Resol.brk e.reason e.w1 e.cause) here)
  else if e.role = 0 then some (s.fireAll c chainFuel [w] h (Resol.val (hWithKind h 0)) here)
  else if (s.core c).dataDue.contains (hIdx h) then s.addWatch c (hIdx h) w
  else
    let r := Resol.val e.w1
    some (s.fireAll c chainFuel [w] h (if hKind e.w1 = 2 then { r with d0 := e.w4, d1 := e.w5, d2 := e.w6, d3 := e.w7 } else r) here)

/-- Registers `w` for the moment `h` resolves, on behalf of core `c` (R55); none while the own pool is full. -/
def State.register (c : Nat) (h : Word) (w : Watcher) (s : State) : Option State :=
  if hKind h = 0 then some (s.fireAll c chainFuel [w] h (Resol.val h) (s.numOf c))
  else if hNum h = s.numOf c % 2 ^ 25 then s.watchHere c h w
  else some (s.sendPacket (s.numOf c) (hNum h) (.watch h w))

/-- `when` (R109). -/
def execWhen (ra rb : Reg) (sc : BitVec 3) (s : State) : Host.Outcome State Fault Refusal :=
  let d := s.x rb
  let a := s.me.act
  let c := s.myCore
  let hd := look Handler.reset (s.core c).handlers (64 * a.cls.toNat + (dCHANNEL d).toNat)
  .next (if a.obj = 0 ∨ !hd.valid then s.trap cPROTECTION d
    else match s.register c (s.x ra) (.object (s.numOf c) a.obj (s.entry c a.obj).gen (dCHANNEL d)) with
      | none => s.waitFor .cell
      | some s => s.retire 4 sc.toNat)

/-! ## reply and rbreak -/

/-- Answer entry `i` resolves to a handle (R46): a value at once, a promise when it resolves, a broken handle as DEPENDENCY;
none while the own pool has no record for the internal watch. -/
def State.replyHandle (c i : Nat) (h : Word) (s : State) : Option State :=
  match hKind h with
  | 1 => s.register c h (.entry (s.numOf c) i (s.entry c i).gen)
  | 3 => some (s.resolveEntry c chainFuel i (Resol.brk rDEPENDENCY (s.originOf c h) (s.causeOf c h)) true (s.numOf c))
  | _ => some (s.resolveEntry c chainFuel i (s.withBytes c (Resol.val h)) true (s.numOf c))

/-- Answer entry `i` becomes a datum of a class, with the 32 bytes of x10 to x13 (R46, R104). -/
def State.replyDatumAt (c i : Nat) (cls : Word) (s : State) : State :=
  let h := s.handleOf c i 2
  (s.setEntry c i ((s.entry c i).set0 15 4 (wbits cls 0 4))).resolveEntry c chainFuel i
    ⟨false, h, 0, 0, s.x 10, s.x 11, s.x 12, s.x 13, none⟩ true (s.numOf c)

/-- The scope at which a resolution of entry `i` is sent (R104): system where a notice of it leaves the chip, to the home, to LOC, to
the core that the resolution `res` names, or to a registration. What a promise resolves to is not known here, and so is sent at system
scope (DEDUCED, log entry 67). -/
def State.replyScope (s : State) (c i : Nat) (res : Option Word) : Scope :=
  let e := s.entry c i
  let here := fun (n : Nat) => decide (numChip n = s.chipNo)
  let away := match res with
    | none => false
    | some h => decide (hKind h = 1) || (decide (hKind h ≠ 3) && !here (hNum h))
  let told := (s.watching c e).all fun w => match w.2 with
    | .object n _ _ _ => here n
    | .entry n _ _ => here n
  if here (hNum e.w2) && here e.loc && !away && told then .ch else .sy

/-- What a resolving instruction does with REPLYH (R104, R105): nothing where it is 0; a release first; then `f` with the
answer entry, and REPLYH becomes 0. -/
def State.resolveMine (res : Option Word) (f : Nat → State → Option State) (sc : Nat) (s : State) : State :=
  let c := s.myCore
  let fin := fun (s : State) => (s.modMe fun sl => { sl with replyh := 0 }).retire 4 sc
  if s.me.replyh = 0 then s.retire 4 sc
  else match s.keyedIndex c s.me.replyh with
    | none => fin s
    | some i => s.sendReleasing (s.replyScope c i res) fun s =>
        if (s.entry c i).st ≠ 1 then fin s
        else match f i s with
          | none => s.waitFor .cell
          | some t => fin (s.asSend fun _ => t)

/-- What a resolving instruction does with the local promise `h` (R104, R105): PROTECTION where it names no entry that `hnew`
made, be it an answer datum whose key a release notice has removed; nothing where that is no longer pending or of another generation. -/
def State.resolveLocal (h : Word) (res : Option Word) (f : Nat → State → Option State) (sc : Nat) (s : State) : State :=
  let c := s.myCore
  let i := hIdx h
  let e := s.entry c i
  if hNum h ≠ s.numOf c % 2 ^ 25 ∨ i = 0 then s.trap cPROTECTION h
  else if e.gen ≠ hGen h ∨ (e.role = 2 ∧ e.st = 2 ∧ e.w2 = 0 ∧ i ∉ (s.core c).keyless) then s.retire 4 sc
  else if e.st = 0 ∨ !s.isLocalPromise c i then s.trap cPROTECTION h
  else if e.st ≠ 1 then s.retire 4 sc
  else s.sendReleasing (s.replyScope c i res) fun s => match f i s with
    | none => s.waitFor .cell
    | some t => (s.asSend fun _ => t).retire 4 sc

/-- `reply xa` (R104, mod 0). -/
def execReply (ra : Reg) (sc : BitVec 3) (s : State) : Host.Outcome State Fault Refusal :=
  let h := s.x ra
  .next (s.resolveMine (some h) (fun i s => s.replyHandle s.myCore i h) sc.toNat)

/-- `reply.d xa` (R104, mod 1). -/
def execReplyDatum (ra : Reg) (sc : BitVec 3) (s : State) : Host.Outcome State Fault Refusal :=
  let cls := s.x ra
  .next (s.resolveMine none (fun i s => some (s.replyDatumAt s.myCore i cls)) sc.toNat)

/-- `reply xa, xb` (R104, mod 2). -/
def execReplyLocalPromise (ra rb : Reg) (sc : BitVec 3) (s : State) : Host.Outcome State Fault Refusal :=
  let h := s.x ra
  .next (s.resolveLocal (s.x rb) (some h) (fun i s => s.replyHandle s.myCore i h) sc.toNat)

/-- `reply.d xa, xb` (R104, mod 3). -/
def execReplyDatumLocalPromise (ra rb : Reg) (sc : BitVec 3) (s : State) : Host.Outcome State Fault Refusal :=
  let cls := s.x ra
  .next (s.resolveLocal (s.x rb) none (fun i s => some (s.replyDatumAt s.myCore i cls)) sc.toNat)

/-- The reason code of `rbreak` (R105). -/
def rbreakReason (v : Word) : Nat := 0x8000 + wbits v 0 15

/-- `rbreak xa` (R105, mod 0). -/
def execRbreak (ra : Reg) (sc : BitVec 3) (s : State) : Host.Outcome State Fault Refusal :=
  let r := rbreakReason (s.x ra)
  .next (s.resolveMine none (fun i s => some (s.resolveEntry s.myCore chainFuel i (Resol.brk r (ownOrigin (s.entry s.myCore i).w2) 0) true (s.numOf s.myCore))) sc.toNat)

/-- `rbreak xa, xb` (R105, mod 1). -/
def execRbreakLocalPromise (ra rb : Reg) (sc : BitVec 3) (s : State) : Host.Outcome State Fault Refusal :=
  let r := rbreakReason (s.x ra)
  .next (s.resolveLocal (s.x rb) none (fun i s => some (s.resolveEntry s.myCore chainFuel i (Resol.brk r (ownOrigin (s.entry s.myCore i).w2) 0) true (s.numOf s.myCore))) sc.toNat)

/-! ## hnew, hdrop and hstat -/

/-- `hnew` (R106): the handle is delivered by parking (R69). -/
def execHnew (rd : Reg) (sc : BitVec 3) (s : State) : Host.Outcome State Fault Refusal :=
  let c := s.myCore
  .next (match s.freeIndex c with
    | none => s.giveX rd s.noEntry sc.toNat
    | some i =>
      let h := s.handleOf c i 1
      (s.setEntry c i ((s.entry c i).mk' 2 (s.numOf c) h)).giveX rd h sc.toNat)

/-- `hdrop` (R107, R56); it never traps. A local promise resolved to a datum of another core whose bytes are still due is dropped as a pending
one is: it gets DROPPED, and is freed as they come (DEDUCED, log entry 66). -/
def execHdrop (ra : Reg) (sc : BitVec 3) (s : State) : Host.Outcome State Fault Refusal :=
  let h := s.x ra
  let c := s.myCore
  let i := hIdx h
  let e := s.entry c i
  let s' :=
    if hKind h = 0 then s
    else if hKind h = 2 then s.sendPacket (s.numOf c) (hNum h) (.release h true)
    else if !s.namesEntry c h || !(decide (e.role = 1) || s.isLocalPromise c i) then s
    else if e.st = 1 ∨ (s.core c).dataDue.contains i then s.setEntry c i (e.set0 22 1 1)
    else s.dropPromise c i
  .next (s'.retire 4 sc.toNat)

/-- The word `hstat` reports for a handle, as core `c` knows it (R108). -/
def State.handleState (s : State) (c : Nat) (h : Word) : Word :=
  if hNum h = s.numOf c % 2 ^ 25 ∧ hIdx h ≠ 0 then
    let e := s.entry c (hIdx h)
    if e.st = 0 ∨ e.gen ≠ hGen h then w64 16
    else w64 (e.st + (if e.st = 2 ∧ e.role ≠ 0 then hKind e.w1 * 4 else 0) + 16 + (if e.watch then 32 else 0) +
      (if e.st = 3 then e.reason * 2 ^ 6 + e.cause * 2 ^ 22 else 0))
  else match hKind h with
    | 0 => 2
    | 1 => 1
    | 2 => 0xA
    | _ => w64 (3 + (if hIdx h = 0 ∧ hGen h = 0 then rTABLEFULL else rDEPENDENCY) * 2 ^ 6)

/-- `hstat` (R108): the result is delivered by parking. Its load of the entry reads at issue, and a poisoned line of the handle table changes
nothing (DESIGN CHOICE, log entry 88). -/
def execHstat (rd ra : Reg) (sc : BitVec 3) (s : State) : Host.Outcome State Fault Refusal :=
  .next (s.giveX rd (s.handleState s.myCore (s.x ra)) sc.toNat)

/-! ## spawn (R30, R31, R110) -/

/-- Record 0x0092 of a packet that cannot be reached (R370, R397): its kind, destination core and two words. -/
def State.lostRecord (kind dst : Nat) (w1 w2 : Word) (s : State) : State :=
  s.record 0x92 (kind + numChip dst * 2 ^ 16) w1 w2

/-- The child runs inline in the slot in hand (R31, R98). -/
def State.runInline (pc : BitVec 48) (sc : Nat) (s : State) : State :=
  s.modMe fun sl =>
    ({ sl with inl := some ⟨sl.getX 10, sl.getX 11, sl.getX 12, sl.getX 13, sl.lstart, sl.lend, sl.lcount, sl.pc⟩,
               lcount := 0, pc := pc }).retired1 (s.cycle + 1 + sc)

/-- `spawn` (R110). -/
def execSpawn (ra rb : Reg) (sc : BitVec 3) (s : State) : Host.Outcome State Fault Refusal :=
  let a := s.x ra
  let pc := s.x rb
  let c := s.myCore
  let p := s.corePart c
  let k := wbits a 3 8
  .next (
    if wbits a 11 53 ≠ 0 ∨ p = 0 ∨ s.partOf k ≠ p then s.trap cPROTECTION a
    else if pc.getLsbD 0 then s.trap cMISALIGN pc
    else if wbits pc 48 16 ≠ 0 then s.trap cPROTECTION pc
    else
      let num := coreNum s.chipNo (wbits a 0 11)
      let key := creditKey num
      let target := mkHandle num 0 0 0 (s.partKey c).toNat
      if s.hasCredit key then s.onCredit.sendReleasing .ch fun s =>
        if s.hasPair c target then (s.numberAndSend (s.header target pc 0 ([], false) false) num).retire 4 sc.toNat
        else (s.tableNotice c 2 target pc).waitFor (.pair target)
      else if s.me.inl.isNone then (s.askBlock c key).runInline (pc.setWidth 48) sc.toNat
      else if s.me.lost then
        (s.modMe fun sl => { sl with lost := false }).lostRecord 1 num target pc |>.retire 4 sc.toNat
      else s.needCredit key)

end Sys2Proof.Machine
end

