-- ==== Sys2Proof/Machine/Nack.lean ====
section
/-! DEFINITION. What becomes of a packet that is answered NACK (R373, R397). -/

namespace Sys2Proof.Machine

/-! ## Unreachable hops (R397) -/

/-- A packet of this chip that is answered NACK. An invocation's reply breaks with `reason`. -/
def State.nacked (reason : Nat) (p : Packet) (s : State) : State :=
  let c := numCore p.src
  let key := creditKey p.dst
  let back := fun (s : State) =>
    let v := s.credit c key
    (s.setCredit c key { v with avail := Nat.min (v.avail + 1) (8 * v.blocks) }).post .reservationBlockReturn (arg2 c key)
  match p.body with
  | .invoke m =>
    match m.fault with
    | some part => s.faultRecord part m.channel.toNat m.arg0 m.arg1
    | none =>
      let s := (back s).expEnd c m.expansion reason
      if hIdx m.target = 0 then s.lostRecord 1 p.dst m.target m.reply
      else s.breakOrHold c m.target m.reply m.sender (Resol.brk reason (ownOrigin m.reply) 0)
  | .watch h w => s.fireAll c chainFuel [w] h (Resol.brk reason (ownOrigin h) 0) (s.numOf c)
  | .resvReq _ =>
    let s := s.setCredit c key { s.credit c key with requested := false }
    let s := if s.launch.exps.any (fun (x : Expansion) => x.lrec.core = c) then
        s.modLaunch fun l => { l with lost := (c, key) :: l.lost } else s
    let s := ((List.range 8).map fun i => c * 8 + i).foldl (fun (s : State) k =>
      if (s.slot k).park = .again (.credit key) then s.modSlot k fun sl => { sl with lost := true } else s) s
    let gone := fun (h : Held) => match h with
      | .forward _ dst _ => decide (creditKey dst = key)
      | _ => false
    let l := (s.core c).held.filter gone
    let s := s.modCore c fun k => { k with held := k.held.filter fun h => !gone h }
    l.foldl (fun (s : State) h => match h with
      | .forward m _ n => ((s.freeCell c n).expEnd c m.expansion reason).breakOrHold c m.target m.reply m.sender
          (Resol.brk reason (ownOrigin m.reply) 0)
      | _ => s) s
  | .resolve key _ _ _ => s.lostRecord 2 p.dst key 0
  | .locate key _ => s.lostRecord 2 p.dst key 0
  | .whenAns _ h _ => s.lostRecord 2 p.dst h 0
  | .release key _ => s.lostRecord 3 p.dst key 0
  | .grant _ => s.lostRecord 4 p.dst 0 0
  | .credit _ => s.lostRecord 4 p.dst 0 0
  | .giveBack _ => s.lostRecord 4 p.dst 0 0
  | .endNotice _ _ => s
  | .contribution _ _ _ _ => s
  | .partialUp _ _ _ _ _ _ => s
  | .result _ _ _ _ _ _ => s
  | .closeAsk _ => s
  | .closeAns _ => s

/-- A packet of this chip that the network answers with NACK 0x05 (R397). -/
def State.unreachable (p : Packet) (s : State) : State := s.nacked rUNREACHABLE p

end Sys2Proof.Machine
end

