-- ==== Sys2Proof/Machine/Fabric.lean ====
section
/-! DEFINITION. The Wyvik switch's paths: routes and virtual channels (R353 to R357), far destinations (R348), flits (R358), where a packet that leaves the chip goes, what becomes of one that cannot be sent (R354, R360, R397), and window packets on their way out and their answers (R337, R341, R346). -/

namespace Sys2Proof.Machine

/-! ## Routes (R353 to R356) -/

/-- Dimension `i` of an own or a destination coordinate: A, B, C, D by 0 to 3 (R353, R354). -/
def State.ownCoord (s : State) (i : Nat) : Nat :=
  let w := s.fabric.coord.toNat
  match i with
  | 0 => w % 4
  | 1 => w / 4 % 4
  | 2 => w / 16 % 32
  | _ => w / 512 % 32

def State.dimSize (s : State) (i : Nat) : Nat :=
  let w := s.fabric.coord.toNat
  match i with
  | 0 => w / 2 ^ 14 % 4 + 1
  | 1 => w / 2 ^ 16 % 4 + 1
  | 2 => w / 2 ^ 18 % 32 + 1
  | _ => w / 2 ^ 23 % 32 + 1

def State.routeEntry (s : State) (chip : Nat) : BitVec 18 := look 0 s.fabric.routes chip

def routeCoord (r : BitVec 18) (i : Nat) : Nat :=
  let w := r.toNat
  match i with
  | 0 => w / 2 % 4
  | 1 => w / 8 % 4
  | 2 => w / 32 % 32
  | _ => w / 1024 % 32

def routeDetour (r : BitVec 18) : Nat := r.toNat / 2 ^ 15

/-- Whether the hop in dimension `i` toward `d` goes up (R355). -/
def State.hopUp (s : State) (i d : Nat) : Bool :=
  let o := s.ownCoord i
  if i < 2 then decide (o < d)
  else
    let n := s.dimSize i
    let x := (d + n - o % n) % n
    decide (x ≤ n - x)

/-- Whether a hop in dimension `i`, upward or down, crosses the wrap link of a torus (R355). -/
def State.wraps (s : State) (i : Nat) (up : Bool) : Bool :=
  decide (2 ≤ i) && (if up then decide (s.ownCoord i + 1 = s.dimSize i) else decide (s.ownCoord i = 0))

/-- The port and virtual channel of the next hop toward a chip, for a packet that starts here (`came` none) or came in on a
port and virtual channel (R355, R356); none where no hop leads there. -/
def State.hop (s : State) (chip : Nat) (came : Option (Nat × Nat)) : Option (Nat × Nat) :=
  let r := s.routeEntry chip
  let det := routeDetour r
  if !r.getLsbD 0 then none
  else if came.isNone && decide (det ≠ 0) then (if det ≤ 4 then some (det - 1, 2) else none)
  else
    match [2, 3, 0, 1].find? fun i => decide (routeCoord r i ≠ s.ownCoord i) with
    | none => none
    | some i =>
      let up := s.hopUp i (routeCoord r i)
      let (pair, upper) := match came with
        | none => (0, false)
        | some (p, vc) => (vc / 2 * 2, decide (p / 2 = i) && decide (vc % 2 = 1))
      some (2 * i + (if up then 1 else 0), pair + (if s.wraps i up || upper then 1 else 0))

/-- The far destination entry that reaches a chip outside the system (R334, R348). -/
def State.farEntry (s : State) (chip : Nat) : Option Nat :=
  (s.fabric.far.find? fun e => e.2.valid && decide (e.2.chip.toNat = chip)).map (·.1)

/-! ## Flits (R358) -/

def State.port (s : State) (p : Nat) : Port := look Port.reset s.fabric.ports p
def State.modPort (p : Nat) (f : Port → Port) (s : State) : State :=
  s.modFabric fun fb => { fb with ports := put p (f (look Port.reset fb.ports p)) fb.ports }

/-- The bits of a flit's link header (R358). -/
def Flit.header (f : Flit) : BitVec 32 :=
  BitVec.ofNat 32 (f.seq.toNat + f.ack.toNat * 2 ^ 9 + (if f.retry then 2 ^ 18 else 0) + f.vc.toNat * 2 ^ 19 + (if f.cls then 2 ^ 21 else 0) +
    f.cbuf.toNat * 2 ^ 22 + f.ccount.toNat * 2 ^ 25 + (if f.poison then 2 ^ 28 else 0) + (if f.head then 2 ^ 29 else 0) +
    (if f.tail then 2 ^ 30 else 0) + (if f.idle then 2 ^ 31 else 0))

/-- One bit of CRC-32C, least significant first (PRESUMED, log entry 21). -/
def crcBit (c : BitVec 32) : BitVec 32 := if c.getLsbD 0 then (c >>> 1) ^^^ 0x82F63B78 else c >>> 1
def crcByte (c : BitVec 32) (b : Byte) : BitVec 32 := (List.range 8).foldl (fun c _ => crcBit c) (c ^^^ b.setWidth 32)
def crc32c (l : List Byte) : BitVec 32 := ~~~(l.foldl crcByte 0xFFFFFFFF)

/-- Bytes 0 to 123 of a flit: payload and link header. -/
def Flit.front (f : Flit) : List Byte := f.payload ++ toBytes 4 f.header.toNat

/-- The 128 bytes of a flit (R358). -/
def Flit.wire (f : Flit) : List Byte := f.front ++ toBytes 4 f.crc.toNat

/-- A flit with the CRC of its other bytes, and whether a flit has it. -/
def Flit.sealed (f : Flit) : Flit := { f with crc := crc32c f.front }
def Flit.intact (f : Flit) : Bool := decide (f.crc = crc32c f.front)

/-- The flits of a packet of so many data bytes: 48 bytes of header before them and the tag of 16 behind (DEDUCED, log entry 21). -/
def flitCount (bytes : Nat) : Nat := (bytes + 64 + 119) / 120

/-- The data bytes of a packet that its flit `i` carries, as a range. -/
def flitData (i : Nat) : Nat × Nat := (120 * i - 48, 120 * i + 72)

/-- Whether a list of ranges meets the `n` bytes from `a` on. -/
def meets (l : List (Nat × Nat)) (a n : Nat) : Bool := l.any fun x => decide (x.1 < a + n) && decide (a < x.2)

/-- All of `n` bytes as a range, or none of them. -/
def wholly (bad : Bool) (n : Nat) : List (Nat × Nat) := if bad && decide (n ≠ 0) then [(0, n)] else []

/-- A flit of payload, before its link numbers are set. -/
def Flit.plain (vc : Nat) (cls poison head tail : Bool) (dest : Nat) : Flit :=
  { seq := 0, ack := 0, retry := false, vc := BitVec.ofNat 2 vc, cls := cls, cbuf := 0, ccount := 0, poison := poison,
    head := head, tail := tail, idle := false, payload := List.replicate 120 0, crc := 0, tagOk := true, marker := false, dest := dest,
    packet := none, wpack := none, wans := none }

/-- Queues a packet's flits at a port, encrypted under the port's sending key, epoch and packet counter (R384); the tail carries what the packet
holds. Each flit that carries one of the poisoned bytes is marked (R375). -/
def State.emit (port vc : Nat) (cls : Bool) (poison : List (Nat × Nat)) (dest bytes : Nat) (carry : Flit → Flit) (s : State) : State :=
  let n := flitCount bytes
  let p := s.port port
  let key := look 0 s.chip.linkKeys (4 * port + 1)
  let nonce := BitVec.ofNat 96 (p.epochOut.toNat * 2 ^ 64 + p.packetsOut % 2 ^ 64)
  let fl := (List.range n).map fun i =>
    let bad := meets poison (flitData i).1 ((flitData i).2 - (flitData i).1)
    let f := { Flit.plain vc cls bad (decide (i = 0)) (decide (i + 1 = n)) dest with
      payload := (List.range 120).map fun j => Config.linkByte key nonce (120 * i + j) }
    if i + 1 = n then carry f else f
  s.modPort port fun p => { p with out := p.out ++ fl, packetsOut := p.packetsOut + 1 }

/-- The sending end of a port takes a new key (R384): the marker goes out under the old one, and the next packets under the new key and epoch. -/
def State.rekeyOut (port : Nat) (key : BitVec 256) (s : State) : State :=
  let s := s.emit port 0 false [] (2 ^ 14) 0 fun f => { f with marker := true }
  (s.modChip fun c => { c with linkKeys := put (4 * port + 1) key c.linkKeys }).modPort port fun p =>
    { p with epochOut := p.epochOut + 1, packetsOut := 0 }

/-- The data bytes of a message packet. -/
def Body.bytes : Body → Nat
  | .invoke m => m.payload.length
  | _ => 0

/-- Whether they are poisoned. -/
def Body.poisoned : Body → Bool
  | .invoke m => m.poisoned
  | _ => false

/-- Answers travel in a class of their own (R355): acknowledgements, NACKs, notices, group results and credit returns. -/
def Body.isAnswer : Body → Bool
  | .resolve _ _ _ _ => true
  | .locate _ _ => true
  | .whenAns _ _ _ => true
  | .release _ _ => true
  | .credit _ => true
  | .endNotice _ _ => true
  | .result _ _ _ _ _ _ => true
  | .closeAsk _ => true
  | .closeAns _ => true
  | _ => false

/-- The type of a window packet over Ethernet, and its operation (R348). -/
def WOp.kind : WOp → Nat
  | .store _ _ => 6
  | .write => 1
  | .reduce _ _ => 1
  | .get _ => 4
def WOp.operation : WOp → Nat
  | .reduce op fmt => (if op = 1 then 1 else if op = 2 then 4 else 6) + fmt.toNat
  | _ => 0
def WOp.gen : WOp → Nat
  | .store g _ => g.toNat
  | _ => 0
/-- The bytes that a get asks for. -/
def WOp.asks : WOp → Nat
  | .get n => n
  | _ => 0

/-- Bytes 2 to 15 of the payload header, which an answer echoes (R348). -/
def WPack.headerMid (p : WPack) : List Byte :=
  toBytes 2 (p.window % 2 ^ 10 + p.op.operation * 2 ^ 10) ++ toBytes 2 p.op.gen ++ toBytes 2 (p.src % 2 ^ 14) ++ toBytes 4 p.msgId ++
  toBytes 2 p.index ++ toBytes 2 p.total

/-- The payload header (R348) that chip `own` sends to chip `far`; a get's request gives in bytes 24 to 27 how many bytes it asks for (DEDUCED, log entry 91). A rekey marker has none of its types. -/
def EthOut.header (own far : Nat) : EthOut → List Byte
  | .packet _ p => toBytes 1 p.op.kind ++ toBytes 1 (if p.poison.isEmpty then 0 else 1) ++ p.headerMid ++ toBytes 8 p.off ++
      toBytes 4 (p.op.asks + p.bytes.length) ++ toBytes 4 p.seq.toNat
  | .answer _ q status data poison echo =>
      toBytes 1 (if status ≠ 0 then 3 else if q.op.kind = 4 then 5 else 2) ++ toBytes 1 ((if poison then 1 else 0) + if echo then 2 else 0) ++
      q.headerMid ++ toBytes 8 q.off ++ toBytes 4 (if status ≠ 0 then status.toNat else data.length) ++ toBytes 4 q.seq.toNat
  | .expected _ q num => toBytes 1 3 ++ toBytes 1 0 ++ q.headerMid ++ toBytes 8 q.off ++ toBytes 4 Config.expectedStatus.toNat ++ toBytes 4 num.toNat
  | .close _ window ans => toBytes 1 (if ans then 8 else 7) ++ toBytes 1 0 ++ toBytes 2 (window % 2 ^ 10) ++ toBytes 2 0 ++
      toBytes 2 ((if ans then far else own) % 2 ^ 14) ++ List.replicate 24 0
  | .rekey _ => []

/-- Whether a flow is down: its tag has failed three times in one epoch (R384). -/
def State.flowDown (s : State) (flow : Nat) : Bool := decide (3 ≤ look 0 s.chip.flowFails flow)

/-- Something leaves at an Ethernet port for far destination entry `i`, numbered in the entry's flow (R348, R384), unless that is down. -/
def State.etherSend (i : Nat) (x : EthOut) (s : State) : State :=
  let f := look FarD.reset s.fabric.far i
  let flow := f.flow.toNat
  let n := look 0 s.chip.flowNext flow
  if s.flowDown flow then s
  else (s.modChip fun c => { c with flowNext := put flow (n + 1) c.flowNext }).modFabric fun fb =>
    { fb with etherOut := fb.etherOut ++ [⟨flow, n, BitVec.ofNat 96 ((Config.flowSalt flow).toNat * 2 ^ 64 + n % 2 ^ 64), x.header s.chipNo f.chip.toNat, x⟩] }

/-- The sending end of a flow takes a new key (R384): the marker goes out under the old one, to the first far chip that the flow reaches, and the
next packets under the new key. -/
def State.rekeyFlow (flow : Nat) (key : BitVec 256) (s : State) : State :=
  let s := match s.fabric.far.find? fun e => e.2.valid && decide (e.2.flow.toNat = flow) with
    | some e => s.etherSend e.1 (.rekey e.1)
    | none => s
  s.modChip fun c => { c with flowKeys := put (4 * flow + 1) key c.flowKeys }

/-- A packet that leaves the chip: to a port, or back as unreachable (R354, R397). One for `portOrder p` goes out of port p. A close notice or its
answer for a far chip goes over Ethernet (R344, R348). -/
def State.dispatch (p : Packet) (s : State) : State :=
  if 2 ^ 40 ≤ p.dst then
    let port := p.dst - 2 ^ 40
    if (s.port port).down then s
    else s.emit port (if s.wraps (port / 2) (decide (port % 2 = 1)) then 1 else 0) p.body.isAnswer [] (2 ^ 14) 0 fun f => { f with packet := some p }
  else
    match s.hop (numChip p.dst) none with
    | none =>
      let far := fun (w : Nat) (answer : Bool) => match (s.routeEntry (numChip p.dst)).getLsbD 0, s.farEntry (numChip p.dst) with
        | false, some i => s.etherSend i (.close i w answer)
        | _, _ => s
      (match p.body with
      | .closeAsk w => far w false
      | .closeAns w => far w true
      | _ => s.unreachable p)
    | some (port, vc) =>
      if (s.port port).down then s.unreachable p
      else s.emit port vc p.body.isAnswer (wholly p.body.poisoned p.body.bytes) (numChip p.dst) p.body.bytes fun f => { f with packet := some p }

/-! ## Window packets on their way out (R337, R346) -/

/-- A packet number of the model, and a packet with the fields that sending fills left open. -/
def WPack.blank : WPack :=
  { id := 0, src := 0, dst := 0, core := 0, slot := 0, txwin := 1024, recv := 0, window := 0, off := 0, bytes := [],
    op := .write, key := 0, poison := [], relays := 0, serial := 0, msgId := 0, index := 0, total := 1, seq := 0,
    chain := [], sentAt := 0, resent := 0, far := none, tracker := 0, items := [], relayOf := none, no := 0, ce := false }

/-- The answer of chip `src` to a packet of this chip, as it comes back to the switch; one that this chip makes itself names it. -/
def State.windowBack (id src : Nat) (status : BitVec 8) (data : List Byte) (poison echo : Bool) (s : State) : State :=
  let a : WAns := ⟨id, src, s.chipNo, status, data, poison, echo, none⟩
  let get := match s.fabric.outgo.find? fun p => p.id = id with
    | some p => (match p.op with
      | .get _ => decide (p.relayOf.isNone)
      | _ => false)
    | none => false
  let s := s.modFabric fun fb => { fb with answers := fb.answers ++ [a] }
  s.post (if get && decide (status = 0) then .getReply else .windowAnswer) (arg1 id)

/-- The number of a far packet's message (R348, R349): a reflected store or a get's request is a message of its own; a chip's own remote write has
its number, and one that is passed on gets a number of this chip. -/
def State.farMessage (p : WPack) (s : State) : WPack × State :=
  let single := match p.op with
    | .store _ _ => true
    | .get _ => true
    | _ => false
  let key := numChip p.core * 2 ^ 32 + p.msgId
  if !single && p.relayOf.isNone then (p, s)
  else match (if single then none else find? s.fabric.onward key) with
    | some n => ({ p with msgId := n }, s)
    | none =>
      let n := s.fabric.farMsgId
      ({ p with msgId := n }, s.modFabric fun fb =>
        { fb with farMsgId := (n + 1) % 2 ^ 32, onward := if single then fb.onward else put key n fb.onward })

/-- Sends a window packet to its chip: through the own switch, over the fabric, over Ethernet, or nowhere, which answers
it at once with NACK 0x05 (R334, R354). -/
def State.sendWin (p : WPack) (s : State) : State :=
  let (id, s) := s.number
  let p := { p with id := id, src := s.chipNo, sentAt := s.cycle, resent := s.cycle, ce := false }
  let out := fun (p : WPack) (s : State) =>
    (s.modFabric fun fb => { fb with outgo := fb.outgo ++ [p] }).post .placementTimeout (arg1 id)
  if p.dst = s.chipNo then
    ((out p s).modFabric fun fb => { fb with flying := fb.flying ++ [p] }).post .windowArrival (arg2 id p.src)
  else
    match s.hop p.dst none with
    | some (port, vc) =>
      if (s.port port).down then (out p s).windowBack id s.chipNo 5 [] false false
      else (out p s).emit port vc false p.poison p.dst p.bytes.length fun f => { f with wpack := some p }
    | none =>
      match (s.routeEntry p.dst).getLsbD 0, s.farEntry p.dst with
      | false, some i =>
        let f := look FarD.reset s.fabric.far i
        let reduces := match p.op with
          | .reduce _ _ => true
          | _ => false
        if s.flowDown f.flow.toNat then (out p s).windowBack id s.chipNo 5 [] false false
        else if !f.qp && reduces then (out p s).windowBack id s.chipNo 7 [] false false
        else
          let (p, s) := s.farMessage { p with far := some i }
          if f.qp then
            let n := look 0 s.fabric.sendSeq f.conn.toNat
            let s := s.modFabric fun fb => { fb with sendSeq := put f.conn.toNat (n + 1) fb.sendSeq }
            ((out { p with seq := n } s).etherSend i (.packet i { p with seq := n })).post .queuePairResend (arg1 id)
          else ((out p s).etherSend i (.packet i p)).post .farResendTimer (arg1 id)
      | _, _ => (out p s).windowBack id s.chipNo 5 [] false false

/-- The buffer of a port that a request of this chip to another goes into; none where it takes no link. -/
def State.pathTo (s : State) (chip : Nat) : Option (Nat × Nat) :=
  if chip = s.chipNo then none
  else match s.hop chip none with
    | some (port, vc) => if (s.port port).down then none else some (port, vc * 2)
    | none => none

/-- Whether the paths to a list of chips have room for a store each, one flit long, under the counts of their buffers (R337, R359). -/
def State.windowRoomTo (s : State) (chips : List Nat) : Bool :=
  let ways := chips.filterMap s.pathTo
  ways.all fun w =>
    let p := s.port w.1
    let queued := (p.out.filter fun f => f.vc.toNat * 2 + (if f.cls then 1 else 0) = w.2).length
    decide (queued + (ways.filter fun v => v = w).length ≤ look 16 p.counts w.2)

/-- This chip's answer to a packet it received (R340); over Ethernet it echoes a congestion mark (R348). -/
def State.answerTo (q : WPack) (status : BitVec 8) (data : List Byte) (poison : Bool) (s : State) : State :=
  if q.src = s.chipNo then s.windowBack q.id s.chipNo status data poison false
  else
    match s.hop q.src none with
    | some (port, vc) =>
      if (s.port port).down then s
      else s.emit port vc true (wholly poison data.length) q.src data.length fun f =>
        { f with wans := some ⟨q.id, s.chipNo, q.src, status, data, poison, false, none⟩ }
    | none => match (s.routeEntry q.src).getLsbD 0, s.farEntry q.src with
      | false, some i => s.etherSend i (.answer i q status data poison q.ce)
      | _, _ => s

/-! ## Trackers (R341) -/

/-- Changes slot `k`, and what a save keeps of it. -/
def State.overSlot (k : Nat) (f : Slot → Slot) (s : State) : State :=
  let one := fun (e : Nat × Saved) =>
    (e.1, { e.2 with slots := e.2.slots.map fun (x : Nat × Slot) => if x.1 = k then (x.1, f x.2) else x })
  { s with saved := s.saved.map one }.modSlot k f

/-- Changes the tracker of a number of slot `k`, running or saved. -/
def State.modTracker (k id : Nat) (f : Tracker → Tracker) (s : State) : State :=
  s.overSlot k fun sl => { sl with trackers := sl.trackers.map fun (t : Tracker) => if t.id = id then f t else t }

/-- Whether a tracker of slot `k` is still needed: stores of it are unanswered or wait at the port, or it holds a failure. -/
def State.trackerKept (s : State) (k : Nat) (t : Tracker) : Bool :=
  decide (t.out ≠ 0) || t.fail || (s.cluster (domainOf (coreOf k))).wq.any fun w => decide (w.tracker = t.id)

/-- Lets go of the trackers of slot `k`, running or saved, that are free: nothing outstanding or queued, and no failure. -/
def State.trimTrackers (k : Nat) (s : State) : State :=
  s.overSlot k fun sl => { sl with trackers := sl.trackers.filter (s.trackerKept k) }

/-- A failed (store, receiver) pair: the first failure fixes status and receiver, each adds to the count. -/
def Tracker.failed (status receiver now : Nat) (t : Tracker) : Tracker :=
  if t.fail then { t with count := t.count + 1 }
  else { t with fail := true, status := status, receiver := receiver, count := t.count + 1, order := now }

/-- The word a failure is reported by (R341). -/
def failWord (window status receiver count : Nat) : Word :=
  w64 (2 ^ 63 + Nat.min count 0xFFFF * 2 ^ 32 + receiver % 16 * 2 ^ 18 + window % 1024 * 2 ^ 8 + status % 256)

/-! ## The window port (R337) -/

/-- The failure recorded by slot `k`'s tracker. -/
def State.trackerFail (k id status receiver : Nat) (s : State) : State :=
  let (n, s) := s.number
  s.modTracker k id (Tracker.failed status receiver n)

/-- A store taken by the window port, sent to each valid receiver in ascending order. -/
def State.sendStore (w : WStore) (s : State) : State :=
  let t := look TxEnt.reset s.fabric.tx w.winno
  let o : Int := (w.addr.toNat : Int) - (65536 * t.vbase.toNat : Nat)
  if !t.valid || decide (t.part.toNat ≠ w.part) || decide (o < 0) ||
      decide ((65536 * t.size.toNat : Nat) < o + (w.bytes.length : Nat)) then
    s.trackerFail w.slot w.tracker 4 0
  else
    ((List.range 16).filter fun i => (look Recv.reset t.recv i).valid).foldl (fun (s : State) i =>
      let r := look Recv.reset t.recv i
      (s.modTracker w.slot w.tracker fun t => { t with out := t.out + 1 }).sendWin
        { WPack.blank with
          dst := r.chip.toNat, core := s.numOf (coreOf w.slot), slot := w.slot, txwin := w.winno, recv := i,
          window := r.window.toNat, off := o.toNat, bytes := w.bytes, op := .store r.gen r.relay,
          key := (s.part w.part).key, tracker := w.tracker, no := w.no }) s

/-- WINDOW_PORT_TAKE (R337): the port takes the oldest store of domain `arg.a`'s window queue, once every path it is sent on
has room; it takes one store a cycle. -/
def execWindowPortTake (s : State) : Host.Outcome State Fault Refusal :=
  let d := s.arg.a
  .next (match (s.cluster d).wq with
    | [] => s
    | w :: l =>
      let t := look TxEnt.reset s.fabric.tx w.winno
      let ways := ((List.range 16).filter fun i => (look Recv.reset t.recv i).valid).map fun i => (look Recv.reset t.recv i).chip.toNat
      if s.fabric.tookAt = s.cycle + 1 || !s.windowRoomTo ways then s.defer
      else (((s.modCluster d fun c => { c with wq := l }).modFabric fun f => { f with tookAt := s.cycle + 1 }).sendStore w).trimTrackers w.slot)

/-! ## Packets turned back -/

/-- A NACK 0x05 toward the source of a packet that cannot go on (R354, R356, R360). -/
def State.nackWin (p : WPack) (s : State) : State :=
  if p.src = s.chipNo then s.windowBack p.id s.chipNo 5 [] false false else s.answerTo p 5 [] false

def State.nackPacket (p : Packet) (s : State) : State :=
  if numChip p.src = s.chipNo then s.unreachable p
  else match s.hop (numChip p.src) none with
    | some (port, vc) =>
      if (s.port port).down then s
      else s.emit port vc true [] (numChip p.src) 0 fun f =>
        { f with wans := some ⟨p.id, s.chipNo, numChip p.src, 5, [], false, false, some p⟩ }
    | none => s

/-- Whether the cores of a cluster are cut off: under containment reset (R373), or powered down (R394). -/
def State.cutOff (s : State) (c : Nat) : Bool := !isSup c && (s.resetting (clusterOf c) || !s.powered (clusterOf c))

/-- Whether a packet is for a core, or for the receive queue of its cluster, and not for the switch or the launch unit. -/
def Body.forCore : Body → Bool
  | .endNotice _ _ => false
  | .contribution _ _ _ _ => false
  | .partialUp _ _ _ _ _ _ => false
  | .result _ _ _ _ _ _ => false
  | .closeAsk _ => false
  | .closeAns _ => false
  | _ => true

/-- A packet for a core that is cut off: an answer is discarded; anything else is answered NACK, and an invocation into a reset
breaks with RESET (R54, R373). -/
def State.turnBack (p : Packet) (s : State) : State :=
  if p.body.isAnswer then s
  else if numChip p.src ≠ s.chipNo then s.nackPacket p
  else s.nacked (if s.resetting (clusterOf (numCore p.dst)) then rRESET else rUNREACHABLE) p

/-- The packet of the step in hand, taken out of the network where it arrives: turned back, or handled. -/
def State.receive (f : Packet → State → State) (s : State) : State :=
  match s.takePacket s.arg.a with
  | none => s
  | some (p, s) => if p.body.forCore && s.cutOff (numCore p.dst) then s.turnBack p else f p s

end Sys2Proof.Machine
end

