-- ==== Sys2Proof/Machine/Messages.lean ====
section
/-! DEFINITION. The steps that take messages and notices where they arrive (R16, R44, R45, R47, R55 to R58, R102), inbox cells (R18), admission (R19 to R24, R30), the run limit (R35), and what an unreachable hop does (R397). -/

namespace Sys2Proof.Machine

/-! ## Arrivals -/

/-- A resolution notice (R47): at the core its value names it leaves an alias entry and goes on to the home and to LOC; at
the home it resolves the promise; at an earlier sender it resolves the passed entry. The answer 1 is a wait for an entry. -/
def State.takeResolution (c : Nat) (key : Word) (r : Resol) (hop loc src : Nat) (s : State) : Except Nat State :=
  let s := s.freeStale c r
  if key = 0 then .ok s else
  match hop with
  | 0 =>
    let r := s.withBytes c r
    match s.keyedIndex c key with
    | some j =>
      let e := s.entry c j
      let s := if e.st = 1 then s.resolveEntry c chainFuel j r false src else s
      let s := s.sendNotices c key r loc
      .ok (if e.st = 1 ∧ e.loc ≠ hNum key ∧ e.loc ≠ loc then s.sendNotice c key e.loc r 2 0 else s)
    | none => match s.freeIndex c with
      | none => .error 1
      | some i => .ok (((s.setEntry c i (((s.entry c i).mk' 3 (s.numOf c) key).resolved r)).recheck c key).sendNotices c key r loc)
  | 1 => .ok (s.resolveHome c key r src)
  | _ => match s.keyedIndex c key with
    | none => .ok s
    | some j =>
      let e := s.entry c j
      if e.st ≠ 1 then .ok s
      else
        let s := s.resolveEntry c chainFuel j r false src
        .ok (if e.loc ≠ hNum key ∧ e.loc ≠ s.numOf c % 2 ^ 25 then s.sendNotice c key e.loc r 2 0 else s)

/-- A release notice at core `c` (R56): frees an answer, moved or alias entry, or a datum by its own handle; a datum's key alone goes
with its promise. None while the entry's queue is not empty (R42). -/
def State.takeRelease (c : Nat) (key : Word) (datum : Bool) (s : State) : Option State :=
  if datum then
    let e := s.entry c (hIdx key)
    some (if s.namesEntry c key ∧ e.role ≠ 0 ∧ e.st = 2 then s.freeEntry c (hIdx key) else s)
  else match s.keyedIndex c key with
    | none => some s
    | some j =>
      let e := s.entry c j
      if e.ownDatum (s.handleOf c j 2) then some ((s.setEntry c j { e with w2 := 0 }).modCore c fun k => { k with keyless := j :: k.keyless })
      else if e.st = 1 ∧ e.w4 ≠ 0 then none
      else
        let s := if e.moved then s.sendPacket (s.numOf c) e.loc (.release key false) else s
        some (s.freeEntry c j)

/-- A packet that may be refused for want of an entry, a pair, a cell or a place, taken by core `c`; the answer `error t` is a
refusal for table `t` of R36, 0 for the reorder area and for a release that waits for an empty queue. -/
def State.takeBody (c : Nat) (p : Packet) (s : State) : Except Nat State :=
  match p.body with
  | .invoke m => s.arrive c m
  | .resolve key r hop loc => s.takeResolution c key r hop loc p.src
  | .watch h w => match s.watchHere c h w with
    | some s => .ok s
    | none => .error 4
  | .release key datum => match s.takeRelease c key datum with
    | some s => .ok s
    | none => .error 0
  | _ => .ok s

/-- The words a table-full notice carries for a packet (R36). -/
def Body.noticeWords : Body → Word × Word
  | .invoke m => (m.target, m.reply)
  | .resolve key _ _ _ => (key, 0)
  | .watch h _ => (h, 0)
  | _ => (0, 0)

/-- The packet of the step in hand, taken where it arrives, or refused and held (R44, R45, R52). -/
def State.takeArrival (s : State) : State :=
  s.receive fun p s =>
    let c := numCore p.dst
    match s.takeBody c p with
    | .ok s => s
    | .error t =>
      let s := if t = 0 then s else s.tableNotice c t p.body.noticeWords.1 p.body.noticeWords.2
      s.hold c (.packet p)

/-- INVOCATION_ARRIVAL (R16, R17, R43, R50, R52). -/
def execInvocationArrival (s : State) : Host.Outcome State Fault Refusal := .next s.takeArrival

/-- FORWARDED_INVOCATION_ARRIVAL (R45). -/
def execForwardedInvocationArrival (s : State) : Host.Outcome State Fault Refusal := .next s.takeArrival

/-- RESOLUTION_NOTICE (R47). -/
def execResolutionNotice (s : State) : Host.Outcome State Fault Refusal := .next s.takeArrival

/-- WATCH_REQUEST (R55). -/
def execWatchRequest (s : State) : Host.Outcome State Fault Refusal := .next s.takeArrival

/-- What a core holds, tried again; none while it still has to wait. -/
def State.retryHeld (c : Nat) (h : Held) (s : State) : Option State :=
  match h with
  | .packet p => match s.takeBody c p with
    | .ok s => some s
    | .error _ => none
  | .brk reply loc r => s.breakReply c reply loc r
  | .forward m dst n => (s.spend c (creditKey dst)).map fun s =>
      (s.freeCell c n).sendPacket (s.numOf c) dst (.invoke { m with hop := s.numOf c })
  | .notice key dst r hop loc =>
      if s.forwarding c key then none else some (s.sendPacket (s.numOf c) dst (.resolve key r hop loc))
  | .pair i keyh sender =>
      let n := (s.core c).reorder.length
      let s := s.deliverHeld c i keyh sender 64
      if (s.core c).reorder.length < n ∨ !(s.core c).held.contains (.pair i keyh sender) then some s else none
  | .pass key =>
      let n := (s.heldOn c key).length
      let s := s.passHeld c key
      if (s.heldOn c key).length < n ∨ n = 0 then some s else none
  | .ask key => if (s.credit c key).requested then s.sendAsk c key else some s

/-- The first of the things core `c` holds, from place `n` on, that can go ahead. -/
def State.tryHeld (c : Nat) : Nat → List Held → State → Option State
  | _, [], _ => none
  | n, h :: l, s => match (s.modCore c fun k => { k with held := dropNth k.held n }).retryHeld c h with
    | some s => some s
    | none => State.tryHeld c (n + 1) l s

/-- TABLE_ENTRY_WAIT_RELEASE (R44): something core `arg.a` holds goes ahead, once a freed entry, pair, cell, place or credit lets it. -/
def execTableEntryWaitRelease (s : State) : Host.Outcome State Fault Refusal :=
  .next (match State.tryHeld s.arg.a 0 (s.core s.arg.a).held s with
    | some s => s
    | none => s.defer)

/-- LOCATION_NOTICE (R102): the home sets LOC, and the messages it holds go on. -/
def execLocationNotice (s : State) : Host.Outcome State Fault Refusal :=
  .next (s.receive fun p s => match p.body with
      | .locate key num =>
        let c := numCore p.dst
        let e := s.entry c (hIdx key)
        if s.namesEntry c key ∧ e.role = 1 ∧ e.st = 1 ∧ e.loc = s.numOf c % 2 ^ 25 then
          (s.setEntry c (hIdx key) (e.set0 23 25 num)).passHeld c key
        else s
      | _ => s)

/-- WHEN_NOTICE (R55): the registered activation joins its object's queue, or the waiting answer entry resolves (R104). -/
def execWhenNotice (s : State) : Host.Outcome State Fault Refusal :=
  .next (s.receive fun p s => match p.body with
      | .whenAns w h r =>
        let c := numCore p.dst
        match w with
        | .object _ obj gen ch => s.fireWhen c obj gen ch h r p.src
        | .entry _ i gen => if s.stands c i gen && decide ((s.entry c i).st = 1) then
            s.resolveEntry c chainFuel i (if r.broken then Resol.brk rDEPENDENCY r.handle r.cause.toNat else r) true p.src else s
      | _ => s)

/-- RELEASE_NOTICE (R56). -/
def execReleaseNotice (s : State) : Host.Outcome State Fault Refusal :=
  .next s.takeArrival

/-! ## Reservations (R57) -/

/-- Grants blocks of 8 to the waiting cores of cluster `k` in order, while fewer than 64 are out. -/
def State.grantBlocks (k : Nat) : List Nat → State → State
  | [], s => s
  | n :: l, s =>
    if 64 ≤ (s.cluster k).lent then s
    else State.grantBlocks k l
      ((s.modCluster k fun c => { c with lent := c.lent + 1, waiters := c.waiters.drop 1 }).sendPacket
        (coreNum s.chipNo (k * 8)) n (.grant k))

/-- RESERVATION_REQUEST (R57): a request joins the waiting ones of its target cluster, or a block comes back to it; it grants
what it can. -/
def execReservationRequest (s : State) : Host.Outcome State Fault Refusal :=
  .next (match s.takePacket s.arg.a with
    | none => if s.arg.b = 0 then s else s.grantBlocks (s.arg.b - 1) (s.cluster (s.arg.b - 1)).waiters
    | some _ => s.receive fun p s => match p.body with
      | .resvReq k =>
        let s := s.modCluster k fun c => { c with waiters := c.waiters ++ [p.src] }
        s.grantBlocks k (s.cluster k).waiters
      | .giveBack k =>
        let s := s.modCluster k fun c => { c with lent := c.lent - 1 }
        s.grantBlocks k (s.cluster k).waiters
      | _ => s)

/-- The credit key of a packet that comes from a cluster of the sending chip. -/
def Packet.creditKey (p : Packet) (k : Nat) : Nat := numChip p.src * 256 + k

/-- RESERVATION_GRANT (R57): 8 credits more; sends that wait for one look again. The time after which an idle block goes back begins
anew with it (DEDUCED, log entry 65). -/
def execReservationGrant (s : State) : Host.Outcome State Fault Refusal :=
  .next (s.receive fun p s => match p.body with
      | .grant k =>
        let c := numCore p.dst
        let v := s.credit c (p.creditKey k)
        (s.setCredit c (p.creditKey k) { v with blocks := v.blocks + 1, avail := v.avail + 8, requested := false, last := s.cycle }).post
          .reservationBlockReturn (arg2 c (p.creditKey k))
      | _ => s)

/-- CREDIT_RETURN (R57). -/
def execCreditReturn (s : State) : Host.Outcome State Fault Refusal :=
  .next (s.receive fun p s => match p.body with
      | .credit k =>
        let c := numCore p.dst
        let v := s.credit c (p.creditKey k)
        (s.setCredit c (p.creditKey k) { v with avail := Nat.min (v.avail + 1) (8 * v.blocks) }).post
          .reservationBlockReturn (arg2 c (p.creditKey k))
      | _ => s)

/-- RESERVATION_BLOCK_RETURN (R57): core `arg.a` gives back the blocks of cluster key `arg.b` that have all their credits home, once
it has not sent there for 10 µs. -/
def execReservationBlockReturn (s : State) : Host.Outcome State Fault Refusal :=
  let c := s.arg.a
  let v := s.credit c s.arg.b
  .next (if v.blocks = 0 ∨ v.avail < 8 then s
    else if s.cycle < v.last + 10000 then s.defer
    else (List.range (v.avail / 8)).foldl (fun s _ => s.returnBlock c s.arg.b) s)

/-! ## Inbox cells (R18) -/

/-- Gives the message at place `j` of object `i`'s queue a free cell of its class's inbox, if there is one. -/
def State.giveCell (c i : Nat) (s : State) (j : Nat) : State :=
  let q := look [] (s.core c).queues i
  let cls := (s.entry c i).cls
  match q[j]? with
  | none => s
  | some it =>
    if !it.needsCell || !(look ClassD.reset (s.core c).classes cls).inboxen then s
    else match it.body, s.freeInbox c cls with
      | .msg m _, some cell =>
        (s.deposit c cell m.payload).modCore c fun k =>
          { k with queues := put i (setNth q j { it with body := .msg m (some cell) }) k.queues }
      | _, _ => s

/-- Messages at the head of object `i`'s queue without a cell break NOINBOX once the class's inbox is disabled. -/
def State.dropHeads (c i : Nat) : Nat → State → State
  | 0, s => s
  | f + 1, s =>
    match look [] (s.core c).queues i with
    | [] => s
    | it :: r =>
      if !it.needsCell || (look ClassD.reset (s.core c).classes (s.entry c i).cls).inboxen then s
      else match it.body with
        | .msg m _ =>
          let s := s.modCore c fun k => { k with queues := put i r k.queues }
          State.dropHeads c i f (((s.freePlace c m).expEnd c m.expansion rNOINBOX).breakOrHold c m.target m.reply m.sender
            (Resol.brk rNOINBOX (ownOrigin m.reply) 0))
        | _ => s

/-- INBOX_CELL_ASSIGNMENT (R18): on core `arg.a`, messages that wait for a cell look again, in ascending order of their objects' table
indices and then of their places in the queue (DESIGN CHOICE, log entry 61). -/
def execInboxCellAssignment (s : State) : Host.Outcome State Fault Refusal :=
  let c := s.arg.a
  let qs := (s.core c).queues
  if !qs.any (fun e => e.2.any QItem.needsCell) then .next s else
  .next ((qs.foldl (fun (s : State) e =>
    ((List.range e.2.length).foldl (fun s j => s.giveCell c e.1 j) s).dropHeads c e.1 e.2.length) s).stir c)

/-! ## Admission (R19 to R24, R30) -/

/-- A head that could be admitted: its object, none for an anonymous one, its place in its queue, and its effective priority. -/
structure Cand where
  obj   : Option Nat
  place : Nat
  item  : QItem
  prio  : Nat
deriving DecidableEq, Repr

/-- The base priority of a head (R14, R30). -/
def State.basePrio (s : State) (c : Nat) (obj : Option Nat) (it : QItem) : Nat :=
  match obj with
  | none => 1
  | some i =>
    let ch := match it.body with
      | .msg m _ => m.channel.toNat
      | .whenRes ch _ _ => ch.toNat
      | _ => 0
    (look Handler.reset (s.core c).handlers (64 * (s.entry c i).cls + ch)).prio.toNat

/-- The effective priority of a head that has been runnable from `since` on (R21). -/
def effPrio (prio agesint cycle since : Nat) : Nat := Nat.min 3 (prio + (cycle - since) / Nat.max 64 agesint)

/-- The runnable heads of a core: the first item of each object's queue, and every anonymous activation (R20, R30). -/
def State.candidates (s : State) (c : Nat) : List Cand :=
  let k := s.core c
  let eff := fun (obj : Option Nat) (it : QItem) =>
    effPrio (s.basePrio c obj it) k.agesint.toNat s.cycle (it.since.getD s.cycle)
  (k.queues.filterMap fun e => match e.2 with
    | [] => none
    | it :: _ => if s.headRunnable c e.1 it then some ⟨some e.1, 0, it, eff (some e.1) it⟩ else none) ++
  k.anon.zipIdx.map fun e => ⟨none, e.2, e.1, eff none e.1⟩

/-- Whether `a` goes before `b` (R20); a later one in the list of candidates never goes before an equal one. -/
def Cand.before (a b : Cand) (now : Nat) : Bool :=
  let sa := a.item.since.getD now
  let sb := b.item.since.getD now
  if a.prio ≠ b.prio then decide (b.prio < a.prio)
  else if sa ≠ sb then decide (sa < sb)
  else if a.item.sender % 2 ^ 25 ≠ b.item.sender % 2 ^ 25 then decide (a.item.sender % 2 ^ 25 < b.item.sender % 2 ^ 25)
  else match a.obj, b.obj with
    | some _, none => true
    | some i, some j => decide (i < j)
    | _, _ => false

/-- The head a core admits next. -/
def State.chosen (s : State) (c : Nat) : Option Cand :=
  (s.candidates c).foldl (fun (b : Option Cand) a => match b with
    | none => some a
    | some b => if a.before b s.cycle then some a else some b) none

/-- A slot as admission sets it (R23): what each kind of activation adds is set afterwards. -/
def Slot.admitted (now : Nat) (act : Act) (pc : BitVec 48) (sl : Slot) : Slot :=
  { sl with
    x := [], f := [], p := [], pc := pc, ready := now + 1, pend := [], active := true, park := .run, woken := false, act := act, replyh := 0, actarg := 0, xferid := 0, lcount := 0, rmode := 0,
    rowmask := 0xFFFFFFFFFFFFFFFF, temp := 0x3F80, lanep := 0, merfault := 0, grstat := 0, nanseen := 0, elapsed := if sl.frozen then 0 else now, noticed := false, lost := false, inl := none,
    streams := [], shadow := Shadow.reset, mshadow := MerShadow.reset, auction := none, waiting := false, trackers := [],
    fences := sl.fences.filter fun f => f.sig.isSome, sends := [], cmds := [] }

/-- Sets x registers from `r` on. -/
def Slot.setXs (r : Nat) : List Word → Slot → Slot
  | [], sl => sl
  | v :: l, sl => Slot.setXs (r + 1) l (sl.setX (BitVec.ofNat 5 r) v)

/-- The scratchpad form of an offset in the own cluster. -/
def ownScratch (off : Nat) : Word := w64 (0x80000000FF000000 + off)

/-- The activation of an item in slot `k` (R23, R24). -/
def State.start (c k : Nat) (obj : Option Nat) (it : QItem) (s : State) : State :=
  let i := obj.getD 0
  let e := s.entry c i
  let datum := decide (e.role ≠ 0)
  let state := if datum then 0 else e.w1
  let bytes := if datum then [e.w4, e.w5, e.w6, e.w7] else [0, 0, 0, 0]
  let hd := fun (ch : BitVec 6) => look Handler.reset (s.core c).handlers (64 * e.cls + ch.toNat)
  let cls : BitVec 4 := BitVec.ofNat 4 e.cls
  let free := fun (s : State) => s.modCluster (domainOf c) fun k => { k with used := k.used - 1 }
  match it.body with
  | .msg m cell =>
    let h := hd m.channel
    let act : Act := ⟨i, m.target, datum, cls, m.channel, m.kinds, h.prio, if m.expansion.isSome then .engine else .message,
      BitVec.ofNat 9 m.payload.length, cell, h.pc, m.expansion⟩
    let arg := fun (j : Nat) => if m.kind j = 3 then 0 else m.arg j
    (s.freePlace c m).modSlot k fun sl =>
      { (((sl.admitted s.cycle act h.pc).setXs 3 [m.target, state]).setXs 10 ([arg 0, arg 1, arg 2, arg 3] ++ bytes)) with
        replyh := m.reply, actarg := match cell with
          | some o => ownScratch o
          | none => 0 }
  | .whenRes ch h r =>
    let hdl := hd ch
    let own := s.handleOf c i (if datum then 2 else 0)
    let act : Act := ⟨i, own, datum, cls, ch, 0, hdl.prio, .whenRes, 0, none, hdl.pc, none⟩
    let l := if r.broken then [r.reason.setWidth 64, r.handle, r.cause.setWidth 64, 0]
      else if hKind r.handle = 2 then [r.d0, r.d1, r.d2, r.d3] else [0, 0, 0, 0]
    s.modSlot k fun sl =>
      { (((sl.admitted s.cycle act hdl.pc).setXs 3 [own, state]).setXs 14 l) with actarg := h }
  | .anon pc a0 a1 a2 a3 ex =>
    let act : Act := { Act.none with prio := 1, source := .anonymous, handler := pc, expansion := ex }
    ((free s).sendPacket (s.numOf c) it.sender (.credit (clusterOf c))).modSlot k fun sl =>
      (sl.admitted s.cycle act pc).setXs 10 [a0, a1, a2, a3]
  | .engine pc postval xferid =>
    let act : Act := { Act.none with prio := 1, source := .engine, handler := pc }
    (free s).modSlot k fun sl => { sl.admitted s.cycle act pc with actarg := postval, xferid := xferid }
  | .arm pc word addr =>
    let act : Act := { Act.none with prio := 1, source := .anonymous, handler := pc }
    (free s).modSlot k fun sl => { (sl.admitted s.cycle act pc).setXs 10 [word] with actarg := addr }

/-- The chosen item leaves its queue. -/
def State.leaveQueue (c : Nat) (a : Cand) (s : State) : State :=
  s.modCore c fun k => match a.obj with
    | none => { k with anon := dropNth k.anon a.place }
    | some i => { k with queues := put i ((look [] k.queues i).drop 1) k.queues }

/-- Whether a core admits at all: its cluster is on, its partition neither saved nor resetting, and it is not quarantined (R379, R394, R399). -/
def State.admits (s : State) (c : Nat) : Bool :=
  !(s.core c).quar && (isSup c ||
    (decide ((s.cluster (clusterOf c)).pstate = 1) && decide ((s.part (s.corePart c)).st ≠ 2) && decide ((s.part (s.corePart c)).st ≠ 3)))

/-- Whether the release that an activation start on core `c` is paired with has a scope wider than the cluster, so that the start
invalidates the L1 (R164, R165). -/
def State.startsWide (s : State) (c : Nat) (b : QBody) : Bool :=
  match b with
  | .msg m _ => decide (hKind m.target = 1) || m.expansion.isSome || decide (numChip m.sender ≠ s.chipNo) ||
      decide (clusterOf (numCore m.sender) ≠ clusterOf c)
  | .whenRes _ _ _ => true
  | .anon _ _ _ _ _ _ => true
  | .engine _ _ _ => true
  | .arm _ _ _ => true

/-- ACTIVATION_ADMISSION (R20): core `arg.a` admits the head that goes first into its lowest free slot, at most one a cycle;
admission is an acquire (R23, R165). -/
def execActivationAdmission (s : State) : Host.Outcome State Fault Refusal :=
  let c := s.arg.a
  let free := ((List.range 8).map fun i => c * 8 + i).filter fun k => !(s.slot k).active
  .next (if !s.admits c then s
    else match s.chosen c, free with
      | none, _ => s
      | _, [] => s
      | some a, _ =>
        if s.cycle < (s.core c).admitted then s.defer
        else match free.find? fun k => decide ((s.slot k).ready ≤ s.cycle) with
          | none => s.defer
          | some k =>
            let s := (s.leaveQueue c a).modCore c fun k => { k with admitted := s.cycle + 1 }
            let (n, s) := (s.start c k a.obj a.item).number
            let s := s.modSlot k fun sl => { sl with actNo := n }
            (if s.startsWide c a.item.body then s.flushL1 (domainOf c) else s).stir c)

/-! ## The run limit (R35) -/

/-- Whether slot `k` has held its activation, neither parked nor frozen, for the run limit of its partition without a notice. -/
def State.overRun (s : State) (k : Nat) : Bool :=
  let sl := s.slot k
  let l := (s.part (s.corePart (coreOf k))).runlimit.toNat
  sl.active && decide (sl.park = .run) && !sl.frozen && !sl.noticed && decide (l ≠ 0) && decide (sl.elapsed + l ≤ s.cycle)

/-- RUN_LIMIT_EXPIRY (R35): the notice names slot `arg.a` and the handler PC. -/
def execRunLimitExpiry (s : State) : Host.Outcome State Fault Refusal :=
  let k := s.arg.a
  let sl := s.slot k
  .next (if !s.overRun k then s
    else (s.modSlot k fun sl => { sl with noticed := true }).tellHandler (coreOf k) (s.corePart (coreOf k)) 1
      (w64 (s.cycle - sl.elapsed)) (sl.act.handler.setWidth 64) 0 (w64 (slotSpec k)))

end Sys2Proof.Machine
end

