-- ==== Sys2Proof/Machine/Rings.lean ====
section
/-! DEFINITION. Operand rings: their layout and counters, reservation and production of stages, claims and pops (R256 to R260). -/

namespace Sys2Proof.Machine

/-! ## Rings -/

def isFour (c : Nat) : Bool := decide (c = 6) || decide (c = 7)

/-- Bytes of a stage, and elements of a tile as a copy walks them: a 4-bit format is walked byte by byte (R233, R257). -/
def Ring.stageBytes (r : Ring) : Nat :=
  if r.scale then 128 else if r.fmt = 1 then 4096 else if isFour r.fmt.toNat then 1024 else 2048
def Ring.tile (r : Ring) : Nat := if r.scale then 64 else if isFour r.fmt.toNat then 1024 else 2048
def Ring.stages (r : Ring) : Nat := r.nbanks * 32768 / r.stageBytes

/-- The signed difference of two counters (R258). -/
def ctrDiff (a b : BitVec 32) : Int := (a - b).toInt

def Ring.claimOf (r : Ring) (c : Nat) : BitVec 32 := look 0 r.claim c
def Ring.popOf (r : Ring) (c : Nat) : BitVec 32 := look 0 r.pop c

/-- The consumers of a ring. -/
def Ring.consumers (r : Ring) : List Nat := (List.range 8).filter fun c => r.cmask.getLsbD c

/-- TAIL: the least POP of a consumer, by signed difference (R258). -/
def Ring.tail (r : Ring) : BitVec 32 :=
  match r.consumers with
  | [] => 0
  | c :: l => l.foldl (fun t d => if ctrDiff (r.popOf d) t < 0 then r.popOf d else t) (r.popOf c)

/-- Whether a producer can reserve a stage (R259). -/
def Ring.hasFree (r : Ring) : Bool := decide (ctrDiff r.resv r.tail < (r.stages : Nat))

/-- Whether stage `n` is produced. -/
def Ring.produced (r : Ring) (n : BitVec 32) : Bool := decide (0 < ctrDiff r.head n)

/-- Whether an instruction of cycle `t` finds stage `n` produced: it sees HEAD as it stood before the cycle (R279). -/
def Ring.producedAt (r : Ring) (t : Nat) (n : BitVec 32) : Bool :=
  decide (0 < ctrDiff (if r.moved = t + 1 then r.was else r.head) n)

/-- Idle (R271): RESV = HEAD = TAIL, and every core has popped what it claimed. -/
def Ring.idle (r : Ring) : Bool :=
  decide (r.resv = r.head) && decide (r.head = r.tail) && (List.range 8).all fun c => decide (r.claimOf c = r.popOf c)

/-- Moves HEAD over the written stages, in reservation order. -/
def Ring.advance : Nat → Ring → Ring
  | 0, r => r
  | f + 1, r =>
    if r.done.contains r.head.toNat then
      Ring.advance f { r with head := r.head + 1, done := r.done.filter (· != r.head.toNat) }
    else r

/-- Stage `n` is written in cycle `t` (R259). -/
def Ring.written (t n : Nat) (r : Ring) : Ring :=
  Ring.advance (r.done.length + 1) { r with done := r.done ++ [n], was := if r.moved = t + 1 then r.was else r.head, moved := t + 1 }

def State.ring (s : State) (cl n : Nat) : Ring := look Ring.undefined (s.cluster cl).rings n
def State.modRing (cl n : Nat) (f : Ring → Ring) (s : State) : State :=
  s.modCluster cl fun c => { c with rings := put n (f (look Ring.undefined c.rings n)) c.rings }

/-- Where a stage of a ring begins in its cluster's SRAM. -/
def Ring.base (r : Ring) (stage : BitVec 32) : Nat := r.first * 32768 + stage.toNat % r.stages * r.stageBytes

/-- The ring stages a matrix command reads. -/
def MatCmd.stages : MatCmd → List (Nat × BitVec 32)
  | .mma a b sa sb _ _ _ _ => [(a, sa), (b, sb)]
  | .mmaq a b q sa sb ss _ _ _ _ => [(a, sa), (b, sb), (q, ss)]
  | _ => []

end Sys2Proof.Machine
end

