-- ==== Sys2Proof/Machine/Copy.lean ====
section
/-! DEFINITION. What a copy does: tensor-map walks (R233, R235), element formats (R237), element reads and writes (R149, R150, R240, R242), the checks of a command at issue (R239 to R241, R259, R361), remote payload (R346) and completion (R241, R242). -/

namespace Sys2Proof.Machine

/-! ## Maps and walks -/

/-- Bytes of an element as a map addresses it (R233). -/
def elemBytes (c : Nat) : Nat := if isFour c then 1 else fmtBits c / 8

/-- A tensor map from its image's words (R233); none where the image is malformed (R251). `ws` are the doublewords from +0. -/
def TMap.ofWords (ws : List Word) : Option TMap :=
  let g := fun (i : Nat) => ws.getD i 0
  let w1 := g 1
  let nd := wbits w1 6 5
  if 10 ≤ wbits w1 0 4 ∨ 2 ≤ wbits w1 4 2 ∨ nd = 0 ∨ 16 < nd ∨ wbits w1 11 53 ≠ 0 ∨ wbits (g 2) 32 32 ≠ 0 ∨
      ((List.range 5).any fun i => decide (g (3 + i) ≠ 0)) = true then none
  else some
    { valid := true, base := g 0, fmt := BitVec.ofNat 4 w1.toNat, padmode := BitVec.ofNat 2 (wbits w1 4 2),
      padval := BitVec.ofNat 32 (g 2).toNat,
      dims := (List.range nd).map fun d =>
        ⟨BitVec.ofNat 32 (g (8 + 2 * d)).toNat, BitVec.ofNat 32 (wbits (g (8 + 2 * d)) 32 32), g (9 + 2 * d)⟩ }

/-- The elements a map walks; an invalid map has none. -/
def TMap.count (m : TMap) : Nat := if m.valid then m.dims.foldl (fun n d => n * d.size.toNat) 1 else 0

/-- The walk coordinates of element `e`, dimension 0 first (R232). -/
def walkCoords : List TDim → Nat → List Int
  | [], _ => []
  | d :: l, e => ((e % d.size.toNat : Nat) : Int) :: walkCoords l (e / d.size.toNat)

/-- The address of the element at coordinates `cs`; none where it is out of bounds (R235). -/
def TMap.at (m : TMap) (cs : List Int) : Option Word :=
  if ((m.dims.zip cs).all fun x => decide (0 ≤ x.2) && decide (x.2 < (x.1.bound.toNat : Int))) = true then
    some ((m.dims.zip cs).foldl (fun a x => a + BitVec.ofInt 64 (x.2 * x.1.stride.toInt)) m.base)
  else none

/-- The smallest range that holds a map's in-bounds elements, as offsets from its base; none where there are none. -/
def TMap.span (m : TMap) : Option (Int × Int) :=
  if m.dims.any (fun d => decide (d.size = 0) || decide (d.bound = 0)) then none
  else some (m.dims.foldl (fun r d =>
    let top : Int := ((Nat.min d.size.toNat d.bound.toNat - 1 : Nat) : Int) * d.stride.toInt
    (r.1 + min 0 top, r.2 + max 0 top)) (0, 0))

/-- The same with the outermost coordinates of a gather (R240), those of them that are in bounds. -/
def TMap.gatherSpan (m : TMap) (outer : List Int) : Option (Int × Int) :=
  match m.dims.getLast? with
  | none => none
  | some d =>
    let js := outer.filter fun j => decide (0 ≤ j) && decide (j < (d.bound.toNat : Int))
    match js.map fun j => j * d.stride.toInt, { m with dims := m.dims.dropLast }.span with
    | o :: os, some (lo, hi) => some (lo + os.foldl min o, hi + os.foldl max o)
    | _, _ => none

/-! ## A command's fields (R239) -/

namespace CopyCmd

def op (c : CopyCmd) : Nat := wbits c.sh.ctl 0 4
def rfmt (c : CopyCmd) : Nat := wbits c.sh.ctl 4 2
def arrives (c : CopyCmd) : Bool := c.sh.ctl.getLsbD 8
def posts (c : CopyCmd) : Bool := c.sh.ctl.getLsbD 9
def fills (c : CopyCmd) : Bool := c.sh.ctl.getLsbD 10
def activates (c : CopyCmd) : Bool := c.sh.ctl.getLsbD 11
def toRing (c : CopyCmd) : Bool := decide (c.sh.dkind = 3)
def remote (c : CopyCmd) : Bool := decide (c.sh.dkind = 4)
def isGet (c : CopyCmd) : Bool := decide (c.op = 5)
def reduces (c : CopyCmd) : Bool := decide (1 ≤ c.op) && decide (c.op ≤ 3)
/-- 8-byte elements moved as INT64, whatever the formats (R240). -/
def raw8 (c : CopyCmd) : Bool := c.reduces && decide (c.rfmt = 2)
/-- The stage of the iteration in hand (R245). -/
def stageNo (c : CopyCmd) : Nat := if c.loop then c.iter % Nat.max 1 c.stages else 0
def elems (c : CopyCmd) : Nat := c.smap.count
def cluster (c : CopyCmd) : Nat := clusterOf c.core
def endChip (c : CopyCmd) : Nat := wbits c.sh.dremote 0 14
def endWindow (c : CopyCmd) : Nat := wbits c.sh.dremote 16 10
/-- Whether the iteration in hand is the last. -/
def last (c : CopyCmd) : Bool := !c.loop || decide (c.iters ≤ c.iter + 1)
/-- Whether all completion writes of the whole command are made; its activation may still wait for room. -/
def finished (c : CopyCmd) : Bool := c.told && (c.last || decide (c.stage = .cancelled) || decide (c.stage = .done))

/-- The source coordinates of element `e`, with its iteration's origin and, in a gather, the index read (R240, R245). The index stands for the
outermost coordinate whole: an iteration's origin in that dimension is not added to it (DESIGN CHOICE, log entry 92). -/
def srcCoords (c : CopyCmd) (e : Nat) (idx : Option Int) : List Int :=
  let cs := walkCoords c.smap.dims e
  let cs := if c.loop then (cs.zip (c.steps ++ List.replicate 16 0)).map fun x => x.1 + x.2 * (c.iter : Int) else cs
  match idx with
  | none => cs
  | some i => cs.dropLast ++ [i]

/-- The outermost destination coordinate of element `e`. -/
def outer (c : CopyCmd) (e : Nat) : Nat := ((walkCoords c.dmap.dims e).getLast?.getD 0).toNat

end CopyCmd

/-- Where element `e` of a command goes: an address, or a window offset for a remote destination; none out of bounds. -/
def State.destAt (s : State) (c : CopyCmd) (e : Nat) : Option Word :=
  if c.toRing then
    let r := s.ring c.cluster c.sh.dring.toNat
    let off := r.base (BitVec.ofNat 32 (c.ring.getD 0)) + e * elemBytes r.fmt.toNat
    some (w64 (2 ^ 63 + c.cluster * 2 ^ 24 + off))
  else (c.dmap.at (walkCoords c.dmap.dims e)).map fun a => a + BitVec.ofInt 64 (c.sstride.toInt * (c.stageNo : Int))

/-- The format of an element of a map at an address: its bank's in a scratchpad, else the map's (R134, R237). -/
def State.fmtAt (s : State) (core : Nat) (m : TMap) (far : Bool) (a : Word) : Nat :=
  if !far && a.getLsbD 63 then
    let k := if wbits a 24 8 = 255 then clusterOf core else wbits a 24 8
    (look Bank.reset (s.cluster k).banks (wbits a 0 20 / 32768)).fmt.toNat
  else m.fmt.toNat

/-- The format of a command's destination element. -/
def State.destFmt (s : State) (c : CopyCmd) (a : Word) : Nat :=
  if c.toRing then (s.ring c.cluster c.sh.dring.toNat).fmt.toNat else s.fmtAt c.core c.dmap c.remote a

/-- Bytes of a destination element; the map's format where it is out of bounds (R235). -/
def State.destBytes (s : State) (c : CopyCmd) (e : Nat) : Nat :=
  if c.raw8 then 8 else
  match s.destAt c e with
  | some a => elemBytes (s.destFmt c a)
  | none => elemBytes c.dmap.fmt.toNat

/-- Whether every destination element of a command is of the map's own format: the destination is remote, or no address of its map lies in a
scratchpad. -/
def CopyCmd.ownFormat (c : CopyCmd) : Bool :=
  c.remote || match c.dmap.span with
    | none => true
    | some (lo, hi) =>
      let b : Int := ((c.dmap.base + BitVec.ofInt 64 (c.sstride.toInt * (c.stageNo : Int))).toNat : Int)
      decide (0 ≤ b + lo) && decide (b + hi < 2 ^ 63)

/-- The byte count of a command or iteration (R235); a destination that is missing, invalid or no ring has no elements (DEDUCED, log entry 78).
That of a command to a ring goes by the elements of its source map, also where it is refused because they are not the ring's tile (DESIGN CHOICE,
log entry 92). -/
def State.byteCount (s : State) (c : CopyCmd) : Nat :=
  if c.sh.dkind = 0 then 0
  else if c.toRing then
    let r := s.ring c.cluster c.sh.dring.toNat
    if r.defined then c.elems * (if c.raw8 then 8 else elemBytes r.fmt.toNat) else 0
  else if c.raw8 then c.dmap.count * 8
  else if c.ownFormat then c.dmap.count * elemBytes c.dmap.fmt.toNat
  else c.dmap.count.fold (fun e _ b => b + s.destBytes c e) 0

/-! ## Engine accesses -/

/-- How an item fails: its status (R242), the cause and the address of its fault message, and the entry to watch. -/
structure Fail where
  status : Nat
  cause  : Nat
  addr   : Word
  entry  : Option Nat
deriving DecidableEq, Repr

/-- The status of a failed check (R242). -/
def statusOf (cause : Nat) : Nat :=
  if cause = cNOTPRESENT then 1 else if cause = cDISCARDWRITE then 2 else if cause = cPOISON then 3 else 4

/-- A run of bytes cut at 64-byte lines. -/
def linePieces : Nat → Word → Nat → List (Word × Nat)
  | 0, _, _ => []
  | f + 1, a, n =>
    if n = 0 then [] else
    let k := Nat.min n (64 - a.toNat % 64)
    (a, k) :: linePieces f (a + w64 k) (n - k)

/-- Whether a scratchpad address lies in a cluster under containment reset, or whose power is off (R243, R394). -/
def State.targetResets (s : State) (core : Nat) (a : Word) : Bool :=
  let k := if wbits a 24 8 = 255 then clusterOf core else wbits a 24 8
  a.getLsbD 63 && (s.resetting k || !s.powered k)

/-- The check of one piece for an engine by way of a translation cache (R147, R149, R150): its home, none for a discarded page. An ill-formed
scratchpad address names no cluster (check 2). A miss that finds
every walk busy waits for one to end (R146): the engine's step stands for the moment after it (log entry 72). -/
def State.engineCheckBy (u : TUnit) (core : Nat) (a : Word) (n : Nat) (need : Need) (s : State) : Except Fail (Option Home) × State :=
  if scratchForm a && s.targetResets core a then (.error ⟨5, 0, a, none⟩, s)
  else
    let answer : Chk × State → Except Fail (Option Home) × State
      | (.ok h, s) => (.ok (some (if need.wr then s.landHome h else h)), s)
      | (.disc, s) => (if need.wr then .error ⟨2, cDISCARDWRITE, a, s.entryBy u core a⟩ else .ok none, s)
      | (.bad c e, s) => (.error ⟨statusOf c, if c = cWINDOWLOAD then cPROTECTION else c, a, e⟩, s)
      | (_, s) => (.error ⟨4, cPROTECTION, a, none⟩, s)
    match s.checkBy u core a n need with
    | (.busy, s) => answer ((s.endWalk u (domainOf core)).checkBy u core a n need)
    | r => answer r

abbrev State.engineCheck (core : Nat) (a : Word) (n : Nat) (need : Need) (s : State) : Except Fail (Option Home) × State :=
  s.engineCheckBy .tlb core a n need

/-- The checks of all pieces, in order. -/
def State.engineChecksBy (u : TUnit) (core : Nat) (need : Need) : List (Word × Nat) → State → Except Fail (List (Option Home × Nat)) × State
  | [], s => (.ok [], s)
  | (a, n) :: l, s =>
    match s.engineCheckBy u core a n need with
    | (.error f, s) => (.error f, s)
    | (.ok h, s) => match State.engineChecksBy u core need l s with
      | (.error f, s) => (.error f, s)
      | (.ok r, s) => (.ok ((h, n) :: r), s)

abbrev State.engineChecks (core : Nat) (need : Need) (l : List (Word × Nat)) (s : State) : Except Fail (List (Option Home × Nat)) × State :=
  s.engineChecksBy .tlb core need l

/-- An engine's read of `n` bytes, with whether any of them is poisoned. -/
def State.engineReadBy (u : TUnit) (core : Nat) (a : Word) (n : Nat) (s : State) : Except Fail (List Byte × Bool) × State :=
  match s.engineChecksBy u core .engineRead (linePieces (n + 1) a n) with
  | (.error f, s) => (.error f, s)
  | (.ok l, s) =>
    let s := l.foldl (fun (s : State) x => match x.1 with
      | some h => s.touch h
      | none => s) s
    (.ok (l.flatMap fun x => match x.1 with
        | some h => s.homeBytes h x.2
        | none => List.replicate x.2 0,
      l.any fun x => match x.1 with
        | some h => s.homePoison h
        | none => false), s)

abbrev State.engineRead (core : Nat) (a : Word) (n : Nat) (s : State) : Except Fail (List Byte × Bool) × State := s.engineReadBy .tlb core a n

/-- The own cluster's L1 loses the line an engine wrote. -/
def State.dropCluster (cl : Nat) (h : Home) (s : State) : State := match h with
  | .dram _ pa _ _ => s.dropL1 cl pa
  | _ => s

/-- An engine's write at homes that passed their checks. -/
def State.engineLand (cl : Nat) (bad : Bool) : List (Option Home × Nat) → List Byte → State → State
  | [], _, s => s
  | (h, n) :: l, b, s =>
    State.engineLand cl bad l (b.drop n) (match h with
      | some h => (s.engineWrite h (b.take n) bad).dropCluster cl h
      | none => s)

/-- An engine's write of bytes, its checks first; the homes written. -/
def State.engineStoreBy (u : TUnit) (core : Nat) (a : Word) (l : List Byte) (bad : Bool) (s : State) : Except Fail (List Home) × State :=
  match s.engineChecksBy u core .engineWrite (linePieces (l.length + 1) a l.length) with
  | (.error f, s) => (.error f, s)
  | (.ok hs, s) => (.ok (hs.filterMap (·.1)), s.engineLand (clusterOf core) bad hs l)

abbrev State.engineStore (core : Nat) (a : Word) (l : List Byte) (bad : Bool) (s : State) : Except Fail (List Home) × State :=
  s.engineStoreBy .tlb core a l bad

/-! ## Elements (R235, R237, R240) -/

/-- One element to be written: place in the walk, destination, bytes, poison. -/
structure Elem where
  e    : Nat
  at'  : Word
  data : List Byte
  bad  : Bool
  src  : Word       -- where its source lies
deriving DecidableEq, Repr

/-- The index of a gather (R240). -/
def State.gatherIndex (c : CopyCmd) (e : Nat) (s : State) : Except Fail (Option Int × Bool) × State :=
  if c.op ≠ 4 then (.ok (none, false), s)
  else match s.engineRead c.core (c.sh.gidx + w64 (4 * c.outer e)) 4 with
    | (.error f, s) => (.error f, s)
    | (.ok (l, bad), s) => (.ok (some (ofBytes l : Nat), bad), s)

/-- A source element as it stands: its format, its bits, its poison, its address (R235). Where elements are moved as 8 bytes, PADVAL is
zero-extended to them (DESIGN CHOICE, log entry 92). -/
def State.sourceElem (c : CopyCmd) (e : Nat) (s : State) : Except Fail (Nat × Nat × Bool × Word) × State :=
  match s.gatherIndex c e with
  | (.error f, s) => (.error f, s)
  | (.ok (idx, bad), s) =>
    match c.smap.at (c.srcCoords e idx) with
    | none =>
      let n := if c.raw8 then 8 else elemBytes c.smap.fmt.toNat
      (.ok (c.smap.fmt.toNat, if c.smap.padmode = 1 then c.smap.padval.toNat % 2 ^ (8 * n) else 0, bad,
        c.sh.gidx + w64 (4 * c.outer e)), s)
    | some a =>
      let f := s.fmtAt c.core c.smap c.isGet a
      match s.engineRead c.core a (if c.raw8 then 8 else elemBytes f) with
      | (.error f, s) => (.error f, s)
      | (.ok (l, p), s) => (.ok (f, ofBytes l, p || bad, if bad then c.sh.gidx + w64 (4 * c.outer e) else a), s)

/-- An element's value at the destination's format (R237). -/
def CopyCmd.convert (c : CopyCmd) (src dst v : Nat) : Nat := if c.raw8 then v else (Machine.convert src dst mRNE v).1

/-- The greater magnitude, and a canonical NaN for any NaN (R240). -/
def absMax (f : Fmt) (d v : Nat) : Nat :=
  if (f.decode d).isNan || (f.decode v).isNan then f.nanBits
  else (f.pick true d (v % f.signBit)).1

/-- One element of a reduction (R240): `op` 1 add, 2 max, 3 absmax; `rfmt` 0 FP32, 1 BF16, 2 INT64. -/
def reduceElem (op rfmt d v : Nat) : Nat :=
  let f := fmtOf (BitVec.ofNat 2 rfmt)
  match op, rfmt with
  | 1, 2 => (d + v) % 2 ^ 64
  | 1, _ => (f.fadd mRNE d v).1
  | 2, _ => (f.pick true d v).1
  | _, _ => absMax f d v

def reduceBytes (rfmt : Nat) : Nat := if rfmt = 0 then 4 else if rfmt = 1 then 2 else 8

/-! ## Items (R242) -/

/-- The element that a place of the walk belongs to, and whether the place is that of its bytes behind a line's end. -/
def placeElem (p : Nat) : Nat := p / 2
def placeRest (p : Nat) : Bool := decide (p % 2 = 1)

/-- The destination bytes of a place of the walk: their address, where in the element they begin, how many they are; none where there are
none. An element that straddles two lines has bytes in both, but one of a reduction, which is updated whole, counts to the line of its first byte
(DESIGN CHOICE, log entry 89). -/
def State.destPart (s : State) (c : CopyCmd) (p : Nat) : Option (Word × Nat × Nat) :=
  match s.destAt c (placeElem p) with
  | none => none
  | some a =>
    let n := s.destBytes c (placeElem p)
    let k := if c.reduces then n else Nat.min n (64 - a.toNat % 64)
    if !placeRest p then some (a, 0, k) else if k < n then some (a + w64 k, k, n - k) else none

/-- The places of a command's walk. -/
def CopyCmd.places (c : CopyCmd) : Nat := 2 * c.elems

/-- The address of a place's bytes. -/
def State.placeAddr (s : State) (c : CopyCmd) (p : Nat) : Option Word := (s.destPart c p).map (·.1)

/-- The next place from `e` on that has bytes; `f` bounds the search. -/
def State.nextIn (s : State) (c : CopyCmd) : Nat → Nat → Nat
  | 0, e => e
  | f + 1, e => if (s.placeAddr c e).isSome then e else s.nextIn c f (e + 1)

/-- The places from `e` on that the walk writes into line `line` before it leaves it, those without bytes passed over; and the place behind
them. `f` bounds the search. -/
def State.itemRun (s : State) (c : CopyCmd) (line : Nat) : Nat → Nat → List (Nat × Word) × Nat
  | 0, e => ([], e)
  | f + 1, e =>
    match s.placeAddr c e with
    | none => s.itemRun c line f (e + 1)
    | some a =>
      if a.toNat / 64 = line then
        let r := s.itemRun c line f (e + 1)
        ((e, a) :: r.1, r.2)
      else ([], e)

/-- Whether place `e` has its bytes in line `line`. -/
def State.inLine (s : State) (c : CopyCmd) (line e : Nat) : Bool := match s.placeAddr c e with
  | some a => decide (a.toNat / 64 = line)
  | none => false

/-- The item of a line that the walk reaches by place `e`: the line's first place (R242). -/
def State.itemOf (s : State) (c : CopyCmd) (line e : Nat) : Nat := ((List.range e).find? fun i => s.inLine c line i).getD e

/-- A part of the walk: the item it belongs to, the places it writes, the place behind it, and whether the item begins here. A walk that
comes back to a line goes on with that line's item (R242); the elements keep their order (R232). -/
structure Piece where
  item  : Nat
  els   : List (Nat × Word)
  next  : Nat
  first : Bool
deriving DecidableEq, Repr

/-- The next part of the walk at or after place `e`; none at its end. -/
def State.itemAt (s : State) (c : CopyCmd) (e : Nat) : Option Piece :=
  let n := c.places
  let e := s.nextIn c (n - e) e
  if n ≤ e then none else
  match s.placeAddr c e with
  | none => none
  | some a =>
    let line := a.toNat / 64
    let r := s.itemRun c line (n - e) e
    let i := s.itemOf c line e
    some ⟨i, r.1, r.2, decide (i = e)⟩

/-- All places of the item a part begins, in walk order: the part's own, and those the walk comes back for. -/
def State.itemAll (s : State) (c : CopyCmd) (p : Piece) : List (Nat × Word) :=
  match p.els with
  | [] => []
  | (_, a) :: _ => p.els ++ (List.range (c.places - p.next)).filterMap fun i =>
      if s.inLine c (a.toNat / 64) (p.next + i) then (s.placeAddr c (p.next + i)).map fun a => (p.next + i, a) else none

/-- The items that have bytes left from place `e` on, each with an address in it. -/
def State.itemsLeft (s : State) (c : CopyCmd) (e : Nat) : List (Nat × Word) :=
  (List.range (c.places - e)).foldl (fun l i => match s.placeAddr c (e + i) with
    | none => l
    | some a =>
      let i := s.itemOf c (a.toNat / 64) (e + i)
      if l.any fun x => x.1 = i then l else l ++ [(i, a)]) []

/-- The bytes of a place, from those of its element. -/
def State.placeBytes (s : State) (c : CopyCmd) (p : Nat) (l : List Byte) : List Byte := match s.destPart c p with
  | some (_, i, n) => (l.drop i).take n
  | none => []

/-- Whether two formats differ and one of them is a 4-bit one (R206, R237). -/
def CopyCmd.fourBreach (c : CopyCmd) (sf df : Nat) : Bool := !c.raw8 && decide (sf ≠ df) && (isFour sf || isFour df)

/-- The bytes of an item's places; the first failure in walk order stands for the item. An element whose formats turn out at its
reading to be none that a copy converts fails FORMAT (DESIGN CHOICE, log entry 79). -/
def State.itemElems (c : CopyCmd) : List (Nat × Word) → State → Except Fail (List Elem) × State
  | [], s => (.ok [], s)
  | (e, a) :: l, s =>
    match s.sourceElem c (placeElem e) with
    | (.error f, s) => (.error f, s)
    | (.ok (sf, v, bad, src), s) =>
      let df := s.destFmt c a
      let n := if c.raw8 then 8 else elemBytes df
      if c.fourBreach sf df then (.error ⟨8, 0, a, none⟩, s)
      else match State.itemElems c l s with
      | (.error f, s) => (.error f, s)
      | (.ok r, s) => (.ok (⟨e, a, s.placeBytes c e (toBytes n (c.convert sf df v)), bad, src⟩ :: r), s)

/-- A failed item in a command's counts, once however often it is reported: STATUS is that of the first in walk order (R242). -/
def CopyCmd.failItem (item status : Nat) (c : CopyCmd) : CopyCmd :=
  if c.fitems.contains item then c else
  let first := match c.fpos with
    | none => true
    | some p => decide (item < p)
  { c with
    failed := c.failed + 1,
    fitems := item :: c.fitems,
    fpos := if first then some item else c.fpos,
    istatus := if first then BitVec.ofNat 8 status else c.istatus }

/-- The statuses of a command's iterations together: the first failing item's, else PHASE where an arrive failed (R242, R245). -/
def gatherStatus (old new : BitVec 8) : BitVec 8 := if old ≠ 0 ∧ old ≠ 10 then old else if new ≠ 0 then new else old

/-- The whole command's status with the iteration in hand; CANCELLED unless an item had failed (R254). -/
def CopyCmd.whole (c : CopyCmd) (st : BitVec 8) : BitVec 8 :=
  let w := gatherStatus c.status st
  if c.stage = .cancelled ∧ (w = 0 ∨ w = 10) then 9 else w

/-- The aligned doublewords a run of bytes at a home touches (R241, fill). -/
def fillWords (h : Home) (n : Nat) : List Home :=
  let off := h.place % 8
  (List.range ((off + n + 7) / 8)).map fun i => match h with
    | .sram k o => .sram k (o - off + 8 * i)
    | .dram sl pa p ks => .dram sl (pa - off + 8 * i) p ks

/-- Adds the aligned doublewords that hold written elements to a command's fill list. -/
def CopyCmd.touchWords (es : List Elem) (c : CopyCmd) : CopyCmd :=
  if !c.fills then c
  else
    let ws := es.flatMap fun x => (List.range ((x.at'.toNat % 8 + x.data.length + 7) / 8)).map fun i => w64 (x.at'.toNat / 8 * 8 + 8 * i)
    { c with words := ws.foldl (fun l h => if l.contains h then l else l ++ [h]) c.words }

/-- The check of a ring's stage: its banks have the operand-buffer role; a write to one that has it no more is a protection violation (R133). -/
def State.ringChecks (c : CopyCmd) (pieces : List (Word × Nat)) (s : State) : Except Fail (List (Option Home × Nat)) :=
  match pieces.find? fun p => (look Bank.reset (s.cluster c.cluster).banks (wbits p.1 0 20 / 32768)).role ≠ 2 with
  | some p => .error ⟨4, cPROTECTION, p.1, none⟩
  | none => .ok (pieces.map fun p => (some (.sram c.cluster (wbits p.1 0 20)), p.2))

/-- Writes the elements of a local item: all checks first, then every byte; none where it is written. A whole unpoisoned line clears its poison (R376).
Of a ring's stage only the role of its banks is checked (R133, R259). -/
def State.writeItem (c : CopyCmd) (l : List Elem) (s : State) : Option Fail × State :=
  let need : Need := if c.reduces then ⟨true, true, false, true⟩ else .engineWrite
  let pieces := l.flatMap fun x => linePieces 10 x.at' x.data.length
  let checked : Except Fail (List (Option Home × Nat)) × State :=
    if c.toRing then (s.ringChecks c pieces, s)
    else s.engineChecks c.core need pieces
  match checked with
  | (.error f, s) => (some f, s)
  | (.ok hs, s) =>
    let bad := l.any (·.bad)
    let data := l.flatMap (·.data)
    let whole := decide (data.length = 64) && !c.reduces &&
      decide (((hs.filterMap (·.1)).map Home.place).dedup.length = hs.length) && (match hs with
        | (some h, _) :: _ => hs.all fun x => match x.1 with
          | some h' => decide (h'.place / 64 = h.place / 64)
          | none => false
        | _ => false)
    let s :=
      if c.reduces then
        let k := reduceBytes c.rfmt
        l.foldl (fun (s : State) x =>
          match s.engineChecks c.core need (linePieces 10 x.at' x.data.length) with
          | (.ok hs, s) =>
            let old := hs.flatMap fun y => match y.1 with
              | some h => s.homeBytes h y.2
              | none => List.replicate y.2 0
            s.engineLand c.cluster bad hs (toBytes k (reduceElem c.op c.rfmt (ofBytes old) (ofBytes x.data)))
          | (_, s) => s) s
      else s.engineLand c.cluster bad hs data
    let s := if whole && !bad then (match hs with
      | (some h, _) :: _ => s.setHomePoison h false
      | _ => s) else s
    (none, s)

/-! ## Commands by their number -/

/-- Changes the command of a number in a cluster, wherever it stands. -/
def State.modCmd (cl serial : Nat) (f : CopyCmd → CopyCmd) (s : State) : State :=
  let g := fun (c : CopyCmd) => if c.serial = serial then f c else c
  let s := s.modCluster cl fun k =>
    { k with engine0 := { k.engine0 with cmd := k.engine0.cmd.map g }, engine1 := { k.engine1 with cmd := k.engine1.cmd.map g },
             pending := k.pending.map g }
  let one := fun (e : Nat × Saved) => (e.1, { e.2 with
    engines := e.2.engines.map fun (x : Nat × Engine × Engine) =>
      (x.1, { x.2.1 with cmd := x.2.1.cmd.map g }, { x.2.2 with cmd := x.2.2.cmd.map g }) })
  let s := { s with saved := s.saved.map one }
  (List.range 8).foldl (fun (s : State) i =>
    if (s.core (cl * 8 + i)).xq.any (fun c => c.serial = serial) then
      s.modCore (cl * 8 + i) fun k => { k with xq := k.xq.map g }
    else s) s

def State.engine (s : State) (cl b : Nat) : Engine := if b = 0 then (s.cluster cl).engine0 else (s.cluster cl).engine1
def State.modEngine (cl b : Nat) (f : Engine → Engine) (s : State) : State :=
  s.modCluster cl fun k => if b = 0 then { k with engine0 := f k.engine0 } else { k with engine1 := f k.engine1 }

/-- The master specifier of a copy engine (R122). -/
def copySpec (cl b : Nat) : Nat := 2 ^ 14 + cl * 64 + b

/-- The fault message of a failed engine item (R149). What it gives as cause for a status that is no trap cause is open (log entry 77). -/
def State.engineFault (c part spec : Nat) (f : Fail) (s : State) : State :=
  s.tellHandler c part 0 (if f.cause = 0 then Config.itemCause f.status else w64 f.cause) f.addr 0 (w64 spec)

/-- An engine frozen by a protection violation (R149, R371). -/
def State.freezeEngine (cl b : Nat) (addr : Word) (s : State) : State :=
  (s.modEngine cl b fun e => { e with frozen := true }).record 0xC0 (copySpec cl b) addr 4

/-! ## Remote payload (R346) -/

/-- A packet to be: its window offset, its bytes, the poisoned ranges of them, and its items. -/
abbrev Load := Nat × List Byte × List (Nat × Nat) × List Nat

/-- Whether bytes at a window offset stay within one 4096-byte range. -/
def inRange (off n : Nat) : Bool := decide (off % 4096 + n ≤ 4096)

/-- Joins the segments of a message into packets: contiguous bytes, cut at 4096-byte offsets. A segment across such an offset, an element of
a reduction, is a packet of its own (DESIGN CHOICE, log entry 89). -/
def joinSegs : List Seg → List Load
  | [] => []
  | g :: l =>
    let n := g.bytes.length
    match joinSegs l with
    | (o, b, p, is) :: r =>
      if g.off + n = o ∧ o % 4096 ≠ 0 ∧ inRange g.off n ∧ inRange o b.length then
        (g.off, g.bytes ++ b, wholly g.poison n ++ p.map fun x => (x.1 + n, x.2 + n), g.item :: is.filter (· != g.item)) :: r
      else (g.off, g.bytes, wholly g.poison n, [g.item]) :: (o, b, p, is) :: r
    | [] => [(g.off, g.bytes, wholly g.poison n, [g.item])]

/-- An element's bytes as segments: those of one that is not reduced do not cross a 4096-byte offset. -/
def Elem.segs (x : Elem) (whole : Bool) (item : Nat) : List Seg :=
  let k := 4096 - x.at'.toNat % 4096
  if whole || decide (x.data.length ≤ k) then [⟨x.at'.toNat, x.data, x.bad, item⟩]
  else [⟨x.at'.toNat, x.data.take k, x.bad, item⟩, ⟨x.at'.toNat + k, x.data.drop k, x.bad, item⟩]

/-- Sends a command's waiting remote bytes as messages of at most 256 packets. -/
def State.sendMessages (cl : Nat) (c : CopyCmd) : Nat → List Load → State → State
  | 0, _, s => s
  | f + 1, l, s =>
    if l.isEmpty then s else
    let now := l.take 256
    let id := s.fabric.farMsgId
    let s := s.modFabric fun fb => { fb with farMsgId := (id + 1) % 2 ^ 32 }
    let s := (now.zipIdx).foldl (fun (s : State) x =>
      (s.modCmd cl c.serial fun k => { k with sent := k.sent + 1 }).sendWin
        { WPack.blank with
          dst := c.endChip, core := s.numOf c.core, window := c.endWindow, off := x.1.1, bytes := x.1.2.1,
          op := if c.reduces then .reduce (BitVec.ofNat 2 c.op) (BitVec.ofNat 2 c.rfmt) else .write,
          key := (s.part c.part).key, poison := x.1.2.2.1, serial := c.serial, msgId := id, index := x.2,
          total := now.length, chain := c.chain, items := x.1.2.2.2 }) s
    State.sendMessages cl c f (l.drop 256) s

/-! ## Gets (R347) -/

/-- A run of elements whose sources lie one behind another at the far window. -/
structure GetRun where
  pos   : Nat
  off   : Nat
  count : Nat
deriving DecidableEq, Repr

/-- The place of an element's bytes in an item: every element but the first of a run has its first bytes there. -/
def GetRun.place (pos i : Nat) : Nat := if i = 0 then pos else 2 * (placeElem pos + i)

/-- The runs of an item's in-bounds source elements of `w` bytes each; out-of-bounds ones are not asked for. -/
def getRuns (c : CopyCmd) (w : Nat) : List (Nat × Word) → List GetRun
  | [] => []
  | (e, _) :: l =>
    let r := getRuns c w l
    match c.smap.at (c.srcCoords (placeElem e) none) with
    | none => r
    | some a => match r with
      | g :: t => if g.pos = GetRun.place e 1 ∧ g.off = a.toNat + w then ⟨e, a.toNat, g.count + 1⟩ :: t else ⟨e, a.toNat, 1⟩ :: r
      | [] => [⟨e, a.toNat, 1⟩]

/-- The pads of an item of a get, which make no access. -/
def State.getPads (s : State) (c : CopyCmd) (l : List (Nat × Word)) : List Elem :=
  l.filterMap fun x => match c.smap.at (c.srcCoords (placeElem x.1) none) with
    | some _ => none
    | none =>
      let df := s.destFmt c x.2
      let n := elemBytes c.smap.fmt.toNat
      let v := if c.smap.padmode = 1 then c.smap.padval.toNat % 2 ^ (8 * n) else 0
      some ⟨x.1, x.2, s.placeBytes c x.1 (toBytes (elemBytes df) (c.convert c.smap.fmt.toNat df v)), false, 0⟩

/-- The first place of a list whose formats a get cannot convert, its bank's being 4-bit since (R206, R237, DESIGN CHOICE, log entry 79). -/
def State.getBreach (s : State) (c : CopyCmd) (l : List (Nat × Word)) : Option Fail :=
  (l.find? fun x => c.fourBreach c.smap.fmt.toNat (s.destFmt c x.2)).map fun x => ⟨8, 0, x.2, none⟩

/-! ## Completion (R241, R242) -/

/-- The status of a command or iteration as its completion sees it. -/
def CopyCmd.stateNow (c : CopyCmd) (st : BitVec 8) : BitVec 3 :=
  if c.stage = .cancelled then 5 else if st ≠ 0 then 4 else 3

/-- A status word (R241, R244). -/
def xferWord (id : BitVec 16) (state : BitVec 3) (status : BitVec 8) (hi : Nat) : Word :=
  w64 (id.toNat + state.toNat * 2 ^ 16 + status.toNat * 2 ^ 24 + Nat.min hi 0xFFFFFFFF * 2 ^ 32)

/-- A completion write: the checks, and then the effect at its home. One that fails is not performed; a protection violation
freezes engine `b` (none for a command refused at issue, whose message names the slot). A cluster under reset takes none. -/
def State.completionWrite (c : CopyCmd) (b : Option Nat) (a : Word) (need : Need) (f : Home → State → State) (s : State) : State :=
  match s.engineCheck c.core a 8 need with
  | (.ok (some h), s) => f h s
  | (.ok none, s) => s
  | (.error x, s) =>
    let spec := match b with
      | some b => copySpec c.cluster b
      | none => slotSpec c.slot
    let s := if x.cause = 0 then s else s.engineFault c.core c.part spec x
    match b with
    | some b => if x.status = 4 then s.freezeEngine c.cluster b x.addr else s
    | none => s

/-- Arrive, post and fill of a command's iteration with status `st` and its own `bytes`; the status with PHASE in it. The words to be filled
are translated anew (R151). -/
def State.completeModes (c : CopyCmd) (b : Option Nat) (st : BitVec 8) (bytes : Nat) (s : State) : BitVec 8 × State :=
  let ba := c.sh.baddr + w64 (8 * c.stageNo)
  let pa := c.sh.paddr + w64 (8 * c.stageNo)
  let (st, s) : BitVec 8 × State :=
    if !c.arrives || decide (c.sh.baddr.toNat % 8 ≠ 0) then (st, s)
    else match s.engineCheck c.core ba 8 ⟨true, true, false, true⟩ with
      | (.ok (some h), s) =>
        if s.homePoison h then (st, s.engineFault c.core c.part (match b with
          | some b => copySpec c.cluster b
          | none => slotSpec c.slot) ⟨3, cPOISON, ba, none⟩)
        else match s.arriveAt h ((s.word8 h).getLsbD 0) (-(bytes : Int)) with
          | some (_, s) => (st, s.dropCluster c.cluster h)
          | none => (if st = 0 then 10 else st, s)
      | (_, s) => (st, s.completionWrite c b ba ⟨true, true, false, true⟩ fun _ s => s)
  let s :=
    if !c.posts || decide (c.sh.paddr.toNat % 8 ≠ 0) then s
    else
      let v := if st = 0 ∧ c.stage ≠ .cancelled then c.sh.postval + w64 (if c.loop then c.iter else 0)
        else w64 (2 ^ 63 + st.toNat * 2 ^ 32 + c.id.toNat)
      s.completionWrite c b pa .engineWrite fun h s => (s.engineWrite h (toBytes 8 v.toNat) false).dropCluster c.cluster h
  (st, if !c.fills then s
    else if c.toRing then c.words.foldl (fun s a => s.fillWord (.sram c.cluster (wbits a 0 20))) s
    else c.words.foldl (fun s a => s.completionWrite c b a .engineWrite State.fillWord) s)

/-- The activation of a completion joins the core's anonymous queue without a reservation (R241). -/
def State.completeActivate (c : CopyCmd) (state : BitVec 3) (st : BitVec 8) (s : State) : State :=
  (s.usePlace c.core).joinAnon c.core
    ⟨.engine (BitVec.ofNat 48 c.sh.actpc.toNat) (c.sh.postval + w64 (if c.loop then c.iter else 0))
      (xferWord c.id state st (if c.loop then c.iter else 0)), s.numOf c.core, none⟩

/-- Whether a command's activation is to be queued: ACTIVATE with a well-formed PC. -/
def CopyCmd.wantsAct (c : CopyCmd) : Bool :=
  c.activates && !c.sh.actpc.getLsbD 0 && decide (wbits c.sh.actpc 48 16 = 0)

/-- Whether a core's receive queue has a free place. -/
def State.queueRoom (s : State) (c : Nat) : Bool := decide ((s.cluster (domainOf c)).used < 512)

/-- Enters what became of a command in its core's status table (R244). -/
def State.setXstat (c : CopyCmd) (state : BitVec 3) (st : BitVec 8) (s : State) : State :=
  s.modCore c.core fun k =>
    { k with xstat := put (c.id.toNat % 64) ⟨true, c.id, state, st, BitVec.ofNat 32 (Nat.min c.failed 0xFFFFFFFF)⟩ k.xstat }

/-- A stage a command reserved in a ring is written, whatever became of its items (R259). -/
def State.stageWritten (c : CopyCmd) (s : State) : State :=
  match c.ring with
  | none => s
  | some n => if (s.ring c.cluster c.sh.dring.toNat).defined then s.modRing c.cluster c.sh.dring.toNat (Ring.written s.cycle n) else s

/-- A command that no engine holds, cancelled or refused, performs its completion with status `st` (R241, R254). -/
def State.finishAway (c : CopyCmd) (st : BitVec 8) (bytes : Nat) (s : State) : State :=
  let (st, s) := s.completeModes c none st bytes
  let s := s.setXstat c (c.stateNow st) st
  if !c.wantsAct then s
  else if s.queueRoom c.core then s.completeActivate c (c.stateNow st) st
  else (s.modCluster c.cluster fun k => { k with pending := k.pending ++ [{ c with told := true, status := st, stage := if c.stage = .cancelled then .cancelled else .done }] }).post
    .copyCompletion (arg3 c.cluster 2 c.serial)

end Sys2Proof.Machine
end

