-- ==== Sys2Proof/Machine/CopyUnit.lean ====
section
/-! DEFINITION. The copy engines' instructions (R250 to R254) and their steps: starting, items, completion, looping and triggered commands (R231, R241, R242, R245 to R247). -/

namespace Sys2Proof.Machine

/-! ## Images -/

/-- `n` doublewords read as 64-bit loads from `ea` on (R147); the first check that fails decides, poison trapping POISON. -/
def State.imageWords : Nat → Word → State → Except Bad (List Word) × State
  | 0, _, s => (.ok [], s)
  | n + 1, ea, s =>
    match s.place ea 8 .load with
    | (.bad c e, s) => (.error (c, ea, e), s)
    | (.window _, s) => (.error (cWINDOWLOAD, ea, none), s)
    | (.busy, s) => (.error (0, ea, none), s)
    | (.disc, s) => (match State.imageWords n (ea + 8) s with
      | (.ok l, s) => (.ok (0 :: l), s)
      | r => r)
    | (.ok h, s) =>
      let s := s.settleStores s.cur h 8
      let ((l, bad), s) := s.read s.myCore h 8
      if bad then (.error (cPOISON, ea, none), s)
      else match State.imageWords n (ea + 8) s with
        | (.ok r, s) => (.ok (w64 (ofBytes l) :: r), s)
        | r => r

/-! ## Maps and the shadow image (R250, R251) -/

/-- `tmset` (R251): parks until the image is read, and the map is set as it wakes. -/
def execTmset (t : BitVec 4) (ra : Reg) (sc : BitVec 3) (s : State) : Host.Outcome State Fault Refusal :=
  let ea := s.x ra
  .next (if ea.toNat % 64 ≠ 0 then s.trap cMISALIGN ea
    else match s.imageWords 8 ea with
      | (.error b, s) => s.bad b
      | (.ok hd, s) =>
        let nd := wbits (hd.getD 1 0) 6 5
        match (if nd ≤ 16 then s.imageWords (2 * nd) (ea + 64) else (.ok [], s)) with
        | (.error b, s) => s.bad b
        | (.ok tl, s) =>
          match TMap.ofWords (hd ++ tl) with
          | none => s.trap cPROTECTION ea
          | some m => (s.parkMe (.tmset t.toNat m sc.toNat) sc.toNat).post .slotWake (arg1 s.cur))

/-- Map `n` of slot `k`'s core is set (R251). -/
def State.setMap (k n : Nat) (m : TMap) (s : State) : State := s.modCore (coreOf k) fun c => { c with tmaps := put n m c.tmaps }

/-- The map of a parked `tmset` is set, and slot `k` goes on. -/
def State.tmsetDone (k n : Nat) (m : TMap) (s : State) : State := (s.setMap k n m).completeAt k 4

/-- `tmclr` (R250). -/
def execTmclr (t : BitVec 4) (sc : BitVec 3) (s : State) : Host.Outcome State Fault Refusal :=
  .next ((s.modCore s.myCore fun k => { k with tmaps := put t.toNat TMap.invalid k.tmaps }).retire 4 sc.toNat)

/-- A change of the slot's shadow image (R238): it neither traps nor parks. -/
def State.shadow (sc : BitVec 3) (f : Shadow → Shadow) (s : State) : State :=
  (s.modMe fun sl => { sl with shadow := f sl.shadow }).retire 4 sc.toNat

/-- `xsrc tmN, xa` (R250). -/
def execXsrcLocal (t : BitVec 4) (ra : Reg) (sc : BitVec 3) (s : State) : Host.Outcome State Fault Refusal :=
  .next (s.shadow sc fun h => { h with smap := t.setWidth 5, sbase := s.x ra, skind := 1 })

/-- `xsrc tmN` (R250). -/
def execXsrcImageBase (t : BitVec 4) (sc : BitVec 3) (s : State) : Host.Outcome State Fault Refusal :=
  .next (s.shadow sc fun h => { h with smap := t.setWidth 5, skind := 2 })

/-- `xsrc tmN, xa, xb` (R250). -/
def execXsrcRemote (t : BitVec 4) (ra rb : Reg) (sc : BitVec 3) (s : State) : Host.Outcome State Fault Refusal :=
  .next (s.shadow sc fun h => { h with smap := t.setWidth 5, sbase := s.x ra, sremote := s.x rb, skind := 3 })

/-- `xdst tmN, xa` (R250). -/
def execXdstLocal (t : BitVec 4) (ra : Reg) (sc : BitVec 3) (s : State) : Host.Outcome State Fault Refusal :=
  .next (s.shadow sc fun h => { h with dmap := t.setWidth 5, dbase := s.x ra, dkind := 1 })

/-- `xdst tmN` (R250). -/
def execXdstImageBase (t : BitVec 4) (sc : BitVec 3) (s : State) : Host.Outcome State Fault Refusal :=
  .next (s.shadow sc fun h => { h with dmap := t.setWidth 5, dkind := 2 })

/-- `xdst obN` (R250). -/
def execXdstRing (o : BitVec 4) (sc : BitVec 3) (s : State) : Host.Outcome State Fault Refusal :=
  .next (s.shadow sc fun h => { h with dring := o, dkind := 3 })

/-- `xdst tmN, xa, xb` (R250). -/
def execXdstRemote (t : BitVec 4) (ra rb : Reg) (sc : BitVec 3) (s : State) : Host.Outcome State Fault Refusal :=
  .next (s.shadow sc fun h => { h with dmap := t.setWidth 5, dbase := s.x ra, dremote := s.x rb, dkind := 4 })

/-- `xset` (R250). -/
def execXset (ra rb : Reg) (sc : BitVec 3) (s : State) : Host.Outcome State Fault Refusal :=
  .next (s.shadow sc fun h => { h with ctl := s.x ra, baddr := s.x rb })

/-- `xset.post` (R250). -/
def execXsetPost (ra rb : Reg) (sc : BitVec 3) (s : State) : Host.Outcome State Fault Refusal :=
  .next (s.shadow sc fun h => { h with postval := s.x ra, paddr := s.x rb })

/-- `xset.act` (R250). -/
def execXsetAct (ra rb : Reg) (sc : BitVec 3) (s : State) : Host.Outcome State Fault Refusal :=
  .next (s.shadow sc fun h => { h with actpc := s.x ra, gidx := s.x rb })

/-- `xset.chain` (R250). -/
def execXsetChain (ra : Reg) (sc : BitVec 3) (s : State) : Host.Outcome State Fault Refusal :=
  .next (s.shadow sc fun h => { h with chain := s.x ra })

/-! ## The checks at issue (R240, R241) -/

/-- Whether some number below `n` has property `p`. -/
def anyBelow : Nat → (Nat → Bool) → Bool
  | 0, _ => false
  | n + 1, p => anyBelow n p || p n

/-- The breaches that lie in the shadow image and the maps alone. -/
def CopyCmd.malformed (c : CopyCmd) : Bool :=
  let sh := c.sh
  let badEnd := fun (e : Word) => decide (wbits e 14 2 ≠ 0) || decide (wbits e 26 38 ≠ 0)
  decide (6 ≤ c.op) || decide (c.rfmt = 3) || decide (sh.skind = 0) || !c.smap.valid ||
  (c.isGet != decide (sh.skind = 3)) || (decide (sh.skind = 3) && badEnd sh.sremote) ||
  decide (sh.dkind = 0) || decide (4 < sh.dkind.toNat) || (decide (sh.dkind ≠ 3) && !c.dmap.valid) ||
  (c.remote && (badEnd sh.dremote || decide (4 ≤ c.op))) || (decide (sh.chain ≠ 0) && !c.remote) ||
  (c.isGet && c.toRing) ||
  ((decide (c.op = 2) || decide (c.op = 3)) && decide (c.rfmt = 2)) || (decide (c.op = 4) && decide (sh.gidx.toNat % 4 ≠ 0)) ||
  decide (2 ^ 32 ≤ c.smap.count) || (!c.toRing && (decide (2 ^ 32 ≤ c.dmap.count) || decide (c.smap.count ≠ c.dmap.count))) ||
  (c.arrives && decide (sh.baddr.toNat % 8 ≠ 0)) || (c.posts && decide (sh.paddr.toNat % 8 ≠ 0)) ||
  (c.activates && (sh.actpc.getLsbD 0 || decide (wbits sh.actpc 48 16 ≠ 0)))

/-- The breaches of a ring destination (R259). -/
def State.ringBreach (s : State) (c : CopyCmd) : Bool :=
  c.toRing &&
  (let r := s.ring c.cluster c.sh.dring.toNat
   !r.defined || decide (c.op ≠ 0) || !(decide (r.owner = c.core % 8) || r.cmask.getLsbD (c.core % 8)) || decide (c.smap.count ≠ r.tile))

/-- The chips of a chain list (R240, R361); none where the command is to be refused. -/
def State.chainOf (c : CopyCmd) (s : State) : Option (List Nat) × State :=
  if c.sh.chain = 0 then (some [], s)
  else if c.sh.chain.toNat % 64 ≠ 0 then (none, s)
  else match s.engineRead c.core c.sh.chain 32 with
    | (.error _, s) => (none, s)
    | (.ok (l, bad), s) =>
      let h := fun (i : Nat) => ofBytes ((l.drop (2 * i)).take 2)
      let n := h 0
      if bad || decide (n = 0) || decide (15 < n) then (none, s)
      else
        let chips := (List.range n).map fun i => h (i + 1)
        if decide ((c.endChip :: chips).dedup.length ≠ n + 1) || chips.contains s.chipNo then (none, s)
        else (some chips, s)

/-- Whether any bank or map in play has a 4-bit format. -/
def State.mayFour (s : State) (c : CopyCmd) : Bool :=
  isFour c.smap.fmt.toNat || isFour c.dmap.fmt.toNat || (c.toRing && isFour (s.ring c.cluster c.sh.dring.toNat).fmt.toNat) ||
  s.clusters.any fun k => k.2.banks.any fun b => isFour b.2.fmt.toNat

/-- The source format of element `e` of the iteration in hand, a gather's by the index its list holds now; none where that cannot be read. -/
def State.srcFmt (s : State) (c : CopyCmd) (e : Nat) : Option Nat :=
  match (s.gatherIndex c e).1 with
  | .error _ => none
  | .ok (idx, _) => some (match c.smap.at (c.srcCoords e idx) with
    | some a => s.fmtAt c.core c.smap c.isGet a
    | none => c.smap.fmt.toNat)

/-- Some element of some iteration of a command has property `p`; only the iterations that differ in their destination count where `dst`. -/
def CopyCmd.anyElem (c : CopyCmd) (dst : Bool) (p : CopyCmd → Nat → Bool) : Bool :=
  anyBelow (if c.loop then (if dst then Nat.min c.iters c.stages else c.iters) else 1) fun i => anyBelow c.elems (p { c with iter := i })

/-- Whether no destination element is in bounds, so that only the map's own format is there to speak of (DEDUCED, log entry 79). -/
def State.allOut (s : State) (c : CopyCmd) : Bool := !c.toRing && !c.anyElem true fun c e => (s.destAt c e).isSome

/-- Whether a destination element of some iteration is not in the format a reduction names (R240). -/
def State.reduceBreach (s : State) (c : CopyCmd) : Bool :=
  c.reduces && !c.raw8 &&
  (if c.remote || (!c.loop && c.ownFormat) || s.allOut c then decide (c.dmap.fmt.toNat ≠ c.rfmt)
   else c.anyElem true fun c e => match s.destAt c e with
     | some a => decide (s.destFmt c a ≠ c.rfmt)
     | none => false)

/-- Whether some element's formats differ and one of them is 4-bit (R206, R237). -/
def State.formatBreach (s : State) (c : CopyCmd) : Bool :=
  !c.raw8 && s.mayFour c &&
  (if decide (c.elems = 0) && !c.toRing then c.fourBreach c.smap.fmt.toNat c.dmap.fmt.toNat
   else
    let out := s.allOut c
    c.anyElem false fun c e =>
      match (if out then some c.dmap.fmt.toNat else (s.destAt c e).map (s.destFmt c)), s.srcFmt c e with
      | some df, some sf => c.fourBreach sf df
      | _, _ => false)

/-- The outermost source coordinates a gather's list gives now, as far as they can be read. -/
def State.gatherList (s : State) (c : CopyCmd) : List Int :=
  match c.dmap.dims.getLast? with
  | none => []
  | some d => (List.range d.size.toNat).filterMap fun j => match (s.engineRead c.core (c.sh.gidx + w64 (4 * j)) 4).1 with
    | .ok (l, _) => some (ofBytes l : Int)
    | .error _ => none

/-- The smallest range that holds a command's in-bounds source elements, as offsets from the map's base. -/
def State.srcSpan (s : State) (c : CopyCmd) : Option (Int × Int) :=
  if c.isGet then none else if c.op = 4 then c.smap.gatherSpan (s.gatherList c) else c.smap.span

/-- That of its destination elements; a ring or a far window has none here. -/
def CopyCmd.destSpan (c : CopyCmd) : Option (Int × Int) := if c.toRing || c.remote then none else c.dmap.span

/-- The bytes a span covers with elements of a map. -/
def CopyCmd.spanBytes (c : CopyCmd) (m : TMap) (r : Option (Int × Int)) : Nat := match r with
  | none => 0
  | some (lo, hi) => (hi - lo).toNat + (if c.raw8 then 8 else elemBytes m.fmt.toNat)

/-- Whether a triggered command's range is too large (R247). -/
def State.tooFar (s : State) (c : CopyCmd) : Bool :=
  decide (2 ^ 24 < c.spanBytes c.smap (s.srcSpan c)) || decide (2 ^ 24 < c.spanBytes c.dmap c.destSpan)

/-- The status a command is refused with at issue, 0 for none, with the chain it takes. -/
def State.issueStatus (c : CopyCmd) (s : State) : Nat × List Nat × State :=
  if c.malformed || s.ringBreach c || (c.trig.isSome && s.tooFar c) then (7, [], s)
  else match s.chainOf c with
    | (none, s) => (7, [], s)
    | (some l, s) =>
      if s.reduceBreach c then (7, [], s)
      else if s.formatBreach c then (8, [], s)
      else (0, l, s)

/-! ## Issue (R244, R252) -/

/-- The commands of a core that are outstanding (R244). -/
def State.outstanding (s : State) (c : Nat) : Nat :=
  let k := s.cluster (clusterOf c)
  let mine := fun (x : CopyCmd) => decide (x.core = c) && !x.finished
  (s.core c).xq.length + (k.engine0.cmd.toList.filter mine).length + (k.engine1.cmd.toList.filter mine).length +
    (k.pending.filter mine).length

/-- The triggered commands in a cluster's pending list (R231). -/
def State.armedCount (s : State) (cl : Nat) : Nat :=
  ((s.cluster cl).pending.filter fun c => decide (c.stage = .armed) || decide (c.stage = .held) || decide (c.stage = .fired)).length

/-- Whether the core in hand can issue a command now (R231, R244, R252). -/
def State.copyRoom (s : State) (c : Nat) (armed : Bool) : Bool :=
  decide (s.outstanding c < 64) &&
  (if armed then decide (s.armedCount (clusterOf c) < 64) else decide ((s.core c).xq.length < 2))

/-- The engines of a cluster look for work. -/
def State.kick (cl : Nat) (s : State) : State :=
  (s.post .copyCommandStart (arg2 cl 0)).post .copyCommandStart (arg2 cl 1)

def State.mapOf (s : State) (c : Nat) (n : BitVec 5) : TMap :=
  if n.toNat < 16 then look TMap.invalid (s.core c).tmaps n.toNat else TMap.invalid

/-- The command the slot in hand describes, with the map bases that apply (R234, R236, R238). -/
def State.newCmd (serial : Nat) (s : State) : CopyCmd :=
  let sh := s.me.shadow
  let c := s.myCore
  let sm := s.mapOf c sh.smap
  let dm := s.mapOf c sh.dmap
  { serial := serial, id := BitVec.ofNat 16 (c % 8 * 8192 + (s.core c).xseq.toNat), core := c, slot := s.cur, part := s.corePart c,
    sh := sh, smap := if sh.skind = 2 then sm else { sm with base := sh.sbase },
    dmap := if sh.dkind = 2 then dm else { dm with base := sh.dbase }, loop := false, iters := 1, stages := 1, steps := [],
    sstride := 0, busy := [], iter := 0, trig := none, counter := 0, met := false, stage := .queued, pos := 0, ring := none, status := 0, istatus := 0,
    failed := 0, refused := false, chain := [], sent := 0, words := [], segs := [], gets := [], fitems := [], skips := [],
    fpos := none, ended := false, told := false }

/-- The result of a copy instruction: of latency 2, and in its register at once where the instruction has parked (R250). -/
def State.resultCopy (rd : Reg) (v : Word) (s : State) : State := if s.me.waited then s.setX rd v else s.resultX rd v 2

/-- Issues command `c`: its identifier and table entry, and then its place, or its refusal with its completion at once (R252). -/
def State.issueCmd (c : CopyCmd) (rd : Reg) (sc : BitVec 3) (refuse : Bool) (s : State) : State :=
  let (st, chain, s) := if refuse then (7, [], s) else s.issueStatus c
  let c := { c with chain := chain }
  let s := s.modCore s.myCore fun k => { k with xseq := k.xseq + 1 }
  let s := s.modMe fun sl => { sl with cmds := sl.cmds ++ [c.serial] }
  let s := s.setXstat c 1 0
  let s := if st ≠ 0 then (s.finishAway { c with refused := true, stage := .done } (BitVec.ofNat 8 st) (s.byteCount c))
    else if c.trig.isSome then
      (s.modCluster c.cluster fun k => { k with pending := k.pending ++ [{ c with stage := .armed }] }).post
        .triggeredCopyFire (arg3 c.cluster c.serial 0)
    else (s.modCore c.core fun k => { k with xq := k.xq ++ [c] }).kick c.cluster
  (s.resultCopy rd (c.id.setWidth 64)).retire 4 sc.toNat

/-- What `xgo`, `xloop` and `xarm` do first: a fence for engine operations, and room for the command. -/
def State.copyIssue (armed : Bool) (f : Nat → State → State) (s : State) : State :=
  if s.fenced s.cur 4 then s.waitFor (.fence 4)
  else if !s.copyRoom s.myCore armed then s.waitFor (.copyQueue armed)
  else let (n, s) := s.number
       f n s

/-- `xgo` (R252). -/
def execXgo (rd : Reg) (sc : BitVec 3) (s : State) : Host.Outcome State Fault Refusal :=
  .next (s.copyIssue false fun n s => s.issueCmd (s.newCmd n) rd sc false)

/-- The step record of `xloop` (R245): steps and SSTRIDE; none where it refuses the command. -/
def State.stepRecord (core : Nat) (a : Word) (s : State) : Option (List Int × Word) × State :=
  if a.toNat % 64 ≠ 0 then (none, s)
  else match s.engineRead core a 128 with
    | (.error _, s) => (none, s)
    | (.ok (l, bad), s) =>
      if bad || (l.drop 72).any (· != 0) then (none, s)
      else (some ((List.range 16).map fun i => (BitVec.ofNat 32 (ofBytes ((l.drop (4 * i)).take 4))).toInt,
        w64 (ofBytes ((l.drop 64).take 8))), s)

/-- `xloop` (R245, R252). -/
def execXloop (rd ra rb : Reg) (sc : BitVec 3) (s : State) : Host.Outcome State Fault Refusal :=
  let a := s.x ra
  let r := s.x rb
  .next (s.copyIssue false fun n s =>
    match s.stepRecord s.myCore r with
    | (none, s) => s.issueCmd { s.newCmd n with loop := true, iters := wbits a 0 32, stages := wbits a 32 4 + 1 } rd sc true
    | (some (st, ss), s) =>
      s.issueCmd { s.newCmd n with loop := true, iters := wbits a 0 32, stages := wbits a 32 4 + 1, steps := st, sstride := ss }
        rd sc (decide (wbits a 0 32 = 0)))

/-- `xarm` (R246, R252): the counter is checked as a 64-bit load of the slot; one on a discarded page reads as zero (R150). -/
def execXarm (rd ra rb : Reg) (sc : BitVec 3) (s : State) : Host.Outcome State Fault Refusal :=
  let a := s.x ra
  let t := s.x rb
  .next (if s.fenced s.cur 4 then s.waitFor (.fence 4)
    else s.access a 8 .load
      (fun h s => if s.homePoison h then s.trap cPOISON a
        else s.copyIssue true fun n s => s.issueCmd { s.newCmd n with trig := some (some h, t), counter := a } rd sc false)
      (fun s => s.copyIssue true fun n s => s.issueCmd { s.newCmd n with trig := some (none, t), counter := a } rd sc false)
      (fun _ s => s.trap cWINDOWLOAD a))

/-! ## Status, release, cancel (R244, R253, R254) -/

/-- The command of an identifier that is outstanding. -/
def State.cmdOf (s : State) (c : Nat) (id : BitVec 16) : Option CopyCmd :=
  let k := s.cluster (clusterOf c)
  ((s.core c).xq ++ k.engine0.cmd.toList ++ k.engine1.cmd.toList ++ k.pending).find? fun x =>
    decide (x.core = c) && decide (x.id = id) && !x.finished

/-- The status word of an identifier (R244). -/
def State.xferStatus (s : State) (c : Nat) (id : BitVec 16) : Word :=
  let e := look XStat.empty (s.core c).xstat (id.toNat % 64)
  if !e.used || decide (e.id ≠ id) then xferWord id 0 0 0
  else match s.cmdOf c id with
    | none => xferWord id e.state e.status e.failed.toNat
    | some x =>
      let st := x.whole x.istatus
      if x.stage = .cancelled then xferWord id 5 st x.failed
      else xferWord id (if x.stage = .running ∨ x.stage = .looping then 2 else 1) st x.failed

/-- `xstat` (R244): L = 2. -/
def execXstat (rd ra : Reg) (sc : BitVec 3) (s : State) : Host.Outcome State Fault Refusal :=
  .next ((s.resultX rd (s.xferStatus s.myCore ((s.x ra).setWidth 16)) 2).retire 4 sc.toNat)

/-- `xrel` (R253): waits for the slot's earlier loads and stores at chip scope, and frees the stage. -/
def execXrel (ra : Reg) (sc : BitVec 3) (s : State) : Host.Outcome State Fault Refusal :=
  let v := s.x ra
  let n := wbits v 16 4
  .next (if !s.me.stores.isEmpty || !s.windowsPerformed s.cur (fun _ => true) .ch then s.waitFor (.stage (wbits v 0 16) n)
    else match s.cmdOf s.myCore (v.setWidth 16) with
      | some c =>
        (if c.loop && !c.toRing && c.busy.contains n then
          s.modCmd c.cluster c.serial fun c => { c with busy := c.busy.filter (· != n) } else s).retire 4 sc.toNat
      | none => s.retire 4 sc.toNat)

/-- A command leaves its core's queue or the pending list. -/
def State.dropCmd (cl serial : Nat) (s : State) : State :=
  let s := s.modCluster cl fun k => { k with pending := k.pending.filter fun c => decide (c.serial ≠ serial) }
  (List.range 8).foldl (fun (s : State) i =>
    if (s.core (cl * 8 + i)).xq.any (fun c => decide (c.serial = serial)) then
      s.modCore (cl * 8 + i) fun k => { k with xq := k.xq.filter fun c => decide (c.serial ≠ serial) }
    else s) s

/-- `xcancel` of an outstanding command (R254). One whose modes are done, and which only waits to queue its activation, is cancelled at once. -/
def State.cancelCmd (c : CopyCmd) (s : State) : State :=
  if c.stage = .running then
    let b := if (s.engine c.cluster 0).cmd.any fun x => x.serial = c.serial then 0 else 1
    let s := (s.modCmd c.cluster c.serial fun c => { c with stage := .cancelled, pos := 2 ^ 64 }).post .copyItem (arg2 c.cluster b)
    if c.told then s.setXstat c 5 ({ c with stage := .cancelled }.whole c.istatus) else s
  else if c.stage = .cancelled then s
  else
    let c := { c with stage := .cancelled }
    (s.dropCmd c.cluster c.serial).finishAway c (c.whole 0) (s.byteCount c)

/-- `xcancel` (R254). -/
def execXcancel (rd ra : Reg) (sc : BitVec 3) (s : State) : Host.Outcome State Fault Refusal :=
  let id : BitVec 16 := (s.x ra).setWidth 16
  let w := s.xferStatus s.myCore id
  .next (((match s.cmdOf s.myCore id with
    | some c => s.cancelCmd c
    | none => s).resultX rd w 2).retire 4 sc.toNat)

/-! ## Starting (R231, R245, R259) -/

/-- Whether an engine is free to take work. -/
def Engine.free (e : Engine) : Bool := e.cmd.isNone && !e.frozen

/-- Whether a command's ring, if it has one, has a free stage. -/
def State.ringReady (s : State) (c : CopyCmd) : Bool :=
  !c.toRing || (let r := s.ring c.cluster c.sh.dring.toNat
                !r.defined || r.hasFree)

/-- Whether a looping command's next iteration can start (R245). -/
def State.loopReady (s : State) (c : CopyCmd) : Bool :=
  decide (c.stage = .looping) && (if c.toRing then s.ringReady c else !c.busy.contains c.stageNo)

/-- The status with which a command is refused as it is to start: what it writes to may have ceased to be a ring, or may be another ring, since
its issue (R259). -/
def State.startStatus (s : State) (c : CopyCmd) : Nat :=
  if s.ringBreach c then 7 else if c.toRing && s.formatBreach c then 8 else 0

/-- An engine takes a command: its ring stage is reserved, or its stage becomes busy, and its first item stands out. -/
def State.startCmd (cl b : Nat) (c : CopyCmd) (s : State) : State :=
  let (ring, s) : Option Nat × State :=
    if c.toRing && (s.ring cl c.sh.dring.toNat).defined then
      let n := (s.ring cl c.sh.dring.toNat).resv
      (some n.toNat, s.modRing cl c.sh.dring.toNat fun r => { r with resv := r.resv + 1 })
    else (none, s)
  let c := { c with
    stage := .running, pos := 0, ring := ring, istatus := 0, fpos := none, fitems := [], skips := [], words := [], segs := [],
    gets := [], ended := false, told := false,
    busy := if c.loop && !c.toRing then c.stageNo :: c.busy else c.busy }
  (s.modEngine cl b fun e => { e with cmd := some c }).post .copyItem (arg2 cl b)

/-- An engine takes a command out of its queue or list and starts it, or refuses it (R231, R259). -/
def State.beginCmd (cl b : Nat) (c : CopyCmd) (s : State) : State :=
  let st := s.startStatus c
  let s := s.dropCmd cl c.serial
  if st = 0 then s.startCmd cl b c
  else (s.finishAway { c with refused := true, stage := .done } (gatherStatus c.status (BitVec.ofNat 8 st)) (s.byteCount c)).kick cl

/-- The queued command that engine `b` goes on with: the oldest of the next core in its round-robin order whose ring has room (R231). -/
def State.nextQueued (s : State) (cl b : Nat) : Option CopyCmd :=
  let rr := (s.engine cl b).rr
  ((List.range 8).filterMap fun i => (s.core (cl * 8 + (rr + 1 + i) % 8)).xq.head?).find? fun c => s.ringReady c

/-- COPY_COMMAND_START (R231): engine `arg.b` of cluster `arg.a` takes a fired triggered command, or the next queued one; a
looping command that is ready goes between them (LOOP_ITERATION_START). -/
def execCopyCommandStart (s : State) : Host.Outcome State Fault Refusal :=
  let cl := s.arg.a
  let k := s.cluster cl
  let some' := (List.range 8).any fun i => !(s.core (cl * 8 + i)).xq.isEmpty
  .next (if !(s.engine cl s.arg.b).free then s
    else match k.pending.find? fun c => decide (c.stage = .fired) && s.ringReady c with
      | some c => s.beginCmd cl s.arg.b c
      | none =>
        if k.pending.any fun c => s.loopReady c then s.defer
        else match s.nextQueued cl s.arg.b with
          | some c => (s.modEngine cl s.arg.b fun e => { e with rr := c.core % 8 }).beginCmd cl s.arg.b c
          | none => if some' || k.pending.any fun c => decide (c.stage = .fired) then s.defer else s)

/-- LOOP_ITERATION_START (R245): looping command `arg.c` of cluster `arg.a` starts its next iteration on a free engine once its
stage is free. -/
def execLoopIterationStart (s : State) : Host.Outcome State Fault Refusal :=
  let cl := s.arg.a
  let k := s.cluster cl
  .next (match k.pending.find? fun c => decide (c.serial = s.arg.c) && decide (c.stage = .looping) with
    | none => s
    | some c =>
      let b := if (s.engine cl s.arg.b).free then some s.arg.b else if (s.engine cl (1 - s.arg.b)).free then some (1 - s.arg.b) else none
      match b with
      | none => s.defer
      | some b =>
        if !s.loopReady c || (k.pending.any fun c => decide (c.stage = .fired) && s.ringReady c) then s.defer
        else s.beginCmd cl b c)

/-! ## Items (R242) -/

/-- An item of command `c` has failed: its fault message, and, for a protection violation, the freeze of engine `b` and the failure of every
item still to come, each with its message (R149, R242). -/
def State.itemFailed (cl b : Nat) (c : CopyCmd) (f : Fail) (s : State) : State :=
  let s := s.engineFault c.core c.part (copySpec cl b) f
  if f.status ≠ 4 then s.modCmd cl c.serial fun _ => c
  else
    let l := (s.itemsLeft c c.pos).filter fun x => !c.fitems.contains x.1
    let s := l.foldl (fun (s : State) x => s.engineFault c.core c.part (copySpec cl b) ⟨4, cPROTECTION, x.2, none⟩) (s.freezeEngine cl b f.addr)
    s.modCmd cl c.serial fun _ => { l.foldl (fun (c : CopyCmd) x => c.failItem x.1 4) c with pos := 2 ^ 64 }

/-- An engine's command moves on by one part of its walk. An item's elements are checked where it begins: it fails there whole, or is written
part by part as the walk comes to it (R232, R242). -/
def State.runItem (cl b : Nat) (c : CopyCmd) (p : Piece) (s : State) : State :=
  let next := { c with pos := p.next }
  let fail := fun (f : Fail) (s : State) => s.itemFailed cl b { next.failItem p.item f.status with skips := p.item :: c.skips } f
  let set := fun (c : CopyCmd) (s : State) => s.modEngine cl b fun x => { x with cmd := some c }
  if c.skips.contains p.item then set next s
  else if c.isGet then
    let pads := s.getPads c p.els
    match (match s.getBreach c p.els with
      | some f => (some f, s)
      | none => s.writeItem c pads) with
    | (some f, s) => fail f s
    | (none, s) =>
      let w := elemBytes c.smap.fmt.toNat
      let key := (s.part c.part).key
      (getRuns c w p.els).foldl (fun (s : State) g =>
        match (s.engine cl b).cmd with
        | none => s
        | some k =>
          let s := set { k with sent := k.sent + 1, gets := k.gets ++ [⟨s.serial + 1, g.pos, p.item, g.count⟩] } s
          s.sendWin { WPack.blank with
            dst := wbits c.sh.sremote 0 14, core := s.numOf c.core, window := wbits c.sh.sremote 16 10, off := g.off,
            op := .get (g.count * w), key := key, serial := c.serial, items := [p.item] })
        (set (next.touchWords pads) s)
  else
    match s.itemElems c (if p.first then s.itemAll c p else p.els) with
    | (.error f, s) => fail f s
    | (.ok es, s) =>
      let es := es.take p.els.length
      let bad := es.any (·.bad)
      let poisoned := fun (k : CopyCmd) (s : State) =>
        if bad && !c.fitems.contains p.item then
          (set (k.failItem p.item 3) s).engineFault c.core c.part (copySpec cl b) ⟨3, cPOISON, ((es.find? (·.bad)).map (·.src)).getD 0, none⟩
        else set k s
      if c.remote then poisoned { next with segs := c.segs ++ es.flatMap fun x => x.segs c.reduces p.item } s
      else match s.writeItem c es with
        | (some f, s) => fail f s
        | (none, s) => poisoned (next.touchWords es) s

/-- COPY_ITEM (R242): engine `arg.b` of cluster `arg.a` performs its command's next item; at the end of the walk the remote
bytes leave and the completion stands out. -/
def execCopyItem (s : State) : Host.Outcome State Fault Refusal :=
  let cl := s.arg.a
  let b := s.arg.b
  .next (match (s.engine cl b).cmd with
    | none => s
    | some c =>
      let fin := fun (s : State) =>
        match (s.engine cl b).cmd with
        | none => s
        | some c =>
          let l := joinSegs c.segs
          let s := s.modEngine cl b fun e => { e with cmd := some { c with pos := 2 ^ 64, segs := [], ended := true } }
          ((s.sendMessages cl c (l.length + 1) l).stageWritten c).post .copyCompletion (arg3 cl b c.serial)
      if c.told || c.ended then s
      else if c.pos = 2 ^ 64 then fin s
      else match s.itemAt c c.pos with
        | none => fin s
        | some p => if (s.engine cl b).frozen then s else (s.runItem cl b c p).post .copyItem (arg2 cl b))

/-! ## Completion -/

/-- The command behind a finished iteration or command leaves engine `b`. -/
def State.leaveEngine (cl b : Nat) (c : CopyCmd) (st : BitVec 8) (s : State) : State :=
  let s := s.modEngine cl b fun e => { e with cmd := none }
  let whole := c.whole st
  let s := if c.last || decide (c.stage = .cancelled) then s.setXstat c (c.stateNow whole) whole
    else
      (s.modCluster cl fun k => { k with pending := k.pending ++ [{ c with stage := .looping, status := whole, iter := c.iter + 1, told := false }] }).post
        .loopIterationStart (arg3 cl b c.serial)
  s.kick cl

/-- COPY_COMPLETION (R241): command `arg.c` of engine `arg.b` performs arrive, post and fill once its payload is performed, and
then its activation, held while the receive queue is full. The modes of an iteration go by its own status (DESIGN CHOICE, log entry 92). With `arg.b` = 2 the activation of a command no engine holds. -/
def execCopyCompletion (s : State) : Host.Outcome State Fault Refusal :=
  let cl := s.arg.a
  let b := s.arg.b
  .next (if b = 2 then
      match (s.cluster cl).pending.find? fun c => decide (c.serial = s.arg.c) && c.told with
      | none => s
      | some c =>
        if !s.queueRoom c.core then s.defer
        else (s.dropCmd cl c.serial).completeActivate c (c.stateNow c.status) c.status
    else match (s.engine cl b).cmd with
      | none => s
      | some c =>
        if c.serial ≠ s.arg.c ∨ !c.ended then s
        else if c.sent ≠ 0 then s.defer
        else if c.toRing && (match c.ring with
            | some n => (s.ring cl c.sh.dring.toNat).defined && !(s.ring cl c.sh.dring.toNat).produced (BitVec.ofNat 32 n)
            | none => false) then s.defer
        else
          let (st, s) : BitVec 8 × State :=
            if c.told then (c.istatus, s)
            else s.completeModes c (some b) (if c.istatus ≠ 0 then c.istatus else if c.stage = .cancelled then c.whole 0 else 0) (s.byteCount c)
          let c := { c with istatus := st, told := true }
          let whole := c.whole st
          if !c.wantsAct then s.leaveEngine cl b c st
          else if !s.queueRoom c.core then
            let s := if c.finished then s.setXstat c (c.stateNow whole) whole else s
            (s.modEngine cl b fun e => { e with cmd := some c }).defer
          else
            (s.completeActivate c (if c.last || decide (c.stage = .cancelled) then c.stateNow whole else 2) (if c.last then whole else st)).leaveEngine cl b c st)

/-! ## Triggered copies (R246, R247) -/

/-- The pages of a range, as their first addresses in it. -/
def pagesOf (a : Word) (n : Nat) : List Word :=
  (List.range ((a.toNat % 65536 + n + 65535) / 65536)).map fun i => if i = 0 then a else w64 (a.toNat / 65536 * 65536 + 65536 * i)

/-- The first page that keeps a fired command back: one that is not present, or a discarded destination page (R247). -/
def State.pageBlocks (core : Nat) (need : Need) : List Word → State → Option Fail × State
  | [], s => (none, s)
  | a :: l, s =>
    if a.getLsbD 63 then (none, s)
    else match s.engineCheck core a 1 need with
      | (.error f, s) => if f.status = 1 ∨ f.status = 2 then (some f, s) else State.pageBlocks core need l s
      | (_, s) => State.pageBlocks core need l s

/-- The translation of a fired command's ranges. -/
def State.cmdBlocked (c : CopyCmd) (s : State) : Option Fail × State :=
  let range := fun (m : TMap) (r : Option (Int × Int)) => match r with
    | none => []
    | some (lo, _) => pagesOf (m.base + BitVec.ofInt 64 lo) (c.spanBytes m r)
  match s.pageBlocks c.core .engineRead (range c.smap (s.srcSpan c)) with
  | (some f, s) => (some f, s)
  | (none, s) => s.pageBlocks c.core .engineWrite (range c.dmap c.destSpan)

/-- A held command is watched for by its entry's monitor (R127, R247). -/
def State.monitorCmd (cl serial entry : Nat) (s : State) : State :=
  s.watchLine (lineKey (sectorOf cl) entry) fun m => { m with cmds := m.cmds.filter (fun x => x.1 != serial) ++ [(serial, entry)] }

/-- The counter of an armed command is translated anew, after a shootdown or as its partition comes back; one that cannot be read counts as
zero (DESIGN CHOICE, log entry 81). -/
def State.rewatch (c : CopyCmd) (s : State) : State :=
  match c.trig with
  | none => s
  | some (_, t) =>
    let r := s.engineCheck c.core c.counter 8 .engineRead
    r.2.modCmd c.cluster c.serial fun x => { x with trig := some (match r.1 with
      | .ok h => h
      | .error _ => none, t) }

/-- Whether an armed command's counter is at its threshold (R246). -/
def State.trigMet (s : State) (c : CopyCmd) : Bool := match c.trig with
  | some (some h, t) => decide (t.toNat ≤ (w64 (ofBytes (s.homeBytes h 8))).toNat)
  | some (none, t) => decide (t = 0)
  | none => true

/-- The counters of armed commands are looked at, as the waits of the words are, after the last operation of a cycle (R182, R246). -/
def State.watchTriggers (s : State) : State :=
  let due := fun (c : CopyCmd) => decide (c.stage = .armed) && !c.met && s.trigMet c
  if s.clusters.any fun e => e.2.pending.any due then
    { s with clusters := s.clusters.map fun e => (e.1, { e.2 with pending := e.2.pending.map fun c => { c with met := c.met || due c } }) }
  else s

/-- TRIGGERED_COPY_FIRE (R246, R247): armed command `arg.b` of cluster `arg.a` fires once its counter has been seen at the
threshold; a fired or held one translates its pages, and is held while one is missing, with a fault message that names engine 0 (DESIGN CHOICE, log
entry 92). -/
def execTriggeredCopyFire (s : State) : Host.Outcome State Fault Refusal :=
  let cl := s.arg.a
  .next (match (s.cluster cl).pending.find? fun c => decide (c.serial = s.arg.b) && (decide (c.stage = .armed) || decide (c.stage = .held)) with
    | none => s
    | some c =>
      if c.stage = .armed && !c.met then s.defer
      else match s.cmdBlocked c with
        | (some f, s) =>
          let s := (s.modCmd cl c.serial fun c => { c with stage := .held }).engineFault c.core c.part (copySpec cl 0) f
          (match f.entry with
            | some e => s.monitorCmd cl c.serial e
            | none => s)
        | (none, s) => (s.modCmd cl c.serial fun c => { c with stage := .fired }).kick cl)

end Sys2Proof.Machine
end

