-- ==== Sys2Proof/Machine/MemoryEvents.lean ====
section
/-! DEFINITION. Steps of the memory system: walks and watched table lines (R127, R145, R146), bank roles (R132, R133), translation roots and the bases of a core's areas (R51, R140), evictions (R172) and the patrol scrubber (R380, R381). -/

namespace Sys2Proof.Machine

/-! ## Walkers (R127, R145, R146) -/

/-- TRANSLATION_WALK (R145): domain `arg.a`'s walker completes a walk for 64 KiB page `arg.b`; a valid leaf is held. A fault shows at
the access that finds no translation. -/
def execTranslationWalk (s : State) : Host.Outcome State Fault Refusal :=
  .next (if (s.rootOf s.arg.a).1 then (s.translate .tlb s.arg.a (s.arg.b * 65536)).2 else s)

/-- Whether a watched entry, named by its address plus its level, reads valid, well-formed at its level and not discarded; a poisoned line
counts as invalid (R127, R144, R146). -/
def State.entryReady (s : State) (entry : Nat) : Bool :=
  let e := s.tableEntry (entry / 8 * 8)
  !s.homePoison (tableHome entry) && e.getLsbD 0 && !(e.getLsbD 5 && e.getLsbD 1) && !entryMalformed (entry % 8) e

/-- The entry of the line that slot `k` waits on. -/
def State.watches (s : State) (line k : Nat) : Option Nat :=
  match (s.slot k).park with
  | .trap (some e) => if e / 64 = line then some e else none
  | _ => none

/-- The cluster of a sector in which a held command stands. -/
def State.heldIn (s : State) (sec serial : Nat) : Option Nat :=
  (sectorClusters sec).find? fun cl => (s.cluster cl).pending.any fun c => decide (c.serial = serial) && decide (c.stage = .held)

/-- The translations that the entries of a table line gave leave every TLB. -/
def State.dropLineTranslations (line : Nat) (s : State) : State :=
  { s with clusters := s.clusters.map fun e => (e.1, { e.2 with tlb := e.2.tlb.filter fun t => t.2.line / 64 ≠ line }) }

/-- The slots and the held commands that wait under watched line `key`; those that no longer wait are forgotten. -/
def State.waiters (s : State) (key : Nat) : List Nat × List (Nat × Nat) :=
  let m := look Monitor.none s.monitors key
  (m.slots.filter fun k => (s.watches (key % 2 ^ 34) k).isSome, m.cmds.filter fun x => (s.heldIn (key / 2 ^ 34) x.1).isSome)

/-- Whether an entry that one of them watches is ready. -/
def State.lineReady (s : State) (key : Nat) : Bool :=
  let w := s.waiters key
  (w.1.any fun k => (s.watches (key % 2 ^ 34) k).any s.entryReady) || w.2.any fun x => s.entryReady x.2

/-- Everything that waits under `key` wakes, after the line's translations are gone (R127). -/
def State.wakeLine (key : Nat) (s : State) : State :=
  let w := s.waiters key
  let t := { s.dropLineTranslations (key % 2 ^ 34) with monitors := del key s.monitors }
  let t := w.1.foldl (fun (t : State) k => (t.unpark k).modSlot k fun sl => { sl with ready := t.cycle + 1 }) t
  w.2.foldl (fun (t : State) x => match s.heldIn (key / 2 ^ 34) x.1 with
    | some cl => t.post .triggeredCopyFire (arg2 cl x.1)
    | none => t) t

/-- The walker reads watched line `key` again, and wakes what waits there once a watched entry is ready. -/
def State.reread (key : Nat) (s : State) : State :=
  if s.lineReady key then s.wakeLine key
  else
    let w := s.waiters key
    { s with monitors := if w.1.isEmpty && w.2.isEmpty then del key s.monitors
             else put key { look Monitor.none s.monitors key with slots := w.1, cmds := w.2 } s.monitors }

/-- Whether the walker must go on rereading a line of its own accord: no monitor is armed, or the line is poisoned. -/
def State.polls (s : State) (key : Nat) : Bool :=
  match find? s.monitors key with
  | none => false
  | some m => !m.armed || s.homePoison (tableHome (key % 2 ^ 34 * 64))

/-- The next reread of a line stands out, if one is needed and none does. -/
def State.planPoll (key : Nat) (s : State) : State :=
  match find? s.monitors key with
  | some m => if s.polls key && m.due.isNone then
      { s with monitors := put key { m with due := some (s.cycle + 4096) } s.monitors }.post .monitorPoll (arg1 key) else s
  | none => s

/-- PAGE_MONITOR_WAKE (R127): the monitor of watched line `arg.a` has just been armed or, with `arg.b` = 1, a store has reached the line. A store
that leaves a watched entry ready wakes what waits on the line, whichever sector's walker watches it. -/
def execPageMonitorWake (s : State) : Host.Outcome State Fault Refusal :=
  let key := s.arg.a
  .next (match find? s.monitors key with
    | none => s
    | some m =>
      if !m.armed then s
      else if s.arg.b = 1 && s.lineReady key then
        ((s.monitors.map (·.1)).filter fun k => k % 2 ^ 34 = key % 2 ^ 34).foldl (fun (s : State) k => s.wakeLine k) s
      else (s.reread key).planPoll key)

/-- MONITOR_POLL (R146): 4096 cycles are over, and the walker rereads line `arg.a`. -/
def execMonitorPoll (s : State) : Host.Outcome State Fault Refusal :=
  let key := s.arg.a
  .next (match find? s.monitors key with
    | none => s
    | some m =>
      match m.due with
      | none => s
      | some t =>
        if s.cycle < t then s.defer
        else
          let s := { s with monitors := put key { m with due := none } s.monitors }
          (s.reread key).planPoll key)

/-! ## Banks (R132, R133) -/

/-- Whether bytes at a home lie in bank `b` of cluster `k`. -/
def Home.inBank (h : Home) (n k b : Nat) : Bool :=
  match h with
  | .sram k' off => decide (k' = k) && decide (off / 32768 ≤ b) && decide (b ≤ (off + n - 1) / 32768)
  | .dram _ _ _ _ => false

/-- Whether an access to a bank is in flight: a retired store, the push of a parked division, a load or atomic that is not back, a wait on a
word there, or a matrix step in the array that reads a stage there. -/
def State.bankInFlight (s : State) (k b : Nat) : Bool :=
  (s.slots.any fun e => e.2.stores.any (fun p => p.home.inBank p.op.size k b) || match e.2.park with
    | .load ld _ _ => !ld.zero && ld.home.inBank ld.size k b
    | .amo a => a.home.inBank a.size k b
    | .sync h _ _ _ _ _ => h.inBank 8 k b
    | .barrier h _ _ _ _ _ => h.any fun h => h.inBank 8 k b
    | .fpush n els _ _ _ => els.any fun x => match x.2.2 with
      | .inl h => h.inBank n k b
      | .inr _ => false
    | _ => false) ||
  (s.cluster k).array.any fun st => st.cmd.stages.any fun x =>
    let r := s.ring k x.1
    (Home.sram k (r.base x.2)).inBank r.stageBytes k b

/-- SRAM bytes cleared to zero, with their poison and full bits (R133, R373). -/
def State.clearSram (k off n : Nat) (s : State) : State :=
  let a := sramKey k off
  { s with
    mem := Memory.drop a n s.mem,
    poison := s.poison.filter fun e => !(decide (a / 64 ≤ e.1) && decide (e.1 < (a + n) / 64)),
    full := s.full.filter fun e => !(decide (a / 8 ≤ e.1) && decide (e.1 < (a + n) / 8)) }

def State.bank (s : State) (k b : Nat) : Bank := look Bank.reset (s.cluster k).banks b
def State.modBank (k b : Nat) (f : Bank → Bank) (s : State) : State :=
  s.modCluster k fun c => { c with banks := put b (f (look Bank.reset c.banks b)) c.banks }

/-- BANK_REGISTER_WRITE (R132): bank register `arg.b` of cluster `arg.a` takes `arg.v`. A role change waits where an access is in
flight or the bank leaves the cache role, and else takes effect at once. A write while BUSY is 1 replaces the role that the drain under way
installs (DESIGN CHOICE, log entry 80). -/
def execBankRegisterWrite (s : State) : Host.Outcome State Fault Refusal :=
  let k := s.arg.a
  let b := s.arg.b
  let fmt := wbits s.arg.v 2 4
  let role : BitVec 2 := s.arg.v.setWidth 2
  let s := if fmt ≤ 9 then s.modBank k b fun v => { v with fmt := BitVec.ofNat 4 fmt } else s
  let old := s.bank k b
  .next (if role = 3 then s
    else if old.busy then s.modBank k b fun v => { v with next := role }
    else if role = old.role then s
    else if old.role = 1 ∨ s.bankInFlight k b then
      (s.modBank k b fun v => { v with busy := true, next := role }).post .bankRoleDrainComplete (arg2 k b)
    else s.modBank k b fun v => { v with role := role, next := role })

/-- BANK_ROLE_DRAIN_COMPLETE (R133): the accesses in flight have completed; a bank that leaves the cache role is cleared. -/
def execBankRoleDrainComplete (s : State) : Host.Outcome State Fault Refusal :=
  let k := s.arg.a
  let b := s.arg.b
  let v := s.bank k b
  .next (if !v.busy then s
    else if s.bankInFlight k b then s.defer
    else
      let s := if v.role = 1 ∧ v.next ≠ 1 then (s.flushL1 k).clearSram k (32768 * b) 32768 else s
      s.modBank k b fun v => { v with role := v.next, busy := false })

/-! ## Roots and bases (R51, R140) -/

/-- TRANSLATION_ROOT_WRITE (R140): domain `arg.a`'s root takes `arg.v`, and its TLB is emptied. -/
def execTranslationRootWrite (s : State) : Host.Outcome State Fault Refusal :=
  let v := s.arg.v
  .next (s.modCluster s.arg.a fun c => { c with en := v.getLsbD 0, root := BitVec.ofNat 28 (wbits v 12 28), tlb := [] })

/-- SEQUENCE_AREA_BASE_WRITE (R40, R51): SEQBASE (offset 0x2208) or QBASE (0x2210) of core `arg.a` takes `arg.v`; every receive pair
and every cell counts as free; the save of a saved partition notes it, since `sv.load` restores what was in use. -/
def execSequenceAreaBaseWrite (s : State) : Host.Outcome State Fault Refusal :=
  let v := s.arg.v
  let base : BitVec 48 := v.setWidth 48
  let n := BitVec.ofNat 4 (wbits v 48 4)
  let off := s.arg.b
  let p := s.corePart s.arg.a
  let touch := fun (e : Nat × Saved) => if e.1 = p then (e.1, { e.2 with touched := s.arg.a :: e.2.touched }) else e
  .next ({ s with saved := s.saved.map touch }.modCore s.arg.a fun k =>
    let k := { k with rused := [], cells := [], freedPairs := [], freedCells := [] }
    if off = 0x2208 then { k with seqbase := base, sendlog := n, recvlog := BitVec.ofNat 4 (wbits v 52 4) }
    else { k with qbase := base, qlog := n })

/-! ## L2 and LPDDR 6 -/

/-- L2_LINE_EVICTION (R137, R172): slice `arg.a` evicts line `arg.b`. -/
def execL2LineEviction (s : State) : Host.Outcome State Fault Refusal := .next (s.evictL2 s.arg.a (s.arg.b * 64))

/-- PATROL_SCRUB (R380, R381): the scrubber reads line `arg.a`, and writes it back where it corrects it. A new scrub period begins at line 0. -/
def execPatrolScrub (s : State) : Host.Outcome State Fault Refusal :=
  let line := s.arg.a
  let s := if line = 0 then s.modChip fun c => { c with corrected := [] } else s
  let t := s.decodeLine line
  .next (if s.correctable line then { t with errors := del line t.errors } else t)

end Sys2Proof.Machine
end

