-- ==== Sys2Proof/Machine/Meridian.lean ====
section
/-! DEFINITION. Meridian, the assignment engine (R280 to R300): shadows, takes, rounds, stops, status, records, and the bias vector. -/

namespace Sys2Proof.Machine

/-! ## The assignment shadow (R285 to R287) -/

/-- A change of the slot's assignment shadow. -/
def State.merShadow (sc : BitVec 3) (f : MerShadow → MerShadow) (s : State) : State :=
  (s.modMe fun sl => { sl with mshadow := f sl.mshadow }).retire 4 sc.toNat

/-- Whether ROWS and COLS of an operand are in range. -/
def merSizes (v : Word) : Bool :=
  decide (1 ≤ wbits v 0 10) && decide (wbits v 0 10 ≤ 512) && decide (1 ≤ wbits v 16 9) && decide (wbits v 16 9 ≤ 256)

/-- `mer.load.tile` (R286). -/
def execMerLoadTile (ra rb : Reg) (sc : BitVec 3) (s : State) : Host.Outcome State Fault Refusal :=
  let a := s.x ra
  let v := s.x rb
  let st := wbits v 32 24
  .next (if isSup s.myCore then s.illegal (.merLoadTile ra rb sc)
    else if a.toNat % 4 ≠ 0 then s.trap cMISALIGN a
    else if wbits v 10 6 ≠ 0 ∨ wbits v 25 7 ≠ 0 ∨ wbits v 56 8 ≠ 0 ∨ merSizes v = false ∨ st % 4 ≠ 0 ∨
        (st ≠ 0 ∧ st < 4 * wbits v 16 9) then s.trap cPROTECTION v
    else s.merShadow sc fun h =>
      { h with
        loaded := true, smode := false, src := a, rows := BitVec.ofNat 10 v.toNat, cols := BitVec.ofNat 9 (wbits v 16 9),
        stride := BitVec.ofNat 24 (if st = 0 then 4 * wbits v 16 9 else st) })

/-- `mer.load.cand` (R280, R286). -/
def execMerLoadCand (ra rb : Reg) (sc : BitVec 3) (s : State) : Host.Outcome State Fault Refusal :=
  let a := s.x ra
  let v := s.x rb
  .next (if isSup s.myCore then s.illegal (.merLoadCand ra rb sc)
    else if a.toNat % 8 ≠ 0 then s.trap cMISALIGN a
    else if wbits v 10 6 ≠ 0 ∨ wbits v 25 39 ≠ 0 ∨ merSizes v = false then s.trap cPROTECTION v
    else s.merShadow sc fun h =>
      { h with loaded := true, smode := true, src := a, rows := BitVec.ofNat 10 v.toNat, cols := BitVec.ofNat 9 (wbits v 16 9) })

/-- `mer.cap` (R286). -/
def execMerCap (ra : Reg) (sc : BitVec 3) (s : State) : Host.Outcome State Fault Refusal :=
  let a := s.x ra
  .next (if isSup s.myCore then s.illegal (.merCap ra sc)
    else if a.toNat % 2 ≠ 0 then s.trap cMISALIGN a
    else s.merShadow sc fun h => { h with capmode := 1, capaddr := a })

/-- `mer.cap.all` (R286). -/
def execMerCapAll (ra : Reg) (sc : BitVec 3) (s : State) : Host.Outcome State Fault Refusal :=
  let v := s.x ra
  .next (if isSup s.myCore then s.illegal (.merCapAll ra sc)
    else if 512 < v.toNat then s.trap cPROTECTION v
    else s.merShadow sc fun h => { h with capmode := 2, capall := BitVec.ofNat 10 v.toNat })

/-- Whether FP32 bits are finite. -/
def finite32 (v : Nat) : Bool := decide (v % 2 ^ 31 < 0x7F800000)

/-- `mer.cfg` (R287). -/
def execMerCfg (ra rb : Reg) (sc : BitVec 3) (s : State) : Host.Outcome State Fault Refusal :=
  let v := s.x ra
  let w := s.x rb
  let eps := wbits w 0 32
  .next (if isSup s.myCore then s.illegal (.merCfg ra rb sc)
    else if wbits v 27 37 ≠ 0 ∨ wbits v 0 13 = 0 ∨ 4096 < wbits v 0 13 ∨ wbits v 13 3 = 0 ∨ 4 < wbits v 13 3 ∨ wbits v 16 2 = 3 then
      s.trap cPROTECTION v
    else if finite32 eps = false ∨ eps = 0 ∨ 2 ^ 31 ≤ eps ∨ finite32 (wbits w 32 32) = false then s.trap cPROTECTION w
    else s.merShadow sc fun h =>
      { h with cfg := BitVec.ofNat 27 v.toNat, eps := BitVec.ofNat 32 eps, floor := BitVec.ofNat 32 (wbits w 32 32), configured := true })

namespace MerShadow
def roundLimit (h : MerShadow) : Nat := h.cfg.toNat % 2 ^ 13
def copies (h : MerShadow) : Nat := h.cfg.toNat / 2 ^ 13 % 8
def useBias (h : MerShadow) : Bool := h.cfg.getLsbD 18
def fallback (h : MerShadow) : Nat := h.cfg.toNat / 2 ^ 19 % 256
/-- POLICY, 0 where a FALLBACK column does not exist (R289). -/
def policy (h : MerShadow) : Nat :=
  let p := h.cfg.toNat / 2 ^ 16 % 4
  if p = 1 ∧ h.cols.toNat ≤ h.fallback then 0 else p
end MerShadow

/-! ## The engine -/

/-- The sector of a slot, and the master specifier of its engine (R122). -/
def slotSector (k : Nat) : Nat := sectorOf (clusterOf (coreOf k))
def merSpec (sec : Nat) : Nat := 2 ^ 15 + sec

/-- BIASPART of a sector (R284). -/
def State.biasPart (s : State) (sec : Nat) : Nat := (s.cluster (cornerOf sec)).biaspart.toNat

/-- Whether a slot's partition owns its engine's bias vector. -/
def State.ownsBias (s : State) (k : Nat) : Bool :=
  let b := s.biasPart (slotSector k)
  decide (b ≠ 0) && decide (b = s.corePart (coreOf k))

/-- The slot's last auction. -/
def State.auctionOf (s : State) (k : Nat) : Option Auction :=
  match (s.slot k).auction with
  | none => none
  | some n => (s.sector (slotSector k)).buffers.find? fun a => a.id = n

def Sector.setAuction (a : Auction) (se : Sector) : Sector := { se with buffers := se.buffers.map fun b => if b.id = a.id then a else b }

/-- An auction that never ran, as it stands when it ends (R293). -/
def Auction.neverRan (a : Auction) : Auction := { a with ran := false, stopped := true, held := [], prices := [], rounds := 0 }

/-- A protection violation freezes a sector's engine, and the auction in hand ends as one that never ran (R293, R371). -/
def State.merFreeze (sec : Nat) (addr : Word) (s : State) : State :=
  (s.modSector sec fun se =>
    { se with frozen := true, current := none, buffers := se.buffers.map fun a => if se.current = some a.id then a.neverRan else a }).record
      0xC0 (merSpec sec) addr 4

/-- A failed item of the slot's auction: MERFAULT keeps the first, and the message is sent (R293). -/
def State.merFail (k : Nat) (wr : Bool) (f : Fail) (s : State) : State :=
  let c := coreOf k
  let s := s.modSlot k fun sl =>
    { sl with merfault := if sl.merfault = 0 then BitVec.ofNat 9 (f.status + (if wr then 256 else 0)) else sl.merfault }
  s.engineFault c (s.corePart c) (merSpec (slotSector k)) f

/-- What an engine's read of its items meets: bytes, zeros for an item that fails, and the failures in order, a poisoned line among them with its bytes
as they are. After a protection violation the items still to come are reported failed one by one (R149, R293). -/
def State.merPieces (sec c : Nat) : List (Word × Nat) → State → (List Byte × List Fail) × State
  | [], s => (([], []), s)
  | (a, n) :: l, s => match s.engineReadBy (.meridian sec) c a n with
    | (.error f, s) =>
      if f.status = 4 then ((List.replicate ((n :: l.map (·.2)).sum) 0, f :: l.map fun x => ⟨4, cPROTECTION, x.1, none⟩), s)
      else
        let r := State.merPieces sec c l s
        ((List.replicate n 0 ++ r.1.1, f :: r.1.2), r.2)
    | (.ok (b, bad), s) =>
      let r := State.merPieces sec c l s
      ((b ++ r.1.1, if bad then ⟨3, cPOISON, a, none⟩ :: r.1.2 else r.1.2), r.2)

/-- One failure for each line. -/
def oneALine (l : List Fail) : List Fail :=
  l.foldl (fun r f => if r.any fun g => g.addr.toNat / 64 = f.addr.toNat / 64 then r else r ++ [f]) []

/-! ## FP32 as the engine computes (R290) -/

/-- A result that would be infinite becomes the largest finite of its sign. -/
def satur (x : Nat × FFlags) : BitVec 32 :=
  if x.1 = 0x7F800000 then 0x7F7FFFFF else if x.1 = 0xFF800000 then 0xFF7FFFFF else BitVec.ofNat 32 x.1
def addSat (a b : BitVec 32) : BitVec 32 := satur (Fmt.f32.fadd mRNE a.toNat b.toNat)
def subSat (a b : BitVec 32) : BitVec 32 := satur (Fmt.f32.fsub mRNE a.toNat b.toNat)
/-- a < b as FP32 values. -/
def less32 (a b : BitVec 32) : Bool := (Fmt.f32.decode a.toNat).lt (Fmt.f32.decode b.toNat)

/-- The pair with the highest value, ties to the lower column. -/
def bestPair (l : List (Nat × BitVec 32)) : Option (Nat × BitVec 32) :=
  l.foldl (fun (b : Option (Nat × BitVec 32)) x => match b with
    | none => some x
    | some y => if less32 y.2 x.2 || (!less32 x.2 y.2 && decide (x.1 < y.1)) then some x else b) none

/-- The `n` best pairs, best first. -/
def bestPairs : Nat → List (Nat × BitVec 32) → List (Nat × BitVec 32)
  | 0, _ => []
  | n + 1, l => match bestPair l with
    | none => []
    | some x => x :: bestPairs n (l.filter fun y => y.1 ≠ x.1)

/-! ## The take (R288, R289) -/

namespace MerShadow
/-- Bytes of the capacities in memory. -/
def capBytes (h : MerShadow) : Nat := if h.capmode = 1 then 2 * h.cols.toNat else 0
/-- Where row `r` begins, and its bytes. -/
def rowAt (h : MerShadow) (r : Nat) : Word := if h.smode then h.src + w64 (64 * r) else h.src + w64 (r * h.stride.toNat)
def rowBytes (h : MerShadow) : Nat := if h.smode then 64 else 4 * h.cols.toNat
/-- The items of a take: the lines of the capacities, and then of each row. -/
def items (h : MerShadow) : List (Word × Nat) :=
  linePieces (h.capBytes + 1) h.capaddr h.capBytes ++
    (List.range h.rows.toNat).flatMap fun r => linePieces (h.rowBytes + 1) (h.rowAt r) h.rowBytes
/-- Capacities, from the bytes of the items. -/
def caps (h : MerShadow) (l : List Byte) : List Nat :=
  (List.range h.cols.toNat).map fun j => Nat.min 512 (if h.capmode = 1 then ofBytes ((l.drop (2 * j)).take 2) % 1024 else h.capall.toNat)
end MerShadow

/-- The candidates in one row's bytes (R289). -/
def rowCands (h : MerShadow) (caps : List Nat) (l : List Byte) : List (Nat × BitVec 32) :=
  let ok := fun (x : Nat × BitVec 32) => finite32 x.2.toNat && decide (caps.getD x.1 0 ≠ 0)
  if h.smode then
    let es := ((List.range 8).map fun i => w64 (ofBytes ((l.drop (8 * i)).take 8))).filterMap fun w =>
      if w.getLsbD 48 ∧ wbits w 32 16 < h.cols.toNat then some (wbits w 32 16, BitVec.ofNat 32 w.toNat) else none
    (es.foldl (fun (r : List (Nat × BitVec 32)) x => if r.any fun y => y.1 = x.1 then r else r ++ [x]) []).filter ok
  else
    bestPairs 8 (((List.range h.cols.toNat).map fun j => (j, BitVec.ofNat 32 (ofBytes ((l.drop (4 * j)).take 4)))).filter ok)

/-- Every row's candidates, from the bytes of the items. -/
def MerShadow.cands (h : MerShadow) (l : List Byte) : SMap (List (Nat × BitVec 32)) :=
  (List.range h.rows.toNat).map fun r => (r, rowCands h (h.caps l) ((l.drop (h.capBytes + h.rowBytes * r)).take h.rowBytes))

/-- `mer.go` (R288). -/
def execMerGo (rd : Reg) (sc : BitVec 3) (s : State) : Host.Outcome State Fault Refusal :=
  let h := s.me.mshadow
  let sec := slotSector s.cur
  .next (if isSup s.myCore then s.illegal (.merGo rd sc)
    else if !h.loaded || !h.configured || decide (h.capmode = 0) then s.trap cPROTECTION 0
    else if s.fenced s.cur 4 then s.waitFor (.fence 4)
    else
      let s := s.endAuctions s.cur
      let s := s.modMe fun sl => { sl with auction := none, merfault := 0, waiting := true }
      let s := s.modSector sec fun se => { se with order := se.order ++ [s.cur] }
      (s.parkMe (.merGo rd.toNat sc.toNat) sc.toNat).post .auctionTake (arg1 sec))

/-- An auction at its take, before its inputs are read. -/
def Auction.fresh (id k part : Nat) (h : MerShadow) (gen : BitVec 32) (bias : SMap (BitVec 32)) : Auction :=
  { id := id, slot := k, part := part, sh := h, gen := gen, bias := bias, caps := [], cands := [], prices := [], held := [],
    rounds := 0, stopped := false, ran := true, cause := 0, poison := false, abandon := false }

/-- AUCTION_TAKE (R288): the engine of sector `arg.a` goes on with a restored auction, or takes the shadow that waits longest. Every item of the
input that fails is reported; a poisoned one alone does not keep the auction from running (R293). -/
def execAuctionTake (s : State) : Host.Outcome State Fault Refusal :=
  let sec := s.arg.a
  let se := s.sector sec
  .next (if se.frozen || se.current.isSome then s
    else match se.resume with
      | n :: l => (s.modSector sec fun se => { se with resume := l, current := some n }).post .auctionRound (arg1 sec)
      | [] => match se.order with
        | [] => s
        | k :: l =>
          if 4 ≤ (se.buffers.filter fun a => !a.abandon).length then s.defer
          else
            let h := (s.slot k).mshadow
            let c := coreOf k
            let owns := s.ownsBias k
            let (n, s) := s.number
            let a := Auction.fresh n k (s.corePart c) h se.gen (if owns && h.useBias then se.bias else [])
            let s := s.modSlot k fun sl => { sl with auction := some n, waiting := false }
            let s := match (s.slot k).park with
              | .merGo rd _ => s.deliverX k (BitVec.ofNat 5 rd) (if owns then se.gen.setWidth 64 else 0)
              | _ => s
            let s := s.modSector sec fun se => { se with order := l }
            let r := s.merPieces sec c h.items
            let fails := oneALine r.1.2
            let s := fails.foldl (fun (s : State) f => s.merFail k false f) r.2
            if fails.any (fun (f : Fail) => decide (f.status ≠ 3)) then
              let s := s.modSector sec fun se => { se with buffers := se.buffers ++ [a.neverRan] }
              (match fails.find? (fun (f : Fail) => decide (f.status = 4)) with
                | some f => s.merFreeze sec f.addr
                | none => s).post .auctionTake (arg1 sec)
            else
              let a := { a with caps := (h.caps r.1.1).zipIdx.map (fun (x : Nat × Nat) => (x.2, x.1)), cands := h.cands r.1.1, poison := !fails.isEmpty }
              (s.modSector sec fun se => { se with buffers := se.buffers ++ [a], current := some n }).post .auctionRound (arg1 sec))

/-! ## Rounds (R290, R291) -/

namespace Auction

def rows (a : Auction) : Nat := a.sh.rows.toNat
def cols (a : Auction) : Nat := a.sh.cols.toNat
def cap (a : Auction) (j : Nat) : Nat := look 0 a.caps j
def price (a : Auction) (j : Nat) : BitVec 32 := look 0 a.prices j
/-- Every row copy, in order; copy q of row r is r * 4 + q. -/
def copyKeys (a : Auction) : List Nat := (List.range a.rows).flatMap fun r => (List.range a.sh.copies).map fun q => 4 * r + q
def unassigned (a : Auction) : List Nat := a.copyKeys.filter fun k => (find? a.held k).isNone
/-- Columns held by the other copies of a copy's row. -/
def heldByRow (a : Auction) (k : Nat) : List Nat := (a.held.filter fun e => decide (e.1 / 4 = k / 4) && decide (e.1 ≠ k)).map fun e => e.2.1

/-- C of R290: candidates outside `xs` whose value is above the floor. -/
def above (a : Auction) (k : Nat) (xs : List Nat) : List (Nat × BitVec 32) :=
  (((look [] a.cands (k / 4)).filter fun x => !xs.contains x.1).map fun x =>
    (x.1, subSat (addSat x.2 (look 0 a.bias x.1)) (a.price x.1))).filter fun x => less32 a.sh.floor x.2

/-- A copy's bid. -/
def bid (a : Auction) (k : Nat) (xs : List Nat) : Option (Nat × BitVec 32) :=
  let c := a.above k xs
  match bestPair c with
  | none => none
  | some (j, v) =>
    let v2 := match bestPair (c.filter fun x => x.1 ≠ j) with
      | some x => x.2
      | none => a.sh.floor
    some (j, addSat (addSat (a.price j) (subSat v v2)) a.sh.eps)

/-- The bids of one round, by copy. -/
def bids (a : Auction) : List (Nat × Nat × BitVec 32) :=
  a.unassigned.foldl (fun l k =>
    let mine := (l.filter fun (b : Nat × Nat × BitVec 32) => b.1 / 4 = k / 4).map fun b => b.2.1
    match a.bid k (a.heldByRow k ++ mine) with
    | some (j, v) => l ++ [(k, j, v)]
    | none => l) []

/-- Whether an offer (copy, bid, new) ranks before another. -/
def offerBefore (x y : Nat × BitVec 32 × Bool) : Bool :=
  less32 y.2.1 x.2.1 || (!less32 x.2.1 y.2.1 && ((!x.2.2 && y.2.2) || (decide (x.2.2 = y.2.2) && decide (x.1 < y.1))))

def insertOffer (x : Nat × BitVec 32 × Bool) : List (Nat × BitVec 32 × Bool) → List (Nat × BitVec 32 × Bool)
  | [] => [x]
  | y :: l => if offerBefore x y then x :: y :: l else y :: insertOffer x l

/-- One round (R290): every bid at the prices of its start, then each column keeps its best. -/
def round (a : Auction) : Auction :=
  let bs := a.bids
  let kept := (List.range a.cols).map fun j =>
    let offers := ((a.held.filter fun e => e.2.1 = j).map fun e => (e.1, e.2.2, false)) ++ ((bs.filter fun b => b.2.1 = j).map fun b => (b.1, b.2.2, true))
    (j, (offers.foldl (fun l x => insertOffer x l) []).take (a.cap j))
  { a with
    rounds := a.rounds + 1,
    held := kept.foldl (fun m x => x.2.foldl (fun m o => put o.1 (x.1, o.2.1) m) m) [],
    prices := kept.foldl (fun m x =>
      match x.2.getLast? with
      | some o => if x.2.length = a.cap x.1 then put x.1 o.2.1 m else m
      | none => m) a.prices }

/-- The first test of R291 that holds. -/
def stops (a : Auction) : Option (BitVec 2) :=
  if a.unassigned.isEmpty then some 1
  else if a.unassigned.all fun k => (a.above k (a.heldByRow k)).isEmpty then some 2
  else if a.sh.roundLimit ≤ a.rounds then some 3 else none

/-- MERSTAT (R281, R293). -/
def word (a : Auction) : BitVec 32 :=
  if !a.ran then BitVec.ofNat 32 (a.rows * a.sh.copies * 2 ^ 16)
  else BitVec.ofNat 32 (a.rounds % 2 ^ 13 + a.unassigned.length % 2 ^ 12 * 2 ^ 16 + a.cause.toNat * 2 ^ 30)

end Auction

/-- AUCTION_ROUND (R290): the stop tests, and then one round, of the auction the engine of sector `arg.a` runs; a frozen engine waits for
`sv.thaw` (R123, R292). -/
def execAuctionRound (s : State) : Host.Outcome State Fault Refusal :=
  let sec := s.arg.a
  let se := s.sector sec
  .next (match se.current.bind fun n => se.buffers.find? fun a => a.id = n with
    | none => s
    | some a =>
      let close := fun (s : State) => (s.modSector sec fun se => { se with current := none }).post .auctionTake (arg1 sec)
      if a.abandon then close (s.modSector sec fun se => { se with buffers := se.buffers.filter fun b => b.id ≠ a.id })
      else if se.frozen then s.defer
      else match a.stops with
        | some c => close (s.modSector sec (Sector.setAuction { a with stopped := true, cause := c }))
        | none => (s.modSector sec (Sector.setAuction a.round)).post .auctionRound (arg1 sec))

/-! ## Status and records (R281, R282, R291, R293, R294) -/

/-- `mer.stat` (R281, R293). -/
def execMerStat (rd : Reg) (sc : BitVec 3) (s : State) : Host.Outcome State Fault Refusal :=
  .next (if isSup s.myCore then s.illegal (.merStat rd sc)
    else match s.auctionOf s.cur with
      | none => ((s.modMe fun sl => { sl with merstat := 0 }).setX rd 0).retire 4 sc.toNat
      | some a =>
        if !a.stopped then s.waitFor (.auction a.id)
        else (s.modMe fun sl => { sl with merstat := a.word }).giveX rd (a.word.setWidth 64) sc.toNat)

namespace Auction

/-- What POLICY gives the overflowing copies of row `r` (R291): by copy, the halfword and the column it counts in. -/
def overflowRow (a : Auction) (r : Nat) : List (Nat × Nat × Option Nat) :=
  let ks := (List.range a.sh.copies).map fun q => 4 * r + q
  let pol := if a.ran then a.sh.policy else 0
  (ks.filter fun k => (find? a.held k).isNone).foldl (fun l k =>
    match pol with
    | 1 => l ++ [(k, 0x8000 + a.sh.fallback, some a.sh.fallback)]
    | 2 =>
      let taken := a.heldByRow k ++ l.filterMap fun (x : Nat × Nat × Option Nat) => x.2.2
      (match bestPair ((look [] a.cands r).filter fun x => !taken.contains x.1) with
        | some (c, _) => l ++ [(k, 0x8000 + c, some c)]
        | none => l ++ [(k, 0xFFFF, none)])
    | _ => l ++ [(k, 0xFFFF, none)]) []

/-- The overflow of every row. -/
def overflow (a : Auction) : List (Nat × Nat × Option Nat) := (List.range a.rows).flatMap a.overflowRow

/-- The assignment records (R282): four halfwords a row. -/
def assignBytes (a : Auction) : List Byte :=
  let ovf := a.overflow
  (List.range a.rows).flatMap fun r => (List.range 4).flatMap fun q =>
    toBytes 2 (if a.sh.copies ≤ q then 0xFFFF else
      match find? a.held (4 * r + q) with
      | some x => if a.ran then x.1 else 0xFFFF
      | none => match ovf.find? fun x => x.1 = 4 * r + q with
        | some x => x.2.1
        | none => 0xFFFF)

/-- The rows in column `j`'s list, ascending, each once, and whether any of them overflowed into it. -/
def columnRows (a : Auction) (ovf : List (Nat × Nat × Option Nat)) (j : Nat) : List Nat × Bool :=
  let held := fun (r : Nat) => a.ran && a.held.any fun e => decide (e.1 / 4 = r) && decide (e.2.1 = j)
  let extra := fun (r : Nat) => ovf.any fun x => decide (x.1 / 4 = r) && decide (x.2.2 = some j)
  ((List.range a.rows).filter fun r => held r || extra r, (List.range a.rows).any extra)

/-- The ragged records and row lists (R282, R291), padded to a doubleword. -/
def raggedBytes (a : Auction) : List Byte :=
  let ovf := a.overflow
  let cols := (List.range a.cols).map fun j => (j, a.columnRows ovf j)
  let recs := (cols.foldl (fun (b : List Byte × Nat) x =>
    let n := x.2.1.length
    let flags := (if x.2.2 then 1 else 0) + (if a.cap x.1 < n ∧ a.ran = true then 2 else 0)
    (b.1 ++ toBytes 2 x.1 ++ toBytes 2 n ++ toBytes 1 32 ++ toBytes 1 (if a.sh.policy = 0 then 0 else flags) ++
      toBytes 4 (16 * a.cols + 2 * b.2) ++ toBytes 2 x.1 ++ toBytes 4 0, b.2 + n)) (([] : List Byte), 0)).1
  let lists := cols.flatMap fun x => x.2.1.flatMap fun r => toBytes 2 r
  recs ++ lists ++ List.replicate ((8 - lists.length % 8) % 8) 0xFF

end Auction

/-- Writes doublewords as the engine's items, one a line: the homes written. After a protection violation the items still to come are
reported failed one by one (R149, R293). -/
def State.merWrite (k : Nat) (bad : Bool) : List (Word × Nat) → List Byte → State → List (Home × Nat) × State
  | [], _, s => ([], s)
  | (a, n) :: l, b, s =>
    match s.engineStoreBy (.meridian (slotSector k)) (coreOf k) a (b.take n) bad with
    | (.error f, s) =>
      let s := s.merFail k true f
      if f.status = 4 then
        ([], l.foldl (fun (s : State) x => s.merFail k true ⟨4, cPROTECTION, x.1, none⟩) (s.merFreeze (slotSector k) f.addr))
      else State.merWrite k bad l (b.drop n) s
    | (.ok hs, s) =>
      let (r, s) := State.merWrite k bad l (b.drop n) s
      (hs.map (fun h => (h, n)) ++ r, s)

/-- What the engine writes for the slot in hand waits for a fence, and while the engine is frozen (R123, R189). -/
def State.merGate (f : State → State) (s : State) : State :=
  if s.fenced s.cur 4 then s.waitFor (.fence 4)
  else if (s.sector (slotSector s.cur)).frozen then s.waitFor (.meridian (slotSector s.cur))
  else f s

/-- What the engine writes for slot `k`, parked for it: the records of its auction, whose doublewords become full after the last is written
(R294), or a vector (R297). -/
def State.merPut (k : Nat) (s : State) : State :=
  match (s.slot k).park with
  | .merOut a g _ => (match s.auctionOf k with
    | none => s
    | some au =>
      let x := au.assignBytes
      let y := au.raggedBytes
      let r := s.merWrite k au.poison (linePieces (x.length + 1) a x.length ++ linePieces (y.length + 1) g y.length) (x ++ y)
      (r.1.flatMap fun e => fillWords e.1 e.2).foldl (fun s h => s.fillWord h) r.2)
  | .merSnap a l _ _ _ =>
    let b := l.flatMap fun v => toBytes 4 v.toNat
    (s.merWrite k false (linePieces (b.length + 1) a b.length) b).2
  | _ => s

/-- `mer.out` (R282, R294): the slot parks until the engine has written the records. -/
def execMerOut (ra rb : Reg) (sc : BitVec 3) (s : State) : Host.Outcome State Fault Refusal :=
  let a := s.x ra
  let g := s.x rb
  .next (if isSup s.myCore then s.illegal (.merOut ra rb sc)
    else if a.toNat % 8 ≠ 0 then s.trap cMISALIGN a
    else if g.toNat % 8 ≠ 0 then s.trap cMISALIGN g
    else match s.auctionOf s.cur with
      | none => s.retire 4 sc.toNat
      | some au =>
        if !au.stopped then s.waitFor (.auction au.id)
        else s.merGate fun s => (s.parkMe (.merOut a g sc.toNat) sc.toNat).post .slotWake (arg1 s.cur))

/-! ## The bias vector (R295, R297) -/

/-- Installs a bias vector: the generation advances and is the result. -/
def State.publish (rd : Reg) (sc : BitVec 3) (b : SMap (BitVec 32)) (s : State) : State :=
  let sec := slotSector s.cur
  let g := (s.sector sec).gen + 1
  (s.modSector sec fun se => { se with bias := b, gen := g }).giveX rd (g.setWidth 64) sc.toNat

/-- `mer.bias` and `mer.bias.add` (R295): b_j from σ and the slot's end prices. -/
def State.merBias (rd ra : Reg) (sc : BitVec 3) (f : Nat → BitVec 32 → BitVec 32 → BitVec 32) (above : BitVec 32 → BitVec 32) (s : State) : State :=
  let v := s.x ra
  if !s.ownsBias s.cur then s.trap cPROTECTION 0
  else match s.auctionOf s.cur with
    | none => s.trap cPROTECTION 0
    | some a =>
      if !finite32 (wbits v 0 32) then s.trap cPROTECTION v
      else if s.fenced s.cur 4 then s.waitFor (.fence 4)
      else if !a.stopped then s.waitFor (.auction a.id)
      else
        let old := (s.sector (slotSector s.cur)).bias
        s.publish rd sc ((List.range 256).map fun j =>
          (j, if j < a.cols then f (wbits v 0 32) (look 0 old j) (a.price j) else above (look 0 old j)))

/-- `mer.bias` (R295). -/
def execMerBias (rd ra : Reg) (sc : BitVec 3) (s : State) : Host.Outcome State Fault Refusal :=
  .next (if isSup s.myCore then s.illegal (.merBias rd ra sc)
    else s.merBias rd ra sc (fun g _ p => satur (Fmt.f32.fmul mRNE g p.toNat)) fun _ => 0)

/-- `mer.bias.add` (R295): the product exact, one rounding. -/
def execMerBiasAdd (rd ra : Reg) (sc : BitVec 3) (s : State) : Host.Outcome State Fault Refusal :=
  .next (if isSup s.myCore then s.illegal (.merBiasAdd rd ra sc)
    else s.merBias rd ra sc (fun g b p => satur (Fmt.f32.ffma mRNE false g p.toNat b.toNat)) fun b => b)

/-- `mer.bias.copy` (R295): 256 elements read as 64-bit loads of the slot. -/
def execMerBiasCopy (rd ra : Reg) (sc : BitVec 3) (s : State) : Host.Outcome State Fault Refusal :=
  let a := s.x ra
  .next (if isSup s.myCore then s.illegal (.merBiasCopy rd ra sc)
    else if !s.ownsBias s.cur then s.trap cPROTECTION 0
    else if a.toNat % 64 ≠ 0 then s.trap cMISALIGN a
    else if s.fenced s.cur 4 then s.waitFor (.fence 4)
    else
      let go := fun (s : State) => match s.imageWords 128 a with
        | (.error b, s) => s.bad b
        | (.ok ws, s) =>
          let es := ws.flatMap fun w => [wbits w 0 32, wbits w 32 32]
          s.publish rd sc (es.zipIdx.map fun x => (x.2, if finite32 x.1 then BitVec.ofNat 32 x.1 else 0))
      match s.auctionOf s.cur with
      | some au => if au.stopped then go s else s.waitFor (.auction au.id)
      | none => go s)

/-- The slot parks until the engine has written a vector for `mer.snap`; the result is delivered by parking (R298). -/
def State.merSnap (rd : Reg) (a : Word) (sc : BitVec 3) (l : List (BitVec 32)) (res : Word) (s : State) : State :=
  s.merGate fun s => (s.parkMe (.merSnap a l rd.toNat res sc.toNat) sc.toNat).post .slotWake (arg1 s.cur)

/-- `mer.snap` (R297): the end prices of the slot's last auction. -/
def execMerSnap (rd ra : Reg) (sc : BitVec 3) (s : State) : Host.Outcome State Fault Refusal :=
  let a := s.x ra
  .next (if isSup s.myCore then s.illegal (.merSnap rd ra sc)
    else if a.toNat % 64 ≠ 0 then s.trap cMISALIGN a
    else match s.auctionOf s.cur with
      | none => s.giveX rd 0 sc.toNat
      | some au =>
        if !au.stopped then s.waitFor (.auction au.id)
        else s.merSnap rd a sc ((List.range au.cols).map au.price) (w64 au.cols))

/-- `mer.snap.bias` (R297): the engine's current bias vector. -/
def execMerSnapBias (rd ra : Reg) (sc : BitVec 3) (s : State) : Host.Outcome State Fault Refusal :=
  let a := s.x ra
  let se := s.sector (slotSector s.cur)
  .next (if isSup s.myCore then s.illegal (.merSnapBias rd ra sc)
    else if a.toNat % 64 ≠ 0 then s.trap cMISALIGN a
    else if !s.ownsBias s.cur then s.trap cPROTECTION 0
    else s.merSnap rd a sc ((List.range 256).map fun j => look 0 se.bias j) (se.gen.setWidth 64))

end Sys2Proof.Machine
end

