-- ==== Sys2Proof/Machine/LaunchUnit.lean ====
section
/-! DEFINITION. The launch unit: records and their queues, events, expansion, completion records and what waits for them (R301 to R317). -/

namespace Sys2Proof.Machine

/-! ## Queues and events -/

def State.lqueue (s : State) (q : Nat) : LQueue := look LQueue.reset s.launch.queues q
def State.modQueue (q : Nat) (f : LQueue → LQueue) (s : State) : State :=
  s.modLaunch fun l => { l with queues := put q (f (look LQueue.reset l.queues q)) l.queues }
def State.cqueue (s : State) (c : Nat) : CQueue := look CQueue.reset s.launch.comps c
def State.modComp (c : Nat) (f : CQueue → CQueue) (s : State) : State :=
  s.modLaunch fun l => { l with comps := put c (f (look CQueue.reset l.comps c)) l.comps }
def State.event (s : State) (n : Nat) : EvReg := look EvReg.reset s.launch.events n
def State.modEvent (n : Nat) (f : EvReg → EvReg) (s : State) : State :=
  s.modLaunch fun l => { l with events := put n (f (look EvReg.reset l.events n)) l.events }

/-- Whether queue `q` is a launch queue of a partition (R306); whether `c` is one of its completion queues (R307). -/
def LQueue.ofPart (q : LQueue) (p : Nat) : Bool := q.en && decide (q.part.toNat = p) && decide (p ≠ 0)
def CQueue.ofPart (q : CQueue) (p : Nat) : Bool := q.en && decide (q.part.toNat = p) && decide (p ≠ 0)

/-- The event a handle names, its threshold, and whether it is satisfied (R311). -/
def evNum (h : Word) : Nat := wbits h 0 12
def State.evMet (s : State) (h : Word) : Bool := !((s.event (evNum h)).count - BitVec.ofNat 32 (wbits h 32 32)).getLsbD 31

def State.headMet (s : State) (r : LRec) : Bool := r.events.all s.evMet
def State.headFailed (s : State) (r : LRec) : Bool := r.events.any fun h => (s.event (evNum h)).failed

/-! ## Pushing a record (R301, R302, R308) -/

/-- Whether a record's twelve doublewords are malformed for a partition. `ws` are those read, from +0. -/
def State.badRecord (s : State) (p : Nat) (ws : List Word) : Bool :=
  let g := fun (i : Nat) => ws.getD i 0
  let w0 := g 0
  let mode := wbits w0 0 2
  let nrec := wbits (g 3) 0 9
  decide (mode = 3) || decide (4 < wbits w0 7 3) || decide (wbits w0 16 48 ≠ 0) || decide (wbits (g 3) 9 55 ≠ 0) ||
  (w0.getLsbD 6 && !(s.cqueue (wbits w0 2 4)).ofPart p) || decide (nrec = 0) || decide (256 < nrec) ||
  (match mode with
    | 0 => decide ((g 2).toNat % 8 ≠ 0)
    | 1 => (g 2).getLsbD 0 || decide (wbits (g 2) 48 16 ≠ 0) || decide ((g 4).toNat % 8 ≠ 0)
    | _ => decide ((g 2).toNat % 16 ≠ 0) || decide ((g 4).toNat % 8 ≠ 0)) ||
  ((ws.drop 8).take (wbits w0 7 3)).any fun h => decide (wbits h 12 20 ≠ 0) || decide ((s.event (evNum h)).part.toNat ≠ p)

/-- The record of its doublewords, unnumbered. -/
def recordOf (core p q : Nat) (ws : List Word) : LRec :=
  let g := fun (i : Nat) => ws.getD i 0
  { mode := (g 0).setWidth 2, cq := BitVec.ofNat 4 (wbits (g 0) 2 4), cqen := (g 0).getLsbD 6,
    channel := BitVec.ofNat 6 (wbits (g 0) 10 6), tag := g 1, src := g 2, nrec := wbits (g 3) 0 9, map := g 4, arg1 := g 5,
    arg2 := g 6, arg3 := g 7, events := (ws.drop 8).take (wbits (g 0) 7 3), core := core, part := p, queue := q, seq := 0 }

/-- Appends a record to its queue, numbered. -/
def State.pushRecord (r : LRec) (s : State) : State :=
  (s.modQueue r.queue fun q => { q with recs := q.recs ++ [{ r with seq := q.seq }], seq := (q.seq + 1) % 2 ^ 56 }).post
    .launchRecordTake Arg.zero

def State.queueFull (s : State) (q : Nat) : Bool := decide (32 ≤ (s.lqueue q).recs.length)

/-- `lq.push` (R302): the checks, the record read at issue as loads of the slot, and its place in the queue once the release is met and
there is room. -/
def execLqPush (q : BitVec 4) (ra : Reg) (sc : BitVec 3) (s : State) : Host.Outcome State Fault Refusal :=
  let a := s.x ra
  let p := s.corePart s.myCore
  let n := q.toNat
  .next (if !(s.lqueue n).ofPart p then s.trap cPROTECTION (w64 n)
    else if a.toNat % 32 ≠ 0 then s.trap cMISALIGN a
    else if s.fenced s.cur 5 then s.waitFor (.fence 5)
    else
      let fin := fun (ws : List Word) (s : State) =>
        if s.badRecord p ws then s.trap cPROTECTION a
        else
          let r := recordOf s.myCore p n ws
          if s.queueFull n || !s.released s.cur .ch then (s.parkMe (.push r sc.toNat) sc.toNat).post .slotWake (arg1 s.cur)
          else (s.pushRecord r).retire 4 sc.toNat
      match s.imageWords 8 a with
      | (.error b, s) => s.bad b
      | (.ok ws, s) =>
        let nev := wbits (ws.getD 0 0) 7 3
        match s.imageWords (if nev ≤ 4 then nev else 0) (a + 64) with
        | (.error b, s) => s.bad b
        | (.ok es, s) => fin (ws ++ es) s)

/-- `lq.stat` (R313). -/
def execLqStat (rd : Reg) (q : BitVec 4) (sc : BitVec 3) (s : State) : Host.Outcome State Fault Refusal :=
  let v := s.lqueue q.toNat
  let waits := match v.recs with
    | [] => false
    | r :: _ => !s.headMet r
  .next (if !v.ofPart (s.corePart s.myCore) then s.trap cPROTECTION (w64 q.toNat)
    else (s.resultX rd (w64 (v.recs.length + v.prio.toNat * 2 ^ 6 + (if waits then 2 ^ 8 else 0) + v.seq % 2 ^ 48 * 2 ^ 16)) 2).retire 4 sc.toNat)

/-! ## Events (R314) -/

/-- An update of an event; a bound result of the same cycle is added after a set (R323). -/
def State.signalEvent (n : Nat) (set : Bool) (v : BitVec 32) (s : State) : State :=
  (s.modEvent n fun e =>
    { e with count := if set then v + (if e.addAt = s.cycle + 1 then e.adds else 0) else e.count + v }).post .launchRecordTake Arg.zero

/-- `ev.sig` and `ev.sig.set` (R314): the slot goes on, and the update waits at the launch unit for what the release covers, the slot's
earlier stores, engine writes and reflected stores. -/
def State.evSignal (set : Bool) (ra rb : Reg) (sc : BitVec 3) (s : State) : State :=
  let a := s.x ra
  let v : BitVec 32 := (s.x rb).setWidth 32
  let n := evNum a
  let p := s.corePart s.myCore
  if wbits a 12 20 ≠ 0 ∨ p = 0 ∨ (s.event n).part.toNat ≠ p then s.trap cPROTECTION a
  else
    (s.signalLater .ch (.event n set v)).retire 4 sc.toNat

/-- `ev.sig` (R314). -/
def execEvSig (ra rb : Reg) (sc : BitVec 3) (s : State) : Host.Outcome State Fault Refusal := .next (s.evSignal false ra rb sc)

/-- `ev.sig.set` (R314). -/
def execEvSigSet (ra rb : Reg) (sc : BitVec 3) (s : State) : Host.Outcome State Fault Refusal := .next (s.evSignal true ra rb sc)

/-- The event updates and contributions of slot `k` whose precedents are performed, in order. -/
def State.performSigs (k : Nat) (s : State) : State :=
  let due := fun (f : FenceCond) => f.sig.isSome && s.fenceMet k f
  ((s.slot k).fences.filter due).foldl (fun (s : State) f => match f.sig with
      | some (.event n set v) => s.signalEvent n set v
      | some (.contribute g key v num) => s.contribute k g key v num
      | none => s)
    (s.modSlot k fun sl => { sl with fences := sl.fences.filter fun f => !due f })

/-! ## Popping a completion record (R305, R315) -/

def CRec.words (r : CRec) : List Word := [r.w0, r.w1, r.w2, r.w3]
def CRec.bytes (r : CRec) : List Byte := r.words.flatMap fun w => toBytes 8 w.toNat

/-- Whether slot `k` may take queue `c`'s oldest record: there is one, and nobody registered before it. -/
def CQueue.servesSlot (q : CQueue) (k : Nat) : Bool :=
  !q.recs.isEmpty && (match q.regs with
    | [] => true
    | r :: _ => decide (r = some k))

/-- Four doubleword stores of the slot in hand. -/
def State.store4 (h : Home) (ws : List Word) (s : State) : State :=
  (ws.zipIdx).foldl (fun (s : State) x => s.store s.cur (h.plus (8 * x.2)) (.bytes (toBytes 8 x.1.toNat))) s

/-- `cq.pop` (R305): waits for a record in the order of registration and stores it; as an acquire it leaves the L1 alone (R165). A slot that
has to wait with its record before it keeps its place. -/
def execCqPop (rd ra : Reg) (c : BitVec 4) (sc : BitVec 3) (s : State) : Host.Outcome State Fault Refusal :=
  let a := s.x ra
  let n := c.toNat
  let q := s.cqueue n
  let off := fun (s : State) => s.modComp n fun q => { q with regs := q.regs.filter (· != some s.cur) }
  .next (if !q.ofPart (s.corePart s.myCore) then (off s).trap cPROTECTION (w64 n)
    else if a.toNat % 32 ≠ 0 then (off s).trap cMISALIGN a
    else if s.fenced s.cur 1 then s.waitFor (.fence 1)
    else s.afterSends fun s => match q.servesSlot s.cur, q.recs with
      | true, r :: rest =>
        let fin := fun (s : State) =>
          (s.modComp n fun q => { q with recs := rest }).giveX rd r.w0 sc.toNat
        let t := (off s).access a 32 .store
          (fun h s => if s.fenced s.cur 2 then s.waitFor (.fence 2) else fin (s.store4 h r.words))
          (State.discardTrap a)
          (fun w s =>
            if s.fenced s.cur 8 then s.waitFor (.fence 8)
            else if !s.windowRoom s.cur w 4 then s.waitFor (.tracker w 4)
            else fin ((r.words.zipIdx).foldl (fun (s : State) x => s.reflect s.cur w (a + w64 (8 * x.2)) (toBytes 8 x.1.toNat)) s))
        if t.me.park.again? then t.modComp n fun q => { q with regs := some s.cur :: q.regs } else t
      | _, _ =>
        let s := if q.regs.contains (some s.cur) then s else s.modComp n fun q => { q with regs := q.regs ++ [some s.cur] }
        s.waitFor (.record n))

/-- `cq.pop.act` (R315): arms the queue; the slot goes on. -/
def execCqPopAct (p ra : Reg) (c : BitVec 4) (sc : BitVec 3) (s : State) : Host.Outcome State Fault Refusal :=
  let a := s.x ra
  let pc := s.x p
  let n := c.toNat
  let q := s.cqueue n
  .next (if !q.ofPart (s.corePart s.myCore) then s.trap cPROTECTION (w64 n)
    else if a.toNat % 32 ≠ 0 then s.trap cMISALIGN a
    else if pc.getLsbD 0 ∨ wbits pc 48 16 ≠ 0 then s.trap cPROTECTION pc
    else if q.arm.isSome then s.trap cPROTECTION (w64 n)
    else if s.fenced s.cur 4 then s.waitFor (.fence 4)
    else ((s.modComp n fun q =>
        { q with arm := some ⟨s.myCore, s.corePart s.myCore, pc.setWidth 48, a⟩, regs := q.regs ++ [none] }).post
          .cqArmFire (arg1 n)).retire 4 sc.toNat)

/-- The specifier of the launch unit (R122). -/
def launchSpec : Nat := 0xC000

/-- CQ_ARM_FIRE (R315): queue `arg.a`'s arm takes the oldest record once it comes first: the record is written for the
arming core, a failed write being reported as an engine's, and the activation is queued there. -/
def execCqArmFire (s : State) : Host.Outcome State Fault Refusal :=
  let n := s.arg.a
  let q := s.cqueue n
  .next (match q.arm, q.recs, q.regs with
    | none, _, _ => s
    | some m, r :: rest, none :: regs =>
      if !s.queueRoom m.core then s.defer
      else
        let s := s.modComp n fun q => { q with arm := none, recs := rest, regs := regs }
        let s := match s.engineStore m.core m.addr r.bytes false with
          | (.error f, s) => s.engineFault m.core m.part launchSpec f
          | (.ok hs, s) => hs.foldl (fun (s : State) h => s.dropCluster (clusterOf m.core) h) s
        (s.usePlace m.core).joinAnon m.core ⟨.arm m.pc r.w0 m.addr, s.numOf m.core, none⟩
    | some _, _, _ => s.defer)

/-! ## Taking a record (R310, R311) -/

def Expansion.complete (x : Expansion) : Bool := x.read && decide (x.ended = x.count)

def State.expanding (s : State) : Nat := (s.launch.exps.filter fun x => !x.complete).length

/-- Whether queue `q`'s head can be taken. -/
def State.takeable (s : State) (q : Nat) : Bool :=
  let v := s.lqueue q
  v.en && decide ((s.part v.part.toNat).st ≠ 2) && decide ((s.part v.part.toNat).st ≠ 3) && decide (s.expanding < 64) &&
  match v.recs with
  | [] => false
  | r :: _ => s.headMet r || s.headFailed r

/-- The queue the unit takes from: the highest priority, and among equals the next after the one last taken at it. -/
def State.nextQueue (s : State) : Option Nat :=
  [3, 2, 1, 0].findSome? fun p =>
    let first := match find? s.launch.lastOf p with
      | some q => q + 1
      | none => 0
    ((List.range 16).map fun i => (first + i) % 16).find? fun q => decide ((s.lqueue q).prio.toNat = p) && s.takeable q

/-- A completed expansion takes its place in the order of completions, or is forgotten where it writes no record (R304, R307). -/
def State.expDone (id : Nat) (s : State) : State :=
  match s.launch.exps.find? fun x => x.id = id with
  | none => s
  | some x =>
    let s := if x.complete && (List.range 16).any fun q => !(s.lqueue q).recs.isEmpty then s.post .launchRecordTake Arg.zero else s
    if !x.complete || decide (x.place ≠ 0) then s
    else if !x.lrec.cqen then s.modLaunch fun l => { l with exps := l.exps.filter fun y => y.id ≠ id }
    else
      (s.modLaunch fun l => { l with
        ended := l.ended + 1, exps := l.exps.map fun y => if y.id = id then { y with place := l.ended + 1 } else y }).post
          .completionRecordWrite (arg1 id)

/-- LAUNCH_RECORD_TAKE (R310): the unit takes at most one record a cycle. A record whose event failed is not expanded and
completes DEPENDENCY (R311). With `arg.a` = 1 the event updates of slot `arg.b` come to the unit, and its contributions leave for the switch
(R324), as far as what precedes them is performed; a head that one of them satisfies may be taken from the next cycle (R323). -/
def execLaunchRecordTake (s : State) : Host.Outcome State Fault Refusal :=
  let held := fun (s : State) => (List.range 16).any fun q => !(s.lqueue q).recs.isEmpty
  .next (if s.arg.a = 1 then
      let t := s.performSigs s.arg.b
      if (t.slot s.arg.b).fences.any fun f => f.sig.isSome then t.defer else t
    else if s.cycle + 1 = s.launch.took then s.defer
    else match s.nextQueue with
      | none => s
      | some q =>
        match (s.lqueue q).recs with
        | [] => s
        | r :: rest =>
          let id := s.chipNo * 2 ^ 40 + s.launch.nextId
          let bad := s.headFailed r
          let x : Expansion :=
            { id := id, lrec := r, i := 0, t := 0, rflags := 0, count := 0, ended := 0,
              failed := if bad then some (0, BitVec.ofNat 16 rDEPENDENCY) else none, read := bad, part := none, place := 0 }
          let s := s.modQueue q fun v => { v with recs := rest }
          let s := s.modLaunch fun l => { l with
            exps := l.exps ++ [x], nextId := l.nextId + 1, took := s.cycle + 1, lastOf := put (s.lqueue q).prio.toNat q l.lastOf }
          let s := if bad then s.expDone id else s.post .launchExpansionSend Arg.zero
          if held s then s.post .launchRecordTake Arg.zero else s)

/-! ## Expansion (R303, R309) -/

def State.modExp (id : Nat) (f : Expansion → Expansion) (s : State) : State :=
  s.modLaunch fun l => { l with exps := l.exps.map fun x => if x.id = id then f x else x }

/-- A failed place: the earliest gives the status. -/
def Expansion.fail (place reason : Nat) (x : Expansion) : Expansion :=
  let first := match x.failed with
    | none => true
    | some (p, _) => decide (place < p)
  { x with rflags := x.rflags ||| 1, ended := x.ended + 1,
           failed := if first then some (place, BitVec.ofNat 16 reason) else x.failed }

/-- A flag set, and no part is read any more. -/
def Expansion.stop (flag : Byte) (x : Expansion) : Expansion := { x with rflags := x.rflags ||| flag, read := true, part := none }

/-- The next part, after the `i`-th. -/
def Expansion.nextPart (keep : Bool) (x : Expansion) : Expansion :=
  let part := if keep then x.part else none
  { x with i := x.i + 1, t := 0, part := part, read := decide (x.lrec.nrec ≤ x.i + 1) }

/-- `n` doublewords from `a` on, each read on its own as a read of the unit for the pushing core. -/
def State.unitWords (core : Nat) : Nat → Word → State → Except Fail (List Word) × State
  | 0, _, s => (.ok [], s)
  | n + 1, a, s =>
    match s.engineRead core a 8 with
    | (.error f, s) => (.error f, s)
    | (.ok (l, bad), s) =>
      if bad then (.error ⟨3, cPOISON, a, none⟩, s)
      else match State.unitWords core n (a + 8) s with
        | (.error f, s) => (.error f, s)
        | (.ok r, s) => (.ok (w64 (ofBytes l) :: r), s)

/-- The doublewords of the part in hand. -/
def State.partWords (x : Expansion) (s : State) : Except Fail (List Word) × State :=
  let r := x.lrec
  match x.part with
  | some ws => (.ok ws, s)
  | none =>
    match r.mode.toNat with
    | 0 => s.unitWords r.core 1 (r.src + w64 (8 * x.i))
    | 1 => s.unitWords r.core 4 r.map
    | _ => match s.unitWords r.core 2 (r.src + w64 (16 * x.i)) with
      | (.error f, s) => (.error f, s)
      | (.ok ws, s) =>
        if wbits (ws.getD 0 0) 16 16 = 0 ∨ wbits (ws.getD 0 0) 32 8 ≠ 32 then (.ok ws, s)
        else match s.unitWords r.core 1 (r.map + w64 (8 * wbits (ws.getD 1 0) 16 16)) with
          | (.error f, s) => (.error f, s)
          | (.ok hs, s) => (.ok (ws ++ hs), s)

/-- The clusters of a 32-byte mask in rising order (R309). -/
def maskClusters (ws : List Word) : List Nat := (List.range 256).filter fun n => (ws.getD (n / 64) 0).getLsbD (n % 64)

/-- One message of an expansion on behalf of its pushing core: refused at the sender, waiting for a credit or a pair (none),
or sent. -/
def State.sendExp (x : Expansion) (m : Msg) (num : Nat) (pairWaits : Bool) (s : State) : Option State :=
  let c := x.lrec.core
  let key := creditKey num
  let count := fun (f : Expansion → Expansion) (s : State) =>
    (s.modExp x.id fun y => f { y with count := y.count + 1 }).modLaunch fun l => { l with sent := s.cycle + 1 }
  if (s.credit c key).avail = 0 then
    if s.launch.lost.contains (c, key) then
      let s := s.modLaunch fun l => { l with lost := l.lost.filter (· != (c, key)) }
      some (count (Expansion.fail x.count rUNREACHABLE) (if pairWaits then s.record 0x92 (1 + numChip num * 2 ^ 16) m.target m.reply else s))
    else none
  else match s.nextSeq c m.target num with
    | none => if pairWaits then none else some (count (Expansion.fail x.count rTABLEFULL) (s.tableNotice c 2 m.target 0))
    | some (n, s) => match s.spend c key with
      | none => none
      | some s => some (count id (s.sendPacket (s.numOf c) num (.invoke { m with seq := n })))

/-- A message of an expansion to target `h`, routed by R43. -/
def State.sendTo (x : Expansion) (h : Word) (a0 a1 a2 a3 : Word) (s : State) : Option State :=
  let c := x.lrec.core
  match s.route c h with
  | .broken reason _ _ => some (s.modExp x.id fun y => Expansion.fail x.count reason { y with count := y.count + 1 })
  | .go num fwd => s.sendExp x
      { target := h, reply := 0, arg0 := a0, arg1 := a1, arg2 := a2, arg3 := a3, sender := s.numOf c, seq := 0,
        channel := x.lrec.channel, fwd := fwd, kinds := 0, cap := h.setWidth 14, payload := [], poisoned := false,
        hop := s.numOf c, expansion := some (x.id, x.count), fault := none } num false

/-- The core a message of the expansion in hand would wait for a credit to. -/
def State.wantsCredit (c num : Nat) (s : State) : State :=
  if (s.credit c (creditKey num)).avail = 0 then s.askBlock c (creditKey num) else s

/-- The step of expansion `x` with the doublewords of its part: a part skipped, a message sent, or (none) a wait. -/
def State.expandStep (x : Expansion) (ws : List Word) (s : State) : Option State :=
  let r := x.lrec
  let c := r.core
  match r.mode.toNat with
  | 0 => (s.sendTo x (ws.getD 0 0) (w64 x.i) r.arg1 r.arg2 r.arg3).map fun s => s.modExp x.id (Expansion.nextPart false)
  | 1 =>
    let l := maskClusters ws
    if l.isEmpty then some (s.modExp x.id (Expansion.stop 8))
    else
      let k := l.getD (x.i % l.length) 0
      let next := fun (s : State) => s.modExp x.id (Expansion.nextPart true)
      if s.partOf k ≠ r.part then
        some (next (s.modExp x.id fun y => Expansion.fail x.count rCAPABILITY { y with count := y.count + 1 }))
      else
        let num := coreNum s.chipNo (k * 8 + x.i / l.length % 8)
        let cap := (s.part r.part).key
        (s.sendExp x
          { target := mkHandle num 0 0 0 cap.toNat, reply := r.src, arg0 := w64 x.i, arg1 := r.arg1, arg2 := r.arg2, arg3 := r.arg3,
            sender := s.numOf c, seq := 0, channel := 0, fwd := false, kinds := 0, cap := cap, payload := [],
            poisoned := false, hop := s.numOf c, expansion := some (x.id, x.count), fault := none } num true).map next
  | _ =>
    let w0 := ws.getD 0 0
    let w1 := ws.getD 1 0
    let n := wbits w0 16 16
    if n = 0 then some (s.modExp x.id (Expansion.nextPart false))
    else if wbits w0 32 8 ≠ 32 then some (s.modExp x.id fun y => Expansion.nextPart false { y with rflags := y.rflags ||| 4 })
    else
      let off := wbits w0 48 16 + wbits w1 0 16 * 2 ^ 16
      (s.sendTo x (ws.getD 2 0) (w64 x.t) (w64 (Nat.min 32 (n - 32 * x.t))) (r.src + w64 (off + 64 * x.t)) (w64 (wbits w0 0 16))).map fun s =>
        s.modExp x.id fun y => if 32 * (y.t + 1) < n then { y with t := y.t + 1 } else Expansion.nextPart false y

/-- What a waiting message asks for: a credit for its cluster, or, where `spawn` would wait for a send pair, the table-full notice (R110). -/
def State.askFor (x : Expansion) (ws : List Word) (s : State) : State :=
  let c := x.lrec.core
  match x.lrec.mode.toNat with
  | 1 =>
    let l := maskClusters ws
    let num := coreNum s.chipNo (l.getD (x.i % Nat.max 1 l.length) 0 * 8 + x.i / Nat.max 1 l.length % 8)
    if (s.credit c (creditKey num)).avail = 0 then s.wantsCredit c num
    else s.tableNotice c 2 (mkHandle num 0 0 0 (s.part x.lrec.part).key.toNat) x.lrec.src
  | m => match s.route c (ws.getD (if m = 0 then 0 else 2) 0) with
    | .go num _ => s.wantsCredit c num
    | .broken _ _ _ => s

/-- LAUNCH_EXPANSION_SEND (R303, R309, R310): the unit serves the record taken earliest that is not read to its end; at most
one message a cycle. A failed read ends the expansion, with its fault message. -/
def execLaunchExpansionSend (s : State) : Host.Outcome State Fault Refusal :=
  let again := fun (id : Nat) (s : State) =>
    let s := s.expDone id
    if s.launch.exps.any (fun (y : Expansion) => !y.read) then s.post .launchExpansionSend Arg.zero else s
  .next (match s.launch.exps.find? fun x => !x.read with
    | none => s
    | some x =>
      if s.cycle + 1 = s.launch.sent then s.defer
      else match s.partWords x with
        | (.error f, s) => again x.id ((s.modExp x.id (Expansion.stop 2)).engineFault x.lrec.core x.lrec.part launchSpec f)
        | (.ok ws, s) =>
          let s := s.modExp x.id fun y => { y with part := some ws }
          match s.expandStep x ws with
          | some s => again x.id s
          | none => (s.askFor x ws).defer)

/-- An activation of the expansion has ended, or failed with a reason. -/
def Expansion.end1 (place : Nat) (reason : BitVec 16) (x : Expansion) : Expansion :=
  if reason = 0 then { x with ended := x.ended + 1 } else x.fail place reason.toNat

/-- ACTIVATION_END_NOTICE (R304): an expanded activation has ended, or failed with a reason; an expansion that is saved hears of it as it is
loaded. -/
def execActivationEndNotice (s : State) : Host.Outcome State Fault Refusal :=
  .next (match s.takePacket s.arg.a with
    | none => s
    | some (p, s) => match p.body with
      | .endNotice (id, place) reason =>
        let one := fun (e : Nat × Saved) => (e.1, { e.2 with ended := e.2.ended ++ [(id, place, reason)] })
        ({ s with saved := s.saved.map one }.modExp id (Expansion.end1 place reason)).expDone id
      | _ => s)

/-- The completion record of an expansion (R304). -/
def State.crecOf (s : State) (x : Expansion) : CRec :=
  let status := match x.failed with
    | some (_, r) => r.toNat
    | none => 0
  ⟨w64 (status + 2 ^ 16 + x.rflags.toNat * 2 ^ 24 + x.count % 2 ^ 32 * 2 ^ 32), w64 (x.lrec.queue * 2 ^ 56 + x.lrec.seq % 2 ^ 56),
    s.time, x.lrec.tag⟩

/-- An expansion's record enters its queue (R304, R307), after those that completed before it and once there is room; none before that. It is
dropped where the queue has meanwhile left the record's partition (DEDUCED, log entry 24). -/
def State.completeExp (id : Nat) (s : State) : Option State :=
  match s.launch.exps.find? fun x => x.id = id with
    | none => some s
    | some x =>
      let n := x.lrec.cq.toNat
      let q := s.cqueue n
      let gone := fun (s : State) => s.modLaunch fun l => { l with exps := l.exps.filter fun y => y.id ≠ x.id }
      if !q.ofPart x.lrec.part then some (gone s)
      else if s.launch.exps.any (fun (y : Expansion) => decide (y.place ≠ 0) && decide (y.place < x.place) && decide (y.lrec.cq = x.lrec.cq)) then none
      else if 64 ≤ q.recs.length then none
      else some ((gone s).modComp n fun q => { q with recs := q.recs ++ [s.crecOf x] })

/-- COMPLETION_RECORD_WRITE (R304, R307) of expansion `arg.a`. -/
def execCompletionRecordWrite (s : State) : Host.Outcome State Fault Refusal :=
  .next ((s.completeExp s.arg.a).getD s.defer)

/-- The records of a partition's expansions that have completed enter their queues, where there is room: they go before a save (R323). -/
def State.completeAll (p : Nat) (s : State) : State :=
  (((s.launch.exps.filter fun x => decide (x.lrec.part = p) && decide (x.place ≠ 0)).map fun x => (x.place, x.id)).foldl
    (fun (m : SMap Nat) e => put e.1 e.2 m) []).foldl (fun (s : State) e => (s.completeExp e.2).getD s) s

/-! ## The configuration block (R306, R307) -/

/-- LAUNCH_QUEUE_CONFIG_WRITE (R306): launch queue `arg.a`'s register takes `arg.v`; clearing EN or changing PART empties the queue. -/
def execLaunchQueueConfigWrite (s : State) : Host.Outcome State Fault Refusal :=
  let v := s.arg.v
  let part : BitVec 8 := v.setWidth 8
  .next ((s.modQueue s.arg.a fun q =>
    { q with part := part, prio := BitVec.ofNat 2 (wbits v 8 2), en := v.getLsbD 10,
             recs := if v.getLsbD 10 ∧ part = q.part then q.recs else [] }).post .launchRecordTake Arg.zero)

end Sys2Proof.Machine
end

