-- ==== Sys2Proof/Machine/Matrix.lean ====
section
/-! DEFINITION. The matrix unit (R256 to R279): its instructions, grants and the governor, steps and their check, banks, and the top-k epilogue. -/

namespace Sys2Proof.Machine

/-! ## Rings (R256, R271) -/

/-- Whether two bank ranges meet. -/
def rangesMeet (a n b m : Nat) : Bool := decide (a < b + m) && decide (b < a + n)

/-- `mring` and `mring.scale` (R271); a definition parks its slot until the image is read. -/
def State.mring (i : Sys2Proof.Instr) (n : BitVec 4) (ra : Reg) (scale : Bool) (group : BitVec 2) (sc : Nat) (s : State) : State :=
  let c := s.myCore
  let cl := clusterOf c
  let ea := s.x ra
  let r := s.ring cl n.toNat
  let mine := decide (r.owner = c % 8) && r.idle
  if isSup c then s.illegal i
  else if ea = 0 then
    if !r.defined then s.retire 4 sc
    else if !mine then s.trap cRING (n.setWidth 64)
    else (s.modRing cl n.toNat fun r => { r with defined := false }).retire 4 sc
  else if ea.toNat % 64 ≠ 0 then s.trap cMISALIGN ea
  else match s.imageWords 8 ea with
    | (.error b, s) => s.bad b
    | (.ok ws, s) =>
      let w := ws.getD 0 0
      let first := wbits w 0 5
      let nb := wbits w 5 6
      let fmt := wbits w 11 4
      let cm := wbits w 15 8
      if wbits w 23 41 ≠ 0 ∨ ((ws.drop 1).any fun x => x != 0) = true ∨ nb = 0 ∨ 32 < first + nb ∨ cm = 0 ∨
          ¬ (fmt = 1 ∨ fmt = 3 ∨ fmt = 4 ∨ fmt = 6 ∨ fmt = 7) ∨ (scale = true ∧ fmt ≠ 1) then s.trap cPROTECTION ea
      else if r.defined && !mine then s.trap cRING (n.setWidth 64)
      else
        let banks := (List.range nb).map fun j => look Bank.reset (s.cluster cl).banks (first + j)
        let others := (s.cluster cl).rings.any fun e => decide (e.1 ≠ n.toNat) && e.2.defined && rangesMeet first nb e.2.first e.2.nbanks
        if !(banks.all fun b => decide (b.role = 2) && decide (b.fmt.toNat = fmt)) || others then s.trap cRING (n.setWidth 64)
        else
          (s.modRing cl n.toNat fun _ =>
            { Ring.undefined with
              defined := true, scale := scale, group := group, owner := c % 8, first := first, nbanks := nb,
              fmt := BitVec.ofNat 4 fmt, cmask := BitVec.ofNat 8 cm }).giveX 0 0 sc

/-- `mring` (R271). -/
def execMring (n : BitVec 4) (ra : Reg) (sc : BitVec 3) (s : State) : Host.Outcome State Fault Refusal :=
  .next (s.mring (.mring n ra sc) n ra false 0 sc.toNat)

/-- `mring.scale` (R271): GROUP is x[rb][1:0]. -/
def execMringScale (n : BitVec 4) (ra rb : Reg) (sc : BitVec 3) (s : State) : Host.Outcome State Fault Refusal :=
  .next (s.mring (.mringScale n ra rb sc) n ra true ((s.x rb).setWidth 2) sc.toNat)

/-! ## The queue (R261) -/

/-- A core's matrix command enters its queue, and the unit looks at it. -/
def State.matQueue (c : Nat) (m : MatCmd) (s : State) : State :=
  let s := s.modCore c fun k => { k with mq := k.mq ++ [m] }
  match m with
  | .mma _ _ _ _ _ _ _ _ => s.post .matrixGrant (arg1 (clusterOf c))
  | .mmaq _ _ _ _ _ _ _ _ _ _ => s.post .matrixGrant (arg1 (clusterOf c))
  | _ => s.post .matrixQueueCommandPerform (arg1 c)

/-- An instruction that enters the queue, or waits for a place in it. -/
def State.matAccept (m : MatCmd) (fin : State → State) (s : State) : State :=
  if 2 ≤ (s.core s.myCore).mq.length then s.waitFor .matQueue else fin (s.matQueue s.myCore m)

/-- Whether a ring can serve core `c` as an operand of a format (R272). -/
def Ring.serves (r : Ring) (c fmt : Nat) : Bool := r.defined && !r.scale && r.cmask.getLsbD c && decide (r.fmt.toNat = fmt)

/-- Claims the next stage of a ring for core `c` (R260). -/
def Ring.claim1 (c : Nat) (r : Ring) : Ring := { r with claim := put c (r.claimOf c + 1) r.claim }
def Ring.pop1 (c : Nat) (r : Ring) : Ring := { r with pop := put c (r.popOf c + 1) r.pop }

/-- One step's claim on a scale ring: the stage advances after 2^GROUP steps (R273). -/
def Ring.claimScale (c : Nat) (r : Ring) : Ring :=
  let n := look 0 r.qcnt c + 1
  if n = 2 ^ r.group.toNat then Ring.claim1 c { r with qcnt := put c 0 r.qcnt } else { r with qcnt := put c n r.qcnt }
def Ring.popScale (c : Nat) (r : Ring) : Ring :=
  let n := look 0 r.qret c + 1
  if n = 2 ^ r.group.toNat then Ring.pop1 c { r with qret := put c 0 r.qret } else { r with qret := put c n r.qret }

/-- `mma` (R272). -/
def execMma (ra rb : BitVec 4) (m : BitVec 2) (sc : BitVec 3) (s : State) : Host.Outcome State Fault Refusal :=
  let c := s.myCore
  let cl := clusterOf c
  let fmt := if m = 0 then 1 else if m = 1 then 3 else 4
  let a := s.ring cl ra.toNat
  let b := s.ring cl rb.toNat
  let k := c % 8
  .next (if isSup c then s.illegal (.mma ra rb m sc)
    else if !a.serves k fmt then s.trap cRING (ra.setWidth 64)
    else if !b.serves k fmt then s.trap cRING (rb.setWidth 64)
    else if ra = rb then s.trap cRING (ra.setWidth 64)
    else if !a.producedAt s.cycle (a.claimOf k) then s.waitFor (.tile ra.toNat (a.claimOf k))
    else if !b.producedAt s.cycle (b.claimOf k) then s.waitFor (.tile rb.toNat (b.claimOf k))
    else s.matAccept (.mma ra.toNat rb.toNat (a.claimOf k) (b.claimOf k) s.me.rowmask s.cur s.me.actNo s.me.pc) fun s =>
      ((s.modRing cl ra.toNat (Ring.claim1 k)).modRing cl rb.toNat (Ring.claim1 k)).accepted 4 sc.toNat)

/-- `mmaq` (R273). -/
def execMmaq (c' ra rb : BitVec 4) (m : BitVec 2) (sc : BitVec 3) (s : State) : Host.Outcome State Fault Refusal :=
  let c := s.myCore
  let cl := clusterOf c
  let a := s.ring cl ra.toNat
  let b := s.ring cl rb.toNat
  let q := s.ring cl c'.toNat
  let k := c % 8
  .next (if isSup c then s.illegal (.mmaq c' ra rb m sc)
    else if !a.serves k 1 then s.trap cRING (ra.setWidth 64)
    else if !b.serves k (if m = 0 then 6 else 7) then s.trap cRING (rb.setWidth 64)
    else if !(q.defined && q.scale && q.cmask.getLsbD k) then s.trap cRING (c'.setWidth 64)
    else if ra = rb then s.trap cRING (ra.setWidth 64)
    else if c' = ra ∨ c' = rb then s.trap cRING (c'.setWidth 64)
    else if !a.producedAt s.cycle (a.claimOf k) then s.waitFor (.tile ra.toNat (a.claimOf k))
    else if !b.producedAt s.cycle (b.claimOf k) then s.waitFor (.tile rb.toNat (b.claimOf k))
    else if !q.producedAt s.cycle (q.claimOf k) then s.waitFor (.tile c'.toNat (q.claimOf k))
    else s.matAccept (.mmaq ra.toNat rb.toNat c'.toNat (a.claimOf k) (b.claimOf k) (q.claimOf k) s.me.rowmask s.cur s.me.actNo s.me.pc) fun s =>
      (((s.modRing cl ra.toNat (Ring.claim1 k)).modRing cl rb.toNat (Ring.claim1 k)).modRing cl c'.toNat (Ring.claimScale k)).accepted 4 sc.toNat)

/-- `mzero` (R274). -/
def execMzero (sc : BitVec 3) (s : State) : Host.Outcome State Fault Refusal :=
  .next (if isSup s.myCore then s.illegal (.mzero sc) else s.matAccept .mzero fun s => s.retire 4 sc.toNat)

/-- `mswap` (R274): parks until its exchange. -/
def execMswap (sc : BitVec 3) (s : State) : Host.Outcome State Fault Refusal :=
  .next (if isSup s.myCore then s.illegal (.mswap sc)
    else s.matAccept (.mswap s.cur s.me.actNo s.me.rowmask s.me.temp) fun s => s.parkMe (.swap sc.toNat) sc.toNat)

/-- `mepi` (R275). -/
def execMepi (ra : Reg) (sc : BitVec 3) (s : State) : Host.Outcome State Fault Refusal :=
  let v := s.x ra
  .next (if isSup s.myCore then s.illegal (.mepi ra sc)
    else if 9 ≤ wbits v 0 4 then s.trap cPROTECTION v
    else s.matAccept (.mepi v) fun s => s.retire 4 sc.toNat)

/-- `mseed` (R275). -/
def execMseed (ra : Reg) (sc : BitVec 3) (s : State) : Host.Outcome State Fault Refusal :=
  .next (if isSup s.myCore then s.illegal (.mseed ra sc) else s.matAccept (.mseed (s.x ra)) fun s => s.retire 4 sc.toNat)

/-- Whether a core has a step in the array. -/
def State.inArray (s : State) (c : Nat) : Bool := match (s.cluster (clusterOf c)).array with
  | some st => decide (st.core = c)
  | none => false

/-- The matrix commands a core has accepted and that are not done, epilogues apart. -/
def State.matAhead (s : State) (c : Nat) : Nat := (s.core c).mq.length + if s.inArray c then 1 else 0

/-- What `mtopk` reads for a row and a rank (R276). -/
def Epi.topk (e : Epi) (v : Word) : Word := match (look [] e.lists (wbits v 0 6))[wbits v 8 3]? with
  | some (score, col) => w64 (score.toNat + col.toNat * 2 ^ 32 + 2 ^ 48)
  | none => 0

/-- `mtopk` (R276): parks until every command the core accepted before it is done, with their epilogues. -/
def execMtopk (rd ra : Reg) (sc : BitVec 3) (s : State) : Host.Outcome State Fault Refusal :=
  let v := s.x ra
  let c := s.myCore
  let e := (s.core c).epi
  .next (if isSup c then s.illegal (.mtopk rd ra sc)
    else if s.matAhead c ≠ 0 ∨ e.running.isSome then s.parkMe (.topk v (s.matAhead c) rd.toNat sc.toNat) sc.toNat
    else if e.poison then s.trap cPOISON v
    else s.giveX rd (e.topk v) sc.toNat)

/-- Slot `k` waits in `mtopk`, and every earlier command is done: it has what stands in the epilogue state at this moment, or traps. A trap of
a frozen slot and its freeze both take effect (R125). -/
def State.topkDone (k : Nat) (s : State) : State :=
  match (s.slot k).park with
  | .topk v 0 rd sc =>
    let e := (s.core (coreOf k)).epi
    if e.running.isSome then s
    else if e.poison then s.trapAt k cPOISON v (s.slot k).pc none
    else (s.modSlot k fun sl => { sl with park := .give rd (e.topk v) sc }).post .slotWake (arg1 k)
  | _ => s

/-- Looks at the slots of core `c` that wait in `mtopk`, after a command of theirs is done where `done`. -/
def State.topkStep (c : Nat) (done : Bool) (s : State) : State :=
  (List.range 8).foldl (fun (s : State) i =>
    let k := c * 8 + i
    match (s.slot k).park with
    | .topk v n rd sc =>
      (s.modSlot k fun sl => { sl with park := .topk v (if done then n - 1 else n) rd sc }).topkDone k
    | _ => s) s

/-- What `mstat` reports of a core (R276). -/
def State.matWord (s : State) (c : Nat) : Word :=
  let k := s.core c
  let b := fun (x : Bool) => if x then 1 else 0
  w64 (k.mq.length + b (s.inArray c) * 4 + b k.wpoison * 8 + b k.vpoison * 16 + b k.epi.running.isSome * 32 +
    k.epi.k.toNat * 64 + b k.epi.noise * 1024 + k.epi.colnext.toNat * 2 ^ 16 + k.epi.limit.toNat * 2 ^ 32)

/-- What `mstat` reports of a ring (R276). -/
def Ring.word (r : Ring) : Word :=
  if !r.defined then 0
  else w64 (1 + (if r.scale then 2 else 0) + r.owner * 4 + r.cmask.toNat * 32 +
    ((r.stages : Int) - ctrDiff r.resv r.tail).toNat * 2 ^ 13 + r.head.toNat % 65536 * 2 ^ 32 + r.tail.toNat % 65536 * 2 ^ 48)

/-- `mstat` (R276): L = 2, without waiting. -/
def execMstat (rd ra : Reg) (sc : BitVec 3) (s : State) : Host.Outcome State Fault Refusal :=
  let v := s.x ra
  let c := s.myCore
  .next (if isSup c then s.illegal (.mstat rd ra sc)
    else (s.resultX rd (if v.getLsbD 4 then (s.ring (clusterOf c) (wbits v 0 4)).word else s.matWord c) 2).retire 4 sc.toNat)

/-! ## Grants and the governor (R264, R265) -/

/-- The step at the head of a core's queue that waits for a grant, with the cycles it occupies the array. -/
def State.readyHead (s : State) (c : Nat) : Option (MatCmd × Nat) :=
  match (s.core c).mq with
  | .mma a b sa sb m k n pc :: _ =>
    let f := (s.ring (clusterOf c) a).fmt
    some (.mma a b sa sb m k n pc, if f = 1 then 16 else 8)
  | .mmaq a b q sa sb ss m k n pc :: _ => some (.mmaq a b q sa sb ss m k n pc, 16)
  | _ => none

/-- Arbitration weight of a core (R264). -/
def Cluster.weight (k : Cluster) (c : Nat) : Nat := Nat.max 1 (look 1 k.weights c).toNat

/-- The core a unit would grant, with the pointer and the credit it then has. -/
def State.grantee (s : State) (cl : Nat) : Option (Nat × Nat × Nat) :=
  let k := s.cluster cl
  if (s.readyHead (cl * 8 + k.ptr)).isSome && decide (0 < k.credit) then some (k.ptr, k.ptr, k.credit)
  else match ((List.range 8).map fun i => (k.ptr + 1 + i) % 8).find? fun c => (s.readyHead (cl * 8 + c)).isSome with
    | none => none
    | some c => some (c, c, k.weight c)

/-- Whether a unit requests a grant: its array is free and some core has a ready head. -/
def State.requests (s : State) (cl : Nat) : Bool := (s.cluster cl).array.isNone && (s.grantee cl).isSome

/-- The units of a sector that request a grant, in ascending order from the one after the unit last allowed on, with wrap. -/
def State.requesters (s : State) (sec : Nat) : List Nat :=
  let l := (sectorClusters sec).filter s.requests
  let last := (s.cluster (cornerOf sec)).govLast
  l.filter (fun k => decide (last < k)) ++ l.filter fun k => decide (k ≤ last)

/-- At the first request of a cycle in a sector the governor divides what its window has left among the units that request in that cycle (R265). -/
def State.divideWindow (sec : Nat) (s : State) : State :=
  let k := s.cluster (cornerOf sec)
  if k.govAt = s.cycle + 1 then s
  else
    let l := (s.requesters sec).take (k.budget.toNat - k.granted)
    s.modCluster (cornerOf sec) fun k => { k with govAt := s.cycle + 1, govSet := l, govLast := l.getLast?.getD k.govLast }

/-- Whether the governor allows a unit a grant now: no budget limits it, it is among those allowed, or the window has more left than these take. -/
def State.governs (s : State) (cl : Nat) : Bool :=
  let k := s.cluster (cornerOf (sectorOf cl))
  decide (k.budget = 0) || k.govSet.contains cl || decide (k.granted + k.govSet.length < k.budget.toNat)

/-- A unit's grant counts in its window, and it is the last allowed where it came late. -/
def Cluster.allow (cl : Nat) (k : Cluster) : Cluster :=
  { k with granted := k.granted + 1, govSet := k.govSet.filter (· ≠ cl), govLast := if k.govSet.contains cl then k.govLast else cl }

/-- Adds cycles to GOVSTALL (R265). -/
def Core.govAdd (n : Nat) (k : Core) : Core :=
  { k with govstall := BitVec.ofNat 32 (Nat.min 0xFFFFFFFF (k.govstall.toNat + n)) }

/-- MATRIX_GRANT (R264): the unit of cluster `arg.a`, its array free, grants the core whose turn it is, unless the governor
refuses; a core whose turn it no longer is counts no more refusals (R265). -/
def execMatrixGrant (s : State) : Host.Outcome State Fault Refusal :=
  let cl := s.arg.a
  .next (if (s.cluster cl).array.isSome then s
    else match s.grantee cl with
      | none => s
      | some (i, ptr, credit) =>
        let c := cl * 8 + i
        let s := s.divideWindow (sectorOf cl)
        let s := (List.range 8).foldl (fun (s : State) j =>
          if j = i ∨ (s.core (cl * 8 + j)).govSince = 0 then s else s.modCore (cl * 8 + j) fun k => { k with govSince := 0 }) s
        if !s.governs cl then
          (s.modCore c fun k => { Core.govAdd (if k.govSince = 0 then 1 else s.cycle + 1 - k.govSince) k with govSince := s.cycle + 1 }).defer
        else match s.readyHead c with
          | none => s
          | some (m, n) =>
            let s := s.modCore c fun k =>
              { Core.govAdd (if k.govSince = 0 then 0 else s.cycle - k.govSince) k with govSince := 0, mq := k.mq.drop 1 }
            let s := s.modCluster cl fun x =>
              { x with array := some ⟨c, m, s.cycle + n⟩, steps := x.steps + 1, ptr := ptr, credit := credit - 1 }
            let s := s.modCluster (cornerOf (sectorOf cl)) (Cluster.allow cl)
            (s.post .matrixStepRetire (arg1 cl)).post .matrixQueueCommandPerform (arg1 c))

/-- GOVERNOR_WINDOW_END (R265): every sector's budget starts again. -/
def execGovernorWindowEnd (s : State) : Host.Outcome State Fault Refusal :=
  .next ((List.range 16).foldl (fun (s : State) i =>
    if (s.cluster (cornerOf i)).granted = 0 then s else s.modCluster (cornerOf i) fun k => { k with granted := 0 }) s)

/-! ## Steps (R210, R266, R272, R273) -/

/-- Whether the banks of a ring's stage have the operand-buffer role. -/
def State.operandRole (s : State) (cl : Nat) (r : Ring) (stage : BitVec 32) : Bool :=
  let o := r.base stage
  (List.range ((o + r.stageBytes - 1) / 32768 - o / 32768 + 1)).all fun i => (look Bank.reset (s.cluster cl).banks (o / 32768 + i)).role = 2

/-- The bytes of a ring's stage, and whether any line of it is poisoned. The unit does not read a bank of another role (R133): a step on a stage
there takes free values (DESIGN CHOICE, log entry 95). -/
def State.stageBytes (s : State) (cl : Nat) (r : Ring) (stage : BitVec 32) : List Byte × Bool :=
  let o := r.base stage
  if s.operandRole cl r stage then
    (Memory.getList s.mem (sramKey cl o) r.stageBytes,
     (List.range (r.stageBytes / 64)).any fun i => s.poisonAt (sramKey cl (o + 64 * i)))
  else ((List.range r.stageBytes).map fun i => Config.freeByte (s.fresh + o + i), false)

/-- The elements of a tile as BF16 (R210): BF16 as it stands, T8 and T6 decoded. -/
def tileBf16 (fmt : Nat) : List Byte → List Nat
  | [] => []
  | a :: l =>
    if fmt = 1 then
      match l with
      | b :: l => (a.toNat + 256 * b.toNat) :: tileBf16 fmt l
      | [] => []
    else (convert fmt 1 mRNE a.toNat).1 :: tileBf16 fmt l

/-- The 4-bit elements of a tile (R206). -/
def tileFour : List Byte → List Nat
  | [] => []
  | a :: l => a.toNat % 16 :: (a.toNat / 16) :: tileFour l

/-- A B tile's weights dequantised by the scale of their column (R207), with the flags. -/
def dequantTile (fp4 : Bool) (scales : Nat → Nat) : Nat → List Nat → List (Nat × FFlags)
  | _, [] => []
  | e, q :: l => dequant fp4 q (scales (e % 64)) :: dequantTile fp4 scales (e + 1) l

/-- One row of a step: 64 elements, each the dot product with the accumulator (R210). -/
def stepRow (acc : Nat → Nat) (arow : List Nat) (b : Array Nat) : Nat → List (Nat × FFlags)
  | 0 => []
  | j + 1 =>
    stepRow acc arow b j ++ [dotStep (acc j) (arow.zipIdx.map fun x => (x.1, b.getD (64 * x.2 + j) 0))]

/-- The working bank after a step, and the flags of every unmasked element. -/
def stepBank (w : SMap (BitVec 32)) (mask : Word) (a : List Nat) (b : Array Nat) : Nat → SMap (BitVec 32) × FFlags
  | 0 => (w, 0)
  | i + 1 =>
    let (w', fl) := stepBank w mask a b i
    if !mask.getLsbD i then (w', fl)
    else
      let row := stepRow (fun j => (look 0 w (64 * i + j)).toNat) ((a.drop (32 * i)).take 32) b 64
      (row.zipIdx.foldl (fun m x => put (64 * i + x.2) (BitVec.ofNat 32 x.1.1) m) w', row.foldl (fun f x => f ||| x.2) fl)

/-- What a step does with its core's bank: the new bank, its flags, and whether it read a poisoned stage; with no row it reads nothing (R272). -/
def State.stepResult (s : State) (c : Nat) (m : MatCmd) : SMap (BitVec 32) × FFlags × Bool :=
  let cl := clusterOf c
  let w := (s.core c).working
  match m with
  | .mma ra rb sa sb mask _ _ _ =>
    let a := s.ring cl ra
    let b := s.ring cl rb
    let (ab, pa) := s.stageBytes cl a sa
    let (bb, pb) := s.stageBytes cl b sb
    if mask = 0 then (w, 0, false)
    else
      let (w, fl) := stepBank w mask (tileBf16 a.fmt.toNat ab) (tileBf16 b.fmt.toNat bb).toArray 64
      (w, fl, pa || pb)
  | .mmaq ra rb rs sa sb ss mask _ _ _ =>
    let a := s.ring cl ra
    let b := s.ring cl rb
    let q := s.ring cl rs
    let (ab, pa) := s.stageBytes cl a sa
    let (bb, pb) := s.stageBytes cl b sb
    let (qb, pq) := s.stageBytes cl q ss
    if mask = 0 then (w, 0, false)
    else
      let sc := (tileBf16 1 qb).toArray
      let ws := dequantTile (decide (b.fmt = 7)) (fun j => sc.getD j 0) 0 (tileFour bb)
      let (w, fl) := stepBank w mask (tileBf16 1 ab) (ws.map (·.1)).toArray 64
      (w, ws.foldl (fun f x => f ||| x.2) fl, pa || pb || pq)
  | _ => (w, 0, false)

/-- The pops of a step at its retirement. -/
def State.stepPops (c : Nat) (m : MatCmd) (s : State) : State :=
  let cl := clusterOf c
  let k := c % 8
  match m with
  | .mma ra rb _ _ _ _ _ _ => (s.modRing cl ra (Ring.pop1 k)).modRing cl rb (Ring.pop1 k)
  | .mmaq ra rb rs _ _ _ _ _ _ _ => ((s.modRing cl ra (Ring.pop1 k)).modRing cl rb (Ring.pop1 k)).modRing cl rs (Ring.popScale k)
  | _ => s

/-- The slot, activation and PC that issued a step. -/
def MatCmd.issuer : MatCmd → Nat × Nat × BitVec 48
  | .mma _ _ _ _ _ k n pc => (k, n, pc)
  | .mmaq _ _ _ _ _ _ _ k n pc => (k, n, pc)
  | .mswap k n _ _ => (k, n, 0)
  | _ => (0, 0, 0)

/-- The step of the array of cluster `cl` retires: the bank, the flags and the pops, or, where both checks of the shadow column
failed, the poisoned bank, the record and the break of the issuing activation. The instruction retires now (R261). -/
def State.retireStep (cl : Nat) (st : Step) (failed : Bool) (s : State) : State :=
  let c := st.core
  let (w, fl, bad) := s.stepResult c st.cmd
  let s := if st.cmd.stages.all fun x => s.operandRole cl (s.ring cl x.1) x.2 then s else { s with fresh := s.fresh + 2 ^ 20 }
  let s := if !failed then
      s.modCore c fun k => { k with working := w, wpoison := k.wpoison || bad, mflags := k.mflags ||| fl }
    else
      let (k, n, pc) := st.cmd.issuer
      let t := (s.cluster cl).steps - 1
      let s := (s.modCore c fun k => { k with wpoison := true }).record 0xF
        (cl + (c % 8 + k % 8 * 8) * 2 ^ 8 + t % 64 * 2 ^ 16) (w64 t) (pc.setWidth 64)
      if (s.slot k).active && decide ((s.slot k).actNo = n) then s.breakActivation k rSILENT cSILENT else s
  let s := s.modSlot st.cmd.issuer.1 fun sl => { sl with retired := sl.retired + 1 }
  let s := ((s.stepPops c st.cmd).modCluster cl fun k => { k with array := none }).topkStep c true
  (s.post .matrixGrant (arg1 cl)).post .matrixQueueCommandPerform (arg1 c)

/-- MATRIX_STEP_RETIRE (R266): the step in the array of cluster `arg.a` is done after its cycles. `arg.b` counts the mismatches of
the shadow column: one replays the step, a second poisons the bank, writes the record and breaks the issuing activation. -/
def execMatrixStepRetire (s : State) : Host.Outcome State Fault Refusal :=
  let cl := s.arg.a
  .next (match (s.cluster cl).array with
    | none => s
    | some st =>
      let replay := match st.cmd with
        | .mma a _ _ _ _ _ _ _ => if (s.ring cl a).fmt = 1 then 16 else 8
        | _ => 16
      if s.cycle < st.due then s.defer
      else if s.arg.b = 1 then
        (s.modCluster cl fun k => { k with array := some { st with due := s.cycle + replay } }).post .matrixStepRetire (arg1 cl)
      else s.retireStep cl st (decide (s.arg.b ≠ 0)))

/-! ## The epilogue (R267 to R269, R274, R275) -/

/-- What `mseed` puts into generator `i`. -/
def seedOf (v : Word) (i : Nat) : Word :=
  let x := v + w64 (i * 0x9E3779B97F4A7C15)
  if x = 0 then 1 else x

/-- Generator `i`; one that nothing has set is as `mseed x0` leaves it (R267). -/
def Epi.gen (e : Epi) (i : Nat) : Word := match find? e.gens i with
  | some x => x
  | none => seedOf 0 i

/-- One step of a generator (R268). -/
def xorshift (x : Word) : Word :=
  let x := x ^^^ (x <<< 13)
  let x := x ^^^ (x >>> 7)
  x ^^^ (x <<< 17)

/-- ln of a / b in fixed point, as a signed number. -/
def lnRatio (a b : Nat) : Int :=
  let k : Int := (bitLen a : Int) - bitLen b
  let num := if 0 ≤ k then a * fixOne else a * 2 ^ (-k).toNat * fixOne
  let den := if 0 ≤ k then b * 2 ^ k.toNat else b
  let y := num / den
  if y < fixOne then (k - 1) * (ln2Fix : Int) + lnFix (2 * y) else k * (ln2Fix : Int) + lnFix y

/-- g(U) as BF16: −ln(−ln((U + 0.5) / 4096)), rounded once (R268). -/
def gumbel (u : Nat) : Nat :=
  let l := (lnRatio 8192 (2 * u + 1)).toNat
  let v := -(lnRatio l fixOne)
  (Fmt.bf16.round mRNE (decide (v < 0)) v.natAbs (-(fixBits : Int)) true).1

/-- (v, c) ranks above (v', c') (R268); scores are FP32, −0 equal to +0. -/
def ranksAbove (a b : BitVec 32 × BitVec 16) : Bool :=
  let x := Fmt.f32.decode a.1.toNat
  let y := Fmt.f32.decode b.1.toNat
  y.lt x || (!x.lt y && decide (a.2.toNat < b.2.toNat))

/-- A pair put into a row's list, the `k` highest kept. -/
def insertPair (k : Nat) (p : BitVec 32 × BitVec 16) (l : List (BitVec 32 × BitVec 16)) : List (BitVec 32 × BitVec 16) :=
  let above := l.takeWhile fun q => ranksAbove q p
  (above ++ p :: l.drop above.length).take k

/-- One element of the epilogue: row `i`, column `j` of the tile. -/
def epiElem (v : SMap (BitVec 32)) (temp : BitVec 16) (j i : Nat) (e : Epi) : Epi :=
  let c := e.colnext + BitVec.ofNat 16 j
  let raw := (look 0 v (64 * i + j)).toNat
  let (x, e) : Nat × Epi :=
    if e.noise then
      let g := xorshift (e.gen i)
      let n := FV.mul (Fmt.bf16.decode (gumbel (wbits g 52 12))) (Fmt.bf16.decode temp.toNat)
      ((Fmt.f32.fin mRNE (n.bind fun n => FV.add mRNE (Fmt.f32.decode raw) n)).1, { e with gens := put i g e.gens })
    else (raw, e)
  if (e.limit ≠ 0 ∧ e.limit.toNat ≤ c.toNat) ∨ (Fmt.f32.decode x).isNan = true then e
  else { e with lists := put i (insertPair e.k.toNat (BitVec.ofNat 32 x, c) (look [] e.lists i)) e.lists }

/-- The epilogue over a bank (R269). -/
def Epi.run (v : SMap (BitVec 32)) (mask : Word) (temp : BitVec 16) (e : Epi) : Epi :=
  let e := (List.range 64).foldl (fun e j =>
    ((List.range 64).filter fun i => mask.getLsbD i).foldl (fun e i => epiElem v temp j i e) e) e
  { e with colnext := e.colnext + 64, running := none }

/-- `mepi` performed (R275). -/
def Epi.load (v : Word) (e : Epi) : Epi :=
  let k : BitVec 4 := v.setWidth 4
  let lists := if v.getLsbD 5 then [] else e.lists.map fun x => (x.1, x.2.take k.toNat)
  { e with
    k := k, noise := v.getLsbD 4, lists := lists, poison := e.poison && !v.getLsbD 5,
    colnext := if v.getLsbD 6 then BitVec.ofNat 16 (wbits v 16 16) else e.colnext, limit := BitVec.ofNat 16 (wbits v 32 16) }

/-- Whether the head of a core's queue can be performed: it is no step, and `mepi`, `mseed` and `mswap` find no epilogue under way. -/
def State.headPerformable (s : State) (c : Nat) : Bool :=
  !s.inArray c && match (s.core c).mq with
    | [] => false
    | .mma _ _ _ _ _ _ _ _ :: _ => false
    | .mmaq _ _ _ _ _ _ _ _ _ _ :: _ => false
    | .mzero :: _ => true
    | _ => (s.core c).epi.running.isNone

/-- The head of a core's queue performed (R274, R275). -/
def State.performHead (c : Nat) (s : State) : State :=
  let k := s.core c
  let s := s.modCore c fun k => { k with mq := k.mq.drop 1 }
  State.topkStep c (!k.mq.isEmpty) (match k.mq with
  | .mzero :: _ => s.modCore c fun k => { k with working := [], wpoison := false }
  | .mepi v :: _ => s.modCore c fun k => { k with epi := k.epi.load v }
  | .mseed v :: _ => s.modCore c fun k => { k with epi := { k.epi with gens := (List.range 64).map fun i => (i, seedOf v i) } }
  | .mswap sl n mask temp :: _ =>
    let on := decide (k.epi.k ≠ 0)
    let s := s.modCore c fun k =>
      { k with
        working := k.visible, visible := k.working, wpoison := k.vpoison, vpoison := k.wpoison,
        epi := if on then { k.epi with running := some (mask, temp), due := s.cycle + 64, poison := k.epi.poison || k.wpoison }
               else { k.epi with colnext := k.epi.colnext + 64 } }
    let s := if on then s.post .epilogueComplete (arg1 c) else s
    let wakes := match (s.slot sl).park with
      | .swap _ => decide ((s.slot sl).actNo = n)
      | _ => false
    if wakes then s.completeAt sl 4 else s
  | _ => s)

/-- The epilogue of a core ends (R269). -/
def State.endEpilogue (c : Nat) (s : State) : State :=
  match (s.core c).epi.running with
  | none => s
  | some (mask, temp) => (s.modCore c fun k => { k with epi := k.epi.run k.visible mask temp }).topkStep c false

/-- MATRIX_QUEUE_COMMAND_PERFORM (R261): the head of core `arg.a`'s queue is performed once every earlier command is done; `mepi`,
`mseed` and `mswap` wait for an epilogue as well. -/
def execMatrixQueueCommandPerform (s : State) : Host.Outcome State Fault Refusal :=
  let c := s.arg.a
  .next (if s.headPerformable c then
      ((s.performHead c).post .matrixQueueCommandPerform (arg1 c)).post .matrixGrant (arg1 (clusterOf c))
    else if s.inArray c then s
    else match (s.core c).mq with
      | [] => s
      | .mma _ _ _ _ _ _ _ _ :: _ => s
      | .mmaq _ _ _ _ _ _ _ _ _ _ :: _ => s
      | _ => s.defer)

/-- EPILOGUE_COMPLETE (R269): the epilogue of core `arg.a` ends 64 cycles after the exchange. -/
def execEpilogueComplete (s : State) : Host.Outcome State Fault Refusal :=
  let c := s.arg.a
  .next (if (s.core c).epi.running.isNone then s
    else if s.cycle < (s.core c).epi.due then s.defer
    else (s.endEpilogue c).post .matrixQueueCommandPerform (arg1 c))

/-- One thing that the unit of a cluster still has to do, done at once: its step, an epilogue, or the head of a queue (R278). -/
def State.drainOne (cl : Nat) (s : State) : State :=
  let cores := (List.range 8).map fun i => cl * 8 + i
  match (s.cluster cl).array with
  | some st => s.retireStep cl st false
  | none =>
    match cores.find? fun c => (s.core c).epi.running.isSome with
    | some c => s.endEpilogue c
    | none => match cores.find? s.headPerformable with
      | some c => s.performHead c
      | none => match cores.find? fun c => (s.readyHead c).isSome with
        | none => s
        | some c => match s.readyHead c with
          | none => s
          | some (m, _) =>
            ((s.modCore c fun k => { k with mq := k.mq.drop 1 }).modCluster cl fun x => { x with steps := x.steps + 1 }).retireStep cl ⟨c, m, 0⟩ false

/-- Every accepted matrix command of a cluster runs to its end (R278): at most one step and three commands a core, with their epilogues. -/
def State.drainMatrix (cl : Nat) (s : State) : State := (List.range 64).foldl (fun s _ => s.drainOne cl) s

end Sys2Proof.Machine
end

