-- ==== Sys2Proof/Machine/Area.lean ====
section
/-! DEFINITION. The sections of a save area that hold the state of rings, auctions and the launch unit (R320): how that state is laid out in
doublewords, and read back. Of these R320 gives the size of a ring's record alone; the rest of the layout is the model's (DESIGN CHOICE, log
entry 49). -/

namespace Sys2Proof.Machine

/-! ## Doublewords of plain data -/

/-- A way to write a value as doublewords and to read it back from the front of a list. -/
structure Codec (α : Type) where
  put : α → List Word
  get : List Word → Option (α × List Word)

def Codec.nat : Codec Nat :=
  ⟨fun n => [w64 n], fun l => match l with
    | [] => none
    | w :: l => some (w.toNat, l)⟩

/-- A type whose values are those of another in another dress. -/
def Codec.as {α β : Type} (c : Codec α) (f : β → α) (g : α → β) : Codec β :=
  ⟨fun b => c.put (f b), fun l => (c.get l).map fun x => (g x.1, x.2)⟩

def Codec.bits (n : Nat) : Codec (BitVec n) := Codec.nat.as BitVec.toNat (BitVec.ofNat n)
def Codec.bool : Codec Bool := Codec.nat.as Bool.toNat (fun n => decide (n ≠ 0))

def Codec.pair {α β : Type} (c : Codec α) (d : Codec β) : Codec (α × β) :=
  ⟨fun x => c.put x.1 ++ d.put x.2, fun l => (c.get l).bind fun x => (d.get x.2).map fun y => ((x.1, y.1), y.2)⟩


/-- Reads `n` values one after another. -/
def Codec.times {α : Type} (c : Codec α) : Nat → List Word → Option (List α × List Word)
  | 0, l => some ([], l)
  | n + 1, l => (c.get l).bind fun x => (Codec.times c n x.2).map fun y => (x.1 :: y.1, y.2)

/-- A list, after its length. -/
def Codec.list {α : Type} (c : Codec α) : Codec (List α) :=
  ⟨fun l => w64 l.length :: l.flatMap c.put, fun l => match l with
    | [] => none
    | w :: l => Codec.times c w.toNat l⟩

def Codec.opt {α : Type} (c : Codec α) : Codec (Option α) := c.list.as Option.toList List.head?
def Codec.map {α : Type} (c : Codec α) : Codec (SMap α) := (Codec.nat.pair c).list

/-! ## Rings (section 2) -/

/-- A ring in eight doublewords: its image and owner, RESV and HEAD, the reserved stages from HEAD on that are written, POP of each consumer, and
QRET of each, one byte each. CLAIM is POP and QCNT is QRET once every accepted command has ended (R278). -/
def Ring.words (r : Ring) : List Word :=
  let b := fun (x : Bool) => if x then 1 else 0
  let at8 := fun (f : Nat → Nat) (w : Nat) => ((List.range 8).map fun i => f i * 2 ^ (w * i)).sum
  [w64 (b r.defined + b r.scale * 2 + r.group.toNat * 2 ^ 2 + r.owner % 2 ^ 16 * 2 ^ 4 + r.first % 2 ^ 8 * 2 ^ 20 + r.nbanks % 2 ^ 8 * 2 ^ 28 +
     r.fmt.toNat * 2 ^ 36 + r.cmask.toNat * 2 ^ 40),
   w64 (r.resv.toNat + r.head.toNat * 2 ^ 32),
   w64 (((List.range 64).map fun i => if r.done.contains (r.head + BitVec.ofNat 32 i).toNat then 2 ^ i else 0).sum)] ++
  ((List.range 4).map fun i => w64 ((r.popOf (2 * i)).toNat + (r.popOf (2 * i + 1)).toNat * 2 ^ 32)) ++
  [w64 (at8 (fun i => look 0 r.qret i % 256) 8)]

/-- The ring of its eight doublewords. -/
def Ring.ofWords (ws : List Word) : Ring :=
  let g := fun (i : Nat) => ws.getD i 0
  let head : BitVec 32 := BitVec.ofNat 32 (wbits (g 1) 32 32)
  let pops : SMap (BitVec 32) := ((List.range 8).map fun i => (i, BitVec.ofNat 32 (wbits (g (3 + i / 2)) (32 * (i % 2)) 32))).filter fun e => e.2 ≠ 0
  let rets : SMap Nat := ((List.range 8).map fun i => (i, wbits (g 7) (8 * i) 8)).filter fun e => e.2 ≠ 0
  { defined := (g 0).getLsbD 0, scale := (g 0).getLsbD 1, group := BitVec.ofNat 2 (wbits (g 0) 2 2), owner := wbits (g 0) 4 16,
    first := wbits (g 0) 20 8, nbanks := wbits (g 0) 28 8, fmt := BitVec.ofNat 4 (wbits (g 0) 36 4), cmask := BitVec.ofNat 8 (wbits (g 0) 40 8),
    resv := (g 1).setWidth 32, head := head, was := head, moved := 0,
    done := ((List.range 64).filter fun i => (g 2).getLsbD i).map fun i => (head + BitVec.ofNat 32 i).toNat,
    claim := pops, pop := pops, qcnt := rets, qret := rets }

/-- The sixteen rings of a cluster. -/
def ringWords (m : SMap Ring) : List Word := (List.range 16).flatMap fun i => (look Ring.undefined m i).words
def ringsOf (ws : List Word) : SMap Ring :=
  ((List.range 16).map fun i => (i, Ring.ofWords ((ws.drop (8 * i)).take 8))).filter fun e => e.2.defined

/-! ## Auctions (section 3) -/

def MerShadow.codec : Codec MerShadow :=
  (Codec.bool.pair (Codec.bool.pair ((Codec.bits 64).pair ((Codec.bits 10).pair ((Codec.bits 9).pair ((Codec.bits 24).pair ((Codec.bits 2).pair
    ((Codec.bits 64).pair ((Codec.bits 10).pair ((Codec.bits 27).pair ((Codec.bits 32).pair ((Codec.bits 32).pair Codec.bool)))))))))))).as
    (fun m => (m.loaded, m.smode, m.src, m.rows, m.cols, m.stride, m.capmode, m.capaddr, m.capall, m.cfg, m.eps, m.floor, m.configured))
    (fun (a, b, c, d, e, f, g, h, i, j, k, l, m) => ⟨a, b, c, d, e, f, g, h, i, j, k, l, m⟩)

def Auction.codec : Codec Auction :=
  (Codec.nat.pair (Codec.nat.pair (Codec.nat.pair (MerShadow.codec.pair ((Codec.bits 32).pair ((Codec.bits 32).map.pair (Codec.nat.map.pair
    ((Codec.nat.pair (Codec.bits 32)).list.map.pair ((Codec.bits 32).map.pair ((Codec.nat.pair (Codec.bits 32)).map.pair (Codec.nat.pair
    (Codec.bool.pair (Codec.bool.pair ((Codec.bits 2).pair (Codec.bool.pair Codec.bool))))))))))))))).as
    (fun a => (a.id, a.slot, a.part, a.sh, a.gen, a.bias, a.caps, a.cands, a.prices, a.held, a.rounds, a.stopped, a.ran, a.cause, a.poison, a.abandon))
    (fun (a, b, c, d, e, f, g, h, i, j, k, l, m, n, o, p) => ⟨a, b, c, d, e, f, g, h, i, j, k, l, m, n, o, p⟩)

/-- Auctions with their buffers, and, by sector, the bias vectors and the generations of a partition that is BIASPART (R299). -/
structure MerPart where
  aucts : List Auction
  bias  : SMap (SMap (BitVec 32))
  gens  : SMap (BitVec 32)
deriving DecidableEq, Repr

def MerPart.codec : Codec MerPart :=
  (Auction.codec.list.pair ((Codec.bits 32).map.map.pair (Codec.bits 32).map)).as (fun m => (m.aucts, m.bias, m.gens)) (fun (a, b, c) => ⟨a, b, c⟩)

/-! ## The launch unit (section 4) -/

def LRec.codec : Codec LRec :=
  ((Codec.bits 2).pair ((Codec.bits 4).pair (Codec.bool.pair ((Codec.bits 6).pair ((Codec.bits 64).pair ((Codec.bits 64).pair (Codec.nat.pair
    ((Codec.bits 64).pair ((Codec.bits 64).pair ((Codec.bits 64).pair ((Codec.bits 64).pair ((Codec.bits 64).list.pair (Codec.nat.pair (Codec.nat.pair
    (Codec.nat.pair Codec.nat))))))))))))))).as
    (fun r => (r.mode, r.cq, r.cqen, r.channel, r.tag, r.src, r.nrec, r.map, r.arg1, r.arg2, r.arg3, r.events, r.core, r.part, r.queue, r.seq))
    (fun (a, b, c, d, e, f, g, h, i, j, k, l, m, n, o, p) => ⟨a, b, c, d, e, f, g, h, i, j, k, l, m, n, o, p⟩)

def CRec.codec : Codec CRec :=
  ((Codec.bits 64).pair ((Codec.bits 64).pair ((Codec.bits 64).pair (Codec.bits 64)))).as (fun r => (r.w0, r.w1, r.w2, r.w3)) (fun (a, b, c, d) => ⟨a, b, c, d⟩)

def Arm.codec : Codec Arm :=
  (Codec.nat.pair (Codec.nat.pair ((Codec.bits 48).pair (Codec.bits 64)))).as (fun a => (a.core, a.part, a.pc, a.addr)) (fun (a, b, c, d) => ⟨a, b, c, d⟩)

def Expansion.codec : Codec Expansion :=
  (Codec.nat.pair (LRec.codec.pair (Codec.nat.pair (Codec.nat.pair ((Codec.bits 8).pair (Codec.nat.pair (Codec.nat.pair
    ((Codec.nat.pair (Codec.bits 16)).opt.pair (Codec.bool.pair ((Codec.bits 64).list.opt.pair Codec.nat)))))))))).as
    (fun x => (x.id, x.lrec, x.i, x.t, x.rflags, x.count, x.ended, x.failed, x.read, x.part, x.place))
    (fun (a, b, c, d, e, f, g, h, i, j, k) => ⟨a, b, c, d, e, f, g, h, i, j, k⟩)

/-- What a completion queue holds: its records, its arm, and who waits for a record. -/
abbrev CompState := List CRec × Option Arm × List (Option Nat)

/-- A partition's launch state: held records by queue, completion queues, records in expansion, and COUNT and FAILED of its events. -/
structure LaunchPart where
  queues : SMap (List LRec)
  comps  : SMap CompState
  exps   : List Expansion
  events : SMap (BitVec 32 × Bool)
deriving DecidableEq, Repr

def LaunchPart.codec : Codec LaunchPart :=
  (LRec.codec.list.map.pair ((CRec.codec.list.pair (Arm.codec.opt.pair Codec.nat.opt.list)).map.pair (Expansion.codec.list.pair
    ((Codec.bits 32).pair Codec.bool).map))).as (fun l => (l.queues, l.comps, l.exps, l.events)) (fun (a, b, c, d) => ⟨a, b, c, d⟩)

/-- A value read from the whole of a section. -/
def Codec.all {α : Type} (c : Codec α) (l : List Word) : Option α := (c.get l).map (·.1)

end Sys2Proof.Machine
end

