-- ==== Sys2Proof/Machine/Control.lean ====
section
/-! DEFINITION. Predicate instructions (R89), branches, jumps and loops (R90 to R97), and the ends and traps of major 0x15 (R28, R118, R119). -/

namespace Sys2Proof.Machine

/-- A predicate of all ones or all zeros. -/
def allLanes (b : Bool) : Byte := if b then 0xFF else 0

/-- A result of latency 1 in a predicate register, and the end of a 32-bit instruction. -/
def State.aluP (rd : PReg) (v : Byte) (sc : BitVec 3) (s : State) : State := (s.setP rd v).retire 4 sc.toNat

/-- `pset.eq` (R89). -/
def execPsetEq (p : PReg) (ra rb : Reg) (sc : BitVec 3) (s : State) : Host.Outcome State Fault Refusal :=
  .next (s.aluP p (allLanes (s.x ra = s.x rb)) sc)

/-- `pset.ne` (R89). -/
def execPsetNe (p : PReg) (ra rb : Reg) (sc : BitVec 3) (s : State) : Host.Outcome State Fault Refusal :=
  .next (s.aluP p (allLanes (s.x ra ≠ s.x rb)) sc)

/-- `pset.lt` (R89). -/
def execPsetLt (p : PReg) (ra rb : Reg) (sc : BitVec 3) (s : State) : Host.Outcome State Fault Refusal :=
  .next (s.aluP p (allLanes (sgn (s.x ra) < sgn (s.x rb))) sc)

/-- `pset.ge` (R89). -/
def execPsetGe (p : PReg) (ra rb : Reg) (sc : BitVec 3) (s : State) : Host.Outcome State Fault Refusal :=
  .next (s.aluP p (allLanes (sgn (s.x rb) ≤ sgn (s.x ra))) sc)

/-- `pset.ltn` (R89). -/
def execPsetLtn (p : PReg) (ra rb : Reg) (sc : BitVec 3) (s : State) : Host.Outcome State Fault Refusal :=
  .next (s.aluP p (allLanes ((s.x ra).toNat < (s.x rb).toNat)) sc)

/-- `pset.gen` (R89). -/
def execPsetGen (p : PReg) (ra rb : Reg) (sc : BitVec 3) (s : State) : Host.Outcome State Fault Refusal :=
  .next (s.aluP p (allLanes ((s.x rb).toNat ≤ (s.x ra).toNat)) sc)

/-- `pand` (R89). -/
def execPand (rd ra rb : PReg) (sc : BitVec 3) (s : State) : Host.Outcome State Fault Refusal :=
  .next (s.aluP rd (s.p ra &&& s.p rb) sc)

/-- `por` (R89). -/
def execPor (rd ra rb : PReg) (sc : BitVec 3) (s : State) : Host.Outcome State Fault Refusal :=
  .next (s.aluP rd (s.p ra ||| s.p rb) sc)

/-- `pnot` (R89). -/
def execPnot (rd ra : PReg) (sc : BitVec 3) (s : State) : Host.Outcome State Fault Refusal :=
  .next (s.aluP rd (~~~s.p ra) sc)

/-- `pmov pd, xa` (R89). -/
def execPmovToPredicate (rd : PReg) (ra : Reg) (sc : BitVec 3) (s : State) : Host.Outcome State Fault Refusal :=
  .next (s.aluP rd ((s.x ra).setWidth 8) sc)

/-- `pmov xd, pa` (R89). -/
def execPmovFromPredicate (rd : Reg) (ra : PReg) (sc : BitVec 3) (s : State) : Host.Outcome State Fault Refusal :=
  .next (s.alu rd ((s.p ra).setWidth 64) sc)

/-! ## Branches and jumps (R90 to R94) -/

/-- The target of a PC-relative transfer: PC + sext(off) × 2, modulo 2^48. -/
def State.target {n : Nat} (o : BitVec n) (s : State) : BitVec 48 := s.me.pc + (o.signExtend 48 <<< 1)

/-- A branch of `len` bytes: to its target when taken, else on. -/
def State.branch {n : Nat} (len : Nat) (taken : Bool) (o : BitVec n) (s : State) : State :=
  if taken then s.jump (s.target o) 0 else s.retire len 0

/-- `beq` (R90). -/
def execBeq (ra rb : Reg) (o : BitVec 12) (s : State) : Host.Outcome State Fault Refusal :=
  .next (s.branch 4 (s.x ra = s.x rb) o)

/-- `bne` (R90). -/
def execBne (ra rb : Reg) (o : BitVec 12) (s : State) : Host.Outcome State Fault Refusal :=
  .next (s.branch 4 (s.x ra ≠ s.x rb) o)

/-- `blt` (R90). -/
def execBlt (ra rb : Reg) (o : BitVec 12) (s : State) : Host.Outcome State Fault Refusal :=
  .next (s.branch 4 (sgn (s.x ra) < sgn (s.x rb)) o)

/-- `bge` (R90). -/
def execBge (ra rb : Reg) (o : BitVec 12) (s : State) : Host.Outcome State Fault Refusal :=
  .next (s.branch 4 (sgn (s.x rb) ≤ sgn (s.x ra)) o)

/-- `bltn` (R90). -/
def execBltn (ra rb : Reg) (o : BitVec 12) (s : State) : Host.Outcome State Fault Refusal :=
  .next (s.branch 4 ((s.x ra).toNat < (s.x rb).toNat) o)

/-- `bgen` (R90). -/
def execBgen (ra rb : Reg) (o : BitVec 12) (s : State) : Host.Outcome State Fault Refusal :=
  .next (s.branch 4 ((s.x rb).toNat ≤ (s.x ra).toNat) o)

/-- `bpt` (R91). -/
def execBpt (p : PReg) (o : BitVec 20) (s : State) : Host.Outcome State Fault Refusal :=
  .next (s.branch 4 (s.p p ≠ 0) o)

/-- `bpf` (R91). -/
def execBpf (p : PReg) (o : BitVec 20) (s : State) : Host.Outcome State Fault Refusal :=
  .next (s.branch 4 (s.p p = 0) o)

/-- `jal` (R92). -/
def execJal (rd : Reg) (o : BitVec 20) (s : State) : Host.Outcome State Fault Refusal :=
  .next ((s.setX rd ((s.me.pc + 4).setWidth 64)).jump (s.target o) 0)

/-- `jalr` (R93): the target is formed before the link is written; a misaligned or too high target traps. -/
def execJalr (rd ra : Reg) (imm : BitVec 12) (sc : BitVec 3) (s : State) : Host.Outcome State Fault Refusal :=
  let t := s.x ra + sx imm
  .next (
    if t.getLsbD 0 then s.trap cMISALIGN t
    else if wbits t 48 16 ≠ 0 then s.trap cPROTECTION t
    else (s.setX rd ((s.me.pc + 4).setWidth 64)).jump (t.setWidth 48) sc.toNat)

/-! ## Loops (R95) -/

/-- `loop` (R95): ILLEGAL while a loop is open; a count of 0 skips the body. -/
def execLoop (ra : Reg) (imm : BitVec 12) (sc : BitVec 3) (s : State) : Host.Outcome State Fault Refusal :=
  let next := s.me.pc + 4
  let lend := next + (imm.setWidth 48 <<< 1)
  .next (
    if s.me.lcount ≠ 0 then s.illegal (.loop ra imm sc)
    else
      let s' := s.modMe fun sl => { sl with lstart := next, lend := lend }
      if s.x ra = 0 then s'.modMe fun sl => ({ sl with pc := lend }).retired1 (s.cycle + 1 + sc.toNat)
      else s'.modMe fun sl => ({ sl with pc := next, lcount := s.x ra }).retired1 (s.cycle + 1 + sc.toNat))

/-! ## Major 0x15 (R118, R119) -/

/-- `done` (R28, R31). -/
def execDone (_sc : BitVec 3) (s : State) : Host.Outcome State Fault Refusal := .next s.doneOrWait

/-- `sys` (R118): retires, then traps SYS with its code. -/
def execSys (c : BitVec 10) (sc : BitVec 3) (s : State) : Host.Outcome State Fault Refusal :=
  .next (s.trapAfter cSYS (c.setWidth 64) sc.toNat)

/-- `tret` (R118, R119): a compute core traps PROTECTION with the word; so does a supervisor core outside a trap. -/
def execTret (sc : BitVec 3) (s : State) : Host.Outcome State Fault Refusal :=
  .next (if !isSup s.myCore || !s.me.intrap then s.trap cPROTECTION (wordOf (.tret sc)) else s.trapReturn)

/-- `brk` (R118): retires, then traps BREAK with its code. -/
def execBrk (c : BitVec 10) (sc : BitVec 3) (s : State) : Host.Outcome State Fault Refusal :=
  .next (s.trapAfter cBREAK (c.setWidth 64) sc.toNat)

end Sys2Proof.Machine
end

