-- ==== Sys2Proof/Machine/System.lean ====
section
/-! DEFINITION. Control registers and their instructions (R25, R120, R121), and the traps of decode and fetch (R61, R63). -/

namespace Sys2Proof.Machine

/-- ACTINFO (R24). -/
def Slot.actinfo (sl : Slot) : Word :=
  let a := sl.act
  let src := match a.source with
    | .message => 0
    | .whenRes => 1
    | .anonymous => 2
    | .engine => 3
  w64 (a.channel.toNat + a.cls.toNat * 2 ^ 6 + a.kinds.toNat * 2 ^ 10 + a.prio.toNat * 2 ^ 18 + src * 2 ^ 20 +
    (if sl.inl.isSome then 2 ^ 22 else 0) + a.paylen.toNat * 2 ^ 23)

/-- The value of control register `n` for the slot in hand; none where no map assigns the number, or the register does not
exist on the issuing kind of core (R120, R121). CYCLE is one count of the chip since its reset (R392), which a containment reset does not clear (DESIGN
CHOICE, log entry 96). -/
def State.ctlRead (n : Nat) (s : State) : Option Word :=
  let sl := s.me
  let c := s.core s.myCore
  let sup := isSup s.myCore
  match n with
  | 0x000 => some (w64 (s.cur % 8))
  | 0x001 => some (if sup then Config.supervisorId 1 (s.myCore - 2048) else w64 (s.myCore % 8))
  | 0x002 => some (if sup then Config.supervisorId 2 (s.myCore - 2048) else w64 (clusterOf s.myCore))
  | 0x003 => some (w64 s.chipNo)
  | 0x004 => some (w64 (s.partKey s.myCore).toNat)
  | 0x010 => some (c.flags.setWidth 64)
  | 0x011 => some (sl.rmode.setWidth 64)
  | 0x012 => some (c.mflags.setWidth 64)
  | 0x013 => some sl.rowmask
  | 0x014 => some (sl.temp.setWidth 64)
  | 0x015 => some (sl.lanep.setWidth 64)
  | 0x020 => some (sl.tcause.setWidth 64)
  | 0x021 => some sl.taddr
  | 0x022 => some (sl.tpc.setWidth 64)
  | 0x023 => some (if c.scheck then 1 else 0)
  | 0x024 => if sup then some (w64 (sl.vec.toNat + if sl.intrap then 2 ^ 48 else 0)) else none
  | 0x030 => some sl.xferid
  | 0x031 => some sl.actarg
  | 0x032 => some sl.replyh
  | 0x033 => some sl.actinfo
  | 0x040 => some (w64 s.cycle)
  | 0x041 => some s.time
  | 0x042 => some sl.retired
  | 0x050 => some (c.govstall.setWidth 64)
  | 0x051 => some (sl.merstat.setWidth 64)
  | 0x052 => some sl.nanseen
  | 0x053 => some (sl.merfault.setWidth 64)
  | 0x054 => some sl.grstat
  | 0x060 => some (c.agesint.setWidth 64)
  | 0x061 => some (s.chip.ratestep.setWidth 64)
  | _ => none

/-- Whether every field of register `n` is read-only to the kind of core that issues (R120, R121). -/
def ctlReadOnly (n : Nat) (sup : Bool) : Bool :=
  decide (n ≤ 0x004) || (decide (0x030 ≤ n) && decide (n ≤ 0x033)) || (decide (0x040 ≤ n) && decide (n ≤ 0x042)) ||
  decide (n = 0x051) || decide (n = 0x053) || decide (n = 0x054) ||
  (!sup && ((decide (0x020 ≤ n) && decide (n ≤ 0x022)) || decide (n = 0x060) || decide (n = 0x061)))

/-- Writes register `n` field by field (R4): reserved and read-only fields keep what they hold. -/
def State.ctlWrite (n : Nat) (v : Word) (s : State) : State :=
  match n with
  | 0x010 => s.modCore s.myCore fun c => { c with flags := v.setWidth 5 }
  | 0x011 => if wbits v 0 3 ≤ 4 then s.modMe fun sl => { sl with rmode := v.setWidth 3 } else s
  | 0x012 => s.modCore s.myCore fun c => { c with mflags := v.setWidth 5 &&& 0x1D }
  | 0x013 => s.modMe fun sl => { sl with rowmask := v }
  | 0x014 => s.modMe fun sl => { sl with temp := v.setWidth 16 }
  | 0x015 => s.modMe fun sl => { sl with lanep := v.setWidth 3 }
  | 0x020 => s.modMe fun sl => { sl with tcause := v.setWidth 8 }
  | 0x021 => s.modMe fun sl => { sl with taddr := v }
  | 0x022 => s.modMe fun sl => { sl with tpc := v.setWidth 48 }
  | 0x023 => s.modCore s.myCore fun c => { c with scheck := v.getLsbD 0 }
  | 0x024 => s.modMe fun sl => { sl with vec := v.setWidth 48 &&& ~~~1 }
  | 0x050 => s.modCore s.myCore fun c => { c with govstall := v.setWidth 32 }
  | 0x052 => s.modMe fun sl => { sl with nanseen := (sl.nanseen &&& ~~~1) ||| (v &&& 1) }
  | 0x060 => s.modCore s.myCore fun c => { c with agesint := v.setWidth 24 }
  | 0x061 => s.modChip fun c => { c with ratestep := v.setWidth 16 }
  | _ => s

/-- `ctlwr`, `ctlset` and `ctlclr` (R120): the checks, the write of `f old`, and the old value as the result. -/
def State.ctlModify (i : Sys2Proof.Instr) (rd : Reg) (r : BitVec 12) (f : Word → Word) (s : State) : State :=
  match s.ctlRead r.toNat with
  | none => s.illegal i
  | some old =>
    if ctlReadOnly r.toNat (isSup s.myCore) then s.trap cPROTECTION (r.setWidth 64)
    else ((s.ctlWrite r.toNat (f old)).setX rd old).retire 4 0

/-- `ctlrd` (R120). -/
def execCtlrd (rd : Reg) (r : BitVec 12) (s : State) : Host.Outcome State Fault Refusal :=
  .next (match s.ctlRead r.toNat with
    | none => s.illegal (.ctlrd rd r)
    | some v => (s.setX rd v).retire 4 0)

/-- `ctlwr` (R120). -/
def execCtlwr (rd ra : Reg) (r : BitVec 12) (s : State) : Host.Outcome State Fault Refusal :=
  .next (s.ctlModify (.ctlwr rd ra r) rd r fun _ => s.x ra)

/-- `ctlset` (R120). -/
def execCtlset (rd ra : Reg) (r : BitVec 12) (s : State) : Host.Outcome State Fault Refusal :=
  .next (s.ctlModify (.ctlset rd ra r) rd r fun old => old ||| s.x ra)

/-- `ctlclr` (R120). -/
def execCtlclr (rd ra : Reg) (r : BitVec 12) (s : State) : Host.Outcome State Fault Refusal :=
  .next (s.ctlModify (.ctlclr rd ra r) rd r fun old => old &&& ~~~s.x ra)

/-! ## Traps of decode and fetch -/

/-- ILLEGAL_INSTRUCTION (R63): the slot in hand traps ILLEGAL, with the halfword or word `arg.v` in TRAPADDR. -/
def execIllegalInstruction (s : State) : Host.Outcome State Fault Refusal := .next (s.trap cILLEGAL s.arg.v)

/-- INSTRUCTION_FETCH_FAULT (R61): the slot in hand traps with cause `arg.a`; TRAPADDR is the faulting halfword's address
`arg.v`, and `arg.b - 1` the table entry to watch, if any. -/
def execInstructionFetchFault (s : State) : Host.Outcome State Fault Refusal :=
  .next (s.trapEntry s.arg.a s.arg.v (if s.arg.b = 0 then none else some (s.arg.b - 1)))

end Sys2Proof.Machine
end

