-- ==== Sys2Proof/Machine/Vector.lean ====
section
/-! DEFINITION. Vector instructions and streams (R212 to R229), with the step that writes a parked fdiv or fsqrt. -/

namespace Sys2Proof.Machine

/-- The slot's rounding mode (R201). -/
def State.mode (s : State) : Nat := s.me.rmode.toNat

/-- Flags of several lanes together. -/
def orFlags (l : List FFlags) : FFlags := l.foldl (· ||| ·) 0

/-- Applies a lane operation where the mask selects; a lane left out gives 0 and no flag (R213). -/
def masked (on : List Bool) (l : List (Nat × FFlags)) : List (Nat × FFlags) :=
  (l.zip on).map fun e => if e.2 then e.1 else (0, 0)

/-- A lane-wise instruction with its operation on the lists of source lanes, masked under R212. -/
def State.lanewise (i : Sys2Proof.Instr) (m : BitVec 2) (rd : Reg) (srcs : List Reg) (lat : Nat) (sc : Nat)
    (op : List (List Nat) → List (Nat × FFlags)) (s : State) : State :=
  s.vector i m (some rd) srcs sc fun n ls s =>
    let on := s.active n (fmtOf m).lanes
    let r := masked on (op ls)
    s.vecResult m rd (rd :: srcs) n (r.map (·.1)) on (orFlags (r.map (·.2))) lat sc

/-- One-, two- and three-operand lane operations over lists of lanes. -/
def lane1 (f : Nat → Nat × FFlags) (ls : List (List Nat)) : List (Nat × FFlags) := (ls.headD []).map f
def lane2 (f : Nat → Nat → Nat × FFlags) (ls : List (List Nat)) : List (Nat × FFlags) :=
  ((ls.headD []).zip ((ls.drop 1).headD [])).map fun e => f e.1 e.2
def lane3 (f : Nat → Nat → Nat → Nat × FFlags) (ls : List (List Nat)) : List (Nat × FFlags) :=
  ((ls.headD []).zip (((ls.drop 1).headD []).zip ((ls.drop 2).headD []))).map fun e => f e.1 e.2.1 e.2.2

/-- Parks the slot until the end of cycle t + 23 (R222). -/
def State.parkDivide (p : Nat → Park) (sc : Nat) (s : State) : State :=
  (s.parkMe (p (s.cycle + 23)) sc).post .fdivFsqrtResult (arg1 s.cur)

/-- A parked lane-wise instruction (R222): its result and flags are written, or its elements pushed, at the end of cycle t + 23; with n = 0
it parks as well and writes nothing. -/
def State.lanewiseParked (i : Sys2Proof.Instr) (m : BitVec 2) (rd : Reg) (srcs : List Reg) (sc : Nat)
    (op : List (List Nat) → List (Nat × FFlags)) (s : State) : State :=
  s.vectorOr i m (some rd) srcs (State.parkDivide (fun due => .fpush 0 [] 0 due sc) sc) fun n ls s =>
    let f := fmtOf m
    let on := s.active n f.lanes
    let r := masked on (op ls)
    let fl := orFlags (r.map (·.2))
    let vals := r.map (·.1)
    let park := fun (p : Nat → Park) (s : State) => (s.advance (rd :: srcs) n).parkDivide p sc
    match s.streamAt rd with
    | some st => s.pushPlan st vals on n fun l => park fun due => .fpush (fmtOf st.fmt).bytes l fl due sc
    | none => park (fun due => .fdivide rd.toNat (BitVec.ofNat 128 (packLanes f.width vals)) (laneMask f on) fl due sc) s

/-! ## Major 0x24 (R222, R223) -/

/-- `fadd` (R222). -/
def execFadd (rd ra rb : Reg) (m : BitVec 2) (sc : BitVec 3) (s : State) : Host.Outcome State Fault Refusal :=
  .next (s.lanewise (.fadd rd ra rb m sc) m rd [ra, rb] 4 sc.toNat (lane2 ((fmtOf m).fadd s.mode)))

/-- `fsub` (R222). -/
def execFsub (rd ra rb : Reg) (m : BitVec 2) (sc : BitVec 3) (s : State) : Host.Outcome State Fault Refusal :=
  .next (s.lanewise (.fsub rd ra rb m sc) m rd [ra, rb] 4 sc.toNat (lane2 ((fmtOf m).fsub s.mode)))

/-- `fmul` (R222). -/
def execFmul (rd ra rb : Reg) (m : BitVec 2) (sc : BitVec 3) (s : State) : Host.Outcome State Fault Refusal :=
  .next (s.lanewise (.fmul rd ra rb m sc) m rd [ra, rb] 4 sc.toNat (lane2 ((fmtOf m).fmul s.mode)))

/-- `fmin` (R222). -/
def execFmin (rd ra rb : Reg) (m : BitVec 2) (sc : BitVec 3) (s : State) : Host.Outcome State Fault Refusal :=
  .next (s.lanewise (.fmin rd ra rb m sc) m rd [ra, rb] 2 sc.toNat (lane2 ((fmtOf m).pick false)))

/-- `fmax` (R222). -/
def execFmax (rd ra rb : Reg) (m : BitVec 2) (sc : BitVec 3) (s : State) : Host.Outcome State Fault Refusal :=
  .next (s.lanewise (.fmax rd ra rb m sc) m rd [ra, rb] 2 sc.toNat (lane2 ((fmtOf m).pick true)))

/-- `fabs` (R222): the sign bit cleared. -/
def execFabs (rd ra : Reg) (m : BitVec 2) (sc : BitVec 3) (s : State) : Host.Outcome State Fault Refusal :=
  .next (s.lanewise (.fabs rd ra m sc) m rd [ra] 2 sc.toNat (lane1 fun a => (a % (fmtOf m).signBit, 0)))

/-- `fneg` (R222): the sign bit inverted. -/
def execFneg (rd ra : Reg) (m : BitVec 2) (sc : BitVec 3) (s : State) : Host.Outcome State Fault Refusal :=
  .next (s.lanewise (.fneg rd ra m sc) m rd [ra] 2 sc.toNat (lane1 fun a => (Nat.xor a (fmtOf m).signBit, 0)))

/-- `fsel` (R222): the LANEP predicate chooses; every lane below n is written. -/
def execFsel (rd ra rb : Reg) (m : BitVec 2) (sc : BitVec 3) (s : State) : Host.Outcome State Fault Refusal :=
  .next (s.vector (.fsel rd ra rb m sc) m (some rd) [ra, rb] sc.toNat fun n ls s =>
    let on := (List.range (fmtOf m).lanes).map fun i => decide (i < n)
    let pick := (List.range (fmtOf m).lanes).map fun i => s.laneBits.getLsbD i
    let vals := (((ls.headD []).zip ((ls.drop 1).headD [])).zip pick).map fun e => if e.2 then e.1.1 else e.1.2
    s.vecResult m rd [rd, ra, rb] n vals on 0 2 sc.toNat)

/-- `fmv` (R222). -/
def execFmv (rd ra : Reg) (m : BitVec 2) (sc : BitVec 3) (s : State) : Host.Outcome State Fault Refusal :=
  .next (s.lanewise (.fmv rd ra m sc) m rd [ra] 2 sc.toNat (lane1 fun a => (a, 0)))

/-- `fdiv` (R222). -/
def execFdiv (rd ra rb : Reg) (m : BitVec 2) (sc : BitVec 3) (s : State) : Host.Outcome State Fault Refusal :=
  .next (s.lanewiseParked (.fdiv rd ra rb m sc) m rd [ra, rb] sc.toNat (lane2 ((fmtOf m).fdiv s.mode)))

/-- `fsqrt` (R222). -/
def execFsqrt (rd ra : Reg) (m : BitVec 2) (sc : BitVec 3) (s : State) : Host.Outcome State Fault Refusal :=
  .next (s.lanewiseParked (.fsqrt rd ra m sc) m rd [ra] sc.toNat (lane1 ((fmtOf m).fsqrt s.mode)))

/-! ## Major 0x25 (R224) and 0x26 (R225 to R227) -/

/-- `fma` (R224). -/
def execFma (rd ra rb c : Reg) (f : BitVec 2) (sc : BitVec 2) (s : State) : Host.Outcome State Fault Refusal :=
  .next (s.lanewise (.fma rd ra rb c f sc) f rd [ra, rb, c] 4 sc.toNat (lane3 ((fmtOf f).ffma s.mode false)))

/-- `fnma` (R224). -/
def execFnma (rd ra rb c : Reg) (f : BitVec 2) (sc : BitVec 2) (s : State) : Host.Outcome State Fault Refusal :=
  .next (s.lanewise (.fnma rd ra rb c f sc) f rd [ra, rb, c] 4 sc.toNat (lane3 ((fmtOf f).ffma s.mode true)))

/-- `frcp` (R225). -/
def execFrcp (rd ra : Reg) (m : BitVec 2) (sc : BitVec 3) (s : State) : Host.Outcome State Fault Refusal :=
  .next (s.lanewise (.frcp rd ra m sc) m rd [ra] 8 sc.toNat (lane1 ((fmtOf m).frcp s.mode)))

/-- `frsq` (R225). -/
def execFrsq (rd ra : Reg) (m : BitVec 2) (sc : BitVec 3) (s : State) : Host.Outcome State Fault Refusal :=
  .next (s.lanewise (.frsq rd ra m sc) m rd [ra] 8 sc.toNat (lane1 ((fmtOf m).frsq s.mode)))

/-- `fexp2` (R225). -/
def execFexp2 (rd ra : Reg) (m : BitVec 2) (sc : BitVec 3) (s : State) : Host.Outcome State Fault Refusal :=
  .next (s.lanewise (.fexp2 rd ra m sc) m rd [ra] 8 sc.toNat (lane1 ((fmtOf m).fexp2 s.mode)))

/-- `flog2` (R225). -/
def execFlog2 (rd ra : Reg) (m : BitVec 2) (sc : BitVec 3) (s : State) : Host.Outcome State Fault Refusal :=
  .next (s.lanewise (.flog2 rd ra m sc) m rd [ra] 8 sc.toNat (lane1 ((fmtOf m).flog2 s.mode)))

/-- One level of the fixed pairwise tree of R226. -/
def treeLevel (op : Nat → Nat → Nat × FFlags) : List Nat → List Nat × FFlags
  | a :: b :: l =>
    let r := op a b
    let t := treeLevel op l
    (r.1 :: t.1, r.2 ||| t.2)
  | l => (l, 0)

/-- The tree over 2^n lanes: its root and the flags of its nodes. -/
def tree (op : Nat → Nat → Nat × FFlags) : Nat → List Nat → Nat × FFlags
  | 0, l => (l.headD 0, 0)
  | n + 1, l =>
    let t := treeLevel op l
    let r := tree op n t.1
    (r.1, t.2 ||| r.2)

/-- `fsum` and `fmaxr` (R226): an inactive lane enters as the identity; the root goes to lane 0 and +0 to the others. -/
def State.reduce (i : Sys2Proof.Instr) (m : BitVec 2) (rd ra : Reg) (sc : Nat) (identity : Nat)
    (op : Nat → Nat → Nat × FFlags) (s : State) : State :=
  s.vector i m (some rd) [ra] sc fun n ls s =>
    let f := fmtOf m
    let lanes := ((ls.headD []).zip (s.active n f.lanes)).map fun e => if e.2 then e.1 else identity
    let r := tree op (if f.lanes = 4 then 2 else 3) lanes
    let vals := r.1 :: List.replicate (f.lanes - 1) 0
    s.vecResult m rd [rd, ra] n vals (List.replicate f.lanes true) r.2 6 sc

/-- `fsum` (R226). -/
def execFsum (rd ra : Reg) (m : BitVec 2) (sc : BitVec 3) (s : State) : Host.Outcome State Fault Refusal :=
  .next (s.reduce (.fsum rd ra m sc) m rd ra sc.toNat (fmtOf m).signBit ((fmtOf m).fadd s.mode))

/-- `fmaxr` (R226). -/
def execFmaxr (rd ra : Reg) (m : BitVec 2) (sc : BitVec 3) (s : State) : Host.Outcome State Fault Refusal :=
  .next (s.reduce (.fmaxr rd ra m sc) m rd ra sc.toNat ((fmtOf m).signBit + (fmtOf m).infBits) ((fmtOf m).pick true))

/-- `fcmp` (R227): bit i of the predicate is the condition of an active lane, else 0. -/
def execFcmp (p : PReg) (k : BitVec 2) (ra rb : Reg) (m : BitVec 2) (sc : BitVec 3) (s : State) : Host.Outcome State Fault Refusal :=
  .next (s.vector (.fcmp p k ra rb m sc) m none [ra, rb] sc.toNat fun n ls s =>
    let on := s.active n (fmtOf m).lanes
    let r := masked on (lane2 (fun a b => match (fmtOf m).cmp k.toNat a b with
      | (t, fl) => (if t then 1 else 0, fl)) ls)
    let v : Byte := BitVec.ofNat 8 (packLanes 1 (r.map (·.1)))
    (((s.resultP p v 2).raise (orFlags (r.map (·.2)))).advance [ra, rb] n).retire 4 sc.toNat)

/-! ## Conversions and lane moves (R228, R229) -/

/-- An instruction that rejects streams in any of its f fields (R216). -/
def State.noStreams (i : Sys2Proof.Instr) (regs : List Reg) (f : State → State) (s : State) : State :=
  if regs.any fun r => (s.streamAt r).isSome then s.illegal i else f s

/-- The width of an element of a format in an f register: T6 takes a byte (R228). -/
def elemWidth (c : Nat) : Nat := if c = 0 ∨ c = 8 then 32 else if c = 1 ∨ c = 2 ∨ c = 9 then 16 else 8

/-- `fcvt` (R228, R209). -/
def execFcvt (rd ra : Reg) (u : BitVec 5) (r : BitVec 3) (t : BitVec 4) (sc : BitVec 3) (s : State) : Host.Outcome State Fault Refusal :=
  let ws := elemWidth u.toNat
  let wd := elemWidth t.toNat
  let n := Nat.min (128 / ws) (128 / wd)
  let mode := if r = 5 then s.mode else r.toNat
  .next (s.noStreams (.fcvt rd ra u r t sc) [rd, ra] fun s =>
    let els := (List.range n).map fun i => convert u.toNat t.toNat mode ((s.f ra).toNat / 2 ^ (ws * i) % 2 ^ (if u = 4 then 6 else fmtBits u.toNat))
    ((s.resultF rd (BitVec.ofNat 128 (packLanes wd (els.map (·.1)))) (BitVec.allOnes 128) 3).raise (orFlags (els.map (·.2)))).retire 4 sc.toNat)

/-- `fpack` (R229): FP32 lanes of two registers rounded into 16-bit lanes. -/
def execFpack (rd ra rb : Reg) (m : BitVec 2) (sc : BitVec 3) (s : State) : Host.Outcome State Fault Refusal :=
  .next (s.noStreams (.fpack rd ra rb m sc) [rd, ra, rb] fun s =>
    let on := s.active 8 8
    let r := masked on ((lanesOf .f32 (s.f ra) ++ lanesOf .f32 (s.f rb)).map (convert 0 m.toNat s.mode))
    ((s.resultF rd (BitVec.ofNat 128 (packLanes 16 (r.map (·.1)))) (laneMask (fmtOf m) on) 2).raise (orFlags (r.map (·.2)))).retire 4 sc.toNat)

/-- `funpack` (R229): half of the 16-bit lanes widened to FP32. -/
def execFunpack (rd ra : Reg) (h : BitVec 1) (m : BitVec 2) (sc : BitVec 3) (s : State) : Host.Outcome State Fault Refusal :=
  .next (s.noStreams (.funpack rd ra h m sc) [rd, ra] fun s =>
    let on := s.active 4 4
    let r := masked on ((((lanesOf (fmtOf m) (s.f ra)).drop (4 * h.toNat)).take 4).map (convert m.toNat 0 s.mode))
    ((s.resultF rd (BitVec.ofNat 128 (packLanes 32 (r.map (·.1)))) (laneMask .f32 on) 2).raise (orFlags (r.map (·.2)))).retire 4 sc.toNat)

/-- `fshuf` (R229): lanes permuted by the nibbles of x[rb]. -/
def execFshuf (rd ra rb : Reg) (m : BitVec 2) (sc : BitVec 3) (s : State) : Host.Outcome State Fault Refusal :=
  .next (s.noStreams (.fshuf rd ra rb m sc) [rd, ra] fun s =>
    let f := fmtOf m
    let l := lanesOf f (s.f ra)
    let vals := (List.range f.lanes).map fun i => l.getD (wbits (s.x rb) (4 * i) 4) 0
    (s.resultF rd (BitVec.ofNat 128 (packLanes f.width vals)) (BitVec.allOnes 128) 2).retire 4 sc.toNat)

/-! ## Streams (R214, R220, R221) -/

/-- Whether the elements of a memory stream keep to the address form of R128 (R221). -/
def streamRange (base : Word) (bytes : Nat) : Bool :=
  decide (bytes = 0) ||
  if base.getLsbD 63 then decide (wbits base 32 31 = 0) && decide (wbits base 20 4 = 0) && decide (wbits base 0 20 + bytes ≤ 0x100000)
  else decide (base.toNat + bytes ≤ 2 ^ 48)

/-- `sscfg` (R221). -/
def execSscfg (f : BitVec 2) (ra rb : Reg) (m : BitVec 2) (sc : BitVec 3) (s : State) : Host.Outcome State Fault Refusal :=
  let a := s.x ra
  let c := s.x rb
  let count := wbits c 0 32
  let write := c.getLsbD 32
  let acc := c.getLsbD 33
  let start := wbits a 0 12
  let e := (fmtOf m).bytes
  .next (
    if acc && (write || m != 0 || isSup s.myCore) then s.trap cPROTECTION c
    else if acc && decide (4096 < start + count) then s.trap cPROTECTION c
    else if !acc && decide (a.toNat % e ≠ 0) then s.trap cMISALIGN a
    else if !acc && !streamRange a (count * e) then s.trap cPROTECTION a
    else (s.modMe fun sl => { sl with streams := put f.toNat ⟨true, false, m, if acc then 0 else a, count, write, acc, if acc then start else 0, 0⟩ sl.streams }).retire 4 sc.toNat)

/-- `ssen` (R220). -/
def execSsen (f : BitVec 2) (sc : BitVec 3) (s : State) : Host.Outcome State Fault Refusal :=
  let st := look Stream.off s.me.streams f.toNat
  .next (if !st.configured then s.illegal (.ssen f sc)
    else (s.modMe fun sl => { sl with streams := put f.toNat { st with enabled := true } sl.streams }).retire 4 sc.toNat)

/-- `ssdis` (R220): returns the remaining count. -/
def execSsdis (rd : Reg) (f : BitVec 2) (sc : BitVec 3) (s : State) : Host.Outcome State Fault Refusal :=
  let st := look Stream.off s.me.streams f.toNat
  .next (if !st.configured then s.illegal (.ssdis rd f sc)
    else ((s.modMe fun sl => { sl with streams := put f.toNat { st with enabled := false } sl.streams }).resultX rd (w64 (st.count - st.pos)) 2).retire 4 sc.toNat)

/-- The division or root slot `k` is parked in is done: its flags, and the stall count from cycle `due` on (DESIGN CHOICE, log entry 98). -/
def State.fdivideEnd (k : Nat) (fl : BitVec 5) (due sc : Nat) (s : State) : State :=
  let s := s.modCore (coreOf k) fun c => { c with flags := c.flags ||| fl }
  (s.completeAt k 4).modSlot k fun sl => { sl with ready := due + 1 + sc }

/-- Its lanes written too. -/
def State.fdivideDone (k rd : Nat) (v mask : QWord) (fl : BitVec 5) (due sc : Nat) (s : State) : State :=
  (s.modSlot k fun sl => sl.setF (BitVec.ofNat 5 rd) ((sl.getF (BitVec.ofNat 5 rd) &&& ~~~mask) ||| (v &&& mask))).fdivideEnd k fl due sc

/-- The elements of the division or root that slot `k` is parked in go into its write stream (R217). -/
def State.fpushDone (k bytes : Nat) (l : List PushTo) (fl : BitVec 5) (due sc : Nat) (s : State) : State :=
  (s.pushAll k bytes l).fdivideEnd k fl due sc

/-- FDIV_FSQRT_RESULT (R222): the parked division or root of slot `arg.a` writes its lanes and flags, or pushes them; a push waits for room
at the window port. -/
def execFdivFsqrtResult (s : State) : Host.Outcome State Fault Refusal :=
  let k := s.arg.a
  .next (match (s.slot k).park with
    | .fdivide rd v mask fl due sc => if due < s.cycle then s.fdivideDone k rd v mask fl due sc else s.defer
    | .fpush n l fl due sc => if due < s.cycle ∧ s.pushRoom k l then s.fpushDone k n l fl due sc else s.defer
    | _ => s)

end Sys2Proof.Machine
end

