-- ==== Sys2Proof/Machine/Supervisor.lean ====
section
/-! DEFINITION. The supervisor's instructions on slots, engines, partitions and translations (R67, R122 to R125, R148, R151, R183, R193, R194), saving and restoring a partition (R319 to R321) and the time slices (R318). -/

namespace Sys2Proof.Machine

/-! ## Operands (R122) -/

/-- What a master specifier names. -/
inductive Master where
  | slot (k : Nat)
  | copy (cl b : Nat)
  | mer (sec : Nat)
deriving DecidableEq, Repr

/-- The slot of a slot specifier, none for a specifier that names none or has other bits set. -/
def slotOf (w : Word) : Option Nat :=
  if wbits w 14 50 ≠ 0 then none else some (wbits w 6 8 * 64 + wbits w 3 3 * 8 + wbits w 0 3)

/-- The master of a specifier; the launch unit names none here. -/
def masterOf (w : Word) : Option Master :=
  if wbits w 16 48 ≠ 0 then none
  else match wbits w 14 2 with
    | 0 => (slotOf w).map .slot
    | 1 => if wbits w 1 5 ≠ 0 then none else some (.copy (wbits w 6 8) (wbits w 0 1))
    | 2 => if wbits w 4 10 ≠ 0 then none else some (.mer (wbits w 0 4))
    | _ => none

def sDONE : Nat := 0
def sNOTARGET : Nat := 1
def sWRONGSTATE : Nat := 2
def sFAULT : Nat := 3

/-- An instruction of major 0x2D: PROTECTION on a compute core (R67); else its effect, and the status delivered to x[rd] by parking (R69). -/
def State.supervise (i : Sys2Proof.Instr) (rd : Reg) (sc : BitVec 3) (f : State → Nat × State) (s : State) : State :=
  if !isSup s.myCore then s.trap cPROTECTION (wordOf i)
  else match f s with
    | (st, s) => s.giveX rd (w64 st) sc.toNat

/-! ## Slots and engines (R123 to R125) -/

def Park.isTrap : Park → Bool
  | .trap _ => true
  | _ => false

/-- `sv.resume` on a specifier, with the word for x10 where there is one: the trap park ends, and the stall count of a `sys` or `brk` runs from
here (R118, R123). -/
def State.resumeSlot (w : Word) (x10 : Option Word) (s : State) : Nat × State :=
  match slotOf w with
  | none => (sNOTARGET, s)
  | some k =>
    if !(s.slot k).park.isTrap then (sWRONGSTATE, s)
    else
      let s := s.unpark k
      (sDONE, s.modSlot k fun sl => { (match x10 with
        | some v => sl.setX 10 v
        | none => sl) with ready := s.cycle + 1 + sl.tsc, tsc := 0 })

/-- `sv.resume` (R123, mod 0). -/
def execSvResume (rd ra : Reg) (sc : BitVec 3) (s : State) : Host.Outcome State Fault Refusal :=
  let w := s.x ra
  .next (s.supervise (.svResume rd ra sc) rd sc fun s => s.resumeSlot w none)

/-- `sv.resume` with a word for x10 (R123, mod 1). -/
def execSvResumeX10 (rd ra rb : Reg) (sc : BitVec 3) (s : State) : Host.Outcome State Fault Refusal :=
  let w := s.x ra
  let v := s.x rb
  .next (s.supervise (.svResumeX10 rd ra rb sc) rd sc fun s => s.resumeSlot w (some v))

/-- `sv.break` (R124): the reply breaks with reason TRAP and the trap's cause where a trap is pending, else with SUPERVISOR. -/
def execSvBreak (rd ra : Reg) (sc : BitVec 3) (s : State) : Host.Outcome State Fault Refusal :=
  let w := s.x ra
  .next (s.supervise (.svBreak rd ra sc) rd sc fun s =>
    match slotOf w with
    | none => (sNOTARGET, s)
    | some k =>
      let sl := s.slot k
      if !sl.active then (sWRONGSTATE, s)
      else if sl.park.isTrap then (sDONE, s.breakActivation k rTRAP sl.tcause.toNat)
      else (sDONE, s.breakActivation k rSUPERVISOR 0))

/-- `sv.freeze` (R123). -/
def execSvFreeze (rd ra : Reg) (sc : BitVec 3) (s : State) : Host.Outcome State Fault Refusal :=
  let w := s.x ra
  .next (s.supervise (.svFreeze rd ra sc) rd sc fun s =>
    match masterOf w with
    | none => (sNOTARGET, s)
    | some (.slot k) =>
      if (s.slot k).frozen then (sWRONGSTATE, s)
      else (sDONE, s.modSlot k fun sl => { sl with frozen := true, woken := false, elapsed := s.cycle - sl.elapsed })
    | some (.copy cl b) =>
      if (s.engine cl b).frozen then (sWRONGSTATE, s) else (sDONE, s.modEngine cl b fun e => { e with frozen := true })
    | some (.mer n) =>
      if (s.sector n).frozen then (sWRONGSTATE, s) else (sDONE, s.modSector n fun e => { e with frozen := true }))

/-- The steps an engine that may run again has before it. -/
def State.resumeEngine (cl b : Nat) (s : State) : State :=
  let s := match (s.engine cl b).cmd with
    | none => s
    | some c => if c.ended || c.told then s.post .copyCompletion (arg3 cl b c.serial) else s.post .copyItem (arg2 cl b)
  s.kick cl

/-- The wake recorded for slot `k` while it was frozen takes effect (R123): its instruction issues again, or completes with its result. -/
def State.takeWake (k : Nat) (s : State) : State :=
  match (s.slot k).park with
  | .again _ => s.unpark k
  | .give rd v _ => s.deliverX k (BitVec.ofNat 5 rd) v
  | _ => s

/-- `sv.thaw` (R123): the master goes on, and a wake recorded for a slot takes effect. -/
def execSvThaw (rd ra : Reg) (sc : BitVec 3) (s : State) : Host.Outcome State Fault Refusal :=
  let w := s.x ra
  .next (s.supervise (.svThaw rd ra sc) rd sc fun s =>
    match masterOf w with
    | none => (sNOTARGET, s)
    | some (.slot k) =>
      let sl := s.slot k
      if !sl.frozen then (sWRONGSTATE, s)
      else
        let s := s.modSlot k fun sl => { sl with frozen := false, woken := false, elapsed := s.cycle - sl.elapsed, ready := Nat.max sl.ready (s.cycle + 1) }
        (sDONE, if sl.woken then s.takeWake k else s)
    | some (.copy cl b) =>
      if !(s.engine cl b).frozen then (sWRONGSTATE, s)
      else (sDONE, (s.modEngine cl b fun e => { e with frozen := false }).resumeEngine cl b)
    | some (.mer n) =>
      if !(s.sector n).frozen then (sWRONGSTATE, s)
      else (sDONE, (s.modSector n fun e => { e with frozen := false }).post .auctionTake (arg1 n)))

/-! ## Shootdowns (R151, R183, R193, R194) -/

/-- Whether a chip virtual address lies in a range of 64 KiB pages. -/
def inPages (first pages : Nat) (a : Word) : Bool :=
  !a.getLsbD 63 && decide (first ≤ a.toNat / 65536) && decide (a.toNat / 65536 < first + pages)

/-- The slots of a partition's cores that the state lists. -/
def State.partSlots (s : State) (d : Part) : List Nat := s.slotKeys.filter fun k => !isSup (coreOf k) && d.owns (clusterOf (coreOf k))

/-- Takes the translations of a range out of a TLB; a larger page goes whole. -/
def tlbDrop (first pages : Nat) (t : SMap Leaf) : SMap Leaf :=
  t.filter fun e => !(decide (e.1 < first + pages) && decide (first < e.1 + e.2.pages))

/-- The ranges of pages an invalidation removes: the one named, and those of larger pages that overlap it (R193). -/
def State.shootRanges (d : Part) (first pages : Nat) (s : State) : List (Nat × Nat) :=
  (first, pages) :: (d.clusters.flatMap fun cl =>
    let hit := fun (e : Nat × Leaf) => decide (e.1 < first + pages) && decide (first < e.1 + e.2.pages) && decide (1 < e.2.pages)
    let base := (TUnit.meridian 0).base cl
    ((s.cluster cl).tlb.filter hit).map (fun e => (e.1, e.2.pages)) ++
    (((s.sector (sectorOf cl)).tc.filter fun e => decide (base ≤ e.1)).map fun e => (e.1 - base, e.2)).filterMap fun e =>
      if hit e then some (e.1, e.2.pages) else none).eraseDups

/-- Whether an address lies in one of a list of page ranges. -/
def inRanges (l : List (Nat × Nat)) (a : Word) : Bool := l.any fun r => inPages r.1 r.2 a

/-- Translations of a range leave the TLBs of a partition's clusters and the translation caches of its sectors. -/
def State.dropRange (d : Part) (first pages : Nat) (s : State) : State :=
  d.clusters.foldl (fun (s : State) cl =>
    (s.modCluster cl fun k => { k with tlb := tlbDrop first pages k.tlb }).modSector (sectorOf cl) fun e =>
      { e with tc := tlbDrop ((TUnit.meridian 0).base cl + first) pages e.tc }) s

/-- The start of an invalidation that removes the page ranges `l`: translations of the range leave their caches, waits for full words in a
removed page are withdrawn (R183), and the counters of armed copies in one are translated anew (R246). -/
def State.startShoot (d : Part) (first pages : Nat) (l : List (Nat × Nat)) (s : State) : State :=
  let s := s.dropRange d first pages
  let s := (s.partSlots d).foldl (fun (s : State) k => match (s.slot k).park with
    | .sync _ a _ _ _ _ => if inRanges l a then s.unpark k else s
    | _ => s) s
  d.clusters.foldl (fun (s : State) cl => ((s.cluster cl).pending.filter fun c => inRanges l c.counter).foldl (fun s c => s.rewatch c) s) s

/-- `tlbinv` (R193): parks until the invalidation is complete; a bad operand answers NOTARGET. -/
def execTlbinv (rd ra rb : Reg) (sc : BitVec 3) (s : State) : Host.Outcome State Fault Refusal :=
  let w := s.x ra
  let n := (s.x rb).toNat
  let p := wbits w 0 8
  let first := wbits w 16 32
  let pages := if n = 0 then 2 ^ 32 - first else n / 65536
  .next (if !isSup s.myCore then s.trap cPROTECTION (wordOf (.tlbinv rd ra rb sc))
    else if p = 0 ∨ !(s.part p).known ∨ wbits w 8 8 ≠ 0 ∨ wbits w 48 16 ≠ 0 ∨ n % 65536 ≠ 0 ∨ 2 ^ 32 < first + pages then
      s.giveX rd (w64 sNOTARGET) sc.toNat
    else
      let (id, s) := s.number
      let l := s.shootRanges (s.part p) first pages
      let s := s.startShoot (s.part p) first pages l
      let s := { s with shoots := s.shoots ++ [(⟨id, s.cur, p, first, pages, l⟩ : Shoot)] }
      (s.parkMe (.shoot rd.toNat id sc.toNat) sc.toNat).post .shootdownComplete (arg1 id))

/-- Whether an access that took its translation from a removed page may still be on its way (R151, step 3). A store, once retired, and the
line of an `l2wb` no longer name their page: any of the partition counts. The access of a parked `wfa` or `wfp` ends as it wakes. -/
def State.shootWaits (s : State) (h : Shoot) : Bool :=
  let d := s.part h.part
  ((s.partSlots d).any fun k => !(s.slot k).stores.isEmpty || (match (s.slot k).park with
    | .load ld _ _ => inRanges h.ranges ld.addr
    | .amo a => inRanges h.ranges a.addr
    | .barrier _ a _ _ _ _ => inRanges h.ranges a
    | .fpush _ els _ _ _ => els.any fun x => inRanges h.ranges x.1
    | .clean _ _ _ => true
    | _ => false)) ||
  d.clusters.any fun cl => (s.cluster cl).wq.any fun w => inRanges h.ranges w.addr

/-- SHOOTDOWN_COMPLETE (R151): invalidation `arg.a` is complete, the L1s are empty, and the waiting slot gets DONE. -/
def execShootdownComplete (s : State) : Host.Outcome State Fault Refusal :=
  .next (match s.shoots.find? fun h => h.id = s.arg.a with
    | none => s
    | some h =>
      if s.shootWaits h then s.defer
      else
        let d := s.part h.part
        let s := d.clusters.foldl (fun (s : State) cl => s.flushL1 cl) (s.dropRange d h.first h.pages)
        let s := { s with shoots := s.shoots.filter fun x => x.id ≠ h.id }
        match (s.slot h.slot).park with
        | .shoot rd id _ => if id = h.id then s.deliverX h.slot (BitVec.ofNat 5 rd) (w64 sDONE) else s
        | _ => s)

/-! ## The save area (R320) -/

/-- The home of a byte of an area, as an access of an engine under key slot 0; none where the checks fail. -/
def State.areaHome (s : State) (dom va : Nat) (wr : Bool) : Option Home :=
  if !(s.rootOf dom).1 || decide (2 ^ 48 ≤ va) then none else
  match s.walkFrom va 4 (s.rootOf dom).2 with
  | .leaf l _ => match leafChk l va (!wr) wr false true with
    | .ok (.dram sl pa p _) => some (.dram sl pa p 0)
    | _ => none
  | _ => none

/-- Doublewords written from `va` on. -/
def State.areaPut (dom : Nat) : Nat → List Word → State → Option State
  | _, [], s => some s
  | va, w :: l, s => match s.areaHome dom va true with
    | none => none
    | some h => State.areaPut dom (va + 8) l (s.engineWrite h (toBytes 8 w.toNat) false)

/-- `n` doublewords read from `va` on; none where one cannot be read. -/
def State.areaGet (s : State) (dom : Nat) : Nat → Nat → Option (List Word)
  | _, 0 => some []
  | va, n + 1 => match s.areaHome dom va false with
    | none => none
    | some h => if s.homePoison h then none else (s.areaGet dom (va + 8) n).map fun l => w64 (ofBytes (s.homeBytes h 8)) :: l

/-- The two doublewords of a partition's descriptor (R34). -/
def Part.words (d : Part) : List Word :=
  [w64 (d.partno.toNat + d.collo.toNat * 2 ^ 8 + d.rowlo.toNat * 2 ^ 12 + d.colhi.toNat * 2 ^ 16 + d.rowhi.toNat * 2 ^ 20 + d.key.toNat * 2 ^ 24 +
     d.keyslot.toNat * 2 ^ 38 + d.st.toNat * 2 ^ 46),
   w64 (d.runlimit.toNat + d.gbase.toNat * 2 ^ 32 + d.gcount.toNat * 2 ^ 44)]

/-- The predicate registers in one doubleword. -/
def Slot.pWord (sl : Slot) : Word := w64 (ofBytes ((List.range 8).map fun i => sl.getP (BitVec.ofNat 3 i)))

/-- A slot record up to +928. -/
def Slot.words (sl : Slot) : List Word :=
  ((List.range 32).map fun i => sl.getX (BitVec.ofNat 5 i)) ++
  ((List.range 32).flatMap fun i => let v := sl.getF (BitVec.ofNat 5 i); [v.setWidth 64, (v >>> 64).setWidth 64]) ++
  [sl.pc.setWidth 64, sl.pWord, sl.lstart.setWidth 64, sl.lend.setWidth 64, sl.lcount, sl.rmode.setWidth 64, sl.rowmask,
   sl.temp.setWidth 64, sl.lanep.setWidth 64, sl.replyh, sl.actinfo, sl.actarg, sl.xferid, sl.tcause.setWidth 64, sl.taddr,
   sl.tpc.setWidth 64, sl.merstat.setWidth 64, sl.merfault.setWidth 64, sl.grstat, sl.nanseen]

/-- ACTINFO's fields put back. -/
def Act.ofInfo (w : Word) (a : Act) : Act :=
  { a with
    channel := w.setWidth 6, cls := BitVec.ofNat 4 (wbits w 6 4), kinds := BitVec.ofNat 8 (wbits w 10 8), prio := BitVec.ofNat 2 (wbits w 18 2),
    source := match wbits w 20 2 with
      | 0 => .message
      | 1 => .whenRes
      | 2 => .anonymous
      | _ => .engine,
    paylen := BitVec.ofNat 9 (wbits w 23 9) }

/-- A slot with what its record holds. -/
def Slot.ofWords (ws : List Word) (sl : Slot) : Slot :=
  let g := fun (i : Nat) => ws.getD i 0
  { sl with
    x := (List.range 31).map fun i => (i + 1, g (i + 1)),
    f := (List.range 32).map fun i => (i, (g (32 + 2 * i)).setWidth 128 ||| ((g (33 + 2 * i)).setWidth 128 <<< 64)),
    pc := evenPc ((g 96).setWidth 48), p := (List.range 7).map fun i => (i + 1, BitVec.ofNat 8 (wbits (g 97) (8 * (i + 1)) 8)),
    lstart := evenPc ((g 98).setWidth 48), lend := (g 99).setWidth 48, lcount := g 100, rmode := (g 101).setWidth 3, rowmask := g 102,
    temp := (g 103).setWidth 16, lanep := (g 104).setWidth 3, replyh := g 105, act := Act.ofInfo (g 106) sl.act, actarg := g 107,
    xferid := g 108, tcause := (g 109).setWidth 8, taddr := g 110, tpc := (g 111).setWidth 48, merstat := (g 112).setWidth 32,
    merfault := (g 113).setWidth 9, grstat := g 114, nanseen := g 115 }

/-- An accumulator bank as doublewords, row-major. -/
def bankWords (b : SMap (BitVec 32)) : List Word :=
  (List.range 2048).map fun i => w64 ((look 0 b (2 * i)).toNat + (look 0 b (2 * i + 1)).toNat * 2 ^ 32)

def bankOf (ws : List Word) : SMap (BitVec 32) :=
  (ws.zipIdx.flatMap fun x => [(2 * x.2, x.1.setWidth 32), (2 * x.2 + 1, BitVec.ofNat 32 (x.1.toNat / 2 ^ 32))]).filter fun e => e.2 ≠ 0

/-- A tensor map's image in 64 doublewords (R233). -/
def TMap.words (m : TMap) : List Word :=
  if !m.valid then List.replicate 64 0 else
  let l := [m.base, w64 (m.fmt.toNat + m.padmode.toNat * 16 + m.dims.length * 64), m.padval.setWidth 64, 0, 0, 0, 0, 0] ++
    m.dims.flatMap fun d => [w64 (d.size.toNat + d.bound.toNat * 2 ^ 32), d.stride]
  l ++ List.replicate (64 - l.length) 0

/-- HTBASE, SEQBASE and QBASE as registers (R40). -/
def Core.bases (k : Core) : List Word :=
  [k.htbase.setWidth 64, w64 (k.seqbase.toNat + k.sendlog.toNat * 2 ^ 48 + k.recvlog.toNat * 2 ^ 52), w64 (k.qbase.toNat + k.qlog.toNat * 2 ^ 48)]

/-- The parts of a core record that R320 lays out, with their offsets. -/
def Core.parts (k : Core) : List (Nat × List Word) :=
  let b := fun (x : Bool) => if x then 1 else 0
  [(0, bankWords k.working), (0x4000, bankWords k.visible),
   (0x8000, [k.flags.setWidth 64, k.mflags.setWidth 64, k.govstall.setWidth 64, w64 (b k.scheck), w64 (b k.wpoison + 2 * b k.vpoison)]),
   (0x8100, (List.range 16).flatMap fun i => (look TMap.invalid k.tmaps i).words),
   (0xC000, k.bases)]

/-- A core with what its record holds: banks, flag registers, maps and the bases of its areas. -/
def Core.ofParts (bw bv fl ms hs : List Word) (k : Core) : Core :=
  let g := fun (i : Nat) => fl.getD i 0
  let h := fun (i : Nat) => hs.getD i 0
  { k with
    htbase := (h 0).setWidth 48, seqbase := (h 1).setWidth 48, sendlog := BitVec.ofNat 4 (wbits (h 1) 48 4),
    recvlog := BitVec.ofNat 4 (wbits (h 1) 52 4), qbase := (h 2).setWidth 48, qlog := BitVec.ofNat 4 (wbits (h 2) 48 4),
    working := bankOf bw, visible := bankOf bv, flags := (g 0).setWidth 5, mflags := (g 1).setWidth 5, govstall := (g 2).setWidth 32,
    scheck := (g 3).getLsbD 0, wpoison := (g 4).getLsbD 0, vpoison := (g 4).getLsbD 1,
    tmaps := (List.range 16).map fun i => (i, (TMap.ofWords ((ms.drop (64 * i)).take 64)).getD TMap.invalid) }

/-! ## Saving (R248, R278, R299, R319) -/

/-- Every pending store of slot `k` performed. -/
def State.landStores (k : Nat) (s : State) : State :=
  (s.slot k).stores.foldl (fun (s : State) p => s.performStore k p) (s.modSlot k (Slot.dropStores fun _ => true))

/-- A slot stopped: its stores, its load or atomic and its results land, and the stores that these push (R72, R175, R217); a wait for a full
word and one for a take are withdrawn, to be made again. A push for which the window port has no room waits on. -/
def State.landSlot (k : Nat) (s : State) : State :=
  let s := s.landStores k
  let s := match (s.slot k).park with
    | .load ld len sc =>
      let s := s.returnLoad k ld len sc false
      (match (s.slot k).park with
        | .load ld len sc => s.returnLoad k ld len sc false
        | _ => s)
    | .amo a => s.performAmo k a
    | .divide rd v due sc => s.divideDone k rd v due sc
    | .fdivide rd v mask fl due sc => s.fdivideDone k rd v mask fl due sc
    | .fpush n l fl due sc => if s.pushRoom k l then s.fpushDone k n l fl due sc else s
    | .give rd v _ => s.deliverX k (BitVec.ofNat 5 rd) v
    | .tmset n m _ => s.tmsetDone k n m
    | .clean sl pa _ => (s.cleanL2 sl pa).completeAt k 4
    | .sync _ _ _ _ _ _ => s.unpark k
    | .merGo _ _ => (s.unpark k).modSlot k fun sl => { sl with waiting := false }
    | _ => s
  (s.landStores k).modSlot k Slot.flush

/-- The cores of a cluster list, cluster-major. -/
def coresOf (cls : List Nat) : List Nat := cls.flatMap fun cl => (List.range 8).map fun i => cl * 8 + i

/-- Whether a partition holds no work. -/
def State.idlePart (s : State) (p : Nat) : Bool :=
  let d := s.part p
  let cls := d.clusters
  !((s.partSlots d).any fun k => (s.slot k).active) &&
  !((coresOf cls).any fun c => let k := s.core c
      !k.queues.all (fun e => e.2.isEmpty) || !k.anon.isEmpty || !k.reorder.isEmpty || !k.xq.isEmpty) &&
  !(s.launch.queues.any fun e => decide (e.2.part.toNat = p) && !e.2.recs.isEmpty) && !(s.launch.exps.any fun x => decide (x.lrec.part = p) && !x.complete) &&
  !(cls.any fun cl => let k := s.cluster cl
      !k.pending.isEmpty || k.engine0.cmd.isSome || k.engine1.cmd.isSome) &&
  !(d.sectors.any fun i => let se := s.sector i
      (se.buffers.any fun a => decide (a.part = p) && !a.stopped) || se.order.any fun k => d.owns (clusterOf (coreOf k)))

/-- STATE as it reads (R399): idle or running by the work there is, unless saved or resetting. -/
def State.stateOf (s : State) (p : Nat) : BitVec 2 :=
  let st := (s.part p).st
  if st = 2 ∨ st = 3 then st else if s.idlePart p then 0 else 1

/-- What is kept of a partition whose slots and matrix units have stopped beside what its area gives field by field. -/
def State.keep (p dom area sram : Nat) (move : Bool) (s : State) : Saved :=
  let d := s.part p
  let cls := d.clusters
  let mine := fun (c : Nat) => !isSup c && d.owns (clusterOf c)
  { no := s.serial + 1, area := w64 area, moved := move, desc := { d with st := s.stateOf p }, sram := sram,
    slots := s.slots.filter fun e => mine (coreOf e.1), cores := s.cores.filter fun e => mine e.1,
    pending := cls.map fun cl => (cl, (s.cluster cl).pending),
    engines := cls.map fun cl => (cl, (s.cluster cl).engine0, (s.cluster cl).engine1),
    events := s.launch.events.filter fun e => e.2.part.toNat = p, ended := [], touched := [], dom := dom, since := s.cycle }

/-- The Meridian state of a partition (R299): an abandoned auction has ended with the round in which it stops. -/
def State.merPart (s : State) (p : Nat) : MerPart :=
  let l := (s.part p).sectors
  let own := l.filter fun i => s.biasPart i = p
  { aucts := l.flatMap fun i => (s.sector i).buffers.filter fun a => decide (a.part = p) && !a.abandon,
    bias := own.map fun i => (i, (s.sector i).bias), gens := own.map fun i => (i, (s.sector i).gen) }

/-- The launch state of a partition. -/
def State.launchPart (s : State) (p : Nat) : LaunchPart :=
  { queues := (s.launch.queues.filter fun e => e.2.part.toNat = p).map fun e => (e.1, e.2.recs),
    comps := (s.launch.comps.filter fun e => e.2.part.toNat = p).map fun e => (e.1, e.2.recs, e.2.arm, e.2.regs),
    exps := s.launch.exps.filter fun x => x.lrec.part = p,
    events := (s.launch.events.filter fun e => e.2.part.toNat = p).map fun e => (e.1, e.2.count, e.2.failed) }

/-- The partition leaves its slots, engines, rings and queues; a slot's RETIRED counts on (R392). -/
def State.vacate (p : Nat) (v : Saved) (s : State) : State :=
  let d := v.desc
  let s := v.slots.foldl (fun (s : State) e => s.modSlot e.1 fun sl => { Slot.reset with retired := sl.retired }) s
  let s := v.cores.foldl (fun (s : State) e => s.modCore e.1 fun k => { k with xq := [], mq := [] }) s
  let s := d.clusters.foldl (fun (s : State) cl => s.modCluster cl fun k =>
    { k with rings := [], pending := [], engine0 := { k.engine0 with cmd := none }, engine1 := { k.engine1 with cmd := none } }) s
  let ids := (d.sectors.flatMap fun i => (s.sector i).buffers.filter fun a => decide (a.part = p)).map (·.id)
  let s := d.sectors.foldl (fun (s : State) i =>
    (s.modSector i fun se =>
      { se with
        order := se.order.filter fun k => !d.owns (clusterOf (coreOf k)), buffers := se.buffers.filter fun a => decide (a.part ≠ p),
        current := se.current.filter fun n => !ids.contains n, resume := se.resume.filter fun n => !ids.contains n }).post
          .auctionTake (arg1 i)) s
  (s.modLaunch fun l => { l with
    queues := l.queues.map fun e => (e.1, if e.2.part.toNat = p then { e.2 with recs := [] } else e.2),
    comps := l.comps.map fun e => (e.1, if e.2.part.toNat = p then { e.2 with recs := [], arm := none, regs := [] } else e.2),
    exps := l.exps.filter fun x => x.lrec.part ≠ p }).post .launchRecordTake Arg.zero

/-- One line of a cluster's SRAM copied to or from the area, with its poison and its full bits. -/
def State.copyLine (src dst : Home) (s : State) : State :=
  let bad := s.homePoison src
  let l := s.homeBytes src 64
  let full := (List.range 8).map fun i => s.homeFull (src.plus (8 * i))
  (full.zipIdx).foldl (fun (s : State) x => s.setHomeFull (dst.plus (8 * x.2)) x.1) ((s.homeWrite dst l).setHomePoison dst bad)

/-- The ranges of the slot and core records that R320 does not give field by field: where each begins, and its doublewords. The first of the copy
commands' range holds the save's number. -/
def Part.openRanges (d : Part) (off : Nat → Nat) : List (Nat × Nat) :=
  let n := (coresOf d.clusters).length
  ((List.range (8 * n)).map fun i => (off 0 + 2048 * i + 928, 140)) ++
  ((List.range n).flatMap fun i => [(off 1 + 65536 * i + 0x8028, 27), (off 1 + 65536 * i + 0xA100, 992), (off 1 + 65536 * i + 0xC020, 2044)])

/-- Free values in a range of an area. -/
def State.areaFree (dom : Nat) (r : Nat × Nat) (s : State) : Option State :=
  State.areaPut dom r.1 ((List.range r.2).map fun i => Config.freeWord (s.fresh + i)) { s with fresh := s.fresh + r.2 }

/-- The area written (R320): header, slot records, core records, rings, auctions, launch state and, when moved, the SRAM images; none where a write
fails. What the ranges hold whose contents are not architectural is open, but for the save's number (log entry 49). -/
def State.writeArea (p area : Nat) (v : Saved) (secs : List (Nat × Nat)) (mer launch : List Word) (s : State) : Option State :=
  let cls := v.desc.clusters
  let off := fun (i : Nat) => area + (secs.getD i (0, 0)).1
  let last := secs.getD 7 (0, 0)
  let pages := (last.1 + last.2 + 65535) / 65536
  let head := [w64 (0x4A535356 + 2 ^ 32 + p * 2 ^ 48 + (if v.moved then 2 ^ 56 else 0))] ++ v.desc.words ++ List.replicate 5 0 ++
    secs.flatMap fun x => [w64 x.1, w64 x.2]
  if !(List.range pages).all fun i => (s.areaHome v.dom (area + 65536 * i) true).isSome then none
  else
    let jobs : List (Nat × List Word) := (area, head) ::
      (((coresOf cls).flatMap fun c => (List.range 8).map fun i => c * 8 + i).zipIdx.map fun (x : Nat × Nat) =>
        (off 0 + 2048 * x.2, (look Slot.reset v.slots x.1).words)) ++
      ((coresOf cls).zipIdx.flatMap fun (x : Nat × Nat) =>
        ((look Core.reset v.cores x.1).parts ++ [(0xC018, [w64 v.no])]).map fun (y : Nat × List Word) => (off 1 + 65536 * x.2 + y.1, y.2)) ++
      (cls.zipIdx.map fun (x : Nat × Nat) => (off 2 + 1024 * x.2, ringWords (s.cluster x.1).rings)) ++
      [(off 3, mer), (off 4, launch)]
    let s := jobs.foldl (fun (s : Option State) j => s.bind (State.areaPut v.dom j.1 j.2)) (some s)
    let s := (v.desc.openRanges off).foldl (fun (s : Option State) r => s.bind (State.areaFree v.dom r)) s
    if !v.moved then s
    else (cls.zipIdx).foldl (fun (s : Option State) (x : Nat × Nat) => (List.range 16384).foldl (fun (s : Option State) i =>
      s.bind fun s => (s.areaHome v.dom (off 5 + 2 ^ 20 * x.2 + 64 * i) true).map fun h => s.copyLine (.sram x.1 (64 * i)) h) s) s

/-- `sv.save` of a partition that is idle or running (R319): everything stops, a record whose last end notice has come completes (R323), the area
is written, and STATE becomes saved. Where the area cannot be written, the partition is left stopped (DEDUCED, log entry 25). -/
def State.savePart (p dom area : Nat) (move : Bool) (s : State) : Nat × State :=
  let d := s.part p
  let s := d.clusters.foldl (fun (s : State) cl => s.drainMatrix cl) ((s.partSlots d).foldl (fun (s : State) k => s.landSlot k) s).endFlags
  let s := s.completeAll p
  let mer := MerPart.codec.put (s.merPart p)
  let launch := LaunchPart.codec.put (s.launchPart p)
  let secs := saveSections d.clusters.length (8 * mer.length) (8 * launch.length) move
  let v := s.keep p dom area (secs.getD 5 (0, 0)).1 move
  let s := s.number.2
  let r := s.writeArea p area v secs mer launch
  let s := (r.getD s).vacate p v
  let s := { s.modPart p fun d => { d with st := 2 } with saved := put p v s.saved, saves := put v.no v s.saves }
  let s := s.modLaunch fun l => { l with slices := put p { look Slice.reset l.slices p with armed := false } l.slices }
  (if r.isSome then sDONE else sFAULT, s)

/-- The status `sv.save` and `sv.load` answer for their operands, if they go no further: the bits of the word from `lo` on must be 0. Of several
that apply the first of NOTARGET, FAULT and WRONGSTATE is answered (DESIGN CHOICE, log entry 82). -/
def State.partRefusal (w a : Word) (lo : Nat) (okState : BitVec 2 → Bool) (s : State) : Option Nat :=
  let p := wbits w 0 8
  if w.toNat / 2 ^ lo ≠ 0 ∨ p = 0 ∨ !(s.part p).known then some sNOTARGET
  else if a.toNat % 65536 ≠ 0 then some sFAULT
  else if !okState (s.part p).st then some sWRONGSTATE
  else none

/-- `sv.save` (R123, R319). -/
def execSvSave (rd ra rb : Reg) (sc : BitVec 3) (s : State) : Host.Outcome State Fault Refusal :=
  let w := s.x ra
  let a := s.x rb
  .next (s.supervise (.svSave rd ra rb sc) rd sc fun s =>
    match s.partRefusal w a 9 fun st => decide (st = 0) || decide (st = 1) with
    | some e => (e, s)
    | none => s.savePart (wbits w 0 8) (domainOf s.myCore) a.toNat (w.getLsbD 8))

/-! ## Restoring (R148, R248, R299, R321) -/

/-- Whether a saved park goes on as it is; any other ends with the instruction executed again. -/
def Park.stays : Park → Bool
  | .run => true
  | .trap none => true
  | .barrier _ _ _ _ _ _ => true
  | .push _ _ => true
  | .fpush _ _ _ _ _ => true
  | _ => false

/-- A saved park whose access is translated afresh at its wake (R151, R321). -/
def Park.stale : Park → Park
  | .barrier _ a p rd sc scope => .barrier none a p rd sc scope
  | p => p

/-- A saved slot as it runs on: what waited re-executes or waits again, a slot of the page-fault monitor re-executes (R148), and what was left
of a stall count runs on. RUNLIMIT is counted anew where a park ends (R35). -/
def Slot.restored (now since : Nat) (sl : Slot) : Slot :=
  let sl := { sl with ready := now + Nat.max 1 (sl.ready - since) }
  if sl.park.stays then { sl with park := sl.park.stale, elapsed := if sl.frozen then sl.elapsed else sl.elapsed + (now - since) }
  else { sl with park := .run, waited := !sl.park.isTrap, elapsed := if sl.frozen then 0 else now, noticed := false }

/-- A waiting head whose time while saved does not count (R37). -/
def QItem.restored (now since : Nat) (it : QItem) : QItem :=
  { it with since := it.since.map fun t => if t < since then t + (now - since) else now }

/-- An expansion among others in the order in which they were taken. -/
def insertExp (x : Expansion) : List Expansion → List Expansion
  | [] => [x]
  | y :: l => if x.id < y.id then x :: y :: l else y :: insertExp x l

/-- A triggered command that had fired waits for its counter again (R247). -/
def CopyCmd.rearmed (c : CopyCmd) : CopyCmd :=
  if c.stage = .fired ∨ c.stage = .held ∨ c.stage = .armed then { c with stage := .armed, met := false } else c

/-- The steps that a restored cluster's commands have before them. -/
def State.resumeCluster (cl : Nat) (s : State) : State :=
  let s := (s.cluster cl).pending.foldl (fun (s : State) c =>
    if c.told then s.post .copyCompletion (arg3 cl 2 c.serial)
    else match c.stage with
      | .armed => (s.rewatch c).post .triggeredCopyFire (arg2 cl c.serial)
      | .looping => s.post .loopIterationStart (arg3 cl 0 c.serial)
      | _ => s) s
  (s.resumeEngine cl 0).resumeEngine cl 1

/-- An event as it was saved, with what has been added to it since the save (DEDUCED, log entry 49). -/
def EvReg.restored (count : BitVec 32) (failed : Bool) (was e : EvReg) : EvReg :=
  { e with count := count + (e.count - was.count), failed := failed || (e.failed && !was.failed) }

/-- The launch state put back. -/
def State.restoreLaunch (p : Nat) (v : Saved) (r : LaunchPart) (s : State) : State :=
  let late := fun (x : Expansion) => (v.ended.filter fun e => e.1 = x.id).foldl (fun x e => Expansion.end1 e.2.1 e.2.2 x) x
  let exps := r.exps.map late
  let s := s.modLaunch fun l => { l with
    queues := r.queues.foldl (fun m e =>
      let q := look LQueue.reset m e.1
      if q.part.toNat = p then put e.1 { q with recs := e.2 ++ q.recs } m else m) l.queues,
    comps := r.comps.foldl (fun m e =>
      let q := look CQueue.reset m e.1
      if q.part.toNat = p then put e.1 { q with recs := e.2.1 ++ q.recs, arm := e.2.2.1, regs := e.2.2.2 } m else m) l.comps,
    events := r.events.foldl (fun m e =>
      let q := look EvReg.reset m e.1
      if q.part.toNat = p then put e.1 (q.restored e.2.1 e.2.2 (look q v.events e.1)) m else m) l.events,
    exps := exps.foldl (fun l x => insertExp x l) l.exps,
    slices := put p { look Slice.reset l.slices p with count := 0 } l.slices }
  let s := exps.foldl (fun (s : State) x => if x.place = 0 then s.expDone x.id else s.post .completionRecordWrite (arg1 x.id)) s
  let s := r.comps.foldl (fun (s : State) e => if e.2.2.1.isSome then s.post .cqArmFire (arg1 e.1) else s) s
  (s.post .launchExpansionSend Arg.zero).post .launchRecordTake Arg.zero

/-- The free state of a core's pairs and cells at `sv.load` (R51): as the core has kept it, through the messages that arrived meanwhile; where its
bases have been written since the save, as it was saved, with what has been taken since. -/
def Core.withFree (written : Bool) (old k : Core) : Core :=
  if written then
    { k with rused := old.rused ++ k.rused.filter (fun n => !old.rused.contains n), cells := k.cells.foldl (fun m e => put e.1 e.2 m) old.cells,
             freedPairs := [], freedCells := [] }
  else k

/-- The section table of an area: offset and length of each section. -/
def State.sectionTable (s : State) (dom area : Nat) : Option (List (Nat × Nat)) :=
  (s.areaGet dom (area + 0x40) 16).map fun ws => (List.range 8).map fun i => ((ws.getD (2 * i) 0).toNat, (ws.getD (2 * i + 1) 0).toNat)

/-- The save whose number an area holds, for a partition that was saved as `cur`. -/
def State.saveOf (s : State) (cur : Saved) (no : Nat) : Option Saved :=
  if no = cur.no then some cur else (find? s.saves no).filter fun v => v.desc.clusters = cur.desc.clusters

/-- What an area holds beside its slot and core records, read back: rings by cluster, auctions and launch state. -/
def State.readState (s : State) (dom : Nat) (off len : Nat → Nat) (cls : List Nat) : Option (SMap (SMap Ring) × MerPart × LaunchPart) :=
  (cls.zipIdx.mapM fun (x : Nat × Nat) => (s.areaGet dom (off 2 + 1024 * x.2) 128).map fun ws => (x.1, ringsOf ws)).bind fun rings =>
  ((s.areaGet dom (off 3) (len 3 / 8)).bind MerPart.codec.all).bind fun mer =>
  ((s.areaGet dom (off 4) (len 4 / 8)).bind LaunchPart.codec.all).map fun launch => (rings, mer, launch)

/-- `sv.load` of a saved partition from an area that has its header and rectangle (R321); none where a read fails. -/
def State.loadPart (p dom area : Nat) (cur : Saved) (move : Bool) (s : State) : Option State :=
  let d := s.part p
  let cls := d.clusters
  (s.sectionTable dom area).bind fun secs =>
  let off := fun (i : Nat) => area + (secs.getD i (0, 0)).1
  let len := fun (i : Nat) => (secs.getD i (0, 0)).2
  let images : Option State := if !move then some s else
    (cls.zipIdx).foldl (fun (s : Option State) (x : Nat × Nat) => (List.range 16384).foldl (fun (s : Option State) i =>
      s.bind fun s => (s.areaHome dom (off 5 + 2 ^ 20 * x.2 + 64 * i) false).map fun h => s.copyLine h (.sram x.1 (64 * i))) s) (some s)
  (if cls.isEmpty then some cur else ((s.areaGet dom (off 1 + 0xC018) 1).bind fun ws => s.saveOf cur (ws.getD 0 0).toNat)).bind fun v =>
  (s.readState dom off len cls).bind fun st =>
  images.bind fun s =>
  let cores : Option State := ((coresOf cls).zipIdx).foldl (fun (s : Option State) (x : Nat × Nat) => s.bind fun s =>
    let o := off 1 + 65536 * x.2
    let old := look Core.reset v.cores x.1
    match s.areaGet dom o 2048, s.areaGet dom (o + 0x4000) 2048, s.areaGet dom (o + 0x8000) 5, s.areaGet dom (o + 0x8100) 1024,
      s.areaGet dom (o + 0xC000) 3 with
    | some bw, some bv, some fl, some ms, some hs => some (s.modCore x.1 fun k =>
        Core.ofParts bw bv fl ms hs (Core.withFree (cur.touched.contains x.1 || decide (k.bases ≠ hs)) old { k with
          epi := old.epi, xq := old.xq, xstat := old.xstat, xseq := old.xseq,
          queues := k.queues.map fun e => (e.1, e.2.map (QItem.restored s.cycle cur.since)), anon := k.anon.map (QItem.restored s.cycle cur.since) }))
    | _, _, _, _, _ => none) (some s)
  let slots : Option State := (((coresOf cls).flatMap fun c => (List.range 8).map fun i => c * 8 + i).zipIdx).foldl
    (fun (s : Option State) (x : Nat × Nat) => s.bind fun s =>
      match find? v.slots x.1 with
      | none => some s
      | some sl => (s.areaGet dom (off 0 + 2048 * x.2) 116).map fun ws =>
          let s := s.modSlot x.1 fun was => { ((Slot.ofWords ws sl).restored s.cycle v.since) with retired := was.retired }
          let s := if sl.fences.any fun f => f.sig.isSome then s.post .launchRecordTake (arg2 1 x.1) else s
          match sl.park with
          | .barrier _ _ _ _ _ _ => s.post .slotWake (arg1 x.1)
          | .push _ _ => s.post .slotWake (arg1 x.1)
          | .fpush _ _ _ _ _ => s.post .fdivFsqrtResult (arg1 x.1)
          | _ => s) cores
  slots.map fun s =>
    let s := cls.foldl (fun (s : State) cl => s.modCluster cl fun k =>
      { k with
        rings := look [] st.1 cl, pending := (look [] v.pending cl).map CopyCmd.rearmed,
        engine0 := { k.engine0 with cmd := (look (Engine.idle, Engine.idle) v.engines cl).1.cmd },
        engine1 := { k.engine1 with cmd := (look (Engine.idle, Engine.idle) v.engines cl).2.cmd } }) s
    let s := d.sectors.foldl (fun (s : State) i =>
      let mine := st.2.1.aucts.filter fun a => decide (slotSector a.slot = i)
      (s.modSector i fun se =>
        { se with
          buffers := se.buffers ++ mine, resume := se.resume ++ (mine.filter fun a => !a.stopped).map (·.id),
          bias := (find? st.2.1.bias i).getD se.bias, gen := (find? st.2.1.gens i).getD se.gen }).post .auctionTake (arg1 i)) s
    let s := { s.modPart p fun d => { d with st := 1 } with saved := del p s.saved }
    let s := s.restoreLaunch p cur st.2.2
    (coresOf cls).foldl (fun (s : State) c => s.stir c) (cls.foldl (fun (s : State) cl => s.resumeCluster cl) s)

/-- `sv.load` (R123, R321): another rectangle, magic or version answers WRONGSTATE. -/
def execSvLoad (rd ra rb : Reg) (sc : BitVec 3) (s : State) : Host.Outcome State Fault Refusal :=
  let w := s.x ra
  let a := s.x rb
  .next (s.supervise (.svLoad rd ra rb sc) rd sc fun s =>
    match s.partRefusal w a 8 fun st => decide (st = 2) with
    | some e => (e, s)
    | none =>
      let p := wbits w 0 8
      let dom := domainOf s.myCore
      match s.areaGet dom a.toNat 2, find? s.saved p with
      | some ws, some v =>
        let h := ws.getD 0 0
        if wbits h 0 32 ≠ 0x4A535356 ∨ wbits h 32 16 ≠ 1 ∨
            wbits (ws.getD 1 0) 8 16 ≠ wbits ((s.part p).words.getD 0 0) 8 16 then (sWRONGSTATE, s)
        else match s.loadPart p dom a.toNat v (decide (wbits h 56 8 = 1)) with
          | some s => (sDONE, s)
          | none => (sFAULT, s)
      | none, _ => (sFAULT, s)
      | _, none => (sWRONGSTATE, s))

/-! ## Time slices (R318) -/

def State.slice (s : State) (p : Nat) : Slice := look Slice.reset s.launch.slices p
def State.modSlice (p : Nat) (f : Slice → Slice) (s : State) : State :=
  s.modLaunch fun l => { l with slices := put p (f (look Slice.reset l.slices p)) l.slices }

/-- Cycles that pass for the slices whose timer runs. -/
def State.tickSlices (n : Nat) (s : State) : State :=
  (s.launch.slices.filter fun e => e.2.armed && decide (e.2.slice ≠ 0)).foldl (fun (s : State) e =>
    if s.stateOf e.1 = 1 then s.modSlice e.1 fun x => { x with count := x.count + n } else s) s

/-- SLICE_EXPIRY (R318): the slice of partition `arg.a` has run out: it is saved without MOVE under supervisor core 0's root, or
reported complete where it is idle. One that meets a containment reset is discarded (R374): ARMED stays, and the timer restarts (DESIGN
CHOICE, log entry 93). -/
def execSliceExpiry (s : State) : Host.Outcome State Fault Refusal :=
  let p := s.arg.a
  let x := s.slice p
  .next (if !x.armed || decide (x.slice = 0) || decide (x.count < x.slice.toNat) then s
    else if !(s.part p).known || decide (2 ≤ (s.part p).st.toNat) then s.modSlice p fun x => { x with count := 0 }
    else
      let n := w64 x.count
      let s := s.modSlice p fun x => { x with armed := false }
      if s.idlePart p then s.record 0x81 p 0 n
      else
        let area := x.area.toNat * 65536
        match s.savePart p 256 area false with
        | (st, s) => s.record (if st = sDONE then 0x80 else 0x82) p (w64 area) n)

/-- SLICE_REGISTER_WRITE (R318): word `arg.b` of partition `arg.a`'s slice register takes `arg.v`; setting ARMED restarts the timer. -/
def execSliceRegisterWrite (s : State) : Host.Outcome State Fault Refusal :=
  let v := s.arg.v
  .next (s.modSlice s.arg.a fun x =>
    if s.arg.b = 0 then { x with slice := v.setWidth 32, armed := v.getLsbD 32, count := if v.getLsbD 32 then 0 else x.count }
    else { x with area := BitVec.ofNat 32 (wbits v 16 32) })

end Sys2Proof.Machine
end

