-- ==== Sys2Proof/Machine/Registers.lean ====
section
/-! DEFINITION. The supervisor's writes of the configuration and control blocks, register by register (R4): fields take their bits, reserved and read-only fields ignore them. -/

namespace Sys2Proof.Machine

/-- Place `i` of a table whose entries of `size` bytes begin at `base`; none outside its `n` entries. -/
def tableAt (off base size n : Nat) : Option (Nat × Nat) :=
  if base ≤ off ∧ off < base + size * n then some ((off - base) / size, (off - base) % size) else none

/-! ## Cores (R12 to R14, R37, R40) -/

/-- Bit 0 of a handler's PC is dropped, since a PC's bit 0 is always 0 (R14, R59). -/
def Handler.ofWord (v : Word) : Handler := ⟨evenPc (v.setWidth 48), BitVec.ofNat 2 (wbits v 48 2), v.getLsbD 50, v.getLsbD 51⟩
def ClassD.ofWord (v : Word) : ClassD := ⟨v.getLsbD 0, v.getLsbD 1, BitVec.ofNat 4 (wbits v 2 4), v.getLsbD 6⟩

/-- Word 0 of a region descriptor, or of a protection region, which alone has RD and WR. -/
def Region.withWord (rights : Bool) (v : Word) (r : Region) : Region :=
  { r with
    base := v.setWidth 20, size := BitVec.ofNat 21 (wbits v 20 21), part := BitVec.ofNat 8 (wbits v 41 8), valid := v.getLsbD 49,
    rd := rights && v.getLsbD 50, wr := rights && v.getLsbD 51 }

/-- A core's block; the bases at 0x2208 and 0x2210 have a step of their own. What waits at the core then looks again. -/
def State.writeCore (c off : Nat) (v : Word) (s : State) : State :=
  let s := s.modCore c fun k =>
    match tableAt off 0 8 1024, tableAt off 0x2000 8 16, tableAt off 0x2100 16 16 with
    | some (n, _), _, _ => { k with handlers := put n (Handler.ofWord v) k.handlers }
    | _, some (n, _), _ => { k with classes := put n (ClassD.ofWord v) k.classes }
    | _, _, some (n, b) =>
      let r := look Region.reset k.regions n
      { k with regions := put n (if b = 0 then r.withWord false v else { r with name := v }) k.regions }
    | _, _, _ =>
      if off = 0x2200 then { k with htbase := v.setWidth 48 }
      else if off = 0x2300 then { k with agesint := v.setWidth 24 }
      else k
  (s.post .inboxCellAssignment (arg2 c 0)).stir c

/-! ## Clusters (R130, R264, R265, R284) -/

/-- A cluster's block; bank, root and power registers have steps of their own. A thermal override outlasts a write of BUDGET in its
own cycle (R396). -/
def State.writeCluster (k off : Nat) (v : Word) (s : State) : State :=
  s.modCluster k fun c =>
    match tableAt off 0 16 16 with
    | some (n, b) => if b = 0 then { c with prot := put n ((look Region.reset c.prot n).withWord true v) c.prot } else c
    | none =>
      if off = 0x300 then { c with weights := (List.range 8).map fun i => (i, BitVec.ofNat 4 (wbits v (4 * i) 4)) }
      else if off = 0x308 then (if s.chip.thermal = s.cycle + 1 then c else { c with budget := v.setWidth 8 })
      else if off = 0x310 then { c with biaspart := v.setWidth 8 }
      else c

/-! ## The launch unit (R307, R311) -/

/-- The launch unit's block; the launch queues and the slice registers have steps of their own. -/
def State.writeLaunch (off : Nat) (v : Word) (s : State) : State :=
  match tableAt off 0x80 8 16, tableAt off 0x1000 8 4096 with
  | some (n, _), _ => s.modComp n fun q => { q with part := v.setWidth 8, en := v.getLsbD 8 }
  | _, some (n, _) =>
    (s.modEvent n fun e => { e with
        count := v.setWidth 32, part := BitVec.ofNat 8 (wbits v 32 8), group := BitVec.ofNat 12 (wbits v 40 12), gbind := v.getLsbD 52,
        failed := e.failed && !v.getLsbD 53 }).post .launchRecordTake Arg.zero
  | _, _ => s

/-! ## The switch (R332 to R335, R348, R351, R353, R354, R362) -/

def Recv.ofWord (v : Word) : Recv :=
  ⟨v.setWidth 14, BitVec.ofNat 10 (wbits v 16 10), BitVec.ofNat 16 (wbits v 26 16), v.getLsbD 42, v.getLsbD 43⟩

/-- A transmit entry with the word at byte `b` written (R333). -/
def TxEnt.write (b : Nat) (v : Word) (e : TxEnt) : TxEnt :=
  if b = 0 then { e with valid := v.getLsbD 0, part := BitVec.ofNat 8 (wbits v 1 8), size := BitVec.ofNat 21 (wbits v 13 21) }
  else if b = 8 then { e with vbase := BitVec.ofNat 32 (wbits v 16 32) }
  else match tableAt b 64 8 16 with
    | some (i, _) => { e with recv := put i (Recv.ofWord v) e.recv }
    | none => e

/-- A receive entry likewise (R335); STATE has a step of its own, and most fields take writes only while it is CLOSED (R336). -/
def RxEnt.write (b : Nat) (v : Word) (e : RxEnt) : RxEnt :=
  let shut := decide (e.st = 0)
  if b = 0 then
    let e := { e with loopback := v.getLsbD 2, redok := v.getLsbD 3 }
    if shut then { e with
      sendmap := v.getLsbD 4, part := BitVec.ofNat 8 (wbits v 5 8), keyslot := BitVec.ofNat 8 (wbits v 13 8),
      gen := BitVec.ofNat 16 (wbits v 21 16), size := BitVec.ofNat 21 (wbits v 37 21) } else e
  else if b = 8 then (if shut then { e with plist := v.setWidth 40 } else e)
  else if b = 16 then (if shut then { e with smap := v.setWidth 40 } else e)
  else if b = 32 then { e with sigen := v.getLsbD 0, sigoff := BitVec.ofNat 33 (wbits v 3 33) }
  else e

/-- A doubleword of an address in network byte order. -/
def netOrder (v : Word) : Nat := ofBytes (toBytes 8 v.toNat).reverse

/-- A far destination likewise (R348). -/
def FarD.write (b : Nat) (v : Word) (e : FarD) : FarD :=
  if b = 0 then { e with
    valid := v.getLsbD 0, qp := v.getLsbD 1, conn := BitVec.ofNat 12 (wbits v 2 12), rgroup := BitVec.ofNat 8 (wbits v 14 8),
    port := BitVec.ofNat 2 (wbits v 22 2), udp := BitVec.ofNat 16 (wbits v 24 16), chip := BitVec.ofNat 14 (wbits v 40 14) }
  else if b = 8 then { e with addr := BitVec.ofNat 128 (netOrder v * 2 ^ 64 + e.addr.toNat % 2 ^ 64) }
  else if b = 16 then { e with addr := BitVec.ofNat 128 (e.addr.toNat / 2 ^ 64 * 2 ^ 64 + netOrder v) }
  else if b = 24 then { e with flow := v.setWidth 12 }
  else e

/-- A group entry likewise (R362); `busy`: an instance holds a slot. -/
def Group.write (busy : Bool) (b : Nat) (v : Word) (g : Group) : Group :=
  if b = 0 then
    let g := { g with valid := v.getLsbD 0 }
    if busy then g else { g with
      part := BitVec.ofNat 8 (wbits v 1 8), op := BitVec.ofNat 4 (wbits v 9 4), parent := BitVec.ofNat 4 (wbits v 13 4),
      children := BitVec.ofNat 8 (wbits v 17 8) }
  else if b = 8 then (if busy then g else { g with timeout := v.setWidth 32 })
  else if b = 24 then { g with late := v.setWidth 32 }
  else g

/-- The switch's block. A write of a far destination's entry starts its connection's numbers again (R350). -/
def State.writeFabric (off : Nat) (v : Word) (s : State) : State :=
  s.modFabric fun f =>
    match tableAt off 0 256 1024, tableAt off 0x40000 64 1024, tableAt off 0x50000 64 1024, tableAt off 0x60000 8 256,
      tableAt off 0x80000 32 4096, tableAt off 0xA0000 4 16384 with
    | some (n, b), _, _, _, _, _ => { f with tx := put n ((look TxEnt.reset f.tx n).write b v) f.tx }
    | _, some (n, b), _, _, _, _ => { f with rx := put n ((look RxEnt.reset f.rx n).write b v) f.rx }
    | _, _, some (n, b), _, _, _ =>
      let e := (look FarD.reset f.far n).write b v
      let f := { f with far := put n e f.far }
      if e.qp then { f with sendSeq := put e.conn.toNat 0 f.sendSeq, recvSeq := put e.conn.toNat 0 f.recvSeq } else f
    | _, _, _, some (n, _), _, _ =>
      { f with rates := put n { look RGroup.reset f.rates n with rate := v.setWidth 20, max := BitVec.ofNat 20 (wbits v 20 20) } f.rates }
    | _, _, _, _, some (n, b), _ =>
      { f with groups := put n ((look Group.reset f.groups n).write (f.rslots.any fun r => r.2.group = n) b v) f.groups }
    | _, _, _, _, _, some (n, _) => { f with routes := put n (v.setWidth 18) f.routes, routesSet := true }
    | _, _, _, _, _, _ =>
      if off = 0x61000 then { f with closetmo := v.setWidth 16, placetmo := BitVec.ofNat 16 (wbits v 16 16), msglife := BitVec.ofNat 16 (wbits v 32 16) }
      else if off = 0x70000 then { f with coord := v.setWidth 28, coordSet := true }
      else f

/-! ## The chip control block and the partition descriptors (R34, R36, R172, R370, R372, R377, R389) -/

/-- The chip control block; the mailbox at 0x300 and GO at 0x100 have steps of their own. -/
def State.writeChip (off : Nat) (v : Word) (s : State) : State :=
  s.modChip fun c =>
    match tableAt off 0x200 8 4, tableAt off 0xC00 8 256 with
    | some (i, _), _ => { c with paction := BitVec.ofNat 256 (c.paction.toNat / 2 ^ (64 * i + 64) * 2 ^ (64 * i + 64) + v.toNat * 2 ^ (64 * i) + c.paction.toNat % 2 ^ (64 * i)) }
    | _, some (p, _) => if p = 0 then c else { c with fhandle := put p v c.fhandle }
    | _, _ =>
      if off = 0 then { c with sqbase := v.setWidth 48, sqlog := BitVec.ofNat 4 (wbits v 48 4) }
      else if off = 8 then { c with sqhead := v.setWidth 32 }
      else if off = 0x10 then { c with lost := c.lost &&& ~~~(v.setWidth 32) }
      else if off = 0x100 then { c with rstPart := v.setWidth 8 }
      else if off = 0x310 then { c with wdog := s.cycle }
      else if off = 0x1800 then { c with fullEn := v.getLsbD 0, fullBase := BitVec.ofNat 6 (wbits v 34 6) }
      else c

/-- A word of partition `p`'s descriptor (R34); STATE stands as it is (R399). -/
def State.writePart (p off : Nat) (v : Word) (s : State) : State :=
  s.modPart p fun d =>
    if off = 0 then { d with
      partno := v.setWidth 8, known := decide (wbits v 0 8 = p) && decide (p ≠ 0), collo := BitVec.ofNat 4 (wbits v 8 4), rowlo := BitVec.ofNat 4 (wbits v 12 4),
      colhi := BitVec.ofNat 4 (wbits v 16 4), rowhi := BitVec.ofNat 4 (wbits v 20 4), key := BitVec.ofNat 14 (wbits v 24 14),
      keyslot := BitVec.ofNat 8 (wbits v 38 8) }
    else if off = 8 then { d with runlimit := v.setWidth 32, gbase := BitVec.ofNat 12 (wbits v 32 12), gcount := BitVec.ofNat 13 (wbits v 44 13) }
    else d

/-- CONFIG_REGISTER_WRITE (R4): offset `arg.a` of block `arg.blk` takes `arg.v`. An offset without a register is ignored, and so is one
whose write is a step of its own: a supervisor core's root, for one (R140). -/
def execConfigRegisterWrite (s : State) : Host.Outcome State Fault Refusal :=
  let off := s.arg.a
  let v := s.arg.v
  .next (match s.arg.blk with
    | .core c => s.writeCore c off v
    | .cluster k => s.writeCluster k off v
    | .launch => s.writeLaunch off v
    | .fabric => s.writeFabric off v
    | .chip => s.writeChip off v
    | .partition p => s.writePart p off v
    | .supervisor _ => s)

end Sys2Proof.Machine
end

