-- ==== Sys2Proof/Machine/Containment.lean ====
section
/-! DEFINITION. The containment reset of a partition's rectangle (R54, R278, R299, R322, R366, R371 to R374, R379), and the power states of a cluster (R394). -/

namespace Sys2Proof.Machine

/-! ## Containment reset -/

/-- Whether a core number names a compute core inside partition `p`'s rectangle on this chip. -/
def State.insideRect (s : State) (p n : Nat) : Bool :=
  decide (numChip n = s.chipNo) && !isSup (numCore n) && (s.part p).owns (clusterOf (numCore n))

/-- Breaks with RESET entry `i` of core `c` where it is pending inside partition `p`'s rectangle (R54): a promise, or an entry that has
moved, at LOC; any other at its own core. -/
def State.resetEntry (p c : Nat) (s : State) (i : Nat) : State :=
  let e := s.entry c i
  let at' := if e.role = 1 ∨ e.moved then e.loc else s.numOf c
  if e.st ≠ 1 ∨ e.role = 0 ∨ !s.insideRect p at' then s
  else if e.role = 1 then
    let h := s.handleOf c i 0
    s.resolveHome c h (Resol.brk rRESET (hWithKind h 1) 0) e.loc
  else s.resolveEntry c chainFuel i (Resol.brk rRESET (hWithKind e.w2 1) 0) true (s.numOf c)

/-- Message `m`, kept at core `c`, breaks with RESET; where no entry is free its notices leave all the same. -/
def State.resetMsg (c : Nat) (s : State) (m : Msg) : State :=
  match s.failMsg c m rRESET (ownOrigin m.reply) 0 with
  | some s => s
  | none => (((s.sendNotices c m.reply (m.breaks rRESET (ownOrigin m.reply) 0) m.sender).creditBack c m).expEnd c m.expansion rRESET)

/-- What waits at core `c` when the rectangle of partition `p` is reset: a break leaves now; a message whose next hop lies inside breaks
with RESET (R54); what only waited to leave is discarded (R373). -/
def State.resetHeld (p c : Nat) (s : State) (h : Held) : State :=
  match h with
  | .packet q => s.turnBack q
  | .brk reply loc r => if reply = 0 then s else s.sendNotices c reply r loc
  | .forward m dst _ => if s.insideRect p dst then s.resetMsg c m else s
  | .notice _ _ _ _ _ => s
  | .pair _ _ _ => s
  | .pass _ => s
  | .ask _ => s

/-- Breaks with RESET what core `c` holds: the entries pending inside the rectangle, and the messages kept here (R54). -/
def State.resetCore (p c : Nat) (s : State) : State :=
  let s := ((List.range 4096).drop 1).foldl (State.resetEntry p c) s
  let k := s.core c
  let s := s.modCore c fun k => { k with reorder := [], held := [] }
  k.held.foldl (State.resetHeld p c) (k.reorder.foldl (State.resetMsg c) s)

/-- The members inside a rectangle go without contributing; a group of the partition without child ports, all of whose clusters this
switch serves are the rectangle's (DEDUCED, log entry 10), frees its slots here and closes their instances (R366). -/
def State.resetGroups (p : Nat) (s : State) : State :=
  let d := s.part p
  let mine := fun (g : Nat) => decide ((s.group g).part.toNat = p) && decide ((s.group g).children = 0)
  let open' := s.fabric.rslots.filter fun r => mine r.2.group
  let s := s.modFabric fun f =>
    { f with members := f.members.filter fun m => !(decide (m.core < 2048) && d.owns (clusterOf m.core)),
             rslots := f.rslots.filter fun r => !mine r.2.group }
  open'.foldl (fun (s : State) r => s.modGroup r.2.group fun g => { g with closed := r.2.num :: g.closed.filter fun n => n ≠ r.2.num }) s

/-- The launch state of a partition empties (R322); places that its expansions held are free for heads of other queues (R310). -/
def State.resetLaunch (p : Nat) (s : State) : State :=
  State.post .launchRecordTake Arg.zero <| s.modLaunch fun l => { l with
    queues := l.queues.map fun e => (e.1, if e.2.part.toNat = p then { e.2 with recs := [] } else e.2),
    comps := l.comps.map fun e => (e.1, if e.2.part.toNat = p then { e.2 with recs := [], arm := none, regs := [] } else e.2),
    events := l.events.map fun e => (e.1, if e.2.part.toNat = p then { e.2 with count := 0, failed := false } else e.2),
    exps := l.exps.filter fun x => x.lrec.part ≠ p }

/-- Auctions of the slots of a rectangle are discarded, and their buffers freed (R299). -/
def State.resetAuctions (p : Nat) (s : State) : State :=
  let d := s.part p
  let gone := fun (a : Auction) => d.owns (clusterOf (coreOf a.slot))
  d.sectors.foldl (fun (s : State) i =>
    let ids := ((s.sector i).buffers.filter gone).map (·.id)
    (s.modSector i fun se =>
      { se with
        order := se.order.filter fun k => !d.owns (clusterOf (coreOf k)), buffers := se.buffers.filter fun a => !gone a,
        current := se.current.filter fun n => !ids.contains n, resume := se.resume.filter fun n => !ids.contains n }).post
          .auctionTake (arg1 i)) s

/-- Whether a home lies in the scratchpad of one of partition `d`'s clusters. -/
def Part.holds (d : Part) (h : Home) : Bool := match h with
  | .sram k _ => d.owns k
  | _ => false

/-- Retired writes into a rectangle that are not performed yet are discarded, whichever slot made them; they count as performed
(R177, R374). -/
def State.discardWrites (p : Nat) (s : State) : State :=
  let d := s.part p
  { s with slots := s.slots.map fun e => (e.1, e.2.dropStores fun w => d.holds w.home) }

/-- The slots of a rectangle stop without completing: a store of theirs that is not performed is discarded (R177, R374). -/
def State.stopSlots (p : Nat) (s : State) : State :=
  let d := s.part p
  { s with slots := s.slots.filter fun e => !(!isSup (coreOf e.1) && d.owns (clusterOf (coreOf e.1))), saved := del p s.saved }

/-- Packets on their way to a rectangle's cores are turned back. -/
def State.fence (p : Nat) (s : State) : State :=
  let d := s.part p
  let inside := fun (q : Packet) => q.body.forCore && !isSup (numCore q.dst) && d.owns (clusterOf (numCore q.dst))
  let l := s.net.filter inside
  l.foldl (fun (s : State) q => s.turnBack q) { s with net := s.net.filter fun q => !inside q }

/-- A held triggered command breaks with NACK (R247): each of its items fails, with its message (R149), and it completes with that status. -/
def State.breakHeld (s : State) (c : CopyCmd) : State :=
  let l := s.itemsLeft c 0
  let s := l.foldl (fun (s : State) x => s.engineFault c.core c.part (copySpec c.cluster 0) ⟨5, 0, x.2, none⟩) s
  s.finishAway (l.foldl (fun (c : CopyCmd) x => c.failItem x.1 5) { c with stage := .done }) 5 (s.byteCount c)

/-- The triggered commands of a partition that are held (R247): for a page, or, having met their counter, for the partition's restore. -/
def State.heldCommands (s : State) (p : Nat) : List CopyCmd :=
  match find? s.saved p with
  | none => (s.part p).clusters.flatMap fun cl => (s.cluster cl).pending.filter fun c => decide (c.stage = .held)
  | some v => v.pending.flatMap fun e => e.2.filter fun c => decide (c.stage = .held) || decide (c.stage = .fired) || (decide (c.stage = .armed) && c.met)

/-- Steps 1 to 3 of R373: the fence, everything stops, handles and groups are settled. Stores at a window port are still sent (R352). -/
def State.beginReset (p : Nat) (s : State) : State :=
  let d := s.part p
  let cs := coresOf d.clusters
  let s := (s.modPart p fun d => { d with st := 3 }).modChip fun c => { c with rstBusy := true }
  let s := (s.heldCommands p).foldl State.breakHeld s
  let s := (s.fence p).discardWrites p
  let s := ((s.stopSlots p).resetLaunch p).resetAuctions p
  let s := cs.foldl (fun (s : State) c => (s.resetCore p c).modCore c fun k => { k with xq := [], mq := [], anon := [], queues := [] }) s
  let s := d.clusters.foldl (fun (s : State) cl => s.modCluster cl fun k =>
    { k with pending := [], engine0 := Engine.idle, engine1 := Engine.idle, array := none }) s
  ((s.resetGroups p).fence p).post .containmentResetComplete (arg1 p)

/-- CONTAINMENT_RESET_GO (R372): the reset register takes `arg.v`; with GO the reset of PART begins, unless one runs or PART has no
descriptor. -/
def execContainmentResetGo (s : State) : Host.Outcome State Fault Refusal :=
  let v := s.arg.v
  let p := wbits v 0 8
  let go := v.getLsbD 8 && !s.chip.rstBusy && decide (p ≠ 0) && (s.part p).known
  let s := s.modChip fun c => { c with rstPart := BitVec.ofNat 8 p }
  .next (if go then s.beginReset p else s)

/-- The Meridian engine of the sector whose corner cluster is cleared: its bias vector, its generation and its freeze (R295, R371). -/
def State.clearEngine (cl : Nat) (s : State) : State :=
  let n := sectorOf cl
  if cl = cornerOf n then (s.modSector n fun e => { e with bias := [], gen := 0, frozen := false }).post .auctionTake (arg1 n) else s

/-- A cluster cleared as step 4 of R373 lays down: SRAM, L1, and every register at its reset value; the cores too, each quarantine
ending where its self-test passes (R379), which is a free value. The stores at its window port stay (R352). -/
def State.clearCluster (cl : Nat) (s : State) : State :=
  let s := ((s.flushL1 cl).clearSram cl 0 0x100000).setCluster cl { Cluster.reset with wq := (s.cluster cl).wq }
  let s := s.clearEngine cl
  (List.range 8).foldl (fun (s : State) i =>
    let c := cl * 8 + i
    let quar := (s.core c).quar && !Config.selfTest s.fresh c
    { s.setCore c { Core.reset with quar := quar } with fresh := s.fresh + 1 }) s

/-- CONTAINMENT_RESET_COMPLETE (R373, steps 4 and 5) of partition `arg.a`. -/
def execContainmentResetComplete (s : State) : Host.Outcome State Fault Refusal :=
  let p := s.arg.a
  .next (if (s.part p).st ≠ 3 then s
    else
      let cls := (s.part p).clusters
      let s := cls.foldl (fun (s : State) cl => s.clearCluster cl) ((s.fence p).stopSlots p)
      ((s.modPart p fun d => { d with st := 0 }).modChip fun c => { c with rstBusy := false }).record 0xD0 p (w64 cls.length) 0)

/-! ## Power (R394) -/

/-- Whether a slot of a cluster holds an activation, or a command of its engines or matrix unit is outstanding. -/
def State.clusterBusy (s : State) (cl : Nat) : Bool :=
  let k := s.cluster cl
  ((List.range 64).any fun i => (s.slot (cl * 64 + i)).active) ||
  ((List.range 8).any fun i => let c := s.core (cl * 8 + i)
    !c.xq.isEmpty || !c.mq.isEmpty || c.epi.running.isSome) ||
  !k.pending.isEmpty || k.engine0.cmd.isSome || k.engine1.cmd.isSome || k.array.isSome

/-- CLUSTER_POWER_REQUEST (R394): REQ of cluster `arg.a` takes `arg.v`; ignored while BUSY. -/
def execClusterPowerRequest (s : State) : Host.Outcome State Fault Refusal :=
  let cl := s.arg.a
  let r : BitVec 2 := s.arg.v.setWidth 2
  let k := s.cluster cl
  .next (if k.pbusy ∨ r = 3 then s
    else if r = k.pstate then s.modCluster cl fun k => { k with req := r }
    else (s.modCluster cl fun k => { k with req := r, pbusy := true }).post .clusterPowerChangeComplete (arg1 cl))

/-- What powering a cluster down takes away: its slots, its cores' and its own state (DESIGN CHOICE, log entry 30). The power register stays, and so
does a quarantine, which ends only as R379 says. -/
def State.powerDown (cl : Nat) (s : State) : State :=
  let k := s.cluster cl
  let q := (List.range 8).map fun i => (s.core (cl * 8 + i)).quar
  let s := { ((s.flushL1 cl).clearSram cl 0 0x100000) with slots := s.slots.filter fun e => !decide (e.1 / 64 = cl) }
  let s := s.setCluster cl { Cluster.reset with req := k.req, pstate := 0, pbusy := k.pbusy }
  (List.range 8).foldl (fun (s : State) i => s.setCore (cl * 8 + i) { Core.reset with quar := q.getD i false }) s

/-- CLUSTER_POWER_CHANGE_COMPLETE (R394): cluster `arg.a` reaches the state asked for; core-gated waits until nothing is outstanding, and
from off to on the SRAM is cleared. -/
def execClusterPowerChangeComplete (s : State) : Host.Outcome State Fault Refusal :=
  let cl := s.arg.a
  let k := s.cluster cl
  .next (if !k.pbusy then s
    else if k.req = 2 ∧ s.clusterBusy cl then s.defer
    else
      let s := if k.req = 0 then s.powerDown cl
        else if k.pstate = 0 then (s.flushL1 cl).clearSram cl 0 0x100000 else s
      let s := s.modCluster cl fun k => { k with pstate := k.req, pbusy := false }
      (List.range 8).foldl (fun (s : State) i => s.stir (cl * 8 + i)) s)

end Sys2Proof.Machine
end

