-- ==== Sys2Proof/Machine/Sha3.lean ====
section
/-! DEFINITION. SHA3-256 as FIPS 202 defines it, the hash that R386, R387 and R390 name (PRESUMED, log entry 7). -/

namespace Sys2Proof.Machine

/-- A state of Keccak: 25 lanes, the lane (x, y) at x + 5 y. -/
abbrev Lanes := List Word

def laneAt (a : Lanes) (x y : Nat) : Word := a.getD (x % 5 + 5 * (y % 5)) 0

/-- The lanes a function of their coordinates gives. -/
def lanesBy (f : Nat → Nat → Word) : Lanes := (List.range 25).map fun i => f (i % 5) (i / 5)

/-- The rotation of each lane in rho, by x + 5 y. -/
def rhoOffsets : List Nat :=
  [0, 1, 62, 28, 27, 36, 44, 6, 55, 20, 3, 10, 43, 25, 39, 41, 45, 15, 21, 8, 18, 2, 61, 56, 14]

/-- The constants of iota, by round. -/
def iotaConstants : List Word :=
  [0x0000000000000001, 0x0000000000008082, 0x800000000000808A, 0x8000000080008000, 0x000000000000808B, 0x0000000080000001,
   0x8000000080008081, 0x8000000000008009, 0x000000000000008A, 0x0000000000000088, 0x0000000080008009, 0x000000008000000A,
   0x000000008000808B, 0x800000000000008B, 0x8000000000008089, 0x8000000000008003, 0x8000000000008002, 0x8000000000000080,
   0x000000000000800A, 0x800000008000000A, 0x8000000080008081, 0x8000000000008080, 0x0000000080000001, 0x8000000080008008]

/-- Theta: every lane takes the parities of two columns. -/
def theta (a : Lanes) : Lanes :=
  let c := (List.range 5).map fun x => laneAt a x 0 ^^^ laneAt a x 1 ^^^ laneAt a x 2 ^^^ laneAt a x 3 ^^^ laneAt a x 4
  let d := (List.range 5).map fun x => c.getD ((x + 4) % 5) 0 ^^^ (c.getD ((x + 1) % 5) 0).rotateLeft 1
  lanesBy fun x y => laneAt a x y ^^^ d.getD x 0

/-- Rho and pi: each lane is rotated, and goes to its new place. -/
def rhoPi (a : Lanes) : Lanes := lanesBy fun x y => (laneAt a (x + 3 * y) x).rotateLeft (rhoOffsets.getD ((x + 3 * y) % 5 + 5 * x) 0)

/-- Chi: the non-linear step along a row. -/
def chi (a : Lanes) : Lanes := lanesBy fun x y => laneAt a x y ^^^ (~~~laneAt a (x + 1) y &&& laneAt a (x + 2) y)

/-- A round with its constant. -/
def keccakRound (a : Lanes) (rc : Word) : Lanes :=
  match chi (rhoPi (theta a)) with
  | [] => []
  | l :: ls => (l ^^^ rc) :: ls

def keccak (a : Lanes) : Lanes := iotaConstants.foldl keccakRound a

/-- The doublewords of a byte string, eight bytes each. -/
def wordsOf : Nat → List Byte → List Word
  | 0, _ => []
  | n + 1, l => w64 (ofBytes (l.take 8)) :: wordsOf n (l.drop 8)

/-- A block of 136 bytes is absorbed. -/
def absorb (a : Lanes) (b : List Byte) : Lanes := keccak ((a.zip (wordsOf 17 b ++ List.replicate 8 0)).map fun x => x.1 ^^^ x.2)

/-- The last block: what is left of the string, the suffix 01 and the padding 10*1. -/
def padded (l : List Byte) : List Byte :=
  if l.length = 135 then l ++ [0x86] else l ++ [0x06] ++ List.replicate (134 - l.length) 0 ++ [0x80]

/-- All blocks of a byte string absorbed; `n` bounds them. -/
def absorbAll : Nat → Lanes → List Byte → Lanes
  | 0, a, l => absorb a (padded l)
  | n + 1, a, l => if l.length < 136 then absorb a (padded l) else absorbAll n (absorb a (l.take 136)) (l.drop 136)

/-- SHA3-256 of a byte string, its first byte lowest. -/
def sha3 (l : List Byte) : BitVec 256 :=
  BitVec.ofNat 256 (ofBytes (((absorbAll (l.length / 136) (List.replicate 25 0) l).take 4).flatMap fun w => toBytes 8 w.toNat))

end Sys2Proof.Machine
end

