-- ==== Sys2Proof/Machine/Astrolabe.lean ====
section
/-! DEFINITION. Astrolabe: the mailbox and its requests (R383, R385 to R388), fatal errors (R389, R396), chip reset and bring-up (R382, R391), and the correction of TIME (R393). -/

namespace Sys2Proof.Machine

/-! ## The mailbox (R385) -/

def stDONE : BitVec 8 := 0
def stREFUSED : BitVec 8 := 1
def stBADARG : BitVec 8 := 2
def stNOJOB : BitVec 8 := 3

/-- A request's start: ignored while one runs, refused while a fatal dump is written; `f` does it and answers its status, BUSY
standing until the request completes. -/
def State.mailbox (op : Nat) (f : Nat → Nat → State → BitVec 8 × State) (s : State) : State :=
  if s.chip.mail.isSome then s
  else
    let a := s.arg.a % 256
    let buf := s.arg.v.toNat % 2 ^ 48
    match if s.halted.isSome then (stREFUSED, s) else f a buf s with
    | (st, s) => (s.modChip fun c => { c with mail := some ⟨BitVec.ofNat 8 op, BitVec.ofNat 8 a, BitVec.ofNat 48 buf, st⟩ }).post
        .mailboxRequestComplete Arg.zero

/-- The buffer of a request: 64-aligned. -/
def bufBase (buf : Nat) : Nat := buf / 64 * 64

/-- The home of bytes of a request's buffer, under supervisor core 0's root (DEDUCED, log entry 27); none where a check fails. -/
def State.bufHome (va n : Nat) (need : Need) (s : State) : Option Home :=
  match s.check 2048 (w64 va) n need with
  | (.ok h, _) => some h
  | _ => none

/-- `n` bytes of one line of a buffer; none where they cannot be read. -/
def State.bufRead (va n : Nat) (s : State) : Option (List Byte) :=
  match s.bufHome va n .engineRead with
  | none => none
  | some h => if s.homePoison h then none else some (s.homeBytes h n)

/-- Bytes written to a buffer, line by line; none where a line cannot be written. `n` bounds the lines. -/
def State.bufWrite : Nat → Nat → List Byte → State → Option State
  | 0, _, _, s => some s
  | _, _, [], s => some s
  | n + 1, va, l, s => match s.bufHome va (Nat.min 64 l.length) .engineWrite with
    | none => none
    | some h => State.bufWrite n (va + 64) (l.drop 64) (s.engineWrite h (l.take 64) false)

/-- 32 bytes taken from a buffer of 4096, all of which is then zeroed. -/
def State.bufTake (va : Nat) (s : State) : Option (BitVec 256 × State) :=
  match s.bufRead va 32 with
  | none => none
  | some l => (s.bufWrite 64 va (List.replicate 4096 0)).map fun s => (BitVec.ofNat 256 (ofBytes l), s)

/-- MAILBOX_LOADKEY (R383, R385): a fresh random key into slot ARG. -/
def execMailboxLoadkey (s : State) : Host.Outcome State Fault Refusal :=
  .next (s.mailbox 1 fun a _ s =>
    if a = 0 then (stBADARG, s)
    else
      let (n, s) := s.number
      (stDONE, s.modChip fun c => { c with keys := put a ⟨true, (look KeySlot.reset c.keys a).loads + 1, n⟩ c.keys }))

/-- MAILBOX_ERASEKEY (R383, R385): slot ARG is emptied. -/
def execMailboxErasekey (s : State) : Host.Outcome State Fault Refusal :=
  .next (s.mailbox 2 fun a _ s =>
    if a = 0 then (stBADARG, s)
    else (stDONE, s.modChip fun c => { c with keys := put a { look KeySlot.reset c.keys a with loaded := false } c.keys }))

/-- MAILBOX_LINKKEY (R384, R385): the next key of port ARG. The receiving direction waits for the other end's marker; the sending one issues its own
marker as the request is done (DESIGN CHOICE, log entry 90). -/
def execMailboxLinkkey (s : State) : Host.Outcome State Fault Refusal :=
  .next (s.mailbox 3 fun a buf s =>
    if 8 ≤ a then (stBADARG, s)
    else match s.bufTake (bufBase buf) with
      | none => (stBADARG, s)
      | some (k, s) =>
        (stDONE, ((s.modChip fun c => { c with linkKeys := put (4 * a + 2) k c.linkKeys }).modPort a fun p => { p with nextKey := true }).rekeyOut a k))

/-- MAILBOX_FLOWKEY (R384, R385): the next key of flow ARG * 16 + BUF[3:0], which the two directions take as those of a port do. -/
def execMailboxFlowkey (s : State) : Host.Outcome State Fault Refusal :=
  .next (s.mailbox 4 fun a buf s =>
    match s.bufTake (bufBase buf) with
    | none => (stBADARG, s)
    | some (k, s) => let n := a * 16 + buf % 16
        (stDONE, (s.modChip fun c => { c with flowKeys := put (4 * n + 2) k c.flowKeys }).rekeyFlow n k))

/-! ## Job records (R386, R387) -/

def digestBytes (d : BitVec 256) : List Byte := toBytes 32 d.toNat

/-- Bytes 0 to 371 of a job record. -/
def State.jobHead (s : State) (kind : Nat) (handle : Word) (desc : List Byte) (start : BitVec 256) : List Byte :=
  toBytes 4 0x4A534A52 ++ toBytes 2 1 ++ toBytes 1 kind ++ toBytes 1 0 ++ toBytes 8 handle.toNat ++ desc ++ toBytes 8 s.time.toNat ++
  toBytes 8 (s.chip.counter + 1).toNat ++ digestBytes s.chip.prev ++ ((List.range 8).flatMap fun i => digestBytes (look 0 s.chip.meas i)) ++
  digestBytes start ++ toBytes 4 2420

/-- A whole record of 2792 bytes, its signature a free value, and the state once it is signed. -/
def State.jobRecord (kind : Nat) (handle : Word) (desc : List Byte) (start : BitVec 256) (s : State) : List Byte × State :=
  let head := s.jobHead kind handle desc start
  let r := head ++ (List.range 2420).map fun i => Config.signature s.fresh (digestBytes (sha3 head)) i
  (r, { s with fresh := s.fresh + 1 }.modChip fun c => { c with counter := c.counter + 1, prev := sha3 r })

/-- The handle and the descriptor a job request gives in its buffer. -/
def State.jobRequest (buf : Nat) (s : State) : Option (Word × List Byte) :=
  (s.bufRead (bufBase buf) 32).map fun l => (w64 (ofBytes (l.take 8)), l.drop 16)

def State.openJob (s : State) (h : Word) : Option (BitVec 256) := (s.chip.jobs.find? fun e => e.1 = h).map (·.2)

/-- MAILBOX_JOBSTART (R387): the start record of a job not yet open, of at most 64. -/
def execMailboxJobstart (s : State) : Host.Outcome State Fault Refusal :=
  .next (s.mailbox 5 fun _ buf s =>
    match s.jobRequest buf with
    | none => (stBADARG, s)
    | some (h, d) =>
      if (s.openJob h).isSome ∨ 64 ≤ s.chip.jobs.length then (stREFUSED, s)
      else match s.jobRecord 1 h d 0 with
        | (r, s') => match s'.bufWrite 44 (bufBase buf) r with
          | none => (stBADARG, s)
          | some s => (stDONE, s.modChip fun c => { c with jobs := c.jobs ++ [(h, sha3 r)] }))

/-- MAILBOX_JOBEND (R387): the end record of an open job. -/
def execMailboxJobend (s : State) : Host.Outcome State Fault Refusal :=
  .next (s.mailbox 6 fun _ buf s =>
    match s.jobRequest buf with
    | none => (stBADARG, s)
    | some (h, d) => match s.openJob h with
      | none => (stNOJOB, s)
      | some start => match s.jobRecord 2 h d start with
        | (r, s') => match s'.bufWrite 44 (bufBase buf) r with
          | none => (stBADARG, s)
          | some s => (stDONE, s.modChip fun c => { c with jobs := c.jobs.filter fun e => e.1 != h }))

/-- A measurement register extended (R386). -/
def State.extend (i : Nat) (d : BitVec 256) (s : State) : State :=
  s.modChip fun c => { c with meas := put i (sha3 (digestBytes (look 0 c.meas i) ++ digestBytes d)) c.meas }

/-- MAILBOX_EXTEND (R386): register ARG, 4 to 7, extended with the 32 bytes at BUF. -/
def execMailboxExtend (s : State) : Host.Outcome State Fault Refusal :=
  .next (s.mailbox 7 fun a buf s =>
    if a < 4 ∨ 7 < a then (stBADARG, s)
    else match s.bufRead (bufBase buf) 32 with
      | none => (stBADARG, s)
      | some l => (stDONE, s.extend a (BitVec.ofNat 256 (ofBytes l))))

/-- MAILBOX_INVALID_OP (R385): any other OP, `arg.a`. -/
def execMailboxInvalidOp (s : State) : Host.Outcome State Fault Refusal :=
  .next (s.mailbox (s.arg.a % 256) fun _ _ s => (stBADARG, s))

/-- MAILBOX_REQUEST_COMPLETE (R385, R388): STATUS is set and BUSY clears. -/
def execMailboxRequestComplete (s : State) : Host.Outcome State Fault Refusal :=
  .next (match s.chip.mail with
    | none => s
    | some m => s.modChip fun c => { c with mail := none, mstatus := m.status })

/-! ## Fatal errors (R389, R396) -/

/-- WATCHDOG_EXPIRY (R389): the watchdog doubleword has not been written for 1 s. -/
def execWatchdogExpiry (s : State) : Host.Outcome State Fault Refusal :=
  .next (if s.chip.wdog + 10 ^ 9 ≤ s.cycle then s.fatal 4 else s)

/-- ASTROLABE_MEMORY_ERROR (R389). -/
def execAstrolabeMemoryError (s : State) : Host.Outcome State Fault Refusal := .next (s.fatal 3)

/-- THERMAL_THRESHOLD (R396): sensor `arg.a` has reached `arg.b` m°C. -/
def execThermalThreshold (s : State) : Host.Outcome State Fault Refusal :=
  let n := s.arg.a
  let t := s.arg.b
  .next (if 110000 ≤ t then s.fatal 5
    else if t < 100000 then s
    else
      let s := (List.range 16).foldl (fun (s : State) i => s.modCluster (cornerOf i) fun k => { k with budget := 8 }) s
      (s.modChip fun c => { c with thermal := s.cycle + 1 }).record 0xE0 n (w64 t) 0)

/-! ## Time (R393) -/

/-- TIME_CORRECTION (R393): TIME is `arg.a` ns behind, or ahead where `arg.ok`; the correction is slewed in as cycles pass. -/
def execTimeCorrection (s : State) : Host.Outcome State Fault Refusal :=
  let n : Int := (s.arg.a : Nat)
  .next (s.modChip fun c => { c with slew := if s.arg.ok then -n else n })

/-- `n` cycles pass: CYCLE counts them, and TIME with it, corrected by at most 200 ppm, one ns in 5000 (R392, R393). -/
def State.pass (n : Nat) (s : State) : State :=
  let c := s.chip
  let due := (c.slewed + n) / 5000
  let k := Nat.min due c.slew.natAbs
  let dt : Int := if c.slew < 0 then -(k : Int) else k
  { s with
    cycle := s.cycle + n, time := s.time + w64 ((n : Int) + dt).toNat,
    chip := { c with slew := c.slew - dt, slewed := (c.slewed + n) % 5000 } }

/-! ## Chip reset (R382, R391) -/

/-- What Astrolabe's non-volatile storage, and the memory tier in self-refresh, keep over a reset. -/
def State.kept (s : State) : State :=
  { State.reset with
    mem := s.mem.filter fun e => decide (e.1 < 2 ^ 40),
    poison := s.poison.filter fun e => decide (e.1 < 2 ^ 34),
    errors := s.errors, written := s.written, serial := s.serial, fresh := s.fresh, agenda := s.agenda,
    chip := { Chip.reset with counter := s.chip.counter, prev := s.chip.prev, repair := s.chip.repair, pendRep := s.chip.pendRep, mgmt := s.chip.mgmt } }

/-- A repair entry without its position: the row it lies in, with its channel. -/
def rowEntry (e : Nat × BitVec 32) : Nat × BitVec 32 := (e.1, e.2 &&& ~~~0x7F#32)

/-- Step 2 of R391: pending repairs are applied row by row, and what is repaired leaves the list and the table (R382); a repaired row has no bad
symbol; key slot 0 is loaded (R383); M1 is extended with the results. -/
def State.openTier (s : State) : State :=
  let done := fun (e : Nat × BitVec 32) => Config.repaired s.fresh (rowEntry e)
  let left := s.chip.pendRep.filter fun e => !done e
  let mended := fun (line : Nat) => s.chip.pendRep.any fun e => done e && decide (rowEntry e = ((Config.channelOf line).toNat, repairEntry line 0))
  let t := { s with fresh := s.fresh + 1, errors := s.errors.filter fun e => !mended e.1 }.modChip fun c =>
    { c with keys := put 0 ⟨true, 1, 0⟩ c.keys, pendRep := left, repair := left }
  t.extend 1 (Config.tierResults s.fresh s.chip.pendRep left)

/-- The measurement of the firmware that step `n` of the boot loads (R386, R391). -/
def State.measure (i n : Nat) (s : State) : State := { s with fresh := s.fresh + 1 }.extend i (Config.firmware s.fresh n)

/-- A boot reports over the management port. -/
def State.reports (m : Mgmt) (s : State) : State := s.modChip fun c => { c with mgmt := c.mgmt ++ [m] }

/-- A boot step fails: the chip halts, and the step's number is reported (R391). -/
def State.bootFails (n : Nat) (s : State) : State := { s.reports (.failed n) with halted := some (16 + n) }

/-- CHIP_RESET (R382, R386, R391): the boot sequence; step `arg.a` fails where that is not 0, and the chip halts. Supervisor core 0 is released at
its firmware's entry; links and Ethernet ports take traffic once the last step has ended. -/
def execChipReset (s : State) : Host.Outcome State Fault Refusal :=
  let bad := s.arg.a
  let s := s.kept
  .next (if bad = 1 then s.bootFails 1
    else
      let s := (s.measure 0 1).reports (.publicKey Config.publicKey)
      if bad = 2 then s.bootFails 2
      else
        let s := s.openTier
        let s := s.reports (.erasures s.chip.repair)
        if bad = 3 then s.bootFails 3
        else
          let s := s.measure 2 3
          let s := { s.modSlot 16384 fun sl => { sl with active := true, pc := evenPc Config.firmwareEntry } with focus := 2048 }
          if bad = 4 then s.bootFails 4 else (s.measure 3 4).modChip fun c => { c with opened := true })

end Sys2Proof.Machine
end

