-- ==== Sys2Proof/Machine/Compressed.lean ====
section
/-! DEFINITION. The 16-bit forms (R64): each acts as the 32-bit instruction it expands to, is two bytes long and has no stall count. -/

namespace Sys2Proof.Machine

/-- A result of latency 1 in an x register, and the end of a 16-bit form. -/
def State.aluC (rd : Reg) (v : Word) (s : State) : State := (s.setX rd v).retire 2 0

/-- `c.mv`: add rd, x0, rb. -/
def execCMv (rd rb : Reg) (s : State) : Host.Outcome State Fault Refusal := .next (s.aluC rd (s.x rb))

/-- `c.add`: add rd, rd, rb. -/
def execCAdd (rd rb : Reg) (s : State) : Host.Outcome State Fault Refusal := .next (s.aluC rd (s.x rd + s.x rb))

/-- `c.sub`: sub rd, rd, rb. -/
def execCSub (rd rb : Reg) (s : State) : Host.Outcome State Fault Refusal := .next (s.aluC rd (s.x rd - s.x rb))

/-- `c.addi`: addi rd, rd, imm. -/
def execCAddi (rd : Reg) (imm : BitVec 6) (s : State) : Host.Outcome State Fault Refusal := .next (s.aluC rd (s.x rd + sx imm))

/-- `c.li`: addi rd, x0, imm. -/
def execCLi (rd : Reg) (imm : BitVec 6) (s : State) : Host.Outcome State Fault Refusal := .next (s.aluC rd (sx imm))

/-- `c.and`: and rd, rd, rb. -/
def execCAnd (rd rb : Reg) (s : State) : Host.Outcome State Fault Refusal := .next (s.aluC rd (s.x rd &&& s.x rb))

/-- `c.or`: or rd, rd, rb. -/
def execCOr (rd rb : Reg) (s : State) : Host.Outcome State Fault Refusal := .next (s.aluC rd (s.x rd ||| s.x rb))

/-- `c.slli`: slli rd, rd, sh. -/
def execCSlli (rd : Reg) (h : BitVec 6) (s : State) : Host.Outcome State Fault Refusal := .next (s.aluC rd (s.x rd <<< h.toNat))

/-- `c.srli`: srli rd, rd, sh. -/
def execCSrli (rd : Reg) (h : BitVec 6) (s : State) : Host.Outcome State Fault Refusal := .next (s.aluC rd (s.x rd >>> h.toNat))

/-- The address of a CM form: x[ra] + 8 × off1. -/
def State.cmAddr (ra : Reg) (o : BitVec 1) (s : State) : Word := s.x ra + w64 (8 * o.toNat)

/-- `c.ld`: ld.d rd, off(ra). -/
def execCLd (rd ra : Reg) (o : BitVec 1) (s : State) : Host.Outcome State Fault Refusal :=
  .next (s.load (.cLd rd ra o) (s.cmAddr ra o) 8 rd false true 0)

/-- `c.sd`: st.d rd, off(ra). -/
def execCSd (rd ra : Reg) (o : BitVec 1) (s : State) : Host.Outcome State Fault Refusal :=
  .next (s.storeX (s.cmAddr ra o) 8 (s.x rd) 2 0)

/-- `c.beqz`: beq ra, x0, label. -/
def execCBeqz (ra : Reg) (o : BitVec 6) (s : State) : Host.Outcome State Fault Refusal := .next (s.branch 2 (s.x ra = 0) o)

/-- `c.bnez`: bne ra, x0, label. -/
def execCBnez (ra : Reg) (o : BitVec 6) (s : State) : Host.Outcome State Fault Refusal := .next (s.branch 2 (s.x ra ≠ 0) o)

/-- `c.j`: jal x0, label. -/
def execCJ (o : BitVec 11) (s : State) : Host.Outcome State Fault Refusal := .next (s.jump (s.target o) 0)

/-- `c.done`: done. -/
def execCDone (s : State) : Host.Outcome State Fault Refusal := .next s.doneOrWait

end Sys2Proof.Machine
end

