-- ==== Sys2Proof/Machine/Windows.lean ====
section
/-! DEFINITION. Windows (R332 to R352): arrival and placement, answers, relays and chains, messages and their signals, reflection fences, closing, far resends and rate groups. -/

namespace Sys2Proof.Machine

/-! ## Arrival (R339, R340) -/

def State.rx (s : State) (n : Nat) : RxEnt := look RxEnt.reset s.fabric.rx n
def State.modRx (n : Nat) (f : RxEnt → RxEnt) (s : State) : State :=
  s.modFabric fun fb => { fb with rx := put n (f (look RxEnt.reset fb.rx n)) fb.rx }

/-- The page-list entry of a window offset (R336), read as a translation table is (DEDUCED, log entry 22). -/
def State.pageEntry (s : State) (r : RxEnt) (off : Nat) : Word := s.tableEntry (r.plist.toNat + 8 * (off / 65536))

/-- The home of a window offset: its page's slice, under the entry's key slot. -/
def State.windowHome (s : State) (r : RxEnt) (off : Nat) : Home :=
  let e := s.pageEntry r off
  .dram (wbits e 16 8) (wbits e 40 24 * 65536 + off % 65536) 1 r.keyslot.toNat

/-- The bytes a packet covers. -/
def WPack.size (p : WPack) : Nat := match p.op with
  | .get n => n
  | _ => p.bytes.length

/-- The sender bitmap's bit for a chip (R335). -/
def State.senderBit (s : State) (r : RxEnt) (chip : Nat) : Bool :=
  (s.homeByte (tableHome (r.smap.toNat + chip / 8))).getLsbD (chip % 8)

/-- The rows of R339, in order: the status of the first that applies, and whether it is that of the key. The last also turns away what has its
home in a cluster without power (R394). -/
def State.refusal (s : State) (p : WPack) : Option (Nat × Bool) :=
  let r := s.rx p.window
  let stale := match p.op with
    | .store g _ => decide (g ≠ r.gen)
    | _ => false
  let reduces := match p.op with
    | .reduce _ _ => true
    | _ => false
  let own := decide (p.src = s.chipNo)
  let pages := (List.range ((p.off % 65536 + p.size + 65535) / 65536)).map fun i => p.off / 65536 * 65536 + 65536 * i
  if decide (r.st ≠ 1) || stale then some (6, false)
  else if p.key ≠ (s.part r.part.toNat).key then some (5, true)
  else if own && !r.loopback || !own && r.sendmap && !s.senderBit r p.src then some (5, false)
  else if decide (65536 * r.size.toNat < p.off + p.size) || pages.any (fun o => !(s.pageEntry r o).getLsbD 0) then some (5, false)
  else if reduces && !r.redok then some (7, false)
  else if pages.any fun o => let k := wbits (s.pageEntry r o) 16 8
    s.resetting k || !s.powered k then some (5, false)
  else none

/-- Writes a run of bytes of a window, line by line (R340); `base` is the window offset from which the poisoned ranges count. -/
def State.placeRun (r : RxEnt) (bad : List (Nat × Nat)) (base : Nat) : List (Word × Nat) → List Byte → State → State
  | [], _, s => s
  | (o, n) :: l, b, s =>
    State.placeRun r bad base l (b.drop n) (s.engineWrite (s.windowHome r o.toNat) (b.take n) (meets bad (o.toNat - base) n))

/-- One element of a reduction after the other, from window offset `off` on, at its home (R240). -/
def State.reduceRun (r : RxEnt) (op rfmt base : Nat) (bad : List (Nat × Nat)) : Nat → Nat → List Byte → State → State
  | 0, _, _, s => s
  | f + 1, off, b, s =>
    let k := reduceBytes rfmt
    if b.length < k then s else
    let ps := linePieces 10 (w64 off) k
    let old := ps.flatMap fun x => s.homeBytes (s.windowHome r x.1.toNat) x.2
    let s := s.placeRun r bad base ps (toBytes k (reduceElem op rfmt (ofBytes old) (ofBytes (b.take k))))
    State.reduceRun r op rfmt base bad f (off + k) (b.drop k) s

/-- Places a packet that its checks allow. -/
def State.placePacket (p : WPack) (s : State) : State :=
  let r := s.rx p.window
  match p.op with
  | .reduce op fmt => s.reduceRun r op.toNat fmt.toNat p.off p.poison p.bytes.length p.off p.bytes
  | _ => s.placeRun r p.poison p.off (linePieces (p.bytes.length + 1) (w64 p.off) p.bytes.length) p.bytes

/-- The signal of a complete message (R346): the doubleword at SIGOFF gains 1 and becomes full. -/
def State.signal (window : Nat) (s : State) : State :=
  let r := s.rx window
  let off := r.sigoff.toNat * 8
  if !r.sigen || decide (65536 * r.size.toNat < off + 8) || !(s.pageEntry r off).getLsbD 0 then s
  else
    let h := s.windowHome r off
    let v := s.word8 h + 1
    (s.homeWrite h (toBytes 8 v.toNat)).fillWord h

/-- Counts a placed packet of a message that arrives in order, told by the chip that issued it; a complete one signals. -/
def State.countPacket (p : WPack) (s : State) : State :=
  let from' := numChip p.core
  let mine := fun (m : FarMsg) => decide (m.src = from') && decide (m.id = p.msgId)
  let old := (s.fabric.inMsgs.find? mine).getD ⟨from', p.msgId, [], 0, none⟩
  let m := { old with got := old.got + 1 }
  let rest := s.fabric.inMsgs.filter fun m => !mine m
  let s := s.modFabric fun fb => { fb with inMsgs := if p.index + 1 = p.total then rest else rest ++ [m] }
  if m.got = p.total then s.signal p.window else s

/-! ## Onward copies (R338, R361) -/

/-- A closing entry whose notices and packets are all answered is closed. -/
def State.tryClosed (n : Nat) (s : State) : State :=
  let r := s.rx n
  if r.st = 2 ∧ r.pending = 0 ∧ r.taken = 0 then s.modRx n fun r => { r with st := 0 } else s

/-- Holds a packet's answer back until `n` onward copies are answered. -/
def State.holdAnswer (p : WPack) (n status : Nat) (s : State) : State :=
  (s.modRx p.window fun r => { r with taken := r.taken + 1 }).modFabric fun fb =>
    { fb with relaying := fb.relaying ++ [⟨p, n, BitVec.ofNat 8 status⟩] }

/-- A placed store that is relayed: on through the transmit entry of the window's number (R338). -/
def State.relay (p : WPack) (s : State) : State :=
  let t := look TxEnt.reset s.fabric.tx p.window
  let ds := (List.range 16).filter fun i => (look Recv.reset t.recv i).valid
  if 8 ≤ p.relays then s.answerTo p 5 [] false
  else if !t.valid || decide ((s.part t.part.toNat).key ≠ p.key) || decide (65536 * t.size.toNat < p.off + p.bytes.length) then
    s.answerTo p 4 [] false
  else if ds.isEmpty then s.answerTo p 0 [] false
  else ds.foldl (fun (s : State) i =>
    let r := look Recv.reset t.recv i
    s.sendWin { WPack.blank with
      dst := r.chip.toNat, core := s.chipNo * 2048, txwin := p.window, recv := i, window := r.window.toNat, off := p.off,
      bytes := p.bytes, op := .store r.gen r.relay, key := (s.part t.part.toNat).key, poison := p.poison, relays := p.relays + 1,
      relayOf := some (p.src, p.id) }) (s.holdAnswer p ds.length 0)

/-- A packet of a chain goes on to the next chip, and is answered after it (R361). -/
def State.passChain (p : WPack) (status : Nat) (s : State) : State :=
  match p.chain with
  | [] => s.answerTo p (BitVec.ofNat 8 status) [] false
  | c :: l => (s.holdAnswer p 1 status).sendWin
      { p with dst := c, chain := l, serial := 0, tracker := 0, far := none, relayOf := some (p.src, p.id) }

/-- An answer for a packet that passed another on: the first failure is kept, and the last answer lets its own go. -/
def State.onwardAnswer (key : Nat × Nat) (status : BitVec 8) (s : State) : State :=
  match s.fabric.relaying.find? fun r => decide ((r.orig.src, r.orig.id) = key) with
  | none => s
  | some r =>
    let rest := s.fabric.relaying.filter fun r => !decide ((r.orig.src, r.orig.id) = key)
    let r := { r with left := r.left - 1, status := if r.status = 0 then status else r.status }
    if r.left ≠ 0 then s.modFabric fun fb => { fb with relaying := rest ++ [r] }
    else
      (((s.modFabric fun fb => { fb with relaying := rest }).modRx r.orig.window fun x => { x with taken := x.taken - 1 }).answerTo
        r.orig r.status [] false).tryClosed r.orig.window

/-! ## Packets at the receiving switch -/

/-- A packet checked, placed and answered or passed on; `count` where its message is counted here. -/
def State.takeWin (p : WPack) (count : Bool) (s : State) : State :=
  match s.refusal p with
  | some (st, key) =>
    let s := if key then s.record 9 (0xFF + p.core % 2 ^ 32 * 2 ^ 16) (w64 p.window) (w64 p.off) else s
    s.passChain p st
  | none =>
    match p.op with
    | .get n =>
      let r := s.rx p.window
      let ps := linePieces (n + 1) (w64 p.off) n
      let s := ps.foldl (fun (s : State) x => s.touch (s.windowHome r x.1.toNat)) s
      s.answerTo p 0 (ps.flatMap fun x => s.homeBytes (s.windowHome r x.1.toNat) x.2)
        (ps.any fun x => s.homePoison (s.windowHome r x.1.toNat))
    | .store _ relay => let s := s.placePacket p
                        if relay then s.relay p else s.answerTo p 0 [] false
    | _ => let s := s.placePacket p
           (if count then s.countPacket p else s).passChain p 0

/-- A packet of a connectionless message (R349): its table entry, the tombstone, the signal at the last packet. -/
def State.takeFar (p : WPack) (s : State) : State :=
  let mine := fun (m : FarMsg) => decide (m.src = p.src) && decide (m.id = p.msgId)
  match s.fabric.farTab.find? mine with
  | some m =>
    if m.tomb.isSome || m.seen.contains p.index then s.answerTo p 0 [] false
    else
      let ok := (s.refusal p).isNone
      let s := s.takeWin p false
      if !ok then s
      else
        let m := { m with seen := p.index :: m.seen, got := m.got + 1 }
        let full := decide (m.got = p.total)
        let m := { m with tomb := if full then some s.cycle else none }
        let s := s.modFabric fun fb => { fb with farTab := fb.farTab.filter (fun x => !mine x) ++ [m] }
        let sig := match p.op with
          | .store _ _ => false
          | _ => true
        if full then (if sig then s.signal p.window else s).post .tombstoneExpiry (arg2 p.src p.msgId) else s
  | none =>
    if 256 ≤ s.fabric.farTab.length then s
    else
      let ok := (s.refusal p).isNone
      let full := ok && decide (p.total = 1)
      let m : FarMsg := ⟨p.src, p.msgId, if ok then [p.index] else [], if ok then 1 else 0, if full then some s.cycle else none⟩
      let s := (s.modFabric fun fb => { fb with farTab := fb.farTab ++ [m] }).takeWin p false
      let sig := match p.op with
        | .store _ _ => false
        | _ => true
      if full then (if sig then s.signal p.window else s).post .tombstoneExpiry (arg2 p.src p.msgId) else s

/-- Whether a packet has others before it on its path that go first: a reflected store, those to its window (R174, R338); a packet of a
remote write, those of writes to its window (R361); a get, every placement (R347). -/
def State.behind (s : State) (p : WPack) : Bool :=
  let first := fun (q : WPack) => decide (q.src = p.src) && match p.op, q.op with
    | _, .get _ => false
    | .get _, _ => true
    | .store _ _, .store _ _ => decide (q.window = p.window)
    | .store _ _, _ => false
    | _, .store _ _ => false
    | _, _ => decide (q.window = p.window)
  (s.fabric.flying.takeWhile fun q => !(decide (q.id = p.id) && decide (q.src = p.src))).any first

/-- WINDOW_ARRIVAL (R339): packet `arg.a` of chip `arg.b`. Packets of one path are placed in the order in which they left (R174, R357), but
not those of a connectionless far chip (R349). On a queue pair only the expected number is accepted, and another is dropped
with a NACK that carries the expected one (R350). -/
def execWindowArrival (s : State) : Host.Outcome State Fault Refusal :=
  let mine := fun (p : WPack) => decide (p.id = s.arg.a) && decide (p.src = s.arg.b)
  .next (match s.fabric.flying.find? mine with
    | none => s
    | some p =>
      let near := decide (p.src = s.chipNo) || (s.routeEntry p.src).getLsbD 0
      if near && s.behind p then s.defer else
      let s := s.modFabric fun fb => { fb with flying := fb.flying.filter fun x => !mine x }
      let get := match p.op with
        | .get _ => true
        | _ => false
      if near then s.takeWin p true
      else match s.farEntry p.src with
        | none => s
        | some i =>
          let f := look FarD.reset s.fabric.far i
          if f.qp then
            (if p.seq ≠ look 0 s.fabric.recvSeq f.conn.toNat then s.etherSend i (.expected i p (look 0 s.fabric.recvSeq f.conn.toNat))
             else (s.modFabric fun fb => { fb with recvSeq := put f.conn.toNat (p.seq + 1) fb.recvSeq }).takeWin p true)
          else if get then s.takeWin p false
          else s.takeFar p)

/-! ## Answers (R341, R346, R351) -/

/-- An answer over Ethernet moves its rate group: an echo halves RATE, once per SRTT, and SRTT follows the answers (R351). What this chip answers
itself, at a time-out or where nothing leads there, is none. -/
def State.rateAnswer (p : WPack) (a : WAns) (s : State) : State :=
  match p.far with
  | none => s
  | some i =>
    if a.src = s.chipNo then s else
    let g := (look FarD.reset s.fabric.far i).rgroup.toNat
    let r := look RGroup.reset s.fabric.rates g
    let half := a.echo && !r.halved
    let r := { r with
      srtt := BitVec.ofNat 24 (Config.freeData s.fresh).toNat, halved := r.halved || half,
      rate := if half then (if r.rate.toNat / 2 = 0 then 1 else BitVec.ofNat 20 (r.rate.toNat / 2)) else r.rate,
      since := if r.timer then r.since else s.cycle, timer := true }
    let start := !(look RGroup.reset s.fabric.rates g).timer
    let s := { s with fresh := s.fresh + 1 }.modFabric fun fb => { fb with rates := put g r fb.rates }
    if start then s.post .rateIncrease (arg1 g) else s

/-- The answer to packet `id` and the packet, both taken out. -/
def State.takeAnswer (id : Nat) (s : State) : Option (WPack × WAns × State) :=
  match s.fabric.outgo.find? (fun p => p.id = id), s.fabric.answers.find? (fun a => a.id = id) with
  | some p, some a => some (p, a, s.modFabric fun fb =>
      { fb with outgo := fb.outgo.filter fun p => p.id != id, answers := fb.answers.filter fun a => a.id != id })
  | _, _ => none

/-- The engine of a cluster that holds a command, or held it when it was saved. -/
def State.engineOf (s : State) (cl serial : Nat) : Nat :=
  let holds := fun (e : Engine) => e.cmd.any fun x => decide (x.serial = serial)
  if holds (s.engine cl 0) || s.saved.any (fun v => (find? v.2.engines cl).any fun e => holds e.1) then 0 else 1

/-- The fault message of an item of the command that sent a packet (R149): the engine is the one that holds the command. -/
def State.remoteFault (p : WPack) (f : Fail) (s : State) : State :=
  let c := numCore p.core
  let cl := clusterOf c
  s.engineFault c (s.corePart c) (copySpec cl (s.engineOf cl p.serial)) f

/-- The address that the fault message of a failed item of a remote packet gives: the item's window offset; for a get, that of its source. -/
def State.remoteAddr (s : State) (p : WPack) (item : Nat) : Word :=
  match p.op, s.findCmd (clusterOf (numCore p.core)) p.serial with
  | .get _, _ => w64 p.off
  | _, some c => (s.placeAddr c item).getD (w64 p.off)
  | _, none => w64 p.off

/-- WINDOW_ANSWER (R341): the answer to packet `arg.a` counts down its tracker, its command or the packet it passes on. An
answer that comes too late finds nothing. -/
def execWindowAnswer (s : State) : Host.Outcome State Fault Refusal :=
  .next (match s.takeAnswer s.arg.a with
    | none =>
      let s' := s.modFabric fun fb => { fb with answers := fb.answers.filter fun a => a.id != s.arg.a }
      (match (s.fabric.answers.find? fun a => a.id = s.arg.a).bind fun a => a.lost with
        | some p => s'.unreachable p
        | none => s')
    | some (p, a, s) =>
      let s := s.rateAnswer p a
      match p.relayOf with
      | some key => s.onwardAnswer key a.status
      | none =>
        if p.tracker ≠ 0 then
          let s := s.modTracker p.slot p.tracker fun t => { t with out := t.out - 1 }
          (if a.status ≠ 0 then s.trackerFail p.slot p.tracker a.status.toNat p.recv else s).trimTrackers p.slot
        else
          let s := s.modCmd (clusterOf (numCore p.core)) p.serial fun c =>
            let c := { c with sent := c.sent - 1, gets := c.gets.filter fun g => g.id != p.id }
            if a.status ≠ 0 then p.items.foldl (fun c i => c.failItem i a.status.toNat) c else c
          if a.status = 0 then s else p.items.foldl (fun (s : State) i => s.remoteFault p ⟨a.status.toNat, 0, s.remoteAddr p i, none⟩) s)

/-- PLACEMENT_TIMEOUT (R341): packet `arg.a` unanswered after PLACETMO fails NACK. -/
def execPlacementTimeout (s : State) : Host.Outcome State Fault Refusal :=
  .next (match s.fabric.outgo.find? fun p => p.id = s.arg.a with
    | none => s
    | some p =>
      if s.cycle < p.sentAt + s.fabric.placetmo.toNat * 1000 then s.defer
      else if s.fabric.answers.any fun a => a.id = p.id then s
      else s.windowBack p.id s.chipNo 5 [] false false)

/-- GET_REPLY (R347): the data of get `arg.a` is written into its command's destination, element by element. A reply for a command that is saved
lands as well (R243), and the command goes on with it after `sv.load` (R248). -/
def execGetReply (s : State) : Host.Outcome State Fault Refusal :=
  .next (match s.takeAnswer s.arg.a with
    | none => s
    | some (p, a, s) =>
      let s := s.rateAnswer p a
      let cl := clusterOf (numCore p.core)
      match (s.findCmd cl p.serial).bind fun c => (c.gets.find? fun g => g.id = p.id).map fun g => (c, g) with
      | none => s
      | some (c, g) =>
        let w := elemBytes c.smap.fmt.toNat
        let at' := (List.range g.count).filterMap fun i => (s.placeAddr c (GetRun.place g.pos i)).map fun d => (GetRun.place g.pos i, d)
        let es := at'.zipIdx.map fun x =>
          let df := s.destFmt c x.1.2
          let v := c.convert c.smap.fmt.toNat df (ofBytes ((a.data.drop (w * x.2)).take w))
          (⟨x.1.1, x.1.2, s.placeBytes c x.1.1 (toBytes (elemBytes df) v), a.poison, 0⟩ : Elem)
        let done := fun (c : CopyCmd) => { c with sent := c.sent - 1, gets := c.gets.filter fun g => g.id != p.id }
        match (match s.getBreach c at' with
          | some f => (some f, s)
          | none => s.writeItem c es) with
        | (some f, s) => s.itemFailed cl (s.engineOf cl p.serial) { (done c).failItem g.item f.status with skips := g.item :: c.skips } f
        | (none, s) =>
          let s := s.modCmd cl p.serial fun c =>
            let c := (done c).touchWords es
            if a.poison then c.failItem g.item 3 else c
          if a.poison && !c.fitems.contains g.item then s.remoteFault p ⟨3, cPOISON, w64 p.off, none⟩ else s)

/-! ## Reflection fences (R342) -/

/-- Whether every store of a tracker is answered. -/
def State.trackerDone (s : State) (k : Nat) (t : Tracker) : Bool :=
  decide (t.out = 0) && !((s.cluster (domainOf (coreOf k))).wq.any fun w => decide (w.tracker = t.id))

/-- What `rfence` returns: 0, or the failure that came first with the sum of the counts. -/
def rfenceWord (l : List Tracker) : Word :=
  let fl := l.filter (·.fail)
  match fl.foldl (fun (b : Option Tracker) t => match b with
      | none => some t
      | some b => if t.order < b.order then some t else some b) none with
  | none => 0
  | some t => failWord t.window t.status t.receiver (fl.map (·.count)).sum

/-- Clears the failures of slot trackers that `f` selects and lets go of those that are free. -/
def State.clearFails (k : Nat) (f : Tracker → Bool) (s : State) : State :=
  s.modSlot k fun sl =>
    { sl with trackers := (sl.trackers.map fun t => if f t then { t with fail := false, count := 0 } else t).filter (s.trackerKept k) }

/-- `rfence` (R342). -/
def execRfence (rd : Reg) (sc : BitVec 3) (s : State) : Host.Outcome State Fault Refusal :=
  let l := s.me.trackers
  .next (if !l.all fun t => s.trackerDone s.cur t then s.waitFor (.trackers none)
    else (s.clearFails s.cur fun _ => true).giveX rd (rfenceWord l) sc.toNat)

/-- `rflush` (R342). -/
def execRflush (rd ra : Reg) (sc : BitVec 3) (s : State) : Host.Outcome State Fault Refusal :=
  let v := s.x ra
  .next (if wbits v 10 54 ≠ 0 then s.trap cPROTECTION v
    else match s.me.tracker? (wbits v 0 10) with
      | none => (s.setX rd 0).retire 4 sc.toNat
      | some t =>
        if !s.trackerDone s.cur t then s.waitFor (.trackers (some t.window))
        else (s.clearFails s.cur fun x => decide (x.id = t.id)).giveX rd (rfenceWord [t]) sc.toNat)

/-! ## Revocation (R336, R344, R345) -/

/-- RECEIVE_ENTRY_STATE_WRITE (R336): value `arg.v` written to the STATE of receive entry `arg.a`. -/
def execReceiveEntryStateWrite (s : State) : Host.Outcome State Fault Refusal :=
  let n := s.arg.a
  let v := s.arg.v.toNat % 4
  let r := s.rx n
  .next (if r.st = 0 ∧ v = 1 then s.modRx n fun r => { r with st := 1 }
    else if r.st = 1 ∧ (v = 0 ∨ v = 2) then
      let chips := if r.sendmap then (List.range 16384).filter fun c => if c = s.chipNo then r.loopback else s.senderBit r c else []
      let s := s.modRx n fun r => { r with st := 2, since := s.cycle + 1, pending := chips.length }
      let s := chips.foldl (fun (s : State) c => s.sendPacket (s.chipNo * 2048) (c * 2048) (.closeAsk n)) s
      (s.post .closeTimeout (arg1 n)).tryClosed n
    else s)

/-- Whether stores or remote writes this chip has sent to a window of a chip are unanswered (R344). -/
def State.sendsTo (s : State) (chip window : Nat) : Bool :=
  s.fabric.outgo.any fun p => decide (p.dst = chip) && decide (p.window = window) && match p.op with
    | .get _ => false
    | _ => true

/-- CLOSE_NOTICE (R344): notice `arg.a` is answered once every store and remote write sent to that window has been. -/
def execCloseNotice (s : State) : Host.Outcome State Fault Refusal :=
  .next (match s.net.find? fun p => p.id = s.arg.a with
    | none => s
    | some p => match p.body with
      | .closeAsk w =>
        if s.sendsTo (numChip p.src) w then s.defer
        else { s with net := s.net.filter fun q => q.id != s.arg.a }.sendPacket (s.chipNo * 2048) p.src (.closeAns w)
      | _ => s)

/-- CLOSE_ANSWER (R345). -/
def execCloseAnswer (s : State) : Host.Outcome State Fault Refusal :=
  .next (match s.takePacket s.arg.a with
    | none => s
    | some (p, s) => match p.body with
      | .closeAns w => (s.modRx w fun r => { r with pending := r.pending - 1 }).tryClosed w
      | _ => s)

/-- CLOSE_TIMEOUT (R345): receive entry `arg.a` becomes CLOSED when CLOSEAGE reaches CLOSETMO, 0 acting as 1. -/
def execCloseTimeout (s : State) : Host.Outcome State Fault Refusal :=
  let n := s.arg.a
  .next (if (s.rx n).st ≠ 2 then s
    else if s.cycle + 1 < (s.rx n).since + Nat.max 1 s.fabric.closetmo.toNat * 1000 then s.defer
    else s.modRx n fun r => { r with st := 0, pending := 0 })

/-! ## Far traffic (R349 to R351) -/

def State.srttOf (s : State) (p : WPack) : Nat := match p.far with
  | none => 0
  | some i => (look RGroup.reset s.fabric.rates (look FarD.reset s.fabric.far i).rgroup.toNat).srtt.toNat

/-- FAR_RESEND_TIMER (R349): unanswered packet `arg.a` is sent again every max(20 µs, 2 SRTT). -/
def execFarResendTimer (s : State) : Host.Outcome State Fault Refusal :=
  .next (match s.fabric.outgo.find? fun p => p.id = s.arg.a with
    | none => s
    | some p =>
      if s.cycle < p.resent + Nat.max 20000 (2 * s.srttOf p) then s.defer
      else
        let t := s.modFabric fun fb => { fb with outgo := fb.outgo.map fun q => if q.id = p.id then { q with resent := s.cycle } else q }
        (match p.far with
          | none => t
          | some i => t.etherSend i (.packet i { p with resent := s.cycle })).post .farResendTimer (arg1 p.id))

/-- Sends again every packet of a queue pair from a sequence number on (R350). -/
def State.goBack (fd : Nat) (n : BitVec 32) (s : State) : State :=
  let late := fun (q : WPack) => decide (q.far = some fd) && !(q.seq - n).getLsbD 31
  let sent := fun (q : WPack) => { q with resent := s.cycle }
  (s.fabric.outgo.filter late).foldl (fun (s : State) q => s.etherSend fd (.packet fd (sent q)))
    (s.modFabric fun fb => { fb with outgo := fb.outgo.map fun q => if late q then sent q else q })

/-- QUEUE_PAIR_RESEND (R350): on a NACK with expected number `arg.v` from far destination `arg.b` (`arg.ok`), or when packet
`arg.a` has no answer after 2 SRTT. -/
def execQueuePairResend (s : State) : Host.Outcome State Fault Refusal :=
  .next (if s.arg.ok then s.goBack s.arg.b (s.arg.v.setWidth 32)
    else match s.fabric.outgo.find? fun p => p.id = s.arg.a with
      | none => s
      | some p =>
        if s.cycle < p.resent + Nat.max 1 (2 * s.srttOf p) then s.defer
        else (match p.far with
          | some i => s.goBack i p.seq
          | none => s).post .queuePairResend (arg1 p.id))

/-- TOMBSTONE_EXPIRY (R349): the tombstone of message `arg.b` of chip `arg.a` lapses after MSGLIFE, which is at least PLACETMO. -/
def execTombstoneExpiry (s : State) : Host.Outcome State Fault Refusal :=
  let mine := fun (m : FarMsg) => decide (m.src = s.arg.a) && decide (m.id = s.arg.b)
  .next (match (s.fabric.farTab.find? mine).bind fun m => m.tomb with
    | none => s
    | some t =>
      if s.cycle < t + Nat.max s.fabric.msglife.toNat s.fabric.placetmo.toNat * 1000 then s.defer
      else s.modFabric fun fb => { fb with farTab := fb.farTab.filter fun m => !mine m })

/-- RATE_INCREASE (R351): at the end of an SRTT without a halving, RATE of group `arg.a` rises by STEP to at most MAX. -/
def execRateIncrease (s : State) : Host.Outcome State Fault Refusal :=
  let g := s.arg.a
  let r := look RGroup.reset s.fabric.rates g
  .next (if s.cycle < r.since + Nat.max 1 r.srtt.toNat then s.defer
    else
      let r := { r with
        rate := if r.halved then r.rate else BitVec.ofNat 20 (Nat.min r.max.toNat (r.rate.toNat + s.chip.ratestep.toNat)),
        halved := false, since := s.cycle }
      (s.modFabric fun fb => { fb with rates := put g r fb.rates }).post .rateIncrease (arg1 g))

end Sys2Proof.Machine
end

