-- ==== Sys2Proof/Machine/Links.lean ====
section
/-! DEFINITION. The links (R358 to R360, R384) and the switch's group steps (R329, R330): flits taken, packets delivered or passed on, links that retrain and go down, contributions, results and timeouts. -/

namespace Sys2Proof.Machine

/-! ## What arrives for this chip -/

/-- A message whose payload came in part in poisoned flits, of the data ranges given (R360, R376). -/
def Body.marred (bad : List (Nat × Nat)) : Body → Body
  | .invoke m => .invoke { m with poisoned := m.poisoned || meets bad 0 m.payload.length }
  | b => b

/-- A flit's packet, with the data that poisoned flits delivered marked (R360). -/
def Flit.marred (bad : List (Nat × Nat)) (f : Flit) : Flit :=
  { f with
    packet := f.packet.map fun p => { p with body := p.body.marred bad },
    wpack := f.wpack.map fun p => { p with poison := p.poison ++ bad.filter fun x => decide (x.1 < p.bytes.length) },
    wans := f.wans.map fun a => { a with poison := a.poison || meets bad 0 a.data.length } }

/-- A message packet for this chip joins its network. One from a neighbouring switch's group tree takes the port it came in on. -/
def State.fromPort (port : Nat) (p : Packet) (s : State) : State :=
  let body := match p.body with
    | .partialUp g _ v c n i => .partialUp g port v c n i
    | b => b
  let (n, s) := s.number
  { s with net := s.net ++ [{ p with id := n, body := body }] }.post body.step (arg1 n)

/-- Takes what a packet's tail flit carries: for this chip, or on to the next hop (R355). -/
def State.takeTail (port : Nat) (f : Flit) (s : State) : State :=
  let here := decide (f.dest = s.chipNo) || decide (f.dest = 2 ^ 14)
  let next := s.hop f.dest (some (port, f.vc.toNat))
  let ok := match next with
    | some (q, _) => !(s.port q).down
    | none => false
  let on := fun (poison : List (Nat × Nat)) (bytes : Nat) (s : State) => match next with
    | some (q, vc) => s.emit q vc f.cls poison f.dest bytes fun g => { g with packet := f.packet, wpack := f.wpack, wans := f.wans }
    | none => s
  match f.packet, f.wpack, f.wans with
  | some p, _, _ => if here then s.fromPort port p else if ok then on (wholly p.body.poisoned p.body.bytes) p.body.bytes s else s.nackPacket p
  | none, some p, _ =>
    if here then
      (s.modFabric fun fb => { fb with flying := fb.flying ++ [p] }).post .windowArrival (arg2 p.id p.src)
    else if ok then on p.poison p.bytes.length s else s.nackWin p
  | none, none, some a =>
    if here then
      (match a.lost with
        | some p => s.unreachable p
        | none => if (s.fabric.outgo.any fun p => decide (p.id = a.id)) then s.windowBack a.id a.src a.status a.data a.poison a.echo else s)
    else if ok then on (wholly a.poison a.data.length) a.data.length s else s
  | none, none, none => s

/-! ## Links that go down (R360) -/

/-- The link of a port goes down: the record, and a NACK for every request queued or lost there. -/
def State.linkDown (port : Nat) (s : State) : State :=
  let p := s.port port
  let lost := (p.kept ++ p.out).filter fun f => !f.cls && f.tail
  let s := s.modPort port fun p => { p with down := true, out := [], kept := [], again := [], resends := 0 }
  let s := s.record 0x90 port (w64 p.resent) (w64 s.fabric.coord.toNat)
  lost.foldl (fun (s : State) f => match f.packet, f.wpack with
    | some q, _ => s.nackPacket q
    | none, some q => s.nackWin q
    | none, none => s) s

/-- A NACK 0x05 toward the chip whose answer is discarded; it names no packet (R384). -/
def State.nackAnswer (a : WAns) (s : State) : State :=
  match s.hop a.src none with
  | some (port, vc) =>
    if (s.port port).down then s
    else s.emit port vc true [] a.src 0 fun f => { f with wans := some ⟨0, s.chipNo, a.src, 5, [], false, false, none⟩ }
  | none => s

/-- A packet whose tag fails is discarded, answered NACK and recorded; the third of an epoch takes the link down (R384). -/
def State.tagFailed (port : Nat) (f : Flit) (s : State) : State :=
  let s := s.record 0x91 port (w64 (s.port port).packets) 0
  let s := match f.packet, f.wpack, f.wans with
    | some p, _, _ => s.nackPacket p
    | none, some p, _ => s.nackWin p
    | none, none, some a => s.nackAnswer a
    | none, none, none => s
  let s := s.modPort port fun p => { p with tagFails := p.tagFails + 1 }
  if 3 ≤ (s.port port).tagFails then s.linkDown port else s

/-- What a flit's header says of the other direction (R358, R359): flits acknowledged, places returned, and a resend asked for, which
sends every kept flit again, in order. After 16 resends without progress the link retrains, with an outcome the manual leaves to the link. -/
def State.linkHeader (port : Nat) (f : Flit) (s : State) : State :=
  let p := s.port port
  let left := p.kept.filter fun k => (f.ack - k.seq).getLsbD 8
  let gone := decide (left.length < p.kept.length)
  let key := f.cbuf.toNat
  let p := { p with
    kept := left, counts := put key (Nat.min 16 (look 16 p.counts key + f.ccount.toNat)) p.counts,
    again := if f.retry then left else p.again.filter fun k => (f.ack - k.seq).getLsbD 8,
    resends := if gone then (if f.retry then 1 else 0) else if f.retry then p.resends + 1 else p.resends,
    resent := if f.retry then p.resent + left.length else p.resent }
  let s := s.modPort port fun _ => p
  if 16 ≤ p.resends then
    ({ s with fresh := s.fresh + 1 }.modPort port fun p => { p with resends := 0 }).post .linkRetrain
      { arg1 port with ok := (Config.freeData s.fresh).getLsbD 0 }
  else s

/-- The (VC, CLS) buffer of a flit (R359). -/
def Flit.buffer (f : Flit) : Nat := f.vc.toNat * 2 + (if f.cls then 1 else 0)

/-- A port that has taken the flit it expected: its place is free again, and a poisoned one is noted among those of its packet (R359, R360). -/
def Port.took (f : Flit) (p : Port) : Port :=
  let c := look (0, []) p.coming f.buffer
  { p with
    expect := p.expect + 1, back := put f.buffer (look 0 p.back f.buffer + 1) p.back,
    coming := put f.buffer (c.1 + 1, if f.poison then c.2 ++ [c.1] else c.2) p.coming }

/-- The data ranges that poisoned flits of the packet in progress delivered. -/
def Port.spoiled (buffer : Nat) (p : Port) : List (Nat × Nat) := (look (0, []) p.coming buffer).2.map flitData

/-- Whether the links carry more than training and time: the boot's last step has ended, and the supervisor has written the coordinate
register and the route table (R354, R391). -/
def State.linksOpen (s : State) : Bool := s.chip.opened && s.fabric.coordSet && s.fabric.routesSet

/-- FLIT_RECEIVE (R359): port `arg.a` takes the oldest flit at its receiver. One that is damaged, or not the one expected, is discarded and asked
for again. While the links carry no traffic a flit with payload is refused: nothing of it is taken (R391). -/
def execFlitReceive (s : State) : Host.Outcome State Fault Refusal :=
  let port := s.arg.a
  .next (match (s.port port).incoming with
    | [] => s
    | f :: l =>
      let s := s.modPort port fun p => { p with incoming := l }
      if (s.port port).down then s
      else if !f.intact then s.modPort port fun p => { p with asking := true }
      else if f.idle then s.linkHeader port f
      else if !s.linksOpen then s
      else if f.seq ≠ (s.port port).expect then s.modPort port fun p => { p with asking := true }
      else
        let key := f.buffer
        let s := (s.modPort port (Port.took f)).linkHeader port f
        if !f.tail then s
        else
          let bad := (s.port port).spoiled key
          let s := s.modPort port fun p => { p with packets := p.packets + 1, coming := del key p.coming }
          if !f.tagOk then s.tagFailed port f
          else if f.marker then s.post .linkRekeyMarker (arg1 port)
          else s.takeTail port (f.marred bad))

/-- LINK_RETRAIN (R359): the link of port `arg.a` has retrained, or failed to (`arg.ok` false); the third failure takes it down. -/
def execLinkRetrain (s : State) : Host.Outcome State Fault Refusal :=
  let port := s.arg.a
  .next (if (s.port port).down then s
    else if s.arg.ok then s.modPort port fun p => { p with retrains := 0, resends := 0 }
    else
      let s := s.modPort port fun p => { p with retrains := p.retrains + 1 }
      if 3 ≤ (s.port port).retrains then s.linkDown port
      else { s with fresh := s.fresh + 1 }.post .linkRetrain { arg1 port with ok := (Config.freeData s.fresh).getLsbD 0 })

/-- LINK_REKEY_MARKER (R384): the receiving end of port `arg.a` changes to the next key and epoch; its packet counter and its count of failures
start again, and the next key is used up (DESIGN CHOICE, log entry 90). -/
def execLinkRekeyMarker (s : State) : Host.Outcome State Fault Refusal :=
  let n := s.arg.a
  .next (if !(s.port n).nextKey then s
    else (s.modChip fun c => { c with linkKeys := put (4 * n) (look 0 c.linkKeys (4 * n + 2)) (del (4 * n + 2) c.linkKeys) }).modPort n fun p =>
      { p with nextKey := false, epoch := p.epoch + 1, packets := 0, tagFails := 0 })

/-- The header fields a flit carries back for the other direction (R358): the last good flit, a resend asked for, up to 7 places of one
buffer; and its CRC. -/
def Port.stamp (p : Port) (x : Flit) : Flit :=
  let (key, n) := p.back.headD (0, 0)
  { x with ack := p.expect - 1, retry := p.asking, cbuf := BitVec.ofNat 3 key, ccount := BitVec.ofNat 3 (Nat.min n 7) }.sealed

/-- The port once such a flit has left. -/
def Port.stamped (p : Port) : Port :=
  { p with asking := false, back := match p.back with
      | [] => []
      | (key, n) :: l => if n ≤ 7 then l else (key, n - 7) :: l }

/-- Flit `x` leaves, as it is stamped. -/
def Port.leaves (x : Flit) (p : Port) : Port := { p.stamped with sent := p.sent ++ [p.stamp x] }

/-- Flits that were asked for again leave first, in order; they have their places already (R359). -/
def Port.resend (p : Port) : Port := p.again.foldl (fun p x => p.leaves x) { p with again := [] }

/-- The first queued flit whose buffer has a place at the other end, and the others; none passes a rekey marker (R355, R359, R384). -/
def Port.sendable (p : Port) : List Flit → Option (Flit × List Flit)
  | [] => none
  | x :: l =>
    if look 16 p.counts x.buffer ≠ 0 then some (x, l)
    else if x.marker then none
    else match Port.sendable p l with
      | none => none
      | some (y, r) => if y.marker then none else some (y, x :: r)

/-- What a port sends while its counts and its store of unacknowledged flits allow (R359). -/
def Port.drain : Nat → Port → Port
  | 0, p => p
  | f + 1, p =>
    if 256 ≤ p.kept.length then p
    else match p.sendable p.out with
      | none => p
      | some (x, l) =>
        let x := { x with seq := p.nextSeq }
        Port.drain f { p.leaves x with
          out := l, kept := p.kept ++ [x], nextSeq := p.nextSeq + 1, counts := put x.buffer (look 16 p.counts x.buffer - 1) p.counts }

/-- An IDLE flit (R358). -/
def Flit.idler : Flit := { Flit.plain 0 false false false false 0 with idle := true }

/-- What is still to be said to the other end goes in IDLE flits, which spend no place (R358); `n` bounds them. -/
def Port.idled : Nat → Port → Port
  | 0, p => p
  | n + 1, p => if p.asking || !p.back.isEmpty then Port.idled n (p.leaves Flit.idler) else p

/-- Whether a port has anything to send. -/
def Port.silent (p : Port) : Bool := p.out.isEmpty && p.again.isEmpty && !p.asking && p.back.isEmpty

/-- A port sends what it may. -/
def Port.send (p : Port) : Port :=
  if p.down || p.silent then p
  else
    let p := Port.resend { p with sent := [] }
    let p := Port.drain (p.out.length + 1) p
    Port.idled (p.back.foldl (fun n e => n + e.2 + 1) 1) p

/-! ## Groups (R329, R330) -/

/-- GROUP_CONTRIBUTION (R329): contribution or child partial `arg.a` reaches the switch; while no slot is free it waits. -/
def execGroupContribution (s : State) : Host.Outcome State Fault Refusal :=
  .next (match s.takePacket s.arg.a with
    | none => s
    | some (p, s') => match p.body with
      | .contribution g key v n =>
        let op := (s.group g).op.toNat
        (match s'.groupTake g n key (opFirst op v) 1 (if opNan op v then 1 else 0) with
          | some t => t
          | none => s.defer)
      | .partialUp g port v c nan n =>
        (match s'.groupTake g n (portOrder port) v c nan with
          | some t => t
          | none => s.defer)
      | _ => s')

/-- GROUP_RESULT (R329): result `arg.a` passes down through this switch. -/
def execGroupResult (s : State) : Host.Outcome State Fault Refusal :=
  .next (match s.takePacket s.arg.a with
    | none => s
    | some (p, s) => match p.body with
      | .result g v st c nan n => s.groupDeliver g n v st c nan
      | _ => s)

/-- GROUP_SLOT_TIMEOUT (R330): the instance of reduction slot `arg.a` has held it for its group's TIMEOUT. -/
def execGroupSlotTimeout (s : State) : Host.Outcome State Fault Refusal :=
  .next (match find? s.fabric.rslots s.arg.a with
    | none => s
    | some r =>
      let t := (s.group r.group).timeout.toNat
      if t = 0 ∨ r.sentUp then s
      else if s.cycle < r.since + t then s.defer
      else s.groupComplete s.arg.a 1)

end Sys2Proof.Machine
end

