-- ==== Sys2Proof/Machine/Wakes.lean ====
section
/-! DEFINITION. When a parked slot wakes (R29): the condition of every wait, and the wake itself. -/

namespace Sys2Proof.Machine

/-- Whether the wait of slot `k` is over. -/
def State.waitOver (s : State) (k : Nat) (w : Wait) : Bool :=
  let c := coreOf k
  let sl := s.slot k
  match w with
  | .credit key => decide (0 < (s.credit c key).avail) || sl.lost
  | .pair t => s.hasPair c t
  | .cell => (s.lowCell c).isSome
  | .copyQueue armed => s.copyRoom c armed
  | .matQueue => decide ((s.core c).mq.length < 2)
  | .tile r n => let q := s.ring (clusterOf c) r
    !q.defined || q.producedAt s.cycle n
  | .loads => s.loadsPerformed k && s.sendsPerformed k
  | .sends => s.sendsPerformed k
  | .release sc => s.released k sc
  | .fence mask => !s.fenced k mask
  | .walk => true
  | .send sc => s.sendReleased k sc
  | .group g => match s.member k g with
    | none => true
    | some m => m.ready
  | .stage _ _ => sl.stores.isEmpty && s.windowsPerformed k (fun _ => true) .ch
  | .auction id => if isSup c then true else match (s.sector (slotSector k)).buffers.find? fun a => a.id = id with
    | none => true
    | some a => a.stopped
  | .meridian n => !(s.sector n).frozen
  | .record n => !(s.cqueue n).ofPart (s.corePart c) || (s.cqueue n).servesSlot k
  | .trackers w => (sl.trackers.filter fun t => w.isNone || w = some t.window).all fun t => s.trackerDone k t
  | .tracker w n => s.windowRoom k w n

/-- Slot `k` wakes to execute its instruction again; while it is frozen the wake is recorded (R123). -/
def State.rerun (k : Nat) (s : State) : State :=
  if (s.slot k).frozen then s.modSlot k fun sl => { sl with woken := true } else s.unpark k

/-- Slot `k` wakes and its instruction completes with a result for x register `rd`; while the slot is frozen the wake is recorded with the
result, which it gets at the thaw (R123). -/
def State.finishWait (k rd : Nat) (v : Word) (sc : Nat) (s : State) : State :=
  if (s.slot k).frozen then s.modSlot k fun sl => { sl with park := .give rd v sc, woken := true }
  else s.deliverX k (BitVec.ofNat 5 rd) v

/-- The wait of a `wfa` or `wfp` that came back from a save: its word's address is translated afresh (R321). While it cannot be, the wait goes
on (DESIGN CHOICE, log entry 93), since executing a `wfa` again would arrive again; on a page since discarded it ends with zero (R115). -/
def State.seekPhase (k : Nat) (a : Word) (p : Bool) (rd sc : Nat) (scope : Scope) (s : State) : State :=
  match s.check (coreOf k) a 8 .atomic with
  | (.ok h, s) => (s.modSlot k fun sl => { sl with park := .barrier (some h) a p rd sc scope }).defer
  | (.disc, s) => (s.acquire k scope).finishWait k rd 0 sc
  | (_, s) => s.defer

/-- SLOT_WAKE (R29): slot `arg.a`'s condition is looked at. An instruction that re-executes issues again; one that waits for its result
gets it. Meridian writes for `mer.out` and `mer.snap` (R294, R297). A `wfa` or `wfp` gets the word as an acquire (R115); `gjoin` and `gleave` are recorded (R117); an `l2wb` writes its line (R191); a
`tmset` sets its map (R251); an `lq.push` appends its record once its release
is met and there is room (R302). -/
def execSlotWake (s : State) : Host.Outcome State Fault Refusal :=
  let k := s.arg.a
  .next (match (s.slot k).park with
    | .again w => if s.waitOver k w then s.rerun k else s.defer
    | .give rd v sc => s.finishWait k rd v sc
    | .barrier none a p rd sc scope => s.seekPhase k a p rd sc scope
    | .barrier (some h) a p rd sc scope =>
      if s.homePoison h then s.trapAt k cPOISON a (s.slot k).pc none
      else if (s.word8 h).getLsbD 0 ≠ p then (s.acquire k scope).finishWait k rd (s.word8 h) sc
      else s.defer
    | .clean slice pa sc => (s.cleanL2 slice pa).finishWait k 0 0 sc
    | .merOut _ _ sc => if (s.sector (slotSector k)).frozen then s.defer else (s.merPut k).finishWait k 0 0 sc
    | .merSnap _ _ rd v sc => if (s.sector (slotSector k)).frozen then s.defer else (s.merPut k).finishWait k rd v sc
    | .tmset n m sc => (s.setMap k n m).finishWait k 0 0 sc
    | .group g join sc => match s.recordGroup k g join with
      | none => s.defer
      | some s => s.finishWait k 0 0 sc
    | .push r sc =>
      if !(s.lqueue r.queue).ofPart r.part then s.rerun k
      else if s.queueFull r.queue || !s.released k .ch then s.defer
      else (s.pushRecord r).finishWait k 0 0 sc
    | _ => s)

end Sys2Proof.Machine
end

