-- ==== Sys2Proof/Machine/Dispatch.lean ====
section
/-! DEFINITION. What each instruction does: one arm per constructor, each one call of its meaning. -/

namespace Sys2Proof.Machine

def exec (i : Instr) (s : State) : Host.Outcome State Fault Refusal :=
  match i with
  | .add rd ra rb sc => Sys2Proof.Machine.execAdd rd ra rb sc s
  | .sub rd ra rb sc => Sys2Proof.Machine.execSub rd ra rb sc s
  | .and rd ra rb sc => Sys2Proof.Machine.execAnd rd ra rb sc s
  | .or rd ra rb sc => Sys2Proof.Machine.execOr rd ra rb sc s
  | .xor rd ra rb sc => Sys2Proof.Machine.execXor rd ra rb sc s
  | .sll rd ra rb sc => Sys2Proof.Machine.execSll rd ra rb sc s
  | .srl rd ra rb sc => Sys2Proof.Machine.execSrl rd ra rb sc s
  | .sra rd ra rb sc => Sys2Proof.Machine.execSra rd ra rb sc s
  | .slt rd ra rb sc => Sys2Proof.Machine.execSlt rd ra rb sc s
  | .sltn rd ra rb sc => Sys2Proof.Machine.execSltn rd ra rb sc s
  | .min rd ra rb sc => Sys2Proof.Machine.execMin rd ra rb sc s
  | .max rd ra rb sc => Sys2Proof.Machine.execMax rd ra rb sc s
  | .minn rd ra rb sc => Sys2Proof.Machine.execMinn rd ra rb sc s
  | .maxn rd ra rb sc => Sys2Proof.Machine.execMaxn rd ra rb sc s
  | .mul rd ra rb sc => Sys2Proof.Machine.execMul rd ra rb sc s
  | .mulh rd ra rb sc => Sys2Proof.Machine.execMulh rd ra rb sc s
  | .mulhn rd ra rb sc => Sys2Proof.Machine.execMulhn rd ra rb sc s
  | .div rd ra rb sc => Sys2Proof.Machine.execDiv rd ra rb sc s
  | .divn rd ra rb sc => Sys2Proof.Machine.execDivn rd ra rb sc s
  | .rem rd ra rb sc => Sys2Proof.Machine.execRem rd ra rb sc s
  | .remn rd ra rb sc => Sys2Proof.Machine.execRemn rd ra rb sc s
  | .lea rd ra rb k sc => Sys2Proof.Machine.execLea rd ra rb k sc s
  | .sel rd ra rb sc => Sys2Proof.Machine.execSel rd ra rb sc s
  | .addi rd ra imm sc => Sys2Proof.Machine.execAddi rd ra imm sc s
  | .andi rd ra imm sc => Sys2Proof.Machine.execAndi rd ra imm sc s
  | .ori rd ra imm sc => Sys2Proof.Machine.execOri rd ra imm sc s
  | .xori rd ra imm sc => Sys2Proof.Machine.execXori rd ra imm sc s
  | .slti rd ra imm sc => Sys2Proof.Machine.execSlti rd ra imm sc s
  | .sltni rd ra imm sc => Sys2Proof.Machine.execSltni rd ra imm sc s
  | .slli rd ra h sc => Sys2Proof.Machine.execSlli rd ra h sc s
  | .srli rd ra h sc => Sys2Proof.Machine.execSrli rd ra h sc s
  | .srai rd ra h sc => Sys2Proof.Machine.execSrai rd ra h sc s
  | .lui rd imm => Sys2Proof.Machine.execLui rd imm s
  | .adpc rd imm => Sys2Proof.Machine.execAdpc rd imm s
  | .clz rd ra sc => Sys2Proof.Machine.execClz rd ra sc s
  | .ctz rd ra sc => Sys2Proof.Machine.execCtz rd ra sc s
  | .popc rd ra sc => Sys2Proof.Machine.execPopc rd ra sc s
  | .sxb rd ra sc => Sys2Proof.Machine.execSxb rd ra sc s
  | .sxh rd ra sc => Sys2Proof.Machine.execSxh rd ra sc s
  | .sxw rd ra sc => Sys2Proof.Machine.execSxw rd ra sc s
  | .zxb rd ra sc => Sys2Proof.Machine.execZxb rd ra sc s
  | .zxh rd ra sc => Sys2Proof.Machine.execZxh rd ra sc s
  | .zxw rd ra sc => Sys2Proof.Machine.execZxw rd ra sc s
  | .bexs rd ra o w sc => Sys2Proof.Machine.execBexs rd ra o w sc s
  | .bexn rd ra o w sc => Sys2Proof.Machine.execBexn rd ra o w sc s
  | .bins rd ra o w sc => Sys2Proof.Machine.execBins rd ra o w sc s
  | .psetEq p ra rb sc => Sys2Proof.Machine.execPsetEq p ra rb sc s
  | .psetNe p ra rb sc => Sys2Proof.Machine.execPsetNe p ra rb sc s
  | .psetLt p ra rb sc => Sys2Proof.Machine.execPsetLt p ra rb sc s
  | .psetGe p ra rb sc => Sys2Proof.Machine.execPsetGe p ra rb sc s
  | .psetLtn p ra rb sc => Sys2Proof.Machine.execPsetLtn p ra rb sc s
  | .psetGen p ra rb sc => Sys2Proof.Machine.execPsetGen p ra rb sc s
  | .pand rd ra rb sc => Sys2Proof.Machine.execPand rd ra rb sc s
  | .por rd ra rb sc => Sys2Proof.Machine.execPor rd ra rb sc s
  | .pnot rd ra sc => Sys2Proof.Machine.execPnot rd ra sc s
  | .pmovToPredicate rd ra sc => Sys2Proof.Machine.execPmovToPredicate rd ra sc s
  | .pmovFromPredicate rd ra sc => Sys2Proof.Machine.execPmovFromPredicate rd ra sc s
  | .beq ra rb o => Sys2Proof.Machine.execBeq ra rb o s
  | .bne ra rb o => Sys2Proof.Machine.execBne ra rb o s
  | .blt ra rb o => Sys2Proof.Machine.execBlt ra rb o s
  | .bge ra rb o => Sys2Proof.Machine.execBge ra rb o s
  | .bltn ra rb o => Sys2Proof.Machine.execBltn ra rb o s
  | .bgen ra rb o => Sys2Proof.Machine.execBgen ra rb o s
  | .bpt p o => Sys2Proof.Machine.execBpt p o s
  | .bpf p o => Sys2Proof.Machine.execBpf p o s
  | .jal rd o => Sys2Proof.Machine.execJal rd o s
  | .jalr rd ra imm sc => Sys2Proof.Machine.execJalr rd ra imm sc s
  | .loop ra imm sc => Sys2Proof.Machine.execLoop ra imm sc s
  | .done sc => Sys2Proof.Machine.execDone sc s
  | .sys c sc => Sys2Proof.Machine.execSys c sc s
  | .tret sc => Sys2Proof.Machine.execTret sc s
  | .brk c sc => Sys2Proof.Machine.execBrk c sc s
  | .ctlrd rd r => Sys2Proof.Machine.execCtlrd rd r s
  | .ctlwr rd ra r => Sys2Proof.Machine.execCtlwr rd ra r s
  | .ctlset rd ra r => Sys2Proof.Machine.execCtlset rd ra r s
  | .ctlclr rd ra r => Sys2Proof.Machine.execCtlclr rd ra r s
  | .ld rd ra z imm sc => Sys2Proof.Machine.execLd rd ra z imm sc s
  | .ldn rd ra z imm sc => Sys2Proof.Machine.execLdn rd ra z imm sc s
  | .fld rd ra z imm sc => Sys2Proof.Machine.execFld rd ra z imm sc s
  | .st rd ra z imm sc => Sys2Proof.Machine.execSt rd ra z imm sc s
  | .fst rd ra z imm sc => Sys2Proof.Machine.execFst rd ra z imm sc s
  | .ldsync rd ra sc => Sys2Proof.Machine.execLdsync rd ra sc s
  | .ldtake rd ra sc => Sys2Proof.Machine.execLdtake rd ra sc s
  | .stfill rd ra sc => Sys2Proof.Machine.execStfill rd ra sc s
  | .feclr ra rb sc => Sys2Proof.Machine.execFeclr ra rb sc s
  | .stnib rd ra rb sc => Sys2Proof.Machine.execStnib rd ra rb sc s
  | .amoAdd rd ra rb z l q c => Sys2Proof.Machine.execAmoAdd rd ra rb z l q c s
  | .amoAnd rd ra rb z l q c => Sys2Proof.Machine.execAmoAnd rd ra rb z l q c s
  | .amoOr rd ra rb z l q c => Sys2Proof.Machine.execAmoOr rd ra rb z l q c s
  | .amoXor rd ra rb z l q c => Sys2Proof.Machine.execAmoXor rd ra rb z l q c s
  | .amoMin rd ra rb z l q c => Sys2Proof.Machine.execAmoMin rd ra rb z l q c s
  | .amoMax rd ra rb z l q c => Sys2Proof.Machine.execAmoMax rd ra rb z l q c s
  | .amoMinn rd ra rb z l q c => Sys2Proof.Machine.execAmoMinn rd ra rb z l q c s
  | .amoMaxn rd ra rb z l q c => Sys2Proof.Machine.execAmoMaxn rd ra rb z l q c s
  | .amoSwap rd ra rb z l q c => Sys2Proof.Machine.execAmoSwap rd ra rb z l q c s
  | .amoCas rd ra rb z l q c => Sys2Proof.Machine.execAmoCas rd ra rb z l q c s
  | .amoFadd rd ra rb z l q c => Sys2Proof.Machine.execAmoFadd rd ra rb z l q c s
  | .amoFmax rd ra rb z l q c => Sys2Proof.Machine.execAmoFmax rd ra rb z l q c s
  | .fence p u c sc => Sys2Proof.Machine.execFence p u c sc s
  | .acq c sc => Sys2Proof.Machine.execAcq c sc s
  | .rel c sc => Sys2Proof.Machine.execRel c sc s
  | .l1inv sc => Sys2Proof.Machine.execL1inv sc s
  | .l2wb ra sc => Sys2Proof.Machine.execL2wb ra sc s
  | .l2zero ra sc => Sys2Proof.Machine.execL2zero ra sc s
  | .pfetch ra sc => Sys2Proof.Machine.execPfetch ra sc s
  | .wfa rd ra rb m sc => Sys2Proof.Machine.execWfa rd ra rb m sc s
  | .wfp rd ra rb m sc => Sys2Proof.Machine.execWfp rd ra rb m sc s
  | .arr rd ra rb m sc => Sys2Proof.Machine.execArr rd ra rb m sc s
  | .arrx rd ra rb m sc => Sys2Proof.Machine.execArrx rd ra rb m sc s
  | .gjoin g sc => Sys2Proof.Machine.execGjoin g sc s
  | .gleave g sc => Sys2Proof.Machine.execGleave g sc s
  | .gcontrib rd g sc => Sys2Proof.Machine.execGcontrib rd g sc s
  | .gread rd g sc => Sys2Proof.Machine.execGread rd g sc s
  | .inv rd ra rb sc => Sys2Proof.Machine.execInv rd ra rb sc s
  | .invp ra rb sc => Sys2Proof.Machine.execInvp ra rb sc s
  | .reply ra sc => Sys2Proof.Machine.execReply ra sc s
  | .replyDatum ra sc => Sys2Proof.Machine.execReplyDatum ra sc s
  | .replyLocalPromise ra rb sc => Sys2Proof.Machine.execReplyLocalPromise ra rb sc s
  | .replyDatumLocalPromise ra rb sc => Sys2Proof.Machine.execReplyDatumLocalPromise ra rb sc s
  | .rbreak ra sc => Sys2Proof.Machine.execRbreak ra sc s
  | .rbreakLocalPromise ra rb sc => Sys2Proof.Machine.execRbreakLocalPromise ra rb sc s
  | .spawn ra rb sc => Sys2Proof.Machine.execSpawn ra rb sc s
  | .hnew rd sc => Sys2Proof.Machine.execHnew rd sc s
  | .hdrop ra sc => Sys2Proof.Machine.execHdrop ra sc s
  | .hstat rd ra sc => Sys2Proof.Machine.execHstat rd ra sc s
  | .when ra rb sc => Sys2Proof.Machine.execWhen ra rb sc s
  | .tmset t ra sc => Sys2Proof.Machine.execTmset t ra sc s
  | .tmclr t sc => Sys2Proof.Machine.execTmclr t sc s
  | .xsrcLocal t ra sc => Sys2Proof.Machine.execXsrcLocal t ra sc s
  | .xsrcImageBase t sc => Sys2Proof.Machine.execXsrcImageBase t sc s
  | .xsrcRemote t ra rb sc => Sys2Proof.Machine.execXsrcRemote t ra rb sc s
  | .xdstLocal t ra sc => Sys2Proof.Machine.execXdstLocal t ra sc s
  | .xdstImageBase t sc => Sys2Proof.Machine.execXdstImageBase t sc s
  | .xdstRing o sc => Sys2Proof.Machine.execXdstRing o sc s
  | .xdstRemote t ra rb sc => Sys2Proof.Machine.execXdstRemote t ra rb sc s
  | .xset ra rb sc => Sys2Proof.Machine.execXset ra rb sc s
  | .xsetPost ra rb sc => Sys2Proof.Machine.execXsetPost ra rb sc s
  | .xsetAct ra rb sc => Sys2Proof.Machine.execXsetAct ra rb sc s
  | .xsetChain ra sc => Sys2Proof.Machine.execXsetChain ra sc s
  | .xgo rd sc => Sys2Proof.Machine.execXgo rd sc s
  | .xloop rd ra rb sc => Sys2Proof.Machine.execXloop rd ra rb sc s
  | .xrel ra sc => Sys2Proof.Machine.execXrel ra sc s
  | .xarm rd ra rb sc => Sys2Proof.Machine.execXarm rd ra rb sc s
  | .xstat rd ra sc => Sys2Proof.Machine.execXstat rd ra sc s
  | .xcancel rd ra sc => Sys2Proof.Machine.execXcancel rd ra sc s
  | .fadd rd ra rb m sc => Sys2Proof.Machine.execFadd rd ra rb m sc s
  | .fsub rd ra rb m sc => Sys2Proof.Machine.execFsub rd ra rb m sc s
  | .fmul rd ra rb m sc => Sys2Proof.Machine.execFmul rd ra rb m sc s
  | .fmin rd ra rb m sc => Sys2Proof.Machine.execFmin rd ra rb m sc s
  | .fmax rd ra rb m sc => Sys2Proof.Machine.execFmax rd ra rb m sc s
  | .fabs rd ra m sc => Sys2Proof.Machine.execFabs rd ra m sc s
  | .fneg rd ra m sc => Sys2Proof.Machine.execFneg rd ra m sc s
  | .fsel rd ra rb m sc => Sys2Proof.Machine.execFsel rd ra rb m sc s
  | .fmv rd ra m sc => Sys2Proof.Machine.execFmv rd ra m sc s
  | .fdiv rd ra rb m sc => Sys2Proof.Machine.execFdiv rd ra rb m sc s
  | .fsqrt rd ra m sc => Sys2Proof.Machine.execFsqrt rd ra m sc s
  | .fma rd ra rb c f sc => Sys2Proof.Machine.execFma rd ra rb c f sc s
  | .fnma rd ra rb c f sc => Sys2Proof.Machine.execFnma rd ra rb c f sc s
  | .frcp rd ra m sc => Sys2Proof.Machine.execFrcp rd ra m sc s
  | .frsq rd ra m sc => Sys2Proof.Machine.execFrsq rd ra m sc s
  | .fexp2 rd ra m sc => Sys2Proof.Machine.execFexp2 rd ra m sc s
  | .flog2 rd ra m sc => Sys2Proof.Machine.execFlog2 rd ra m sc s
  | .fsum rd ra m sc => Sys2Proof.Machine.execFsum rd ra m sc s
  | .fmaxr rd ra m sc => Sys2Proof.Machine.execFmaxr rd ra m sc s
  | .fcmp p k ra rb m sc => Sys2Proof.Machine.execFcmp p k ra rb m sc s
  | .fcvt rd ra u r t sc => Sys2Proof.Machine.execFcvt rd ra u r t sc s
  | .sscfg f ra rb m sc => Sys2Proof.Machine.execSscfg f ra rb m sc s
  | .ssen f sc => Sys2Proof.Machine.execSsen f sc s
  | .ssdis rd f sc => Sys2Proof.Machine.execSsdis rd f sc s
  | .fpack rd ra rb m sc => Sys2Proof.Machine.execFpack rd ra rb m sc s
  | .funpack rd ra h m sc => Sys2Proof.Machine.execFunpack rd ra h m sc s
  | .fshuf rd ra rb m sc => Sys2Proof.Machine.execFshuf rd ra rb m sc s
  | .mring n ra sc => Sys2Proof.Machine.execMring n ra sc s
  | .mringScale n ra rb sc => Sys2Proof.Machine.execMringScale n ra rb sc s
  | .mma ra rb m sc => Sys2Proof.Machine.execMma ra rb m sc s
  | .mmaq c ra rb m sc => Sys2Proof.Machine.execMmaq c ra rb m sc s
  | .mzero sc => Sys2Proof.Machine.execMzero sc s
  | .mswap sc => Sys2Proof.Machine.execMswap sc s
  | .mepi ra sc => Sys2Proof.Machine.execMepi ra sc s
  | .mtopk rd ra sc => Sys2Proof.Machine.execMtopk rd ra sc s
  | .mseed ra sc => Sys2Proof.Machine.execMseed ra sc s
  | .mstat rd ra sc => Sys2Proof.Machine.execMstat rd ra sc s
  | .merLoadTile ra rb sc => Sys2Proof.Machine.execMerLoadTile ra rb sc s
  | .merLoadCand ra rb sc => Sys2Proof.Machine.execMerLoadCand ra rb sc s
  | .merCap ra sc => Sys2Proof.Machine.execMerCap ra sc s
  | .merCapAll ra sc => Sys2Proof.Machine.execMerCapAll ra sc s
  | .merCfg ra rb sc => Sys2Proof.Machine.execMerCfg ra rb sc s
  | .merGo rd sc => Sys2Proof.Machine.execMerGo rd sc s
  | .merStat rd sc => Sys2Proof.Machine.execMerStat rd sc s
  | .merOut ra rb sc => Sys2Proof.Machine.execMerOut ra rb sc s
  | .merBias rd ra sc => Sys2Proof.Machine.execMerBias rd ra sc s
  | .merBiasAdd rd ra sc => Sys2Proof.Machine.execMerBiasAdd rd ra sc s
  | .merBiasCopy rd ra sc => Sys2Proof.Machine.execMerBiasCopy rd ra sc s
  | .merSnap rd ra sc => Sys2Proof.Machine.execMerSnap rd ra sc s
  | .merSnapBias rd ra sc => Sys2Proof.Machine.execMerSnapBias rd ra sc s
  | .lqPush q ra sc => Sys2Proof.Machine.execLqPush q ra sc s
  | .lqStat rd q sc => Sys2Proof.Machine.execLqStat rd q sc s
  | .evSig ra rb sc => Sys2Proof.Machine.execEvSig ra rb sc s
  | .evSigSet ra rb sc => Sys2Proof.Machine.execEvSigSet ra rb sc s
  | .cqPop rd ra c sc => Sys2Proof.Machine.execCqPop rd ra c sc s
  | .cqPopAct p ra c sc => Sys2Proof.Machine.execCqPopAct p ra c sc s
  | .rfence rd sc => Sys2Proof.Machine.execRfence rd sc s
  | .rflush rd ra sc => Sys2Proof.Machine.execRflush rd ra sc s
  | .svResume rd ra sc => Sys2Proof.Machine.execSvResume rd ra sc s
  | .svResumeX10 rd ra rb sc => Sys2Proof.Machine.execSvResumeX10 rd ra rb sc s
  | .svBreak rd ra sc => Sys2Proof.Machine.execSvBreak rd ra sc s
  | .svFreeze rd ra sc => Sys2Proof.Machine.execSvFreeze rd ra sc s
  | .svThaw rd ra sc => Sys2Proof.Machine.execSvThaw rd ra sc s
  | .svSave rd ra rb sc => Sys2Proof.Machine.execSvSave rd ra rb sc s
  | .svLoad rd ra rb sc => Sys2Proof.Machine.execSvLoad rd ra rb sc s
  | .tlbinv rd ra rb sc => Sys2Proof.Machine.execTlbinv rd ra rb sc s
  | .cMv rd rb => Sys2Proof.Machine.execCMv rd rb s
  | .cAdd rd rb => Sys2Proof.Machine.execCAdd rd rb s
  | .cSub rd rb => Sys2Proof.Machine.execCSub rd rb s
  | .cAddi rd imm => Sys2Proof.Machine.execCAddi rd imm s
  | .cLi rd imm => Sys2Proof.Machine.execCLi rd imm s
  | .cAnd rd rb => Sys2Proof.Machine.execCAnd rd rb s
  | .cOr rd rb => Sys2Proof.Machine.execCOr rd rb s
  | .cSlli rd h => Sys2Proof.Machine.execCSlli rd h s
  | .cSrli rd h => Sys2Proof.Machine.execCSrli rd h s
  | .cLd rd ra o => Sys2Proof.Machine.execCLd rd ra o s
  | .cSd rd ra o => Sys2Proof.Machine.execCSd rd ra o s
  | .cBeqz ra o => Sys2Proof.Machine.execCBeqz ra o s
  | .cBnez ra o => Sys2Proof.Machine.execCBnez ra o s
  | .cJ o => Sys2Proof.Machine.execCJ o s
  | .cDone => Sys2Proof.Machine.execCDone s
  | .divideResult => Sys2Proof.Machine.execDivideResult s
  | .loadDataReturn => Sys2Proof.Machine.execLoadDataReturn s
  | .storePerformedAtHome => Sys2Proof.Machine.execStorePerformedAtHome s
  | .invocationArrival => Sys2Proof.Machine.execInvocationArrival s
  | .forwardedInvocationArrival => Sys2Proof.Machine.execForwardedInvocationArrival s
  | .tableEntryWaitRelease => Sys2Proof.Machine.execTableEntryWaitRelease s
  | .inboxCellAssignment => Sys2Proof.Machine.execInboxCellAssignment s
  | .activationAdmission => Sys2Proof.Machine.execActivationAdmission s
  | .resolutionNotice => Sys2Proof.Machine.execResolutionNotice s
  | .locationNotice => Sys2Proof.Machine.execLocationNotice s
  | .watchRequest => Sys2Proof.Machine.execWatchRequest s
  | .whenNotice => Sys2Proof.Machine.execWhenNotice s
  | .releaseNotice => Sys2Proof.Machine.execReleaseNotice s
  | .reservationRequest => Sys2Proof.Machine.execReservationRequest s
  | .reservationGrant => Sys2Proof.Machine.execReservationGrant s
  | .creditReturn => Sys2Proof.Machine.execCreditReturn s
  | .reservationBlockReturn => Sys2Proof.Machine.execReservationBlockReturn s
  | .runLimitExpiry => Sys2Proof.Machine.execRunLimitExpiry s
  | .slotWake => Sys2Proof.Machine.execSlotWake s
  | .copyCommandStart => Sys2Proof.Machine.execCopyCommandStart s
  | .copyItem => Sys2Proof.Machine.execCopyItem s
  | .copyCompletion => Sys2Proof.Machine.execCopyCompletion s
  | .loopIterationStart => Sys2Proof.Machine.execLoopIterationStart s
  | .triggeredCopyFire => Sys2Proof.Machine.execTriggeredCopyFire s
  | .fdivFsqrtResult => Sys2Proof.Machine.execFdivFsqrtResult s
  | .matrixGrant => Sys2Proof.Machine.execMatrixGrant s
  | .matrixStepRetire => Sys2Proof.Machine.execMatrixStepRetire s
  | .matrixQueueCommandPerform => Sys2Proof.Machine.execMatrixQueueCommandPerform s
  | .epilogueComplete => Sys2Proof.Machine.execEpilogueComplete s
  | .governorWindowEnd => Sys2Proof.Machine.execGovernorWindowEnd s
  | .auctionTake => Sys2Proof.Machine.execAuctionTake s
  | .auctionRound => Sys2Proof.Machine.execAuctionRound s
  | .launchRecordTake => Sys2Proof.Machine.execLaunchRecordTake s
  | .launchExpansionSend => Sys2Proof.Machine.execLaunchExpansionSend s
  | .activationEndNotice => Sys2Proof.Machine.execActivationEndNotice s
  | .completionRecordWrite => Sys2Proof.Machine.execCompletionRecordWrite s
  | .cqArmFire => Sys2Proof.Machine.execCqArmFire s
  | .sliceExpiry => Sys2Proof.Machine.execSliceExpiry s
  | .windowPortTake => Sys2Proof.Machine.execWindowPortTake s
  | .windowArrival => Sys2Proof.Machine.execWindowArrival s
  | .windowAnswer => Sys2Proof.Machine.execWindowAnswer s
  | .placementTimeout => Sys2Proof.Machine.execPlacementTimeout s
  | .getReply => Sys2Proof.Machine.execGetReply s
  | .receiveEntryStateWrite => Sys2Proof.Machine.execReceiveEntryStateWrite s
  | .closeNotice => Sys2Proof.Machine.execCloseNotice s
  | .closeAnswer => Sys2Proof.Machine.execCloseAnswer s
  | .closeTimeout => Sys2Proof.Machine.execCloseTimeout s
  | .farResendTimer => Sys2Proof.Machine.execFarResendTimer s
  | .tombstoneExpiry => Sys2Proof.Machine.execTombstoneExpiry s
  | .queuePairResend => Sys2Proof.Machine.execQueuePairResend s
  | .rateIncrease => Sys2Proof.Machine.execRateIncrease s
  | .flitReceive => Sys2Proof.Machine.execFlitReceive s
  | .linkRetrain => Sys2Proof.Machine.execLinkRetrain s
  | .linkRekeyMarker => Sys2Proof.Machine.execLinkRekeyMarker s
  | .groupContribution => Sys2Proof.Machine.execGroupContribution s
  | .groupResult => Sys2Proof.Machine.execGroupResult s
  | .groupSlotTimeout => Sys2Proof.Machine.execGroupSlotTimeout s
  | .translationWalk => Sys2Proof.Machine.execTranslationWalk s
  | .pageMonitorWake => Sys2Proof.Machine.execPageMonitorWake s
  | .monitorPoll => Sys2Proof.Machine.execMonitorPoll s
  | .shootdownComplete => Sys2Proof.Machine.execShootdownComplete s
  | .bankRegisterWrite => Sys2Proof.Machine.execBankRegisterWrite s
  | .bankRoleDrainComplete => Sys2Proof.Machine.execBankRoleDrainComplete s
  | .translationRootWrite => Sys2Proof.Machine.execTranslationRootWrite s
  | .sequenceAreaBaseWrite => Sys2Proof.Machine.execSequenceAreaBaseWrite s
  | .l2LineEviction => Sys2Proof.Machine.execL2LineEviction s
  | .patrolScrub => Sys2Proof.Machine.execPatrolScrub s
  | .containmentResetGo => Sys2Proof.Machine.execContainmentResetGo s
  | .containmentResetComplete => Sys2Proof.Machine.execContainmentResetComplete s
  | .mailboxLoadkey => Sys2Proof.Machine.execMailboxLoadkey s
  | .mailboxErasekey => Sys2Proof.Machine.execMailboxErasekey s
  | .mailboxLinkkey => Sys2Proof.Machine.execMailboxLinkkey s
  | .mailboxFlowkey => Sys2Proof.Machine.execMailboxFlowkey s
  | .mailboxJobstart => Sys2Proof.Machine.execMailboxJobstart s
  | .mailboxJobend => Sys2Proof.Machine.execMailboxJobend s
  | .mailboxExtend => Sys2Proof.Machine.execMailboxExtend s
  | .mailboxInvalidOp => Sys2Proof.Machine.execMailboxInvalidOp s
  | .mailboxRequestComplete => Sys2Proof.Machine.execMailboxRequestComplete s
  | .watchdogExpiry => Sys2Proof.Machine.execWatchdogExpiry s
  | .thermalThreshold => Sys2Proof.Machine.execThermalThreshold s
  | .chipReset => Sys2Proof.Machine.execChipReset s
  | .timeCorrection => Sys2Proof.Machine.execTimeCorrection s
  | .clusterPowerRequest => Sys2Proof.Machine.execClusterPowerRequest s
  | .clusterPowerChangeComplete => Sys2Proof.Machine.execClusterPowerChangeComplete s
  | .launchQueueConfigWrite => Sys2Proof.Machine.execLaunchQueueConfigWrite s
  | .sliceRegisterWrite => Sys2Proof.Machine.execSliceRegisterWrite s
  | .configRegisterWrite => Sys2Proof.Machine.execConfigRegisterWrite s
  | .illegalInstruction => Sys2Proof.Machine.execIllegalInstruction s
  | .instructionFetchFault => Sys2Proof.Machine.execInstructionFetchFault s
  | .astrolabeMemoryError => Sys2Proof.Machine.execAstrolabeMemoryError s

end Sys2Proof.Machine
end

