-- ==== Sys2Proof/Machine/Issue.lean ====
section
/-! DEFINITION. Issue: fetching at a slot's PC, which slot a core issues from, and the scoreboard's check before an instruction executes (R27, R61, R63, R69 to R72). -/

namespace Sys2Proof.Machine

/-- What a fetch gives. -/
inductive Fetched where
  | fault (cause : Nat) (addr : Word) (entry : Option Nat)
  | illegal (word : Nat)
  | instr (i : Sys2Proof.Instr)
deriving DecidableEq, Repr

/-- Two bytes of text at a chip virtual address, with the checks of R147 for a fetch; cause 0 where no walk is free (R146). -/
def State.fetchHalf (c : Nat) (pc : BitVec 48) (s : State) : Except Bad (List Byte × State) :=
  let a : Word := pc.setWidth 64
  match s.check c a 2 .fetch with
  | (.ok h, s) => if s.homePoison h then .error (cPOISON, a, none) else .ok (s.homeBytes h 2, s)
  | (.bad ca e, _) => .error (ca, a, e)
  | (.busy, _) => .error (0, a, none)
  | (_, _) => .error (cPROTECTION, a, none)

/-- The instruction at slot `k`'s PC (R61, R63). -/
def State.fetch (k : Nat) (s : State) : Fetched × State :=
  let pc := (s.slot k).pc
  let answer := fun (d : Decoded) => match d with
    | .instr i _ => Fetched.instr i
    | .illegal w _ => Fetched.illegal w.toNat
    | .short => Fetched.illegal 0
  match s.fetchHalf (coreOf k) pc with
  | .error (c, a, e) => (.fault c a e, s)
  | .ok (l, s) =>
    if (l.headD 0).toNat % 2 = 0 then (answer (decode l), s)
    else match s.fetchHalf (coreOf k) (pc + 2) with
      | .error (c, a, e) => (.fault c a e, s)
      | .ok (r, s) => (answer (decode (l ++ r)), s)

/-- The x registers an instruction writes as its slot stands: an inline child's return, and a `spawn` that runs its child inline, write x10
to x13 (R31). -/
def State.inlineWrites (s : State) (k : Nat) (i : Sys2Proof.Instr) : List Nat :=
  match i with
  | .done _ => if (s.slot k).inl.isSome then [10, 11, 12, 13] else []
  | .spawn ra _ _ =>
    let key := creditKey (coreNum s.chipNo (wbits (((s.slot k).landBy s.cycle).getX ra) 0 11))
    if (s.slot k).inl.isNone && decide ((s.credit (coreOf k) key).avail = 0) then [10, 11, 12, 13] else []
  | _ => []

/-- Whether one of those writes still has to wait for an earlier one (R70). -/
def State.inlineHeld (s : State) (k : Nat) (i : Sys2Proof.Instr) : Bool :=
  (s.inlineWrites k i).any fun n => (s.slot k).pend.any fun w => decide (s.cycle < w.land) && decide (w.num = n)

/-- Whether slot `k` may issue in this cycle: it holds an activation, is neither parked nor frozen, has no stall count
to wait out (R27, R69), its fetch has a walk where it needs one (R146), and its instruction does not interlock (R70, R212). -/
def State.canIssue (s : State) (k : Nat) : Bool :=
  let sl := s.slot k
  sl.active && decide (sl.park = .run) && !sl.frozen && decide (sl.ready ≤ s.cycle) &&
  match (s.fetch k).1 with
  | .instr i => !sl.interlocked s.cycle i && !s.inlineHeld k i
  | .fault c _ _ => decide (c ≠ 0)
  | .illegal _ => true

/-- The slot core `c` issues from: the next one in ascending order with wrap-around (R27). -/
def State.select (s : State) (c : Nat) : Option Nat :=
  let running := isSup c || decide ((s.cluster (clusterOf c)).pstate = 1)
  if !running then none
  else ((List.range 8).map fun i => c * 8 + ((s.core c).last + 1 + i) % 8).find? fun k => s.canIssue k

/-- The streams an instruction names: its format code, destination and sources, for one that works on lanes. -/
def laneForm : Sys2Proof.Instr → Option (BitVec 2 × Option Reg × List Reg)
  | .fadd rd ra rb m _ => some (m, some rd, [ra, rb])
  | .fsub rd ra rb m _ => some (m, some rd, [ra, rb])
  | .fmul rd ra rb m _ => some (m, some rd, [ra, rb])
  | .fmin rd ra rb m _ => some (m, some rd, [ra, rb])
  | .fmax rd ra rb m _ => some (m, some rd, [ra, rb])
  | .fabs rd ra m _ => some (m, some rd, [ra])
  | .fneg rd ra m _ => some (m, some rd, [ra])
  | .fsel rd ra rb m _ => some (m, some rd, [ra, rb])
  | .fmv rd ra m _ => some (m, some rd, [ra])
  | .fdiv rd ra rb m _ => some (m, some rd, [ra, rb])
  | .fsqrt rd ra m _ => some (m, some rd, [ra])
  | .fma rd ra rb c f _ => some (f, some rd, [ra, rb, c])
  | .fnma rd ra rb c f _ => some (f, some rd, [ra, rb, c])
  | .frcp rd ra m _ => some (m, some rd, [ra])
  | .frsq rd ra m _ => some (m, some rd, [ra])
  | .fexp2 rd ra m _ => some (m, some rd, [ra])
  | .flog2 rd ra m _ => some (m, some rd, [ra])
  | .fsum rd ra m _ => some (m, some rd, [ra])
  | .fmaxr rd ra m _ => some (m, some rd, [ra])
  | .fcmp _ _ ra rb m _ => some (m, none, [ra, rb])
  | _ => none

/-- The ILLEGALs that depend on the slot's state at issue, which stand before the check of its operands as every ILLEGAL does (R63): a
`loop` while one is open (R95) and the stream cases of R215 and R216. -/
def State.illegalNow (s : State) (i : Sys2Proof.Instr) : Bool :=
  match laneForm i with
  | some (m, dst, srcs) => s.streamIllegal m dst srcs
  | none => match i with
    | .loop _ _ _ => decide (s.me.lcount ≠ 0)
    | .fld rd _ _ _ _ => (s.streamAt rd).any fun st => !st.write
    | .fst rd _ _ _ _ => (s.streamAt rd).any (·.write)
    | .fcvt rd ra _ _ _ _ => (s.streamAt rd).isSome || (s.streamAt ra).isSome
    | .fpack rd ra rb _ _ => (s.streamAt rd).isSome || (s.streamAt ra).isSome || (s.streamAt rb).isSome
    | .funpack rd ra _ _ _ => (s.streamAt rd).isSome || (s.streamAt ra).isSome
    | .fshuf rd ra _ _ _ => (s.streamAt rd).isSome || (s.streamAt ra).isSome
    | _ => false

/-- A word that decode or privilege turns away before its operands are read (R63, R67). -/
def State.turnedAway (s : State) (i : Sys2Proof.Instr) : Bool :=
  let major := (Sys2Proof.encodeWord i).getD 0 / 2 % 64
  decide (i.len = 4) &&
  ((isSup s.myCore && (decide (major = 0x29) || decide (major = 0x2A))) || (!isSup s.myCore && decide (major = 0x2D)) || s.illegalNow i)

/-- What slot `k` issues: the instruction to execute, with the slot in hand and its due results landed; or the state after
the trap STALLSHORT (R72). -/
def State.issueFrom (k : Nat) (s : State) : Sys2Proof.Instr × State ⊕ State :=
  let s := { s with cur := k, arg := Arg.zero }.modCore (coreOf k) fun c => { c with last := k % 8, issued := s.cycle + 1 }
  let s := s.modSlot k (Slot.landBy s.cycle)
  match s.fetch k with
  | (.fault c a e, s) => .inl (.instructionFetchFault, { s with arg := ⟨c, match e with | none => 0 | some e => e + 1, 0, a, .chip, false⟩ })
  | (.illegal w, s) => .inl (.illegalInstruction, { s with arg := { Arg.zero with v := w64 w } })
  | (.instr i, s) =>
    if (s.core (coreOf k)).scheck ∧ !s.turnedAway i then
      match s.me.early s.cycle i with
      | some pc => .inr (s.trap cSTALLSHORT (pc.setWidth 64))
      | none => .inl (i, s)
    else .inl (i, s)

end Sys2Proof.Machine
end

