-- ==== Sys2Proof/Machine/Ranks.lean ====
section
/-! DEFINITION. The order of what meets in one cycle (R22, R49, R112, R116, R125, R152, R175, R249, R279, R300, R323, R352, R367, R374):
every step has a rank, and within a cycle the ranks of the steps taken never fall (DEDUCED, log entry 3). -/

namespace Sys2Proof.Machine

/-- The place of a step of another agent among those of its cycle. 0: steps that go by the state before the cycle's instructions, the
engines' writes and fills among them. 1: issues of compute cores, and what their slots' accesses do. 2: issues of supervisor cores.
3: updates of `ev.sig`, `gleave`, the start of a containment reset. 4: registrations and `when` notices. 5: arrivals. 6: `gjoin` and
completion records. 7: `sv.save`. 8: wakes, admissions, ends and timers. 9: writes of configuration, and Astrolabe. None for an
instruction, which only a core takes. -/
def instrRank : Sys2Proof.Instr → Option Nat
  | .copyCommandStart => some 0
  | .copyItem => some 0
  | .copyCompletion => some 0
  | .loopIterationStart => some 0
  | .auctionTake => some 0
  | .auctionRound => some 0
  | .launchRecordTake => some 0
  | .launchExpansionSend => some 0
  | .matrixGrant => some 0
  | .windowPortTake => some 0
  | .windowAnswer => some 0
  | .getReply => some 0
  | .translationWalk => some 0
  | .l2LineEviction => some 0
  | .patrolScrub => some 0
  | .divideResult => some 1
  | .fdivFsqrtResult => some 0
  | .loadDataReturn => some 1
  | .storePerformedAtHome => some 1
  | .containmentResetGo => some 3
  | .watchRequest => some 4
  | .whenNotice => some 4
  | .resolutionNotice => some 5
  | .invocationArrival => some 5
  | .forwardedInvocationArrival => some 5
  | .tableEntryWaitRelease => some 5
  | .locationNotice => some 5
  | .releaseNotice => some 5
  | .reservationRequest => some 5
  | .reservationGrant => some 5
  | .creditReturn => some 5
  | .reservationBlockReturn => some 5
  | .activationEndNotice => some 5
  | .windowArrival => some 0
  | .closeNotice => some 5
  | .closeAnswer => some 5
  | .flitReceive => some 5
  | .linkRetrain => some 5
  | .linkRekeyMarker => some 5
  | .groupContribution => some 5
  | .groupResult => some 5
  | .completionRecordWrite => some 6
  | .inboxCellAssignment => some 8
  | .activationAdmission => some 8
  | .runLimitExpiry => some 8
  | .slotWake => some 8
  | .triggeredCopyFire => some 0
  | .matrixStepRetire => some 8
  | .matrixQueueCommandPerform => some 8
  | .epilogueComplete => some 8
  | .governorWindowEnd => some 0
  | .cqArmFire => some 0
  | .sliceExpiry => some 8
  | .placementTimeout => some 8
  | .closeTimeout => some 8
  | .farResendTimer => some 8
  | .tombstoneExpiry => some 8
  | .queuePairResend => some 8
  | .rateIncrease => some 8
  | .groupSlotTimeout => some 8
  | .pageMonitorWake => some 8
  | .monitorPoll => some 8
  | .shootdownComplete => some 8
  | .bankRoleDrainComplete => some 8
  | .containmentResetComplete => some 8
  | .mailboxRequestComplete => some 8
  | .watchdogExpiry => some 8
  | .clusterPowerChangeComplete => some 8
  | .receiveEntryStateWrite => some 9
  | .bankRegisterWrite => some 9
  | .translationRootWrite => some 9
  | .sequenceAreaBaseWrite => some 9
  | .mailboxLoadkey => some 9
  | .mailboxErasekey => some 9
  | .mailboxLinkkey => some 9
  | .mailboxFlowkey => some 9
  | .mailboxJobstart => some 9
  | .mailboxJobend => some 9
  | .mailboxExtend => some 9
  | .mailboxInvalidOp => some 9
  | .thermalThreshold => some 9
  | .chipReset => some 9
  | .timeCorrection => some 9
  | .clusterPowerRequest => some 9
  | .launchQueueConfigWrite => some 9
  | .sliceRegisterWrite => some 9
  | .configRegisterWrite => some 9
  | .astrolabeMemoryError => some 9
  | _ => none

/-- Place `key` of rank `r`. -/
def rankAt (r key : Nat) : Nat := r * 2 ^ 48 + key

/-- The place in its cycle of a step of another agent. Accesses go by (cluster, core, slot) (R116, R175), contributions by the fold order
(R367), and a notice before the messages that arrive with it (R22). -/
def State.eventRank (s : State) (e : Event) : Option Nat :=
  (instrRank e.i).map fun r => match e.i with
    | .launchRecordTake => rankAt (if e.arg.a = 1 then 3 else 0) 0
    | .slotWake => match (s.slot e.arg.a).park with
      | .group _ join _ => rankAt (if join then 6 else 3) 0
      | .merOut _ _ _ => rankAt 0 0
      | .merSnap _ _ _ _ _ => rankAt 0 0
      | _ => rankAt 8 0
    | .groupContribution => match s.net.find? fun p => p.id = e.arg.a with
      | none => rankAt 5 1
      | some p => match p.body with
        | .contribution _ order _ _ => rankAt 5 (2 + order)
        | .partialUp _ port _ _ _ _ => rankAt 5 (2 + portOrder port)
        | _ => rankAt 5 1
    | .resolutionNotice => rankAt 5 0
    | _ => rankAt r (if r = 1 then e.arg.a else if r = 5 then 1 else 0)

/-- The place of an issue of slot `k` that executes `i`: compute cores first, in ascending order of (cluster, core, slot), then the
supervisor cores, `sv.save` last. -/
def issueRank (k : Nat) (i : Sys2Proof.Instr) : Nat :=
  if !isSup (coreOf k) then rankAt 1 k
  else match i with
    | .svSave _ _ _ _ => rankAt 7 k
    | _ => rankAt 2 k

/-- The place of core `c`'s issue in this cycle; none where it has nothing to issue. -/
def State.coreRank (s : State) (c : Nat) : Option Nat :=
  (s.select c).map fun k =>
    if !isSup c then rankAt 1 k
    else match s.issueFrom k with
      | .inl (i, _) => issueRank k i
      | .inr _ => rankAt 2 k

/-- The place of a turn; none where it can come at any moment of a cycle. -/
def State.turnRank (s : State) (t : Turn) : Option Nat :=
  match t with
  | .issue c => s.coreRank c
  | .event e => s.eventRank e
  | .etherIn _ _ _ (.answer _) => some 0
  | _ => none

/-- Whether a turn has to wait for the next cycle: its place in this one is past, or its core has issued (R27). -/
def State.tooLate (s : State) (t : Turn) : Bool :=
  (match t with
    | .issue c => decide ((s.core c).issued = s.cycle + 1)
    | _ => false) ||
  (decide (s.rank ≠ 0) && (s.turnRank t).any fun n => decide (n < s.rank))

/-- Puts an event among others by their places, after those of its own. -/
def insertEvent (e : Nat × Event) : List (Nat × Event) → List (Nat × Event)
  | [] => [e]
  | x :: l => if e.1 < x.1 then e :: x :: l else x :: insertEvent e l

/-- Events in the order of their places. -/
def State.sorted (s : State) (l : List Event) : List Event :=
  (l.foldl (fun r e => insertEvent ((s.eventRank e).getD 0, e) r) []).map (·.2)

end Sys2Proof.Machine
end

