-- ==== Sys2Proof/Machine/Finish.lean ====
section
/-! DEFINITION. What stands around the step of an instruction or of another agent: what comes in from outside, the steps that the passing of time makes due, packets that leave, records of the chip supervisor queue (R370), and the fatal dump (R390). -/

namespace Sys2Proof.Machine

/-! ## What leaves at the end of a step -/

/-- Packets that have left the chip go to their ports or come back as unreachable; what that sends goes on too. -/
def State.flushOut : Nat → State → State
  | 0, s => s
  | n + 1, s =>
    match s.netOut with
    | [] => s
    | l => State.flushOut n (l.foldl (fun (s : State) p => s.dispatch p) { s with netOut := [] })

/-- Every port sends what it may (R359). -/
def State.drainPorts (s : State) : State :=
  if s.fabric.ports.all fun e => e.2.silent then s
  else s.modFabric fun f => { f with ports := f.ports.map fun e => (e.1, e.2.send) }

/-- A record of the chip supervisor queue lost (R370): LOST saturates. -/
def State.loseRecord (s : State) : State := s.modChip fun c => { c with lost := if c.lost = BitVec.allOnes 32 then c.lost else c.lost + 1 }

def State.queueSize (s : State) : Nat := 2 ^ (Nat.min s.chip.sqlog.toNat 6 + 10)

/-- Writes one record (R370): four doublewords as engine writes under supervisor core 0's root, the time last, which then becomes full. -/
def State.writeRecord (s : State) (r : SRec) : State :=
  let c := s.chip
  if c.sqbase = 0 then s
  else if (c.sqtail - c.sqhead).toNat = s.queueSize then s.loseRecord
  else
    let a := w64 (c.sqbase.toNat + 32 * (c.sqtail.toNat % s.queueSize))
    let l := toBytes 2 r.cause.toNat ++ toBytes 6 r.info.toNat ++ toBytes 8 r.w1.toNat ++ toBytes 8 r.w2.toNat ++ toBytes 8 s.time.toNat
    match s.engineStore 2048 a l false with
    | (.error _, s) => s.loseRecord
    | (.ok hs, s) =>
      let s := match hs with
        | h :: _ => s.fillWord (h.plus 24)
        | [] => s
      s.modChip fun c => { c with sqtail := c.sqtail + 1 }

/-- The records of a step, in the order they were caused. -/
def State.writeRecords (s : State) : State := s.records.foldl State.writeRecord { s with records := [] }

/-! ## The fatal dump (R390) -/

/-- Bytes written to LPDDR under key slot 0, line by line; `n` bounds the lines. -/
def State.dumpBytes : Nat → Nat → List Byte → State → State
  | 0, _, _, s => s
  | _, _, [], s => s
  | n + 1, pa, l, s =>
    let k := 64 - pa % 64
    State.dumpBytes n (pa + k) (l.drop k) ((s.lpWrite 0 pa (l.take k)).setPoison pa false)

/-- Doublewords written so. -/
def State.dumpWords (pa : Nat) (ws : List Word) (s : State) : State := s.dumpBytes (ws.length + 1) pa (ws.flatMap fun w => toBytes 8 w.toNat)

/-- Bytes of physical memory under key slot 0. -/
def State.dumped (s : State) (pa n : Nat) : List Byte := (List.range n).map fun i => s.lpByte 0 (pa + i)

/-- `n` free doublewords. -/
def freeWords (from' n : Nat) : List Word := (List.range n).map fun i => Config.freeWord (from' + i)

/-- A slot record in full: what R320 gives field by field, and then 140 free doublewords. -/
def Slot.record (sl : Slot) (from' : Nat) : List Word := sl.words ++ freeWords from' 140

/-- What the dump holds of compute core `c`, from its place on: its eight slot records, and its core record with 3064 free doublewords in the ranges
that R320 leaves open. -/
def State.dumpCore (s : State) (c at' from' : Nat) : List (Nat × List Word) :=
  ((List.range 8).map fun i => (at' + 2048 * i, (s.slot (c * 8 + i)).record (from' + 140 * i))) ++
  ((s.core c).parts ++ [(0x8028, freeWords (from' + 1120) 27), (0xA100, freeWords (from' + 1147) 992), (0xC018, freeWords (from' + 2139) 2045)]).map
    fun (x : Nat × List Word) => (at' + 16384 + x.1, x.2)

/-- How many free doublewords a dump holds. -/
def dumpFree : Nat := 2048 * 4184 + 128 * 140

/-- The parts of the dump up to the job record: where each lies from the base, and its doublewords (DESIGN CHOICE, log entry 28, for what the manual
leaves open of the layout). -/
def State.dumpParts (s : State) : List (Nat × List Word) :=
  let cause : BitVec 32 := match s.halted with
    | some n => if n ≤ 4 then BitVec.ofNat 32 n else Config.thermalCause
    | none => 0
  let cores := 64
  let sups := cores + 81920 * 2048
  let queue := sups + 2048 * 128
  let size := 4 * s.queueSize
  let rep := queue + 8 * size
  let traps := rep + 8 * s.chip.repair.length
  let queueWords := (List.range size).map fun i => match s.peek 2048 (s.chip.sqbase.toNat + 8 * i) with
    | some h => w64 (ofBytes (s.homeBytes h 8))
    | none => 0
  [(0, [w64 (0x4A534644 + cause.toNat * 2 ^ 32), s.time, s.chip.counter, 0, 0, 0, 0, 0])] ++
  ((List.range 2048).flatMap fun c => s.dumpCore c (cores + 81920 * c) (s.fresh + 4184 * c)) ++
  ((List.range 128).map fun i => (sups + 2048 * i, (s.slot (16384 + i)).record (s.fresh + 2048 * 4184 + 140 * i))) ++
  [(queue, queueWords), (rep, s.chip.repair.map fun e => w64 (e.2.toNat + e.1 * 2 ^ 32)),
   (traps, (List.range 16512).flatMap fun k => let sl := s.slot k
      [sl.tcause.setWidth 64, sl.taddr, sl.tpc.setWidth 64])]

/-- A fatal error: everything has stopped, the links go down, and Astrolabe writes the dump and a job record of kind 3, whose handle and
descriptor the manual leaves open. -/
def State.writeDump (s : State) : State :=
  let base := Config.dumpBase.toNat
  let parts := s.dumpParts
  let s := (List.range 8).foldl (fun (s : State) p => s.modPort p fun x => { x with down := true, out := [], kept := [], again := [] }) s
  let s := parts.foldl (fun (s : State) x => s.dumpWords (base + x.1) x.2) s
  let last := match parts.getLast? with
    | some x => x.1 + 8 * x.2.length
    | none => 0
  let n := s.fresh + dumpFree
  let desc := toBytes 8 (Config.freeData (n + 1)).toNat ++ toBytes 8 (Config.freeData (n + 2)).toNat
  match { s with fresh := n + 3 }.jobRecord 3 (Config.freeData n) desc (sha3 (s.dumped base last)) with
  | (r, s) => s.dumpBytes 45 (base + last) r

/-- The end of every step; a step that halted the chip with a fatal error writes the dump. -/
def State.settle (was : State) (s : State) : State :=
  let s := (State.flushOut 64 s).drainPorts.writeRecords
  match was.halted, s.halted with
  | none, some n => if n ≤ 5 then s.writeDump else s
  | _, _ => s

/-- An outcome with its state settled. -/
def settled (was : State) : Host.Outcome State Fault Refusal → Host.Outcome State Fault Refusal
  | .next s => .next (State.settle was s)
  | .fault f => .fault f
  | .refused r => .refused r

/-! ## What comes in -/

/-- A second checker mismatch on what core `c` issues next (R379): nothing of it commits, it traps at its own address, every activation of the
core ends, and the core is quarantined; on a supervisor core a fatal error (R389). A core with nothing to issue checks nothing. -/
def State.checkerFails (c : Nat) (s : State) : State :=
  match s.select c with
  | none => s
  | some k =>
    if isSup c then s.fatal 2
    else
      let s := (s.modCore c fun x => { x with last := k % 8, issued := s.cycle + 1 }).trapAt k cCHECKER 0 (s.slot k).pc none
      let sl := s.slot k
      let s := (s.activeSlots c).foldl (fun (s : State) j => s.breakActivation j rCHECKER cCHECKER) s
      (s.modCore c fun x => { x with quar := true }).record 0xB0 (clusterOf c + c % 8 * 2 ^ 8) (sl.tpc.setWidth 64) sl.retired

/-- A double error in a word of SRAM or L2 (R382), named by the line's number in the byte space. A line of an L2 slice takes its poison to LPDDR as it
leaves (R375). A line of an L1 lies in cluster SRAM, at a place the manual does not give: its record's address is open (DESIGN CHOICE, log entry 94). -/
def State.sramError (line : Nat) (s : State) : State :=
  let k := line * 64
  if k < 2 ^ 40 then s
  else if k < 2 ^ 41 then
    let cl := (k - 2 ^ 40) / 2 ^ 20
    (s.setPoison k true).record 0xA2 cl (w64 (2 ^ 63 + cl * 2 ^ 24 + k % 2 ^ 20)) 0
  else if k < 2 ^ 52 then
    let sl := (k - 2 ^ 41) / 2 ^ 40
    let pa := (k - 2 ^ 41) % 2 ^ 40
    match find? s.l2 (l2Index sl pa) with
    | none => s
    | some l => ({ s with l2 := put (l2Index sl pa) { l with dirty := true } s.l2 }.setPoison k true).record 0xA2 sl (w64 pa) 0
  else
    let cl := (k - 2 ^ 52) / 2 ^ 40
    if s.l1Has cl ((k - 2 ^ 52) % 2 ^ 40) then
      ({ s with fresh := s.fresh + 1 }.setPoison k true).record 0xA2 cl (Config.freeData s.fresh) 0
    else s

/-- A symbol of a stored line of LPDDR 6 goes bad (R380); the line is decoded as it is read. -/
def State.lpError (line sym : Nat) (s : State) : State :=
  let l := s.badSymbols line
  if 2 ^ 34 ≤ line ∨ 72 ≤ sym ∨ l.contains sym then s else { s with errors := put line (sym :: l) s.errors }

/-- Whether a receiver refuses a packet number of a flow (R384): far below the highest accepted, or accepted before. -/
def State.flowRefuses (s : State) (flow num : Nat) : Bool :=
  match find? s.chip.flowSeen flow with
  | none => false
  | some (hi, seen) => decide (num + 4096 < hi) || decide (num = hi) || seen.contains num

/-- The record of the packet numbers of a flow with `num` accepted. -/
def flowTake (num : Nat) : Option (Nat × List Nat) → Nat × List Nat
  | none => (num, [])
  | some (hi, seen) =>
    let top := Nat.max hi num
    (top, ((if hi < num then hi else num) :: seen).filter fun n => decide (top ≤ n + 4096))

/-- The far chip that a packet over Ethernet comes from. -/
def EthIn.chip : EthIn → Nat
  | .packet p => p.src
  | .answer a => a.src
  | .close chip _ _ => chip
  | .rekey chip => chip

/-- A NACK 0x05 toward the source of a packet of a flow whose tag fails (R384); for one that is no window traffic it names no packet. -/
def State.etherNack (x : EthIn) (s : State) : State := s.answerTo (match x with
  | .packet p => p
  | x => { WPack.blank with src := x.chip }) 5 [] false

/-- An acknowledgement on a queue pair is cumulative (R350): it answers every packet of its connection before its own, but a get's, which its
reply answers. -/
def State.ackBefore (a : WAns) (s : State) : State :=
  match s.fabric.outgo.find? fun p => p.id = a.id with
  | none => s
  | some p =>
    let pair := match p.far with
      | none => false
      | some i => (look FarD.reset s.fabric.far i).qp
    let before := fun (q : WPack) => decide (q.far = p.far) && (q.seq - p.seq).getLsbD 31 &&
      !(s.fabric.answers.any fun x => decide (x.id = q.id)) && match q.op with
        | .get _ => false
        | _ => true
    if !pair || a.status ≠ 0 then s
    else (s.fabric.outgo.filter before).foldl (fun (s : State) q => s.windowBack q.id a.src 0 [] false false) s

/-- What arrives for this chip in a flow. A packet's poison flag covers all of its bytes (R375). -/
def State.etherTake (flow : Nat) (x : EthIn) (s : State) : State :=
  match x with
  | .packet p => (s.modFabric fun f => { f with flying := f.flying ++ [{ p with poison := wholly (!p.poison.isEmpty) p.bytes.length }] }).post
      .windowArrival (arg2 p.id p.src)
  | .answer a => if s.fabric.outgo.any fun p => p.id = a.id then (s.ackBefore a).windowBack a.id a.src a.status a.data a.poison a.echo else s
  | .close chip window answer =>
    let b : Body := if answer then .closeAns window else .closeAsk window
    let (n, s) := s.number
    { s with net := s.net ++ [(⟨n, chip * 2048, s.chipNo * 2048, b⟩ : Packet)] }.post b.step (arg1 n)
  | .rekey _ => match find? s.chip.flowKeys (4 * flow + 2) with
    | none => s
    | some k => s.modChip fun c => { c with flowKeys := put (4 * flow) k (del (4 * flow + 2) c.flowKeys), flowFails := del flow c.flowFails }

/-- A packet of a far chip over Ethernet (R348, R384): refused before the boot's last step has ended (R391), and discarded in a flow that is down. One
whose tag fails is discarded, answered NACK and recorded; the third of an epoch takes the flow down (DESIGN CHOICE, log entry 91). -/
def State.etherIn (flow num : Nat) (tagOk : Bool) (x : EthIn) (s : State) : State :=
  if !s.chip.opened || s.flowDown flow then s
  else if !tagOk then
    let port := match s.farEntry x.chip with
      | some i => (look FarD.reset s.fabric.far i).port.toNat
      | none => 0
    let s := s.modChip fun c => { c with flowFails := put flow (look 0 c.flowFails flow + 1) c.flowFails }
    (s.record 0x91 port (w64 num) 0).etherNack x
  else if s.flowRefuses flow num then s
  else (s.modChip fun c => { c with flowSeen := put flow (flowTake num (find? c.flowSeen flow)) c.flowSeen }).etherTake flow x

/-- What a turn of the agenda that is neither an issue, a step nor a wait does. -/
def State.input (t : Turn) (s : State) : State :=
  match t with
  | .issue _ => s
  | .tick _ => s
  | .event _ => s
  | .etherIn flow num ok x => s.etherIn flow num ok x
  | .flitIn port f => (s.modPort port fun p => { p with incoming := p.incoming ++ [f] }).post .flitReceive (arg1 port)
  | .checker c => s.checkerFails c
  | .sramError line => s.sramError line
  | .lpError line sym => s.lpError line sym
  | .dropL1 d line => if d < 256 then s.dropL1 d (line * 64) else s
  | .dropTlb d page => s.modCluster d fun k => { k with tlb := tlbDrop page 1 k.tlb }
  | .chipId n => s.modChip fun c => { c with chipid := n }

/-! ## Time -/

/-- The steps that the passing of cycles to `s.cycle`, from `before` on, makes due. -/
def State.dueNow (before : Nat) (s : State) : List Event :=
  (if before / 64 ≠ s.cycle / 64 ∧ (List.range 16).any (fun i => (s.cluster (cornerOf i)).granted ≠ 0) then [⟨.governorWindowEnd, Arg.zero⟩] else []) ++
  ((s.slotKeys.filter fun k => s.overRun k).map fun k => ⟨.runLimitExpiry, arg1 k⟩) ++
  ((s.launch.slices.filter fun e => e.2.armed && decide (e.2.slice ≠ 0) && decide (e.2.slice.toNat ≤ e.2.count)).map fun e => ⟨.sliceExpiry, arg1 e.1⟩) ++
  (if s.chip.wdog + 10 ^ 9 ≤ s.cycle then [⟨.watchdogExpiry, Arg.zero⟩] else [])

/-- `n` cycles pass. With the end of the cycle in hand FLAGS takes the flags of results delivered in it (R202), and the waits of filled words and the
counters of armed copies are looked at (R182, R246); then every step that stands out, and what is due, is to be tried once, in the order of places. -/
def State.advanceTime (n : Nat) (s : State) : State :=
  let s := s.endFlags.endFills.watchTriggers
  let t := (s.pass n).tickSlices n
  { t with todo := t.sorted (t.dueNow s.cycle ++ t.todo ++ t.work), work := [], rank := 0 }

end Sys2Proof.Machine
end

