-- ==== Sys2Proof/Machine/Step.lean ====
section
/-! DEFINITION. One step of the chip: the next turn of the agenda, or else what comes next in the cycle: a step of another agent that stands out, an issue of the focus core, or the cycle's end. -/

namespace Sys2Proof.Machine

/-- What a step goes on with after an outcome. -/
def andThen (f : State → State) : Host.Outcome State Fault Refusal → Host.Outcome State Fault Refusal
  | .next s => .next (f s)
  | .fault x => .fault x
  | .refused r => .refused r

/-- Core `c` issues once (R27): from the slot whose turn it is, if one may. -/
def State.issue (c : Nat) (s : State) : Host.Outcome State Fault Refusal :=
  match s.select c with
  | none => .next s
  | some k => match s.issueFrom k with
    | .inl (i, t) => exec i { t with rank := issueRank k i }
    | .inr t => .next { t with rank := rankAt (if isSup c then 2 else 1) k }

/-- The step of another agent, with its operands; an instruction is no such step. -/
def State.take (e : Event) (s : State) : Host.Outcome State Fault Refusal :=
  match s.eventRank e with
  | none => .next s
  | some n => exec e.i { s with arg := e.arg, deferred := false, rank := n }

/-- A step that stands out is tried. One that cannot take place yet, or whose place in this cycle is past, stands out further. -/
def State.tryEvent (e : Event) (s : State) : Host.Outcome State Fault Refusal :=
  if s.tooLate (.event e) then .next { s with work := s.work ++ [e] }
  else andThen (fun t => if t.deferred then { t with work := t.work ++ [e], deferred := false } else t) (s.take e)

/-- A step with nothing on the agenda: the next place of the cycle, be it an agent's step or the focus core's issue; when there is none,
the cycle ends. -/
def State.idle (s : State) : Host.Outcome State Fault Refusal :=
  let mine := if s.tooLate (.issue s.focus) then none else s.coreRank s.focus
  match s.todo, mine with
  | [], none => .next (s.advanceTime 1)
  | [], some _ => s.issue s.focus
  | e :: l, none => State.tryEvent e { s with todo := l }
  | e :: l, some n => if (s.eventRank e).getD 0 ≤ n then State.tryEvent e { s with todo := l } else s.issue s.focus

/-- What a turn of the agenda does. -/
def State.turn (t : Turn) (s : State) : Host.Outcome State Fault Refusal :=
  match t with
  | .issue c => s.issue c
  | .tick n => .next (s.advanceTime n)
  | .event e => andThen (fun t => { t with deferred := false }) (s.take e)
  | t => .next (s.input t)

/-- A turn of the agenda comes in this cycle or, where its place in it is past, in the next. -/
def State.inTime (t : Turn) (s : State) : State := if s.tooLate t then s.advanceTime 1 else s

/-- One step. After a fatal error nothing but a chip reset moves the chip (R390). -/
def step (s : State) : Host.Outcome State Fault Refusal :=
  match s.halted, s.agenda with
  | some _, .event ⟨.chipReset, a⟩ :: l => settled s (State.take ⟨.chipReset, a⟩ { s with agenda := l })
  | some _, _ => .fault .chipHalted
  | none, t :: l => settled s (State.turn t (State.inTime t { s with agenda := l }))
  | none, [] => settled s s.idle

/-! ## Placing an instruction -/

/-- Chip virtual page 1 for reading, writing and fetching, uncached, at physical page 1, and the tables that lead to it. -/
def placedTables : List (Nat × Word) := [(0x20000, 0x21001), (0x21000, 0x22001), (0x22000, 0x23001), (0x23008, 0x100000000BD)]

/-- The state with an instruction placed where the next step fetches it (DESIGN CHOICE, log entry 4): slot 0 of core 0 holds an activation, its PC in
page 1 of cluster 0's address space, key slot 0 is loaded, and the core is to issue. -/
def State.withFetchWord (s : State) (nbits w : Nat) : State :=
  let s := placedTables.foldl (fun (s : State) e => s.setBytes e.1 (toBytes 8 e.2.toNat)) s
  let s := s.setBytes 0x10000 (toBytes 4 (w % 2 ^ nbits))
  let s := s.modCluster 0 fun k => { k with req := 1, pstate := 1, en := true, root := 0x20, tlb := [] }
  let s := s.modSector 0 fun se => { se with walks := [] }
  let s := s.modCore 0 fun k => { k with last := 7, issued := 0 }
  let s := s.modChip fun c => { c with keys := put 0 ⟨true, 1, 0⟩ c.keys }
  let s := s.modSlot 0 fun sl => { sl with active := true, park := .run, frozen := false, ready := 0, pc := 0x10000, pend := [] }
  { s with agenda := [.issue 0], rank := 0, halted := none }

end Sys2Proof.Machine
end

