-- ==== Sys2Proof/Machine/Readback.lean ====
section
/-! DEFINITION. What a supervisor's read of a configuration or control block gives, register by register (R4): RW, W1C and RO fields
return what they hold; WO and reserved fields, and offsets without a register, read as 0. A read changes nothing. -/

namespace Sys2Proof.Machine

/-- A register's word from its fields, each at its lowest bit. -/
def fields (l : List (Nat × Nat)) : Word := w64 (l.foldl (fun n f => n + f.2 * 2 ^ f.1) 0)

/-! ## Cores (R12 to R14, R21, R40) and clusters (R130, R132, R140, R264, R265, R284, R394) -/

def Handler.toWord (h : Handler) : Word := fields [(0, h.pc.toNat), (48, h.prio.toNat), (50, h.mask.toNat), (51, h.valid.toNat)]
def ClassD.toWord (d : ClassD) : Word := fields [(0, d.valid.toNat), (1, d.datum.toNat), (2, d.inbox.toNat), (6, d.inboxen.toNat)]

/-- Word 0 of a region descriptor or, with its rights, of a protection region. -/
def Region.toWord (r : Region) : Word :=
  fields [(0, r.base.toNat), (20, r.size.toNat), (41, r.part.toNat), (49, r.valid.toNat), (50, r.rd.toNat), (51, r.wr.toNat)]

/-- A translation root's word. -/
def Cluster.rootWord (k : Cluster) : Word := fields [(0, k.en.toNat), (12, k.root.toNat)]

def State.readCore (s : State) (c off : Nat) : Word :=
  let k := s.core c
  match tableAt off 0 8 1024, tableAt off 0x2000 8 16, tableAt off 0x2100 16 16 with
  | some (n, _), _, _ => (look Handler.reset k.handlers n).toWord
  | _, some (n, _), _ => (look ClassD.reset k.classes n).toWord
  | _, _, some (n, b) => let r := look Region.reset k.regions n; if b = 0 then r.toWord else r.name
  | _, _, _ =>
    if off = 0x2200 then k.htbase.setWidth 64
    else if off = 0x2208 then fields [(0, k.seqbase.toNat), (48, k.sendlog.toNat), (52, k.recvlog.toNat)]
    else if off = 0x2210 then fields [(0, k.qbase.toNat), (48, k.qlog.toNat)]
    else if off = 0x2300 then k.agesint.setWidth 64
    else 0

def State.readCluster (s : State) (n off : Nat) : Word :=
  let k := s.cluster n
  match tableAt off 0 16 16, tableAt off 0x100 8 32 with
  | some (i, b), _ => if b = 0 then (look Region.reset k.prot i).toWord else 0
  | _, some (b, _) => let v := s.bank n b; fields [(0, v.role.toNat), (2, v.fmt.toNat), (6, v.busy.toNat)]
  | _, _ =>
    if off = 0x200 then k.rootWord
    else if off = 0x300 then fields ((List.range 8).map fun i => (4 * i, (look 1 k.weights i).toNat))
    else if off = 0x308 then k.budget.setWidth 64
    else if off = 0x310 then k.biaspart.setWidth 64
    else if off = 0x320 then fields [(0, k.req.toNat), (2, k.pstate.toNat), (4, k.pbusy.toNat)]
    else 0

/-! ## The launch unit (R306, R307, R311, R318) -/

def State.readLaunch (s : State) (off : Nat) : Word :=
  match tableAt off 0 8 16, tableAt off 0x80 8 16, tableAt off 0x1000 8 4096, tableAt off 0x9000 16 256 with
  | some (q, _), _, _, _ =>
    let v := s.lqueue q; fields [(0, v.part.toNat), (8, v.prio.toNat), (10, v.en.toNat), (16, v.recs.length)]
  | _, some (c, _), _, _ => let v := s.cqueue c; fields [(0, v.part.toNat), (8, v.en.toNat), (16, v.recs.length)]
  | _, _, some (n, _), _ =>
    let e := look EvReg.reset s.launch.events n
    fields [(0, e.count.toNat), (32, e.part.toNat), (40, e.group.toNat), (52, e.gbind.toNat), (53, e.failed.toNat)]
  | _, _, _, some (p, b) =>
    let x := s.slice p
    if b = 0 then fields [(0, x.slice.toNat), (32, x.armed.toNat)] else fields [(16, x.area.toNat)]
  | _, _, _, _ => 0

/-! ## The switch (R333 to R336, R348, R351, R353, R354, R362) -/

def Recv.toWord (r : Recv) : Word :=
  fields [(0, r.chip.toNat), (16, r.window.toNat), (26, r.gen.toNat), (42, r.valid.toNat), (43, r.relay.toNat)]

def TxEnt.read (e : TxEnt) (b : Nat) : Word :=
  if b = 0 then fields [(0, e.valid.toNat), (1, e.part.toNat), (13, e.size.toNat)]
  else if b = 8 then fields [(16, e.vbase.toNat)]
  else match tableAt b 64 8 16 with
    | some (i, _) => (look Recv.reset e.recv i).toWord
    | none => 0

/-- A receive entry's word `b` at cycle `now`; CLOSEAGE counts whole µs and saturates. -/
def RxEnt.read (now : Nat) (e : RxEnt) (b : Nat) : Word :=
  if b = 0 then fields [(0, e.st.toNat), (2, e.loopback.toNat), (3, e.redok.toNat), (4, e.sendmap.toNat), (5, e.part.toNat),
    (13, e.keyslot.toNat), (21, e.gen.toNat), (37, e.size.toNat)]
  else if b = 8 then e.plist.setWidth 64
  else if b = 16 then e.smap.setWidth 64
  else if b = 24 then fields [(0, e.pending), (32, if e.since = 0 then 0 else Nat.min ((now + 1 - e.since) / 1000) (2 ^ 32 - 1))]
  else if b = 32 then fields [(0, e.sigen.toNat), (3, e.sigoff.toNat)]
  else 0

def FarD.read (e : FarD) (b : Nat) : Word :=
  if b = 0 then fields [(0, e.valid.toNat), (1, e.qp.toNat), (2, e.conn.toNat), (14, e.rgroup.toNat), (22, e.port.toNat), (24, e.udp.toNat),
    (40, e.chip.toNat)]
  else if b = 8 then w64 (netOrder ((e.addr >>> 64).setWidth 64))
  else if b = 16 then w64 (netOrder (e.addr.setWidth 64))
  else if b = 24 then e.flow.setWidth 64
  else 0

/-- A group entry's word `b`, with the members on this chip and the instances that hold a slot. -/
def Group.read (members opened : Nat) (g : Group) (b : Nat) : Word :=
  if b = 0 then fields [(0, g.valid.toNat), (1, g.part.toNat), (9, g.op.toNat), (13, g.parent.toNat), (17, g.children.toNat)]
  else if b = 8 then g.timeout.setWidth 64
  else if b = 16 then fields [(0, members % 4096), (12, opened), (32, g.nexti.toNat)]
  else if b = 24 then g.late.setWidth 64
  else 0

def State.readFabric (s : State) (off : Nat) : Word :=
  let f := s.fabric
  match tableAt off 0 256 1024, tableAt off 0x40000 64 1024, tableAt off 0x50000 64 1024, tableAt off 0x60000 8 256,
    tableAt off 0x80000 32 4096, tableAt off 0xA0000 4 16384 with
  | some (n, b), _, _, _, _, _ => (look TxEnt.reset f.tx n).read b
  | _, some (n, b), _, _, _, _ => (look RxEnt.reset f.rx n).read s.cycle b
  | _, _, some (n, b), _, _, _ => (look FarD.reset f.far n).read b
  | _, _, _, some (n, _), _, _ => let r := look RGroup.reset f.rates n; fields [(0, r.rate.toNat), (20, r.max.toNat), (40, r.srtt.toNat)]
  | _, _, _, _, some (g, b), _ =>
    (s.group g).read (f.members.filter fun m => m.group = g).length (f.rslots.filter fun r => r.2.group = g).length b
  | _, _, _, _, _, some (n, _) => (look 0 f.routes n).setWidth 64
  | _, _, _, _, _, _ =>
    if off = 0x61000 then fields [(0, f.closetmo.toNat), (16, f.placetmo.toNat), (32, f.msglife.toNat)]
    else if off = 0x70000 then f.coord.setWidth 64
    else 0

/-! ## The chip control block and the partition descriptors (R34, R36, R172, R370, R372, R377, R383, R385) -/

def State.readChip (s : State) (off : Nat) : Word :=
  let c := s.chip
  match tableAt off 0x200 8 4, tableAt off 0x400 8 256, tableAt off 0xC00 8 256 with
  | some (i, _), _, _ => (c.paction >>> (64 * i)).setWidth 64
  | _, some (n, _), _ => let k := look KeySlot.reset c.keys n; fields [(0, k.loaded.toNat), (32, k.loads.toNat)]
  | _, _, some (p, _) => look 0 c.fhandle p
  | _, _, _ =>
    if off = 0 then fields [(0, c.sqbase.toNat), (48, c.sqlog.toNat)]
    else if off = 8 then fields [(0, c.sqhead.toNat), (32, c.sqtail.toNat)]
    else if off = 0x10 then c.lost.setWidth 64
    else if off = 0x100 then fields [(0, c.rstPart.toNat), (9, c.rstBusy.toNat)]
    else if off = 0x308 then fields [(0, c.mail.isSome.toNat), (8, c.mstatus.toNat)]
    else if off = 0x1800 then fields [(0, c.fullEn.toNat), (34, c.fullBase.toNat)]
    else 0

/-- What a read of offset `off` of a block gives (R4); STATE of a partition is what R399 says it is at that moment. -/
def State.configRead (s : State) (blk : Block) (off : Nat) : Word :=
  match blk with
  | .core c => s.readCore c off
  | .cluster k => s.readCluster k off
  | .launch => s.readLaunch off
  | .fabric => s.readFabric off
  | .chip => s.readChip off
  | .partition p => (({ s.part p with st := s.stateOf p } : Part).words).getD (off / 8) 0
  | .supervisor i => if off = 0x200 then (s.cluster (256 + i)).rootWord else 0

end Sys2Proof.Machine
end

