-- ==== Sys2Proof/Safety.lean ====
section
/-! DEFINITION. The terms statements are made in: what an instruction answers, and what a state keeps of another (the frame of an instruction). -/

namespace Sys2Proof.Machine

/-- `exec i` at `s` answers a next state, and `P` holds of it. -/
def State.gives (s : State) (i : Sys2Proof.Instr) (P : State → Prop) : Prop := ∃ t, exec i s = .next t ∧ P t

/-! ## Frames -/

/-- `t` is `s` in everything but slot `k`: memory, every core, cluster, sector and unit, and every other slot. -/
def State.onlySlot (k : Nat) (s t : State) : Prop := t = { s with slots := t.slots } ∧ ∀ j, j ≠ k → t.slot j = s.slot j

/-- As `onlySlot`, and steps of other agents may have come to stand out. -/
def State.onlySlotPosts (k : Nat) (s t : State) : Prop :=
  t = { s with slots := t.slots, work := t.work } ∧ ∀ j, j ≠ k → t.slot j = s.slot j

/-- A slot keeps everything but its registers, the results under way, the PC, LCOUNT, RETIRED and its stall count. -/
def Slot.keepsRest (a b : Slot) : Prop :=
  b = { a with x := b.x, f := b.f, p := b.p, pend := b.pend, pc := b.pc, lcount := b.lcount, retired := b.retired, ready := b.ready, waited := b.waited }

/-- A slot keeps every register, and every result under way. -/
def Slot.keepsRegs (a b : Slot) : Prop := b.x = a.x ∧ b.f = a.f ∧ b.p = a.p ∧ b.pend = a.pend

/-! ## Retirement (R69, R94, R97, R392) -/

/-- An instruction of `len` bytes and stall count `sc` has retired without a transfer of control: the PC is at the next
address or, by the loop rule of R97, at LSTART; RETIRED has counted it; the slot may issue `sc` cycles later than the next. -/
def State.stepped (len sc : Nat) (s t : State) : Prop :=
  t.me.pc = (s.me.seq len).pc ∧ t.me.lcount = (s.me.seq len).lcount ∧ t.me.retired = s.me.retired + 1 ∧ t.me.ready = s.cycle + 1 + sc

/-- As `stepped`, for a transfer of control to `a`. -/
def State.jumped (a : BitVec 48) (sc : Nat) (s t : State) : Prop :=
  t.me.pc = a ∧ t.me.lcount = (s.me.goto a).lcount ∧ t.me.retired = s.me.retired + 1 ∧ t.me.ready = s.cycle + 1 + sc

/-- The instruction has retired, and nothing else of the machine has changed but what `f` does to its slot. -/
def State.stepsOnly (len sc : Nat) (s t : State) : Prop :=
  s.onlySlot s.cur t ∧ s.me.keepsRest t.me ∧ s.me.keepsRegs t.me ∧ s.stepped len sc t

/-! ## Results -/

/-- x[q] as it reads once every result under way has landed. -/
def Slot.xEnd (sl : Slot) (q : Reg) : Word := sl.flush.getX q
/-- f[q] so. -/
def Slot.fEnd (sl : Slot) (q : Reg) : QWord := sl.flush.getF q
/-- p[q] so. -/
def Slot.pEnd (sl : Slot) (q : PReg) : Byte := sl.flush.getP q

/-- Slot `b` has slot `a`'s registers, but for x[rd], which reads `v` (x0 reads 0 whatever is written). -/
def Slot.xIs (rd : Reg) (v : Word) (a b : Slot) : Prop :=
  b.f = a.f ∧ b.p = a.p ∧ b.pend = a.pend ∧ ∀ q : Reg, b.getX q = if q = 0 then 0 else if q = rd then v else a.getX q

/-- Slot `b` has slot `a`'s registers, but for p[rd], which reads `v` (p0 reads 0xFF). -/
def Slot.pIs (rd : PReg) (v : Byte) (a b : Slot) : Prop :=
  b.x = a.x ∧ b.f = a.f ∧ b.pend = a.pend ∧ ∀ q : PReg, b.getP q = if q = 0 then 0xFF else if q = rd then v else a.getP q

/-- A result of latency `l` for x[rd] is under way, behind those of `a`: x[rd] reads `v` from cycle `land` on. -/
def Slot.xComes (rd : Reg) (v : Word) (land : Nat) (a b : Slot) : Prop :=
  b.x = a.x ∧ b.f = a.f ∧ b.p = a.p ∧ (∃ w : PendWrite, b.pend = a.pend ++ [w] ∧ w.land = land) ∧
  ∀ q : Reg, b.xEnd q = if q = 0 then 0 else if q = rd then v else a.xEnd q

/-- The same for the bits `mask` of f[rd]. -/
def Slot.fComes (rd : Reg) (v mask : QWord) (land : Nat) (a b : Slot) : Prop :=
  b.x = a.x ∧ b.f = a.f ∧ b.p = a.p ∧ (∃ w : PendWrite, b.pend = a.pend ++ [w] ∧ w.land = land) ∧
  ∀ q : Reg, b.fEnd q = if q = rd then (a.fEnd q &&& ~~~mask) ||| (v &&& mask) else a.fEnd q

/-- The same for p[rd]. -/
def Slot.pComes (rd : PReg) (v : Byte) (land : Nat) (a b : Slot) : Prop :=
  b.x = a.x ∧ b.f = a.f ∧ b.p = a.p ∧ (∃ w : PendWrite, b.pend = a.pend ++ [w] ∧ w.land = land) ∧
  ∀ q : PReg, b.pEnd q = if q = 0 then 0xFF else if q = rd then v else a.pEnd q

/-- The instruction retires with `v` in x[rd], and changes nothing else. -/
def State.setsX (rd : Reg) (v : Word) (len sc : Nat) (s t : State) : Prop :=
  s.onlySlot s.cur t ∧ s.me.keepsRest t.me ∧ s.stepped len sc t ∧ s.me.xIs rd v t.me

/-- The instruction retires with `v` in p[rd], and changes nothing else. -/
def State.setsP (rd : PReg) (v : Byte) (len sc : Nat) (s t : State) : Prop :=
  s.onlySlot s.cur t ∧ s.me.keepsRest t.me ∧ s.stepped len sc t ∧ s.me.pIs rd v t.me

/-- The instruction retires with `v` on its way to x[rd], readable from `l` cycles later on, and changes nothing else. -/
def State.sendsX (rd : Reg) (v : Word) (l len sc : Nat) (s t : State) : Prop :=
  s.onlySlot s.cur t ∧ s.me.keepsRest t.me ∧ s.stepped len sc t ∧ s.me.xComes rd v (s.cycle + l) t.me

/-- The instruction transfers control to `a` if `taken`, and else goes on; it changes nothing else. -/
def State.branches (taken : Prop) (a : BitVec 48) (len : Nat) (s t : State) : Prop :=
  s.onlySlot s.cur t ∧ s.me.keepsRest t.me ∧ s.me.keepsRegs t.me ∧ (taken → s.jumped a 0 t) ∧ (¬ taken → s.stepped len 0 t)

/-- A slot that parks: the results under way have landed, and nothing else has changed but its park and stall count. -/
def Slot.parksAs (p : Park) (ready : Nat) (a b : Slot) : Prop := b = { a.flush with park := p, ready := ready }

/-! ## Traps (R6, R29, R119, R126, R127) -/

/-- `t` is `s` in everything but slot `k`, and what a trap tells others: a message or a record on its way, a table line
that is watched, the steps that come of them, and the halt of the chip. -/
def State.onlyTells (k : Nat) (s t : State) : Prop :=
  t = { s with slots := t.slots, net := t.net, netOut := t.netOut, work := t.work, records := t.records, serial := t.serial,
               monitors := t.monitors, halted := t.halted } ∧
  ∀ j, j ≠ k → t.slot j = s.slot j

/-- The trap registers hold `cause`, `addr` and `pc`; no register but by a result that was under way, no loop state and no
count has changed. -/
def Slot.trapRegs (cause : Nat) (addr : Word) (pc : BitVec 48) (a b : Slot) : Prop :=
  b.tcause = BitVec.ofNat 8 cause ∧ b.taddr = addr ∧ b.tpc = pc ∧ b.x = a.flush.x ∧ b.f = a.flush.f ∧ b.p = a.flush.p ∧ b.pend = [] ∧
  b.lcount = a.lcount ∧ b.retired = a.retired

/-- A trap of slot `k`, with what its PC and its registers were: on a compute core the slot parks, by a table entry to be watched
if there is one; on a supervisor core it goes on at VEC with INTRAP set, or the chip halts. -/
def State.trapped (k cause : Nat) (addr : Word) (pc : BitVec 48) (entry : Option Nat) (s t : State) : Prop :=
  s.onlyTells k t ∧ (s.slot k).trapRegs cause addr pc (t.slot k) ∧
  (isSup (coreOf k) = false → (t.slot k).park = .trap entry ∧ (t.slot k).pc = (s.slot k).pc ∧ t.halted = s.halted) ∧
  (isSup (coreOf k) = true → (s.slot k).intrap = false → (s.slot k).vec ≠ 0 →
    (t.slot k).intrap = true ∧ (t.slot k).pc = evenPc (s.slot k).vec ∧ (t.slot k).park = .run ∧ t.halted = s.halted) ∧
  (isSup (coreOf k) = true → ((s.slot k).intrap = true ∨ (s.slot k).vec = 0) → t.halted = some 1)

/-- The instruction in hand traps with `cause` and `addr`, and has no other effect (R6). -/
def State.trapsWith (cause : Nat) (addr : Word) (s t : State) : Prop := s.trapped s.cur cause addr s.me.pc none t

/-- The machine keeps its run: what no step but a fatal error ends. -/
def State.safe (s : State) : Prop := s.halted = none

end Sys2Proof.Machine
end

