-- ==== Sys2Proof/Certificates/Slice0/Obligations.lean ====
section
/-! DEFINITION. The statements about the model, from the numbered rules of the manual. -/

open Sys2Proof Sys2Proof.Machine

/-! ## Scalar results (R81 to R89) -/

/-- R81: every operation of major 0x01 but the divisions, its value and its frame. -/
def registerFormResultsRules : Prop :=
  ∀ (s : State) (rd ra rb : Reg) (sc : BitVec 3) (k : BitVec 2),
    let a := s.x ra; let b := s.x rb; let n := b.toNat % 64; let c := sc.toNat
    s.gives (.add rd ra rb sc) (s.setsX rd (a + b) 4 c) ∧
    s.gives (.sub rd ra rb sc) (s.setsX rd (a - b) 4 c) ∧
    s.gives (.and rd ra rb sc) (s.setsX rd (a &&& b) 4 c) ∧
    s.gives (.or rd ra rb sc) (s.setsX rd (a ||| b) 4 c) ∧
    s.gives (.xor rd ra rb sc) (s.setsX rd (a ^^^ b) 4 c) ∧
    s.gives (.sll rd ra rb sc) (s.setsX rd (a <<< n) 4 c) ∧
    s.gives (.srl rd ra rb sc) (s.setsX rd (a >>> n) 4 c) ∧
    s.gives (.sra rd ra rb sc) (s.setsX rd (a.sshiftRight n) 4 c) ∧
    s.gives (.slt rd ra rb sc) (s.setsX rd (if a.toInt < b.toInt then 1 else 0) 4 c) ∧
    s.gives (.sltn rd ra rb sc) (s.setsX rd (if a.toNat < b.toNat then 1 else 0) 4 c) ∧
    s.gives (.min rd ra rb sc) (s.setsX rd (BitVec.ofInt 64 (Min.min a.toInt b.toInt)) 4 c) ∧
    s.gives (.max rd ra rb sc) (s.setsX rd (BitVec.ofInt 64 (Max.max a.toInt b.toInt)) 4 c) ∧
    s.gives (.minn rd ra rb sc) (s.setsX rd (BitVec.ofNat 64 (Min.min a.toNat b.toNat)) 4 c) ∧
    s.gives (.maxn rd ra rb sc) (s.setsX rd (BitVec.ofNat 64 (Max.max a.toNat b.toNat)) 4 c) ∧
    s.gives (.mul rd ra rb sc) (s.sendsX rd (a * b) 3 4 c) ∧
    s.gives (.mulh rd ra rb sc) (s.sendsX rd (((a.signExtend 128 * b.signExtend 128) >>> 64).setWidth 64) 3 4 c) ∧
    s.gives (.mulhn rd ra rb sc) (s.sendsX rd (((a.setWidth 128 * b.setWidth 128) >>> 64).setWidth 64) 3 4 c) ∧
    s.gives (.lea rd ra rb k sc) (s.setsX rd (a + b * BitVec.ofNat 64 (2 ^ k.toNat)) 4 c) ∧
    s.gives (.sel rd ra rb sc) (s.setsX rd (if s.x rd = 0 then b else a) 4 c)

/-- The slot in hand parks on a division whose result is `q`, and DIVIDE_RESULT stands out for it; nothing else changes. -/
def Sys2Proof.Machine.State.dividesTo (rd : Reg) (q : Word) (sc : Nat) (s t : State) : Prop :=
  s.onlySlotPosts s.cur t ∧ t.work = s.work ++ [⟨.divideResult, arg1 s.cur⟩] ∧
  s.me.parksAs (.divide rd.toNat q (s.cycle + 33) sc) (s.cycle + 1 + sc) t.me

/-- R82: the four divisions and the step that writes their result. -/
def Obligations.DivisionParksThenWrites : Prop :=
  (∀ (s : State) (rd ra rb : Reg) (sc : BitVec 3),
    let a := s.x ra; let b := s.x rb; let least : Word := 0x8000000000000000; let ones : Word := 0xFFFFFFFFFFFFFFFF
    let q := if b = 0 then ones else if a = least ∧ b = ones then a else BitVec.ofInt 64 (Int.tdiv a.toInt b.toInt)
    let r := if b = 0 then a else if a = least ∧ b = ones then 0 else BitVec.ofInt 64 (Int.tmod a.toInt b.toInt)
    s.gives (.div rd ra rb sc) (s.dividesTo rd q sc.toNat) ∧
    s.gives (.rem rd ra rb sc) (s.dividesTo rd r sc.toNat) ∧
    s.gives (.divn rd ra rb sc) (s.dividesTo rd (if b = 0 then ones else a / b) sc.toNat) ∧
    s.gives (.remn rd ra rb sc) (s.dividesTo rd (if b = 0 then a else a % b) sc.toNat)) ∧
  (∀ (s : State) (rd : Reg) (q : Word) (due sc : Nat), let k := s.arg.a
    (s.slot k).park = .divide rd.toNat q due sc →
    (s.cycle ≤ due → exec .divideResult s = .next { s with deferred := true }) ∧
    (due < s.cycle → s.gives .divideResult fun t => s.onlySlot k t ∧ (s.slot k).xIs rd q (t.slot k) ∧
      (t.slot k).park = .run ∧ (t.slot k).ready = due + 1 + sc ∧ (t.slot k).retired = (s.slot k).retired + 1 ∧
      (t.slot k).pc = ((s.slot k).seq 4).pc ∧ (t.slot k).lcount = ((s.slot k).seq 4).lcount))

/-- R83 to R86: the immediate forms, their values and their frame. -/
def immediateFormResultsRules : Prop :=
  ∀ (s : State) (rd ra : Reg) (imm : BitVec 12) (h : BitVec 6) (u : BitVec 20) (sc : BitVec 3),
    let a := s.x ra; let k : Word := imm.signExtend 64; let c := sc.toNat
    s.gives (.addi rd ra imm sc) (s.setsX rd (a + k) 4 c) ∧
    s.gives (.andi rd ra imm sc) (s.setsX rd (a &&& k) 4 c) ∧
    s.gives (.ori rd ra imm sc) (s.setsX rd (a ||| k) 4 c) ∧
    s.gives (.xori rd ra imm sc) (s.setsX rd (a ^^^ k) 4 c) ∧
    s.gives (.slti rd ra imm sc) (s.setsX rd (if a.toInt < k.toInt then 1 else 0) 4 c) ∧
    s.gives (.sltni rd ra imm sc) (s.setsX rd (if a.toNat < k.toNat then 1 else 0) 4 c) ∧
    s.gives (.slli rd ra h sc) (s.setsX rd (a <<< h.toNat) 4 c) ∧
    s.gives (.srli rd ra h sc) (s.setsX rd (a >>> h.toNat) 4 c) ∧
    s.gives (.srai rd ra h sc) (s.setsX rd (a.sshiftRight h.toNat) 4 c) ∧
    s.gives (.lui rd u) (s.setsX rd (u.signExtend 64 * 4096) 4 0) ∧
    s.gives (.adpc rd u) (s.setsX rd (BitVec.ofInt 64 ((s.me.pc.toNat + u.toInt * 2) % 2 ^ 48)) 4 0)

/-- The register and immediate forms of the scalar arithmetic write the values of R81 and R83 to R86 (R81, R83, R84, R85, R86). -/
def Obligations.RegisterAndImmediateResults : Prop := registerFormResultsRules ∧ immediateFormResultsRules

/-- R87 and R88: counts, extensions and bit fields, their values and their frame. -/
def unaryAndBitFieldResultsRules : Prop :=
  ∀ (s : State) (rd ra : Reg) (o w : BitVec 6) (sc : BitVec 3),
    let a := s.x ra; let c := sc.toNat; let off := o.toNat; let n := Min.min w.toNat (64 - off)
    (∃ z, (a = 0 ∧ z = 64 ∨ z < 64 ∧ 2 ^ (63 - z) ≤ a.toNat ∧ a.toNat < 2 ^ (64 - z)) ∧
      s.gives (.clz rd ra sc) (s.setsX rd (BitVec.ofNat 64 z) 4 c)) ∧
    (∃ z, (a = 0 ∧ z = 64 ∨ z < 64 ∧ 2 ^ z ∣ a.toNat ∧ ¬ 2 ^ (z + 1) ∣ a.toNat) ∧
      s.gives (.ctz rd ra sc) (s.setsX rd (BitVec.ofNat 64 z) 4 c)) ∧
    s.gives (.popc rd ra sc) (s.setsX rd (BitVec.ofNat 64 ((List.range 64).countP fun i => a.getLsbD i)) 4 c) ∧
    s.gives (.sxb rd ra sc) (s.setsX rd ((a.setWidth 8).signExtend 64) 4 c) ∧
    s.gives (.sxh rd ra sc) (s.setsX rd ((a.setWidth 16).signExtend 64) 4 c) ∧
    s.gives (.sxw rd ra sc) (s.setsX rd ((a.setWidth 32).signExtend 64) 4 c) ∧
    s.gives (.zxb rd ra sc) (s.setsX rd ((a.setWidth 8).setWidth 64) 4 c) ∧
    s.gives (.zxh rd ra sc) (s.setsX rd ((a.setWidth 16).setWidth 64) 4 c) ∧
    s.gives (.zxw rd ra sc) (s.setsX rd ((a.setWidth 32).setWidth 64) 4 c) ∧
    s.gives (.bexs rd ra o w sc) (s.setsX rd ((a.extractLsb' off n).signExtend 64) 4 c) ∧
    s.gives (.bexn rd ra o w sc) (s.setsX rd ((a.extractLsb' off n).setWidth 64) 4 c) ∧
    (∃ v : Word, (∀ i, i < 64 → v.getLsbD i = if off ≤ i ∧ i < off + n then a.getLsbD (i - off) else (s.x rd).getLsbD i) ∧
      s.gives (.bins rd ra o w sc) (s.setsX rd v 4 c))

/-- R89: the predicate instructions, their values and their frame. -/
def predicateResultsRules : Prop :=
  ∀ (s : State) (p q r : PReg) (rd ra rb : Reg) (sc : BitVec 3),
    let a := s.x ra; let b := s.x rb; let c := sc.toNat
    s.gives (.psetEq p ra rb sc) (s.setsP p (if a = b then 0xFF else 0) 4 c) ∧
    s.gives (.psetNe p ra rb sc) (s.setsP p (if a ≠ b then 0xFF else 0) 4 c) ∧
    s.gives (.psetLt p ra rb sc) (s.setsP p (if a.toInt < b.toInt then 0xFF else 0) 4 c) ∧
    s.gives (.psetGe p ra rb sc) (s.setsP p (if a.toInt ≥ b.toInt then 0xFF else 0) 4 c) ∧
    s.gives (.psetLtn p ra rb sc) (s.setsP p (if a.toNat < b.toNat then 0xFF else 0) 4 c) ∧
    s.gives (.psetGen p ra rb sc) (s.setsP p (if a.toNat ≥ b.toNat then 0xFF else 0) 4 c) ∧
    s.gives (.pand p q r sc) (s.setsP p (s.p q &&& s.p r) 4 c) ∧
    s.gives (.por p q r sc) (s.setsP p (s.p q ||| s.p r) 4 c) ∧
    s.gives (.pnot p q sc) (s.setsP p (~~~s.p q) 4 c) ∧
    s.gives (.pmovToPredicate p ra sc) (s.setsP p (a.setWidth 8) 4 c) ∧
    s.gives (.pmovFromPredicate rd q sc) (s.setsX rd ((s.p q).setWidth 64) 4 c)

/-- Counts, extensions, bit fields and the predicate instructions write the values of R87 to R89 (R87, R88, R89). -/
def Obligations.BitFieldAndPredicateResults : Prop := unaryAndBitFieldResultsRules ∧ predicateResultsRules

/-! ## Control (R64, R90 to R97) -/

/-- R90 to R93: branches and jumps, their targets, links, traps and frames. -/
def Obligations.BranchesAndJumps : Prop :=
  ∀ (s : State) (p : PReg) (rd ra rb : Reg) (o : BitVec 12) (u : BitVec 20) (sc : BitVec 3),
    let a := s.x ra; let b := s.x rb
    let there : BitVec 48 := s.me.pc + o.signExtend 48 * 2
    let far : BitVec 48 := s.me.pc + u.signExtend 48 * 2
    let link : Word := (s.me.pc + 4).setWidth 64
    let t := a + o.signExtend 64
    s.gives (.beq ra rb o) (s.branches (a = b) there 4) ∧
    s.gives (.bne ra rb o) (s.branches (a ≠ b) there 4) ∧
    s.gives (.blt ra rb o) (s.branches (a.toInt < b.toInt) there 4) ∧
    s.gives (.bge ra rb o) (s.branches (a.toInt ≥ b.toInt) there 4) ∧
    s.gives (.bltn ra rb o) (s.branches (a.toNat < b.toNat) there 4) ∧
    s.gives (.bgen ra rb o) (s.branches (a.toNat ≥ b.toNat) there 4) ∧
    s.gives (.bpt p u) (s.branches (s.p p ≠ 0) far 4) ∧
    s.gives (.bpf p u) (s.branches (s.p p = 0) far 4) ∧
    (s.gives (.jal rd u) fun n => s.onlySlot s.cur n ∧ s.me.keepsRest n.me ∧ s.jumped far 0 n ∧ s.me.xIs rd link n.me) ∧
    (t.toNat % 2 = 1 → s.gives (.jalr rd ra o sc) (s.trapsWith cMISALIGN t)) ∧
    (t.toNat % 2 = 0 → 2 ^ 48 ≤ t.toNat → s.gives (.jalr rd ra o sc) (s.trapsWith cPROTECTION t)) ∧
    (t.toNat % 2 = 0 → t.toNat < 2 ^ 48 → s.gives (.jalr rd ra o sc) fun n =>
      s.onlySlot s.cur n ∧ s.me.keepsRest n.me ∧ s.jumped (t.setWidth 48) sc.toNat n ∧ s.me.xIs rd link n.me)

/-- R95 and R97: the loop instruction, and the loop rule of a retiring instruction. -/
def Obligations.LoopOpensAndCloses : Prop :=
  (∀ (s : State) (ra : Reg) (imm : BitVec 12) (sc : BitVec 3),
    let start := s.me.pc + 4; let stop := s.me.pc + 4 + 2 * imm.setWidth 48; let opened := s.x ra ≠ 0
    (s.me.lcount ≠ 0 → s.gives (.loop ra imm sc) (s.trapsWith cILLEGAL (wordOf (.loop ra imm sc)))) ∧
    (s.me.lcount = 0 → s.gives (.loop ra imm sc) fun t => s.onlySlot s.cur t ∧
      t.me = { s.me with lstart := start, lend := stop, retired := s.me.retired + 1, ready := s.cycle + 1 + sc.toNat, waited := false, pc := t.me.pc, lcount := t.me.lcount } ∧
      (opened → t.me.pc = start ∧ t.me.lcount = s.x ra) ∧ (¬ opened → t.me.pc = stop ∧ t.me.lcount = 0))) ∧
  (∀ (sl : Slot) (len : Nat) (a : BitVec 48),
    let next := sl.pc + BitVec.ofNat 48 len
    (sl.lcount = 0 → (sl.seq len).pc = next ∧ (sl.seq len).lcount = 0 ∧ (sl.goto a).lcount = 0) ∧
    (sl.lcount ≠ 0 → next = sl.lend → sl.lcount ≠ 1 → (sl.seq len).pc = sl.lstart ∧ (sl.seq len).lcount = sl.lcount - 1) ∧
    (next = sl.lend → sl.lcount = 1 → (sl.seq len).pc = sl.lend ∧ (sl.seq len).lcount = 0) ∧
    (next ≠ sl.lend → sl.pc.toNat < sl.lend.toNat → sl.lend.toNat < next.toNat → (sl.seq len).pc = next ∧ (sl.seq len).lcount = 0) ∧
    (next ≠ sl.lend → ¬ (sl.pc.toNat < sl.lend.toNat ∧ sl.lend.toNat < next.toNat) → (sl.seq len).pc = next ∧ (sl.seq len).lcount = sl.lcount) ∧
    (sl.goto a).pc = a ∧
    (sl.lstart.toNat ≤ a.toNat ∧ a.toNat < sl.lend.toNat → (sl.goto a).lcount = sl.lcount) ∧
    (¬ (sl.lstart.toNat ≤ a.toNat ∧ a.toNat < sl.lend.toNat) → (sl.goto a).lcount = 0))

/-- R64: the 16-bit forms of the scalar and control instructions. -/
def Obligations.CompressedArithmeticExpands : Prop :=
  ∀ (s : State) (rd ra rb : Reg) (i : BitVec 6) (j : BitVec 11),
    let d := s.x rd; let b := s.x rb
    let near : BitVec 48 := s.me.pc + i.signExtend 48 * 2
    s.gives (.cMv rd rb) (s.setsX rd b 2 0) ∧
    s.gives (.cAdd rd rb) (s.setsX rd (d + b) 2 0) ∧
    s.gives (.cSub rd rb) (s.setsX rd (d - b) 2 0) ∧
    s.gives (.cAddi rd i) (s.setsX rd (d + i.signExtend 64) 2 0) ∧
    s.gives (.cLi rd i) (s.setsX rd (i.signExtend 64) 2 0) ∧
    s.gives (.cAnd rd rb) (s.setsX rd (d &&& b) 2 0) ∧
    s.gives (.cOr rd rb) (s.setsX rd (d ||| b) 2 0) ∧
    s.gives (.cSlli rd i) (s.setsX rd (d <<< i.toNat) 2 0) ∧
    s.gives (.cSrli rd i) (s.setsX rd (d >>> i.toNat) 2 0) ∧
    s.gives (.cBeqz ra i) (s.branches (s.x ra = 0) near 2) ∧
    s.gives (.cBnez ra i) (s.branches (s.x ra ≠ 0) near 2) ∧
    s.gives (.cJ j) (s.branches True (s.me.pc + j.signExtend 48 * 2) 2)

/-! ## Traps, control registers and the end of an activation -/

/-- R118 and R119: sys, brk and tret. The loop rule at sys and brk is the choice of log entry 68, TRAPADDR of a tret with INTRAP = 0
that of log entry 37. -/
def Obligations.SysAndBrkRetireThenTrap : Prop :=
  (∀ (s : State) (code : BitVec 10) (sc : BitVec 3) (i : Sys2Proof.Instr) (cause : Nat),
    (i = .sys code sc ∧ cause = cSYS ∨ i = .brk code sc ∧ cause = cBREAK) →
    s.gives i fun t => s.onlyTells s.cur t ∧ t.me.tcause = BitVec.ofNat 8 cause ∧ t.me.taddr = code.setWidth 64 ∧ t.me.tpc = s.me.pc ∧
      t.me.retired = s.me.retired + 1 ∧ t.me.lcount = (s.me.seq 4).lcount ∧ (∀ q, t.me.getX q = s.me.xEnd q) ∧
      (isSup s.myCore = false → t.me.park = .trap none ∧ t.me.pc = (s.me.seq 4).pc ∧ t.me.ready = s.cycle + 1 ∧ t.me.tsc = sc.toNat ∧ t.halted = s.halted) ∧
      (isSup s.myCore = true → s.me.intrap = false → s.me.vec ≠ 0 → t.me.intrap = true ∧ t.me.pc = evenPc s.me.vec ∧ t.me.ready = s.cycle + 1 ∧ t.me.tsc = sc.toNat ∧ t.halted = s.halted) ∧
      (isSup s.myCore = true → (s.me.intrap = true ∨ s.me.vec = 0) → t.halted = some 1)) ∧
  (∀ (s : State) (sc : BitVec 3),
    (isSup s.myCore = false ∨ s.me.intrap = false → s.gives (.tret sc) (s.trapsWith cPROTECTION (wordOf (.tret sc)))) ∧
    (isSup s.myCore = true → s.me.intrap = true → s.gives (.tret sc) fun t => s.onlySlot s.cur t ∧ s.me.keepsRegs t.me ∧
      t.me.intrap = false ∧ t.me.retired = s.me.retired + 1 ∧ t.me.ready = s.cycle + 1 + s.me.tsc ∧ t.me.tsc = 0 ∧
      t.me.pc = evenPc (if s.me.tcause.toNat = cSYS ∨ s.me.tcause.toNat = cBREAK then s.me.tpc + 4 else s.me.tpc)) ∧
    (∀ w x10 k, slotOf w = some k → (s.slot k).park.isTrap = true → ((s.resumeSlot w x10).2.slot k).ready = s.cycle + 1 + (s.slot k).tsc))

/-- R6, R61, R63: the traps of decode and fetch. -/
def Obligations.DecodeAndFetchTrapsArePrecise : Prop :=
  ∀ s : State,
    s.gives .illegalInstruction (s.trapsWith cILLEGAL s.arg.v) ∧
    (s.arg.a ≠ cPOISON → s.gives .instructionFetchFault
      (s.trapped s.cur s.arg.a s.arg.v s.me.pc (if s.arg.b = 0 then none else some (s.arg.b - 1))))

/-- The control registers of a compute core by number, with what each reads (R25, R120, R121, and the maps R121 names). -/
def Sys2Proof.Machine.State.ctlMap (s : State) : List (Nat × Word) :=
  let c := s.core s.myCore; let m := s.me; let n := s.cur
  [(0x000, BitVec.ofNat 64 (n % 8)), (0x001, BitVec.ofNat 64 (n / 8 % 8)), (0x002, BitVec.ofNat 64 (n / 64)), (0x003, s.chip.chipid.setWidth 64),
   (0x004, (s.partKey s.myCore).setWidth 64), (0x010, c.flags.setWidth 64), (0x011, m.rmode.setWidth 64), (0x012, c.mflags.setWidth 64),
   (0x013, m.rowmask), (0x014, m.temp.setWidth 64), (0x015, m.lanep.setWidth 64), (0x020, m.tcause.setWidth 64), (0x021, m.taddr),
   (0x022, m.tpc.setWidth 64), (0x023, if c.scheck then 1 else 0), (0x030, m.xferid), (0x031, m.actarg), (0x032, m.replyh), (0x033, m.actinfo),
   (0x040, BitVec.ofNat 64 s.cycle), (0x041, s.time), (0x042, m.retired), (0x050, c.govstall.setWidth 64), (0x051, m.merstat.setWidth 64),
   (0x052, m.nanseen), (0x053, m.merfault.setWidth 64), (0x054, m.grstat), (0x060, c.agesint.setWidth 64), (0x061, s.chip.ratestep.setWidth 64)]

/-- R120 and R121: reads of the control registers. -/
def controlRegisterReadsRules : Prop :=
  ∀ (s : State) (rd : Reg) (r : BitVec 12),
    (isSup s.myCore = false → ∀ v, (r.toNat, v) ∈ s.ctlMap → s.gives (.ctlrd rd r) (s.setsX rd v 4 0)) ∧
    (isSup s.myCore = false → (∀ v, (r.toNat, v) ∉ s.ctlMap) → s.gives (.ctlrd rd r) (s.trapsWith cILLEGAL (wordOf (.ctlrd rd r)))) ∧
    (isSup s.myCore = true → r = 0x024 → s.gives (.ctlrd rd r)
      (s.setsX rd (s.me.vec.setWidth 64 ||| (if s.me.intrap then 0x1000000000000 else 0)) 4 0))

/-- The control registers a core may write, with the bits that are RW (R120, R121, and the maps R121 names). -/
def ctlMasks (sup : Bool) : List (Nat × Word) :=
  [(0x010, 0x1F), (0x011, 7), (0x012, 0x1D), (0x013, 0xFFFFFFFFFFFFFFFF), (0x014, 0xFFFF), (0x015, 7), (0x023, 1), (0x050, 0xFFFFFFFF), (0x052, 1)] ++
  if sup then [(0x020, 0xFF), (0x021, 0xFFFFFFFFFFFFFFFF), (0x022, 0xFFFFFFFFFFFF), (0x024, 0xFFFFFFFFFFFE), (0x060, 0xFFFFFF), (0x061, 0xFFFF)] else []

/-- R120: writes of the control registers. -/
def controlRegisterWritesRules : Prop :=
  ∀ (s : State) (rd ra : Reg) (r : BitVec 12) (i : Sys2Proof.Instr) (f : Word → Word),
    (i = .ctlwr rd ra r ∧ (∀ old, f old = s.x ra) ∨ i = .ctlset rd ra r ∧ (∀ old, f old = old ||| s.x ra) ∨
      i = .ctlclr rd ra r ∧ (∀ old, f old = old &&& ~~~s.x ra)) →
    (∀ mask old, (r.toNat, mask) ∈ ctlMasks (isSup s.myCore) → s.ctlRead r.toNat = some old → s.gives i fun t =>
      let new := if r = 0x011 ∧ 4 < (f old).toNat % 8 then old else (old &&& ~~~mask) ||| (f old &&& mask)
      t.ctlRead r.toNat = some new ∧ (∀ n, n ≠ r.toNat → n ≠ 0x042 → t.ctlRead n = s.ctlRead n) ∧
      (∀ q, t.x q = if q = 0 then 0 else if q = rd then old else s.x q) ∧ s.stepped 4 0 t ∧ t.mem = s.mem ∧
      t = { s with slots := t.slots, cores := t.cores, chip := t.chip } ∧ ∀ j, j ≠ s.cur → t.slot j = s.slot j) ∧
    (∀ old, s.ctlRead r.toNat = some old → (∀ mask, (r.toNat, mask) ∉ ctlMasks (isSup s.myCore)) → s.gives i (s.trapsWith cPROTECTION (r.setWidth 64))) ∧
    (s.ctlRead r.toNat = none → s.gives i (s.trapsWith cILLEGAL (wordOf i)))

/-- ctlrd, ctlwr, ctlset and ctlclr read and write the control registers of R121 field by field (R4, R25, R119, R120, R121, R201). -/
def Obligations.ControlRegisters : Prop := controlRegisterReadsRules ∧ controlRegisterWritesRules

/-- R28, R31, R97, R98, R304: the end of an activation. -/
def Obligations.DoneEndsTheActivation : Prop :=
  ∀ (s : State) (sc : BitVec 3) (i : Sys2Proof.Instr), i = .done sc ∨ i = .cDone →
    let ends := fun (t : State) =>
      t.me.active = false ∧ t.me.park = .run ∧ t.me.lcount = 0 ∧ t.me.pend = [] ∧ t.me.streams = [] ∧ t.me.ready = s.cycle + 1 ∧
      t.me.retired = s.me.retired + 1 ∧ (⟨.activationAdmission, arg1 s.myCore⟩ : Event) ∈ t.work ∧ t.cur = s.cur ∧
      (∀ j, j ≠ s.cur → t.slot j = s.slot j) ∧ t.mem = s.mem ∧ t.full = s.full ∧ t.poison = s.poison ∧ t.clusters = s.clusters ∧
      t.parts = s.parts ∧ t.chip = s.chip
    (s.me.inl = none → s.me.act.expansion = none → s.gives i ends) ∧
    (∀ e, s.me.inl = none → s.me.act.expansion = some e →
      (s.released s.cur .ch = false → s.gives i fun t => s.onlySlotPosts s.cur t ∧ t.work = s.work ++ [⟨.slotWake, arg1 s.cur⟩] ∧
        s.me.parksAs (.again (.release .ch)) (s.cycle + 1) t.me) ∧
      (s.released s.cur .ch = true → s.gives i fun t => ends t ∧
        ∃ q ∈ t.net ++ t.netOut, q.body = .endNotice e 0 ∧ q.src = coreNum s.chipNo s.myCore ∧ q.dst = e.1 / 2 ^ 40 * 2048)) ∧
    (∀ p : Inline, s.me.inl = some p → s.gives i fun t => s.onlySlot s.cur t ∧ t.me.inl = none ∧ t.me.f = s.me.f ∧ t.me.p = s.me.p ∧
      t.me.retired = s.me.retired + 1 ∧ t.me.lstart = p.lstart ∧ t.me.lend = p.lend ∧
      (p.lcount = 0 → t.me.lcount = 0 ∧ t.me.pc = p.pc + 4) ∧
      (p.lcount ≠ 0 → p.pc + 4 = p.lend → (p.lcount ≠ 1 → t.me.lcount = p.lcount - 1 ∧ t.me.pc = p.lstart) ∧ (p.lcount = 1 → t.me.lcount = 0 ∧ t.me.pc = p.lend)) ∧
      (p.lcount ≠ 0 → p.pc + 4 ≠ p.lend → t.me.pc = p.pc + 4 ∧
        t.me.lcount = if p.pc.toNat < p.lend.toNat ∧ p.lend.toNat < (p.pc + 4).toNat then 0 else p.lcount) ∧
      ∀ q : Reg, t.x q = if q = 10 then p.x10 else if q = 11 then p.x11 else if q = 12 then p.x12 else if q = 13 then p.x13 else s.x q)

/-! ## Loads, stores, atomics and the words that slots share (R113 to R117, R131, R147, R171 to R192) -/

/-- R128, R131, R133, R147: the checks of the scratchpad form (the readings of log entries 74 and 100 among them). -/
def scratchpadAccessIsCheckedRules : Prop :=
  ∀ (s : State) (c : Nat) (a : Word) (n : Nat) (need : Need), 2 ^ 63 ≤ a.toNat → need.ex = false →
    let named := a.toNat / 2 ^ 24 % 256
    let k := if named = 255 then c / 8 else named
    let off := a.toNat % 2 ^ 20
    let formed := a.toNat / 2 ^ 32 % 2 ^ 31 = 0 ∧ a.toNat / 2 ^ 20 % 16 = 0 ∧ (named = 255 → isSup c = false) ∧ off + n ≤ 0x100000
    let served := s.resetting k = false ∧ (s.cluster k).pstate ≠ 0 ∧ s.scratchRole k off n = true
    let covered := ∃ e ∈ (s.cluster k).prot, e.2.valid = true ∧ s.corePart c ≠ 0 ∧ e.2.part.toNat = s.corePart c ∧ e.2.base.toNat % 64 = 0 ∧
      e.2.size.toNat % 64 = 0 ∧ e.2.base.toNat ≤ off ∧ off + n ≤ min (e.2.base.toNat + e.2.size.toNat) 0x100000 ∧
      (need.rd = true → e.2.rd = true) ∧ (need.wr = true → e.2.wr = true)
    (formed → served → (isSup c = true ∨ covered) → s.check c a n need = (.ok (.sram k off), s)) ∧
    (¬ (formed ∧ served ∧ (isSup c = true ∨ covered)) → s.check c a n need = (.bad cPROTECTION none, s)) ∧
    s.check c a n .fetch = (.bad cPROTECTION none, s)

/-- The loads, stores, atomics and full/empty instructions, with the address each accesses, its bytes and what it asks for (R176, R178, R180, R185). -/
def Sys2Proof.Machine.State.accesses (s : State) (rd ra rb : Reg) (w : BitVec 2) (imm : BitVec 10) (sc : BitVec 3) (z q o : BitVec 1) (c : BitVec 2) :
    List (Sys2Proof.Instr × Word × Nat × Need) :=
  let x := s.x ra; let n := if z = 1 then 8 else 4; let m := 2 ^ w.toNat
  let at' := fun (m : Nat) => x + imm.signExtend 64 * BitVec.ofNat 64 m; let ca := x + BitVec.ofNat 64 (8 * o.toNat)
  let amos : List Sys2Proof.Instr := [.amoAdd rd ra rb z 0 q c, .amoAnd rd ra rb z 0 q c, .amoOr rd ra rb z 0 q c, .amoXor rd ra rb z 0 q c,
    .amoMin rd ra rb z 0 q c, .amoMax rd ra rb z 0 q c, .amoMinn rd ra rb z 0 q c, .amoMaxn rd ra rb z 0 q c, .amoSwap rd ra rb z 0 q c,
    .amoCas rd ra rb z 0 q c, .amoFadd rd ra rb z 0 q c, .amoFmax rd ra rb z 0 q c]
  let plain : List (Sys2Proof.Instr × Word × Nat × Need) := [(.ld rd ra w imm sc, at' m, m, .load), (.ldn rd ra w imm sc, at' m, m, .load), (.cLd rd ra o, ca, 8, .load),
   (.st rd ra w imm sc, at' m, m, .store), (.cSd rd ra o, ca, 8, .store),
   (.ldsync rd ra sc, x, 8, .atomic), (.ldtake rd ra sc, x, 8, .atomic), (.stfill rd ra sc, x, 8, .atomic),
   (.stnib rd ra rb sc, x + s.x rb / 2, 1, .atomic)]
  let floats : List (Sys2Proof.Instr × Word × Nat × Need) := [(.fld rd ra w imm sc, at' (2 * m), 2 * m, .load), (.fst rd ra w imm sc, at' (2 * m), 2 * m, .store)]
  plain ++ (if s.streamAt rd = none then floats else []) ++ amos.map fun i => (i, x, n, Need.atomic)

/-- R140 to R150: the checks of a chip virtual address, and the traps of the instructions they fail. -/
def virtualAddressIsCheckedRules : Prop :=
  (∀ (s : State) (c : Nat) (a : Word) (n : Nat) (need : Need), a.toNat < 2 ^ 63 → let d := domainOf c; let va := a.toNat
    (2 ^ 48 ≤ va ∨ (s.cluster d).en = false → s.check c a n need = (.bad cPROTECTION none, s)) ∧
    (∀ l, tlbFind (s.cluster d).tlb (va / 65536) = some l → l.word.getLsbD 1 = false → s.translate .tlb d va = (.leaf l (va / 65536 / l.pages * l.pages), s)) ∧
    (∀ w u, va < 2 ^ 48 → (s.cluster d).en = true → s.translate .tlb d va = (w, u) →
      (∀ e, w = .invalid e → s.check c a n need = (.bad cNOTPRESENT (some e), u)) ∧ (∀ e, w = .poison e → s.check c a n need = (.bad cPOISON none, u)) ∧
      (∀ l first, w = .leaf l first → let e := l.word.toNat; let disc := l.word.getLsbD 1; let wtype := e / 2 ^ 34 % 4
        let rights := (need.rd = true → l.word.getLsbD 2 = true) ∧ (need.wr = true → l.word.getLsbD 3 = true) ∧ (need.ex = true → l.word.getLsbD 4 = true)
        (disc = true → need.ex = true → s.check c a n need = (.bad cNOTPRESENT (some l.line), u)) ∧
        ((disc = true → need.ex = false) →
          (¬ rights → s.check c a n need = (.bad cPROTECTION none, u)) ∧
          (rights → need.win = true → wtype = 1 → s.check c a n need = (.bad cWINDOWLOAD none, u)) ∧
          (rights → (need.win = true → wtype ≠ 1) →
            (disc = true → s.check c a n need = (.disc, u)) ∧
            (disc = false → wtype = 1 → s.check c a n need = (.window (e / 2 ^ 24 % 1024), u)) ∧
            (disc = false → wtype ≠ 1 → s.check c a n need =
              (.ok (.dram (e / 2 ^ 16 % 256) (e / 2 ^ 40 % 2 ^ 24 * 65536 + va % (l.pages * 65536)) (e / 2 ^ 6 % 4) (e / 2 ^ 8 % 256)), u))))))) ∧
  (∀ (s u : State) (rd ra rb : Reg) (w : BitVec 2) (imm : BitVec 10) (sc : BitVec 3) (z q o : BitVec 1) (c : BitVec 2), s.me.fences = [] →
    ∀ e ∈ s.accesses rd ra rb w imm sc z q o c, let ea := e.2.1
      (∀ cause entry, s.place ea e.2.2.1 e.2.2.2 = (.bad cause entry, u) → cause ≠ cPOISON → s.gives e.1 (u.trapped s.cur cause ea s.me.pc entry)) ∧
      (s.place ea e.2.2.1 e.2.2.2 = (.disc, u) → e.2.2.2.wr = true → s.gives e.1 (u.trapped s.cur cDISCARDWRITE ea s.me.pc (u.entryOf s.myCore ea))))

/-- Scratchpad and virtual addresses pass exactly where R128 to R150 let them, with the readings of log entries 74 and 100 (R127, R128, R131, R133, R140, R141, R143, R146, R147, R150, R394). -/
def Obligations.AccessesAreChecked : Prop := scratchpadAccessIsCheckedRules ∧ virtualAddressIsCheckedRules

/-- R147, check 1: alignment; for stfill before its wait as a release (log entry 36). -/
def Obligations.MisalignedAccessTraps : Prop :=
  ∀ (s : State) (rd ra rb : Reg) (w : BitVec 2) (imm : BitVec 10) (sc : BitVec 3) (z l q o : BitVec 1) (c : BitVec 2), s.me.fences = [] →
    let x := s.x ra
    let ea := x + imm.signExtend 64 * BitVec.ofNat 64 (2 ^ w.toNat)
    let fa := x + imm.signExtend 64 * BitVec.ofNat 64 (2 ^ (w.toNat + 1))
    let ca := x + BitVec.ofNat 64 (8 * o.toNat)
    let n := if z = 1 then 8 else 4
    (ea.toNat % 2 ^ w.toNat ≠ 0 → s.gives (.ld rd ra w imm sc) (s.trapsWith cMISALIGN ea) ∧ s.gives (.ldn rd ra w imm sc) (s.trapsWith cMISALIGN ea) ∧
      s.gives (.st rd ra w imm sc) (s.trapsWith cMISALIGN ea)) ∧
    (fa.toNat % 2 ^ (w.toNat + 1) ≠ 0 → s.streamAt rd = none →
      s.gives (.fld rd ra w imm sc) (s.trapsWith cMISALIGN fa) ∧ s.gives (.fst rd ra w imm sc) (s.trapsWith cMISALIGN fa)) ∧
    (x.toNat % 8 ≠ 0 → s.gives (.ldsync rd ra sc) (s.trapsWith cMISALIGN x) ∧ s.gives (.ldtake rd ra sc) (s.trapsWith cMISALIGN x) ∧
      s.gives (.stfill rd ra sc) (s.trapsWith cMISALIGN x)) ∧
    (x.toNat % 8 ≠ 0 → s.x rb ≠ 0 → s.gives (.feclr ra rb sc) (s.trapsWith cMISALIGN x)) ∧
    (ca.toNat % 8 ≠ 0 → s.gives (.cLd rd ra o) (s.trapsWith cMISALIGN ca) ∧ s.gives (.cSd rd ra o) (s.trapsWith cMISALIGN ca)) ∧
    (x.toNat % n ≠ 0 → ∀ i ∈ [Instr.amoAdd rd ra rb z l q c, .amoAnd rd ra rb z l q c, .amoOr rd ra rb z l q c, .amoXor rd ra rb z l q c,
        .amoMin rd ra rb z l q c, .amoMax rd ra rb z l q c, .amoMinn rd ra rb z l q c, .amoMaxn rd ra rb z l q c, .amoSwap rd ra rb z l q c,
        .amoCas rd ra rb z l q c, .amoFadd rd ra rb z l q c, .amoFmax rd ra rb z l q c], s.gives i (s.trapsWith cMISALIGN x))

/-- `n` bytes of the byte space from a key on, lowest first. -/
def Sys2Proof.Machine.State.bytesAt (s : State) (key n : Nat) : List Byte := (List.range n).map fun i => s.byteAt (key + i)

/-- Where the copy lies that serves a core's local load: its cluster's SRAM, or its L1. -/
def Sys2Proof.Machine.State.localKey (s : State) : Home → Nat
  | .sram k off => sramKey k off
  | .dram _ pa _ _ => l1Key (clusterOf s.myCore) pa

/-- The load of the slot in hand is held back by no fence, passes its checks to home `h`, is served locally, meets no store of its
own that is still to be performed, and no poison. -/
def Sys2Proof.Machine.State.loadsLocally (ea : Word) (n : Nat) (h : Home) (s : State) : Prop :=
  s.fenced s.cur 1 = false ∧ s.place ea n .load = (.ok h, s) ∧ s.servedLocally s.myCore h = true ∧ (∀ p ∈ s.me.stores, p.overlaps h n = false) ∧
  s.poisonAt (s.localKey h) = false

/-- R69 and R178: loads served locally. -/
def localLoadsReturnTheirBytesRules : Prop :=
  ∀ (s : State) (rd ra : Reg) (z : BitVec 2) (imm : BitVec 10) (o : BitVec 1) (sc : BitVec 3) (h : Home),
    let n := 2 ^ z.toNat; let m := 2 ^ (z.toNat + 1)
    let ea := s.x ra + imm.signExtend 64 * BitVec.ofNat 64 n
    let fa := s.x ra + imm.signExtend 64 * BitVec.ofNat 64 m
    let ca := s.x ra + BitVec.ofNat 64 (8 * o.toNat)
    let v := BitVec.ofNat (8 * n) (ofBytes (s.bytesAt (s.localKey h) n))
    (s.loadsLocally ea n h → s.gives (.ld rd ra z imm sc) (s.sendsX rd (v.signExtend 64) 4 4 sc.toNat) ∧
      s.gives (.ldn rd ra z imm sc) (s.sendsX rd (v.setWidth 64) 4 4 sc.toNat)) ∧
    (s.loadsLocally fa m h → s.streamAt rd = none → s.gives (.fld rd ra z imm sc) fun t =>
      s.onlySlot s.cur t ∧ s.me.keepsRest t.me ∧ s.stepped 4 sc.toNat t ∧
      s.me.fComes rd (BitVec.ofNat 128 (ofBytes (s.bytesAt (s.localKey h) m))) (BitVec.allOnes 128) (s.cycle + 4) t.me) ∧
    (s.loadsLocally ca 8 h → s.gives (.cLd rd ra o) (s.sendsX rd (BitVec.ofNat 64 (ofBytes (s.bytesAt (s.localKey h) 8))) 4 2 3))

/-- The load of slot `k` ends with bytes `l`: they are written, extended, to its register, and nothing changes but the slot. -/
def Sys2Proof.Machine.State.loadEnds (k : Nat) (ld : OutLoad) (len : Nat) (l : List Byte) (s t : State) : Prop :=
  s.onlySlot k t ∧ (t.slot k).park = .run ∧ (t.slot k).retired = (s.slot k).retired + 1 ∧
  (t.slot k).pc = ((s.slot k).seq len).pc ∧ (t.slot k).p = (s.slot k).p ∧
  (ld.toF = false → (t.slot k).f = (s.slot k).f ∧ ∀ q : Reg, (t.slot k).getX q = if q = 0 then 0 else if q = BitVec.ofNat 5 ld.rd then
    (if ld.signed then sextN (BitVec.ofNat 64 (ofBytes l)) (8 * l.length) else BitVec.ofNat 64 (ofBytes l)) else (s.slot k).getX q) ∧
  (ld.toF = true → (t.slot k).x = (s.slot k).x ∧ ∀ q : Reg, (t.slot k).getF q = if q = BitVec.ofNat 5 ld.rd then BitVec.ofNat 128 (ofBytes l) else (s.slot k).getF q)

/-- R69: loads that park, and LOAD_DATA_RETURN (with the readings of log entries 38 and 70). -/
def Obligations.OtherLoadsParkForTheirData : Prop :=
  (∀ (s u : State) (rd ra : Reg) (z : BitVec 2) (imm : BitVec 10) (o : BitVec 1) (sc : BitVec 3) (h : Home) (i : Sys2Proof.Instr) (ea : Word) (n len c : Nat)
      (toF signed : Bool), s.fenced s.cur 1 = false → (toF = true → s.streamAt rd = none) →
    (i = .ld rd ra z imm sc ∧ n = 2 ^ z.toNat ∧ ea = s.x ra + imm.signExtend 64 * BitVec.ofNat 64 n ∧ len = 4 ∧ c = sc.toNat ∧ toF = false ∧ signed = true ∨
     i = .ldn rd ra z imm sc ∧ n = 2 ^ z.toNat ∧ ea = s.x ra + imm.signExtend 64 * BitVec.ofNat 64 n ∧ len = 4 ∧ c = sc.toNat ∧ toF = false ∧ signed = false ∨
     i = .fld rd ra z imm sc ∧ n = 2 ^ (z.toNat + 1) ∧ ea = s.x ra + imm.signExtend 64 * BitVec.ofNat 64 n ∧ len = 4 ∧ c = sc.toNat ∧ toF = true ∧ signed = false ∨
     i = .cLd rd ra o ∧ n = 8 ∧ ea = s.x ra + BitVec.ofNat 64 (8 * o.toNat) ∧ len = 2 ∧ c = 0 ∧ toF = false ∧ signed = true) →
    let parks := fun (home : Home) (zero : Bool) => s.gives i fun t => u.onlySlotPosts u.cur t ∧ t.work = u.work ++ [⟨.loadDataReturn, arg1 u.cur⟩] ∧
      u.me.parksAs (.load ⟨ea, home, n, rd.toNat, toF, signed, none, zero, none⟩ len c) (u.cycle + 1 + c) t.me
    (s.place ea n .load = (.ok h, u) → u.servedLocally u.myCore h = false → parks h false) ∧ (s.place ea n .load = (.disc, u) → parks (.sram 0 0) true)) ∧
  (∀ (s u : State) (ld : OutLoad) (len sc : Nat) (l : List Byte) (bad : Bool), let k := s.arg.a
    (s.slot k).park = .load ld len sc → ld.stream = none →
    let upper := decide (s.arg.b % 2 = 1)
    let part := fun (h : Home) (n : Nat) => (∀ p ∈ (s.slot k).stores, p.overlaps h n = false) ∧ State.read (coreOf k) h n { s with cur := k } = ((l, bad), u) ∧
      u.slot k = s.slot k ∧ u.cur = k ∧ s.closed h = false
    let v := { u with cur := s.cur }
    (ld.zero = true → s.gives .loadDataReturn (s.loadEnds k ld len (List.replicate ld.size 0))) ∧
    (ld.zero = false → ld.size ≠ 16 → part ld.home ld.size → bad = false → s.gives .loadDataReturn (v.loadEnds k ld len l)) ∧
    (ld.zero = false → ld.size = 16 → ld.half = none → part (ld.home.plus (if upper then 8 else 0)) 8 → bad = false → s.gives .loadDataReturn fun t =>
      v.onlySlotPosts k t ∧ t.work = v.work ++ [⟨.loadDataReturn, arg1 k⟩] ∧ t.slot k = { s.slot k with park := .load { ld with half := some (upper, l) } len sc }) ∧
    (∀ (up : Bool) (first : List Byte), ld.zero = false → ld.size = 16 → ld.half = some (up, first) → part (ld.home.plus (if up then 0 else 8)) 8 → bad = false →
      s.gives .loadDataReturn (v.loadEnds k ld len (if up then l ++ first else first ++ l))) ∧
    (ld.zero = false → ld.size ≠ 16 → part ld.home ld.size → bad = true → u.chip.paction = 0 →
      s.gives .loadDataReturn (v.trapped k cPOISON ld.addr (s.slot k).pc none)) ∧
    (ld.zero = false → ld.size ≠ 16 → s.closed ld.home = true → s.gives .loadDataReturn (s.trapped k cPROTECTION ld.addr (s.slot k).pc none)) ∧
    (∀ h, ld.zero = false → ld.size = 16 →
      (ld.half = none ∧ h = ld.home.plus (if upper then 8 else 0) ∨ ∃ up first, ld.half = some (up, first) ∧ h = ld.home.plus (if up then 0 else 8)) →
      (part h 8 → bad = true → u.chip.paction = 0 → s.gives .loadDataReturn (v.trapped k cPOISON ld.addr (s.slot k).pc none)) ∧
      (s.closed h = true → s.gives .loadDataReturn (s.trapped k cPROTECTION ld.addr (s.slot k).pc none))))

/-- R177 and R178: stores retire. -/
def Obligations.StoresRetireAndStandOut : Prop :=
  ∀ (s : State) (rd ra : Reg) (z : BitVec 2) (imm : BitVec 10) (o : BitVec 1) (sc : BitVec 3) (h : Home) (i : Sys2Proof.Instr) (ea : Word) (n len c v : Nat),
    s.fenced s.cur 2 = false →
    (i = .st rd ra z imm sc ∧ n = 2 ^ z.toNat ∧ ea = s.x ra + imm.signExtend 64 * BitVec.ofNat 64 n ∧ v = (s.x rd).toNat ∧ len = 4 ∧ c = sc.toNat ∨
     i = .fst rd ra z imm sc ∧ s.streamAt rd = none ∧ n = 2 ^ (z.toNat + 1) ∧ ea = s.x ra + imm.signExtend 64 * BitVec.ofNat 64 n ∧ v = (s.f rd).toNat ∧ len = 4 ∧ c = sc.toNat ∨
     i = .cSd rd ra o ∧ n = 8 ∧ ea = s.x ra + BitVec.ofNat 64 (8 * o.toNat) ∧ v = (s.x rd).toNat ∧ len = 2 ∧ c = 0) →
    s.place ea n .store = (.ok h, s) → (∀ sl pa p ks, h = .dram sl pa p ks → s.l1Has (clusterOf s.myCore) pa = false) →
    s.gives i fun t => s.onlySlotPosts s.cur t ∧ t.work = s.work ++ List.replicate (if n = 16 then 2 else 1) ⟨.storePerformedAtHome, arg2 s.cur 0⟩ ∧
      s.me.keepsRegs t.me ∧ s.stepped len c t ∧
      (∃ l : List Byte, l.length = n ∧ (∀ j, (hj : j < l.length) → l[j].toNat = v / 256 ^ j % 256) ∧
        t.me.stores = s.me.stores ++ if n = 16 then [⟨h, .bytes (l.take 8)⟩, ⟨h.plus 8, .bytes (l.drop 8)⟩] else [⟨h, .bytes l⟩]) ∧
      { t.me with stores := s.me.stores } = { s.me with pc := t.me.pc, lcount := t.me.lcount, retired := t.me.retired, ready := t.me.ready, waited := false }

/-- R177: STORE_PERFORMED_AT_HOME for the oldest write of a slot. -/
def Obligations.StorePerformedAtHome : Prop :=
  ∀ (s : State) (h : Home) (op : StOp) (rest : List PendStore), let k := s.arg.a
    s.arg.b = 0 → (s.slot k).stores = ⟨h, op⟩ :: rest → (isSup (coreOf k) = false ∨ s.entryAt h = none) →
    s.gives .storePerformedAtHome fun t =>
      (t.slot k).stores = (match op with
        | .clearFull (n + 2) => ⟨h.plus 8, .clearFull (n + 1)⟩ :: rest
        | _ => rest) ∧ { t.slot k with stores := (s.slot k).stores, fences := (s.slot k).fences } = s.slot k ∧ (∀ j, j ≠ k → t.slot j = s.slot j) ∧
      (∀ c off, h = .sram c off → let key := sramKey c off
        (s.closed h = true → t.mem = s.mem ∧ t.full = s.full ∧ t.poison = s.poison) ∧
        (s.closed h = false →
          (∀ l, op = .bytes l → t.bytesAt key l.length = l ∧ (∀ a, (a < key ∨ key + l.length ≤ a) → t.byteAt a = s.byteAt a) ∧ t.full = s.full ∧ t.poison = s.poison) ∧
          (∀ hi v, op = .nibble hi v → (t.byteAt key).toNat = (if hi then v.toNat * 16 + (s.byteAt key).toNat % 16 else (s.byteAt key).toNat / 16 * 16 + v.toNat) ∧
            (∀ a, a ≠ key → t.byteAt a = s.byteAt a) ∧ t.full = s.full ∧ t.poison = s.poison) ∧
          (∀ n, op = .clearFull n → off % 8 = 0 → t.mem = s.mem ∧ t.poison = s.poison ∧ ∀ a, t.fullAt a = (s.fullAt a && !(decide (key ≤ a) && decide (a < key + 8 * min n 1)))) ∧
          (op = .zeroLine → off % 64 = 0 → (∀ a, t.byteAt a = if key ≤ a ∧ a < key + 64 then 0 else s.byteAt a) ∧ t.poisonAt key = false ∧
            ∀ a, t.fullAt a = (s.fullAt a && !(decide (key ≤ a) && decide (a < key + 64)))))) ∧
      (∀ sl pa p ks l, h = .dram sl pa p ks → op = .bytes l → p ≠ 2 → s.l2Has sl pa = true → pa % 64 + l.length ≤ 64 → s.monitors = [] →
        t.bytesAt (l2Key sl pa) l.length = l ∧ (∀ a, (a < l2Key sl pa ∨ l2Key sl pa + l.length ≤ a) → t.byteAt a = s.byteAt a) ∧
        ∀ old, find? s.l2 (l2Index sl pa) = some old → find? t.l2 (l2Index sl pa) = some ⟨true, old.mask ||| byteMask pa l.length, BitVec.ofNat 8 ks⟩)

/-- R158, cell St before Ld: kept when the bytes overlap. -/
def loadsSeeTheSlotsOwnStoresRules : Prop :=
  ∀ (s : State) (rd ra : Reg) (z : BitVec 2) (imm : BitVec 10) (sc : BitVec 3) (k off : Nat) (l : List Byte),
    let n := 2 ^ z.toNat; let ea := s.x ra + imm.signExtend 64 * BitVec.ofNat 64 n
    s.me.fences = [] → s.place ea n .load = (.ok (.sram k off), s) → s.servedLocally s.myCore (.sram k off) = true →
    s.poisonAt (sramKey k off) = false → s.me.stores = [⟨.sram k off, .bytes l⟩] → l.length = n →
    s.gives (.ldn rd ra z imm sc) fun t => s.stepped 4 sc.toNat t ∧ t.me.stores = [] ∧ s.me.xComes rd (BitVec.ofNat 64 (ofBytes l)) (s.cycle + 4) t.me ∧
      t.bytesAt (sramKey k off) n = l ∧ ∀ a, (a < sramKey k off ∨ sramKey k off + n ≤ a) → t.byteAt a = s.byteAt a

/-- A local load returns its bytes extended, and sees its own slot's earlier stores, performed or not (R2, R64, R69, R70, R154, R158, R176, R178). -/
def Obligations.LocalLoadsAndForwarding : Prop := localLoadsReturnTheirBytesRules ∧ loadsSeeTheSlotsOwnStoresRules

/-- Nothing of the slot's own lies in the way of an access of 8 bytes at `h`: no fence, and no store still to be performed. -/
def Sys2Proof.Machine.State.clearAt (h : Home) (s : State) : Prop := s.me.fences = [] ∧ ∀ p ∈ s.me.stores, p.overlaps h 8 = false

/-- An instruction whose result is delivered by parking has completed: x[rd] reads `v`, and no other register changed but by results
under way. -/
def Sys2Proof.Machine.State.delivers (rd : Reg) (v : Word) (sc : Nat) (s t : State) : Prop :=
  (∀ q : Reg, t.me.getX q = if q = 0 then 0 else if q = rd then v else s.me.xEnd q) ∧ t.me.pend = [] ∧ t.me.park = .run ∧ s.stepped 4 sc t ∧
  ∀ j, j ≠ s.cur → t.slot j = s.slot j

/-- R180, R181, R184: the full/empty instructions and the nibble store. -/
def Obligations.FullEmptyWords : Prop :=
  ∀ (s : State) (rd ra rb : Reg) (sc : BitVec 3) (k off : Nat),
    let ea := s.x ra; let h := Home.sram k off; let key := sramKey k off; let w := BitVec.ofNat 64 (ofBytes (s.bytesAt key 8))
    (s.place ea 8 .atomic = (.ok h, s) → s.clearAt h → s.sendsPerformed s.cur = false → ∀ i ∈ [Instr.ldsync rd ra sc, .ldtake rd ra sc], s.gives i fun t =>
      s.onlySlotPosts s.cur t ∧ t.work = s.work ++ [⟨.slotWake, arg1 s.cur⟩] ∧ s.me.parksAs (.again .sends) (s.cycle + 1) t.me) ∧
    (s.place ea 8 .atomic = (.ok h, s) → s.clearAt h → s.sendsPerformed s.cur = true → s.poisonAt key = false →
      (s.fullAt key = true → s.gives (.ldsync rd ra sc) fun t => s.delivers rd w sc.toNat t ∧ t = { s with slots := t.slots, serial := s.serial + 1 }) ∧
      (s.fullAt key = true → s.gives (.ldtake rd ra sc) fun t => s.delivers rd w sc.toNat t ∧ t = { s with slots := t.slots, serial := s.serial + 1, full := t.full } ∧
        ∀ a, t.fullAt a = (s.fullAt a && decide (a / 8 ≠ key / 8))) ∧
      (s.fullAt key = false → ∀ take i, (i = .ldsync rd ra sc ∧ take = false ∨ i = .ldtake rd ra sc ∧ take = true) → s.gives i fun t =>
        t = { s with slots := t.slots, serial := s.serial + 1 } ∧ (∀ j, j ≠ s.cur → t.slot j = s.slot j) ∧
        s.me.parksAs (.sync h ea take rd.toNat sc.toNat (s.serial + 1)) (s.cycle + 1 + sc.toNat) t.me)) ∧
    (s.place ea 8 .atomic = (.ok h, s) → s.me.fences = [] → s.released s.cur .ch = true →
      s.gives (.stfill rd ra sc) fun t => t = { s with slots := t.slots, mem := t.mem, full := t.full, fills := s.fills ++ [h] } ∧ (∀ j, j ≠ s.cur → t.slot j = s.slot j) ∧
        s.me.keepsRest t.me ∧ s.me.keepsRegs t.me ∧ s.stepped 4 sc.toNat t ∧ BitVec.ofNat 64 (ofBytes (t.bytesAt key 8)) = s.x rd ∧
        (∀ a, (a < key ∨ key + 8 ≤ a) → t.byteAt a = s.byteAt a) ∧ ∀ a, t.fullAt a = (s.fullAt a || decide (a / 8 = key / 8))) ∧
    (s.x rb = 0 → s.gives (.feclr ra rb sc) (s.stepsOnly 4 sc.toNat)) ∧
    (let n := (s.x rb).toNat
     n ≠ 0 → s.me.fences = [] → ea.toNat % 8 = 0 → n ≤ 8192 → off + 8 * n ≤ 0x100000 → ea.toNat % 2 ^ 20 = off → 2 ^ 63 ≤ ea.toNat → s.check s.myCore ea (8 * n) .atomic = (.ok h, s) →
      s.gives (.feclr ra rb sc) fun t => s.onlySlotPosts s.cur t ∧ s.me.keepsRegs t.me ∧ s.stepped 4 sc.toNat t ∧ t.me.stores = s.me.stores ++ [⟨h, .clearFull n⟩]) ∧
    (let i := s.x rb
     s.me.fences = [] → s.place (ea + i / 2) 1 .atomic = (.ok h, s) → s.gives (.stnib rd ra rb sc) fun t => s.onlySlotPosts s.cur t ∧ s.me.keepsRegs t.me ∧
      s.stepped 4 sc.toNat t ∧ t.me.stores = s.me.stores ++ [⟨h, .nibble (i.getLsbD 0) ((s.x rd).setWidth 4)⟩])

/-- The new value of an integer atomic on `w`-bit operands (R185); none where nothing is written. -/
def amoTable (op w old v c : Nat) : Option Nat :=
  let s := fun (n : Nat) => if n < 2 ^ (w - 1) then (n : Int) else (n : Int) - 2 ^ w
  match op with
  | 0 => some ((old + v) % 2 ^ w)
  | 1 => some (old &&& v)
  | 2 => some (old ||| v)
  | 3 => some (old ^^^ v)
  | 4 => some (if s old ≤ s v then old else v)
  | 5 => some (if s old ≤ s v then v else old)
  | 6 => some (min old v)
  | 7 => some (max old v)
  | 8 => some v
  | _ => if old = c then some v else none

/-- R185 to R187: the atomics, their park and their performing. -/
def Obligations.AtomicsParkAndActAtTheirHome : Prop :=
  (∀ (s : State) (rd ra rb : Reg) (z l q : BitVec 1) (c : BitVec 2) (h : Home),
    let n := if z = 1 then 8 else 4
    s.me.fences = [] → s.place (s.x ra) n .atomic = (.ok h, s) → (l = 1 → s.released s.cur (scopeOf c) = true) →
    ∀ e ∈ [(Instr.amoAdd rd ra rb z l q c, 0), (.amoAnd rd ra rb z l q c, 1), (.amoOr rd ra rb z l q c, 2), (.amoXor rd ra rb z l q c, 3),
        (.amoMin rd ra rb z l q c, 4), (.amoMax rd ra rb z l q c, 5), (.amoMinn rd ra rb z l q c, 6), (.amoMaxn rd ra rb z l q c, 7), (.amoSwap rd ra rb z l q c, 8),
        (.amoCas rd ra rb z l q c, 9), (.amoFadd rd ra rb z l q c, 10), (.amoFmax rd ra rb z l q c, 11)],
      s.gives e.1 fun t => s.onlySlotPosts s.cur t ∧ t.work = s.work ++ [⟨.storePerformedAtHome, arg2 s.cur 0⟩] ∧
        s.me.parksAs (.amo ⟨e.2, h, s.x ra, n, s.x rb, s.x rd, rd.toNat, q = 1, scopeOf c⟩) (s.cycle + 1) t.me) ∧
  (∀ (s : State) (a : OutAmo) (c off : Nat) (rd : Reg), let k := s.arg.a
    (s.slot k).stores = [] → (s.slot k).park = .amo a → a.home = .sram c off → a.rd = rd.toNat → a.aq = false → (a.size = 4 ∨ a.size = 8) → s.closed a.home = false →
    s.poisonAt (sramKey c off) = false →
    let key := sramKey c off; let w := 8 * a.size; let old := ofBytes (s.bytesAt key a.size)
    let fp := if a.op = 10 then Fmt.f32.fadd mRNE old (a.v.toNat % 2 ^ w) else Fmt.f32.pick true old (a.v.toNat % 2 ^ w)
    (a.op < 10 ∨ a.size = 4) → s.gives .storePerformedAtHome fun t =>
      let new := if a.op < 10 then (amoTable a.op w old (a.v.toNat % 2 ^ w) (a.c.toNat % 2 ^ w)).getD old else fp.1
      ofBytes (t.bytesAt key a.size) = new % 2 ^ w ∧ (∀ b, (b < key ∨ key + a.size ≤ b) → t.byteAt b = s.byteAt b) ∧
      (t.core (coreOf k)).flags = (s.core (coreOf k)).flags ∧ (t.core (coreOf k)).flagsDue = (s.core (coreOf k)).flagsDue ||| (if a.op < 10 then 0 else fp.2) ∧ (s.slot k).xIs rd (BitVec.ofNat 64 old) (t.slot k) ∧
      (t.slot k).park = .run ∧ (t.slot k).retired = (s.slot k).retired + 1 ∧ (t.slot k).pc = ((s.slot k).seq 4).pc ∧ (∀ j, j ≠ k → t.slot j = s.slot j) ∧
      t.full = s.full ∧ t.poison = s.poison) ∧
  (∀ (s : State) (c : Nat), (s.endFlags.core c).flags = (s.core c).flags ||| (s.core c).flagsDue ∧ (s.endFlags.core c).flagsDue = 0)

/-- R188 to R190: fences, acquires and releases. -/
def Obligations.FencesAcquiresAndReleases : Prop :=
  ∀ (s : State) (p u : BitVec 4) (c : BitVec 2) (sc : BitVec 3),
    let waits := fun (w : Wait) (t : State) => s.onlySlotPosts s.cur t ∧ t.work = s.work ++ [⟨.slotWake, arg1 s.cur⟩] ∧ s.me.parksAs (.again w) (s.cycle + 1) t.me
    let emptied := fun (t : State) => (t.cluster (domainOf s.myCore)).l1 = [] ∧ (∀ d, d ≠ domainOf s.myCore → t.cluster d = s.cluster d) ∧
      (∀ a, (a < l1Key (domainOf s.myCore) 0 ∨ l1Key (domainOf s.myCore) 0 + 2 ^ 40 ≤ a) → t.byteAt a = s.byteAt a) ∧ s.me.keepsRest t.me ∧
      s.me.keepsRegs t.me ∧ s.stepped 4 sc.toNat t ∧ ∀ j, j ≠ s.cur → t.slot j = s.slot j
    (p = 0 → u = 0 → s.gives (.fence p u c sc) (s.stepsOnly 4 sc.toNat)) ∧
    (¬ (p = 0 ∧ u = 0) → s.gives (.fence p u c sc) fun t => s.onlySlot s.cur t ∧ s.me.keepsRegs t.me ∧ s.stepped 4 sc.toNat t ∧
      t.me.fences = s.me.fences ++ [⟨scopeOf c, p, u, s.me.stores.length, s.serial, s.me.cmds, none⟩]) ∧
    (s.loadsPerformed s.cur = true → s.sendsPerformed s.cur = true → (c = 0 → s.gives (.acq c sc) (s.stepsOnly 4 sc.toNat)) ∧ (c ≠ 0 → s.gives (.acq c sc) emptied) ∧ s.gives (.l1inv sc) emptied) ∧
    (s.loadsPerformed s.cur = false ∨ s.sendsPerformed s.cur = false → ∀ i ∈ [Instr.acq c sc, .l1inv sc], s.gives i (waits .loads)) ∧
    (s.loadsPerformed s.cur = true ↔ ∀ w ∈ s.me.stores, ∀ hi v, w.op ≠ .nibble hi v) ∧
    (s.released s.cur (scopeOf c) = true → s.gives (.rel c sc) (s.stepsOnly 4 sc.toNat)) ∧
    (s.released s.cur (scopeOf c) = false → s.gives (.rel c sc) (waits (.release (scopeOf c)))) ∧
    (s.me.stores ≠ [] → s.released s.cur (scopeOf c) = false)

/-- R191 and R192: l2wb, pfetch and l2zero. -/
def Obligations.CacheLineInstructions : Prop :=
  ∀ (s : State) (ra : Reg) (sc : BitVec 3), let ea := s.x ra
    (2 ^ 63 ≤ ea.toNat → s.gives (.pfetch ra sc) (s.stepsOnly 4 sc.toNat)) ∧
    (2 ^ 63 ≤ ea.toNat → ea.toNat / 2 ^ 32 % 2 ^ 31 = 0 → ea.toNat / 2 ^ 20 % 16 = 0 → s.gives (.l2wb ra sc) (s.stepsOnly 4 sc.toNat)) ∧
    (∀ sl pa p ks,
      ea.toNat < 2 ^ 63 → s.check s.myCore ea 1 ⟨true, false, false, false⟩ = (.ok (.dram sl pa p ks), s) → p ≠ 2 → s.noWindow s.myCore ea = true →
      s.gives (.l2wb ra sc) fun t => s.onlySlotPosts s.cur t ∧ t.work = s.work ++ [⟨.slotWake, arg1 s.cur⟩] ∧
        s.me.parksAs (.clean sl pa sc.toNat) (s.cycle + 1 + sc.toNat) t.me) ∧
    (∀ sl pa c (l : L2Line), let base := pa / 64 * 64; let k := s.arg.a
      (s.slot k).park = .clean sl pa c → (s.slot k).frozen = false → pa < 2 ^ 40 →
      find? s.l2 (l2Index sl pa) = some l → l.dirty = true → l.mask = BitVec.allOnes 64 → s.keyLoaded l.keyslot.toNat = true → Memory.wf s.mem = true →
      s.gives .slotWake fun t => find? t.l2 (l2Index sl pa) = some ⟨false, 0, l.keyslot⟩ ∧ t.bytesAt base 64 = s.bytesAt (l2Key sl base) 64 ∧
        t.poisonAt base = s.poisonAt (l2Key sl base) ∧ (∀ a, (a < base ∨ base + 64 ≤ a) → t.byteAt a = s.byteAt a) ∧
        (s.slot k).keepsRegs (t.slot k) ∧ (t.slot k).park = .run ∧ (t.slot k).retired = (s.slot k).retired + 1 ∧ (t.slot k).pc = ((s.slot k).seq 4).pc ∧
        ∀ j, j ≠ k → t.slot j = s.slot j) ∧
    (∀ sl pa ks, ea.toNat < 2 ^ 63 → s.check s.myCore ea 1 .load = (.ok (.dram sl pa 1 ks), s) → s.noWindow s.myCore ea = true →
      s.gives (.pfetch ra sc) fun t => t.l2Has sl pa = true ∧ s.me.keepsRest t.me ∧ s.me.keepsRegs t.me ∧ s.stepped 4 sc.toNat t) ∧
    (∀ h, s.me.fences = [] → s.place ea 64 ⟨false, true, false, true⟩ = (.ok h, s) →
      (∀ sl pa p ks, h = .dram sl pa p ks → s.l1Has (clusterOf s.myCore) pa = false) →
      s.gives (.l2zero ra sc) fun t => s.onlySlotPosts s.cur t ∧ s.me.keepsRegs t.me ∧ s.stepped 4 sc.toNat t ∧ t.me.stores = s.me.stores ++ [⟨h, .zeroLine⟩])

/-! ## Barrier words (R113 to R116) -/

/-- R113 and R114: the layout of a barrier word, and one arrival at it. -/
def barrierArrivalRuleRules : Prop :=
  (∀ (w : Barrier) (p : Bool) (b : Int),
    let fails := w.expected = 0 ∨ w.top = true ∨ (p = w.phase ∧ (w.arrived = w.expected ∨ w.bytes + b < -2 ^ 31 ∨ 2 ^ 31 - 1 < w.bytes + b)) ∨
      (p ≠ w.phase ∧ (b ≠ 0 ∨ w.early = min w.expected 63))
    let n := if p = w.phase then w.arrived + 1 else w.arrived
    let bytes := if p = w.phase then w.bytes + b else w.bytes
    let e := if p = w.phase then w.early else w.early + 1
    (w.arrive p b = none ↔ fails) ∧
    (¬ fails → (n ≠ w.expected ∨ bytes ≠ 0) → w.arrive p b = some ⟨w.phase, bytes, w.expected, n, e, false⟩) ∧
    (¬ fails → n = w.expected → bytes = 0 → e ≠ w.expected → w.arrive p b = some ⟨!w.phase, 0, w.expected, e, 0, false⟩) ∧
    (¬ fails → n = w.expected → bytes = 0 → e = w.expected → w.arrive p b = some ⟨w.phase, 0, w.expected, 0, 0, false⟩)) ∧
  (∀ w : Barrier, -2 ^ 31 ≤ w.bytes → w.bytes < 2 ^ 31 → w.expected < 4096 → w.arrived < 4096 → w.early < 64 →
    Barrier.ofWord w.word = w ∧ w.word.getLsbD 0 = w.phase ∧ w.word.getLsbD 63 = w.top)

/-- The scratchpad word at `key` is reached by an arrival of the slot in hand: its checks pass, it is not poisoned, what a release
at the scope waits for is performed, and the cluster's L1 holds nothing (so that an acquire changes nothing). -/
def Sys2Proof.Machine.State.reachesBarrier (ea : Word) (k off : Nat) (m : BitVec 2) (s : State) : Prop :=
  s.place ea 8 .atomic = (.ok (.sram k off), s) ∧ s.poisonAt (sramKey k off) = false ∧ s.released s.cur (scopeOf m) = true ∧
  s.clearAt (.sram k off) ∧ (s.cluster (domainOf s.myCore)).l1 = []

/-- Only the slot in hand and the 8 bytes at `key` differ, and the bytes hold `w`. -/
def Sys2Proof.Machine.State.writesWord (key : Nat) (w : Word) (s t : State) : Prop :=
  t = { s with slots := t.slots, mem := t.mem, work := t.work } ∧ (∀ j, j ≠ s.cur → t.slot j = s.slot j) ∧
  BitVec.ofNat 64 (ofBytes (t.bytesAt key 8)) = w ∧ ∀ a, (a < key ∨ key + 8 ≤ a) → t.byteAt a = s.byteAt a

/-- R115: the four barrier instructions (bit 63 of arrx first: log entry 36). -/
def barrierInstructionsRules : Prop :=
  ∀ (s : State) (rd ra rb : Reg) (m : BitVec 2) (sc : BitVec 3) (k off : Nat),
    let ea := s.x ra; let key := sramKey k off; let p := (s.x rb).getLsbD 0
    let w := BitVec.ofNat 64 (ofBytes (s.bytesAt key 8))
    let parked := fun (t : State) => t.work = s.work ++ [⟨.slotWake, arg1 s.cur⟩] ∧
      s.me.parksAs (.barrier (some (.sram k off)) ea p rd.toNat sc.toNat (scopeOf m)) (s.cycle + 1 + sc.toNat) t.me
    let given := fun (v : Word) (t : State) => t.work = s.work ++ [⟨.slotWake, arg1 s.cur⟩] ∧ s.me.parksAs (.give rd.toNat v sc.toNat) (s.cycle + 1 + sc.toNat) t.me
    let returns := fun (v : Word) (t : State) => s.me.keepsRest t.me ∧ s.stepped 4 sc.toNat t ∧ s.me.xIs rd v t.me ∧ t.work = s.work
    ((s.x rb).getLsbD 63 = true → s.gives (.arrx rd ra rb m sc) (s.trapsWith cPHASE ea)) ∧
    (s.reachesBarrier ea k off m →
      ((Barrier.ofWord w).arrive p 0 = none →
        s.gives (.arr rd ra rb m sc) (s.trapsWith cPHASE ea) ∧ s.gives (.wfa rd ra rb m sc) (s.trapsWith cPHASE ea)) ∧
      ((s.x rb).getLsbD 63 = false → (Barrier.ofWord w).arrive p ((s.x rb).toNat / 2 ^ 32 : Nat) = none →
        s.gives (.arrx rd ra rb m sc) (s.trapsWith cPHASE ea)) ∧
      (∀ v, (Barrier.ofWord w).arrive p 0 = some v →
        (s.gives (.arr rd ra rb m sc) fun t => s.writesWord key v.word t ∧ given w t) ∧
        (s.gives (.wfa rd ra rb m sc) fun t => s.writesWord key v.word t ∧ parked t)) ∧
      (∀ v, (s.x rb).getLsbD 63 = false → (Barrier.ofWord w).arrive p ((s.x rb).toNat / 2 ^ 32 : Nat) = some v →
        s.gives (.arrx rd ra rb m sc) fun t => s.writesWord key v.word t ∧ given w t) ∧
      (w.getLsbD 0 ≠ p → s.gives (.wfp rd ra rb m sc) fun t => s.onlySlot s.cur t ∧ returns w t) ∧
      (w.getLsbD 0 = p → s.gives (.wfp rd ra rb m sc) fun t => s.onlySlotPosts s.cur t ∧ parked t))

/-- arr, arrx, wfa and wfp act on a barrier word as R114 and R115 say (log entry 36 for arrx), and their arrivals perform at its home (R113, R114, R115). -/
def Obligations.Barriers : Prop := barrierArrivalRuleRules ∧ barrierInstructionsRules

/-- R29: SLOT_WAKE. -/
def Obligations.SlotWakes : Prop :=
  ∀ s : State, let k := s.arg.a; let sl := s.slot k
    let gets := fun (rd : Reg) (w : Word) (t : State) => s.onlySlot k t ∧ sl.xIs rd w (t.slot k) ∧ (t.slot k).park = .run ∧
      (t.slot k).retired = sl.retired + 1 ∧ (t.slot k).pc = (sl.seq 4).pc
    let holds := fun (rd : Reg) (w : Word) (sc : Nat) (t : State) => s.onlySlot k t ∧ t.slot k = { sl with park := .give rd.toNat w sc, woken := true }
    (∀ w, sl.park = .again w → s.waitOver k w = false → exec .slotWake s = .next { s with deferred := true }) ∧
    (∀ w, sl.park = .again w → s.waitOver k w = true → sl.frozen = false → s.gives .slotWake fun t =>
      s.onlySlot k t ∧ t.slot k = { sl with park := .run, waited := true, elapsed := s.cycle, noticed := false }) ∧
    (∀ w, sl.park = .again w → s.waitOver k w = true → sl.frozen = true → s.gives .slotWake fun t =>
      s.onlySlot k t ∧ t.slot k = { sl with woken := true }) ∧
    (∀ (rd : Reg) v sc, sl.park = .give rd.toNat v sc → (sl.frozen = false → s.gives .slotWake (gets rd v)) ∧ (sl.frozen = true → s.gives .slotWake (holds rd v sc))) ∧
    (∀ c off a p (rd : Reg) n sc, sl.park = .barrier (some (.sram c off)) a p rd.toNat n sc → s.poisonAt (sramKey c off) = false →
      let w := BitVec.ofNat 64 (ofBytes (s.bytesAt (sramKey c off) 8))
      (w.getLsbD 0 = p → exec .slotWake s = .next { s with deferred := true }) ∧
      (w.getLsbD 0 ≠ p → (s.cluster (domainOf (coreOf k))).l1 = [] → (sl.frozen = false → s.gives .slotWake (gets rd w)) ∧
        (sl.frozen = true → s.gives .slotWake (holds rd w n))))

/-! ## Groups and reductions (R32, R33, R117, R324 to R330) -/

/-- R32, R33, R117, R363: gjoin and gleave (log entry 84 for what a leave does at barriers). -/
def Obligations.GroupMembership : Prop :=
  (∀ (s : State) (g : BitVec 12) (sc : BitVec 3), let n := g.toNat
    let fits := s.groupInRange s.myCore n = true
    let parks := fun (join : Bool) (t : State) => s.onlySlotPosts s.cur t ∧ t.work = s.work ++ [⟨.slotWake, arg1 s.cur⟩] ∧
      s.me.parksAs (.group n join sc.toNat) (s.cycle + 1 + sc.toNat) t.me
    (¬ fits → s.gives (.gjoin g sc) (s.trapsWith cPROTECTION (g.setWidth 64)) ∧ s.gives (.gleave g sc) (s.trapsWith cPROTECTION (g.setWidth 64))) ∧
    (fits → s.gives (.gjoin g sc) (parks true) ∧ s.gives (.gleave g sc) (parks false))) ∧
  (∀ (s : State) (n sc : Nat) (join : Bool), let k := s.arg.a; let sl := s.slot k; let a := sl.act
    let changesMembers := fun (l : List Member) (t : State) => t = { s with slots := t.slots, fabric := { s.fabric with members := l } } ∧
      (∀ j, j ≠ k → t.slot j = s.slot j) ∧ sl.keepsRegs (t.slot k) ∧ (t.slot k).park = .run ∧ (t.slot k).retired = sl.retired + 1 ∧ (t.slot k).pc = (sl.seq 4).pc
    sl.park = .group n join sc → sl.frozen = false →
    (join = true → s.member k n = none → s.fabric.members.length < 16384 → s.gives .slotWake (changesMembers (s.fabric.members ++
      [⟨n, coreOf k, decide (a.obj = 0), if a.obj = 0 then k % 8 else a.obj, (s.group n).nexti, (s.group n).nexti, 0, 0, 0, 0, 0, false, false⟩]))) ∧
    (join = true → s.member k n = none → 16384 ≤ s.fabric.members.length → exec .slotWake s = .next { s with deferred := true }) ∧
    (join = true → (s.member k n).isSome = true → s.gives .slotWake (changesMembers s.fabric.members)) ∧
    (join = false → s.member k n = none → s.gives .slotWake (changesMembers s.fabric.members)) ∧
    (∀ m, join = false → s.member k n = some m → (∀ r ∈ s.fabric.rslots, r.2.group ≠ n) → s.gives .slotWake (changesMembers (s.fabric.members.erase m)))) ∧
  (∀ (op key : Nat) (r : RSlot), (∀ e ∈ r.got, e.1 ≠ key) → RSlot.fold op { r with got := put key (0, 0, 0) r.got } = RSlot.fold op r)

/-- R324 and R325: gcontrib and gread. -/
def contributionsAndReadsRules : Prop :=
  ∀ (s : State) (rd : Reg) (g : BitVec 12) (sc : BitVec 3), let n := g.toNat; let e := s.group n
    let op := e.op.toNat; let bits := if op = 1 then 16 else if op = 2 ∨ op = 5 ∨ op = 6 ∨ op = 9 ∨ op = 10 then 64 else 32
    let fits := s.groupInRange s.myCore n = true
    (s.member s.cur n = none → s.gives (.gcontrib rd g sc) (s.trapsWith cPROTECTION (g.setWidth 64)) ∧
      (s.me.fences = [] → s.gives (.gread rd g sc) (s.trapsWith cPROTECTION (g.setWidth 64)))) ∧
    (∀ m, s.member s.cur n = some m →
      (fits → e.valid = true → op ≤ 10 → e.part.toNat = s.corePart s.myCore → s.sendReleased s.cur .sy = true → s.gives (.gcontrib rd g sc) fun t =>
        t = { s with slots := t.slots, fabric := { s.fabric with members := t.fabric.members }, net := t.net, work := t.work, serial := s.serial + 1 } ∧
        t.member s.cur n = some { m with counter := m.counter + 1, sent := true } ∧ (∀ j, j ≠ s.cur → t.slot j = s.slot j) ∧
        t.net = s.net ++ [⟨s.serial + 1, s.numOf s.myCore, s.chipNo * 2048, .contribution n m.order (BitVec.ofNat 64 ((s.x rd).toNat % 2 ^ bits)) m.counter⟩] ∧
        t.work = s.work ++ [⟨.groupContribution, arg1 (s.serial + 1)⟩] ∧ s.me.keepsRest { t.me with sends := s.me.sends } ∧
        t.me.sends = s.me.sends ++ [(s.serial, s.serial + 1)] ∧ s.me.keepsRegs t.me ∧ s.stepped 4 sc.toNat t) ∧
      (fits → e.valid = true → op ≤ 10 → e.part.toNat = s.corePart s.myCore → s.sendReleased s.cur .sy = false → s.gives (.gcontrib rd g sc) fun t =>
        t = { s with slots := t.slots, fabric := { s.fabric with members := t.fabric.members }, work := t.work } ∧
        t.member s.cur n = some { m with counter := m.counter + 1, sent := true } ∧ (∀ j, j ≠ s.cur → t.slot j = s.slot j) ∧
        s.me.keepsRest { t.me with fences := s.me.fences } ∧ s.me.keepsRegs t.me ∧ s.stepped 4 sc.toNat t ∧
        ∃ f : FenceCond, t.me.fences = s.me.fences ++ [f] ∧ f.scope = .sy ∧ f.sig = some (.contribute n m.order (BitVec.ofNat 64 ((s.x rd).toNat % 2 ^ bits)) m.counter)) ∧
      (s.me.fences = [] → fits → m.sent = true → s.sendsPerformed s.cur = false → s.gives (.gread rd g sc) fun t => s.onlySlotPosts s.cur t ∧
        t.work = s.work ++ [⟨.slotWake, arg1 s.cur⟩] ∧ s.me.parksAs (.again .sends) (s.cycle + 1) t.me) ∧
      (s.me.fences = [] → fits → m.sent = false → s.gives (.gread rd g sc) (s.trapsWith cPROTECTION (g.setWidth 64))) ∧
      (s.me.fences = [] → fits → m.sent = true → s.sendsPerformed s.cur = true → m.has = true → m.num = m.counter - 1 → s.gives (.gread rd g sc) fun t => s.onlySlot s.cur t ∧
        s.me.xIs rd m.result t.me ∧ s.stepped 4 sc.toNat t ∧
        t.me.grstat = m.status.setWidth 64 ||| BitVec.ofNat 64 (m.count % 2 ^ 24 * 2 ^ 8) ||| BitVec.ofNat 64 (m.num.toNat * 2 ^ 32) ∧
        (t.me.nanseen.toNat / 2 ^ 8 % 2 ^ 24 = m.nan % 2 ^ 24) ∧ t.me.nanseen.getLsbD 0 = (s.me.nanseen.getLsbD 0 || decide (m.nan ≠ 0))) ∧
      (s.me.fences = [] → fits → m.sent = true → s.sendsPerformed s.cur = true → (m.has = false ∨ m.num ≠ m.counter - 1) → s.gives (.gread rd g sc) fun t => s.onlySlotPosts s.cur t ∧
        t.work = s.work ++ [⟨.slotWake, arg1 s.cur⟩] ∧ s.me.parksAs (.again (.group n)) (s.cycle + 1) t.me))

/-- What folding a later value `v` into the running value `r` gives (R365, R328). -/
def foldTable (op : Nat) (r v : Word) : Word :=
  match op with
  | 0 => BitVec.ofNat 64 (Fmt.f32.fadd mRNE r.toNat v.toNat).1
  | 1 => BitVec.ofNat 64 (Fmt.bf16.fadd mRNE r.toNat v.toNat).1
  | 2 => r + v
  | 3 => BitVec.ofNat 64 (Fmt.f32.pick false r.toNat v.toNat).1
  | 4 => BitVec.ofNat 64 (Fmt.f32.pick true r.toNat v.toNat).1
  | 5 => BitVec.ofInt 64 (min r.toInt v.toInt)
  | 6 => BitVec.ofInt 64 (max r.toInt v.toInt)
  | 7 => BitVec.ofNat 64 (max r.toNat v.toNat)
  | 8 => BitVec.ofNat 64 (max r.toNat v.toNat)
  | 9 => r &&& v
  | _ => r ||| v

/-- R328 to R330, R365: GROUP_CONTRIBUTION, GROUP_RESULT and GROUP_SLOT_TIMEOUT. -/
def switchReducesInstancesRules : Prop :=
  ∀ (s u : State) (p : Packet) (g key : Nat) (v : Word) (n : BitVec 16), let grp := s.group g; let op := grp.op.toNat
    let told := fun (v : Word) (status count nan : Nat) (t : State) => t.slots = s.slots ∧ t.mem = s.mem ∧ (t.group g).closed.contains n = true ∧
      (∀ r ∈ t.fabric.rslots, ¬ (r.2.group = g ∧ r.2.num = n)) ∧ t.fabric.members = s.fabric.members.map fun m =>
        if m.group = g ∧ (n - m.joined).getLsbD 15 = false then { m with result := v, status := BitVec.ofNat 8 status, count := count, nan := nan, num := n, has := true, joined := if 16384 < (n - m.joined).toNat then n - 16384 else m.joined } else m
    let part := (opFirst op v, 1, if opNan op v then 1 else 0)
    let passed := fun (i : Nat) (r : RSlot) (u t : State) => let f := r.fold op
      t = { u with fabric := t.fabric, netOut := t.netOut } ∧ t.fabric.members = s.fabric.members ∧ t.fabric.groups = s.fabric.groups ∧
      t.netOut = u.netOut ++ [⟨0, s.chipNo * 2048, 2 ^ 40 + grp.parent.toNat, .partialUp g 0 f.1 f.2.1 f.2.2 n⟩] ∧
      find? t.fabric.rslots i = some { r with sentUp := true } ∧ ∀ j, j ≠ i → find? t.fabric.rslots j = find? s.fabric.rslots j
    let slots := s.fabric.rslots; let mine := slots.find? fun r => decide (r.2.group = g) && decide (r.2.num = n)
    (s.takePacket s.arg.a = some (p, u) → p.body = .contribution g key v n →
      (grp.closed.contains n = true → s.gives .groupContribution fun t => t = { u with fabric := t.fabric } ∧ t.fabric.members = s.fabric.members ∧
        t.fabric.rslots = slots ∧ (t.group g).late = (if grp.late = 0xFFFFFFFF then grp.late else grp.late + 1)) ∧
      (grp.closed.contains n = false → mine = none → (∀ i, i < 64 → (find? slots i).isSome = true) →
        exec .groupContribution s = .next { s with deferred := true }) ∧
      (∀ i, grp.closed.contains n = false → mine = none → i < 64 → find? slots i = none → (∀ j, j < i → (find? slots j).isSome = true) →
        (∃ q ∈ s.expected g, q ≠ key) → s.gives .groupContribution fun t => t.slots = s.slots ∧ t.mem = s.mem ∧ t.fabric.members = s.fabric.members ∧
          t.fabric.rslots = put i ⟨g, n, s.expected g, [(key, part)], s.cycle, false⟩ slots) ∧
      (∀ i r, grp.closed.contains n = false → mine = some (i, r) → find? slots i = some r → r.sentUp = false →
        (∃ q ∈ r.expect, q ≠ key ∧ ∀ e ∈ r.got, e.1 ≠ q) → s.gives .groupContribution fun t => t.slots = s.slots ∧ t.mem = s.mem ∧
          t.fabric.members = s.fabric.members ∧ t.fabric.rslots = put i { r with got := put key part r.got } slots) ∧
      (∀ i r, grp.closed.contains n = false → mine = some (i, r) → r.sentUp = true → s.gives .groupContribution fun t => t = { u with fabric := t.fabric } ∧
        t.fabric.members = s.fabric.members ∧ t.fabric.rslots = slots ∧ (t.group g).late = (if grp.late = 0xFFFFFFFF then grp.late else grp.late + 1)) ∧
      (∀ i r, grp.closed.contains n = false → mine = some (i, r) → r.sentUp = false → grp.parent.toNat < 8 →
        (∀ q ∈ r.expect, q = key ∨ ∃ e ∈ r.got, e.1 = q) →
        s.gives .groupContribution (passed i { r with got := put key part r.got } u)) ∧
      (∀ i r, grp.closed.contains n = false → mine = some (i, r) → r.sentUp = false → 8 ≤ grp.parent.toNat →
        (∀ q ∈ r.expect, q = key ∨ ∃ e ∈ r.got, e.1 = q) →
        let f := RSlot.fold op { r with got := put key part r.got }
        s.gives .groupContribution (told (rootValue op f.1 f.2.1 f.2.2) 0 f.2.1 f.2.2))) ∧
    (∀ i r port c nan, s.takePacket s.arg.a = some (p, u) → p.body = .partialUp g port v c nan n → grp.closed.contains n = false → mine = some (i, r) →
      find? slots i = some r → r.sentUp = false → (∃ q ∈ r.expect, q ≠ 2 ^ 40 + port ∧ ∀ e ∈ r.got, e.1 ≠ q) → s.gives .groupContribution fun t =>
        t.slots = s.slots ∧ t.mem = s.mem ∧ t.fabric.members = s.fabric.members ∧ t.fabric.rslots = put i { r with got := put (2 ^ 40 + port) (v, c, nan) r.got } slots) ∧
    (∀ st c nan, s.takePacket s.arg.a = some (p, u) → p.body = .result g v st c nan n → s.gives .groupResult (told v st c nan)) ∧
    (∀ r, find? slots s.arg.a = some r → r.group = g → r.num = n → r.sentUp = false → let due := r.since + grp.timeout.toNat
      (grp.timeout = 0 → exec .groupSlotTimeout s = .next s) ∧
      (grp.timeout ≠ 0 → s.cycle < due → exec .groupSlotTimeout s = .next { s with deferred := true }) ∧
      (grp.timeout ≠ 0 → due ≤ s.cycle → grp.parent.toNat < 8 → s.gives .groupSlotTimeout (passed s.arg.a r s)) ∧
      (grp.timeout ≠ 0 → due ≤ s.cycle → 8 ≤ grp.parent.toNat → let f := RSlot.fold op r
        s.gives .groupSlotTimeout (told (rootValue op f.1 f.2.1 f.2.2) 1 f.2.1 f.2.2))) ∧
    (∀ (l : List (Nat × (Word × (Nat × Nat)))) (a b : Nat) (x y : Word × (Nat × Nat)), risingKeys l = true → a ≠ b → put a x (put b y l) = put b y (put a x l)) ∧
    (∀ (r : RSlot) (l : List (Nat × Word × Nat × Nat)) (k c nan : Nat) (v : Word), let f := RSlot.fold op { r with got := l }
      RSlot.fold op { r with got := [] } = (0, 0, 0) ∧ RSlot.fold op { r with got := l ++ [(k, v, 0, nan)] } = f ∧
      (0 < c → RSlot.fold op { r with got := l ++ [(k, v, c, nan)] } = (if f.2.1 = 0 then v else foldTable op f.1 v, f.2.1 + c, f.2.2 + nan))) ∧
    (let isNan := fun (m : Nat) => v.toNat / 2 ^ m % 256 = 255 ∧ v.toNat % 2 ^ m ≠ 0
     let nan32 := op ∈ [0, 3, 4, 7, 8] ∧ isNan 23
     (opNan op v = true ↔ nan32 ∨ op = 1 ∧ isNan 7) ∧
     opFirst op v = (if op = 1 then BitVec.ofNat 64 (v.toNat % 2 ^ 16) else if op = 7 ∨ op = 8 then (if nan32 then 0 else BitVec.ofNat 64 (v.toNat % 2 ^ 31))
       else if op ∈ [2, 5, 6, 9, 10] then v else BitVec.ofNat 64 (v.toNat % 2 ^ 32))) ∧
    (∀ c nan, rootValue op v c nan = if op = 7 ∧ 0 < nan ∨ op = 8 ∧ 0 < c ∧ nan = c then 0x7FC00000 else v) ∧
    (∀ a b : Member, a.idx < 4096 → b.idx < 4096 → (a.order < b.order ↔ a.core < b.core ∨ a.core = b.core ∧
      (a.anon = false ∧ b.anon = true ∨ a.anon = b.anon ∧ a.idx < b.idx)) ∧ (a.core < 2 ^ 16 → ∀ q, a.order < portOrder q ∧ portOrder q < portOrder (q + 1)))

/-- Contributions to a group are combined in the switch, and group reads return their instance's result (R324, R325, R326, R327, R328, R329, R330, R364, R365). -/
def Obligations.GroupReductions : Prop := contributionsAndReadsRules ∧ switchReducesInstancesRules

/-! ## Handles, messages and activations (R14 to R58, R100 to R112) -/

/-- The instruction in hand (4 bytes, stall count `sc`) has retired on top of what `u` is: nothing but the slot in hand differs
from `u`, and no other slot from `s`. -/
def Sys2Proof.Machine.State.retiresOn (u : State) (sc : BitVec 3) (s t : State) : Prop :=
  t = { u with slots := t.slots } ∧ (∀ j, j ≠ s.cur → t.slot j = s.slot j) ∧ s.stepped 4 sc.toNat t

/-- The instruction in hand parks with `v` as its result for x[rd], on top of what `u` is, and the wake that gives it stands out (SlotWakes). -/
def Sys2Proof.Machine.State.givesOn (u : State) (rd : Reg) (v : Word) (sc : BitVec 3) (s t : State) : Prop :=
  t = { u with slots := t.slots, work := u.work ++ [⟨.slotWake, arg1 s.cur⟩] } ∧ (∀ j, j ≠ s.cur → t.slot j = u.slot j) ∧
  (u.slot s.cur).parksAs (.give rd.toNat v sc.toNat) (s.cycle + 1 + sc.toNat) t.me

/-- The instruction in hand parks until `w`, on top of what `u` is, and its wake stands out. -/
def Sys2Proof.Machine.State.waitsOn (u : State) (w : Wait) (s t : State) : Prop :=
  t = { u with slots := t.slots, work := u.work ++ [⟨.slotWake, arg1 s.cur⟩] } ∧ (∀ j, j ≠ s.cur → t.slot j = s.slot j) ∧
  s.me.parksAs (.again w) (s.cycle + 1) t.me

/-- A slot keeps what `keepsRest` says, but for its list of sends that are still to be performed. -/
def Sys2Proof.Machine.Slot.keepsButSends (a b : Slot) : Prop := a.keepsRest { b with sends := a.sends }

/-- R41, R42: the fields of a handle-table entry. -/
def handleEntryLayoutRules : Prop :=
  (∀ (e : HEntry) (role loc : Nat) (key : Word), role < 4 → loc < 2 ^ 25 → let n := e.mk' role loc key
    n.st = 1 ∧ n.role = role ∧ n.gen = e.gen ∧ n.cls = 0 ∧ n.watch = false ∧ n.moved = false ∧ n.passed = false ∧ n.dropped = false ∧ n.loc = loc ∧
    n.w1 = 0 ∧ n.w2 = key ∧ n.w3 = 0 ∧ n.w4 = 0 ∧ n.w5 = 0 ∧ n.w6 = 0 ∧ n.w7 = 0) ∧
  (∀ (e : HEntry) (r : Resol), let n := e.resolved r
    n.gen = e.gen ∧ n.role = e.role ∧ n.cls = e.cls ∧ n.loc = e.loc ∧ n.w2 = e.w2 ∧ n.watch = false ∧ n.moved = e.moved ∧ n.passed = e.passed ∧
    n.dropped = e.dropped ∧ n.seqlist = e.seqlist ∧ n.w1 = r.handle ∧
    (r.broken = false → n.st = 2 ∧ n.w4 = r.d0 ∧ n.w5 = r.d1 ∧ n.w6 = r.d2 ∧ n.w7 = r.d3) ∧
    (r.broken = true → n.st = 3 ∧ n.reason = r.reason.toNat ∧ n.cause = r.cause.toNat)) ∧
  (∀ e : HEntry, e.freed.st = 0 ∧ e.freed.role = 0 ∧ e.freed.w1 = 0 ∧ e.freed.w2 = 0 ∧ e.freed.w3 = 0 ∧ e.freed.loc = 0 ∧
    e.freed.gen = if e.gen = 2047 then 1 else e.gen + 1) ∧
  (∀ num idx gen kind cap, num < 2 ^ 25 → idx < 2 ^ 12 → gen < 2 ^ 11 → kind < 4 → cap < 2 ^ 14 → let h := mkHandle num idx gen kind cap
    hNum h = num ∧ hIdx h = idx ∧ hGen h = gen ∧ hKind h = kind ∧ hCap h = cap ∧ hNum (hWithKind h 3) = num ∧ hIdx (hWithKind h 3) = idx ∧ hKind (hWithKind h 3) = 3)

/-- R106 to R108: hnew, hdrop and hstat. -/
def handleInstructionsRules : Prop :=
  ∀ (s : State) (rd ra : Reg) (sc : BitVec 3), let c := s.myCore; let here := s.numOf c % 2 ^ 25; let h := s.x ra; let e := s.entry c (hIdx h)
    let own := hNum h = here ∧ hIdx h ≠ 0
    let given := fun (v : Word) (t : State) => s.onlySlotPosts s.cur t ∧ t.work = s.work ++ [⟨.slotWake, arg1 s.cur⟩] ∧
      s.me.parksAs (.give rd.toNat v sc.toNat) (s.cycle + 1 + sc.toNat) t.me
    (∀ i, s.freeIndex c = some i → let n := s.handleOf c i 1; let u := s.setEntry c i ((s.entry c i).mk' 2 (s.numOf c) n)
      hKind n = 1 ∧ s.gives (.hnew rd sc) (u.givesOn rd n sc s)) ∧
    (s.freeIndex c = none → ∃ v, hKind v = 3 ∧ hIdx v = 0 ∧ hGen v = 0 ∧ hNum v = here ∧ hCap v = (s.partKey c).toNat ∧
      s.gives (.hnew rd sc) (s.givesOn rd v sc s)) ∧
    (own → (e.st = 0 ∨ e.gen ≠ hGen h) → s.gives (.hstat rd ra sc) (given 16)) ∧
    (own → e.st ≠ 0 → e.gen = hGen h → ∃ v : Word, v.toNat % 4 = e.st ∧ v.toNat / 4 % 4 = (if e.st = 2 ∧ e.role ≠ 0 then hKind e.w1 else 0) ∧
      v.getLsbD 4 = true ∧ v.getLsbD 5 = e.watch ∧ v.toNat / 2 ^ 6 % 2 ^ 16 = (if e.st = 3 then e.reason else 0) ∧
      v.toNat / 2 ^ 22 = (if e.st = 3 then e.cause else 0) ∧ s.gives (.hstat rd ra sc) (given v)) ∧
    (¬ own → s.gives (.hstat rd ra sc) (given (match hKind h with
      | 0 => 2
      | 1 => 1
      | 2 => 0xA
      | _ => if hIdx h = 0 ∧ hGen h = 0 then 0x303 else 0x43))) ∧
    (hKind h = 0 → s.gives (.hdrop ra sc) (s.stepsOnly 4 sc.toNat)) ∧
    (hKind h = 2 → s.gives (.hdrop ra sc) fun t => (s.sendPacket (s.numOf c) (hNum h) (.release h true)).retiresOn sc s t ∧ s.me.keepsRest t.me ∧ s.me.keepsRegs t.me) ∧
    (hKind h = 1 ∨ hKind h = 3 → (¬ own ∨ e.st = 0 ∨ e.gen ≠ hGen h ∨ (e.role ≠ 1 ∧ s.isLocalPromise c (hIdx h) = false)) →
      s.gives (.hdrop ra sc) (s.stepsOnly 4 sc.toNat)) ∧
    (hKind h = 1 ∨ hKind h = 3 → own → e.st = 1 → e.gen = hGen h → (e.role = 1 ∨ s.isLocalPromise c (hIdx h) = true) →
      (e.set0 22 1 1).dropped = true ∧ s.gives (.hdrop ra sc) fun t => (s.setEntry c (hIdx h) (e.set0 22 1 1)).retiresOn sc s t ∧ s.me.keepsRest t.me ∧ s.me.keepsRegs t.me)

/-- The handle table's layout, and the instructions that make, read and drop handles (R39, R41, R42, R47, R56, R69, R106, R107, R108). -/
def Obligations.HandleTable : Prop := handleEntryLayoutRules ∧ handleInstructionsRules

/-- The message of the instruction in hand, as R100 and R101 lay its header out. -/
def Sys2Proof.Machine.State.messageIs (m : Msg) (target reply d : Word) (pl : List Byte × Bool) (fwd : Bool) (s : State) : Prop :=
  m.target = target ∧ m.reply = reply ∧ m.sender = s.numOf s.myCore ∧ m.hop = s.numOf s.myCore ∧ m.channel.toNat = d.toNat / 2 ^ 8 % 64 ∧
  m.kinds.toNat = d.toNat % 256 ∧ m.cap.toNat = target.toNat % 2 ^ 14 ∧ m.payload = pl.1 ∧ m.poisoned = pl.2 ∧ m.fwd = fwd ∧ m.expansion = none ∧ m.fault = none ∧
  m.arg0 = (if d.toNat % 4 = 3 then 0 else s.x 10) ∧ m.arg1 = (if d.toNat / 4 % 4 = 3 then 0 else s.x 11) ∧
  m.arg2 = (if d.toNat / 16 % 4 = 3 then 0 else s.x 12) ∧ m.arg3 = (if d.toNat / 64 % 4 = 3 then 0 else s.x 13)

/-- `t` is `v` with message `m` sent to core `num` on one of core `c`'s credits. -/
def Sys2Proof.Machine.State.sentFrom (v : State) (c num : Nat) (m : Msg) (t : State) : Prop :=
  ∃ w, v.spend c (creditKey num) = some w ∧ t = w.sendPacket (v.numOf c) num (.invoke m)

/-- R100, R101, R103: inv and invp. -/
def Obligations.InvSendsAndPromises : Prop :=
  ∀ (s : State) (rd ra rb : Reg) (sc : BitVec 3) (pl : List Byte × Bool) (num : Nat) (fwd : Bool),
    let t := s.x ra; let d := s.x rb; let c := s.myCore
    s.me.fences = [] → s.payload d = .ok (pl, s) →
    (s.route c t = .go num fwd → s.sendReleased s.cur (s.sendScope t) = true →
      (s.hasCredit (creditKey num) = true → let o := s.onCredit
        (∀ i n v, s.freeIndex c = some i →
          let loc := if hKind t = 1 ∧ hNum t ≠ s.numOf c % 2 ^ 25 then s.numOf c else num
          let u := o.setEntry c i ((s.entry c i).mk' 1 loc t); let h := u.handleOf c i 1
          u.hasPair c t = true → u.nextSeq c t num = some (n, v) →
          hKind h = 1 ∧ s.gives (.inv rd ra rb sc) fun f => ∃ m w, s.messageIs m t h d pl fwd ∧ m.seq = n ∧ v.sentFrom c num m w ∧
            (w.modMe fun sl => { sl with sends := f.me.sends }).givesOn rd h sc s f) ∧
        (s.freeIndex c = none → ∃ v, hKind v = 3 ∧ hIdx v = 0 ∧ hGen v = 0 ∧ s.gives (.inv rd ra rb sc) (o.givesOn rd v sc s)) ∧
        (∀ j n v, s.me.replyh ≠ 0 → s.keyedIndex c s.me.replyh = some j →
          let u := (o.setEntry c j ((s.entry c j).set0 21 1 1)).modMe fun sl => { sl with replyh := 0 }
          u.hasPair c t = true → u.nextSeq c t num = some (n, v) → ((s.entry c j).set0 21 1 1).passed = true ∧
          s.gives (.invp ra rb sc) fun f => ∃ m w, s.messageIs m t s.me.replyh d pl fwd ∧ m.seq = n ∧ v.sentFrom c num m w ∧ w.retiresOn sc s f ∧
            f.me.replyh = 0 ∧ s.me.keepsRegs f.me)) ∧
      (s.hasCredit (creditKey num) = false → s.me.lost = false → let u := s.askBlock c (creditKey num)
        s.gives (.inv rd ra rb sc) (u.waitsOn (.credit (creditKey num)) s) ∧ s.gives (.invp ra rb sc) (u.waitsOn (.credit (creditKey num)) s))) ∧
    (∀ reason origin cause i, s.route c t = .broken reason origin cause → s.freeIndex c = some i →
      let u := s.setEntry c i ((s.entry c i).mk' 1 (s.numOf c) t); let h := u.handleOf c i 1
      s.gives (.inv rd ra rb sc) ((u.setEntry c i ((u.entry c i).resolved (Resol.brk reason (origin.getD h) cause))).givesOn rd h sc s))

/-- R110: spawn. -/
def Obligations.SpawnSendsOrRunsInline : Prop :=
  ∀ (s : State) (ra rb : Reg) (sc : BitVec 3), let a := s.x ra; let pc := s.x rb; let c := s.myCore
    let named := a.toNat < 2 ^ 11 ∧ s.corePart c ≠ 0 ∧ s.partOf (a.toNat / 8) = s.corePart c
    let num := coreNum s.chipNo a.toNat; let key := creditKey num; let target := mkHandle num 0 0 0 (s.partKey c).toNat
    (¬ named → s.gives (.spawn ra rb sc) (s.trapsWith cPROTECTION a)) ∧
    (named → pc.toNat % 2 = 1 → s.gives (.spawn ra rb sc) (s.trapsWith cMISALIGN pc)) ∧
    (named → pc.toNat % 2 = 0 → 2 ^ 48 ≤ pc.toNat → s.gives (.spawn ra rb sc) (s.trapsWith cPROTECTION pc)) ∧
    (named → pc.toNat % 2 = 0 → pc.toNat < 2 ^ 48 →
      (∀ n v, let o := s.onCredit; s.hasCredit key = true → s.sendReleased s.cur .ch = true → s.hasPair c target = true → o.nextSeq c target num = some (n, v) →
        s.gives (.spawn ra rb sc) fun f => ∃ m w, s.messageIs m target pc 0 ([], false) false ∧ m.seq = n ∧ v.sentFrom c num m w ∧ w.retiresOn sc s f ∧
          o.me.keepsButSends f.me ∧ s.me.keepsRegs f.me) ∧
      (s.hasCredit key = false → s.me.inl = none → s.gives (.spawn ra rb sc) fun f => let u := s.askBlock c key
        f = { u with slots := f.slots } ∧ (∀ j, j ≠ s.cur → f.slot j = s.slot j) ∧
        f.me = { s.me with inl := some ⟨s.x 10, s.x 11, s.x 12, s.x 13, s.me.lstart, s.me.lend, s.me.lcount, s.me.pc⟩, lcount := 0, pc := pc.setWidth 48,
                           retired := s.me.retired + 1, ready := s.cycle + 1 + sc.toNat, waited := false }) ∧
      (s.hasCredit key = false → s.me.inl ≠ none → s.me.lost = false → s.gives (.spawn ra rb sc) ((s.askBlock c key).waitsOn (.credit key) s)))

/-- A pending answer entry that nothing is queued or registered on. -/
def Sys2Proof.Machine.HEntry.quiet (e : HEntry) : Prop := e.st = 1 ∧ e.w4 = 0 ∧ e.w6 = 0 ∧ e.dropped = false

/-- `t` is `u` with entry `i` of core `c`, which was `e`, resolved to `r`, and the notices of R47 sent: to the core the value names,
or, broken or at home, to the key's home and to LOC; none for a local promise that stays here. -/
def Sys2Proof.Machine.State.resolvedAt (u : State) (c i : Nat) (e : HEntry) (r : Resol) (own : Bool) (t : State) : Prop :=
  let w := u.setEntry c i (e.resolved r); let here := u.numOf c
  let away := r.broken = false ∧ hNum r.handle ≠ here % 2 ^ 25
  (away → t = w.sendPacket here (hNum r.handle) (.resolve e.w2 r 0 e.loc)) ∧ (¬ away → own = true → t = w) ∧
  (¬ away → own = false → e.loc = hNum e.w2 → t = w.sendPacket here (hNum e.w2) (.resolve e.w2 r 1 0)) ∧
  (¬ away → own = false → e.loc ≠ hNum e.w2 →
    t = (w.sendPacket here (hNum e.w2) (.resolve e.w2 r 1 0)).sendPacket here e.loc (.resolve e.w2 r 2 0))

/-- R104 and R105: reply and rbreak. -/
def Obligations.RepliesResolve : Prop :=
  ∀ (s : State) (ra rb : Reg) (sc : BitVec 3), let c := s.myCore; let here := s.numOf c; let v := s.x ra; let h := s.x rb
    let reason := 0x8000 + v.toNat % 2 ^ 15
    (s.me.replyh = 0 → ∀ i ∈ [Instr.reply ra sc, .replyDatum ra sc, .rbreak ra sc], s.gives i (s.stepsOnly 4 sc.toNat)) ∧
    (∀ j, let e := s.entry c j; s.me.replyh ≠ 0 → s.keyedIndex c s.me.replyh = some j → e.quiet → s.forwarding c e.w2 = false → s.isLocalPromise c j = false →
      let freed := fun (res : Option Word) => s.sendReleased s.cur (s.replyScope c j res) = true
      let done := fun (w f : State) => w.retiresOn sc s f ∧ f.me.replyh = 0 ∧ s.me.keepsRegs f.me
      (hKind v = 0 → freed (some v) → s.gives (.reply ra sc) fun f => ∃ w, s.resolvedAt c j e (Resol.val v) false w ∧ done w f) ∧
      (hKind v = 3 → freed (some v) → let own := hNum v = here % 2 ^ 25 ∧ hIdx v ≠ 0 ∧ (s.entry c (hIdx v)).st = 3 ∧ (s.entry c (hIdx v)).gen = hGen v
        s.gives (.reply ra sc) fun f => ∃ w, s.resolvedAt c j e (if own then Resol.brk 1 (s.entry c (hIdx v)).w1 (s.entry c (hIdx v)).cause
          else Resol.brk 1 v (s.causeOf c v)) false w ∧ done w f) ∧
      (hKind v = 1 → hNum v ≠ here % 2 ^ 25 → freed (some v) → s.gives (.reply ra sc) (done (s.sendPacket here (hNum v) (.watch v (.entry here j e.gen))))) ∧
      (freed none → s.gives (.rbreak ra sc) fun f => ∃ w, s.resolvedAt c j e (Resol.brk reason (hWithKind e.w2 1) 0) false w ∧ done w f) ∧
      (let e1 := e.set0 15 4 (v.toNat % 16); let u := s.setEntry c j e1
       freed none → u.entry c j = e1 → u.isLocalPromise c j = false → s.gives (.replyDatum ra sc) fun f =>
        ∃ w, u.resolvedAt c j e1 ⟨false, s.handleOf c j 2, 0, 0, s.x 10, s.x 11, s.x 12, s.x 13, none⟩ false w ∧ done w f)) ∧
    (let j := hIdx h; let e := s.entry c j; let local' := [Instr.replyLocalPromise ra rb sc, .replyDatumLocalPromise ra rb sc, .rbreakLocalPromise ra rb sc]
     (hNum h ≠ here % 2 ^ 25 ∨ j = 0 → ∀ i ∈ local', s.gives i (s.trapsWith cPROTECTION h)) ∧
     (hNum h = here % 2 ^ 25 → j ≠ 0 → e.gen ≠ hGen h → ∀ i ∈ local', s.gives i (s.stepsOnly 4 sc.toNat)) ∧
     (hNum h = here % 2 ^ 25 → j ≠ 0 → e.gen = hGen h → e.quiet → s.forwarding c e.w2 = false → s.isLocalPromise c j = true →
      let freed := fun (res : Option Word) => s.sendReleased s.cur (s.replyScope c j res) = true
      let done := fun (w f : State) => w.retiresOn sc s f ∧ s.me.keepsButSends f.me ∧ s.me.keepsRegs f.me
      (hKind v = 0 → freed (some v) → s.gives (.replyLocalPromise ra rb sc) fun f => ∃ w, s.resolvedAt c j e (Resol.val v) true w ∧ done w f) ∧
      (freed none → s.gives (.rbreakLocalPromise ra rb sc) fun f => ∃ w, s.resolvedAt c j e (Resol.brk reason (hWithKind e.w2 1) 0) true w ∧ done w f) ∧
      (let e1 := e.set0 15 4 (v.toNat % 16); let u := s.setEntry c j e1
       freed none → u.entry c j = e1 → u.isLocalPromise c j = true → s.gives (.replyDatumLocalPromise ra rb sc) fun f =>
        ∃ w, u.resolvedAt c j e1 ⟨false, s.handleOf c j 2, 0, 0, s.x 10, s.x 11, s.x 12, s.x 13, none⟩ true w ∧ done w f)))

/-- The packet of the step in hand is `p`, for a core that is not cut off; without it the network is that of `u`. -/
def Sys2Proof.Machine.State.takes (s : State) (p : Packet) (u : State) : Prop := s.takePacket s.arg.a = some (p, u) ∧ u.cutOff (numCore p.dst) = false

/-- R47, R55, R56, R102, R109: registrations and notices. -/
def Obligations.RegistrationsAndNotices : Prop :=
  (∀ (s : State) (ra rb : Reg) (sc : BitVec 3), let c := s.myCore; let h := s.x ra; let d := s.x rb; let a := s.me.act; let ch := d.toNat / 2 ^ 8 % 64
    let valid := (look Handler.reset (s.core c).handlers (64 * a.cls.toNat + ch)).valid
    let w := Watcher.object (s.numOf c) a.obj (s.entry c a.obj).gen (BitVec.ofNat 6 ch)
    (a.obj = 0 ∨ valid = false → s.gives (.when ra rb sc) (s.trapsWith cPROTECTION d)) ∧
    (a.obj ≠ 0 → valid = true → hKind h = 0 → s.gives (.when ra rb sc) fun t =>
      (if (s.entry c a.obj).st = 0 then s else s.joinQueue c a.obj ⟨.whenRes (BitVec.ofNat 6 ch) h (Resol.val h), s.numOf c, none⟩).retiresOn sc s t ∧ s.me.keepsRest t.me ∧ s.me.keepsRegs t.me) ∧
    (a.obj ≠ 0 → valid = true → hKind h ≠ 0 → hNum h ≠ s.numOf c % 2 ^ 25 → s.gives (.when ra rb sc) fun t =>
      (s.sendPacket (s.numOf c) (hNum h) (.watch h w)).retiresOn sc s t ∧ s.me.keepsRest t.me ∧ s.me.keepsRegs t.me)) ∧
  (∀ (s u : State) (p : Packet), s.takes p u → let c := numCore p.dst
    (∀ n obj gen ch h r, p.body = .whenAns (.object n obj gen ch) h r → exec .whenNotice s = .next
      (if (u.entry c obj).st ≠ 0 ∧ (u.entry c obj).gen = gen then u.joinQueue c obj ⟨.whenRes ch h r, p.src, none⟩ else u)) ∧
    (∀ h core obj gen ch, p.body = .watch h (.object core obj gen ch) → (hIdx h = 0 ∨ (u.entry c (hIdx h)).st = 0 ∨ (u.entry c (hIdx h)).gen ≠ hGen h) →
      core ≠ u.numOf c → exec .watchRequest s = .next (u.sendPacket (u.numOf c) core
        (.whenAns (.object core obj gen ch) (hWithKind h 3) (Resol.brk 2 (hWithKind h 1) 0)))) ∧
    (∀ key r, p.body = .resolve key r 2 0 → u.keyedIndex c key = none → (r.stale = none → exec .resolutionNotice s = .next u) ∧
      ∀ t, r.stale = some (u.numOf c, t) → (u.freeSend c t).keyedIndex c key = none → exec .resolutionNotice s = .next (u.freeSend c t)) ∧
    (∀ key r, let e := u.entry c (hIdx key); p.body = .resolve key r 1 0 → u.namesEntry c key = true → e.role = 1 → e.st = 1 → e.dropped = false → e.w6 = 0 →
      (u.core c).reorder = [] → r.stale = none → exec .resolutionNotice s = .next (u.setEntry c (hIdx key)
        (if e.loc ≠ u.numOf c % 2 ^ 25 then e.resolved r else (e.resolved r).set0 23 25 p.src))) ∧
    (∀ key num, let e := u.entry c (hIdx key); p.body = .locate key num → u.namesEntry c key = true → e.role = 1 → e.st = 1 → e.loc = u.numOf c % 2 ^ 25 →
      (u.core c).reorder = [] → exec .locationNotice s = .next (u.setEntry c (hIdx key) (e.set0 23 25 num))) ∧
    (∀ key j, let e := u.entry c j; p.body = .release key false → u.keyedIndex c key = some j → e.ownDatum (u.handleOf c j 2) = false → e.moved = false →
      e.st ≠ 1 → e.seqlist = 0 → (u.core c).reorder = [] → (u.core c).dataDue = [] → s.gives .releaseNotice fun t => t.slots = s.slots ∧
        t = { u.setEntry c j e.freed with cores := t.cores } ∧
      ∀ k, t.core k = if k = c then { u.core c with keyless := (u.core c).keyless.filter (· ≠ j) } else u.core k))

/-- R16, R17, R30, R43, R45, R50, R52: INVOCATION_ARRIVAL and FORWARDED_INVOCATION_ARRIVAL (log entry 85 for the stale notice). -/
def Obligations.InvocationArrivalQueuesOrBreaks : Prop :=
  ∀ (s u : State) (p : Packet) (m : Msg), s.takes p u → p.body = .invoke m → m.expansion = none → m.fault = none → let c := numCore p.dst; let i := hIdx m.target
    let k := u.core c; let e := u.entry c i; isSup c = false →
    (∀ pc : Word, m.reply = pc → m.cap = u.partKey c → m.fwd = false → i = 0 → k.quar = false → s.gives .invocationArrival fun t => t.slots = s.slots ∧ t.mem = s.mem ∧
      (t.core c).anon.map (·.body) = k.anon.map (·.body) ++ [.anon (pc.setWidth 48) m.arg0 m.arg1 m.arg2 m.arg3 none] ∧
      (t.cluster (clusterOf c)).used = (u.cluster (clusterOf c)).used + 1) ∧
    (m.reply = 0 →
    (m.cap ≠ u.partKey c → s.gives .invocationArrival fun t => t.slots = s.slots ∧ t.mem = s.mem ∧
      t.records = u.records ++ [⟨9, BitVec.ofNat 48 (m.channel.toNat + m.sender % 2 ^ 25 * 2 ^ 16), m.target, 0⟩]) ∧
    (m.cap = u.partKey c → m.fwd = false → i ≠ 0 → hKind m.target ≠ 1 → (e.st = 0 ∨ e.gen ≠ hGen m.target) →
      exec .invocationArrival s = .next
        ((if m.sender = u.numOf c then u.freeSend c m.target
          else u.sendPacket (u.numOf c) m.sender (.resolve 0 { Resol.brk 2 (ownOrigin 0) 0 with stale := some (m.sender, m.target) } 2 0)).creditBack c m)) ∧
    (∀ n q v, m.cap = u.partKey c → m.fwd = false → i ≠ 0 → hKind m.target ≠ 1 → e.st ≠ 0 → e.gen = hGen m.target →
      u.recvPair c i m.sender (hKey m.target) = some (n, q, v) → m.seq = q.num → let w := v.setPair c true n { q with num := q.num + 1 }
      let en := w.entry c i; let cd := look ClassD.reset (w.core c).classes en.cls
      (w.core c).quar = false → cd.valid = true → (look Handler.reset (w.core c).handlers (64 * en.cls + m.channel.toNat)).valid = true →
      (en.role = 0 ↔ cd.datum = false) → m.payload = [] → m.poisoned = false → (∀ j < 4, m.kind j = 1 → w.brokenArg c (m.arg j) = none) →
      (w.core c).reorder = [] → s.gives .invocationArrival fun t => t.slots = s.slots ∧
        (look [] (t.core c).queues i).map (·.body) = (look [] (w.core c).queues i).map (·.body) ++ [.msg m none] ∧
        (t.cluster (clusterOf c)).used = (w.cluster (clusterOf c)).used + 1) ∧
    (m.cap = u.partKey c → m.fwd = true → u.keyedIndex c m.target = none → k.reorder.length < 64 → s.gives .forwardedInvocationArrival fun t =>
      t = { u with cores := t.cores, clusters := t.clusters } ∧ (t.core c).reorder = k.reorder ++ [m] ∧
      (t.cluster (clusterOf c)).used = (u.cluster (clusterOf c)).used + 1 ∧ (∀ j, j ≠ c → t.core j = u.core j)) ∧
    (∀ j v, m.cap = u.partKey c → m.fwd = true → u.keyedIndex c m.target = some j → (u.entry c j).st = 1 → (u.entry c j).moved = true →
      u.forward c m (u.entry c j).loc = some v → exec .forwardedInvocationArrival s = .next (v.creditBack c m)))

/-- R18, R44: TABLE_ENTRY_WAIT_RELEASE and INBOX_CELL_ASSIGNMENT. -/
def Obligations.HeldWorkAndInboxCells : Prop :=
  ∀ s : State, let c := s.arg.a; let k := s.core c
    (k.held = [] → exec .tableEntryWaitRelease s = .next { s with deferred := true }) ∧
    (∀ m dst n v, k.held = [.forward m dst n] → (s.modCore c fun k => { k with held := [] }).spend c (creditKey dst) = some v →
      exec .tableEntryWaitRelease s = .next ((v.freeCell c n).sendPacket (s.numOf c) dst (.invoke { m with hop := s.numOf c }))) ∧
    (∀ m dst n, k.held = [.forward m dst n] → (s.credit c (creditKey dst)).avail = 0 → exec .tableEntryWaitRelease s = .next { s with deferred := true }) ∧
    ((∀ e ∈ k.queues, ∀ it ∈ e.2, it.needsCell = false) → exec .inboxCellAssignment s = .next s) ∧
    (∀ i m sender since cell, k.queues = [(i, [⟨.msg m none, sender, since⟩])] → m.payload ≠ [] → m.payload.length ≤ 256 →
      (look ClassD.reset k.classes (s.entry c i).cls).inboxen = true → s.freeInbox c (s.entry c i).cls = some cell →
      s.scratchRole (clusterOf c) cell m.payload.length = true → (∀ o, s.movedTo (clusterOf c) o = none) →
      s.gives .inboxCellAssignment fun t => t.slots = s.slots ∧ t.bytesAt (sramKey (clusterOf c) cell) m.payload.length = m.payload ∧
        (∀ a, (a < sramKey (clusterOf c) cell ∨ sramKey (clusterOf c) cell + m.payload.length ≤ a) → t.byteAt a = s.byteAt a) ∧
        (look [] (t.core c).queues i).map (·.body) = [.msg m (some cell)])

/-- R20, R23, R35: ACTIVATION_ADMISSION and RUN_LIMIT_EXPIRY. -/
def Obligations.AdmissionStartsActivations : Prop :=
  (∀ (s : State), let c := s.arg.a; s.admits c = false → exec .activationAdmission s = .next s) ∧
  (∀ (s : State) (k i prio : Nat) (m : Msg) (sender : Nat) (since : Option Nat), let c := s.arg.a; let e := s.entry c i
    s.admits c = true → s.chosen c = some ⟨some i, 0, ⟨.msg m none, sender, since⟩, prio⟩ → (s.core c).admitted ≤ s.cycle → coreOf k = c →
    (s.slot k).active = false → (s.slot k).ready ≤ s.cycle → (∀ j, coreOf j = c → j < k → (s.slot j).active = true) → e.role = 0 → m.payload = [] → m.expansion = none →
    let hd := look Handler.reset (s.core c).handlers (64 * e.cls + m.channel.toNat)
    s.gives .activationAdmission fun t => let sl := t.slot k
      (∀ j, j ≠ k → t.slot j = s.slot j) ∧ sl.active = true ∧ sl.park = .run ∧ sl.pc = hd.pc ∧ sl.replyh = m.reply ∧ sl.actarg = 0 ∧ sl.lcount = 0 ∧ sl.rmode = 0 ∧
      sl.rowmask = 0xFFFFFFFFFFFFFFFF ∧ sl.temp = 0x3F80 ∧ sl.grstat = 0 ∧ sl.nanseen = 0 ∧ sl.lanep = 0 ∧ sl.streams = [] ∧ sl.act.obj = i ∧ sl.act.handle = m.target ∧ sl.act.channel = m.channel ∧
      (∀ q : Reg, sl.getX q = if q = 3 then m.target else if q = 4 then e.w1 else if q = 10 then (if m.kind 0 = 3 then 0 else m.arg0)
        else if q = 11 then (if m.kind 1 = 3 then 0 else m.arg1) else if q = 12 then (if m.kind 2 = 3 then 0 else m.arg2)
        else if q = 13 then (if m.kind 3 = 3 then 0 else m.arg3) else 0) ∧ (∀ q : Reg, sl.getF q = 0) ∧ (∀ q : PReg, sl.getP q = if q = 0 then 0xFF else 0)) ∧
  (∀ (s : State), let k := s.arg.a; let sl := s.slot k; let l := (s.part (s.corePart (coreOf k))).runlimit.toNat
    let late := sl.active = true ∧ sl.park = .run ∧ sl.frozen = false ∧ sl.noticed = false ∧ l ≠ 0 ∧ sl.elapsed + l ≤ s.cycle
    (¬ late → exec .runLimitExpiry s = .next s) ∧
    (late → s.gives .runLimitExpiry fun t => s.onlyTells k t ∧ t.slot k = { sl with noticed := true } ∧ t.halted = s.halted ∧
      (let h := look 0 s.chip.fhandle (s.corePart (coreOf k))
       h = 0 → t.records = s.records ++ [⟨0xF1, BitVec.ofNat 48 (s.corePart (coreOf k)), BitVec.ofNat 64 (s.cycle - sl.elapsed), sl.act.handler.setWidth 64⟩])))

/-- R57: RESERVATION_REQUEST, RESERVATION_GRANT, CREDIT_RETURN, RESERVATION_BLOCK_RETURN. -/
def Obligations.ReservationsAndCredits : Prop :=
  (∀ (s u : State) (p : Packet), s.takes p u → let c := numCore p.dst
    (∀ k, p.body = .resvReq k → (u.cluster k).waiters = [] →
      ((u.cluster k).lent < 64 → s.gives .reservationRequest fun t => t.slots = s.slots ∧ t.mem = s.mem ∧ (t.cluster k).lent = (u.cluster k).lent + 1 ∧
        (t.cluster k).waiters = [] ∧ ∃ v : State, v.net = u.net ∧ v.netOut = u.netOut ∧ t = v.sendPacket (coreNum u.chipNo (k * 8)) p.src (.grant k)) ∧
      (64 ≤ (u.cluster k).lent → s.gives .reservationRequest fun t => t = { u with clusters := t.clusters } ∧ (t.cluster k).waiters = [p.src] ∧
        (t.cluster k).lent = (u.cluster k).lent)) ∧
    (∀ k, p.body = .grant k → let key := numChip p.src * 256 + k; let v := u.credit c key
      s.gives .reservationGrant fun t => t = { u with cores := t.cores, work := t.work } ∧ t.credit c key = { v with blocks := v.blocks + 1, avail := v.avail + 8, requested := false, last := u.cycle } ∧
        (∀ q, q ≠ key → t.credit c q = u.credit c q) ∧ ∀ j, j ≠ c → t.core j = u.core j) ∧
    (∀ k, p.body = .credit k → let key := numChip p.src * 256 + k; let v := u.credit c key
      s.gives .creditReturn fun t => t = { u with cores := t.cores, work := t.work } ∧ t.credit c key = { v with avail := min (v.avail + 1) (8 * v.blocks) } ∧
        (∀ q, q ≠ key → t.credit c q = u.credit c q) ∧ ∀ j, j ≠ c → t.core j = u.core j)) ∧
  (∀ s : State, let c := s.arg.a; let key := s.arg.b; let v := s.credit c key
    (v.blocks = 0 ∨ v.avail < 8 → exec .reservationBlockReturn s = .next s) ∧
    (v.blocks ≠ 0 → 8 ≤ v.avail → s.cycle < v.last + 10000 → exec .reservationBlockReturn s = .next { s with deferred := true }) ∧
    (v.blocks ≠ 0 → 8 ≤ v.avail → v.last + 10000 ≤ s.cycle → s.gives .reservationBlockReturn fun t => t.slots = s.slots ∧ t.mem = s.mem ∧
      t.credit c key = { v with blocks := v.blocks - v.avail / 8, avail := v.avail % 8 } ∧ ∀ q, q ≠ key → t.credit c q = s.credit c q)) ∧
  (∀ (s : State) (c key : Nat), s.spend c key = none ↔ (s.credit c key).avail = 0)

/-! ## The copy engines (R231 to R254) -/

/-- `t` is `s` with map `n` of core `c` set to `m`, but for the slots. -/
def Sys2Proof.Machine.State.mapSet (c n : Nat) (m : TMap) (s t : State) : Prop :=
  t = { s with slots := t.slots, cores := t.cores } ∧ t.core c = { s.core c with tmaps := (t.core c).tmaps } ∧ (∀ j, j ≠ c → t.core j = s.core j) ∧
  ∀ i, look TMap.invalid (t.core c).tmaps i = if i = n then m else look TMap.invalid (s.core c).tmaps i

/-- R233, R238, R250, R251: maps and the shadow image. -/
def shadowAndMapInstructionsRules : Prop :=
  (∀ (s : State) (t : BitVec 4) (ra rb : Reg) (sc : BitVec 3), let a := s.x ra; let b := s.x rb; let h := s.me.shadow; let c := s.myCore
    let n := t.setWidth 5
    let sets := fun (h : Shadow) (u : State) => s.onlySlot s.cur u ∧ s.stepped 4 sc.toNat u ∧
      u.me = { s.me with shadow := h, pc := u.me.pc, lcount := u.me.lcount, retired := u.me.retired, ready := u.me.ready, waited := false }
    let parks := fun (v : State) (m : TMap) (u : State) => v.onlySlotPosts v.cur u ∧ u.work = v.work ++ [⟨.slotWake, arg1 v.cur⟩] ∧
      v.me.parksAs (.tmset t.toNat m sc.toNat) (v.cycle + 1 + sc.toNat) u.me
    s.gives (.xsrcLocal t ra sc) (sets { h with smap := n, sbase := a, skind := 1 }) ∧
    s.gives (.xsrcImageBase t sc) (sets { h with smap := n, skind := 2 }) ∧
    s.gives (.xsrcRemote t ra rb sc) (sets { h with smap := n, sbase := a, sremote := b, skind := 3 }) ∧
    s.gives (.xdstLocal t ra sc) (sets { h with dmap := n, dbase := a, dkind := 1 }) ∧
    s.gives (.xdstImageBase t sc) (sets { h with dmap := n, dkind := 2 }) ∧
    s.gives (.xdstRing t sc) (sets { h with dring := t, dkind := 3 }) ∧
    s.gives (.xdstRemote t ra rb sc) (sets { h with dmap := n, dbase := a, dremote := b, dkind := 4 }) ∧
    s.gives (.xset ra rb sc) (sets { h with ctl := a, baddr := b }) ∧
    s.gives (.xsetPost ra rb sc) (sets { h with postval := a, paddr := b }) ∧
    s.gives (.xsetAct ra rb sc) (sets { h with actpc := a, gidx := b }) ∧
    s.gives (.xsetChain ra sc) (sets { h with chain := a }) ∧
    (s.gives (.tmclr t sc) fun u => s.mapSet c t.toNat ⟨false, 0, 0, 0, 0, []⟩ u ∧ (∀ j, j ≠ s.cur → u.slot j = s.slot j) ∧ s.me.keepsRegs u.me ∧ s.stepped 4 sc.toNat u) ∧
    (a.toNat % 64 ≠ 0 → s.gives (.tmset t ra sc) (s.trapsWith cMISALIGN a)) ∧
    (∀ (w0 w1 w2 w3 w4 w5 w6 w7 : Word) (tl : List Word) (u v : State), let nd := w1.toNat / 64 % 32
      let good := w1.toNat % 16 < 10 ∧ w1.toNat / 16 % 4 < 2 ∧ nd ≠ 0 ∧ w1.toNat < 2 ^ 11 ∧ w2.toNat < 2 ^ 32 ∧ w3 = 0 ∧ w4 = 0 ∧ w5 = 0 ∧ w6 = 0 ∧ w7 = 0
      a.toNat % 64 = 0 → nd ≤ 16 → s.imageWords 8 a = (.ok [w0, w1, w2, w3, w4, w5, w6, w7], u) → u.imageWords (2 * nd) (a + 64) = (.ok tl, v) →
      (good → ∃ m : TMap, m.valid = true ∧ m.base = w0 ∧ m.fmt.toNat = w1.toNat % 16 ∧ m.padmode.toNat = w1.toNat / 16 % 4 ∧ m.padval.toNat = w2.toNat ∧
        m.dims.length = nd ∧ (∀ (d : Nat) (hd : d < m.dims.length), (m.dims[d]).size.toNat = (tl.getD (2 * d) 0).toNat % 2 ^ 32 ∧
          (m.dims[d]).bound.toNat = (tl.getD (2 * d) 0).toNat / 2 ^ 32 ∧ (m.dims[d]).stride = tl.getD (2 * d + 1) 0) ∧
        s.gives (.tmset t ra sc) (parks v m)) ∧
      (¬ good → s.gives (.tmset t ra sc) (v.trapsWith cPROTECTION a)))) ∧
  (∀ (s : State) (n sc : Nat) (m : TMap), let k := s.arg.a; let sl := s.slot k
    sl.park = .tmset n m sc → s.gives .slotWake fun u => s.mapSet (coreOf k) n m u ∧ (∀ j, j ≠ k → u.slot j = s.slot j) ∧
      (sl.frozen = false → sl.keepsRegs (u.slot k) ∧ (u.slot k).park = .run ∧ (u.slot k).retired = sl.retired + 1 ∧ (u.slot k).pc = (sl.seq 4).pc) ∧
      (sl.frozen = true → u.slot k = { sl with park := .give 0 0 sc, woken := true }))

/-- The command a slot's shadow image describes (R234, R236, R238, R244), as it takes number `serial`. -/
def Sys2Proof.Machine.State.describes (serial : Nat) (c : CopyCmd) (s : State) : Prop :=
  let h := s.me.shadow; let map := fun (n : BitVec 5) => if n.toNat < 16 then look TMap.invalid (s.core s.myCore).tmaps n.toNat else TMap.invalid
  c.serial = serial ∧ c.id.toNat = s.myCore % 8 * 2 ^ 13 + (s.core s.myCore).xseq.toNat ∧ c.core = s.myCore ∧ c.slot = s.cur ∧ c.part = s.corePart s.myCore ∧
  c.sh = h ∧ c.smap = { map h.smap with base := if h.skind = 2 then (map h.smap).base else h.sbase } ∧
  c.dmap = { map h.dmap with base := if h.dkind = 2 then (map h.dmap).base else h.dbase } ∧ c.pos = 0 ∧ c.iter = 0 ∧ c.failed = 0 ∧ c.status = 0 ∧ c.told = false ∧ c.ended = false

/-- R244, R252 to R254: the instructions that issue and control copy commands. -/
def copyCommandsIssueRules : Prop :=
  ∀ (s : State) (rd ra rb : Reg) (sc : BitVec 3), let cl := clusterOf s.myCore; let n := s.serial + 1; let u := { s with serial := n }; let k := s.core s.myCore
    let issued := fun (v : State) (c : CopyCmd) (t : State) => (v.me.waited = false → v.me.xComes rd (c.id.setWidth 64) (v.cycle + 2) t.me) ∧
      (v.me.waited = true → v.me.xIs rd (c.id.setWidth 64) t.me) ∧ v.stepped 4 sc.toNat t ∧
      t.me.cmds = v.me.cmds ++ [n] ∧ (t.core s.myCore).xseq = k.xseq + 1 ∧
      look XStat.empty (t.core s.myCore).xstat (c.id.toNat % 64) = ⟨true, c.id, 1, 0, 0⟩ ∧ t.mem = v.mem ∧ ∀ j, j ≠ s.cur → t.slot j = v.slot j
    s.me.fences = [] →
    (s.copyRoom s.myCore false = false → s.gives (.xgo rd sc) (s.waitsOn (.copyQueue false) s) ∧ s.gives (.xloop rd ra rb sc) (s.waitsOn (.copyQueue false) s)) ∧
    (s.copyRoom s.myCore false = true →
      (∀ st l v, let c := u.newCmd n; let h := s.me.shadow
        let bad := 6 ≤ h.ctl.toNat % 16 ∨ h.ctl.toNat / 16 % 4 = 3 ∨ h.skind = 0 ∨ h.dkind = 0 ∨ 4 < h.dkind.toNat ∨ c.smap.valid = false ∨
          (h.dkind ≠ 3 ∧ (c.dmap.valid = false ∨ c.smap.count ≠ c.dmap.count)) ∨ (h.ctl.toNat % 16 = 5 ↔ h.skind ≠ 3) ∨ (h.dkind = 4 ∧ 4 ≤ h.ctl.toNat % 16) ∨
          (h.chain ≠ 0 ∧ h.dkind ≠ 4) ∨ (h.ctl.getLsbD 8 = true ∧ h.baddr.toNat % 8 ≠ 0) ∨ (h.ctl.getLsbD 9 = true ∧ h.paddr.toNat % 8 ≠ 0) ∨
          (h.ctl.getLsbD 11 = true ∧ (h.actpc.toNat % 2 = 1 ∨ 2 ^ 48 ≤ h.actpc.toNat))
        (bad → (u.issueStatus c).1 = 7) ∧
        (u.issueStatus c = (st, l, v) → (st = 0 ∨ st = 7 ∨ st = 8) ∧ (st ≠ 0 → h.ctl.toNat / 256 % 16 = 0 → v.cores = s.cores → v.slots = s.slots → v.cur = s.cur →
          v.cycle = s.cycle → s.gives (.xgo rd sc) fun t => (v.me.waited = false → v.me.xComes rd (c.id.setWidth 64) (v.cycle + 2) t.me) ∧
            (v.me.waited = true → v.me.xIs rd (c.id.setWidth 64) t.me) ∧ v.stepped 4 sc.toNat t ∧ (t.core s.myCore).xseq = k.xseq + 1 ∧ (t.core s.myCore).xq = k.xq ∧
            look XStat.empty (t.core s.myCore).xstat (c.id.toNat % 64) = ⟨true, c.id, 4, BitVec.ofNat 8 st, 0⟩ ∧ t.work = v.work ∧ t.mem = v.mem ∧
            ∀ j, j ≠ s.cur → t.slot j = v.slot j))) ∧
      (let c := u.newCmd n;
        s.describes n c ∧ ∀ l v, u.issueStatus c = (0, l, v) → v.cores = s.cores → v.slots = s.slots → v.cur = s.cur → v.cycle = s.cycle → s.gives (.xgo rd sc) fun t => issued v c t ∧
          (t.core s.myCore).xq = k.xq ++ [{ c with chain := l }] ∧ t.work = v.work ++ [⟨.copyCommandStart, arg2 cl 0⟩, ⟨.copyCommandStart, arg2 cl 1⟩]) ∧
      (∀ st ss v l w, u.stepRecord s.myCore (s.x rb) = (some (st, ss), v) → v.cores = s.cores → v.slots = s.slots → v.cur = s.cur → v.cycle = s.cycle → v.parts = s.parts →
        (s.x ra).toNat % 2 ^ 32 ≠ 0 →
        let c := { v.newCmd n with loop := true, iters := (s.x ra).toNat % 2 ^ 32, stages := (s.x ra).toNat / 2 ^ 32 % 16 + 1, steps := st, sstride := ss }
        v.issueStatus c = (0, l, w) → w.cores = s.cores → w.slots = s.slots → w.cur = s.cur → w.cycle = s.cycle → s.describes n c ∧ s.gives (.xloop rd ra rb sc) fun t => issued w c t ∧
          (t.core s.myCore).xq = k.xq ++ [{ c with chain := l }] ∧ t.work = w.work ++ [⟨.copyCommandStart, arg2 cl 0⟩, ⟨.copyCommandStart, arg2 cl 1⟩])) ∧
    (∀ h, s.place (s.x ra) 8 .load = (.ok h, s) → s.homePoison h = true → s.gives (.xarm rd ra rb sc) (s.trapsWith cPOISON (s.x ra))) ∧
    (∀ cause v, s.place (s.x ra) 8 .load = (.bad cause none, v) → cause ≠ cPOISON → s.gives (.xarm rd ra rb sc) (v.trapsWith cause (s.x ra))) ∧
    (∀ at' : Option Home, ((∃ h, at' = some h ∧ s.place (s.x ra) 8 .load = (.ok h, s) ∧ s.homePoison h = false) ∨ (at' = none ∧ s.place (s.x ra) 8 .load = (.disc, s))) →
      (s.copyRoom s.myCore true = false → s.gives (.xarm rd ra rb sc) (s.waitsOn (.copyQueue true) s)) ∧
      (∀ l v, s.copyRoom s.myCore true = true → let c := { u.newCmd n with trig := some (at', s.x rb), counter := s.x ra }
        u.issueStatus c = (0, l, v) → v.cores = s.cores → v.slots = s.slots → v.cur = s.cur → v.cycle = s.cycle → s.describes n c ∧ s.gives (.xarm rd ra rb sc) fun t => issued v c t ∧
          (t.cluster cl).pending = (v.cluster cl).pending ++ [{ c with chain := l, stage := .armed }] ∧ t.work = v.work ++ [⟨.triggeredCopyFire, arg3 cl n 0⟩])) ∧
    (let id : BitVec 16 := (s.x ra).setWidth 16; let e := look XStat.empty k.xstat (id.toNat % 64); let lone := e.used = false ∨ e.id ≠ id
     (lone → s.gives (.xstat rd ra sc) (s.sendsX rd (id.setWidth 64) 2 4 sc.toNat)) ∧
     (lone → s.cmdOf s.myCore id = none → s.gives (.xcancel rd ra sc) (s.sendsX rd (id.setWidth 64) 2 4 sc.toNat)) ∧
     (∀ x, ¬ lone → s.cmdOf s.myCore id = some x → ∃ w : Word, w.toNat % 2 ^ 16 = id.toNat ∧ w.toNat / 2 ^ 16 % 8 = (if x.stage = .cancelled then 5
         else if x.stage = .running ∨ x.stage = .looping then 2 else 1) ∧ w.toNat / 2 ^ 24 % 256 = (x.whole x.istatus).toNat ∧
       w.toNat / 2 ^ 32 = min x.failed 0xFFFFFFFF ∧ s.gives (.xstat rd ra sc) (s.sendsX rd w 2 4 sc.toNat)) ∧
     (¬ lone → s.cmdOf s.myCore id = none → ∃ w : Word, w.toNat % 2 ^ 16 = id.toNat ∧ w.toNat / 2 ^ 16 % 8 = e.state.toNat ∧ w.toNat / 2 ^ 24 % 256 = e.status.toNat ∧
       w.toNat / 2 ^ 32 = e.failed.toNat ∧ s.gives (.xstat rd ra sc) (s.sendsX rd w 2 4 sc.toNat) ∧ s.gives (.xcancel rd ra sc) (s.sendsX rd w 2 4 sc.toNat)) ∧
     (s.me.stores ≠ [] ∨ s.windowsPerformed s.cur (fun _ => true) .ch = false →
       s.gives (.xrel ra sc) (s.waitsOn (.stage id.toNat ((s.x ra).toNat / 2 ^ 16 % 16)) s)) ∧
     (s.me.stores = [] → s.windowsPerformed s.cur (fun _ => true) .ch = true →
       (s.cmdOf s.myCore id = none → s.gives (.xrel ra sc) (s.stepsOnly 4 sc.toNat)) ∧
       (∀ c, s.cmdOf s.myCore id = some c → c.loop = true → c.sh.dkind ≠ 3 → c.busy.contains ((s.x ra).toNat / 2 ^ 16 % 16) = true →
         s.gives (.xrel ra sc) fun t => t = { s with slots := t.slots, cores := t.cores, clusters := t.clusters, saved := t.saved } ∧ (∀ j, j ≠ s.cur → t.slot j = s.slot j) ∧
           s.me.keepsRest t.me ∧ s.me.keepsRegs t.me ∧ s.stepped 4 sc.toNat t ∧
           ∀ x, (x ∈ (t.cluster c.cluster).pending ∨ (t.engine c.cluster 0).cmd = some x ∨ (t.engine c.cluster 1).cmd = some x) → x.serial = c.serial →
             x.busy.contains ((s.x ra).toNat / 2 ^ 16 % 16) = false)) ∧
     (∀ c, s.cmdOf s.myCore id = some c → c.stage = .running → ¬ lone → c.core = s.myCore → s.gives (.xcancel rd ra sc) fun t => t.mem = s.mem ∧ s.stepped 4 sc.toNat t ∧
       (∀ j, j ≠ s.cur → t.slot j = s.slot j) ∧ (t.cluster cl).pending.map (·.serial) = (s.cluster cl).pending.map (·.serial) ∧
       (∀ x, (x ∈ (t.cluster cl).pending ∨ (t.engine cl 0).cmd = some x ∨ (t.engine cl 1).cmd = some x) → x.serial = c.serial → x.stage = .cancelled ∧ x.pos = 2 ^ 64) ∧
       (∃ b, b < 2 ∧ t.work = s.work ++ [⟨.copyItem, arg2 cl b⟩]) ∧
       ∃ w : Word, w.toNat % 2 ^ 16 = id.toNat ∧ w.toNat / 2 ^ 16 % 8 = 2 ∧ s.me.xComes rd w (s.cycle + 2) t.me) ∧
     (∀ c, s.cmdOf s.myCore id = some c → c.stage ≠ .running → c.stage ≠ .cancelled → c.sh.ctl.toNat / 256 % 16 = 0 → c.status = 0 → c.id = id → ¬ lone → c.core = s.myCore → s.gives (.xcancel rd ra sc) fun t =>
       (t.core s.myCore).xq = k.xq.filter (fun x => decide (x.serial ≠ c.serial)) ∧
       (t.cluster cl).pending = (s.cluster cl).pending.filter (fun x => decide (x.serial ≠ c.serial)) ∧ (look XStat.empty (t.core s.myCore).xstat (id.toNat % 64)).state = 5 ∧ (look XStat.empty (t.core s.myCore).xstat (id.toNat % 64)).status = 9 ∧
       t.mem = s.mem ∧ s.stepped 4 sc.toNat t ∧ ∃ w : Word, w.toNat % 2 ^ 16 = id.toNat ∧ w.toNat / 2 ^ 16 % 8 = (if c.stage = .looping then 2 else 1) ∧ s.me.xComes rd w (s.cycle + 2) t.me))

/-- The shadow and map instructions write their registers, and the copy commands issue, refuse and report as R231 to R254 say (R231, R233, R238, R240, R241, R244, R245, R250, R251, R252, R253, R254). -/
def Obligations.CopyInstructions : Prop := shadowAndMapInstructionsRules ∧ copyCommandsIssueRules

/-- R231, R241, R242, R245, R246: the steps of the copy engines. -/
def Obligations.CopyEngineSteps : Prop :=
  ∀ s : State, let cl := s.arg.a; let b := s.arg.b; let e := s.engine cl b; let k := s.cluster cl
    (e.free = false → exec .copyCommandStart s = .next s) ∧
    (∀ c, b < 2 → e.free = true → k.pending = [] → s.nextQueued cl b = some c → c.sh.dkind ≠ 3 → s.gives .copyCommandStart fun t => t.slots = s.slots ∧ t.mem = s.mem ∧
      (∃ r, (t.engine cl b).cmd = some r ∧ r.serial = c.serial ∧ r.stage = .running ∧ r.pos = 0 ∧ r.smap = c.smap ∧ r.dmap = c.dmap ∧ r.sh = c.sh) ∧
      (t.engine cl b).rr = c.core % 8 ∧ t.work = s.work ++ [⟨.copyItem, arg2 cl b⟩]) ∧
    (e.free = true → k.pending = [] → (∀ i, i < 8 → (s.core (cl * 8 + i)).xq = []) → exec .copyCommandStart s = .next s) ∧
    (∀ c, e.cmd = some c → (c.told = true ∨ c.ended = true) → exec .copyItem s = .next s) ∧
    (∀ c p, e.cmd = some c → c.told = false → c.ended = false → c.pos ≠ 2 ^ 64 → s.itemAt c c.pos = some p → e.frozen = true → exec .copyItem s = .next s) ∧
    (∀ c, e.cmd = some c → c.told = false → c.ended = false → (c.pos = 2 ^ 64 ∨ s.itemAt c c.pos = none) → c.segs = [] → c.ring = none → s.gives .copyItem fun t => t.slots = s.slots ∧ t.mem = s.mem ∧
      t.work = s.work ++ [⟨.copyCompletion, arg3 cl b c.serial⟩] ∧ (t.engine cl b).cmd = some { c with pos := 2 ^ 64, ended := true }) ∧
    (∀ c p es u v, b < 2 → e.cmd = some c → e.frozen = false → c.told = false → c.ended = false → c.pos ≠ 2 ^ 64 → s.itemAt c c.pos = some p → c.skips.contains p.item = false → c.isGet = false → c.remote = false → c.fills = false →
      s.itemElems c (if p.first then s.itemAll c p else p.els) = (.ok es, u) → let now := es.take p.els.length; (∀ x ∈ now, x.bad = false) → u.writeItem c now = (none, v) → s.gives .copyItem fun t =>
        t.mem = v.mem ∧ t.slots = v.slots ∧ (t.engine cl b).cmd = some { c with pos := p.next } ∧ t.work = v.work ++ [⟨.copyItem, arg2 cl b⟩]) ∧
    (∀ c, b < 2 → e.cmd = some c → c.serial = s.arg.c → (c.ended = false → exec .copyCompletion s = .next s) ∧ (c.ended = true → c.sent ≠ 0 → exec .copyCompletion s = .next { s with deferred := true }) ∧
      (∀ q o, c.ended = true → c.sent = 0 → c.ring = none → c.told = false → c.loop = false → c.stage = .running → c.status = 0 → c.sh.ctl.toNat / 256 % 16 = 2 → c.sh.paddr.toNat % 8 = 0 → c.cluster = cl →
        s.engineCheck c.core c.sh.paddr 8 .engineWrite = (.ok (some (.sram q o)), s) → s.gives .copyCompletion fun t => (t.engine cl b).cmd = none ∧
          (let x := look XStat.empty (t.core c.core).xstat (c.id.toNat % 64)
           x.used = true ∧ x.id = c.id ∧ x.state = (if c.istatus = 0 then 3 else 4) ∧ x.status = c.istatus) ∧
          BitVec.ofNat 64 (ofBytes (t.bytesAt (sramKey q o) 8)) = (if c.istatus = 0 then c.sh.postval else BitVec.ofNat 64 (2 ^ 63 + c.istatus.toNat * 2 ^ 32 + c.id.toNat)) ∧
          (∀ a, (a < sramKey q o ∨ sramKey q o + 8 ≤ a) → t.byteAt a = s.byteAt a) ∧ t.slots = s.slots)) ∧
    (∀ c, b < 2 → k.pending = [c] → c.serial = s.arg.c → c.stage = .looping → c.sh.dkind ≠ 3 → e.free = true →
      (c.busy.contains c.stageNo = true → exec .loopIterationStart s = .next { s with deferred := true }) ∧
      (c.busy.contains c.stageNo = false → c.loop = true → s.gives .loopIterationStart fun t => t.slots = s.slots ∧ t.mem = s.mem ∧ (t.cluster cl).pending = [] ∧
        ∃ r, (t.engine cl b).cmd = some r ∧ r.iter = c.iter ∧ r.stage = .running ∧ r.pos = 0 ∧ r.busy.contains c.stageNo = true)) ∧
    ((s.watchTriggers.cluster cl).pending = k.pending.map fun c => { c with met := c.met || (decide (c.stage = .armed) && s.trigMet c) }) ∧
    (∀ c h th, c.trig = some (some h, th) → (s.trigMet c = true ↔ th.toNat ≤ (BitVec.ofNat 64 (ofBytes (s.homeBytes h 8))).toNat)) ∧
    (∀ c, k.pending = [c] → c.serial = b → c.stage = .armed →
      (c.met = false → exec .triggeredCopyFire s = .next { s with deferred := true }) ∧
      (c.met = true → s.cmdBlocked c = (none, s) → s.gives .triggeredCopyFire fun t => t.slots = s.slots ∧ t.mem = s.mem ∧
        (t.cluster cl).pending = [{ c with stage := .fired }] ∧ t.work = s.work ++ [⟨.copyCommandStart, arg2 cl 0⟩, ⟨.copyCommandStart, arg2 cl 1⟩]) ∧
      (∀ f u, c.met = true → s.cmdBlocked c = (some f, u) → u.clusters = s.clusters → s.gives .triggeredCopyFire fun t => t.slots = u.slots ∧ t.mem = u.mem ∧
        (t.cluster cl).pending = [{ c with stage := .held }]))

/-! ## Floating point and streams (R197 to R229) -/

/-- Lane `j` of a register whose lanes have `w` bits. -/
def lane (w j : Nat) (q : QWord) : Nat := q.toNat / 2 ^ (w * j) % 2 ^ w

/-- Whether the LANEP predicate enables lane `j` (R212). -/
def Sys2Proof.Machine.State.laneOn (s : State) (j : Nat) : Bool := (s.p s.me.lanep).getLsbD j

/-- The flags raised by lanes 0 to L - 1 together. -/
def raised (l : Nat) (r : Nat → Nat × FFlags) (on : Nat → Bool) : FFlags :=
  ((List.range l).map fun j => if on j then (r j).2 else 0).foldl (· ||| ·) 0

/-- FLAGS of the core in hand has gained `fl` (R202), and nothing else of any core has changed. -/
def Sys2Proof.Machine.State.gains (fl : FFlags) (s t : State) : Prop :=
  t.core s.myCore = { s.core s.myCore with flags := (s.core s.myCore).flags ||| fl } ∧ ∀ c, c ≠ s.myCore → t.core c = s.core c

/-- The instruction retires with lanes of f[rd] under way: lane j gets `(r j).1` where `on j`, and keeps its value elsewhere; the flags of
the lanes that are on are raised; nothing else changes. -/
def Sys2Proof.Machine.State.lanesTo (rd : Reg) (m : BitVec 2) (lat sc : Nat) (on : Nat → Bool) (r : Nat → Nat × FFlags) (s t : State) : Prop :=
  let w := if m = 0 then 32 else 16; let l := if m = 0 then 4 else 8
  t = { s with slots := t.slots, cores := t.cores } ∧ (∀ j, j ≠ s.cur → t.slot j = s.slot j) ∧ s.me.keepsRest t.me ∧ s.stepped 4 sc t ∧
  (∃ v mask, s.me.fComes rd v mask (s.cycle + lat) t.me) ∧
  (∀ j, j < l → lane w j (t.me.fEnd rd) = if on j then (r j).1 % 2 ^ w else lane w j (s.me.fEnd rd)) ∧
  s.gains (raised l r on) t

/-- R212, R213, R222 to R225: lane arithmetic on registers. -/
def Obligations.LaneArithmetic : Prop :=
  ∀ (s : State) (rd ra rb rc : Reg) (m k : BitVec 2) (sc : BitVec 3), m.toNat < 3 → (∀ q ∈ [rd, ra, rb, rc], s.streamAt q = none) →
    let f := fmtOf m; let w := if m = 0 then 32 else 16; let mode := s.me.rmode.toNat; let half := 2 ^ (w - 1)
    let a := fun j => lane w j (s.f ra); let b := fun j => lane w j (s.f rb); let c := fun j => lane w j (s.f rc)
    s.gives (.fadd rd ra rb m sc) (s.lanesTo rd m 4 sc.toNat s.laneOn fun j => f.fadd mode (a j) (b j)) ∧
    s.gives (.fsub rd ra rb m sc) (s.lanesTo rd m 4 sc.toNat s.laneOn fun j => f.fsub mode (a j) (b j)) ∧
    s.gives (.fmul rd ra rb m sc) (s.lanesTo rd m 4 sc.toNat s.laneOn fun j => f.fmul mode (a j) (b j)) ∧
    s.gives (.fmin rd ra rb m sc) (s.lanesTo rd m 2 sc.toNat s.laneOn fun j => f.pick false (a j) (b j)) ∧
    s.gives (.fmax rd ra rb m sc) (s.lanesTo rd m 2 sc.toNat s.laneOn fun j => f.pick true (a j) (b j)) ∧
    s.gives (.fabs rd ra m sc) (s.lanesTo rd m 2 sc.toNat s.laneOn fun j => (a j % half, 0)) ∧
    s.gives (.fneg rd ra m sc) (s.lanesTo rd m 2 sc.toNat s.laneOn fun j => (if a j < half then a j + half else a j - half, 0)) ∧
    s.gives (.fmv rd ra m sc) (s.lanesTo rd m 2 sc.toNat s.laneOn fun j => (a j, 0)) ∧
    s.gives (.fsel rd ra rb m sc) (s.lanesTo rd m 2 sc.toNat (fun _ => true) fun j => (if s.laneOn j then a j else b j, 0)) ∧
    s.gives (.fma rd ra rb rc m k) (s.lanesTo rd m 4 k.toNat s.laneOn fun j => f.ffma mode false (a j) (b j) (c j)) ∧
    s.gives (.fnma rd ra rb rc m k) (s.lanesTo rd m 4 k.toNat s.laneOn fun j => f.ffma mode true (a j) (b j) (c j)) ∧
    s.gives (.frcp rd ra m sc) (s.lanesTo rd m 8 sc.toNat s.laneOn fun j => f.frcp mode (a j)) ∧
    s.gives (.frsq rd ra m sc) (s.lanesTo rd m 8 sc.toNat s.laneOn fun j => f.frsq mode (a j)) ∧
    s.gives (.fexp2 rd ra m sc) (s.lanesTo rd m 8 sc.toNat s.laneOn fun j => f.fexp2 mode (a j)) ∧
    s.gives (.flog2 rd ra m sc) (s.lanesTo rd m 8 sc.toNat s.laneOn fun j => f.flog2 mode (a j))

/-- R226 to R229: reductions, compares, conversions and lane moves on registers. -/
def Obligations.ReductionsComparesConversions : Prop :=
  ∀ (s : State) (rd ra rb : Reg) (p : PReg) (m k : BitVec 2) (h : BitVec 1) (u : BitVec 5) (r : BitVec 3) (d : BitVec 4) (sc : BitVec 3),
    m.toNat < 3 → (∀ q ∈ [rd, ra, rb], s.streamAt q = none) →
    let f := fmtOf m; let w := if m = 0 then 32 else 16; let l := if m = 0 then 4 else 8; let mode := s.me.rmode.toNat
    let a := fun j => lane w j (s.f ra); let b := fun j => lane w j (s.f rb); let all := fun (_ : Nat) => true
    let node := fun (op : Nat → Nat → Nat × FFlags) (x y : Nat × FFlags) => ((op x.1 y.1).1, x.2 ||| y.2 ||| (op x.1 y.1).2)
    let root := fun (op : Nat → Nat → Nat × FFlags) (e : Nat) =>
      let x := fun j => (if s.laneOn j then a j else e, (0 : FFlags)); let q := fun i => node op (node op (x i) (x (i + 1))) (node op (x (i + 2)) (x (i + 3)))
      if m = 0 then q 0 else node op (q 0) (q 4)
    let rooted := fun (x : Nat × FFlags) (j : Nat) => if j = 0 then x else (0, (0 : FFlags))
    let neg := 2 ^ (w - 1); let bytes := fun c => if c = 0 ∨ c = 8 then 32 else if c = 1 ∨ c = 2 ∨ c = 9 then 16 else 8
    s.gives (.fsum rd ra m sc) (s.lanesTo rd m 6 sc.toNat all (rooted (root (f.fadd mode) neg))) ∧
    s.gives (.fmaxr rd ra m sc) (s.lanesTo rd m 6 sc.toNat all (rooted (root (f.pick true) (neg + f.infBits)))) ∧
    (s.gives (.fcmp p k ra rb m sc) fun t => t = { s with slots := t.slots, cores := t.cores } ∧ (∀ j, j ≠ s.cur → t.slot j = s.slot j) ∧ s.me.keepsRest t.me ∧
      s.stepped 4 sc.toNat t ∧ s.gains (raised l (fun j => (0, (f.cmp k.toNat (a j) (b j)).2)) s.laneOn) t ∧
      ∃ v : Byte, (∀ j, j < 8 → v.getLsbD j = (decide (j < l) && s.laneOn j && (f.cmp k.toNat (a j) (b j)).1)) ∧ s.me.pComes p v (s.cycle + 2) t.me) ∧
    (let ws := bytes u.toNat; let wd := bytes d.toNat; let n := min (128 / ws) (128 / wd); let md := if r = 5 then mode else r.toNat
     let src := fun j => if u = 4 then lane ws j (s.f ra) % 64 else lane ws j (s.f ra)
     d.toNat < 10 → u.toNat < 10 → d ≠ 6 → d ≠ 7 → u ≠ 6 → u ≠ 7 → s.gives (.fcvt rd ra u r d sc) fun t =>
      t = { s with slots := t.slots, cores := t.cores } ∧ (∀ j, j ≠ s.cur → t.slot j = s.slot j) ∧ s.me.keepsRest t.me ∧ s.stepped 4 sc.toNat t ∧
      (∃ v mask, s.me.fComes rd v mask (s.cycle + 3) t.me) ∧ (∀ j, j < 128 / wd → lane wd j (t.me.fEnd rd) = if j < n then (convert u.toNat d.toNat md (src j)).1 % 2 ^ wd else 0) ∧
      s.gains (raised n (fun j => convert u.toNat d.toNat md (src j)) all) t) ∧
    (m ≠ 0 → s.gives (.fpack rd ra rb m sc) (s.lanesTo rd m 2 sc.toNat s.laneOn fun j =>
      convert 0 m.toNat mode (if j < 4 then lane 32 j (s.f ra) else lane 32 (j - 4) (s.f rb)))) ∧
    (m ≠ 0 → s.gives (.funpack rd ra h m sc) (s.lanesTo rd 0 2 sc.toNat s.laneOn fun j => convert m.toNat 0 mode (lane 16 (4 * h.toNat + j) (s.f ra)))) ∧
    s.gives (.fshuf rd ra rb m sc) (s.lanesTo rd m 2 sc.toNat all fun j =>
      let i := (s.x rb).toNat / 2 ^ (4 * j) % 16
      (if i < l then a i else 0, 0))

/-- R222: fdiv and fsqrt. -/
def Obligations.DivideAndRootPark : Prop :=
  (∀ (s : State) (rd ra rb : Reg) (m : BitVec 2) (sc : BitVec 3), m.toNat < 3 → (∀ q ∈ [rd, ra, rb], s.streamAt q = none) →
    let f := fmtOf m; let w := if m = 0 then 32 else 16; let l := if m = 0 then 4 else 8; let mode := s.me.rmode.toNat
    let parks := fun (r : Nat → Nat × FFlags) (t : State) => t = { s with slots := t.slots, work := s.work ++ [⟨.fdivFsqrtResult, arg1 s.cur⟩] } ∧
      (∀ j, j ≠ s.cur → t.slot j = s.slot j) ∧ ∃ v mask : QWord, (∀ j, j < l → s.laneOn j = true → lane w j v = (r j).1 % 2 ^ w) ∧
        (∀ j, j < l → lane w j mask = if s.laneOn j then 2 ^ w - 1 else 0) ∧
        s.me.parksAs (.fdivide rd.toNat v mask (raised l r s.laneOn) (s.cycle + 23) sc.toNat) (s.cycle + 1 + sc.toNat) t.me
    s.gives (.fdiv rd ra rb m sc) (parks fun j => f.fdiv mode (lane w j (s.f ra)) (lane w j (s.f rb))) ∧
    s.gives (.fsqrt rd ra m sc) (parks fun j => f.fsqrt mode (lane w j (s.f ra)))) ∧
  (∀ (s : State) (rd ra rb : Reg) (m : BitVec 2) (sc : BitVec 3), s.me.fences = [] →
    let parks := fun (t : State) => t = { s with slots := t.slots, work := s.work ++ [⟨.fdivFsqrtResult, arg1 s.cur⟩] } ∧
      (∀ j, j ≠ s.cur → t.slot j = s.slot j) ∧ s.me.parksAs (.fpush 0 [] 0 (s.cycle + 23) sc.toNat) (s.cycle + 1 + sc.toNat) t.me
    (s.streamIllegal m (some rd) [ra, rb] = false → s.vecLen (fmtOf m) [rd, ra, rb] = 0 → s.gives (.fdiv rd ra rb m sc) parks) ∧
    (s.streamIllegal m (some rd) [ra] = false → s.vecLen (fmtOf m) [rd, ra] = 0 → s.gives (.fsqrt rd ra m sc) parks)) ∧
  (∀ (s : State) (n : Nat) (l : List PushTo) (fl : BitVec 5) (due sc : Nat), let k := s.arg.a; let sl := s.slot k
    sl.park = .fpush n l fl due sc →
    ((s.cycle ≤ due ∨ s.pushRoom k l = false) → exec .fdivFsqrtResult s = .next { s with deferred := true }) ∧
    (due < s.cycle → (∀ p ∈ l, ∃ q o, p.2.2 = .inl (.sram q o)) → s.gives .fdivFsqrtResult fun t => t.mem = s.mem ∧ (∀ j, j ≠ k → t.slot j = s.slot j) ∧
      (t.slot k).stores.length = sl.stores.length + (l.map fun p => (storeParts (p.2.2.elim id fun _ => .sram 0 0) (.bytes (toBytes n p.2.1))).length).sum ∧
      (t.slot k).x = sl.x ∧ (t.slot k).f = sl.f ∧ (t.slot k).p = sl.p ∧ (t.slot k).park = .run ∧ (t.slot k).ready = due + 1 + sc ∧ (t.slot k).retired = sl.retired + 1 ∧
      (t.slot k).pc = (sl.seq 4).pc ∧ (t.core (coreOf k)).flags = (s.core (coreOf k)).flags ||| fl)) ∧
  (∀ (s : State) (rd : Reg) (v mask : QWord) (fl : BitVec 5) (due sc : Nat), let k := s.arg.a; let sl := s.slot k
    sl.park = .fdivide rd.toNat v mask fl due sc →
    (s.cycle ≤ due → exec .fdivFsqrtResult s = .next { s with deferred := true }) ∧
    (due < s.cycle → s.gives .fdivFsqrtResult fun t => t = { s with slots := t.slots, cores := t.cores } ∧ (∀ j, j ≠ k → t.slot j = s.slot j) ∧
      (t.slot k).getF rd = (sl.getF rd &&& ~~~mask) ||| (v &&& mask) ∧ (∀ q, q ≠ rd → (t.slot k).getF q = sl.getF q) ∧ (t.slot k).x = sl.x ∧ (t.slot k).p = sl.p ∧
      (t.slot k).park = .run ∧ (t.slot k).ready = due + 1 + sc ∧ (t.slot k).retired = sl.retired + 1 ∧ (t.slot k).pc = (sl.seq 4).pc ∧
      (t.core (coreOf k)).flags = (s.core (coreOf k)).flags ||| fl))

/-- m / 2^k rounded to an integer by R200's mode, `sticky` standing for a non-zero part below m. -/
def roundsTo (mode : Nat) (neg sticky : Bool) (m k : Nat) : Nat :=
  let r := m % 2 ^ k; let some' := decide (r ≠ 0) || sticky
  m / 2 ^ k + if (mode = 0 ∧ (2 ^ k < 2 * r ∨ 2 * r = 2 ^ k ∧ (sticky = true ∨ m / 2 ^ k % 2 = 1))) ∨ (mode = 2 ∧ neg = true ∧ some' = true) ∨
    (mode = 3 ∧ neg = false ∧ some' = true) ∨ (mode = 4 ∧ 2 ^ k ≤ 2 * r) then 1 else 0

/-- R198 to R200, R222 to R225: the special operands, and rounding. -/
def Obligations.ArithmeticCorners : Prop :=
  (∀ (f : Fmt) (mode a b : Nat), let x := f.decode a; let y := f.decode b
    (x.isNan = true ∨ y.isNan = true → let r := (f.nanBits, if x.isSNan || y.isSNan then fNV else 0)
      f.fadd mode a b = r ∧ f.fsub mode a b = r ∧ f.fmul mode a b = r ∧ f.fdiv mode a b = r) ∧
    (x.isNan = true → let r := (f.nanBits, if x.isSNan then fNV else 0)
      f.fsqrt mode a = r ∧ f.frcp mode a = r ∧ f.frsq mode a = r ∧ f.fexp2 mode a = r ∧ f.flog2 mode a = r) ∧
    (∀ neg c, let z := f.decode c; let clash := (∃ n k, x = .zero n ∧ y = .inf k) ∨ ∃ n k, x = .inf n ∧ y = .zero k
      (clash → f.ffma mode neg a b c = (f.nanBits, fNV)) ∧
      (¬ clash → (x.isNan = true ∨ y.isNan = true ∨ z.isNan = true) → f.ffma mode neg a b c = (f.nanBits, if x.isSNan || y.isSNan || z.isSNan then fNV else 0))) ∧
    (∀ n q e n' q' e', x = .fin n q e → y = .fin n' q' e' → let lo := min e e'
      let val := fun (g : Bool) (p : Nat) (d : Int) => (if g then -1 else 1) * ((p * 2 ^ (d - lo).toNat : Nat) : Int)
      let sum := fun (i : Int) => if i = 0 then (f.signed (decide (mode = 2)) 0, (0 : FFlags)) else f.round mode (decide (i < 0)) i.natAbs lo false
      f.fmul mode a b = f.round mode (n != n') (q * q') (e + e') false ∧ f.fadd mode a b = sum (val n q e + val n' q' e') ∧
      f.fsub mode a b = sum (val n q e - val n' q' e') ∧ f.fdiv mode a b = f.round mode (n != n') (q * 2 ^ 96 / q') (e - e' - 96) (decide (q * 2 ^ 96 % q' ≠ 0)) ∧
      ∀ c neg n3 q3 e3, f.decode c = .fin n3 q3 e3 → let lo := min (e + e') e3
        let val := fun (g : Bool) (p : Nat) (d : Int) => (if g then -1 else 1) * ((p * 2 ^ (d - lo).toNat : Nat) : Int)
        let i := val ((n != n') != neg) (q * q') (e + e') + val n3 q3 e3
        f.ffma mode neg a b c = if i = 0 then (f.signed (decide (mode = 2)) 0, 0) else f.round mode (decide (i < 0)) i.natAbs lo false) ∧
    (∀ n k, x = .inf n → y = .inf k → f.fdiv mode a b = (f.nanBits, fNV) ∧ f.fadd mode a b = (if n = k then (f.signed n f.infBits, 0) else (f.nanBits, fNV)) ∧
      f.fsub mode a b = (if n = k then (f.nanBits, fNV) else (f.signed n f.infBits, 0))) ∧
    (∀ n k, x = .zero n → y = .inf k → f.fmul mode a b = (f.nanBits, fNV) ∧ f.fmul mode b a = (f.nanBits, fNV)) ∧
    (∀ n k, x = .zero n → y = .zero k → f.fdiv mode a b = (f.nanBits, fNV) ∧ (n ≠ k → f.pick false a b = (f.signed true 0, 0) ∧ f.pick true a b = (f.signed false 0, 0))) ∧
    (∀ n k q e, x = .fin n q e → y = .zero k → f.fdiv mode a b = (f.signed (n != k) f.infBits, fDZ)) ∧
    (∀ q e, x = .fin true q e → f.fsqrt mode a = (f.nanBits, fNV) ∧ f.frsq mode a = (f.nanBits, fNV) ∧ f.flog2 mode a = (f.nanBits, fNV)) ∧
    (∀ n, x = .zero n → f.fsqrt mode a = (f.signed n 0, 0) ∧ f.frcp mode a = (f.signed n f.infBits, fDZ) ∧ f.frsq mode a = (f.signed n f.infBits, fDZ) ∧ f.flog2 mode a = (f.signed true f.infBits, fDZ)) ∧
    (x = .nan false → ∀ n q e, y = .fin n q e → f.pick true a b = (b, 0) ∧ f.pick false a b = (b, 0) ∧ f.pick true b a = (b, 0))) ∧
  (∀ (f : Fmt) (mode b n) (q : Nat) (e : Int), b < 2 ^ f.width → f.decode b = .fin n q e → f.round mode n q e false = (b, 0)) ∧
  (∀ (f : Fmt) (mode m l : Nat) (neg sticky : Bool) (e : Int), mode < 5 → 0 < l → 2 ^ (l - 1) ≤ m → m < 2 ^ l → let top := e + l - 1; let p := f.frac + 1
    let k := l - p; let u := roundsTo mode neg sticky m k; let sg := fun (h : Nat) => f.signed neg h
    let inexact := m % 2 ^ k ≠ 0 ∨ sticky = true
    (f.bias < top → f.round mode neg m e sticky =
      (sg (if mode = 1 ∨ mode = 2 ∧ neg = false ∨ mode = 3 ∧ neg = true then f.infBits - 1 else f.infBits), fOF ||| fNX)) ∧
    (p < l → f.emin ≤ top → top ≤ f.bias → let bits := (top + f.bias).toNat * 2 ^ f.frac + u - 2 ^ f.frac
      f.round mode neg m e sticky = (sg bits, if bits = f.infBits then fOF ||| fNX else if inexact then fNX else 0)) ∧
    (p < l → top < f.emin → top = f.emin - 1 → u = 2 ^ p → f.round mode neg m e sticky = (sg (2 ^ f.frac), if inexact then fNX else 0)) ∧
    (p < l → top < f.emin → ¬ (top = f.emin - 1 ∧ u = 2 ^ p) → let d := (f.emin - f.frac - e).toNat
      f.round mode neg m e sticky = if f = .bf16 then (sg 0, fUF ||| fNX)
        else (sg (roundsTo mode neg sticky m d), if m % 2 ^ d ≠ 0 ∨ sticky = true then fUF ||| fNX else 0)))

/-- R220 and R221: sscfg (log entry 39 for COUNT 0), ssen and ssdis. -/
def streamInstructionsRules : Prop :=
  ∀ (s : State) (rd ra rb : Reg) (f m : BitVec 2) (sc : BitVec 3), let a := s.x ra; let c := s.x rb
    let count := c.toNat % 2 ^ 32; let write := c.getLsbD 32; let acc := c.getLsbD 33; let start := a.toNat % 4096; let e := if m = 0 then 4 else 2
    let fits := count = 0 ∨ (if a.getLsbD 63 then a.toNat / 2 ^ 32 % 2 ^ 31 = 0 ∧ a.toNat / 2 ^ 20 % 16 = 0 ∧ a.toNat % 2 ^ 20 + count * e ≤ 2 ^ 20 else a.toNat + count * e ≤ 2 ^ 48)
    let st := look Stream.off s.me.streams f.toNat
    let only := fun (x : Stream) (t : State) => s.onlySlot s.cur t ∧ s.stepped 4 sc.toNat t ∧ t.me.x = s.me.x ∧ t.me.f = s.me.f ∧ t.me.p = s.me.p ∧
      look Stream.off t.me.streams f.toNat = x ∧ ∀ i, i ≠ f.toNat → look Stream.off t.me.streams i = look Stream.off s.me.streams i
    (acc = true → (write = true ∨ m ≠ 0 ∨ isSup s.myCore = true) → s.gives (.sscfg f ra rb m sc) (s.trapsWith cPROTECTION c)) ∧
    (acc = true → write = false → m = 0 → isSup s.myCore = false →
      (4096 < start + count → s.gives (.sscfg f ra rb m sc) (s.trapsWith cPROTECTION c)) ∧
      (start + count ≤ 4096 → s.gives (.sscfg f ra rb m sc) (only ⟨true, false, m, 0, count, false, true, start, 0⟩))) ∧
    (acc = false → m.toNat < 3 → (a.toNat % e ≠ 0 → s.gives (.sscfg f ra rb m sc) (s.trapsWith cMISALIGN a)) ∧
      (a.toNat % e = 0 → ¬ fits → s.gives (.sscfg f ra rb m sc) (s.trapsWith cPROTECTION a)) ∧
      (a.toNat % e = 0 → fits → s.gives (.sscfg f ra rb m sc) (only ⟨true, false, m, a, count, write, false, 0, 0⟩))) ∧
    (st.configured = false → s.gives (.ssen f sc) (s.trapsWith cILLEGAL (wordOf (.ssen f sc))) ∧ s.gives (.ssdis rd f sc) (s.trapsWith cILLEGAL (wordOf (.ssdis rd f sc)))) ∧
    (st.configured = true → s.gives (.ssen f sc) (only { st with enabled := true }) ∧
      s.gives (.ssdis rd f sc) fun t => only { st with enabled := false } t ∧ ∃ l : Slot, l.streams = t.me.streams ∧
        l = { s.me with streams := l.streams } ∧ l.xComes rd (BitVec.ofNat 64 (st.count - st.pos)) (s.cycle + 2) t.me)

/-- The lane-wise instructions of R222, R224 and R225 that do not park, with their sources, latency, stall count and the function of a lane. -/
def Sys2Proof.Machine.State.laneOps (s : State) (rd ra rb rc : Reg) (m k : BitVec 2) (sc : BitVec 3) :
    List (Sys2Proof.Instr × List Reg × Nat × Nat × (Nat → Nat → Nat → Nat × FFlags)) :=
  let f := fmtOf m; let mode := s.me.rmode.toNat; let half := 2 ^ ((if m = 0 then 32 else 16) - 1); let c := sc.toNat
  [(.fadd rd ra rb m sc, [ra, rb], 4, c, fun a b _ => f.fadd mode a b), (.fsub rd ra rb m sc, [ra, rb], 4, c, fun a b _ => f.fsub mode a b),
   (.fmul rd ra rb m sc, [ra, rb], 4, c, fun a b _ => f.fmul mode a b), (.fmin rd ra rb m sc, [ra, rb], 2, c, fun a b _ => f.pick false a b),
   (.fmax rd ra rb m sc, [ra, rb], 2, c, fun a b _ => f.pick true a b), (.fabs rd ra m sc, [ra], 2, c, fun a _ _ => (a % half, 0)),
   (.fneg rd ra m sc, [ra], 2, c, fun a _ _ => (if a < half then a + half else a - half, 0)), (.fmv rd ra m sc, [ra], 2, c, fun a _ _ => (a, 0)),
   (.fma rd ra rb rc m k, [ra, rb, rc], 4, k.toNat, fun a b d => f.ffma mode false a b d), (.fnma rd ra rb rc m k, [ra, rb, rc], 4, k.toNat, fun a b d => f.ffma mode true a b d),
   (.frcp rd ra m sc, [ra], 8, c, fun a _ _ => f.frcp mode a), (.frsq rd ra m sc, [ra], 8, c, fun a _ _ => f.frsq mode a),
   (.fexp2 rd ra m sc, [ra], 8, c, fun a _ _ => f.fexp2 mode a), (.flog2 rd ra m sc, [ra], 8, c, fun a _ _ => f.flog2 mode a)]

/-- The next `n` elements of read stream `st`, of `e` bytes each, are there to be popped, with values `v`: accumulator elements of an unpoisoned
visible bank, or scratchpad words that pass their checks, are not poisoned, and meet no store of the slot still to be performed. -/
def Sys2Proof.Machine.State.pops (st : Stream) (e n : Nat) (v : Nat → Nat) (s : State) : Prop :=
  let c := s.core s.myCore
  (st.acc = true → c.vpoison = false ∧ ∀ j, j < n → v j = (look 0 c.visible (st.start + (st.pos + j))).toNat) ∧
  (st.acc = false → ∀ j, j < n → ∃ k off, s.place (st.base + BitVec.ofNat 64 ((st.pos + j) * e)) e .load = (.ok (.sram k off), s) ∧
    s.poisonAt (sramKey k off) = false ∧ (∀ p ∈ s.me.stores, p.overlaps (.sram k off) e = false) ∧ v j = ofBytes (s.bytesAt (sramKey k off) e))

/-- Lane `j` of operand `r` of an instruction of length `n`, where `v` are the values its stream gives: +0 from n on. -/
def Sys2Proof.Machine.State.operand (w n : Nat) (r : Reg) (v : Nat → Nat) (s : State) (j : Nat) : Nat :=
  if (s.streamAt r).isSome then (if j < n then v j else 0) else lane w j (s.f r)

/-- The streams that `regs` name have moved on by `n`, each once; the other streams stand as they did. -/
def Sys2Proof.Machine.State.movesStreams (regs : List Reg) (n : Nat) (s t : State) : Prop :=
  ∀ q : Reg, q.toNat < 4 → let st := look Stream.off s.me.streams q.toNat
    look Stream.off t.me.streams q.toNat = if q ∈ regs ∧ st.enabled = true then { st with pos := st.pos + n } else st

/-- R212 to R218: streams as operands. -/
def streamOperandsRules : Prop :=
  ∀ (s : State) (rd ra rb rc : Reg) (m k : BitVec 2) (sc : BitVec 3), m.toNat < 3 → s.me.fences = [] →
    let w := if m = 0 then 32 else 16; let l := if m = 0 then 4 else 8; let e := w / 8
    let len := fun (regs : List Reg) => ((regs.filterMap s.streamAt).map fun st => st.count - st.pos).foldl min l
    let wrong := fun (dst : List Reg) (srcs : List Reg) => (∃ r ∈ srcs, ∃ st, s.streamAt r = some st ∧ (st.fmt ≠ m ∨ st.write = true)) ∨
      ∃ r ∈ dst, ∃ st, s.streamAt r = some st ∧ (st.fmt ≠ m ∨ st.write = false)
    let ill := fun (i : Sys2Proof.Instr) => s.gives i (s.trapsWith cILLEGAL (wordOf i))
    (wrong [rd] [ra, rb] → ill (.fdiv rd ra rb m sc) ∧ ill (.fsel rd ra rb m sc)) ∧
    (wrong [rd] [ra] → ill (.fsqrt rd ra m sc) ∧ ill (.fsum rd ra m sc) ∧ ill (.fmaxr rd ra m sc)) ∧
    (∀ p c, (wrong [] [ra, rb] → ill (.fcmp p c ra rb m sc)) ∧ (¬ wrong [] [ra, rb] → len [ra, rb] = 0 → s.gives (.fcmp p c ra rb m sc) (s.stepsOnly 4 sc.toNat))) ∧
    (¬ wrong [rd] [ra, rb] → len [rd, ra, rb] = 0 → s.gives (.fsel rd ra rb m sc) (s.stepsOnly 4 sc.toNat)) ∧
    (¬ wrong [rd] [ra] → len [rd, ra] = 0 → s.gives (.fsum rd ra m sc) (s.stepsOnly 4 sc.toNat) ∧ s.gives (.fmaxr rd ra m sc) (s.stepsOnly 4 sc.toNat)) ∧
    ((s.streamAt rd).isSome ∨ (s.streamAt ra).isSome → ∀ (u : BitVec 5) (r : BitVec 3) (d : BitVec 4) (h : BitVec 1),
      ill (.fcvt rd ra u r d sc) ∧ ill (.fpack rd ra rb m sc) ∧ ill (.funpack rd ra h m sc) ∧ ill (.fshuf rd ra rb m sc)) ∧
    (∀ st (z : BitVec 2) (imm : BitVec 10), s.streamAt rd = some st → (st.write = false → ill (.fld rd ra z imm sc)) ∧ (st.write = true → ill (.fst rd ra z imm sc))) ∧
    (∀ x ∈ s.laneOps rd ra rb rc m k sc, let i := x.1; let srcs := x.2.1; let lat := x.2.2.1; let c := x.2.2.2.1; let op := x.2.2.2.2; let n := len (rd :: srcs)
      (wrong [rd] srcs → ill i) ∧
      (¬ wrong [rd] srcs → n = 0 → s.gives i (s.stepsOnly 4 c)) ∧
      (∀ va vb vc : Nat → Nat, let on := fun j => decide (j < n) && s.laneOn j
        let r := fun j => op (s.operand w n ra va j) (s.operand w n rb vb j) (s.operand w n rc vc j)
        ¬ wrong [rd] srcs → n ≠ 0 →
        (∀ q ∈ [(ra, va), (rb, vb), (rc, vc)], q.1 ∈ srcs → ∀ st, s.streamAt q.1 = some st → s.pops st e n q.2) →
        (s.streamAt rd = none → s.gives i fun t => t = { s with slots := t.slots, cores := t.cores } ∧ (∀ j, j ≠ s.cur → t.slot j = s.slot j) ∧
          s.me.keepsRest { t.me with streams := s.me.streams } ∧ s.stepped 4 c t ∧ (∃ v mask, s.me.fComes rd v mask (s.cycle + lat) t.me) ∧
          (∀ j, j < l → lane w j (t.me.fEnd rd) = if on j then (r j).1 % 2 ^ w else lane w j (s.me.fEnd rd)) ∧ s.gains (raised l r on) t ∧ s.movesStreams srcs n t) ∧
        (∀ st (home : Nat → Home), s.streamAt rd = some st →
          (∀ j, j < n → on j = true → (∃ q o, home j = .sram q o) ∧ s.place (st.base + BitVec.ofNat 64 ((st.pos + j) * e)) e .store = (.ok (home j), s)) →
          s.gives i fun t => t = { s with slots := t.slots, cores := t.cores, work := t.work } ∧ (∀ j, j ≠ s.cur → t.slot j = s.slot j) ∧
            s.me.keepsRest { t.me with streams := s.me.streams, stores := s.me.stores } ∧ s.me.keepsRegs t.me ∧ s.stepped 4 c t ∧
            t.me.stores = s.me.stores ++ ((List.range n).filter on).map (fun j => ⟨home j, .bytes (toBytes e (r j).1)⟩) ∧
            s.gains (raised l r on) t ∧ s.movesStreams (rd :: srcs) n t)) ∧
      (∀ st v j cause entry u, let ea := st.base + BitVec.ofNat 64 ((st.pos + j) * e)
        srcs.head? = some ra → ¬ wrong [rd] srcs → j < n → s.streamAt ra = some st → st.acc = false → s.pops st e j v → cause ≠ 0 → cause ≠ cPOISON →
        s.place ea e .load = (.bad cause entry, u) → s.gives i fun t => u.trapped s.cur cause ea s.me.pc entry t ∧ t.me.streams = s.me.streams ∧ t.me.stores = s.me.stores) ∧
      (∀ st j cause entry u, let ea := st.base + BitVec.ofNat 64 ((st.pos + j) * e)
        (∀ q ∈ srcs, s.streamAt q = none) → ¬ wrong [rd] srcs → j < n → s.laneOn j = true → s.streamAt rd = some st → cause ≠ 0 → cause ≠ cPOISON →
        (∀ i, i < j → s.laneOn i = true → ∃ q o, s.place (st.base + BitVec.ofNat 64 ((st.pos + i) * e)) e .store = (.ok (.sram q o), s)) →
        s.place ea e .store = (.bad cause entry, u) → s.gives i fun t => u.trapped s.cur cause ea s.me.pc entry t ∧ t.me.streams = s.me.streams ∧ t.me.stores = s.me.stores)) ∧
    (∀ (st : Stream) (z : BitVec 2) (imm : BitVec 10) (h : Home), let b := 2 ^ (z.toNat + 1); let ea := s.x ra + imm.signExtend 64 * BitVec.ofNat 64 b
      let n := len [rd]; let data := BitVec.ofNat 128 (ofBytes (s.bytesAt (s.localKey h) b))
      s.streamAt rd = some st → st.fmt = m →
      (∀ home : Nat → Home, st.write = true → s.loadsLocally ea b h →
        (∀ j, j < n → (∃ q o, home j = .sram q o) ∧ s.place (st.base + BitVec.ofNat 64 ((st.pos + j) * e)) e .store = (.ok (home j), s)) →
        s.gives (.fld rd ra z imm sc) fun t => s.onlySlotPosts s.cur t ∧ s.me.keepsRegs t.me ∧ s.stepped 4 sc.toNat t ∧
          t.me.stores = s.me.stores ++ (List.range n).map (fun j => ⟨home j, .bytes (toBytes e (lane w j data))⟩) ∧ s.movesStreams [rd] n t) ∧
      (∀ v q o, st.write = false → s.pops st e n v → s.place ea b .store = (.ok (.sram q o), s) →
        s.gives (.fst rd ra z imm sc) fun t => s.onlySlotPosts s.cur t ∧ s.me.keepsRegs t.me ∧ s.stepped 4 sc.toNat t ∧ s.movesStreams [rd] n t ∧
          ∃ d : List Byte, d.length = b ∧ (∀ (j : Nat) (hj : j < d.length), d[j].toNat = (if j / e < n then v (j / e) / 256 ^ (j % e) % 256 else 0)) ∧
            t.me.stores = s.me.stores ++ if b = 16 then [⟨.sram q o, .bytes (d.take 8)⟩, ⟨.sram q (o + 8), .bytes (d.drop 8)⟩] else [⟨.sram q o, .bytes d⟩]))

/-- The stream instructions configure and switch a stream (log entry 39), and lane instructions, fld and fst pop and push it (log entry 97) (R212, R213, R214, R215, R216, R217, R218, R220, R221). -/
def Obligations.Streams : Prop := streamInstructionsRules ∧ streamOperandsRules

/-! ## The matrix unit (R256 to R276) -/

/-- `t` differs from `s` in nothing but slots and rings of cluster `cl`, and there its rings are `r`. -/
def Sys2Proof.Machine.State.ringsAre (cl : Nat) (r : Nat → Ring) (s t : State) : Prop :=
  t = { s with slots := t.slots, clusters := t.clusters } ∧ (∀ j, j ≠ s.cur → t.slot j = s.slot j) ∧ (∀ k, k ≠ cl → t.cluster k = s.cluster k) ∧
  t.cluster cl = { s.cluster cl with rings := (t.cluster cl).rings } ∧ ∀ n, t.ring cl n = r n

/-- Command `m` has entered the queue of core `c`, the rings of its cluster are `r`, and the unit's step `e` stands out; nothing else but the slot
in hand has changed. -/
def Sys2Proof.Machine.State.enqueues (c : Nat) (m : MatCmd) (e : Sys2Proof.Instr) (a : Nat) (r : Nat → Ring) (s t : State) : Prop :=
  ∃ u, s.ringsAre (clusterOf c) r u ∧ t = { u with cores := t.cores, work := s.work ++ [⟨e, arg1 a⟩] } ∧ (∀ d, d ≠ c → t.core d = s.core d) ∧
  t.core c = { s.core c with mq := (s.core c).mq ++ [m] }

/-- The instruction in hand has retired, its registers as they were. -/
def Sys2Proof.Machine.State.retired4 (sc : BitVec 3) (s t : State) : Prop := s.me.keepsRest t.me ∧ s.me.keepsRegs t.me ∧ s.stepped 4 sc.toNat t

/-- The instruction in hand has been accepted, to retire later: the slot goes on, and RETIRED does not count it yet (R261). -/
def Sys2Proof.Machine.State.accepted4 (sc : BitVec 3) (s t : State) : Prop :=
  s.me.keepsRest t.me ∧ s.me.keepsRegs t.me ∧ t.me.pc = (s.me.seq 4).pc ∧ t.me.lcount = (s.me.seq 4).lcount ∧ t.me.retired = s.me.retired ∧
  t.me.ready = s.cycle + 1 + sc.toNat

/-- Ring `b` is ring `a` after core `k` claimed a stage. -/
def Sys2Proof.Machine.Ring.claims (k : Nat) (a b : Ring) : Prop :=
  b = { a with claim := b.claim } ∧ ∀ j, b.claimOf j = if j = k then a.claimOf j + 1 else a.claimOf j

/-- Ring `b` is scale ring `a` after one more step of core `k` claimed it: the stage advances after 2^GROUP steps (R273). -/
def Sys2Proof.Machine.Ring.claimsScale (k : Nat) (a b : Ring) : Prop :=
  let n := look 0 a.qcnt k + 1; let full := n = 2 ^ a.group.toNat
  b = { a with claim := b.claim, qcnt := b.qcnt } ∧ (∀ j, look 0 b.qcnt j = if j ≠ k then look 0 a.qcnt j else if full then 0 else n) ∧
  ∀ j, b.claimOf j = if j = k ∧ full then a.claimOf j + 1 else a.claimOf j

/-- R256 to R261, R271 to R275: the matrix instructions at issue. -/
def ringsAndMatrixCommandsRules : Prop :=
  ∀ (s : State) (n a b q : BitVec 4) (ra rb : Reg) (m : BitVec 2) (sc : BitVec 3),
    let c := s.myCore; let cl := clusterOf c; let k := c % 8; let mq := (s.core c).mq; let A := s.ring cl a.toNat; let B := s.ring cl b.toNat; let Q := s.ring cl q.toNat
    let all := [.mring n ra sc, .mringScale n ra rb sc, .mma a b m sc, .mmaq q a b m sc, .mzero sc, .mswap sc, .mepi ra sc, .mseed ra sc]
    (isSup c = true → ∀ i ∈ all, s.gives i (s.trapsWith cILLEGAL (wordOf i))) ∧
    (isSup c = false →
      (let v := s.x ra; let r := s.ring cl n.toNat; let mine := r.owner = k ∧ r.idle = true;
        ∀ i ∈ [Sys2Proof.Instr.mring n ra sc, .mringScale n ra rb sc], let scale := i = .mringScale n ra rb sc
          (v = 0 → (r.defined = false → s.gives i (s.stepsOnly 4 sc.toNat)) ∧ (r.defined = true → ¬ mine → s.gives i (s.trapsWith cRING (n.setWidth 64))) ∧
            (r.defined = true → mine → s.gives i fun t => s.ringsAre cl (fun j => if j = n.toNat then { r with defined := false } else s.ring cl j) t ∧ s.retired4 sc t)) ∧
          (v.toNat % 64 ≠ 0 → s.gives i (s.trapsWith cMISALIGN v)) ∧
          (∀ e u, v ≠ 0 → v.toNat % 64 = 0 → s.imageWords 8 v = (.error e, u) → exec i s = .next (u.bad e)) ∧
          (∀ w l u, v ≠ 0 → v.toNat % 64 = 0 → s.imageWords 8 v = (.ok (w :: l), u) → u.cur = s.cur → u.cycle = s.cycle → u.slots = s.slots → u.clusters = s.clusters →
            let first := w.toNat % 32; let nb := w.toNat / 2 ^ 5 % 64; let fmt := w.toNat / 2 ^ 11 % 16; let cm := w.toNat / 2 ^ 15 % 256
            let good := w.toNat < 2 ^ 23 ∧ (∀ x ∈ l, x = 0) ∧ nb ≠ 0 ∧ first + nb ≤ 32 ∧ cm ≠ 0 ∧ fmt ∈ [1, 3, 4, 6, 7] ∧ (scale → fmt = 1)
            let held := (∃ j, j < nb ∧ ((look Bank.reset (s.cluster cl).banks (first + j)).role ≠ 2 ∨ (look Bank.reset (s.cluster cl).banks (first + j)).fmt.toNat ≠ fmt)) ∨
              ∃ e ∈ (s.cluster cl).rings, e.1 ≠ n.toNat ∧ e.2.defined = true ∧ first < e.2.first + e.2.nbanks ∧ e.2.first < first + nb
            (¬ good → s.gives i (u.trapsWith cPROTECTION v)) ∧
            (good → r.defined = true ∧ ¬ mine ∨ held → s.gives i (u.trapsWith cRING (n.setWidth 64))) ∧
            (good → (r.defined = true → mine) → ¬ held → s.gives i fun t => s.me.parksAs (.give 0 0 sc.toNat) (s.cycle + 1 + sc.toNat) t.me ∧ ∃ (d : Ring) (v : State),
              u.ringsAre cl (fun j => if j = n.toNat then d else s.ring cl j) v ∧ t = { v with work := u.work ++ [⟨.slotWake, arg1 s.cur⟩] } ∧
              d.defined = true ∧ (d.scale = true ↔ scale) ∧ d.group.toNat = (if scale then (s.x rb).toNat % 4 else 0) ∧ d.owner = k ∧ d.first = first ∧ d.nbanks = nb ∧
              d.fmt.toNat = fmt ∧ d.cmask.toNat = cm ∧ d.resv = 0 ∧ d.head = 0 ∧ d.done = [] ∧ ∀ j, d.claimOf j = 0 ∧ d.popOf j = 0 ∧ look 0 d.qcnt j = 0 ∧ look 0 d.qret j = 0))) ∧
      (let fmt := if m = 0 then 1 else if m = 1 then 3 else 4
        let serves := fun (r : Ring) (f : Nat) => r.defined = true ∧ r.scale = false ∧ r.cmask.getLsbD k = true ∧ r.fmt.toNat = f
        let ready := fun (r : Ring) => 0 < ctrDiff (if r.moved = s.cycle + 1 then r.was else r.head) (r.claimOf k)
        (let i := Sys2Proof.Instr.mma a b m sc;
          (¬ serves A fmt → s.gives i (s.trapsWith cRING (a.setWidth 64))) ∧
          (serves A fmt → ¬ serves B fmt → s.gives i (s.trapsWith cRING (b.setWidth 64))) ∧
          (serves A fmt → serves B fmt → (a = b → s.gives i (s.trapsWith cRING (a.setWidth 64))) ∧
            (a ≠ b → (¬ ready A → s.gives i (s.waitsOn (.tile a.toNat (A.claimOf k)) s)) ∧
              (ready A → ¬ ready B → s.gives i (s.waitsOn (.tile b.toNat (B.claimOf k)) s)) ∧
              (ready A → ready B → 2 ≤ mq.length → s.gives i (s.waitsOn .matQueue s)) ∧
              (ready A → ready B → mq.length < 2 → s.gives i fun t => s.accepted4 sc t ∧ ∃ r, A.claims k (r a.toNat) ∧ B.claims k (r b.toNat) ∧
                (∀ j, j ≠ a.toNat → j ≠ b.toNat → r j = s.ring cl j) ∧
                s.enqueues c (.mma a.toNat b.toNat (A.claimOf k) (B.claimOf k) s.me.rowmask s.cur s.me.actNo s.me.pc) .matrixGrant cl r t)))) ∧
        (let i := Sys2Proof.Instr.mmaq q a b m sc; let okQ := Q.defined = true ∧ Q.scale = true ∧ Q.cmask.getLsbD k = true; let bf := if m = 0 then 6 else 7;
          (¬ serves A 1 → s.gives i (s.trapsWith cRING (a.setWidth 64))) ∧
          (serves A 1 → ¬ serves B bf → s.gives i (s.trapsWith cRING (b.setWidth 64))) ∧
          (serves A 1 → serves B bf → ¬ okQ → s.gives i (s.trapsWith cRING (q.setWidth 64))) ∧
          (serves A 1 → serves B bf → okQ → a ≠ b ∧ a ≠ q ∧ b ≠ q ∧
            (¬ ready A → s.gives i (s.waitsOn (.tile a.toNat (A.claimOf k)) s)) ∧
            (ready A → ¬ ready B → s.gives i (s.waitsOn (.tile b.toNat (B.claimOf k)) s)) ∧
            (ready A → ready B → ¬ ready Q → s.gives i (s.waitsOn (.tile q.toNat (Q.claimOf k)) s)) ∧
            (ready A → ready B → ready Q → 2 ≤ mq.length → s.gives i (s.waitsOn .matQueue s)) ∧
            (ready A → ready B → ready Q → mq.length < 2 → s.gives i fun t => s.accepted4 sc t ∧ ∃ r, A.claims k (r a.toNat) ∧ B.claims k (r b.toNat) ∧ Q.claimsScale k (r q.toNat) ∧
              (∀ j, j ≠ a.toNat → j ≠ b.toNat → j ≠ q.toNat → r j = s.ring cl j) ∧
              s.enqueues c (.mmaq a.toNat b.toNat q.toNat (A.claimOf k) (B.claimOf k) (Q.claimOf k) s.me.rowmask s.cur s.me.actNo s.me.pc) .matrixGrant cl r t)))) ∧
      (let v := s.x ra; let goes := fun (e : MatCmd) => s.enqueues c e .matrixQueueCommandPerform c (s.ring cl);
        (8 < v.toNat % 16 → s.gives (.mepi ra sc) (s.trapsWith cPROTECTION v)) ∧
        (2 ≤ mq.length → (∀ i ∈ [Sys2Proof.Instr.mzero sc, .mswap sc, .mseed ra sc], s.gives i (s.waitsOn .matQueue s)) ∧
          (v.toNat % 16 ≤ 8 → s.gives (.mepi ra sc) (s.waitsOn .matQueue s))) ∧
        (mq.length < 2 →
          (s.gives (.mzero sc) fun t => goes .mzero t ∧ s.retired4 sc t) ∧ (s.gives (.mseed ra sc) fun t => goes (.mseed v) t ∧ s.retired4 sc t) ∧
          (v.toNat % 16 ≤ 8 → s.gives (.mepi ra sc) fun t => goes (.mepi v) t ∧ s.retired4 sc t) ∧
          (s.gives (.mswap sc) fun t => goes (.mswap s.cur s.me.actNo s.me.rowmask s.me.temp) t ∧ s.me.parksAs (.swap sc.toNat) (s.cycle + 1 + sc.toNat) t.me))))

/-- Bits `n` and up, `k` of them, of a word. -/
def bitsAt (w : Word) (n k : Nat) : Nat := w.toNat / 2 ^ n % 2 ^ k

/-- R276: mtopk and mstat. -/
def topkAndMatrixStateRules : Prop :=
  (∀ (e : Epi) (v : Word), let l := look [] e.lists (bitsAt v 0 6); (l.length ≤ bitsAt v 8 3 → e.topk v = 0) ∧
    ∀ p, l[bitsAt v 8 3]? = some p → bitsAt (e.topk v) 0 32 = p.1.toNat ∧ bitsAt (e.topk v) 32 16 = p.2.toNat ∧ bitsAt (e.topk v) 48 16 = 1) ∧
  (∀ (s : State) (c i n rd sc : Nat) (v : Word) (ends : Bool), let k := c * 8 + i; let t := s.topkStep c ends; let e := (s.core c).epi; let left := if ends then n - 1 else n
    i < 8 → (s.slot k).park = .topk v n rd sc →
    (left ≠ 0 ∨ e.running ≠ none → t.slot k = { s.slot k with park := .topk v left rd sc }) ∧
    (left = 0 → e.running = none → e.poison = false → t.slot k = { s.slot k with park := .give rd (e.topk v) sc } ∧ (⟨.slotWake, arg1 k⟩ : Event) ∈ t.work) ∧
    (left = 0 → e.running = none → e.poison = true → (t.slot k).tcause = BitVec.ofNat 8 cPOISON ∧ (t.slot k).taddr = v ∧ (t.slot k).tpc = (s.slot k).pc)) ∧
  ∀ (s : State) (rd ra : Reg) (sc : BitVec 3), let c := s.myCore; let k := s.core c; let v := s.x ra; let e := k.epi
    let busy := ∃ st, (s.cluster (clusterOf c)).array = some st ∧ st.core = c
    let ahead := fun (n : Nat) => (busy → n = k.mq.length + 1) ∧ (¬ busy → n = k.mq.length); let idle := ahead 0 ∧ e.running = none
    (isSup c = true → ∀ i ∈ [Sys2Proof.Instr.mtopk rd ra sc, .mstat rd ra sc], s.gives i (s.trapsWith cILLEGAL (wordOf i))) ∧
    (isSup c = false →
      (∀ n, ¬ idle → ahead n → s.gives (.mtopk rd ra sc) fun t => s.onlySlot s.cur t ∧ s.me.parksAs (.topk v n rd.toNat sc.toNat) (s.cycle + 1 + sc.toNat) t.me) ∧ (idle → e.poison = true → s.gives (.mtopk rd ra sc) (s.trapsWith cPOISON v)) ∧
      (idle → e.poison = false → s.gives (.mtopk rd ra sc) fun t => s.onlySlotPosts s.cur t ∧ t.work = s.work ++ [⟨.slotWake, arg1 s.cur⟩] ∧
        s.me.parksAs (.give rd.toNat (e.topk v) sc.toNat) (s.cycle + 1 + sc.toNat) t.me) ∧
      (v.getLsbD 4 = false → k.mq.length ≤ 2 → ∃ w : Word, bitsAt w 0 2 = k.mq.length ∧ (w.getLsbD 2 = true ↔ busy) ∧ w.getLsbD 3 = k.wpoison ∧ w.getLsbD 4 = k.vpoison ∧
        w.getLsbD 5 = e.running.isSome ∧ bitsAt w 6 4 = e.k.toNat ∧ w.getLsbD 10 = e.noise ∧ bitsAt w 11 5 = 0 ∧ bitsAt w 16 16 = e.colnext.toNat ∧
        bitsAt w 32 16 = e.limit.toNat ∧ bitsAt w 48 16 = 0 ∧ s.gives (.mstat rd ra sc) (s.sendsX rd w 2 4 sc.toNat)) ∧
      (v.getLsbD 4 = true → let r := s.ring (clusterOf c) (bitsAt v 0 4); let free := (r.stages : Int) - ctrDiff r.resv r.tail
        (r.defined = false → s.gives (.mstat rd ra sc) (s.sendsX rd 0 2 4 sc.toNat)) ∧
        (r.defined = true → r.owner < 8 → 0 ≤ free → free ≤ 8192 → ∃ w : Word, w.getLsbD 0 = true ∧ w.getLsbD 1 = r.scale ∧ bitsAt w 2 3 = r.owner ∧ bitsAt w 5 8 = r.cmask.toNat ∧
          (bitsAt w 13 14 : Int) = free ∧ bitsAt w 27 5 = 0 ∧ bitsAt w 32 16 = r.head.toNat % 2 ^ 16 ∧ bitsAt w 48 16 = r.tail.toNat % 2 ^ 16 ∧
          s.gives (.mstat rd ra sc) (s.sendsX rd w 2 4 sc.toNat))))

/-- The matrix unit's instructions define rings, queue commands, and read pairs and state (R256, R258, R260, R261, R267, R271, R272, R273, R274, R275, R276). -/
def Obligations.MatrixInstructions : Prop := ringsAndMatrixCommandsRules ∧ topkAndMatrixStateRules

/-- Element `e` of a tile of format `fmt` whose bytes are `l`, as BF16 (R210, R237, R257). -/
def tileElem (fmt : Nat) (l : List Byte) (e : Nat) : Nat :=
  if fmt = 1 then (l.getD (2 * e) 0).toNat + 256 * (l.getD (2 * e + 1) 0).toNat else (convert fmt 1 mRNE (l.getD e 0).toNat).1

/-- `t` differs from `u` in nothing but core `c`, which is `k` there. -/
def Sys2Proof.Machine.State.coreIs (c : Nat) (k : Core) (u t : State) : Prop := t = { u with cores := t.cores } ∧ t.core c = k ∧ ∀ d, d ≠ c → t.core d = u.core d

/-- A 4-bit weight dequantised by a BF16 scale (R206, R207): FP4 or INT4, in halves, times the scale, rounded once. -/
def dequantRule (fp4 : Bool) (q s : Nat) : Nat × FFlags :=
  let neg := decide (8 ≤ q)
  let h := if fp4 then [0, 1, 2, 3, 4, 6, 8, 12].getD (q % 8) 0 else if neg then 32 - 2 * q else 2 * q
  match Fmt.bf16.decode s with
  | .nan signalling => (0x7FC0, if signalling || decide (h = 0) then fNV else 0)
  | .inf n => if h = 0 then (0x7FC0, fNV) else (if n != neg then 0xFF80 else 0x7F80, 0)
  | .zero n => (if n != neg then 0x8000 else 0, 0)
  | .fin n m e => if h = 0 then (if n != neg then 0x8000 else 0, 0) else Fmt.bf16.round mRNE (n != neg) (h * m) (e - 1) false

/-- A row's generator after `n` steps (R268). -/
def genAt (x : Word) : Nat → Word
  | 0 => x
  | n + 1 => let y := genAt x n; let y := y ^^^ (y <<< 13); let y := y ^^^ (y >>> 7); y ^^^ (y <<< 17)

/-- The pair of the epilogue's column `j` of row `i` (R269): the element, with noise g(U) times TEMP added in one rounding, and its column number. -/
def Sys2Proof.Machine.Core.pairAt (x : Core) (temp : BitVec 16) (i j : Nat) : BitVec 32 × BitVec 16 :=
  let raw := look 0 x.visible (64 * i + j)
  let n := FV.mul (Fmt.bf16.decode (gumbel ((genAt (x.epi.gen i) (j + 1)).toNat / 2 ^ 52))) (Fmt.bf16.decode temp.toNat)
  (if x.epi.noise then BitVec.ofNat 32 (Fmt.f32.fin mRNE (n.bind fun n => FV.add mRNE (Fmt.f32.decode raw.toNat) n)).1 else raw, x.epi.colnext + BitVec.ofNat 16 j)

/-- Pair `a` ranks above pair `b` (R268): the greater score, -0 equal to +0, and of equal scores the lesser column. -/
def outranks (a b : BitVec 32 × BitVec 16) : Prop :=
  let x := Fmt.f32.decode a.1.toNat; let y := Fmt.f32.decode b.1.toNat
  y.lt x = true ∨ (x.lt y = false ∧ a.2.toNat < b.2.toNat)

/-- R264 to R275: the steps of the matrix unit. -/
def Obligations.MatrixUnitSteps : Prop :=
  ∀ s : State, let a := s.arg.a
    (let cl := a; let k := s.cluster cl; let corner := cornerOf (sectorOf cl)
      let ready := fun (i : Nat) (m : MatCmd) (n : Nat) => ∃ l, (s.core (cl * 8 + i)).mq = m :: l ∧
        ((∃ ra rb sa sb w p q pc, m = .mma ra rb sa sb w p q pc ∧ n = if (s.ring cl ra).fmt = 1 then 16 else 8) ∨ ∃ ra rb rq sa sb sq w p q pc, m = .mmaq ra rb rq sa sb sq w p q pc ∧ n = 16)
      let none' := fun (i : Nat) => ∀ m n, ¬ ready i m n
      let others := fun (c : Nat) (t : State) => ∀ d, d ≠ c → t.core d = { s.core d with govSince := if clusterOf d = cl then 0 else (s.core d).govSince }
      let grants := fun (i : Nat) (m : MatCmd) (n credit : Nat) (t : State) => t = { s with cores := t.cores, clusters := t.clusters, work := t.work } ∧
        (let x := s.core (cl * 8 + i); t.core (cl * 8 + i) = { x with mq := x.mq.drop 1, govSince := 0, govstall := (t.core (cl * 8 + i)).govstall } ∧
          (x.govSince = 0 → (t.core (cl * 8 + i)).govstall = x.govstall)) ∧ others (cl * 8 + i) t ∧ (t.cluster cl).array = some ⟨cl * 8 + i, m, s.cycle + n⟩ ∧
        (t.cluster cl).ptr = i ∧ (t.cluster cl).credit + 1 = credit ∧ (t.cluster cl).steps = k.steps + 1 ∧ (t.cluster corner).granted = (s.cluster corner).granted + 1 ∧
        (∀ d, d ≠ cl → d ≠ corner → t.cluster d = s.cluster d) ∧ t.work = s.work ++ [⟨.matrixStepRetire, arg1 cl⟩, ⟨.matrixQueueCommandPerform, arg1 (cl * 8 + i)⟩]
      let refused := fun (c : Nat) (t : State) => let x := s.core c
        t = { s with deferred := true, cores := t.cores, clusters := t.clusters } ∧ others c t ∧ (∀ d, d ≠ corner → t.cluster d = s.cluster d) ∧
        t.cluster corner = { s.cluster corner with govAt := (t.cluster corner).govAt, govSet := (t.cluster corner).govSet, govLast := (t.cluster corner).govLast } ∧
        t.core c = { x with govSince := s.cycle + 1, govstall := if x.govstall.toNat = 2 ^ 32 - 1 then x.govstall else x.govstall + 1 }
      (k.array ≠ none ∨ (∀ i, i < 8 → none' i) → k.ptr < 8 → exec .matrixGrant s = .next s) ∧
      (∀ i m n, cl < 256 → k.array = none → k.ptr < 8 → i < 8 → ready i m n →
        ((s.cluster corner).budget = 0 → (k.ptr = i → 0 < k.credit → s.gives .matrixGrant (grants i m n k.credit)) ∧
          ((k.credit = 0 ∨ none' k.ptr) → (∀ j, j < (i + 7 - k.ptr) % 8 → none' ((k.ptr + 1 + j) % 8)) → s.gives .matrixGrant (grants i m n (Nat.max 1 (look 1 k.weights i).toNat)))) ∧
        (k.ptr = i → 0 < k.credit → (s.cluster corner).budget ≠ 0 → let c := cl * 8 + i; let x := s.core c; let g := s.cluster corner
          let before := fun (d : Nat) => if g.govLast < cl then decide (g.govLast < d) && decide (d < cl) else decide (g.govLast < d) || decide (d < cl)
          let ahead := ((sectorClusters (sectorOf cl)).filter fun d => s.requests d && before d).length
          (x.govSince = 0 ∨ x.govSince = s.cycle) →
            (g.budget.toNat ≤ g.granted → (g.govAt = s.cycle + 1 → g.govSet.contains cl = false) → s.gives .matrixGrant (refused c)) ∧
            (g.govAt ≠ s.cycle + 1 → (ahead < g.budget.toNat - g.granted → s.gives .matrixGrant (grants i m n k.credit)) ∧
              (g.budget.toNat - g.granted ≤ ahead → s.gives .matrixGrant (refused c)))))) ∧
    (let cl := a; let k := s.cluster cl
      (k.array = none → exec .matrixStepRetire s = .next s) ∧
      (∀ st, k.array = some st → (s.cycle < st.due → exec .matrixStepRetire s = .next { s with deferred := true }) ∧
        (∀ ra rb sa sb w p q pc, st.cmd = .mma ra rb sa sb w p q pc → clusterOf st.core = cl → ra ≠ rb → st.due ≤ s.cycle →
          let A := s.ring cl ra; let B := s.ring cl rb; let c := st.core; let x := s.core c; let pops := fun (r d : Ring) => d = { r with pop := d.pop } ∧ ∀ j, d.popOf j = if j = c % 8 then r.popOf j + 1 else r.popOf j
          let ends := fun (u t : State) => t = { u.topkStep c true with work := (u.topkStep c true).work ++ [⟨.matrixGrant, arg1 cl⟩, ⟨.matrixQueueCommandPerform, arg1 c⟩] } ∧
            u.slot p = { s.slot p with retired := (s.slot p).retired + 1 } ∧ (∀ j, j ≠ p → u.slot j = s.slot j) ∧ (∀ d, d ≠ c → u.core d = s.core d) ∧
            (∀ d, d ≠ cl → u.cluster d = s.cluster d) ∧ u.cluster cl = { k with array := none, rings := (u.cluster cl).rings } ∧ pops A (u.ring cl ra) ∧ pops B (u.ring cl rb) ∧
            ∀ j, j ≠ ra → j ≠ rb → u.ring cl j = s.ring cl j
          let done := fun (y : Core) (l : List (Ring × BitVec 32)) (u t : State) => ends u t ∧ u = { s with slots := u.slots, cores := u.cores, clusters := u.clusters } ∧
            u.core c = { y with working := (u.core c).working, wpoison := (u.core c).wpoison } ∧ ((u.core c).wpoison = true ↔ x.wpoison = true ∨
              w ≠ 0 ∧ ∃ r ∈ l, ∃ j, j < r.1.stageBytes / 64 ∧ s.poisonAt (sramKey cl (r.1.base r.2 + 64 * j)) = true)
          (s.arg.b = 0 → A.scale = false → B.scale = false → A.fmt = B.fmt → A.fmt.toNat ∈ [1, 3, 4] →
            (∀ r ∈ [(A, sa), (B, sb)], ∀ j, j < r.1.stageBytes → (look Bank.reset k.banks ((r.1.base r.2 + j) / 32768)).role = 2) →
            let ea := tileElem A.fmt.toNat (s.bytesAt (sramKey cl (A.base sa)) A.stageBytes); let eb := tileElem A.fmt.toNat (s.bytesAt (sramKey cl (B.base sb)) B.stageBytes)
            let dot := fun (i j : Nat) => dotStep (look 0 x.working (64 * i + j)).toNat ((List.range 32).map fun h => (ea (32 * i + h), eb (64 * h + j)))
            s.gives .matrixStepRetire fun t => ∃ u, (∃ fl : FFlags, done { x with mflags := x.mflags ||| fl } [(A, sa), (B, sb)] u t ∧
                ∀ h, fl.getLsbD h = true ↔ ∃ i j, i < 64 ∧ j < 64 ∧ w.getLsbD i = true ∧ (dot i j).2.getLsbD h = true) ∧
              (∀ i j, i < 64 → j < 64 → look 0 (u.core c).working (64 * i + j) = if w.getLsbD i then BitVec.ofNat 32 (dot i j).1 else look 0 x.working (64 * i + j))) ∧
          (s.arg.b = 1 → s.gives .matrixStepRetire fun t => t = { s with clusters := t.clusters, work := s.work ++ [⟨.matrixStepRetire, arg1 cl⟩] } ∧
            (t.cluster cl).array = some { st with due := s.cycle + if A.fmt = 1 then 16 else 8 } ∧ ∀ j, t.ring cl j = s.ring cl j) ∧
          (s.arg.b = 2 → ((s.slot p).active = false ∨ (s.slot p).actNo ≠ q) → s.gives .matrixStepRetire fun t => ∃ u, ends u t ∧ u.core c = { x with wpoison := true } ∧ u.mem = s.mem ∧
            ∃ r, u.records = s.records ++ [r] ∧ r.cause = 15 ∧ r.w1.toNat = (k.steps - 1) % 2 ^ 64 ∧ r.w2 = pc.setWidth 64)) ∧
        (∀ ra rb rq sa sb sq w p q pc, st.cmd = .mmaq ra rb rq sa sb sq w p q pc → clusterOf st.core = cl → ra ≠ rb → rq ≠ ra → rq ≠ rb → st.due ≤ s.cycle → s.arg.b = 0 →
          let A := s.ring cl ra; let B := s.ring cl rb; let Q := s.ring cl rq; let c := st.core; let x := s.core c; let l := [(A, sa), (B, sb), (Q, sq)]
          let pops := fun (r d : Ring) => d = { r with pop := d.pop } ∧ ∀ j, d.popOf j = if j = c % 8 then r.popOf j + 1 else r.popOf j
          A.scale = false → B.scale = false → Q.scale = true → A.fmt = 1 → (B.fmt = 6 ∨ B.fmt = 7) →
          (∀ r ∈ l, ∀ j, j < r.1.stageBytes → (look Bank.reset k.banks ((r.1.base r.2 + j) / 32768)).role = 2) →
          let ea := tileElem 1 (s.bytesAt (sramKey cl (A.base sa)) 4096); let qs := tileElem 1 (s.bytesAt (sramKey cl (Q.base sq)) 128)
          let four := fun (e : Nat) => ((s.bytesAt (sramKey cl (B.base sb)) 1024).getD (e / 2) 0).toNat / 16 ^ (e % 2) % 16
          let eb := fun (e : Nat) => dequantRule (decide (B.fmt = 7)) (four e) (qs (e % 64))
          let dot := fun (i j : Nat) => dotStep (look 0 x.working (64 * i + j)).toNat ((List.range 32).map fun h => (ea (32 * i + h), (eb (64 * h + j)).1))
          s.gives .matrixStepRetire fun t => ∃ u : State, t = { u.topkStep c true with work := (u.topkStep c true).work ++ [⟨.matrixGrant, arg1 cl⟩, ⟨.matrixQueueCommandPerform, arg1 c⟩] } ∧
            u = { s with slots := u.slots, cores := u.cores, clusters := u.clusters } ∧ u.slot p = { s.slot p with retired := (s.slot p).retired + 1 } ∧
            (∀ j, j ≠ p → u.slot j = s.slot j) ∧ (∀ d, d ≠ c → u.core d = s.core d) ∧ (∀ d, d ≠ cl → u.cluster d = s.cluster d) ∧
            u.cluster cl = { k with array := none, rings := (u.cluster cl).rings } ∧ pops A (u.ring cl ra) ∧ pops B (u.ring cl rb) ∧
            (let d := u.ring cl rq; let n := look 0 Q.qret (c % 8) + 1; let full := n = 2 ^ Q.group.toNat
             d = { Q with pop := d.pop, qret := d.qret } ∧ (∀ j, look 0 d.qret j = if j ≠ c % 8 then look 0 Q.qret j else if full then 0 else n) ∧
             ∀ j, d.popOf j = if j = c % 8 ∧ full then Q.popOf j + 1 else Q.popOf j) ∧ (∀ j, j ≠ ra → j ≠ rb → j ≠ rq → u.ring cl j = s.ring cl j) ∧
            (∃ fl : FFlags, u.core c = { x with mflags := x.mflags ||| fl, working := (u.core c).working, wpoison := (u.core c).wpoison } ∧
              ∀ h, fl.getLsbD h = true ↔ w ≠ 0 ∧ ((∃ e, e < 2048 ∧ (eb e).2.getLsbD h = true) ∨ ∃ i j, i < 64 ∧ j < 64 ∧ w.getLsbD i = true ∧ (dot i j).2.getLsbD h = true)) ∧
            ((u.core c).wpoison = true ↔ x.wpoison = true ∨ w ≠ 0 ∧ ∃ r ∈ l, ∃ j, j < r.1.stageBytes / 64 ∧ s.poisonAt (sramKey cl (r.1.base r.2 + 64 * j)) = true) ∧
            ∀ i j, i < 64 → j < 64 → look 0 (u.core c).working (64 * i + j) = if w.getLsbD i then BitVec.ofNat 32 (dot i j).1 else look 0 x.working (64 * i + j)))) ∧
    (let c := a; let x := s.core c; let l := x.mq.drop 1; let e := x.epi
      let goes := fun (P : State → Prop) (t : State) => ∃ u, P u ∧ t = { u.topkStep c true with work := (u.topkStep c true).work ++ [⟨.matrixQueueCommandPerform, arg1 c⟩, ⟨.matrixGrant, arg1 (clusterOf c)⟩] }
      let done := fun (y : Core) (u : State) => s.coreIs c { y with mq := l } u
      let inArray := ∃ st, (s.cluster (clusterOf c)).array = some st ∧ st.core = c
      (x.mq = [] ∨ inArray → exec .matrixQueueCommandPerform s = .next s) ∧
      (¬ inArray → (x.mq.head? = some .mzero → s.gives .matrixQueueCommandPerform (goes (done { x with working := [], wpoison := false }))) ∧
        (∀ m, x.mq.head? = some m → (∃ v, m = .mepi v ∨ m = .mseed v) ∨ (∃ k n w h, m = .mswap k n w h) → e.running ≠ none → exec .matrixQueueCommandPerform s = .next { s with deferred := true }) ∧
        (∀ v, e.running = none → x.mq.head? = some (.mepi v) → s.gives .matrixQueueCommandPerform (goes fun u => done { x with epi := (u.core c).epi } u ∧ let f := (u.core c).epi
          f = { e with k := v.setWidth 4, noise := v.getLsbD 4, lists := f.lists, poison := e.poison && !v.getLsbD 5,
                       colnext := if v.getLsbD 6 then (v >>> 16).setWidth 16 else e.colnext, limit := (v >>> 32).setWidth 16 } ∧
          ∀ i, look [] f.lists i = if v.getLsbD 5 then [] else (look [] e.lists i).take (v.toNat % 16))) ∧
        (∀ v, e.running = none → x.mq.head? = some (.mseed v) → s.gives .matrixQueueCommandPerform (goes fun u => done { x with epi := { e with gens := (u.core c).epi.gens } } u ∧
          ∀ i, i < 64 → let g := v + BitVec.ofNat 64 (i * 0x9E3779B97F4A7C15)
            find? (u.core c).epi.gens i = some (if g = 0 then 1 else g))) ∧
        (∀ p n w h d, e.running = none → x.mq.head? = some (.mswap p n w h) → (s.slot p).park = .swap d → (s.slot p).actNo = n → s.gives .matrixQueueCommandPerform (goes fun u => u = { s with slots := u.slots, cores := u.cores, work := u.work } ∧
          u.core c = { x with working := x.visible, visible := x.working, wpoison := x.vpoison, vpoison := x.wpoison, mq := l, epi := (u.core c).epi } ∧ (∀ d, d ≠ c → u.core d = s.core d) ∧
          (e.k = 0 → (u.core c).epi = { e with colnext := e.colnext + 64 }) ∧
          (e.k ≠ 0 → (u.core c).epi = { e with running := some (w, h), due := s.cycle + 64, poison := e.poison || x.wpoison }) ∧
          (∀ j, j ≠ p → u.slot j = s.slot j) ∧ (s.slot p).keepsRegs (u.slot p) ∧ (u.slot p).park = .run ∧ (u.slot p).retired = (s.slot p).retired + 1 ∧ (u.slot p).pc = ((s.slot p).seq 4).pc))) ∧
      (e.running = none → exec .epilogueComplete s = .next s) ∧
      (∀ w h, e.running = some (w, h) → (s.cycle < e.due → exec .epilogueComplete s = .next { s with deferred := true }) ∧
        (e.due ≤ s.cycle → s.gives .epilogueComplete fun t => ∃ u, t = { u.topkStep c false with work := (u.topkStep c false).work ++ [⟨.matrixQueueCommandPerform, arg1 c⟩] } ∧
          s.coreIs c { x with epi := (u.core c).epi } u ∧ let f := (u.core c).epi
          f = { e with colnext := e.colnext + 64, gens := f.gens, lists := f.lists, running := none } ∧ (e.noise = false → f.gens = e.gens) ∧
          ∀ i, i < 64 → (w.getLsbD i = false → look [] f.lists i = look [] e.lists i ∧ find? f.gens i = find? e.gens i) ∧
            (w.getLsbD i = true → ((look [] e.lists i).length ≤ e.k.toNat → (look [] f.lists i).length ≤ e.k.toNat) ∧
              (e.noise = true → find? f.gens i = some (genAt (e.gen i) 64)) ∧
              (let old := look [] e.lists i; let new := look [] f.lists i; let pair := x.pairAt h i
               let cand := fun (p : BitVec 32 × BitVec 16) => p ∈ old ∨ ∃ j, j < 64 ∧ p = pair j ∧ (e.limit = 0 ∨ p.2.toNat < e.limit.toNat) ∧ (Fmt.f32.decode p.1.toNat).isNan = false
               (∀ p ∈ new, cand p) ∧
               (old.Pairwise (fun a b => ¬ outranks b a) → (∀ p ∈ old, (Fmt.f32.decode p.1.toNat).isNan = false) → old.length ≤ e.k.toNat →
                 new.Pairwise (fun a b => ¬ outranks b a) ∧ ∀ p, cand p → p ∉ new → new.length = e.k.toNat ∧ ∀ q ∈ new, ¬ outranks p q)))))) ∧
    s.gives .governorWindowEnd fun t => t = { s with clusters := t.clusters } ∧ (∀ i, i < 16 → (t.cluster (cornerOf i)) = { s.cluster (cornerOf i) with granted := 0 }) ∧
      ∀ d, (∀ i, i < 16 → d ≠ cornerOf i) → t.cluster d = s.cluster d

/-! ## Meridian (R280 to R297) -/

/-- The instruction retires with the slot's assignment shadow `h`, and changes nothing else. -/
def Sys2Proof.Machine.State.shadows (h : MerShadow) (sc : BitVec 3) (s t : State) : Prop :=
  s.onlySlot s.cur t ∧ s.stepped 4 sc.toNat t ∧ t.me = { s.me with mshadow := h, pc := t.me.pc, lcount := t.me.lcount, retired := t.me.retired, ready := t.me.ready, waited := false }

/-- `t` differs from `u` in nothing but sector `n`, which is `x` there. -/
def Sys2Proof.Machine.State.sectorIs (n : Nat) (x : Sector) (u t : State) : Prop := t = { u with sectors := t.sectors } ∧ t.sector n = x ∧ ∀ d, d ≠ n → t.sector d = u.sector d

/-- R280 to R289: the assignment shadow, mer.go and the take. -/
def Obligations.AssignmentShadowAndTake : Prop :=
  (∀ (s : State) (rd ra rb : Reg) (sc : BitVec 3), let a := s.x ra; let b := s.x rb; let h := s.me.mshadow; let sec := slotSector s.cur
    let rows := bitsAt b 0 10; let cols := bitsAt b 16 9; let sizes := 1 ≤ rows ∧ rows ≤ 512 ∧ 1 ≤ cols ∧ cols ≤ 256
    (isSup s.myCore = true → ∀ i ∈ [.merLoadTile ra rb sc, .merLoadCand ra rb sc, .merCap ra sc, .merCapAll ra sc, .merCfg ra rb sc, .merGo rd sc, .merStat rd sc, .merOut ra rb sc,
      .merBias rd ra sc, .merBiasAdd rd ra sc, .merBiasCopy rd ra sc, .merSnap rd ra sc, .merSnapBias rd ra sc], s.gives i (s.trapsWith cILLEGAL (wordOf i))) ∧
    (isSup s.myCore = false →
      (a.toNat % 4 ≠ 0 → s.gives (.merLoadTile ra rb sc) (s.trapsWith cMISALIGN a)) ∧
      (let st := bitsAt b 32 24; let good := bitsAt b 10 6 = 0 ∧ bitsAt b 25 7 = 0 ∧ bitsAt b 56 8 = 0 ∧ sizes ∧ st % 4 = 0 ∧ (st = 0 ∨ 4 * cols ≤ st);
        a.toNat % 4 = 0 → (¬ good → s.gives (.merLoadTile ra rb sc) (s.trapsWith cPROTECTION b)) ∧ (good → s.gives (.merLoadTile ra rb sc) (s.shadows
          { h with loaded := true, smode := false, src := a, rows := BitVec.ofNat 10 rows, cols := BitVec.ofNat 9 cols, stride := BitVec.ofNat 24 (if st = 0 then 4 * cols else st) } sc))) ∧
      (a.toNat % 8 ≠ 0 → s.gives (.merLoadCand ra rb sc) (s.trapsWith cMISALIGN a)) ∧
      (let good := bitsAt b 10 6 = 0 ∧ bitsAt b 25 39 = 0 ∧ sizes;
        a.toNat % 8 = 0 → (¬ good → s.gives (.merLoadCand ra rb sc) (s.trapsWith cPROTECTION b)) ∧ (good → s.gives (.merLoadCand ra rb sc) (s.shadows
          { h with loaded := true, smode := true, src := a, rows := BitVec.ofNat 10 rows, cols := BitVec.ofNat 9 cols } sc))) ∧
      s.gives (.merCap ra sc) (if a.toNat % 2 = 0 then s.shadows { h with capmode := 1, capaddr := a } sc else s.trapsWith cMISALIGN a) ∧
      s.gives (.merCapAll ra sc) (if a.toNat ≤ 512 then s.shadows { h with capmode := 2, capall := a.setWidth 10 } sc else s.trapsWith cPROTECTION a) ∧
      (let eps := bitsAt b 0 32; let finite := fun (x : Nat) => x % 2 ^ 31 < 0x7F800000
        let okA := bitsAt a 27 37 = 0 ∧ 1 ≤ bitsAt a 0 13 ∧ bitsAt a 0 13 ≤ 4096 ∧ 1 ≤ bitsAt a 13 3 ∧ bitsAt a 13 3 ≤ 4 ∧ bitsAt a 16 2 ≠ 3
        let okB := finite eps ∧ 0 < eps ∧ eps < 2 ^ 31 ∧ finite (bitsAt b 32 32);
        (¬ okA → s.gives (.merCfg ra rb sc) (s.trapsWith cPROTECTION a)) ∧ (okA → ¬ okB → s.gives (.merCfg ra rb sc) (s.trapsWith cPROTECTION b)) ∧
        (okA → okB → s.gives (.merCfg ra rb sc) (s.shadows { h with cfg := a.setWidth 27, eps := BitVec.ofNat 32 eps, floor := (b >>> 32).setWidth 32, configured := true } sc))) ∧
      (¬ (h.loaded = true ∧ h.configured = true ∧ h.capmode ≠ 0) → s.gives (.merGo rd sc) (s.trapsWith cPROTECTION 0)) ∧
      (h.loaded = true → h.configured = true → h.capmode ≠ 0 → s.me.fences = [] → s.gives (.merGo rd sc) fun t => t = { s with slots := t.slots, sectors := t.sectors, work := s.work ++ [⟨.auctionTake, arg1 sec⟩] } ∧
        (∀ j, j ≠ s.cur → t.slot j = s.slot j) ∧ (∀ d, d ≠ sec → t.sector d = s.sector d) ∧
        t.me = { s.me.flush with park := .merGo rd.toNat sc.toNat, ready := s.cycle + 1 + sc.toNat, auction := none, merfault := 0, waiting := true } ∧
        t.sector sec = { s.sector sec with order := (t.sector sec).order, buffers := (t.sector sec).buffers } ∧ (∃ l, (t.sector sec).order = l ++ [s.cur] ∧ ∀ j, j ∈ l ↔ j ∈ (s.sector sec).order ∧ j ≠ s.cur) ∧
        ∀ x, x ∈ (t.sector sec).buffers ↔ (x ∈ (s.sector sec).buffers ∧ x.slot ≠ s.cur) ∨ ∃ y ∈ (s.sector sec).buffers, y.slot = s.cur ∧ y.stopped = false ∧ x = { y with abandon := true }))) ∧
  (∀ s : State, let n := s.arg.a; let se := s.sector n
    (se.frozen = true ∨ se.current ≠ none ∨ (se.resume = [] ∧ se.order = []) → exec .auctionTake s = .next s) ∧
    (se.frozen = false → se.current = none →
      (∀ i l, se.resume = i :: l → s.gives .auctionTake ({ s with work := s.work ++ [⟨.auctionRound, arg1 n⟩] : State }.sectorIs n { se with resume := l, current := some i })) ∧
      (∀ k l, se.resume = [] → se.order = k :: l → 4 ≤ (se.buffers.filter fun x => !x.abandon).length → exec .auctionTake s = .next { s with deferred := true }) ∧
      (∀ k l rd d, se.resume = [] → se.order = k :: l → (se.buffers.filter fun x => !x.abandon).length < 4 → slotSector k = n → (s.slot k).park = .merGo rd d → let h := (s.slot k).mshadow; let c := coreOf k
        let owns := s.biasPart n ≠ 0 ∧ s.biasPart n = s.corePart c; let at' := fun (v : State) => v = { s with slots := v.slots, serial := s.serial + 1, sectors := v.sectors } ∧ v.sector n = { se with order := l } ∧ ∀ i, i ≠ n → v.sector i = s.sector i
        let capOf := fun (l : List Byte) (j : Nat) => Nat.min 512 (if h.capmode = 1 then ofBytes ((l.drop (2 * j)).take 2) % 1024 else h.capall.toNat)
        let head := if h.capmode = 1 then 2 * h.cols.toNat else 0; let row := if h.smode then 64 else 4 * h.cols.toNat
        (∀ bs fs, (∀ v, at' v → v.merPieces n c h.items = ((bs, fs), v)) → (∀ f ∈ fs, f.status = 3) → (fs ≠ [] → (s.slot k).merfault = 0) → s.gives .auctionTake fun t =>
          (fs = [] → t = { s with slots := t.slots, serial := t.serial, sectors := t.sectors, work := s.work ++ [⟨.auctionRound, arg1 n⟩] } ∧ (∀ j, j ≠ k → t.slot j = s.slot j) ∧
            (t.slot k).merfault = (s.slot k).merfault) ∧ (fs ≠ [] → (t.slot k).merfault = 3) ∧
          (t.slot k).auction = some t.serial ∧ (t.slot k).waiting = false ∧ (t.slot k).park = .run ∧ (t.slot k).retired = (s.slot k).retired + 1 ∧ (t.slot k).pc = ((s.slot k).seq 4).pc ∧
          (∀ q : Reg, (t.slot k).getX q = if q = 0 then 0 else if q = BitVec.ofNat 5 rd then (if owns then se.gen.setWidth 64 else 0) else (s.slot k).getX q) ∧
          ∃ x : Auction, x.id = t.serial ∧ x.slot = k ∧ x.part = s.corePart c ∧ x.sh = h ∧ x.gen = se.gen ∧ x.bias = (if owns ∧ h.useBias = true then se.bias else []) ∧ (∀ r, r < h.rows.toNat → look [] x.cands r = rowCands h ((List.range h.cols.toNat).map (capOf bs)) ((bs.drop (head + row * r)).take row)) ∧
            (∀ j, j < h.cols.toNat → look 0 x.caps j = capOf bs j) ∧ x.prices = [] ∧ x.held = [] ∧ x.rounds = 0 ∧ x.stopped = false ∧ x.ran = true ∧ (x.poison = true ↔ fs ≠ []) ∧ x.abandon = false ∧
            t.sector n = { se with order := l, buffers := se.buffers ++ [x], current := some t.serial } ∧ ∀ i, i ≠ n → t.sector i = s.sector i) ∧
        (∀ b f fs, (∀ v, at' v → v.merPieces n c h.items = ((b, f :: fs), v)) → f.status ≠ 3 → 0 < f.status → f.status < 256 → (s.slot k).merfault = 0 → s.gives .auctionTake fun t =>
          (t.sector n).current = none ∧ (t.sector n).order = l ∧ (t.slot k).merfault.toNat = f.status ∧ ((t.sector n).frozen = true ↔ ∃ g ∈ f :: fs, g.status = 4) ∧ ∃ x, (t.sector n).buffers = se.buffers ++ [x] ∧ x.slot = k ∧ x.ran = false ∧ x.stopped = true ∧ x.sh = h)))) ∧
  (∀ (h : MerShadow) (caps : List Nat) (l : List Byte), let word := fun (i k : Nat) => ofBytes ((l.drop (k * i)).take k); let finite := fun (v : BitVec 32) => v.toNat % 2 ^ 31 < 0x7F800000
    let can := fun (j : Nat) (v : BitVec 32) => finite v ∧ caps.getD j 0 ≠ 0
    (h.smode = true → l.length = 64 → let col := fun (i : Nat) => word i 8 / 2 ^ 32 % 2 ^ 16; let valid := fun (i : Nat) => word i 8 / 2 ^ 48 % 2 = 1 ∧ col i < h.cols.toNat
      ∀ j v, (j, v) ∈ rowCands h caps l ↔ can j v ∧ ∃ i, i < 8 ∧ valid i ∧ col i = j ∧ v = BitVec.ofNat 32 (word i 8) ∧ ∀ i', i' < i → valid i' → col i' ≠ j) ∧
    (h.smode = false → l.length = 4 * h.cols.toNat → let v := fun (j : Nat) => BitVec.ofNat 32 (word j 4); let all := fun (j : Nat) => j < h.cols.toNat ∧ can j (v j)
      (rowCands h caps l).length ≤ 8 ∧ (∀ x ∈ rowCands h caps l, all x.1 ∧ x.2 = v x.1) ∧
      ∀ j, all j → (j, v j) ∉ rowCands h caps l → (rowCands h caps l).length = 8 ∧ ∀ x ∈ rowCands h caps l, less32 x.2 (v j) = false ∧ (less32 (v j) x.2 = false → x.1 < j)))

/-- The `n` bytes at `a` are SRAM of cluster `q` from `o` on, and an engine that translates by `u` may write every piece of them for core `c`, whatever it has written already. -/
def Sys2Proof.Machine.State.engineMayWrite (u : TUnit) (c : Nat) (a : Word) (n q o : Nat) (s : State) : Prop :=
  ∀ v : State, v = { s with mem := v.mem, poison := v.poison, full := v.full } → ∀ x ∈ linePieces (n + 1) a n,
    v.engineCheckBy u c x.1 x.2 .engineWrite = (.ok (some (.sram q (o + (x.1 - a).toNat))), v)

/-- Slot `k` has got `v` in x[rd] and runs on, and nothing else differs from `s` but memory, its marks and the words that were filled; for each
(q, o, b) of `l` the bytes `b` stand at SRAM offset `o` of cluster `q`, and outside of these memory is as it was. -/
def Sys2Proof.Machine.State.wrote (k : Nat) (rd : Reg) (v : Word) (l : List (Nat × Nat × List Byte)) (s t : State) : Prop :=
  t = { s with slots := t.slots, mem := t.mem, poison := t.poison, full := t.full, fills := t.fills } ∧
  (∀ j, j ≠ k → t.slot j = s.slot j) ∧ (s.slot k).xIs rd v (t.slot k) ∧ (t.slot k).park = .run ∧ (t.slot k).retired = (s.slot k).retired + 1 ∧ (t.slot k).pc = ((s.slot k).seq 4).pc ∧
  (∀ x ∈ l, t.bytesAt (sramKey x.1 x.2.1) x.2.2.length = x.2.2) ∧
  ∀ k, (∀ x ∈ l, k < sramKey x.1 x.2.1 ∨ sramKey x.1 x.2.1 + x.2.2.length ≤ k) → t.byteAt k = s.byteAt k

/-- R281, R282, R290 to R297: rounds, status, records and the bias vector; the order of the checks of mer.bias.copy and mer.snap.bias is that of log
entry 36. -/
def Obligations.AuctionRoundsAndResults : Prop :=
  (∀ s : State, let n := s.arg.a; let se := s.sector n; let off := se.current.bind fun i => se.buffers.find? fun x => x.id = i;
    (off = none → exec .auctionRound s = .next s) ∧
    (∀ a, off = some a → let set := fun (b : Auction) => se.buffers.map fun x => if x.id = a.id then b else x
      let ends := fun (l : List Auction) => s.gives .auctionRound ({ s with work := s.work ++ [⟨.auctionTake, arg1 n⟩] : State }.sectorIs n { se with buffers := l, current := none })
      let free := fun (k : Nat) => find? a.held k = none; let copy := fun (k : Nat) => k / 4 < a.rows ∧ k % 4 < a.sh.copies; let stuck := fun (k : Nat) => a.above k (a.heldByRow k) = []
      (a.abandon = true → ends (se.buffers.filter fun x => x.id ≠ a.id)) ∧
      (a.abandon = false → se.frozen = true → exec .auctionRound s = .next { s with deferred := true }) ∧
      (let nv := fun (x : Auction) => if x.id = a.id then { x with ran := false, stopped := true, held := [], prices := [], rounds := 0 } else x
        ∀ addr, ({ s with records := s.records ++ [⟨0xC0, BitVec.ofNat 48 (2 ^ 15 + n), addr, 4⟩] } : State).sectorIs n 
          { se with frozen := true, current := none, buffers := se.buffers.map nv } (s.merFreeze n addr)) ∧
      (a.abandon = false → se.frozen = false → a.sh.copies ≤ 4 →
        ((∀ k, copy k → ¬ free k) → ends (set { a with stopped := true, cause := 1 })) ∧
        ((∃ k, copy k ∧ free k) → (∀ k, copy k → free k → stuck k) → ends (set { a with stopped := true, cause := 2 })) ∧
        ((∃ k, copy k ∧ free k ∧ ¬ stuck k) → a.sh.roundLimit ≤ a.rounds → ends (set { a with stopped := true, cause := 3 })) ∧
        ((∃ k, copy k ∧ free k ∧ ¬ stuck k) → a.rounds < a.sh.roundLimit → risingKeys a.held = true → ∃ b : Auction, b = { a with rounds := a.rounds + 1, held := b.held, prices := b.prices } ∧
          s.gives .auctionRound ({ s with work := s.work ++ [⟨.auctionRound, arg1 n⟩] : State }.sectorIs n { se with buffers := set b }) ∧
          (∀ k j v, (k, j, v) ∈ a.bids ↔ copy k ∧ free k ∧ a.bid k (a.heldByRow k ++ ((a.bids.filter fun x => decide (x.1 / 4 = k / 4) && decide (x.1 < k)).map fun x => x.2.1)) = some (j, v)) ∧
          (let finite := fun (v : BitVec 32) => v.toNat % 2 ^ 31 < 0x7F800000; (∀ x ∈ a.held, finite x.2.2) → (∀ x ∈ a.bids, finite x.2.2) →
          ∀ j, j < a.cols → let got := b.held.filter fun x => x.2.1 = j
            let offer := fun (x : Nat × BitVec 32 × Bool) => if x.2.2 then (x.1, j, x.2.1) ∈ a.bids else (x.1, j, x.2.1) ∈ a.held
            let before := fun (x y : Nat × BitVec 32 × Bool) => less32 y.2.1 x.2.1 = true ∨ (less32 x.2.1 y.2.1 = false ∧ ((x.2.2 = false ∧ y.2.2 = true) ∨ (x.2.2 = y.2.2 ∧ x.1 < y.1)))
            (∀ k v, (k, j, v) ∈ b.held → offer (k, v, true) ∨ offer (k, v, false)) ∧ got.length ≤ a.cap j ∧
            (∀ x y, offer x → offer y → (x.1, j, x.2.1) ∈ b.held → before y x → (y.1, j, y.2.1) ∈ b.held) ∧ (∀ x, offer x → (x.1, j, x.2.1) ∉ b.held → got.length = a.cap j) ∧
            (got.length = a.cap j → got ≠ [] → (∃ x ∈ got, x.2.2 = b.price j) ∧ ∀ x ∈ got, less32 x.2.2 (b.price j) = false) ∧
            (¬ (got.length = a.cap j ∧ got ≠ []) → b.price j = a.price j))))) ∧
    ∀ (a : Auction) (k : Nat) (xs : List Nat),
      (∀ j v, (j, v) ∈ a.above k xs ↔ ∃ c, (j, c) ∈ look [] a.cands (k / 4) ∧ j ∉ xs ∧ v = subSat (addSat c (look 0 a.bias j)) (a.price j) ∧ less32 a.sh.floor v = true) ∧
      (a.above k xs = [] → a.bid k xs = none) ∧ ∀ j v w, a.above k xs = [(j, v)] ∨ (∃ i, i ≠ j ∧ (a.above k xs = [(j, v), (i, w)] ∨ a.above k xs = [(i, w), (j, v)]) ∧ less32 w v = true ∧ less32 v w = false) →
        let v2 := if a.above k xs = [(j, v)] then a.sh.floor else w
        a.bid k xs = some (j, addSat (addSat (a.price j) (subSat v v2)) a.sh.eps)) ∧
  (∀ (s : State) (rd ra rb : Reg) (sc : BitVec 3), isSup s.myCore = false → s.me.park = .run → s.me.fences = [] → let a := s.x ra; let g := s.x rb; let sec := slotSector s.cur; let se := s.sector sec
    let owns := s.biasPart sec ≠ 0 ∧ s.biasPart sec = s.corePart s.myCore; let finite := fun (x : Nat) => x % 2 ^ 31 < 0x7F800000
    let wake : List Event := [⟨.slotWake, arg1 s.cur⟩]; let parks := fun (v : Word) (t : State) => s.me.parksAs (.give rd.toNat v sc.toNat) (s.cycle + 1 + sc.toNat) t.me
    let posts := fun (p : Park) (t : State) => s.onlySlotPosts s.cur t ∧ t.work = s.work ++ wake ∧ s.me.parksAs p (s.cycle + 1 + sc.toNat) t.me
    let given := fun (v : Word) (t : State) => s.onlySlotPosts s.cur t ∧ t.work = s.work ++ wake ∧ parks v t
    let published := fun (u : State) (b : Nat → BitVec 32) (t : State) => t = { u with slots := t.slots, sectors := t.sectors, work := u.work ++ wake } ∧ (∀ j, j ≠ s.cur → t.slot j = s.slot j) ∧ parks ((se.gen + 1).setWidth 64) t ∧
      t.sector sec = { se with gen := se.gen + 1, bias := (t.sector sec).bias } ∧ (∀ j, j < 256 → look 0 (t.sector sec).bias j = b j) ∧ ∀ d, d ≠ sec → t.sector d = s.sector d
    (a.toNat % 8 ≠ 0 → s.gives (.merOut ra rb sc) (s.trapsWith cMISALIGN a)) ∧ (a.toNat % 8 = 0 → g.toNat % 8 ≠ 0 → s.gives (.merOut ra rb sc) (s.trapsWith cMISALIGN g)) ∧
    (a.toNat % 64 ≠ 0 → s.gives (.merSnap rd ra sc) (s.trapsWith cMISALIGN a) ∧ s.gives (.merSnapBias rd ra sc) (s.trapsWith cMISALIGN a) ∧
      (owns → s.gives (.merBiasCopy rd ra sc) (s.trapsWith cMISALIGN a))) ∧
    (¬ owns → (∀ i ∈ [Sys2Proof.Instr.merBias rd ra sc, .merBiasAdd rd ra sc, .merBiasCopy rd ra sc], s.gives i (s.trapsWith cPROTECTION 0)) ∧
      (a.toNat % 64 = 0 → s.gives (.merSnapBias rd ra sc) (s.trapsWith cPROTECTION 0))) ∧
    (a.toNat % 64 = 0 → owns → (se.frozen = true → s.gives (.merSnapBias rd ra sc) (s.waitsOn (.meridian sec) s)) ∧
      (se.frozen = false → s.gives (.merSnapBias rd ra sc) (posts (.merSnap a ((List.range 256).map fun j => look 0 se.bias j) rd.toNat (se.gen.setWidth 64) sc.toNat))) ∧
      (∀ ws u, (∀ au, s.auctionOf s.cur = some au → au.stopped = true) → s.imageWords 128 a = (.ok ws, u) → u.cur = s.cur → u.cycle = s.cycle → u.slots = s.slots → u.sectors = s.sectors →
        s.gives (.merBiasCopy rd ra sc) (published u fun j => let e := bitsAt (ws.getD (j / 2) 0) (32 * (j % 2)) 32
          if finite e then BitVec.ofNat 32 e else 0))) ∧
    (s.auctionOf s.cur = none → (s.gives (.merStat rd sc) fun t => s.onlySlot s.cur t ∧ s.stepped 4 sc.toNat t ∧ s.me.xIs rd 0 t.me ∧ t.me.merstat = 0 ∧ s.me.keepsRest { t.me with merstat := s.me.merstat }) ∧ (owns → s.gives (.merBias rd ra sc) (s.trapsWith cPROTECTION 0) ∧ s.gives (.merBiasAdd rd ra sc) (s.trapsWith cPROTECTION 0)) ∧
      (a.toNat % 8 = 0 → g.toNat % 8 = 0 → s.gives (.merOut ra rb sc) (s.stepsOnly 4 sc.toNat)) ∧ (a.toNat % 64 = 0 → s.gives (.merSnap rd ra sc) (given 0))) ∧
    (∀ au, s.auctionOf s.cur = some au →
      (owns → ¬ finite (bitsAt a 0 32) → s.gives (.merBias rd ra sc) (s.trapsWith cPROTECTION a) ∧ s.gives (.merBiasAdd rd ra sc) (s.trapsWith cPROTECTION a)) ∧
      (au.stopped = false → let waits := s.waitsOn (.auction au.id) s;
        s.gives (.merStat rd sc) waits ∧ (a.toNat % 8 = 0 → g.toNat % 8 = 0 → s.gives (.merOut ra rb sc) waits) ∧ (a.toNat % 64 = 0 → s.gives (.merSnap rd ra sc) waits) ∧
        (owns → finite (bitsAt a 0 32) → s.gives (.merBias rd ra sc) waits ∧ s.gives (.merBiasAdd rd ra sc) waits) ∧ (owns → a.toNat % 64 = 0 → s.gives (.merBiasCopy rd ra sc) waits)) ∧
      (au.stopped = true →
        (∃ w : BitVec 32, (s.gives (.merStat rd sc) fun t => s.onlySlotPosts s.cur t ∧ t.work = s.work ++ wake ∧
          t.me = { s.me.flush with merstat := w, park := .give rd.toNat (w.setWidth 64) sc.toNat, ready := s.cycle + 1 + sc.toNat }) ∧ (au.ran = false → au.rows * au.sh.copies < 2 ^ 12 → w.toNat = au.rows * au.sh.copies * 2 ^ 16) ∧
          (au.ran = true → w.toNat % 2 ^ 13 = au.rounds % 2 ^ 13 ∧ w.toNat / 2 ^ 13 % 8 = 0 ∧ w.toNat / 2 ^ 16 % 2 ^ 12 = au.unassigned.length % 2 ^ 12 ∧ w.toNat / 2 ^ 30 = au.cause.toNat)) ∧
        (se.frozen = true → (a.toNat % 64 = 0 → s.gives (.merSnap rd ra sc) (s.waitsOn (.meridian sec) s)) ∧
          (a.toNat % 8 = 0 → g.toNat % 8 = 0 → s.gives (.merOut ra rb sc) (s.waitsOn (.meridian sec) s))) ∧
        (a.toNat % 64 = 0 → se.frozen = false → s.gives (.merSnap rd ra sc) (posts (.merSnap a ((List.range au.cols).map au.price) rd.toNat (BitVec.ofNat 64 au.cols) sc.toNat))) ∧
        (a.toNat % 8 = 0 → g.toNat % 8 = 0 → se.frozen = false → s.gives (.merOut ra rb sc) (posts (.merOut a g sc.toNat))) ∧
        (owns → finite (bitsAt a 0 32) → let g := bitsAt a 0 32
          s.gives (.merBias rd ra sc) (published s fun j => if j < au.cols then satur (Fmt.f32.fmul mRNE g (au.price j).toNat) else 0) ∧
          s.gives (.merBiasAdd rd ra sc) (published s fun j => let b := look 0 se.bias j
            if j < au.cols then satur (Fmt.f32.ffma mRNE false g (au.price j).toNat b.toNat) else b))))) ∧
  (∀ s : State, let k := s.arg.a; let sl := s.slot k; let sec := slotSector k; let fr := (s.sector sec).frozen = true; let m := s.engineMayWrite (.meridian sec) (coreOf k)
    (∀ (a : Word) vs (rd : Reg) v sc, sl.park = .merSnap a vs rd.toNat v sc → let b := vs.flatMap fun (e : BitVec 32) => toBytes 4 e.toNat
      (fr → exec .slotWake s = .next { s with deferred := true }) ∧ (¬ fr → sl.frozen = false → ∀ q o, m a b.length q o → s.gives .slotWake (s.wrote k rd v [(q, o, b)]))) ∧
    ∀ (a g : Word) sc au, sl.park = .merOut a g sc → s.auctionOf k = some au → (fr → exec .slotWake s = .next { s with deferred := true }) ∧
      (¬ fr → sl.frozen = false → au.poison = false → ∀ q o q' o', let b := au.assignBytes; let d := au.raggedBytes
        m a b.length q o → m g d.length q' o' → (sramKey q o + b.length ≤ sramKey q' o' ∨ sramKey q' o' + d.length ≤ sramKey q o) → o % 8 = 0 → o' % 8 = 0 →
        s.gives .slotWake fun t => s.wrote k 0 0 [(q, o, b), (q', o', d)] t ∧
          ∀ h, (sramKey q o ≤ h ∧ h < sramKey q o + b.length) ∨ (sramKey q' o' ≤ h ∧ h < sramKey q' o' + d.length) → t.fullAt h = true)) ∧
  ∀ a : Auction, a.ran = true → a.sh.copies ≤ 4 → (∀ x ∈ a.held, x.2.1 < 256) → let half := fun (l : List Byte) (i : Nat) => ofBytes ((l.drop i).take 2); let b := a.assignBytes; let d := a.raggedBytes
    let spill := fun (k : Nat) => k / 4 < a.rows ∧ k % 4 < a.sh.copies ∧ find? a.held k = none
    let inList := fun (r j : Nat) => (∃ x ∈ a.held, x.1 / 4 = r ∧ x.2.1 = j) ∨ ∃ q, q < 4 ∧ spill (4 * r + q) ∧ half b (8 * r + 2 * q) = 0x8000 + j
    b.length = 8 * a.rows ∧ d.length % 8 = 0 ∧
    (∀ r q, r < a.rows → q < 4 → (a.sh.copies ≤ q → half b (8 * r + 2 * q) = 0xFFFF) ∧ (q < a.sh.copies → ∀ x, find? a.held (4 * r + q) = some x → half b (8 * r + 2 * q) = x.1) ∧
      (spill (4 * r + q) → (a.sh.policy = 0 → half b (8 * r + 2 * q) = 0xFFFF) ∧ (a.sh.policy = 1 → half b (8 * r + 2 * q) = 0x8000 + a.sh.fallback) ∧
        (a.sh.policy = 2 → (∀ x ∈ look [] a.cands r, x.1 < 256) → half b (8 * r + 2 * q) = 0xFFFF ∨ ∃ x ∈ look [] a.cands r, half b (8 * r + 2 * q) = 0x8000 + x.1 ∧
          x.1 ∉ a.heldByRow (4 * r + q) ∧ ∀ q', q' < q → spill (4 * r + q') → half b (8 * r + 2 * q') ≠ 0x8000 + x.1))) ∧
    ∀ j, j < a.cols → a.cols ≤ 256 → a.rows ≤ 512 → (∀ r, ∀ x ∈ look [] a.cands r, x.1 < 256) → let n := half d (16 * j + 2); let at' := ofBytes ((d.drop (16 * j + 6)).take 4)
      half d (16 * j) = j ∧ d.getD (16 * j + 4) 0 = 32 ∧ half d (16 * j + 10) = j ∧ ofBytes ((d.drop (16 * j + 12)).take 4) = 0 ∧
      at' = 16 * a.cols + 2 * ((List.range j).map fun i => half d (16 * i + 2)).sum ∧ (a.sh.policy = 0 → d.getD (16 * j + 5) 0 = 0) ∧
      (a.sh.policy ≠ 0 → (((d.getD (16 * j + 5) 0).getLsbD 1 = true ↔ a.cap j < n) ∧ (d.getD (16 * j + 5) 0).toNat < 4)) ∧
      (∀ i, i + 1 < n → half d (at' + 2 * i) < half d (at' + 2 * (i + 1))) ∧ ∀ r, r < a.rows → (inList r j ↔ ∃ i, i < n ∧ half d (at' + 2 * i) = r)

/-! ## The launch unit (R301 to R318) -/

/-- Nothing of the launch unit but completion queue `n`, which is `q`, differs between `s` and `t`, and nothing else at all. -/
def Sys2Proof.Machine.State.compIs (n : Nat) (q : CQueue) (s t : State) : Prop :=
  t = { s with launch := { s.launch with comps := t.launch.comps } } ∧ ∀ c, t.cqueue c = if c = n then q else s.cqueue c

/-- The fields of a launch record are those of its doublewords `w` (R301, R308). -/
def Sys2Proof.Machine.LRec.reads (r : LRec) (w : Nat → Word) (es : List Word) (core part queue seq : Nat) : Prop :=
  r.mode.toNat = bitsAt (w 0) 0 2 ∧ r.cq.toNat = bitsAt (w 0) 2 4 ∧ r.cqen = (w 0).getLsbD 6 ∧ r.channel.toNat = bitsAt (w 0) 10 6 ∧ r.tag = w 1 ∧ r.src = w 2 ∧
  r.nrec = bitsAt (w 3) 0 9 ∧ r.map = w 4 ∧ r.arg1 = w 5 ∧ r.arg2 = w 6 ∧ r.arg3 = w 7 ∧ r.events = es ∧ r.core = core ∧ r.part = part ∧ r.queue = queue ∧ r.seq = seq

/-- R302, R305, R313 to R315: the instructions of the launch unit. -/
def Obligations.LaunchInstructions : Prop :=
  (∀ (s : State) (r : LRec) (sc : Nat), let k := s.arg.a; let sl := s.slot k; let Q := s.lqueue r.queue; let mine := Q.en = true ∧ Q.part.toNat = r.part ∧ r.part ≠ 0
    sl.park = .push r sc → sl.frozen = false →
    (¬ mine → s.gives .slotWake fun t => s.onlySlot k t ∧ (t.slot k).park = .run ∧ (t.slot k).pc = sl.pc ∧ sl.keepsRegs (t.slot k)) ∧
    (mine → (32 ≤ Q.recs.length ∨ s.released k .ch = false) → exec .slotWake s = .next { s with deferred := true }) ∧
    (mine → Q.recs.length < 32 → s.released k .ch = true → s.gives .slotWake fun t => t = { s with slots := t.slots, launch := { s.launch with queues := t.launch.queues }, work := s.work ++ [⟨.launchRecordTake, Arg.zero⟩] } ∧
      (∀ j, t.lqueue j = if j = r.queue then { Q with recs := Q.recs ++ [{ r with seq := Q.seq }], seq := (Q.seq + 1) % 2 ^ 56 } else s.lqueue j) ∧ (∀ j, j ≠ k → t.slot j = s.slot j) ∧
      sl.keepsRegs (t.slot k) ∧ (t.slot k).park = .run ∧ (t.slot k).retired = sl.retired + 1 ∧ (t.slot k).pc = (sl.seq 4).pc)) ∧
  ∀ (s : State) (rd ra rb : Reg) (n : BitVec 4) (sc : BitVec 3), s.me.fences = [] → let a := s.x ra; let p := s.corePart s.myCore; let i := n.toNat; let tn := BitVec.ofNat 64 i
    let Q := s.lqueue i; let C := s.cqueue i; let mine := Q.en = true ∧ Q.part.toNat = p ∧ p ≠ 0; let ours := fun (c : Nat) => (s.cqueue c).en = true ∧ (s.cqueue c).part.toNat = p ∧ p ≠ 0
    (¬ mine → s.gives (.lqPush n ra sc) (s.trapsWith cPROTECTION tn) ∧ s.gives (.lqStat rd n sc) (s.trapsWith cPROTECTION tn)) ∧
    (mine →
      (a.toNat % 32 ≠ 0 → s.gives (.lqPush n ra sc) (s.trapsWith cMISALIGN a)) ∧
      (∀ e u, a.toNat % 32 = 0 → s.imageWords 8 a = (.error e, u) → exec (.lqPush n ra sc) s = .next (u.bad e)) ∧
      (∀ ws es u v, a.toNat % 32 = 0 → s.imageWords 8 a = (.ok ws, u) → let w := fun (j : Nat) => ws.getD j 0; let mode := bitsAt (w 0) 0 2; let nev := bitsAt (w 0) 7 3; let nrec := bitsAt (w 3) 0 9
        u.imageWords (if nev ≤ 4 then nev else 0) (a + 64) = (.ok es, v) → v.slots = s.slots → v.cur = s.cur → v.cycle = s.cycle → v.launch = s.launch → v.parts = s.parts →
        let bad := mode = 3 ∨ 4 < nev ∨ bitsAt (w 0) 16 48 ≠ 0 ∨ bitsAt (w 3) 9 55 ≠ 0 ∨ ((w 0).getLsbD 6 = true ∧ ¬ ours (bitsAt (w 0) 2 4)) ∨ nrec = 0 ∨ 256 < nrec ∨
          (mode = 0 ∧ (w 2).toNat % 8 ≠ 0) ∨ (mode = 1 ∧ ((w 2).toNat % 2 ≠ 0 ∨ bitsAt (w 2) 48 16 ≠ 0 ∨ (w 4).toNat % 8 ≠ 0)) ∨ (mode = 2 ∧ ((w 2).toNat % 16 ≠ 0 ∨ (w 4).toNat % 8 ≠ 0)) ∨
          ∃ h ∈ es, bitsAt h 12 20 ≠ 0 ∨ (s.event (bitsAt h 0 12)).part.toNat ≠ p
        (bad → s.gives (.lqPush n ra sc) (v.trapsWith cPROTECTION a)) ∧
        (¬ bad →
          (v.released s.cur .ch = false ∨ 32 ≤ Q.recs.length → ∃ r : LRec, r.reads w es s.myCore p i 0 ∧ s.gives (.lqPush n ra sc) fun t => t = { v with slots := t.slots, work := v.work ++ [⟨.slotWake, arg1 s.cur⟩] } ∧
            (∀ j, j ≠ s.cur → t.slot j = s.slot j) ∧ s.me.parksAs (.push r sc.toNat) (s.cycle + 1 + sc.toNat) t.me) ∧
          (v.released s.cur .ch = true → Q.recs.length < 32 → ∃ r : LRec, r.reads w es s.myCore p i Q.seq ∧ s.gives (.lqPush n ra sc) fun t => s.retired4 sc t ∧ (∀ j, j ≠ s.cur → t.slot j = s.slot j) ∧
            t = { v with slots := t.slots, launch := { s.launch with queues := t.launch.queues }, work := v.work ++ [⟨.launchRecordTake, Arg.zero⟩] } ∧
            ∀ j, t.lqueue j = if j = i then { Q with recs := Q.recs ++ [r], seq := (Q.seq + 1) % 2 ^ 56 } else s.lqueue j))) ∧
      (Q.recs.length ≤ 32 → ∃ w : Word, bitsAt w 0 6 = Q.recs.length ∧ bitsAt w 6 2 = Q.prio.toNat ∧ (w.getLsbD 8 = true ↔ ∃ r ∈ Q.recs.head?, ∃ h ∈ r.events, s.evMet h = false) ∧
        bitsAt w 9 7 = 0 ∧ bitsAt w 16 48 = Q.seq % 2 ^ 48 ∧ s.gives (.lqStat rd n sc) (s.sendsX rd w 2 4 sc.toNat))) ∧
    (let k := bitsAt a 0 12; let ev := s.event k; let good := bitsAt a 12 20 = 0 ∧ p ≠ 0 ∧ ev.part.toNat = p
      let signals := fun (set : Bool) (t : State) => s.stepped 4 sc.toNat t ∧ (∀ j, j ≠ s.cur → t.slot j = s.slot j) ∧
          t = { s with slots := t.slots, work := s.work ++ [⟨.launchRecordTake, arg2 1 s.cur⟩] } ∧
          t.me = { s.me with fences := [⟨.ch, 14, 0, s.me.stores.length, s.serial, s.me.cmds, some (.event k set ((s.x rb).setWidth 32))⟩],
                             pc := t.me.pc, lcount := t.me.lcount, retired := t.me.retired, ready := t.me.ready, waited := false };
      (¬ good → s.gives (.evSig ra rb sc) (s.trapsWith cPROTECTION a) ∧ s.gives (.evSigSet ra rb sc) (s.trapsWith cPROTECTION a)) ∧
      (good → s.gives (.evSig ra rb sc) (signals false) ∧ s.gives (.evSigSet ra rb sc) (signals true))) ∧
    (let off := { C with regs := C.regs.filter (· != some s.cur) }; let j := Sys2Proof.Instr.cqPop rd ra n sc; s.me.park = .run →
      (¬ ours i → ∃ u, s.compIs i off u ∧ s.gives j (u.trapsWith cPROTECTION tn)) ∧
      (ours i → a.toNat % 32 ≠ 0 → ∃ u, s.compIs i off u ∧ s.gives j (u.trapsWith cMISALIGN a)) ∧
      (ours i → a.toNat % 32 = 0 → s.sendsPerformed s.cur = false → s.gives j (s.waitsOn .sends s)) ∧
      (ours i → a.toNat % 32 = 0 → s.sendsPerformed s.cur = true → (C.recs = [] ∨ ∃ r l, C.regs = r :: l ∧ r ≠ some s.cur) → ∃ u, s.compIs i { C with regs := if some s.cur ∈ C.regs then C.regs else C.regs ++ [some s.cur] } u ∧
        s.gives j (u.waitsOn (.record i) s)) ∧
      (∀ r l, ours i → a.toNat % 32 = 0 → s.sendsPerformed s.cur = true → C.recs = r :: l → (C.regs = [] ∨ ∃ m, C.regs = some s.cur :: m) →
        (∀ c, (∀ u, s.compIs i off u → u.place a 32 .store = (.bad c none, u)) → ∃ u, s.compIs i off u ∧ s.gives j (u.trapsWith c a)) ∧
        (∀ q o, (∀ u, s.compIs i off u → u.place a 32 .store = (.ok (.sram q o), u)) → ∃ u, s.compIs i { off with recs := l } u ∧ s.gives j fun t =>
          (∃ ws, t = { u with slots := t.slots, work := s.work ++ ws ++ [⟨.slotWake, arg1 s.cur⟩] }) ∧ (∀ j, j ≠ s.cur → t.slot j = s.slot j) ∧
          ({ s.me with stores := s.me.stores ++ [⟨.sram q o, .bytes (toBytes 8 r.w0.toNat)⟩, ⟨.sram q (o + 8), .bytes (toBytes 8 r.w1.toNat)⟩, ⟨.sram q (o + 16), .bytes (toBytes 8 r.w2.toNat)⟩,
            ⟨.sram q (o + 24), .bytes (toBytes 8 r.w3.toNat)⟩] } : Slot).parksAs (.give rd.toNat r.w0 sc.toNat) (s.cycle + 1 + sc.toNat) t.me))) ∧
    (let pc := s.x rd; let j := Sys2Proof.Instr.cqPopAct rd ra n sc; let okPc := pc.toNat % 2 = 0 ∧ bitsAt pc 48 16 = 0;
      (¬ ours i → s.gives j (s.trapsWith cPROTECTION tn)) ∧ (ours i → a.toNat % 32 ≠ 0 → s.gives j (s.trapsWith cMISALIGN a)) ∧
      (ours i → a.toNat % 32 = 0 → ¬ okPc → s.gives j (s.trapsWith cPROTECTION pc)) ∧
      (ours i → a.toNat % 32 = 0 → okPc → C.arm ≠ none → s.gives j (s.trapsWith cPROTECTION tn)) ∧
      (ours i → a.toNat % 32 = 0 → okPc → C.arm = none → s.gives j fun t => ∃ u, s.compIs i { C with arm := some ⟨s.myCore, p, pc.setWidth 48, a⟩, regs := C.regs ++ [none] } u ∧
        t = { u with slots := t.slots, work := s.work ++ [⟨.cqArmFire, arg1 i⟩] } ∧ (∀ j, j ≠ s.cur → t.slot j = s.slot j) ∧ s.retired4 sc t))

/-- Nothing but the launch unit, and the steps that stand out, has changed. -/
def Sys2Proof.Machine.State.onlyLaunch (s t : State) : Prop := t = { s with launch := t.launch, work := t.work }

/-- The message that expansion `x` sends for its part in hand, of doublewords `w`, to handle `h` (R303, R309). -/
def Sys2Proof.Machine.Expansion.sends (x : Expansion) (w : Nat → Word) (h : Word) (a0 a1 a2 a3 : Word) : Prop :=
  let r := x.lrec
  (r.mode = 0 ∧ h = w 0 ∧ a0.toNat = x.i ∧ a1 = r.arg1 ∧ a2 = r.arg2 ∧ a3 = r.arg3) ∨
  (r.mode = 2 ∧ 0 < bitsAt (w 0) 16 16 ∧ bitsAt (w 0) 32 8 = 32 ∧ h = w 2 ∧ a0.toNat = x.t ∧ a1.toNat = min 32 (bitsAt (w 0) 16 16 - 32 * x.t) ∧
    a2 = r.src + BitVec.ofNat 64 (bitsAt (w 0) 48 16 + bitsAt (w 1) 0 16 * 2 ^ 16 + 64 * x.t) ∧ a3.toNat = bitsAt (w 0) 0 16)

/-- R303 to R311, R315: the steps of the launch unit; that a record whose queue has left its partition is dropped is the model's reading, log entry 24. -/
def Obligations.LaunchUnitSteps : Prop :=
  ∀ s : State, let L := s.launch
    (s.arg.a = 1 → let b := s.arg.b; ∀ f e set v, (s.slot b).fences = [f] → f.sig = some (.event e set v) →
      (s.fenceMet b f = false → s.gives .launchRecordTake fun t => t = { s with slots := t.slots, deferred := true } ∧ ∀ j, t.slot j = s.slot j) ∧
      (s.fenceMet b f = true → s.gives .launchRecordTake fun t => t = { s with slots := t.slots, launch := { L with events := t.launch.events }, work := s.work ++ [⟨.launchRecordTake, Arg.zero⟩] } ∧
        (∀ j, j ≠ b → t.slot j = s.slot j) ∧ t.slot b = { s.slot b with fences := [] } ∧
        ∀ m, t.event m = if m = e then { s.event m with count := if set then v + (if (s.event m).addAt = s.cycle + 1 then (s.event m).adds else 0) else (s.event m).count + v } else s.event m)) ∧
    (s.arg.a ≠ 1 → let cand := fun (q : Nat) => q < 16 ∧ let v := s.lqueue q; v.en = true ∧ (s.part v.part.toNat).st.toNat < 2 ∧ s.expanding < 64 ∧
        ∃ r l, v.recs = r :: l ∧ ((∀ h ∈ r.events, s.evMet h = true) ∨ ∃ h ∈ r.events, (s.event (bitsAt h 0 12)).failed = true)
      let turn := fun (q : Nat) => (q + 16 - ((match find? L.lastOf (s.lqueue q).prio.toNat with | some k => k + 1 | none => 0) % 16)) % 16
      (s.cycle + 1 = L.took → exec .launchRecordTake s = .next { s with deferred := true }) ∧
      (s.cycle + 1 ≠ L.took → (∀ q, ¬ cand q) → exec .launchRecordTake s = .next s) ∧
      (∀ q r l, s.cycle + 1 ≠ L.took → cand q → (∀ q', cand q' → (s.lqueue q').prio.toNat < (s.lqueue q).prio.toNat ∨ ((s.lqueue q').prio = (s.lqueue q).prio ∧ turn q ≤ turn q')) →
        (s.lqueue q).recs = r :: l → let bad := ∃ h ∈ r.events, (s.event (bitsAt h 0 12)).failed = true; let id := s.chipNo * 2 ^ 40 + L.nextId
        s.gives .launchRecordTake fun t => s.onlyLaunch t ∧ (∀ j, t.lqueue j = if j = q then { s.lqueue q with recs := l } else s.lqueue j) ∧ t.launch.took = s.cycle + 1 ∧
          t.launch.nextId = L.nextId + 1 ∧ find? t.launch.lastOf (s.lqueue q).prio.toNat = some q ∧ t.launch.comps = L.comps ∧ t.launch.events = L.events ∧
          (¬ bad → t.launch.exps = L.exps ++ [⟨id, r, 0, 0, 0, 0, 0, none, false, none, 0⟩]) ∧
          (bad → r.cqen = true → (∀ x ∈ L.exps, x.id ≠ id) → t.launch.exps = L.exps ++ [⟨id, r, 0, 0, 0, 0, 0, some (0, 1), true, none, L.ended + 1⟩]))) ∧
    (((∀ x ∈ L.exps, x.read = true) → exec .launchExpansionSend s = .next s) ∧
      ∀ (l m : List Expansion) x, L.exps = l ++ x :: m → (∀ y ∈ l, y.read = true) → x.read = false → x.lrec.cqen = true → (∀ y ∈ l ++ m, y.id ≠ x.id) →
        (s.cycle + 1 = L.sent → exec .launchExpansionSend s = .next { s with deferred := true }) ∧
        (s.cycle + 1 ≠ L.sent →
          (∀ f, s.partWords x = (.error f, s) → s.gives .launchExpansionSend fun t => ∃ y ∈ t.launch.exps, y.id = x.id ∧ y.lrec = x.lrec ∧ y.read = true ∧ y.rflags = x.rflags ||| 2 ∧ y.count = x.count) ∧
          (∀ ws, s.partWords x = (.ok ws, s) → let c := x.lrec.core; let w := fun (j : Nat) => ws.getD j 0; let l := maskClusters ws
            let k := l.getD (x.i % l.length) 0; let n := coreNum s.chipNo (k * 8 + x.i / l.length % 8); let there := mkHandle n 0 0 0 (s.part x.lrec.part).key.toNat
            let went := fun (num : Nat) (fwd : Bool) (h reply a0 a1 a2 a3 : Word) (ch : BitVec 6) (t : State) => (∃ p, (p ∈ t.net ∨ p ∈ t.netOut) ∧ p.id = t.serial ∧ p.src = s.numOf c ∧ p.dst = num ∧
                ∃ g : Msg, p.body = .invoke g ∧ g.target = h ∧ g.reply = reply ∧ g.arg0 = a0 ∧ g.arg1 = a1 ∧ g.arg2 = a2 ∧ g.arg3 = a3 ∧ g.channel = ch ∧ g.kinds = 0 ∧ g.payload = [] ∧ g.fwd = fwd ∧
                  g.sender = s.numOf c ∧ g.expansion = some (x.id, x.count)) ∧
              t.launch.sent = s.cycle + 1 ∧ (t.credit c (creditKey num)).avail + 1 = (s.credit c (creditKey num)).avail ∧ t.slots = s.slots ∧ ∃ y ∈ t.launch.exps, y.id = x.id ∧ y.count = x.count + 1 ∧ y.rflags = x.rflags
            let fails := fun (why : Nat) (t : State) => t.net = s.net ∧ ∃ y ∈ t.launch.exps, y.id = x.id ∧ y.count = x.count + 1 ∧ y.ended = x.ended + 1 ∧ y.rflags = x.rflags ||| 1 ∧ y.failed = some (x.count, BitVec.ofNat 16 why)
            (∀ j, j ∈ l ↔ j < 256 ∧ (w (j / 64)).getLsbD (j % 64) = true) ∧
            (x.lrec.mode = 1 → l ≠ [] → s.partOf k ≠ x.lrec.part → x.failed = none → s.gives .launchExpansionSend (fails rCAPABILITY)) ∧
            (x.lrec.mode = 1 → l ≠ [] → s.partOf k = x.lrec.part → x.i < 2 ^ 64 → (s.credit c (creditKey n)).avail ≠ 0 →
              (s.findSend c (hKey there) ≠ none → s.gives .launchExpansionSend (went n false there x.lrec.src (BitVec.ofNat 64 x.i) x.lrec.arg1 x.lrec.arg2 x.lrec.arg3 0)) ∧
              (s.findSend c (hKey there) = none → s.gives .launchExpansionSend fun t => t.deferred = true ∧ ∃ y ∈ t.launch.exps, y.id = x.id ∧ y.count = x.count ∧ y.i = x.i)) ∧
            (x.lrec.mode = 1 → l = [] → s.gives .launchExpansionSend fun t => ∃ y ∈ t.launch.exps, y.id = x.id ∧ y.read = true ∧ y.rflags = x.rflags ||| 8 ∧ y.count = x.count) ∧
            (∀ h a0 a1 a2 a3 num fwd, x.i < 2 ^ 64 → x.t < 2 ^ 64 → x.sends w h a0 a1 a2 a3 → s.route c h = .go num fwd → (s.credit c (creditKey num)).avail ≠ 0 → s.findSend c (hKey h) ≠ none →
              s.gives .launchExpansionSend (went num fwd h 0 a0 a1 a2 a3 x.lrec.channel)) ∧
            (∀ h a0 a1 a2 a3 why r o, x.i < 2 ^ 64 → x.t < 2 ^ 64 → x.sends w h a0 a1 a2 a3 → s.route c h = .broken why r o → x.failed = none → s.gives .launchExpansionSend (fails why))))) ∧
    (s.takePacket s.arg.a = none → exec .activationEndNotice s = .next s) ∧
    (∀ p u id place why, s.takePacket s.arg.a = some (p, u) → p.body = .endNotice (id, place) why → s.saved = [] → ∀ (l m : List Expansion) x, L.exps = l ++ x :: m → x.id = id → (∀ y ∈ l ++ m, y.id ≠ id) → x.place = 0 →
      let y := if why = 0 then { x with ended := x.ended + 1 } else { x with ended := x.ended + 1, rflags := x.rflags ||| 1, failed := match x.failed with | none => some (place, why) | some (q, z) => if place < q then some (place, why) else some (q, z) }
      let done := y.read = true ∧ y.ended = y.count
      s.gives .activationEndNotice fun t => u.onlyLaunch t ∧ (¬ done → t.launch.exps = l ++ y :: m) ∧ (done → y.lrec.cqen = false → t.launch.exps = l ++ m) ∧
        (done → y.lrec.cqen = true → t.launch.exps = l ++ { y with place := L.ended + 1 } :: m ∧ t.launch.ended = L.ended + 1 ∧ ⟨.completionRecordWrite, arg1 id⟩ ∈ t.work)) ∧
    ((∀ x ∈ L.exps, x.id ≠ s.arg.a) → exec .completionRecordWrite s = .next s) ∧
    (∀ (l m : List Expansion) x, L.exps = l ++ x :: m → x.id = s.arg.a → (∀ y ∈ l ++ m, y.id ≠ x.id) → let n := x.lrec.cq.toNat; let q := s.cqueue n; let ours := q.en = true ∧ q.part.toNat = x.lrec.part ∧ x.lrec.part ≠ 0
      (¬ ours → s.gives .completionRecordWrite fun t => t = { s with launch := { L with exps := l ++ m } }) ∧
      (ours → ((∃ y ∈ L.exps, y.place ≠ 0 ∧ y.place < x.place ∧ y.lrec.cq = x.lrec.cq) ∨ 64 ≤ q.recs.length) → exec .completionRecordWrite s = .next { s with deferred := true }) ∧
      (ours → (∀ y ∈ L.exps, y.place ≠ 0 → y.lrec.cq = x.lrec.cq → x.place ≤ y.place) → q.recs.length < 64 → ∃ r : CRec, s.gives .completionRecordWrite fun t =>
        { s with launch := { L with exps := l ++ m } }.compIs n { q with recs := q.recs ++ [r] } t ∧ bitsAt r.w0 0 16 = (match x.failed with | some (_, z) => z.toNat | none => 0) ∧ bitsAt r.w0 16 8 = 1 ∧
          bitsAt r.w0 24 8 = x.rflags.toNat ∧ bitsAt r.w0 32 32 = x.count % 2 ^ 32 ∧ (x.lrec.queue < 256 → bitsAt r.w1 56 8 = x.lrec.queue) ∧ bitsAt r.w1 0 56 = x.lrec.seq % 2 ^ 56 ∧ r.w2 = s.time ∧ r.w3 = x.lrec.tag)) ∧
    (let n := s.arg.a; let q := s.cqueue n
      (q.arm = none → exec .cqArmFire s = .next s) ∧
      (q.arm ≠ none → (q.recs = [] ∨ q.regs = [] ∨ ∃ k l, q.regs = some k :: l) → exec .cqArmFire s = .next { s with deferred := true }) ∧
      (∀ m r l g, q.arm = some m → q.recs = r :: l → q.regs = none :: g → s.queueRoom m.core = true → ∀ j o, (∀ u, s.compIs n { q with arm := none, recs := l, regs := g } u → u.engineMayWrite .tlb m.core m.addr 32 j o) →
        m.addr.toNat % 32 = 0 → s.gives .cqArmFire fun t => t.cqueue n = { q with arm := none, recs := l, regs := g } ∧
          t.bytesAt (sramKey j o) 32 = (toBytes 8 r.w0.toNat ++ toBytes 8 r.w1.toNat ++ toBytes 8 r.w2.toNat ++ toBytes 8 r.w3.toNat) ∧
          (∀ k, (k < sramKey j o ∨ sramKey j o + 32 ≤ k) → t.byteAt k = s.byteAt k) ∧ t.slots = s.slots ∧ ∃ it ∈ (t.core m.core).anon, it.body = .arm m.pc r.w0 m.addr)) ∧
    (let n := s.arg.a; let v := s.arg.v; let q := s.lqueue n
      s.gives .launchQueueConfigWrite fun t => s.onlyLaunch t ∧ t.launch = { L with queues := t.launch.queues } ∧ ∀ j, t.lqueue j = if j ≠ n then s.lqueue j else
        { q with part := v.setWidth 8, prio := (v >>> 8).setWidth 2, en := v.getLsbD 10, recs := if v.getLsbD 10 = true ∧ v.setWidth 8 = q.part then q.recs else [] })

/-! ## Windows and links (R336 to R360, R384) -/

/-- Nothing but the fabric state, and the steps that stand out, has changed. -/
def Sys2Proof.Machine.State.onlyFabric (s t : State) : Prop := t = { s with fabric := t.fabric, work := t.work }

/-- The slot in hand has the trackers `l` and parks to get `v` in x[rd]; nothing else has changed. -/
def Sys2Proof.Machine.State.fencedTo (rd : Reg) (v : Word) (l : List Tracker) (sc : BitVec 3) (s t : State) : Prop :=
  s.onlySlotPosts s.cur t ∧ t.work = s.work ++ [⟨.slotWake, arg1 s.cur⟩] ∧
  t.me = { s.me.flush with trackers := l, park := .give rd.toNat v sc.toNat, ready := s.cycle + 1 + sc.toNat }

/-- R337 to R347: reflection fences, the window port, arrival, answers. -/
def Obligations.WindowFencesAndPackets : Prop :=
  (∀ (s : State) (rd ra : Reg) (sc : BitVec 3), let l := s.me.trackers; let v := s.x ra; let queued := fun (t : Tracker) => ∃ w ∈ (s.cluster (domainOf s.myCore)).wq, w.tracker = t.id
    let done := fun (t : Tracker) => t.out = 0 ∧ ¬ queued t;
    let word := fun (t : Tracker) (n : Nat) (w : Word) => bitsAt w 0 8 = t.status % 256 ∧ bitsAt w 8 10 = t.window % 1024 ∧ bitsAt w 18 4 = t.receiver % 16 ∧ bitsAt w 22 10 = 0 ∧
      bitsAt w 32 16 = min n 65535 ∧ bitsAt w 48 16 = 2 ^ 15;
    ((∃ t ∈ l, ¬ done t) → s.gives (.rfence rd sc) (s.waitsOn (.trackers none) s)) ∧
    ((∀ t ∈ l, done t) → (∀ t ∈ l, t.fail = false) → s.gives (.rfence rd sc) (s.fencedTo rd 0 [] sc)) ∧
    (∀ t ∈ l, (∀ u ∈ l, done u) → t.fail = true → (∀ u ∈ l, u.fail = true → u ≠ t → t.order < u.order) → ∃ w, word t ((l.filter (·.fail)).map (·.count)).sum w ∧ s.gives (.rfence rd sc) (s.fencedTo rd w [] sc)) ∧
    (1024 ≤ v.toNat → s.gives (.rflush rd ra sc) (s.trapsWith cPROTECTION v)) ∧
    (v.toNat < 1024 → (∀ t ∈ l, t.window ≠ v.toNat) → s.gives (.rflush rd ra sc) (s.setsX rd 0 4 sc.toNat)) ∧
    (∀ (k m : List Tracker) t, l = k ++ t :: m → v.toNat < 1024 → t.window = v.toNat → (∀ u ∈ k ++ m, u.window ≠ t.window ∧ u.id ≠ t.id ∧ (u.out ≠ 0 ∨ u.fail = true ∨ queued u)) →
      (¬ done t → s.gives (.rflush rd ra sc) (s.waitsOn (.trackers (some t.window)) s)) ∧
      (done t → (t.fail = false → s.gives (.rflush rd ra sc) (s.fencedTo rd 0 (k ++ m) sc)) ∧ (t.fail = true → ∃ w, word t t.count w ∧ s.gives (.rflush rd ra sc) (s.fencedTo rd w (k ++ m) sc))))) ∧
  (∀ s : State, let d := s.arg.a; let F := s.fabric
    ((s.cluster d).wq = [] → exec .windowPortTake s = .next s) ∧
    (∀ w l, (s.cluster d).wq = w :: l → let T := look TxEnt.reset F.tx w.winno; let ways := (List.range 16).filter fun i => (look Recv.reset T.recv i).valid; let off : Int := (w.addr.toNat : Int) - 65536 * T.vbase.toNat
      let good := T.valid = true ∧ T.part.toNat = w.part ∧ 0 ≤ off ∧ off + w.bytes.length ≤ 65536 * T.size.toNat
      let paths := ways.filterMap fun i => s.pathTo (look Recv.reset T.recv i).chip.toNat
      let room := ∀ w ∈ paths, ((s.port w.1).out.filter fun f => f.vc.toNat * 2 + (if f.cls then 1 else 0) = w.2).length + (paths.filter fun v => v = w).length ≤ look 16 (s.port w.1).counts w.2
      ((F.tookAt = s.cycle + 1 ∨ ¬ room) → exec .windowPortTake s = .next { s with deferred := true }) ∧
      (F.tookAt ≠ s.cycle + 1 → room → s.gives .windowPortTake fun t => t.mem = s.mem ∧ (t.cluster d).wq = l ∧ (∀ j, j ≠ w.slot → t.slot j = s.slot j) ∧
        t.fabric.tookAt = s.cycle + 1 ∧ (¬ good → t.fabric = { F with tookAt := s.cycle + 1 } ∧ ∀ (k m : List Tracker) x, (s.slot w.slot).trackers = k ++ x :: m → x.id = w.tracker → (∀ u ∈ k ++ m, u.id ≠ x.id) → ∃ y ∈ (t.slot w.slot).trackers, y.id = x.id ∧ y.out = x.out ∧ y.fail = true ∧
          y.count = x.count + 1 ∧ y.status = (if x.fail then x.status else 4) ∧ y.receiver = if x.fail then x.receiver else 0) ∧
        (good → (∃ ps, t.fabric.outgo = F.outgo ++ ps ∧ ps.map (fun p => (p.recv, p.dst, p.window, p.op)) = ways.map (fun i => let r := look Recv.reset T.recv i; (i, r.chip.toNat, r.window.toNat, WOp.store r.gen r.relay)) ∧
            ∀ p ∈ ps, p.src = s.chipNo ∧ (p.off : Int) = off ∧ p.bytes = w.bytes ∧ p.key = (s.part w.part).key ∧ p.slot = w.slot ∧ p.txwin = w.winno ∧ p.tracker = w.tracker ∧ p.sentAt = s.cycle) ∧
          ∀ (k m : List Tracker) x, (s.slot w.slot).trackers = k ++ x :: m → x.id = w.tracker → (∀ u ∈ k ++ m, u.id ≠ x.id) → ways ≠ [] → ∃ y ∈ (t.slot w.slot).trackers, y = { x with out := x.out + ways.length })))) ∧
  (∀ (s : State) (p : WPack), let r := s.rx p.window; let own := p.src = s.chipNo; let pages := (List.range ((p.off % 65536 + p.size + 65535) / 65536)).map fun i => p.off / 65536 * 65536 + 65536 * i
    let stale := ∃ g b, p.op = .store g b ∧ g ≠ r.gen; let denied := (own ∧ r.loopback = false) ∨ (¬ own ∧ r.sendmap = true ∧ s.senderBit r p.src = false)
    let beyond := 65536 * r.size.toNat < p.off + p.size ∨ ∃ o ∈ pages, (s.pageEntry r o).getLsbD 0 = false; let red := (∃ a b, p.op = .reduce a b) ∧ r.redok = false; let gone := ∃ o ∈ pages, let k := (s.pageEntry r o).toNat / 2 ^ 16 % 256; s.resetting k = true ∨ s.powered k = false
    (r.st ≠ 1 ∨ stale → s.refusal p = some (6, false)) ∧ (r.st = 1 → ¬ stale → (p.key ≠ (s.part r.part.toNat).key → s.refusal p = some (5, true)) ∧ (p.key = (s.part r.part.toNat).key →
      (denied → s.refusal p = some (5, false)) ∧ (¬ denied → (beyond → s.refusal p = some (5, false)) ∧ (¬ beyond → (red → s.refusal p = some (7, false)) ∧
        (¬ red → (gone → s.refusal p = some (5, false)) ∧ (¬ gone → s.refusal p = none))))))) ∧
  (∀ s : State, let F := s.fabric
    ((∀ p ∈ F.flying, ¬ (p.id = s.arg.a ∧ p.src = s.arg.b)) → exec .windowArrival s = .next s) ∧
    (∀ (l m : List WPack) p, F.flying = l ++ p :: m → p.id = s.arg.a → p.src = s.arg.b → (∀ q ∈ l ++ m, ¬ (q.id = p.id ∧ q.src = p.src)) → p.src = s.chipNo →
      let path := fun (q : WPack) => match p.op, q.op with | _, .get _ => False | .get _, _ => True | .store _ _, .store _ _ => q.window = p.window | .store _ _, _ => False | _, .store _ _ => False | _, _ => q.window = p.window
      let behind := ∃ q ∈ l, q.src = p.src ∧ path q
      (behind → exec .windowArrival s = .next { s with deferred := true }) ∧ (¬ behind → (∀ q ∈ F.outgo, q.id = p.id → ∀ n, q.op ≠ .get n) → p.chain = [] →
      let answered := fun (st : Nat) (t : State) => t.fabric = { F with flying := l ++ m, answers := F.answers ++ [⟨p.id, s.chipNo, s.chipNo, BitVec.ofNat 8 st, [], false, false, none⟩] } ∧ ⟨.windowAnswer, arg1 p.id⟩ ∈ t.work ∧ t.slots = s.slots;
      (∀ st key, s.refusal p = some (st, key) → s.gives .windowArrival fun t => answered st t ∧ t.mem = s.mem ∧ t.records = s.records ++
        if key then [⟨9, BitVec.ofNat 48 (0xFF + p.core % 2 ^ 32 * 2 ^ 16), BitVec.ofNat 64 p.window, BitVec.ofNat 64 p.off⟩] else []) ∧
      (∀ g, s.refusal p = none → p.op = .store g false → 0 < p.bytes.length → p.off < 2 ^ 64 → p.off % 64 + p.bytes.length ≤ 64 → s.gives .windowArrival fun t => answered 0 t ∧
        t.mem = (s.engineWrite (s.windowHome (s.rx p.window) p.off) p.bytes (meets p.poison 0 p.bytes.length)).mem ∧
        ∀ sl pa k, s.windowHome (s.rx p.window) p.off = .dram sl pa 1 k → t.bytesAt (l2Key sl pa) p.bytes.length = p.bytes))) ∧
    (∀ (l m : List WPack) (h n : List WAns) p a, F.outgo = l ++ p :: m → F.answers = h ++ a :: n → p.id = s.arg.a → a.id = s.arg.a → (∀ q ∈ l ++ m, q.id ≠ p.id) → (∀ q ∈ h ++ n, q.id ≠ a.id) → p.far = none → p.relayOf = none → s.saved = [] →
      (∀ (i j : List Tracker) x, p.tracker ≠ 0 → (s.slot p.slot).trackers = i ++ x :: j → x.id = p.tracker → (∀ u ∈ i ++ j, u.id ≠ x.id) → s.gives .windowAnswer fun t => t.fabric = { F with outgo := l ++ m, answers := h ++ n } ∧
        (∀ j, j ≠ p.slot → t.slot j = s.slot j) ∧ t.mem = s.mem ∧ (a.status = 0 → ∀ u, u ∈ (t.slot p.slot).trackers → u.id = x.id → u = { x with out := x.out - 1 }) ∧
        (a.status ≠ 0 → ∃ y ∈ (t.slot p.slot).trackers, y.id = x.id ∧ y.out = x.out - 1 ∧ y.fail = true ∧ y.count = x.count + 1 ∧ y.status = (if x.fail then x.status else a.status.toNat) ∧ y.receiver = if x.fail then x.receiver else p.recv)) ∧
      (p.tracker = 0 → a.status = 0 → s.gives .windowAnswer fun t => t = { ((s.modCmd (clusterOf (numCore p.core)) p.serial fun c => { c with sent := c.sent - 1, gets := c.gets.filter fun g => g.id != p.id })) with fabric := { F with outgo := l ++ m, answers := h ++ n } })) ∧
    ((∀ p ∈ F.outgo, p.id ≠ s.arg.a) → exec .placementTimeout s = .next s ∧ exec .getReply s = .next s) ∧
    (∀ (l m : List WPack) p, F.outgo = l ++ p :: m → p.id = s.arg.a → (∀ q ∈ l ++ m, q.id ≠ p.id) → let due := p.sentAt + F.placetmo.toNat * 1000
      (s.cycle < due → exec .placementTimeout s = .next { s with deferred := true }) ∧ (due ≤ s.cycle → (∃ a ∈ F.answers, a.id = p.id) → exec .placementTimeout s = .next s) ∧
      (due ≤ s.cycle → (∀ a ∈ F.answers, a.id ≠ p.id) → s.gives .placementTimeout fun t => s.onlyFabric t ∧ t.fabric = { F with answers := F.answers ++ [⟨p.id, s.chipNo, s.chipNo, 5, [], false, false, none⟩] } ∧
        t.work = s.work ++ [⟨.windowAnswer, arg1 p.id⟩])) ∧
    (∀ (l m : List WPack) (h n : List WAns) p a c g, F.outgo = l ++ p :: m → F.answers = h ++ a :: n → p.id = s.arg.a → a.id = s.arg.a → (∀ q ∈ l ++ m, q.id ≠ p.id) → (∀ q ∈ h ++ n, q.id ≠ a.id) → p.far = none →
      let u := { s with fabric := { F with outgo := l ++ m, answers := h ++ n } }; let cl := clusterOf (numCore p.core)
      u.findCmd cl p.serial = some c → g ∈ c.gets → g.id = p.id → (∀ x ∈ c.gets, x.id = p.id → x = g) → a.poison = false → let w := elemBytes c.smap.fmt.toNat
      let places := (List.range g.count).filterMap fun i => let q := GetRun.place g.pos i; (u.placeAddr c q).map fun d => (q, d)
      let es := places.zipIdx.map fun x => (⟨x.1.1, x.1.2, u.placeBytes c x.1.1 (toBytes (elemBytes (u.destFmt c x.1.2)) (c.convert c.smap.fmt.toNat (u.destFmt c x.1.2) (ofBytes ((a.data.drop (w * x.2)).take w)))), false, 0⟩ : Elem)
      u.getBreach c places = none → ∀ v, u.writeItem c es = (none, v) → s.gives .getReply fun t => t.mem = v.mem ∧ t.slots = v.slots ∧ t = v.modCmd cl p.serial fun c => CopyCmd.touchWords es { c with sent := c.sent - 1, gets := c.gets.filter fun x => x.id != p.id }))

/-- R344 to R360, R384: revocation, far traffic and the links; what a rekey marker does to the packet counter and the next key is log entry 90's choice,
and what the payload header leaves open is log entry 91's. -/
def Obligations.WindowRevocationAndLinks : Prop :=
  ∀ s : State, let F := s.fabric; let n := s.arg.a
    let ether := fun (i : Nat) (x : EthOut) => let fd := look FarD.reset F.far i; let num := look 0 s.chip.flowNext fd.flow.toNat
      (⟨fd.flow.toNat, num, BitVec.ofNat 96 ((Config.flowSalt fd.flow.toNat).toNat * 2 ^ 64 + num % 2 ^ 64), x.header s.chipNo fd.chip.toNat, x⟩ : EthPkt)
    (∀ (i own far : Nat) (p : WPack), p.src < 2 ^ 14 → p.window < 2 ^ 10 → p.msgId < 2 ^ 32 → p.index < 2 ^ 16 → p.total < 2 ^ 16 → p.off < 2 ^ 64 → p.op.asks + p.bytes.length < 2 ^ 32 →
      let h := (EthOut.packet i p).header own far; let at' := fun (j k : Nat) => ofBytes ((h.drop j).take k)
      h.length = 32 ∧ at' 0 1 = (match p.op with | .store _ _ => 6 | .get _ => 4 | _ => 1) ∧ at' 1 1 = (if p.poison = [] then 0 else 1) ∧ at' 2 2 % 2 ^ 10 = p.window ∧
        (match p.op with | .reduce _ _ => True | _ => at' 2 2 / 2 ^ 10 = 0) ∧ at' 4 2 = (match p.op with | .store g _ => g.toNat | _ => 0) ∧ at' 6 2 = p.src ∧ at' 8 4 = p.msgId ∧
        at' 12 2 = p.index ∧ at' 14 2 = p.total ∧ at' 16 8 = p.off ∧ at' 24 4 = p.op.asks + p.bytes.length ∧ at' 28 4 = p.seq.toNat) ∧
    (∀ f : Flit, (f.intact = true ↔ f.crc = crc32c f.front) ∧ (f.payload.length = 120 → let h := ofBytes (f.front.drop 120); f.front.length = 124 ∧ f.front.take 120 = f.payload ∧ h % 2 ^ 9 = f.seq.toNat ∧ h / 2 ^ 9 % 2 ^ 9 = f.ack.toNat ∧
      h / 2 ^ 18 % 2 = f.retry.toNat ∧ h / 2 ^ 19 % 4 = f.vc.toNat ∧ h / 2 ^ 21 % 2 = f.cls.toNat ∧ h / 2 ^ 22 % 8 = f.cbuf.toNat ∧ h / 2 ^ 25 % 8 = f.ccount.toNat ∧
      h / 2 ^ 28 % 2 = f.poison.toNat ∧ h / 2 ^ 29 % 2 = f.head.toNat ∧ h / 2 ^ 30 % 2 = f.tail.toNat ∧ h / 2 ^ 31 = f.idle.toNat)) ∧
    (let r := s.rx n; let v := s.arg.v.toNat % 4; let entry := fun (e : RxEnt) (t : State) => t.fabric = { F with rx := t.fabric.rx } ∧ ∀ j, t.rx j = if j = n then e else s.rx j
      (r.st = 0 → v = 1 → s.gives .receiveEntryStateWrite fun t => s.onlyFabric t ∧ entry { r with st := 1 } t) ∧
      (r.st ≠ 0 ∨ v ≠ 1 → r.st ≠ 1 ∨ v % 2 = 1 → exec .receiveEntryStateWrite s = .next s) ∧
      (r.st = 1 → v % 2 = 0 → let asked := (List.range 16384).filter fun c => r.sendmap && (if c = s.chipNo then r.loopback else s.senderBit r c)
        s.gives .receiveEntryStateWrite fun t => t = { s with fabric := t.fabric, net := t.net, netOut := t.netOut, serial := t.serial, work := t.work } ∧
          entry { r with st := if asked = [] ∧ r.taken = 0 then 0 else 2, since := s.cycle + 1, pending := asked.length } t ∧ t.serial = s.serial + asked.length ∧
          (∀ c ∈ asked, ∃ p, (p ∈ t.net ∨ p ∈ t.netOut) ∧ p.src = s.chipNo * 2048 ∧ p.dst = c * 2048 ∧ p.body = .closeAsk n) ∧ ⟨.closeTimeout, arg1 n⟩ ∈ t.work) ∧
      (r.st ≠ 2 → exec .closeTimeout s = .next s) ∧
      (r.st = 2 → let due := r.since + max 1 F.closetmo.toNat * 1000
        (s.cycle + 1 < due → exec .closeTimeout s = .next { s with deferred := true }) ∧ (due ≤ s.cycle + 1 → s.gives .closeTimeout fun t => s.onlyFabric t ∧ entry { r with st := 0, pending := 0 } t))) ∧
    (∀ (l m : List Packet) p w, s.net = l ++ p :: m → p.id = n → (∀ q ∈ l ++ m, q.id ≠ n) → let open' := ∃ q ∈ F.outgo, q.dst = numChip p.src ∧ q.window = w ∧ ∀ k, q.op ≠ .get k
      (p.body = .closeAsk w → (open' → exec .closeNotice s = .next { s with deferred := true }) ∧
        (¬ open' → exec .closeNotice s = .next ({ s with net := l ++ m }.sendPacket (s.chipNo * 2048) p.src (.closeAns w)))) ∧
      (p.body = .closeAns w → let r := s.rx w; let e := { r with pending := r.pending - 1 }
        s.gives .closeAnswer fun t => t = { s with net := l ++ m, fabric := { F with rx := t.fabric.rx } } ∧ ∀ j, t.rx j = if j ≠ w then s.rx j else if r.st = 2 ∧ e.pending = 0 ∧ r.taken = 0 then { e with st := 0 } else e)) ∧
    ((∀ p ∈ F.outgo, p.id ≠ n) → exec .farResendTimer s = .next s ∧ (s.arg.ok = false → exec .queuePairResend s = .next s)) ∧
    (∀ (l m : List WPack) p, F.outgo = l ++ p :: m → p.id = n → (∀ q ∈ l ++ m, q.id ≠ n) → let srtt := s.srttOf p
      let again := fun (from' : BitVec 32) (fd : Option Nat) (q q' : WPack) => q' = { q with resent := if fd ≠ none ∧ q.far = fd ∧ (q.seq - from').getLsbD 31 = false then s.cycle else q.resent }
      (s.cycle < p.resent + max 20000 (2 * srtt) → exec .farResendTimer s = .next { s with deferred := true }) ∧
      let late := fun (start : BitVec 32) (fd : Option Nat) (q : WPack) => fd.isSome && decide (q.far = fd) && !(q.seq - start).getLsbD 31
      let leaves := fun (start : BitVec 32) (fd : Option Nat) (t : State) => t.fabric.etherOut.map EthPkt.what = F.etherOut.map EthPkt.what ++ (F.outgo.filter (late start fd)).map fun q => .packet (fd.getD 0) { q with resent := s.cycle }
      (∀ i, p.far = some i → p.resent + max 20000 (2 * srtt) ≤ s.cycle → let flow := (look FarD.reset F.far i).flow.toNat; let num := look 0 s.chip.flowNext flow; let q := { p with resent := s.cycle }
        s.flowDown flow = false → exec .farResendTimer s = .next { s with fabric := { F with outgo := l ++ q :: m, etherOut := F.etherOut ++ [ether i (.packet i q)] }, chip := { s.chip with flowNext := put flow (num + 1) s.chip.flowNext }, work := s.work ++ [⟨.farResendTimer, arg1 n⟩] }) ∧
      (∀ i, p.far = some i → s.flowDown (look FarD.reset F.far i).flow.toNat = false → s.arg.ok = false → (s.cycle < p.resent + max 1 (2 * srtt) → exec .queuePairResend s = .next { s with deferred := true }) ∧
        (p.resent + max 1 (2 * srtt) ≤ s.cycle → s.gives .queuePairResend fun t => t = { s with fabric := { F with outgo := t.fabric.outgo, etherOut := t.fabric.etherOut }, chip := { s.chip with flowNext := t.chip.flowNext }, work := s.work ++ [⟨.queuePairResend, arg1 n⟩] } ∧
          List.Forall₂ (again p.seq p.far) F.outgo t.fabric.outgo ∧ leaves p.seq p.far t)) ∧
      (s.arg.ok = true → s.flowDown (look FarD.reset F.far s.arg.b).flow.toNat = false → s.gives .queuePairResend fun t => t = { s with fabric := { F with outgo := t.fabric.outgo, etherOut := t.fabric.etherOut }, chip := { s.chip with flowNext := t.chip.flowNext } } ∧
        List.Forall₂ (again (s.arg.v.setWidth 32) (some s.arg.b)) F.outgo t.fabric.outgo ∧ leaves (s.arg.v.setWidth 32) (some s.arg.b) t)) ∧
    (∀ (l m : List WPack) p i, F.flying = l ++ p :: m → p.id = n → p.src = s.arg.b → (∀ q ∈ l ++ m, ¬ (q.id = p.id ∧ q.src = p.src)) → p.src ≠ s.chipNo → (s.routeEntry p.src).getLsbD 0 = false → s.farEntry p.src = some i →
      let fd := look FarD.reset F.far i; let want := look 0 F.recvSeq fd.conn.toNat; let num := look 0 s.chip.flowNext fd.flow.toNat
      fd.qp = true → p.seq ≠ want → s.flowDown fd.flow.toNat = false → exec .windowArrival s = .next { s with fabric := { F with flying := l ++ m, etherOut := F.etherOut ++ [ether i (.expected i p want)] }, chip := { s.chip with flowNext := put fd.flow.toNat (num + 1) s.chip.flowNext } }) ∧
    (∀ (l m : List FarMsg) g t0, F.farTab = l ++ g :: m → g.src = n → g.id = s.arg.b → (∀ q ∈ l ++ m, ¬ (q.src = n ∧ q.id = s.arg.b)) → g.tomb = some t0 → let due := t0 + max F.msglife.toNat F.placetmo.toNat * 1000
      (s.cycle < due → exec .tombstoneExpiry s = .next { s with deferred := true }) ∧ (due ≤ s.cycle → exec .tombstoneExpiry s = .next { s with fabric := { F with farTab := l ++ m } })) ∧
    (let r := look RGroup.reset F.rates n; let due := r.since + max 1 r.srtt.toNat
      (s.cycle < due → exec .rateIncrease s = .next { s with deferred := true }) ∧
      (due ≤ s.cycle → s.gives .rateIncrease fun t => t = { s with fabric := { F with rates := t.fabric.rates }, work := s.work ++ [⟨.rateIncrease, arg1 n⟩] } ∧ ∀ j, look RGroup.reset t.fabric.rates j = if j ≠ n then look RGroup.reset F.rates j else
        { r with rate := if r.halved then r.rate else BitVec.ofNat 20 (min r.max.toNat (r.rate.toNat + s.chip.ratestep.toNat)), halved := false, since := s.cycle })) ∧
    (let p := s.port n; let ports := fun (e : Port) (t : State) => t.fabric = { F with ports := t.fabric.ports } ∧ ∀ j, t.port j = if j = n then e else s.port j
      (p.incoming = [] → exec .flitReceive s = .next s) ∧
      (∀ f l, p.incoming = f :: l →
        (p.down = true → s.gives .flitReceive fun t => s.onlyFabric t ∧ ports { p with incoming := l } t) ∧
        (p.down = false → f.intact = false → s.gives .flitReceive fun t => s.onlyFabric t ∧ ports { p with incoming := l, asking := true } t) ∧
        (p.down = false → f.intact = true → f.idle = false → s.linksOpen = false → s.gives .flitReceive fun t => s.onlyFabric t ∧ ports { p with incoming := l } t) ∧
        (p.down = false → f.intact = true → f.idle = false → s.linksOpen = true → f.seq ≠ p.expect → s.gives .flitReceive fun t => s.onlyFabric t ∧ ports { p with incoming := l, asking := true } t) ∧
        (p.down = false → f.intact = true → (f.idle = false → s.linksOpen = true) →
          let left := p.kept.filter fun k => (f.ack - k.seq).getLsbD 8; let turns := if left.length < p.kept.length then (if f.retry then 1 else 0) else if f.retry then p.resends + 1 else p.resends
          let heard := fun (e e' : Port) => e' = { e with kept := left, counts := e'.counts, again := if f.retry then left else p.again.filter fun k => (f.ack - k.seq).getLsbD 8, resends := if 16 ≤ turns then 0 else turns, resent := if f.retry then e.resent + left.length else e.resent } ∧
            ∀ j, look 16 e'.counts j = if j = f.cbuf.toNat then min 16 (look 16 e.counts j + f.ccount.toNat) else look 16 e.counts j
          let buf := f.vc.toNat * 2 + if f.cls then 1 else 0; let c := look (0, []) p.coming buf; let got := if f.poison then c.2 ++ [c.1] else c.2; let bad := got.map fun i => (120 * i - 48, 120 * i + 72)
          let takes := fun (e e' : Port) => ∃ d : Port, heard d e' ∧ d = { e with incoming := l, expect := p.expect + 1, back := d.back, coming := d.coming } ∧
            (∀ j, look 0 d.back j = if j = buf then look 0 p.back j + 1 else look 0 p.back j) ∧ ∀ j, look (0, []) d.coming j = if j ≠ buf then look (0, []) p.coming j else if f.tail then (0, []) else (c.1 + 1, got)
          (16 ≤ turns → f.idle = true → s.gives .flitReceive fun t => t = { s with fabric := t.fabric, fresh := s.fresh + 1, work := t.work } ∧ (∃ e, heard { p with incoming := l } e ∧ ports e t) ∧
            ∃ a : Arg, t.work = s.work ++ [⟨.linkRetrain, a⟩] ∧ a.a = n) ∧
          (turns < 16 →
          (f.idle = true → s.gives .flitReceive fun t => s.onlyFabric t ∧ ∃ e, heard { p with incoming := l } e ∧ ports e t) ∧
          (f.idle = false → f.seq = p.expect → f.tail = false → s.gives .flitReceive fun t => s.onlyFabric t ∧ ∃ e, takes p e ∧ ports e t) ∧
          (f.idle = false → f.seq = p.expect → f.tail = true → f.tagOk = true → f.marker = true → s.gives .flitReceive fun t => t = { s with fabric := t.fabric, work := s.work ++ [⟨.linkRekeyMarker, arg1 n⟩] } ∧
            ∃ e, takes { p with packets := p.packets + 1 } e ∧ ports e t) ∧
          (∀ q, f.idle = false → f.seq = p.expect → f.tail = true → f.tagOk = true → f.marker = false → f.packet = some q → f.dest = s.chipNo → (∀ g o v c a i, q.body ≠ .partialUp g o v c a i) → s.gives .flitReceive fun t =>
            t = { s with fabric := t.fabric, net := s.net ++ [{ q with id := s.serial + 1, body := match q.body with | .invoke g => .invoke { g with poisoned := g.poisoned || bad.any fun x => decide (x.1 < g.payload.length) } | b => b }], serial := s.serial + 1, work := s.work ++ [⟨q.body.step, arg1 (s.serial + 1)⟩] } ∧
            ∃ e, takes { p with packets := p.packets + 1 } e ∧ ports e t)))) ∧
      (p.down = true → exec .linkRetrain s = .next s) ∧
      (p.down = false → (s.arg.ok = true → s.gives .linkRetrain fun t => s.onlyFabric t ∧ ports { p with retrains := 0, resends := 0 } t) ∧
        (s.arg.ok = false → (p.retrains < 2 → s.gives .linkRetrain fun t => t = { s with fabric := t.fabric, fresh := s.fresh + 1, work := t.work } ∧ ports { p with retrains := p.retrains + 1 } t) ∧
          (2 ≤ p.retrains → p.out = [] → p.kept = [] → s.gives .linkRetrain fun t => t = { s with fabric := t.fabric, records := s.records ++ [⟨0x90, BitVec.ofNat 48 n, BitVec.ofNat 64 p.resent, BitVec.ofNat 64 F.coord.toNat⟩] } ∧
            ports { p with retrains := p.retrains + 1, down := true, again := [], resends := 0 } t))) ∧
      (p.nextKey = false → exec .linkRekeyMarker s = .next s) ∧
      (p.nextKey = true → s.gives .linkRekeyMarker fun t => t = { s with fabric := t.fabric, chip := { s.chip with linkKeys := t.chip.linkKeys } } ∧ ports { p with nextKey := false, epoch := p.epoch + 1, packets := 0, tagFails := 0 } t ∧
        look 0 t.chip.linkKeys (4 * n) = look 0 s.chip.linkKeys (4 * n + 2) ∧ look 0 t.chip.linkKeys (4 * n + 2) = 0 ∧ ∀ j, j ≠ 4 * n → j ≠ 4 * n + 2 → look 0 t.chip.linkKeys j = look 0 s.chip.linkKeys j))

/-! ## Walks, watched lines, banks, roots, evictions and the scrubber (R51, R127, R132, R133, R137, R140 to R146, R172, R380, R381) -/

/-- The table entry at `pa` is read unpoisoned, valid and well-formed at level `l`. -/
def Sys2Proof.Machine.State.goodEntry (s : State) (l pa : Nat) : Prop :=
  s.homePoison (tableHome pa) = false ∧ (s.tableEntry pa).getLsbD 0 = true ∧ entryMalformed l (s.tableEntry pa) = false

/-- A read of watched entry `e`, named by its address plus its level, lets its line's waiters go on: unpoisoned, valid, not discarded, well-formed at that level (log entry 26). -/
def Sys2Proof.Machine.State.wakesAt (s : State) (e : Nat) : Prop :=
  let w := s.tableEntry (e / 8 * 8)
  s.homePoison (tableHome e) = false ∧ w.getLsbD 0 = true ∧ ¬ (w.getLsbD 5 = true ∧ w.getLsbD 1 = true) ∧ entryMalformed (e % 8) w = false

/-- The walker has read watched line `key` again for the waiters of `m`: once an entry that one of them waits on is ready, all of them run on, and no TLB has the line's old translations; else they wait on. -/
def Sys2Proof.Machine.State.rereadsTo (key : Nat) (m : Monitor) (s t : State) : Prop :=
  let line := key % 2 ^ 34
  let waits := fun (k e : Nat) => k ∈ m.slots ∧ (s.slot k).park = .trap (some e) ∧ e / 64 = line
  let holds := fun (x : Nat × Nat) (cl : Nat) => x ∈ m.cmds ∧ s.heldIn (key / 2 ^ 34) x.1 = some cl
  let slots := m.slots.filter fun k => (s.watches line k).isSome
  let cmds := m.cmds.filter fun x => (s.heldIn (key / 2 ^ 34) x.1).isSome
  let polls := (m.armed = false ∨ s.homePoison (tableHome (line * 64)) = true) ∧ m.due = none
  ((∃ k e, waits k e ∧ s.wakesAt e) ∨ (∃ x cl, holds x cl ∧ s.wakesAt x.2) →
    t = { s with slots := t.slots, clusters := t.clusters, monitors := del key s.monitors, work := t.work } ∧
    (∀ k e, waits k e → t.slot k = { s.slot k with park := .run, waited := false, ready := s.cycle + 1, noticed := false, elapsed := if (s.slot k).frozen then 0 else s.cycle }) ∧
    (∀ k, (∀ e, ¬ waits k e) → t.slot k = s.slot k) ∧
    (∀ cl, t.cluster cl = { s.cluster cl with tlb := (s.cluster cl).tlb.filter fun e => e.2.line / 64 ≠ line }) ∧
    (∀ x cl, holds x cl → ⟨.triggeredCopyFire, arg2 cl x.1⟩ ∈ t.work) ∧ s.work.IsPrefix t.work) ∧
  ((∀ k e, waits k e → ¬ s.wakesAt e) → (∀ x cl, holds x cl → ¬ s.wakesAt x.2) →
    t = { s with monitors := t.monitors, work := if find? t.monitors key ≠ none ∧ polls then s.work ++ [⟨.monitorPoll, arg1 key⟩] else s.work } ∧
    find? t.monitors key = if slots = [] ∧ cmds = [] then none else some { m with slots := slots, cmds := cmds, due := if polls then some (s.cycle + 4096) else m.due })

/-- R127, R141 to R146: TRANSLATION_WALK, PAGE_MONITOR_WAKE and MONITOR_POLL. -/
def Obligations.WalksAndWatchedLines : Prop :=
  ∀ s : State,
    (let d := s.arg.a; let page := s.arg.b; let c := s.cluster d; let sec := s.sector (sectorOf d)
      let a0 := c.root.toNat * 4096 + 8 * (page / 2 ^ 23 % 512); let next := fun (a : Nat) => bitsAt (s.tableEntry a) 12 28 * 4096
      let a1 := next a0 + 8 * (page / 2 ^ 14 % 512); let a2 := next a1 + 8 * (page / 2 ^ 5 % 512); let a3 := next a2 + 8 * (page % 32)
      let leaf := fun (a : Nat) => (s.tableEntry a).getLsbD 5 = true
      let now := if sec.walkAt = s.cycle + 1 then sec.walks else []; let free := d < 256 → d * 2 ^ 32 + page ∈ now ∨ now.length < 64
      let walked := fun (a : Nat) (tlb : SMap Leaf → Prop) => s.gives .translationWalk fun t =>
        t = { s with clusters := t.clusters, sectors := t.sectors, mem := t.mem, l2 := t.l2, poison := t.poison, full := t.full, written := t.written, records := t.records, fresh := t.fresh, errors := t.errors, chip := { s.chip with corrected := t.chip.corrected, repair := t.chip.repair, pendRep := t.chip.pendRep } } ∧
        (∀ j, j ≠ d → t.cluster j = s.cluster j) ∧ t.cluster d = { c with tlb := (t.cluster d).tlb } ∧ tlb (t.cluster d).tlb ∧ t.l2Has (a / 2 ^ 16 % 256) a = true ∧
        (d < 256 → t.sector (sectorOf d) = { sec with walkAt := s.cycle + 1, walks := (t.sector (sectorOf d)).walks } ∨ (d * 2 ^ 32 + page ∈ now ∧ t.sector (sectorOf d) = sec))
      let held := fun (a l n : Nat) => walked a fun tlb => find? tlb (page / n * n) = some ⟨s.tableEntry a, n, a + l⟩ ∧ (∀ e ∈ tlb, e.1 ≠ page / n * n → e ∈ c.tlb) ∧ (c.tlb.length ≤ 512 → tlb.length ≤ 512)
      (c.en = false → exec .translationWalk s = .next s) ∧
      (∀ l, c.en = true → tlbFind c.tlb page = some l → l.word.getLsbD 1 = false → exec .translationWalk s = .next s) ∧
      (c.en = true → (∀ l, tlbFind c.tlb page = some l → l.word.getLsbD 1 = true) → (¬ free → exec .translationWalk s = .next s) ∧
        (free → s.goodEntry 0 a0 → ¬ leaf a0 → s.goodEntry 1 a1 →
          (leaf a1 → held a1 1 (2 ^ 14)) ∧ (¬ leaf a1 → s.goodEntry 2 a2 → (leaf a2 → held a2 2 32) ∧ (¬ leaf a2 → s.goodEntry 3 a3 → held a3 3 1))) ∧
        (free → ¬ s.goodEntry 0 a0 → walked a0 fun tlb => tlbFind tlb page = none ∧ ∀ e ∈ tlb, e ∈ c.tlb))) ∧
    (let key := s.arg.a;
      (find? s.monitors key = none → exec .pageMonitorWake s = .next s ∧ exec .monitorPoll s = .next s) ∧
      (∀ m, find? s.monitors key = some m →
        (m.armed = false → exec .pageMonitorWake s = .next s) ∧
        (let line := key % 2 ^ 34; let waits := fun (k e : Nat) => (∃ key' m', find? s.monitors key' = some m' ∧ key' % 2 ^ 34 = line ∧ k ∈ m'.slots) ∧ (s.slot k).park = .trap (some e) ∧ e / 64 = line
          let ready := (∃ k e, k ∈ m.slots ∧ (s.slot k).park = .trap (some e) ∧ e / 64 = line ∧ s.wakesAt e) ∨ ∃ x cl, x ∈ m.cmds ∧ s.heldIn (key / 2 ^ 34) x.1 = some cl ∧ s.wakesAt x.2
          (m.armed = true → ¬ (s.arg.b = 1 ∧ ready) → s.gives .pageMonitorWake (s.rereadsTo key m)) ∧
          (m.armed = true → s.arg.b = 1 → ready → risingKeys s.monitors = true → s.gives .pageMonitorWake fun t =>
            t = { s with slots := t.slots, clusters := t.clusters, monitors := t.monitors, work := t.work } ∧ (∀ j, find? t.monitors j = if j % 2 ^ 34 = line then none else find? s.monitors j) ∧
            (∀ k e, waits k e → t.slot k = { s.slot k with park := .run, waited := false, ready := s.cycle + 1, noticed := false, elapsed := if (s.slot k).frozen then 0 else s.cycle }) ∧
            (∀ k, (∀ e, ¬ waits k e) → t.slot k = s.slot k) ∧ (∀ cl, t.cluster cl = { s.cluster cl with tlb := (s.cluster cl).tlb.filter fun e => e.2.line / 64 ≠ line }) ∧
            ∀ key' m' x cl, find? s.monitors key' = some m' → key' % 2 ^ 34 = line → x ∈ m'.cmds → s.heldIn (key' / 2 ^ 34) x.1 = some cl → ⟨.triggeredCopyFire, arg2 cl x.1⟩ ∈ t.work)) ∧
        (m.due = none → exec .monitorPoll s = .next s) ∧
        (∀ n, m.due = some n → s.cycle < n → exec .monitorPoll s = .next { s with deferred := true }) ∧
        (∀ n, m.due = some n → n ≤ s.cycle → s.gives .monitorPoll (({ s with monitors := put key { m with due := none } s.monitors } : State).rereadsTo key { m with due := none }))))

/-- An access to bank `b` of cluster `k` is in flight: a retired store, a load, atomic or synchronising access that is not over, the push of a parked division, or a matrix step in the array that reads a ring stage there. -/
def Sys2Proof.Machine.State.usesBank (s : State) (k b : Nat) : Prop :=
  (∃ e ∈ s.slots, (∃ p ∈ e.2.stores, p.home.inBank p.op.size k b = true) ∨ (∃ ld n c, e.2.park = .load ld n c ∧ ld.zero = false ∧ ld.home.inBank ld.size k b = true) ∨
    (∃ h a x r n m, e.2.park = .sync h a x r n m ∧ h.inBank 8 k b = true) ∨ (∃ h a p r n m, e.2.park = .barrier (some h) a p r n m ∧ h.inBank 8 k b = true) ∨
    (∃ a, e.2.park = .amo a ∧ a.home.inBank a.size k b = true) ∨
    ∃ n els fl due sc x h, e.2.park = .fpush n els fl due sc ∧ x ∈ els ∧ x.2.2 = .inl h ∧ h.inBank n k b = true) ∨
  ∃ st ∈ (s.cluster k).array, ∃ x ∈ st.cmd.stages, (Home.sram k ((s.ring k x.1).base x.2)).inBank (s.ring k x.1).stageBytes k b = true

/-- Bank `b` of cluster `k` is `x`, and nothing else has changed. -/
def Sys2Proof.Machine.State.bankIs (k b : Nat) (x : Bank) (s t : State) : Prop :=
  t = { s with clusters := t.clusters } ∧ (∀ j, j ≠ k → t.cluster j = s.cluster j) ∧ t.cluster k = { s.cluster k with banks := (t.cluster k).banks } ∧
  ∀ j, t.bank k j = if j = b then x else s.bank k j

/-- R40, R51, R132, R133, R140: bank registers, drains, roots and area bases. -/
def banksRootsAndAreaBasesRules : Prop :=
  ∀ s : State, let k := s.arg.a; let b := s.arg.b; let v := s.arg.v; let x := s.bank k b
    (let y := if bitsAt v 2 4 ≤ 9 then { x with fmt := BitVec.ofNat 4 (bitsAt v 2 4) } else x; let r : BitVec 2 := v.setWidth 2
      (r = 3 → s.gives .bankRegisterWrite (s.bankIs k b y)) ∧
      (r ≠ 3 → x.busy = true → s.gives .bankRegisterWrite (s.bankIs k b { y with next := r })) ∧
      (r ≠ 3 → x.busy = false → (r = x.role → s.gives .bankRegisterWrite (s.bankIs k b y)) ∧
        (r ≠ x.role → x.role ≠ 1 → ¬ s.usesBank k b → s.gives .bankRegisterWrite (s.bankIs k b { y with role := r, next := r })) ∧
        (r ≠ x.role → x.role = 1 ∨ s.usesBank k b → s.gives .bankRegisterWrite (State.bankIs k b { y with busy := true, next := r } { s with work := s.work ++ [⟨.bankRoleDrainComplete, arg2 k b⟩] })))) ∧
    ((x.busy = false → exec .bankRoleDrainComplete s = .next s) ∧
      (x.busy = true → s.usesBank k b → exec .bankRoleDrainComplete s = .next { s with deferred := true }) ∧
      (x.busy = true → ¬ s.usesBank k b → let y := { x with role := x.next, busy := false }
        (¬ (x.role = 1 ∧ x.next ≠ 1) → s.gives .bankRoleDrainComplete (s.bankIs k b y)) ∧
        (x.role = 1 → x.next ≠ 1 → let a := sramKey k (32768 * b); let inside := fun (n : Nat) => a ≤ n ∧ n < a + 32768
          s.gives .bankRoleDrainComplete fun t => t.bank k b = y ∧ (t.cluster k).l1 = [] ∧ t.slots = s.slots ∧ t.cores = s.cores ∧ (∀ j, j ≠ k → t.cluster j = s.cluster j) ∧ (∀ j, j ≠ b → t.bank k j = s.bank k j) ∧
            (∀ n, inside n → t.byteAt n = 0 ∧ t.poisonAt n = false ∧ t.fullAt n = false) ∧
            ∀ n, ¬ inside n → (n < 2 ^ 52 → t.byteAt n = s.byteAt n) ∧ t.poisonAt n = s.poisonAt n ∧ t.fullAt n = s.fullAt n))) ∧
    (s.gives .translationRootWrite fun t => t = { s with clusters := t.clusters } ∧ ∀ j, t.cluster j = if j = k then { s.cluster k with en := v.getLsbD 0, root := BitVec.ofNat 28 (bitsAt v 12 28), tlb := [] } else s.cluster j) ∧
    (s.gives .sequenceAreaBaseWrite fun t => t = { s with cores := t.cores, saved := t.saved } ∧ (∀ p w, (p, w) ∈ t.saved ↔ ∃ w', (p, w') ∈ s.saved ∧ w = if p = s.corePart k then { w' with touched := k :: w'.touched } else w') ∧ ∀ j, t.core j = if j ≠ k then s.core j else
      if b = 0x2208 then { s.core k with rused := [], cells := [], freedPairs := [], freedCells := [], seqbase := v.setWidth 48, sendlog := BitVec.ofNat 4 (bitsAt v 48 4), recvlog := BitVec.ofNat 4 (bitsAt v 52 4) }
      else { s.core k with rused := [], cells := [], freedPairs := [], freedCells := [], qbase := v.setWidth 48, qlog := BitVec.ofNat 4 (bitsAt v 48 4) })

/-- R137, R172, R380, R381: L2_LINE_EVICTION and PATROL_SCRUB. -/
def evictionsAndScrubbingRules : Prop :=
  ∀ s : State,
    (let sl := s.arg.a; let base := s.arg.b * 64; let k := l2Key sl base
      (s.l2Has sl base = false → exec .l2LineEviction s = .next s) ∧
      (∀ l : L2Line, base < 2 ^ 40 → Memory.wf s.mem = true → find? s.l2 (l2Index sl base) = some l → risingKeys s.l2 = true → (l.dirty = true → s.keyLoaded l.keyslot.toNat = true) →
        let area := s.areaAddr base; let spared := fun (a : Nat) => s.chip.fullEn = true → a / 64 ≠ area / 64;
        s.gives .l2LineEviction fun t => t.l2Has sl base = false ∧ t.slots = s.slots ∧ t.clusters = s.clusters ∧ t.cores = s.cores ∧
          (∀ i, i < 64 → t.byteAt (k + i) = 0 ∧ t.fullAt (k + i) = false ∧ t.poisonAt (k + i) = false) ∧
          (∀ i, i < 64 → spared (base + i) → t.lpByte l.keyslot.toNat (base + i) = if l.dirty = true ∧ l.mask.getLsbD i = true then s.byteAt (k + i) else s.lpByte l.keyslot.toNat (base + i)) ∧
          (spared base → t.poisonAt base = if l.dirty then s.poisonAt k || (decide (l.mask ≠ BitVec.allOnes 64) && !s.correctable (base / 64)) else s.poisonAt base) ∧
          (∀ a, spared a → a / 64 ≠ base / 64 → a / 64 ≠ k / 64 → t.byteAt a = s.byteAt a) ∧
          (s.chip.fullEn = true → s.keyLoaded 0 = true → ∀ i, i < 8 → (t.lpByte 0 area).getLsbD i = s.fullAt (k + 8 * i)))) ∧
    (let line := s.arg.a; let c := s.chip; let ch := (Config.channelOf line).toNat; let row := (Config.rowOf line).toNat
      let seen := if line = 0 then [] else c.corrected; let info := BitVec.ofNat 48 (ch + row % 2 * 2 ^ 8); let at' : Word := BitVec.ofNat 64 (line * 64)
      let entry := fun (sym : Nat) => (BitVec.ofNat 32 (sym + row * 2 ^ 8 + 2 ^ 31) : BitVec 32); let key := fun (sym : Nat) => (ch * 2 ^ 23 + row, sym)
      let errs := look [] s.errors line; let unknown := errs.filter fun sym => decide ((ch, entry sym) ∉ c.repair); let n := errs.length + unknown.length
      let kept := fun (sym : Nat) => (ch, entry sym) ∈ c.repair ∨ 64 ≤ (c.repair.filter fun x => x.1 = ch).length
      let clean := fun (d : Chip) (l : List SRec) (t : State) => t = { s with chip := d, records := l, errors := t.errors } ∧ ∀ j, look [] t.errors j = if j = line then [] else look [] s.errors j
      let noted := fun (sym : Nat) (l : List (Nat × Nat)) => if kept sym then clean { c with corrected := l } s.records else
        clean { c with corrected := l, repair := c.repair ++ [(ch, entry sym)], pendRep := c.pendRep ++ [(ch, entry sym)] } (s.records ++ [⟨0xA0, info, at', (entry sym).setWidth 64⟩])
      let listed := fun (sym : Nat) (t : State) => (ch, entry sym) ∈ t.chip.repair ∨ 64 ≤ (t.chip.repair.filter fun x => x.1 = ch).length;
      (∀ sym, sym < 128 → repairEntry line sym = entry sym) ∧ (∀ ks, s.keyLoaded ks = true → (s.lpPoison ks (line * 64) = true ↔ s.poisonAt (line * 64) = true ∨ 8 < n)) ∧
      (n ≤ 8 → (∀ sym ∈ errs, sym < 128) →
        (unknown = [] → s.gives .patrolScrub (clean { c with corrected := seen } s.records)) ∧
        (∀ x, unknown = [x] → (key x ∉ seen → s.gives .patrolScrub (clean { c with corrected := key x :: seen } s.records)) ∧ (key x ∈ seen → s.gives .patrolScrub (noted x seen))) ∧
        (∀ x y, unknown = [x, y] → x ≠ y → (key x ∉ seen → key y ∉ seen → s.gives .patrolScrub (clean { c with corrected := key y :: key x :: seen } s.records)) ∧
          ∀ z ∈ unknown, key z ∈ seen → s.gives .patrolScrub (listed z)) ∧
        (2 < unknown.length → s.gives .patrolScrub fun t => clean { c with corrected := seen, repair := t.chip.repair, pendRep := t.chip.pendRep } t.records t ∧ c.repair.IsPrefix t.chip.repair ∧ ∀ z ∈ unknown, listed z t)) ∧
      (8 < n → (∀ sym ∈ errs, sym < 128) → s.gives .patrolScrub fun t => ∃ r : Word, t = { s with chip := { c with corrected := seen }, records := s.records ++ [⟨0xA1, info, at', r⟩] }))

/-- Bank, root and area-base writes take effect, roles drain, lines are evicted, and the scrubber corrects, records or poisons (R40, R51, R132, R133, R137, R140, R172, R370, R375, R380, R381). -/
def Obligations.BanksEvictionsAndScrubbing : Prop := banksRootsAndAreaBasesRules ∧ evictionsAndScrubbingRules

/-! ## The supervisor's instructions, shootdowns and slices (R122 to R125, R151, R193, R318 to R321) -/

/-- An instruction of major 0x2D answers status `st` on top of what `u` is: it parks with it as its result for x[rd] (R69, R122), and nothing else differs
from `u`. -/
def Sys2Proof.Machine.State.answersOn (u : State) (rd : Reg) (sc : BitVec 3) (st : Nat) (s t : State) : Prop :=
  t = { u with slots := t.slots, work := u.work ++ [⟨.slotWake, arg1 s.cur⟩] } ∧ (∀ j, j ≠ s.cur → t.slot j = u.slot j) ∧
  s.me.parksAs (.give rd.toNat (BitVec.ofNat 64 st) sc.toNat) (s.cycle + 1 + sc.toNat) t.me

/-- Whether a translation of some page of the range is in the cluster's TLB, or for the cluster in its sector's Meridian translation cache (R146, R193). -/
def Sys2Proof.Machine.State.translates (s : State) (cl first pages : Nat) : Prop :=
  (∃ e ∈ (s.cluster cl).tlb, e.1 < first + pages ∧ first < e.1 + e.2.pages) ∨
  ∃ e ∈ (s.sector (sectorOf cl)).tc, let n := cl * 2 ^ 32 + first; e.1 < n + pages ∧ n < e.1 + e.2.pages

/-- R122 to R124, R193, R319 to R321: the instructions of major 0x2D. The order of the answers of sv.save and sv.load is log entry 82's choice; what a
failed save leaves is log entry 25's reading, which specifiers name nothing log entry 49's, and what tlbinv waits for log entry 50's. -/
def supervisorInstructionsRules : Prop :=
  (∀ (s : State) (rd ra rb : Reg) (sc : BitVec 3), let w := s.x ra; let v := s.x rb; let k := w.toNat
    let all := [.svResume rd ra sc, .svResumeX10 rd ra rb sc, .svBreak rd ra sc, .svFreeze rd ra sc, .svThaw rd ra sc, .svSave rd ra rb sc, .svLoad rd ra rb sc, .tlbinv rd ra rb sc]
    (isSup s.myCore = false → ∀ i ∈ all, s.gives i (s.trapsWith cPROTECTION (wordOf i))) ∧
    (isSup s.myCore = true → let ans := fun (i : Sys2Proof.Instr) (st : Nat) => s.gives i (s.answersOn rd sc st s)
      (2 ^ 14 ≤ k → ans (.svResume rd ra sc) 1 ∧ ans (.svResumeX10 rd ra rb sc) 1 ∧ ans (.svBreak rd ra sc) 1) ∧
      (k < 2 ^ 14 → let z := s.slot k; let going := fun (u : State) => u = { s with slots := u.slots } ∧ ∀ j, j ≠ k → u.slot j = s.slot j
        ((∀ e, z.park ≠ .trap e) → ans (.svResume rd ra sc) 2 ∧ ans (.svResumeX10 rd ra rb sc) 2) ∧
        (∀ e, z.park = .trap e → let goes := fun (x : SMap Word) (u : State) => going u ∧ u.slot k = { z with x := x, park := .run, waited := false, ready := s.cycle + 1 + z.tsc, tsc := 0, noticed := false, elapsed := (u.slot k).elapsed }
          (∃ u : State, goes z.x u ∧ s.gives (.svResume rd ra sc) (u.answersOn rd sc 0 s)) ∧
          ∃ (u : State) (x : SMap Word), goes x u ∧ (∀ q : Reg, (u.slot k).getX q = if q = 10 then v else z.getX q) ∧ s.gives (.svResumeX10 rd ra rb sc) (u.answersOn rd sc 0 s)) ∧
        (z.active = false → ans (.svBreak rd ra sc) 2) ∧
        (z.active = true → let u := s.breakActivation k (if z.park.isTrap then rTRAP else rSUPERVISOR) (if z.park.isTrap then z.tcause.toNat else 0)
          (u.slot k).active = false ∧ (u.slot k).frozen = false ∧ (u.slot k).park = .run ∧ (u.slot k).replyh = 0 ∧ (u.slot k).auction = none ∧ s.gives (.svBreak rd ra sc) (u.answersOn rd sc 0 s) ∧
          ∀ j, let c := coreOf k; let e := s.entry c j; z.replyh ≠ 0 → s.keyedIndex c z.replyh = some j → e.quiet → s.forwarding c e.w2 = false → s.isLocalPromise c j = false →
            let f := u.entry c j; f.st = 3 ∧ f.w1 = hWithKind z.replyh 1 ∧ f.reason = (if z.park.isTrap then 6 else 11) ∧ f.cause = (if z.park.isTrap then z.tcause.toNat else 0)) ∧
        (z.frozen = true → ans (.svFreeze rd ra sc) 2) ∧ (z.frozen = false → ans (.svThaw rd ra sc) 2) ∧
        (z.frozen = false → ∃ u : State, going u ∧ u.slot k = { z with frozen := true, woken := false, elapsed := (u.slot k).elapsed } ∧ s.gives (.svFreeze rd ra sc) (u.answersOn rd sc 0 s)) ∧
        (z.frozen = true → let on := { z with frozen := false, woken := false, elapsed := s.cycle - z.elapsed, ready := Nat.max z.ready (s.cycle + 1) }
          ∃ u : State, going u ∧ s.gives (.svThaw rd ra sc) (u.answersOn rd sc 0 s) ∧
            (z.woken = false ∨ ((∀ x, z.park ≠ .again x) ∧ ∀ q x c, z.park ≠ .give q x c) → u.slot k = on) ∧
            (∀ x, z.woken = true → z.park = .again x → u.slot k = { on with park := .run, waited := true, elapsed := s.cycle, noticed := false }) ∧
            ∀ q x c, z.woken = true → z.park = .give q x c → u.slot k = { on with x := (u.slot k).x, pc := (z.seq 4).pc, lcount := (z.seq 4).lcount, retired := z.retired + 1, park := .run, waited := false, elapsed := s.cycle, noticed := false } ∧
              ∀ r : Reg, (u.slot k).getX r = if r = 0 then 0 else if r = BitVec.ofNat 5 q then x else z.getX r)) ∧
      (let bad := 2 ^ 16 ≤ k ∨ 3 * 2 ^ 14 ≤ k ∨ (bitsAt w 14 2 = 1 ∧ bitsAt w 1 5 ≠ 0) ∨ (bitsAt w 14 2 = 2 ∧ bitsAt w 4 10 ≠ 0);
        bad → ans (.svFreeze rd ra sc) 1 ∧ ans (.svThaw rd ra sc) 1) ∧
      (bitsAt w 14 50 = 1 → bitsAt w 1 5 = 0 → let cl := bitsAt w 6 8; let b := k % 2; let e := s.engine cl b
        (e.frozen = true → ans (.svFreeze rd ra sc) 2) ∧ (e.frozen = false → ans (.svThaw rd ra sc) 2) ∧
        (e.frozen = false → s.gives (.svFreeze rd ra sc) fun t => ∃ u : State, u.answersOn rd sc 0 s t ∧ u = { s with clusters := u.clusters } ∧ u.engine cl b = { e with frozen := true } ∧ ∀ d, d ≠ cl → u.cluster d = s.cluster d) ∧
        (e.frozen = true → s.gives (.svThaw rd ra sc) fun t => ∃ u : State, u.answersOn rd sc 0 s t ∧ u = { s with clusters := u.clusters, work := u.work } ∧ u.engine cl b = { e with frozen := false } ∧ (∀ d, d ≠ cl → u.cluster d = s.cluster d) ∧
          u.work = s.work ++ (match e.cmd with
            | some c => [if c.ended ∨ c.told then ⟨.copyCompletion, arg3 cl b c.serial⟩ else ⟨.copyItem, arg2 cl b⟩]
            | none => []) ++ [⟨.copyCommandStart, arg2 cl 0⟩, ⟨.copyCommandStart, arg2 cl 1⟩])) ∧
      (bitsAt w 14 50 = 2 → bitsAt w 4 10 = 0 → let n := k % 16; let e := s.sector n
        (e.frozen = true → ans (.svFreeze rd ra sc) 2) ∧ (e.frozen = false → ans (.svThaw rd ra sc) 2) ∧
        (e.frozen = false → ∃ u : State, s.sectorIs n { e with frozen := true } u ∧ s.gives (.svFreeze rd ra sc) (u.answersOn rd sc 0 s)) ∧
        (e.frozen = true → ∃ u : State, ({ s with work := s.work ++ [⟨.auctionTake, arg1 n⟩] } : State).sectorIs n { e with frozen := false } u ∧ s.gives (.svThaw rd ra sc) (u.answersOn rd sc 0 s))) ∧
      (let p := k % 256; let d := s.part p;
        (2 ^ 9 ≤ k ∨ p = 0 ∨ d.known = false → ans (.svSave rd ra rb sc) 1) ∧ (2 ^ 8 ≤ k ∨ p = 0 ∨ d.known = false → ans (.svLoad rd ra rb sc) 1) ∧
        (p ≠ 0 → d.known = true → v.toNat % 65536 ≠ 0 → (k < 2 ^ 9 → ans (.svSave rd ra rb sc) 3) ∧ (k < 2 ^ 8 → ans (.svLoad rd ra rb sc) 3)) ∧
        (p ≠ 0 → d.known = true → v.toNat % 65536 = 0 →
          (k < 2 ^ 9 → 2 ≤ d.st.toNat → ans (.svSave rd ra rb sc) 2) ∧ (k < 2 ^ 8 → d.st ≠ 2 → ans (.svLoad rd ra rb sc) 2) ∧
          (k < 2 ^ 9 → d.st.toNat < 2 → s.me.park = .run → s.gives (.svSave rd ra rb sc) fun t => ∃ (u : State) (st : Nat), u.answersOn rd sc st s t ∧ (st = 0 ∨ st = 3) ∧ (u.part p).st = 2 ∧ (∃ x, find? u.saved p = some x ∧ x.area = v ∧ x.moved = w.getLsbD 8) ∧
            (u.slice p).armed = false ∧ ∀ j, isSup (coreOf j) = false → d.owns (clusterOf (coreOf j)) = true → (t.slot j).active = false) ∧
          (∀ x, k < 2 ^ 8 → d.st = 2 → find? s.saved p = some x → let dom := domainOf s.myCore
            (s.areaGet dom v.toNat 2 = none → ans (.svLoad rd ra rb sc) 3) ∧
            (∀ h g, s.areaGet dom v.toNat 2 = some [h, g] → let good := bitsAt h 0 32 = 0x4A535356 ∧ bitsAt h 32 16 = 1 ∧ bitsAt g 8 16 = d.collo.toNat + d.rowlo.toNat * 2 ^ 4 + d.colhi.toNat * 2 ^ 8 + d.rowhi.toNat * 2 ^ 12
              (¬ good → ans (.svLoad rd ra rb sc) 2) ∧ (good → s.loadPart p dom v.toNat x (decide (bitsAt h 56 8 = 1)) = none → ans (.svLoad rd ra rb sc) 3) ∧
              (∀ u, good → s.loadPart p dom v.toNat x (decide (bitsAt h 56 8 = 1)) = some u → (u.part p).st = 1 ∧ find? u.saved p = none ∧ (u.slice p).count = 0 ∧ s.gives (.svLoad rd ra rb sc) fun t =>
                t = { u with slots := t.slots, work := u.work ++ [⟨.slotWake, arg1 s.cur⟩] } ∧ t.me.park = .give rd.toNat 0 sc.toNat ∧ ∀ j, j ≠ s.cur → t.slot j = u.slot j))))) ∧
      (let p := k % 256; let d := s.part p; let n := v.toNat; let first := bitsAt w 16 32; let pages := if n = 0 then 2 ^ 32 - first else n / 65536
        let bad := p = 0 ∨ d.known = false ∨ bitsAt w 8 8 ≠ 0 ∨ bitsAt w 48 16 ≠ 0 ∨ n % 65536 ≠ 0 ∨ 2 ^ 32 < first + pages;
        (bad → ans (.tlbinv rd ra rb sc) 1) ∧
        let wide := fun (x : Nat × Nat) => x.1 < first + pages ∧ first < x.1 + x.2 ∧ 1 < x.2 ∧ ∃ cl, cl < 256 ∧ d.owns cl = true ∧
          ((∃ e ∈ (s.cluster cl).tlb, e.1 = x.1 ∧ e.2.pages = x.2) ∨ ∃ e ∈ (s.sector (sectorOf cl)).tc, e.1 = cl * 2 ^ 32 + x.1 ∧ e.2.pages = x.2)
        (¬ bad → ∃ l : List (Nat × Nat), (∀ x, x ∈ l ↔ x = (first, pages) ∨ wide x) ∧ let inside := fun (a : Word) => a.getLsbD 63 = false ∧ ∃ x ∈ l, x.1 ≤ a.toNat / 65536 ∧ a.toNat / 65536 < x.1 + x.2
          s.gives (.tlbinv rd ra rb sc) fun t => t.shoots = s.shoots ++ [⟨s.serial + 1, s.cur, p, first, pages, l⟩] ∧ ⟨.shootdownComplete, arg1 (s.serial + 1)⟩ ∈ t.work ∧
          s.me.parksAs (.shoot rd.toNat (s.serial + 1) sc.toNat) (s.cycle + 1 + sc.toNat) t.me ∧
          ((∀ cl, cl < 256 → d.owns cl = true → ∀ c ∈ (s.cluster cl).pending, inside c.counter → c.trig = none) →
            t = { s with slots := t.slots, clusters := t.clusters, sectors := t.sectors, serial := s.serial + 1, shoots := t.shoots, work := s.work ++ [⟨.shootdownComplete, arg1 (s.serial + 1)⟩] } ∧
            (∀ cl, cl < 256 → d.owns cl = true → ¬ t.translates cl first pages) ∧
            (∀ j, j ≠ s.cur → t.slot j = if j ∈ s.slotKeys ∧ isSup (coreOf j) = false ∧ d.owns (clusterOf (coreOf j)) = true ∧ (match (s.slot j).park with
                | .sync _ a _ _ _ _ => l.any fun x => inPages x.1 x.2 a
                | _ => false) = true then { s.slot j with park := .run, waited := false, noticed := false, elapsed := if (s.slot j).frozen then 0 else s.cycle } else s.slot j) ∧
            (∀ n, t.sector n = { s.sector n with tc := (t.sector n).tc } ∧ ∀ e ∈ (t.sector n).tc, e ∈ (s.sector n).tc) ∧
            ∀ cl, (t.cluster cl) = { s.cluster cl with tlb := (t.cluster cl).tlb } ∧ (∀ e ∈ (t.cluster cl).tlb, e ∈ (s.cluster cl).tlb) ∧ (d.owns cl = false → t.cluster cl = s.cluster cl)))))) ∧
  ∀ (z : Slot), let r := Slot.ofWords z.words z
    (∀ q : Reg, r.getX q = z.getX q ∧ r.getF q = z.getF q) ∧ (∀ q : PReg, r.getP q = z.getP q) ∧ (z.pc.getLsbD 0 = false → r.pc = z.pc) ∧ (z.lstart.getLsbD 0 = false → r.lstart = z.lstart) ∧ r.lend = z.lend ∧ r.lcount = z.lcount ∧ r.rmode = z.rmode ∧ r.rowmask = z.rowmask ∧
    r.temp = z.temp ∧ r.lanep = z.lanep ∧ r.replyh = z.replyh ∧ r.actarg = z.actarg ∧ r.xferid = z.xferid ∧ r.tcause = z.tcause ∧ r.taddr = z.taddr ∧ r.tpc = z.tpc ∧ r.merstat = z.merstat ∧ r.merfault = z.merfault ∧
    r.grstat = z.grstat ∧ r.nanseen = z.nanseen ∧ z.words.length = 116

/-- R151, R193, R318: the completion of an invalidation, and the time slices; what it waits for is log entry 50's reading, and that a discarded expiry
restarts the timer is log entry 93's choice. -/
def shootdownAndSlicesRules : Prop :=
  ∀ s : State,
    ((∀ h ∈ s.shoots, h.id ≠ s.arg.a) → exec .shootdownComplete s = .next s) ∧
    (∀ (l m : List Shoot) h, s.shoots = l ++ h :: m → h.id = s.arg.a → (∀ x ∈ l ++ m, x.id ≠ h.id) → let d := s.part h.part; let k := h.slot
      let under := fun (a : Word) => a.getLsbD 63 = false ∧ ∃ x ∈ h.ranges, x.1 ≤ a.toNat / 65536 ∧ a.toNat / 65536 < x.1 + x.2
      let slots := fun (j : Nat) => j ∈ s.slotKeys ∧ isSup (coreOf j) = false ∧ d.owns (clusterOf (coreOf j)) = true
      let waits := (∃ j, slots j ∧ ((s.slot j).stores ≠ [] ∨ (∃ ld n c, (s.slot j).park = .load ld n c ∧ under ld.addr) ∨ (∃ a, (s.slot j).park = .amo a ∧ under a.addr) ∨
          (∃ o a q r c w, (s.slot j).park = .barrier o a q r c w ∧ under a) ∨ (∃ i a c, (s.slot j).park = .clean i a c) ∨ ∃ b els f n c, (s.slot j).park = .fpush b els f n c ∧ ∃ x ∈ els, under x.1)) ∨
        ∃ cl, cl < 256 ∧ d.owns cl = true ∧ ∃ w ∈ (s.cluster cl).wq, under w.addr
      (waits → exec .shootdownComplete s = .next { s with deferred := true }) ∧
      (∀ rd c, ¬ waits → (s.slot k).park = .shoot rd h.id c → s.gives .shootdownComplete fun t => t.shoots = l ++ m ∧ (t.slot k).park = .run ∧ (t.slot k).retired = (s.slot k).retired + 1 ∧
        (t.slot k).pc = ((s.slot k).seq 4).pc ∧ (∀ q : Reg, (t.slot k).getX q = if q = 0 ∨ q = BitVec.ofNat 5 rd then 0 else (s.slot k).getX q) ∧ (∀ j, j ≠ k → t.slot j = s.slot j) ∧
        (∀ cl, cl < 256 → d.owns cl = true → ¬ t.translates cl h.first h.pages ∧ (t.cluster cl).l1 = []) ∧ ∀ cl, d.owns cl = false → t.cluster cl = s.cluster cl)) ∧
    (let v := s.arg.v; let p := s.arg.a; let x := s.slice p;
      s.gives .sliceRegisterWrite fun t => t = { s with launch := { s.launch with slices := t.launch.slices } } ∧ ∀ j, t.slice j = if j ≠ p then s.slice j else
        if s.arg.b = 0 then { x with slice := v.setWidth 32, armed := v.getLsbD 32, count := if v.getLsbD 32 then 0 else x.count } else { x with area := (v >>> 16).setWidth 32 }) ∧
    (let p := s.arg.a; let x := s.slice p; let ends := x.armed = true ∧ x.slice ≠ 0 ∧ x.slice.toNat ≤ x.count; let runs := ends ∧ (s.part p).known = true ∧ (s.part p).st.toNat < 2;
      (¬ ends → exec .sliceExpiry s = .next s) ∧
      (ends → ¬ runs → s.gives .sliceExpiry fun t => t = { s with launch := { s.launch with slices := t.launch.slices } } ∧ ∀ j, t.slice j = if j = p then { x with count := 0 } else s.slice j) ∧
      (runs → s.idlePart p = true → s.gives .sliceExpiry fun t => t = { s with launch := { s.launch with slices := t.launch.slices }, records := s.records ++ [⟨0x81, BitVec.ofNat 48 p, 0, BitVec.ofNat 64 x.count⟩] } ∧
        ∀ j, t.slice j = if j = p then { x with armed := false } else s.slice j) ∧
      (runs → s.idlePart p = false → s.gives .sliceExpiry fun t => (t.part p).st = 2 ∧ (t.slice p).armed = false ∧ (∃ y, find? t.saved p = some y ∧ y.moved = false ∧ y.area.toNat = x.area.toNat * 65536) ∧
        ∃ l r, t.records = l ++ [r] ∧ (r.cause = 0x80 ∨ r.cause = 0x82) ∧ r.info = BitVec.ofNat 48 p ∧ r.w1.toNat = x.area.toNat * 65536 ∧ r.w2 = BitVec.ofNat 64 x.count))

/-- The supervisor's instructions act or answer R122's status, invalidations complete, and time slices save their partition (R122, R123, R124, R151, R193, R318, R319, R320, R321). -/
def Obligations.SupervisorInstructionsAndSlices : Prop := supervisorInstructionsRules ∧ shootdownAndSlicesRules

/-! ## Astrolabe, containment, power and the configuration blocks (R4, R34, R36, R372 to R374, R382 to R396) -/

/-- `m'` is `m` with `v` at key `n`. -/
def Sys2Proof.Machine.mapIs {α : Type} (d : α) (n : Nat) (v : α) (m m' : SMap α) : Prop := ∀ j, look d m' j = if j = n then v else look d m j

/-- The mailbox has started request `op` on top of `u`: STATUS is to be `st` when BUSY clears, and the step that clears it stands out. -/
def Sys2Proof.Machine.State.starts (op st : Nat) (s u t : State) : Prop :=
  t = { u with chip := { u.chip with mail := some ⟨BitVec.ofNat 8 op, BitVec.ofNat 8 s.arg.a, s.arg.v.setWidth 48, BitVec.ofNat 8 st⟩ }, work := u.work ++ [⟨.mailboxRequestComplete, Arg.zero⟩] }

/-- `n` bytes of a record from byte `i` on, as a number. -/
def fieldAt (r : List Byte) (i n : Nat) : Nat := ofBytes ((r.drop i).take n)

/-- R383 to R388: the mailbox. Log entries 13, 27, 32 and 90 name what the model reads or chooses here: the moment of the effect, the bad arguments, the
buffer's root and the marker of a new key. -/
def mailboxRequestsRules : Prop :=
  (∀ s : State, let a := s.arg.a % 256; let buf := s.arg.v.toNat % 2 ^ 48; let base := buf / 64 * 64; let c := s.chip
    let ops : List (Sys2Proof.Instr × Nat) := [(.mailboxLoadkey, 1), (.mailboxErasekey, 2), (.mailboxLinkkey, 3), (.mailboxFlowkey, 4), (.mailboxJobstart, 5), (.mailboxJobend, 6), (.mailboxExtend, 7), (.mailboxInvalidOp, a)]
    let free := c.mail = none ∧ s.halted = none
    let reads := fun (l : List Byte) => ∃ h, s.bufHome base 32 .engineRead = some h ∧ s.homePoison h = false ∧ l = s.homeBytes h 32;
    let unread := ∀ h, s.bufHome base 32 .engineRead = some h → s.homePoison h = true;
    let zeroed := s.bufWrite 64 base (List.replicate 4096 0)
    (∀ i ∈ ops, c.mail.isSome = true → exec i.1 s = .next s) ∧
    (∀ i ∈ ops, c.mail = none → s.halted.isSome = true → s.gives i.1 (s.starts i.2 1 s)) ∧
    (free → (a = 0 → s.gives .mailboxLoadkey (s.starts 1 2 s) ∧ s.gives .mailboxErasekey (s.starts 2 2 s)) ∧
      (a ≠ 0 → (∃ m, s.gives .mailboxLoadkey (s.starts 1 0 { s with serial := s.serial + 1, chip := { c with keys := m } }) ∧ mapIs KeySlot.reset a ⟨true, (look KeySlot.reset c.keys a).loads + 1, s.serial + 1⟩ c.keys m) ∧
        ∃ m, s.gives .mailboxErasekey (s.starts 2 0 { s with chip := { c with keys := m } }) ∧ mapIs KeySlot.reset a { look KeySlot.reset c.keys a with loaded := false } c.keys m) ∧
      (8 ≤ a ∨ unread ∨ zeroed = none → s.gives .mailboxLinkkey (s.starts 3 2 s)) ∧ (unread ∨ zeroed = none → s.gives .mailboxFlowkey (s.starts 4 2 s)) ∧
      (∀ l u, reads l → zeroed = some u → let key : BitVec 256 := BitVec.ofNat 256 (ofBytes l); let keyed := fun (n : Nat) (m m' : SMap (BitVec 256)) => ∀ j, look 0 m' j = if j = 4 * n + 1 ∨ j = 4 * n + 2 then key else look 0 m j
        (a < 8 → ∃ m ps, s.gives .mailboxLinkkey (s.starts 3 0 { u with chip := { u.chip with linkKeys := m }, fabric := { u.fabric with ports := ps } }) ∧ keyed a u.chip.linkKeys m ∧
          ∃ f : Flit, f.marker = true ∧ f.head = true ∧ f.tail = true ∧ f.idle = false ∧ f.packet = none ∧ let x := look Port.reset u.fabric.ports a
            mapIs Port.reset a { x with nextKey := true, out := x.out ++ [f], epochOut := x.epochOut + 1, packetsOut := 0 } u.fabric.ports ps) ∧
        let n := a * 16 + buf % 16; let flows := fun (e : Nat × FarD) => e.2.valid = true ∧ e.2.flow.toNat = n
        ∃ m o nx, s.gives .mailboxFlowkey (s.starts 4 0 { u with chip := { u.chip with flowKeys := m, flowNext := nx }, fabric := { u.fabric with etherOut := o } }) ∧ keyed n u.chip.flowKeys m ∧
          ((∀ e ∈ u.fabric.far, ¬ flows e) → o = u.fabric.etherOut ∧ nx = u.chip.flowNext) ∧
          (risingKeys u.fabric.far = true → (∃ e ∈ u.fabric.far, flows e) → u.flowDown n = false → ∃ (e : Nat) (x : EthPkt), o = u.fabric.etherOut ++ [x] ∧ x.flow = n ∧ x.num = look 0 u.chip.flowNext n ∧ x.what = .rekey e ∧ mapIs 0 n (x.num + 1) u.chip.flowNext nx)) ∧
      (a < 4 ∨ 7 < a ∨ unread → s.gives .mailboxExtend (s.starts 7 2 s)) ∧
      (∀ l, reads l → 4 ≤ a → a ≤ 7 → ∃ m, s.gives .mailboxExtend (s.starts 7 0 { s with chip := { c with meas := m } }) ∧
        mapIs 0 a (sha3 (toBytes 32 (look 0 c.meas a).toNat ++ toBytes 32 (ofBytes l))) c.meas m) ∧
      s.gives .mailboxInvalidOp (s.starts a 2 s) ∧
      (unread → s.gives .mailboxJobstart (s.starts 5 2 s) ∧ s.gives .mailboxJobend (s.starts 6 2 s)) ∧
      (∀ l, reads l → let h : Word := BitVec.ofNat 64 (ofBytes (l.take 8)); let isOpen := ∃ e ∈ c.jobs, e.1 = h
        let signed := fun (kind : Nat) (start : BitVec 256) (r : List Byte) (u : State) => r = (s.jobRecord kind h (l.drop 16) start).1 ∧ State.bufWrite 44 base r { s with fresh := s.fresh + 1, chip := { c with counter := c.counter + 1, prev := sha3 r } } = some u;
        let unwritten := fun (kind : Nat) (start : BitVec 256) => State.bufWrite 44 base (s.jobRecord kind h (l.drop 16) start).1 (s.jobRecord kind h (l.drop 16) start).2 = none;
        (isOpen ∨ 64 ≤ c.jobs.length → s.gives .mailboxJobstart (s.starts 5 1 s)) ∧ (¬ isOpen → s.gives .mailboxJobend (s.starts 6 3 s)) ∧
        (¬ isOpen → c.jobs.length < 64 → (unwritten 1 0 → s.gives .mailboxJobstart (s.starts 5 2 s)) ∧
          ∀ r u, signed 1 0 r u → s.gives .mailboxJobstart (s.starts 5 0 { u with chip := { u.chip with jobs := u.chip.jobs ++ [(h, sha3 r)] } })) ∧
        (∀ d, (c.jobs.find? fun e => e.1 = h) = some (h, d) → (unwritten 2 d → s.gives .mailboxJobend (s.starts 6 2 s)) ∧
          ∀ r u, signed 2 d r u → s.gives .mailboxJobend (s.starts 6 0 { u with chip := { u.chip with jobs := u.chip.jobs.filter fun e => e.1 != h } })))) ∧
    (c.mail = none → exec .mailboxRequestComplete s = .next s) ∧
    (∀ m, c.mail = some m → exec .mailboxRequestComplete s = .next { s with chip := { c with mail := none, mstatus := m.status } })) ∧
  ∀ (s : State) (kind : Nat) (h : Word) (d : List Byte) (start : BitVec 256), kind < 4 → d.length = 16 → let r := (s.jobRecord kind h d start).1
    r.length = 2792 ∧ fieldAt r 0 4 = 0x4A534A52 ∧ fieldAt r 4 2 = 1 ∧ fieldAt r 6 1 = kind ∧ fieldAt r 7 1 = 0 ∧ fieldAt r 8 8 = h.toNat ∧ (r.drop 16).take 16 = d ∧ fieldAt r 32 8 = s.time.toNat ∧
    fieldAt r 40 8 = (s.chip.counter + 1).toNat ∧ fieldAt r 48 32 = s.chip.prev.toNat ∧ (∀ i, i < 8 → fieldAt r (80 + 32 * i) 32 = (look 0 s.chip.meas i).toNat) ∧ fieldAt r 336 32 = start.toNat ∧ fieldAt r 368 4 = 2420

/-- R382, R389, R391 to R393, R396: fatal errors, time and chip reset; log entries 5, 14, 15, 16, 33 and 55 name what the model reads or chooses here. -/
def fatalErrorsTimeAndChipResetRules : Prop :=
  (∀ s : State, let c := s.chip; let late := c.wdog + 10 ^ 9 ≤ s.cycle
    (late → exec .watchdogExpiry s = .next { s with halted := some 4 }) ∧ (¬ late → exec .watchdogExpiry s = .next s) ∧
    exec .astrolabeMemoryError s = .next { s with halted := some 3 } ∧
    (let t := s.arg.b; (110000 ≤ t → exec .thermalThreshold s = .next { s with halted := some 5 }) ∧ (t < 100000 → exec .thermalThreshold s = .next s) ∧
      (100000 ≤ t → t < 110000 → s.gives .thermalThreshold fun u => u = { s with clusters := u.clusters, chip := { c with thermal := s.cycle + 1 }, records := s.records ++ [⟨0xE0, BitVec.ofNat 48 s.arg.a, BitVec.ofNat 64 t, 0⟩] } ∧
        ∀ cl, u.cluster cl = if cl ∈ (List.range 16).map cornerOf then { s.cluster cl with budget := 8 } else s.cluster cl)) ∧
    (exec .timeCorrection s = .next { s with chip := { c with slew := if s.arg.ok then -(s.arg.a : Int) else s.arg.a } }) ∧
    ∀ n, let u := s.pass n; let most := (c.slewed + n) / 5000
      u = { s with cycle := s.cycle + n, time := u.time, chip := { c with slew := u.chip.slew, slewed := (c.slewed + n) % 5000 } } ∧
      ∃ k : Int, k.natAbs = min most c.slew.natAbs ∧ (0 ≤ c.slew → 0 ≤ k) ∧ (c.slew < 0 → k ≤ 0) ∧ u.chip.slew = c.slew - k ∧ (c.slewed < 5000 → 0 ≤ n + k) ∧ u.time = s.time + BitVec.ofNat 64 (n + k).toNat) ∧
  ∀ s : State, let bad := s.arg.a; let R := State.reset; let through := if 1 ≤ bad ∧ bad ≤ 4 then bad - 1 else 4
    s.gives .chipReset fun t => t.halted = (if 1 ≤ bad ∧ bad ≤ 4 then some (16 + bad) else none) ∧
      t.cores = R.cores ∧ t.clusters = R.clusters ∧ t.sectors = R.sectors ∧ t.launch = R.launch ∧ t.fabric = R.fabric ∧ t.parts = R.parts ∧ t.cycle = 0 ∧ t.time = 0 ∧ t.net = [] ∧ t.saved = [] ∧ t.l2 = [] ∧ t.full = [] ∧
      (∀ k, t.slot k = if k = 16384 ∧ 3 ≤ through then { Slot.reset with active := true, pc := evenPc Config.firmwareEntry } else R.slot k) ∧
      (∀ a, t.byteAt a = if a < 2 ^ 40 then s.byteAt a else 0) ∧ (∀ a, t.poisonAt a = if a < 2 ^ 40 then s.poisonAt a else false) ∧
      (let stage := fun (i : Nat) => if i = 1 then Config.tierResults (s.fresh + 1) s.chip.pendRep (s.chip.pendRep.filter fun e => !Config.repaired (s.fresh + 1) (rowEntry e)) else Config.firmware (s.fresh + i) (i + 1)
        ∀ i, look 0 t.chip.meas i = if i < through then sha3 (List.replicate 32 0 ++ toBytes 32 (stage i).toNat) else 0) ∧ t.chip.opened = decide (through = 4) ∧
      t.chip.counter = s.chip.counter ∧ t.chip.prev = s.chip.prev ∧ t.chip.keys = (if 1 ≤ bad ∧ bad ≤ 2 then [] else [(0, ⟨true, 1, 0⟩)]) ∧ t.chip.fhandle = [] ∧
      (let tier := ¬ (1 ≤ bad ∧ bad ≤ 2); let done := fun (e : Nat × BitVec 32) => Config.repaired (s.fresh + 1) (e.1, e.2 &&& ~~~0x7F#32)
        (¬ tier → t.chip.repair = s.chip.repair ∧ t.chip.pendRep = s.chip.pendRep ∧ t.errors = s.errors) ∧
        (tier → let stays := s.chip.pendRep.filter fun e => !done e; t.chip.repair = stays ∧ t.chip.pendRep = stays ∧
          ∀ line l, (line, l) ∈ t.errors ↔ (line, l) ∈ s.errors ∧ ¬ ∃ e ∈ s.chip.pendRep, done e = true ∧ e.1 = (Config.channelOf line).toNat ∧ e.2 &&& ~~~0x7F#32 = repairEntry line 0)) ∧
      t.chip.mgmt = s.chip.mgmt ++ (if bad = 1 then [] else [Mgmt.publicKey Config.publicKey]) ++ (if 1 ≤ bad ∧ bad ≤ 2 then [] else [Mgmt.erasures t.chip.repair]) ++ (if 1 ≤ bad ∧ bad ≤ 4 then [Mgmt.failed bad] else [])

/-- Astrolabe's mailbox requests, fatal errors, thermal threshold, time correction and chip reset (R382, R383, R384, R385, R386, R387, R388, R389, R391, R392, R393, R396). -/
def Obligations.AstrolabeRequestsAndEvents : Prop := mailboxRequestsRules ∧ fatalErrorsTimeAndChipResetRules

/-- A pending write goes into the scratchpad of one of the partition's clusters. -/
def Sys2Proof.Machine.Part.within (d : Part) (w : PendStore) : Bool := match w.home with
  | .sram k _ => d.owns k
  | _ => false

/-- R54, R322, R366, R371 to R374, R379, R394: containment reset and power; log entries 10, 12 and 30 name what the model reads or chooses here. -/
def Obligations.ContainmentAndPower : Prop :=
  (∀ s : State, let v := s.arg.v; let p := bitsAt v 0 8; let d := s.part p; let c := { s.chip with rstPart := BitVec.ofNat 8 p }; let go := v.getLsbD 8 = true ∧ s.chip.rstBusy = false ∧ p ≠ 0 ∧ d.known = true
    (¬ go → exec .containmentResetGo s = .next { s with chip := c }) ∧
    (go → s.net = [] → s.heldCommands p = [] → (∀ cl ∈ d.clusters, ∀ i < 8, (s.core (cl * 8 + i)).reorder = [] ∧ (s.core (cl * 8 + i)).held = [] ∧ ∀ j, 1 ≤ j → j < 4096 → (s.entry (cl * 8 + i) j).st ≠ 1 ∨ (s.entry (cl * 8 + i) j).role = 0) →
      s.gives .containmentResetGo fun t => (∀ q, t.part q = if q = p then { d with st := 3 } else s.part q) ∧ t.chip = { c with rstBusy := true } ∧ t.mem = s.mem ∧ t.net = [] ∧ (find? t.saved p).isNone = true ∧ ⟨.containmentResetComplete, arg1 p⟩ ∈ t.work ∧
        (∀ k, t.slot k = if isSup (coreOf k) = false ∧ d.owns (clusterOf (coreOf k)) = true then Slot.reset else (s.slot k).dropStores d.within) ∧
        (∀ k, t.core k = if k < 2048 ∧ d.owns (clusterOf k) = true then { s.core k with xq := [], mq := [], anon := [], queues := [] } else s.core k) ∧
        (∀ cl, t.cluster cl = if cl < 256 ∧ d.owns cl = true then { s.cluster cl with pending := [], engine0 := Engine.idle, engine1 := Engine.idle, array := none } else s.cluster cl) ∧
        (∀ e ∈ t.launch.queues, e.2.part.toNat = p → e.2.recs = []) ∧ (∀ e ∈ t.launch.comps, e.2.part.toNat = p → e.2.recs = [] ∧ e.2.arm = none ∧ e.2.regs = []) ∧
        (∀ e ∈ t.launch.events, e.2.part.toNat = p → e.2.count = 0 ∧ e.2.failed = false) ∧ (∀ x ∈ t.launch.exps, x.lrec.part ≠ p) ∧
        (∀ m ∈ t.fabric.members, ¬ (m.core < 2048 ∧ d.owns (clusterOf m.core) = true)) ∧ (∀ r ∈ t.fabric.rslots, ¬ ((s.group r.2.group).part.toNat = p ∧ (s.group r.2.group).children = 0)))) ∧
  (∀ (s : State) (p c i : Nat), let e := s.entry c i; e.quiet → 2 ≤ e.role → e.moved = false → s.insideRect p (s.numOf c) = true → s.isLocalPromise c i = false → s.forwarding c e.w2 = false →
    s.resolvedAt c i e (Resol.brk 8 (hWithKind e.w2 1) 0) false (s.resetEntry p c i)) ∧
  (∀ (s : State) (c : CopyCmd), let x := look XStat.empty ((s.breakHeld c).core c.core).xstat (c.id.toNat % 64); x.used = true ∧ x.id = c.id ∧ x.status = 5) ∧
  (∀ s : State, let p := s.arg.a; let d := s.part p
    (d.st ≠ 3 → exec .containmentResetComplete s = .next s) ∧
    (d.st = 3 → s.gives .containmentResetComplete fun t => (t.part p).st = 0 ∧ t.chip.rstBusy = false ∧ (∃ l, t.records = l ++ [⟨0xD0, BitVec.ofNat 48 p, BitVec.ofNat 64 d.clusters.length, 0⟩]) ∧
      (∀ n, n < 16 → d.owns (cornerOf n) = true → (t.sector n).bias = [] ∧ (t.sector n).gen = 0 ∧ (t.sector n).frozen = false) ∧
      (∀ k, isSup (coreOf k) = false → d.owns (clusterOf (coreOf k)) = true → t.slot k = Slot.reset) ∧
      ∀ cl, cl < 256 → d.owns cl = true → t.cluster cl = { Cluster.reset with wq := (t.cluster cl).wq } ∧ (s.net = [] → (t.cluster cl).wq = (s.cluster cl).wq) ∧ (∀ a, sramKey cl 0 ≤ a → a < sramKey cl 0x100000 → t.byteAt a = 0 ∧ t.poisonAt a = false ∧ t.fullAt a = false) ∧
        ∀ i, i < 8 → (∃ q, t.core (cl * 8 + i) = { Core.reset with quar := q }) ∧ (s.net = [] → (t.core (cl * 8 + i)).quar = true → (s.core (cl * 8 + i)).quar = true))) ∧
  (∀ s : State, let cl := s.arg.a; let k := s.cluster cl; let r : BitVec 2 := s.arg.v.setWidth 2
    (k.pbusy = true ∨ r = 3 → exec .clusterPowerRequest s = .next s) ∧
    (k.pbusy = false → r ≠ 3 → s.gives .clusterPowerRequest fun t => t = { s with clusters := t.clusters, work := if r = k.pstate then s.work else s.work ++ [⟨.clusterPowerChangeComplete, arg1 cl⟩] } ∧
      ∀ j, t.cluster j = if j ≠ cl then s.cluster j else if r = k.pstate then { k with req := r } else { k with req := r, pbusy := true }) ∧
    (k.pbusy = false → exec .clusterPowerChangeComplete s = .next s) ∧
    (let outstanding := (∃ i, i < 64 ∧ (s.slot (cl * 64 + i)).active = true) ∨ (∃ i, i < 8 ∧ ((s.core (cl * 8 + i)).xq ≠ [] ∨ (s.core (cl * 8 + i)).mq ≠ [] ∨ (s.core (cl * 8 + i)).epi.running.isSome = true)) ∨
        k.pending ≠ [] ∨ k.engine0.cmd.isSome = true ∨ k.engine1.cmd.isSome = true ∨ k.array.isSome = true;
      (k.pbusy = true → k.req = 2 → outstanding → exec .clusterPowerChangeComplete s = .next { s with deferred := true }) ∧
      (k.pbusy = true → ¬ (k.req = 2 ∧ outstanding) → s.gives .clusterPowerChangeComplete fun t => (∀ j, j ≠ cl → t.cluster j = s.cluster j) ∧ (t.cluster cl).pstate = k.req ∧ (t.cluster cl).req = k.req ∧ (t.cluster cl).pbusy = false ∧
        let clears := k.req = 0 ∨ k.pstate = 0
        (clears → (∀ a, sramKey cl 0 ≤ a → a < sramKey cl 0x100000 → t.byteAt a = 0 ∧ t.poisonAt a = false ∧ t.fullAt a = false) ∧ (t.cluster cl).l1 = []) ∧ (¬ clears → t.mem = s.mem ∧ t.poison = s.poison ∧ t.full = s.full) ∧
        (k.req = 0 → (∀ j, t.slot j = if j / 64 = cl then Slot.reset else s.slot j) ∧ t.cluster cl = { Cluster.reset with req := 0, pstate := 0 } ∧ ∀ i, i < 8 → (t.core (cl * 8 + i)).quar = (s.core (cl * 8 + i)).quar) ∧
        (k.req ≠ 0 → t.slots = s.slots ∧ t.cluster cl = { k with l1 := (t.cluster cl).l1, pstate := k.req, pbusy := false }))))

/-- Nothing but the entry of the block that a configuration write names, and the steps that stand out, has changed. -/
def Sys2Proof.Machine.State.onlyCore (c : Nat) (k : Core) (s t : State) : Prop :=
  t = { s with cores := t.cores, work := t.work } ∧ (∀ j, j ≠ c → t.core j = s.core j) ∧ t.core c = { k with queues := (t.core c).queues, anon := (t.core c).anon } ∧
  (t.core c).anon.map (fun q => { q with since := none }) = k.anon.map (fun q => { q with since := none }) ∧
  (risingKeys k.queues = true → ∀ i, (look [] (t.core c).queues i).map (fun q => { q with since := none }) = (look [] k.queues i).map (fun q => { q with since := none }))

/-- R4 and the register tables: CONFIG_REGISTER_WRITE. -/
def Obligations.ConfigurationWrites : Prop :=
  ∀ s : State, let off := s.arg.a; let v := s.arg.v; let i : Sys2Proof.Instr := .configRegisterWrite; let bv := fun (n w : Nat) => (BitVec.ofNat w (bitsAt v n w) : BitVec w)
    (∀ c, s.arg.blk = .core c → let k := s.core c; let stores := fun (x : Core) => s.gives i (s.onlyCore c x)
      (∀ n, n < 1024 → off = 8 * n → ∃ m, mapIs Handler.reset n ⟨evenPc (bv 0 48), bv 48 2, v.getLsbD 50, v.getLsbD 51⟩ k.handlers m ∧ stores { k with handlers := m }) ∧
      (∀ n, n < 16 → off = 0x2000 + 8 * n → ∃ m, mapIs ClassD.reset n ⟨v.getLsbD 0, v.getLsbD 1, bv 2 4, v.getLsbD 6⟩ k.classes m ∧ stores { k with classes := m }) ∧
      (∀ n, n < 16 → off = 0x2100 + 16 * n → ∃ m, mapIs Region.reset n ⟨bv 0 20, bv 20 21, bv 41 8, v.getLsbD 49, false, false, (look Region.reset k.regions n).name⟩ k.regions m ∧ stores { k with regions := m }) ∧
      (∀ n, n < 16 → off = 0x2108 + 16 * n → ∃ m, mapIs Region.reset n { look Region.reset k.regions n with name := v } k.regions m ∧ stores { k with regions := m }) ∧
      (off = 0x2200 → stores { k with htbase := bv 0 48 }) ∧ (off = 0x2300 → stores { k with agesint := bv 0 24 }) ∧ (0x2308 ≤ off → stores k)) ∧
    (∀ c, s.arg.blk = .cluster c → let k := s.cluster c; let stores := fun (x : Cluster) => s.gives i fun t => t = { s with clusters := t.clusters } ∧ ∀ j, t.cluster j = if j = c then x else s.cluster j
      (∀ n, n < 16 → off = 16 * n → ∃ m, mapIs Region.reset n ⟨bv 0 20, bv 20 21, bv 41 8, v.getLsbD 49, v.getLsbD 50, v.getLsbD 51, (look Region.reset k.prot n).name⟩ k.prot m ∧ stores { k with prot := m }) ∧
      (off = 0x300 → ∃ m, (∀ j, j < 8 → look 0 m j = bv (4 * j) 4) ∧ stores { k with weights := m }) ∧ (off = 0x308 → stores (if s.chip.thermal = s.cycle + 1 then k else { k with budget := bv 0 8 })) ∧
      (off = 0x310 → stores { k with biaspart := bv 0 8 }) ∧ (0x318 ≤ off → stores k)) ∧
    (s.arg.blk = .launch → let l := s.launch
      (∀ n, n < 16 → off = 0x80 + 8 * n → ∃ m, mapIs CQueue.reset n { look CQueue.reset l.comps n with part := bv 0 8, en := v.getLsbD 8 } l.comps m ∧ exec i s = .next { s with launch := { l with comps := m } }) ∧
      (∀ n, n < 4096 → off = 0x1000 + 8 * n → let e := look EvReg.reset l.events n
        ∃ m, mapIs EvReg.reset n { e with count := bv 0 32, part := bv 32 8, group := bv 40 12, gbind := v.getLsbD 52, failed := e.failed && !v.getLsbD 53 } l.events m ∧
          exec i s = .next { s with launch := { l with events := m }, work := s.work ++ [⟨.launchRecordTake, Arg.zero⟩] })) ∧
    (s.arg.blk = .fabric → let F := s.fabric; let stores := fun (f : Fabric) => exec i s = .next { s with fabric := f }
      (∀ n, n < 1024 → off = 256 * n → ∃ m, mapIs TxEnt.reset n { look TxEnt.reset F.tx n with valid := v.getLsbD 0, part := bv 1 8, size := bv 13 21 } F.tx m ∧ stores { F with tx := m }) ∧
      (∀ n, n < 1024 → off = 0x40000 + 64 * n → let e := look RxEnt.reset F.rx n; let e' := { e with loopback := v.getLsbD 2, redok := v.getLsbD 3 }
        ∃ m, mapIs RxEnt.reset n (if e.st = 0 then { e' with sendmap := v.getLsbD 4, part := bv 5 8, keyslot := bv 13 8, gen := bv 21 16, size := bv 37 21 } else e') F.rx m ∧ stores { F with rx := m }) ∧
      (∀ n, n < 256 → off = 0x60000 + 8 * n → ∃ m, mapIs RGroup.reset n { look RGroup.reset F.rates n with rate := bv 0 20, max := bv 20 20 } F.rates m ∧ stores { F with rates := m }) ∧
      (∀ n, n < 4096 → off = 0x80000 + 32 * n → let g := { look Group.reset F.groups n with valid := v.getLsbD 0 }; let busy := ∃ r ∈ F.rslots, r.2.group = n
        ∃ m, (busy → mapIs Group.reset n g F.groups m) ∧ (¬ busy → mapIs Group.reset n { g with part := bv 1 8, op := bv 9 4, parent := bv 13 4, children := bv 17 8 } F.groups m) ∧ stores { F with groups := m }) ∧
      (∀ n, n < 16384 → off = 0xA0000 + 4 * n → ∃ m, mapIs 0 n (bv 0 18) F.routes m ∧ stores { F with routes := m, routesSet := true }) ∧
      (off = 0x61000 → stores { F with closetmo := bv 0 16, placetmo := bv 16 16, msglife := bv 32 16 }) ∧ (off = 0x70000 → stores { F with coord := bv 0 28, coordSet := true })) ∧
    (s.arg.blk = .chip → let c := s.chip; let stores := fun (x : Chip) => exec i s = .next { s with chip := x }
      (∀ n, n < 4 → off = 0x200 + 8 * n → ∃ a : BitVec 256, (∀ b, b < 256 → a.getLsbD b = if b / 64 = n then v.getLsbD (b % 64) else c.paction.getLsbD b) ∧ stores { c with paction := a }) ∧
      (∀ p, 1 ≤ p → p < 256 → off = 0xC00 + 8 * p → ∃ m, mapIs 0 p v c.fhandle m ∧ stores { c with fhandle := m }) ∧
      (off = 0 → stores { c with sqbase := bv 0 48, sqlog := bv 48 4 }) ∧ (off = 8 → stores { c with sqhead := bv 0 32 }) ∧ (off = 0x10 → stores { c with lost := c.lost &&& ~~~(bv 0 32) }) ∧
      (off = 0x100 → stores { c with rstPart := bv 0 8 }) ∧ (off = 0x310 → stores { c with wdog := s.cycle }) ∧ (off = 0x1800 → stores { c with fullEn := v.getLsbD 0, fullBase := bv 34 6 })) ∧
    (∀ p, s.arg.blk = .partition p → let d := s.part p; let stores := fun (x : Part) => s.gives i fun t => t = { s with parts := t.parts } ∧ ∀ j, t.part j = if j = p then x else s.part j
      (off = 0 → stores { d with partno := bv 0 8, known := decide (bitsAt v 0 8 = p) && decide (p ≠ 0), collo := bv 8 4, rowlo := bv 12 4, colhi := bv 16 4, rowhi := bv 20 4, key := bv 24 14, keyslot := bv 38 8 }) ∧
      (off = 8 → stores { d with runlimit := bv 0 32, gbase := bv 32 12, gcount := bv 44 13 }) ∧ (off ≠ 0 → off ≠ 8 → stores d)) ∧
    (∀ n, s.arg.blk = .supervisor n → exec i s = .next s) ∧
    let reads := fun (mask : Nat) => s.gives i fun t => t.configRead s.arg.blk off = v &&& BitVec.ofNat 64 mask; let zero := s.configRead s.arg.blk off = 0
    (∀ c, s.arg.blk = .core c → (off % 8 = 0 → off < 0x2000 → reads (2 ^ 52 - 2)) ∧ (∀ n, n < 16 → (off = 0x2000 + 8 * n → reads 0x7F) ∧ (off = 0x2100 + 16 * n → reads (2 ^ 50 - 1)) ∧ (off = 0x2108 + 16 * n → reads (2 ^ 64 - 1))) ∧
      (off = 0x2200 → reads (2 ^ 48 - 1)) ∧ (off = 0x2300 → reads (2 ^ 24 - 1)) ∧ (0x2308 ≤ off → zero)) ∧
    (∀ c, s.arg.blk = .cluster c → (∀ n, n < 16 → off = 16 * n → reads (2 ^ 52 - 1)) ∧ (off = 0x300 → reads (2 ^ 32 - 1)) ∧ (off = 0x310 → reads 0xFF) ∧ (0x328 ≤ off → zero)) ∧
    (∀ p, s.arg.blk = .partition p → (off = 0 → s.gives i fun t => t.configRead s.arg.blk off = (v &&& BitVec.ofNat 64 (2 ^ 46 - 1)) ||| ((t.stateOf p).setWidth 64 <<< 46)) ∧ (off = 8 → reads (2 ^ 57 - 1)) ∧ (16 ≤ off → zero)) ∧
    (s.arg.blk = .chip → (off = 0x1800 → reads (0x3F * 2 ^ 34 + 1)) ∧ (∀ n, n < 4 → off = 0x200 + 8 * n → reads (2 ^ 64 - 1)) ∧ (off = 0x310 → zero))

/-! ## Steps, words, reset and the whole machine (R3, R27, R61, R62, R63, R390 to R394) -/

/-- The bytes `l` of the instruction at `pc` are fetched for core `c`, two at a time, and leave state `u` (R61). -/
def Sys2Proof.Machine.State.fetches (c : Nat) (pc : BitVec 48) (s u : State) (l : List Byte) : Prop :=
  ∃ h v, s.check c (pc.setWidth 64) 2 .fetch = (.ok h, v) ∧ v.homePoison h = false ∧
    if ((v.homeBytes h 2).headD 0).toNat % 2 = 0 then u = v ∧ l = v.homeBytes h 2
    else ∃ g, v.check c ((pc + 2).setWidth 64) 2 .fetch = (.ok g, u) ∧ u.homePoison g = false ∧ l = v.homeBytes h 2 ++ u.homeBytes g 2

/-- Slot `k` is in hand: its core last issued from it, in this cycle, and its results of latency that are due have landed (R27, R71). -/
def Sys2Proof.Machine.State.inHand (k : Nat) (s : State) : State :=
  ({ s with cur := k, arg := Arg.zero }.modCore (coreOf k) fun c => { c with last := k % 8, issued := s.cycle + 1 }).modSlot k (Slot.landBy s.cycle)

/-- An issue of slot `k` at `s` comes to `r`: the decoded instruction runs, unless the check of its operands traps, or the step of an illegal word or of a failed fetch does. -/
def Sys2Proof.Machine.State.issues (k : Nat) (s : State) (r : Host.Outcome State Fault Refusal) : Prop :=
  let b := s.inHand k; let c := coreOf k; let pc := (b.slot k).pc
  let faults := fun (u : State) (cause : Nat) (e : Option Nat) (a : Word) =>
    exec .instructionFetchFault { u with arg := { Arg.zero with a := cause, b := (match e with | none => 0 | some x => x + 1), v := a }, rank := issueRank k .instructionFetchFault }
  (∀ u l i n, b.fetches c pc u l → decode l = .instr i n →
    ((u.core c).scheck = false ∨ u.turnedAway i = true ∨ u.me.early u.cycle i = none → r = exec i { u with rank := issueRank k i }) ∧
    ∀ p, (u.core c).scheck = true → u.turnedAway i = false → u.me.early u.cycle i = some p → r = .next { u.trap cSTALLSHORT (p.setWidth 64) with rank := rankAt (if isSup c then 2 else 1) k }) ∧
  (∀ u l w n, b.fetches c pc u l → decode l = .illegal w n → r = exec .illegalInstruction { u with arg := { Arg.zero with v := w.setWidth 64 }, rank := issueRank k .illegalInstruction }) ∧
  (∀ h v, b.check c (pc.setWidth 64) 2 .fetch = (.ok h, v) → v.homePoison h = true → r = faults b cPOISON none (pc.setWidth 64)) ∧
  (∀ h v, b.check c (pc.setWidth 64) 2 .fetch = (.ok h, v) → v.homePoison h = false → ((v.homeBytes h 2).headD 0).toNat % 2 = 1 → let pc := (pc + 2).setWidth 64
    (∀ cause e w, v.check c pc 2 .fetch = (.bad cause e, w) → r = faults v cause e pc) ∧ ∀ g w, v.check c pc 2 .fetch = (.ok g, w) → w.homePoison g = true → r = faults v cPOISON none pc) ∧
  ∀ cause e v, b.check c (pc.setWidth 64) 2 .fetch = (.bad cause e, v) → r = faults b cause e (pc.setWidth 64)

/-- R6, R27, R61, R63, R72: what a step does. -/
def Obligations.StepRunsTheDecodedInstruction : Prop :=
  ∀ s : State, s.halted = none →
    let inTime := fun (t : Turn) (b : State) => if b.tooLate t then b.advanceTime 1 else b
    (∀ c l, s.agenda = .issue c :: l → let b := inTime (.issue c) { s with agenda := l }
      (∀ k, b.select c = some k → ∃ r, step s = settled s r ∧ b.issues k r) ∧ (b.select c = none → step s = settled s (.next b))) ∧
    (∀ n l, s.agenda = .tick n :: l → step s = settled s (.next (({ s with agenda := l } : State).advanceTime n))) ∧
    (∀ e l n, s.agenda = .event e :: l → let b := inTime (.event e) { s with agenda := l }
      b.eventRank e = some n → ∃ r, r = exec e.i { b with arg := e.arg, deferred := false, rank := n } ∧ ∀ t, r = .next t → step s = settled s (.next { t with deferred := false })) ∧
    (s.agenda = [] → let mine := if s.tooLate (.issue s.focus) then none else s.coreRank s.focus
      (s.todo = [] → mine = none → step s = settled s (.next (s.advanceTime 1))) ∧
      (∀ n k, mine = some n → s.select s.focus = some k → (∀ e l, s.todo = e :: l → n < (s.eventRank e).getD 0) → ∃ r, step s = settled s r ∧ s.issues k r) ∧
      (∀ e l, s.todo = e :: l → (∀ n, mine = some n → (s.eventRank e).getD 0 ≤ n) → let b := { s with todo := l }
        (b.tooLate (.event e) = true → step s = settled s (.next { b with work := s.work ++ [e] })) ∧
        (∀ m, b.tooLate (.event e) = false → b.eventRank e = some m → ∃ r, r = exec e.i { b with arg := e.arg, deferred := false, rank := m } ∧
          ∀ t, r = .next t → step s = settled s (.next (if t.deferred then { t with work := t.work ++ [e], deferred := false } else t)))))

/-- R61 to R63: sample words. -/
def Obligations.WordsDecodeAsTheTablesSay : Prop :=
  (∀ e ∈ ([(0xEA107303, .lea 6 7 8 3 0), (0x0F00A487, .andi 9 10 0x0F0 0), (0x83F05291, .srai 5 5 63 0), (0x12345293, .lui 5 0x12345), (0x04006297, .popc 5 6 0), (0x08E0739B, .bexn 7 7 14 2 0), 
    (0x040C511F, .psetLt 2 5 6 0), (0xFF831521, .blt 5 6 0xFF8), (0xFFFFC123, .bpt 2 0xFFFFC), (0x000140A5, .jal 1 0x14), (0x00001027, .jalr 0 1 0 0), (0x00409029, .loop 9 4 0), 
    (0x0150002B, .sys 5 0), (0x0020002B, .tret 0), (0x031003AD, .ctlrd 7 0x031), (0xFFC2A4B1, .ldn 9 10 1 0x3FF 0), (0x00065237, .fst 4 5 3 0 0), (0x000064B9, .ldsync 9 6 0), 
    (0x000C53BB, .stnib 7 5 6 0), (0x92CC543D, .amoCas 8 5 6 1 1 0 2), (0x8000133F, .fence 6 1 2 0), (0x8200003F, .acq 2 0), (0x1A0C5A41, .arrx 20 5 6 1 0), (0x00123043, .gjoin 0x123 0), 
    (0x000C7445, .inv 8 7 6 0), (0x12006045, .replyDatum 6 0), (0x120800C9, .fmul 1 0 4 1 0), (0x68C4134B, .fma 6 1 2 3 1 3), (0x320A454D, .fcmp 2 1 4 5 1 0), (0x100083CF, .fcvt 7 8 0 0 1 0), 
    (0x020C5051, .sscfg 0 5 6 1 0), (0x08020053, .mma 0 1 0 0), (0x30009453, .mtopk 8 9 0), (0x021C4055, .merLoadCand 4 14 0), (0x28293055, .merOut 19 20 0), (0x00004157, .lqPush 2 4 0), 
    (0x180684D7, .cqPop 9 8 3 0), (0x08005859, .rflush 16 5 0), (0x3016A4DB, .tlbinv 9 10 11 0)] : List (Nat × Sys2Proof.Instr)), decodeTableWord 32 e.1 = some e.2) ∧
  (∀ e ∈ ([(0x18A2, .cAdd 5 6), (0xFCA6, .cAddi 5 0x3F), (0x98F4, .cSd 7 6 1), (0xF8B6, .cBeqz 5 0x3E), (0xFFBA, .cJ 0x7FD), (0x001C, .cDone)] : List (Nat × Sys2Proof.Instr)), decodeTableWord 16 e.1 = some e.2) ∧
  (∀ w ∈ ([0x40000003, 0x2E000003, 0x00000001, 0x0040902B, 0x040C551F] : List Nat), decodeTableWord 32 w = none) ∧ ∀ w ∈ ([0x0000, 0x98A2, 0x003C, 0x001E] : List Nat), decodeTableWord 16 w = none

/-- R61 to R63: encoding and decoding agree, both ways. -/
def Obligations.EncodingRoundTrips : Prop :=
  (∀ i : Sys2Proof.Instr, i.wf = true → i.encoded = true → ∃ w l, encodeWord i = some w ∧ w < 2 ^ (8 * i.len) ∧ w % 2 = (if i.len = 2 then 0 else 1) ∧ decodeWord w = some i ∧
    encode i = some l ∧ l.length = i.len ∧ ∀ rest, decode (l ++ rest) = .instr i i.len) ∧
  ∀ (w : Nat) (i : Sys2Proof.Instr), w < (if w % 2 = 0 then 2 ^ 16 else 2 ^ 32) → decodeWord w = some i → i.wf = true ∧ i.encoded = true ∧ encodeWord i = some w ∧ i.len = if w % 2 = 0 then 2 else 4

/-- R391, R392, R394 and the reset columns of the register tables. -/
def Obligations.ResetState : Prop :=
  let s := State.reset
  s.cycle = 0 ∧ s.time = 0 ∧ s.halted = none ∧ Memory.wf s.mem = true ∧ s.chip.ratestep = 0x64 ∧ s.net = [] ∧ s.chip.rstBusy = false ∧ s.chip.mail = none ∧ s.chip.fullEn = false ∧
  (∀ a, s.byteAt a = 0 ∧ s.poisonAt a = false ∧ s.fullAt a = false) ∧
  (∀ k, (s.slot k).active = false ∧ (s.slot k).retired = 0 ∧ (s.slot k).intrap = false ∧ (s.slot k).vec = 0 ∧ ∀ q : Reg, (s.slot k).getX q = 0 ∧ (s.slot k).getF q = 0) ∧
  (∀ c, (s.core c).agesint = 0x7D0 ∧ (s.core c).flags = 0 ∧ (s.core c).scheck = false ∧ (s.core c).quar = false ∧ (s.core c).htbase = 0 ∧
    (s.core c).queues = [] ∧ (s.core c).anon = [] ∧ (s.core c).mq = [] ∧ (s.core c).xq = [] ∧ (s.core c).reorder = [] ∧ (s.core c).held = []) ∧ s.launch.exps = [] ∧
  (∀ c, (s.cluster c).pstate = 0 ∧ (s.cluster c).req = 0 ∧ (s.cluster c).pbusy = false ∧ (s.cluster c).en = false ∧ ∀ b, (s.bank c b).role = 0 ∧ (s.bank c b).fmt = 0 ∧ (s.bank c b).busy = false) ∧
  (∀ p, (s.part p).known = false ∧ (s.part p).st = 0) ∧ (∀ k, s.keyLoaded k = false) ∧
  (∀ q, (s.lqueue q).en = false ∧ (s.lqueue q).recs = [] ∧ (s.cqueue q).en = false ∧ (s.cqueue q).recs = [] ∧ (s.cqueue q).arm = none ∧ (s.cqueue q).regs = [] ∧
    (s.event q).count = 0 ∧ (s.event q).part = 0 ∧ (s.event q).gbind = false ∧ (s.event q).failed = false ∧ (s.slice q).armed = false ∧ (s.slice q).slice = 0) ∧
  ∀ n, (look TxEnt.reset s.fabric.tx n).valid = false ∧ (look RxEnt.reset s.fabric.rx n).st = 0 ∧ (look Group.reset s.fabric.groups n).valid = false ∧ look 0 s.fabric.routes n = 0

/-- R390 and R391: what stops, and what starts again. -/
def Obligations.OnlyAFatalErrorStopsTheChip : Prop :=
  (∀ (i : Sys2Proof.Instr) (s : State), ∃ t, exec i s = .next t) ∧
  ∀ s : State, (s.halted = none → ∃ t, step s = .next t) ∧
    (s.halted.isSome = true → (∀ a l, s.agenda = .event ⟨.chipReset, a⟩ :: l → ∃ t, step s = .next t) ∧
      ((∀ a l, s.agenda ≠ .event ⟨.chipReset, a⟩ :: l) → step s = .fault .chipHalted))

/-- The canonical form of memory (MEMORY, log entry 2) is kept by every step. -/
def Obligations.EveryStepKeepsMemoryCanonical : Prop :=
  ∀ s t : State, Memory.wf s.mem = true → step s = .next t → Memory.wf t.mem = true
end

