-- ==== Sys2Proof/Laws/SMap.lean ====
section
/-! SUPPORT. The laws of sparse maps: reading after a write, and the rising order of keys that every operation keeps. -/

namespace Sys2Proof.Machine

variable {α : Type}

@[simp] theorem look_nil (d : α) (k : Nat) : look d [] k = d := rfl

@[simp] theorem look_put_same (d : α) (k : Nat) (v : α) (m : SMap α) : look d (put k v m) k = v := by
  induction m with
  | nil => simp [put, look]
  | cons e m ih =>
    obtain ⟨k', v'⟩ := e
    simp only [put]
    split
    · simp [look]
    · split
      · simp [look]
      · rename_i h1 h2
        rw [look, if_neg (Ne.symm h2), ih]

theorem look_put_other (d : α) {k j : Nat} (h : j ≠ k) (v : α) (m : SMap α) : look d (put k v m) j = look d m j := by
  induction m with
  | nil => simp [put, look, Ne.symm h]
  | cons e m ih =>
    obtain ⟨k', v'⟩ := e
    simp only [put]
    split
    · rw [look, if_neg (Ne.symm h)]
    · split
      · rename_i h1 h2
        subst h2
        simp [look, Ne.symm h]
      · simp only [look, ih]

theorem look_put (d : α) (k j : Nat) (v : α) (m : SMap α) : look d (put k v m) j = if j = k then v else look d m j := by
  split
  · subst j; exact look_put_same ..
  · exact look_put_other d ‹_› v m

@[simp] theorem put_put (k : Nat) (v w : α) (m : SMap α) : put k v (put k w m) = put k v m := by
  induction m with
  | nil => simp [put]
  | cons e m ih =>
    obtain ⟨k', v'⟩ := e
    simp only [put]
    split
    · simp [put]
    · split
      · simp [put]
      · rename_i h1 h2; simp [put, h1, h2, ih]

theorem look_del_other (d : α) {k j : Nat} (h : j ≠ k) (m : SMap α) : look d (del k m) j = look d m j := by
  induction m with
  | nil => rfl
  | cons e m ih =>
    obtain ⟨k', v'⟩ := e
    by_cases hk : k' = k
    · subst hk
      simp only [del, List.filter_cons, bne_self_eq_false, Bool.false_eq_true, if_false, look, if_neg (Ne.symm h)]
      exact ih
    · have : (k' != k) = true := by simpa using hk
      simp only [del, List.filter_cons, this, if_true, look]
      split
      · rfl
      · exact ih

theorem look_del_same (d : α) (k : Nat) (m : SMap α) : look d (del k m) k = d := by
  induction m with
  | nil => rfl
  | cons e m ih =>
    obtain ⟨k', v'⟩ := e
    by_cases hk : k' = k
    · subst hk
      simp only [del, List.filter_cons, bne_self_eq_false, Bool.false_eq_true, if_false]
      exact ih
    · have : (k' != k) = true := by simpa using hk
      simp only [del, List.filter_cons, this, if_true, look, if_neg hk]
      exact ih

/-! ## Rising keys -/

theorem risingKeys_cons (e : Nat × α) (m : SMap α) :
    risingKeys (e :: m) = true ↔ (∀ x ∈ m, e.1 < x.1) ∧ risingKeys m = true := by
  induction m generalizing e with
  | nil => simp [risingKeys]
  | cons x m ih =>
    obtain ⟨k, v⟩ := e
    obtain ⟨k', v'⟩ := x
    simp only [risingKeys, Bool.and_eq_true, decide_eq_true_eq]
    rw [ih]
    constructor
    · rintro ⟨h, h2, h3⟩
      refine ⟨?_, h2, h3⟩
      intro x hx
      rcases List.mem_cons.1 hx with rfl | hx
      · exact h
      · exact lt_trans h (h2 x hx)
    · rintro ⟨h, h2, h3⟩
      exact ⟨h _ (List.mem_cons_self ..), h2, h3⟩

theorem mem_put {k : Nat} {v : α} {m : SMap α} {x : Nat × α} (h : x ∈ put k v m) : x = (k, v) ∨ x ∈ m := by
  induction m with
  | nil => simpa [put] using h
  | cons e m ih =>
    obtain ⟨k', v'⟩ := e
    simp only [put] at h
    split at h
    · simpa using h
    · split at h
      · rcases List.mem_cons.1 h with h | h
        · exact .inl h
        · exact .inr (List.mem_cons_of_mem _ h)
      · rcases List.mem_cons.1 h with h | h
        · exact .inr (h ▸ List.mem_cons_self ..)
        · exact (ih h).imp_right (List.mem_cons_of_mem _)

theorem risingKeys_put (k : Nat) (v : α) {m : SMap α} (h : risingKeys m = true) : risingKeys (put k v m) = true := by
  induction m with
  | nil => simp [put, risingKeys]
  | cons e m ih =>
    obtain ⟨k', v'⟩ := e
    have hm := (risingKeys_cons _ _).1 h
    simp only [put]
    split
    · refine (risingKeys_cons _ _).2 ⟨?_, h⟩
      intro x hx
      rcases List.mem_cons.1 hx with rfl | hx
      · assumption
      · exact lt_trans ‹k < k'› (hm.1 x hx)
    · split
      · rename_i h2
        subst h2
        exact (risingKeys_cons _ _).2 hm
      · refine (risingKeys_cons _ _).2 ⟨?_, ih hm.2⟩
        intro x hx
        rcases mem_put hx with rfl | hx
        · show k' < k
          omega
        · exact hm.1 x hx

theorem risingKeys_filter (p : Nat × α → Bool) {m : SMap α} (h : risingKeys m = true) : risingKeys (m.filter p) = true := by
  induction m with
  | nil => rfl
  | cons e m ih =>
    have hm := (risingKeys_cons _ _).1 h
    rw [List.filter_cons]
    split
    · exact (risingKeys_cons _ _).2 ⟨fun x hx => hm.1 x (List.mem_of_mem_filter hx), ih hm.2⟩
    · exact ih hm.2

theorem risingKeys_del (k : Nat) {m : SMap α} (h : risingKeys m = true) : risingKeys (del k m) = true :=
  risingKeys_filter _ h

end Sys2Proof.Machine
end

