-- ==== Sys2Proof/Laws/Memory.lean ====
section
/-! SUPPORT. The laws of the byte space: a read after a write, bytes left alone, and the canonical form that every operation keeps. -/

namespace Sys2Proof.Machine

/-! ## Reading after a write -/

theorem Memory.get_set (k j : Nat) (b : Byte) (m : List Host.Cell) :
    Memory.get (Memory.set k b m) j = if j = k then b else Memory.get m j := by
  unfold Memory.get Memory.set
  by_cases hb : b = Memory.unlisted
  · rw [if_pos hb]
    split
    · subst j; rw [look_del_same, hb]
    · exact look_del_other _ ‹_› m
  · rw [if_neg hb]; exact look_put ..

/-- Writing `l` at `k` changes the bytes from `k` to `k + l.length - 1` alone. -/
theorem Memory.get_setList_other {k j : Nat} {l : List Byte} (h : j < k ∨ k + l.length ≤ j) (m : List Host.Cell) :
    Memory.get (Memory.setList k l m) j = Memory.get m j := by
  induction l generalizing k m with
  | nil => rfl
  | cons b l ih =>
    have hl : (b :: l).length = l.length + 1 := rfl
    rw [Memory.setList, ih (by omega), Memory.get_set, if_neg (by omega)]

theorem Memory.get_setList {k i : Nat} {l : List Byte} (h : i < l.length) (m : List Host.Cell) :
    Memory.get (Memory.setList k l m) (k + i) = l[i] := by
  induction l generalizing k i m with
  | nil => simp at h
  | cons b l ih =>
    cases i with
    | zero => rw [Memory.setList, Memory.get_setList_other (.inl (by omega)), Memory.get_set]; simp
    | succ i =>
      have : k + (i + 1) = k + 1 + i := by omega
      rw [Memory.setList, this, ih (by simpa using h)]
      simp

theorem Memory.getList_length (m : List Host.Cell) (k n : Nat) : (Memory.getList m k n).length = n := by
  induction n generalizing k with
  | zero => rfl
  | succ n ih => simp [Memory.getList, ih]

/-- What was written is read back. -/
theorem Memory.getList_setList (k : Nat) (l : List Byte) (m : List Host.Cell) :
    Memory.getList (Memory.setList k l m) k l.length = l := by
  suffices ∀ (n k : Nat) (m : List Host.Cell), (∀ i (h : i < l.length), Memory.get m (k + i) = l[i]) → n ≤ l.length →
      Memory.getList m (k + (l.length - n)) n = l.drop (l.length - n) by
    have := this l.length k (Memory.setList k l m) (fun i h => Memory.get_setList h m) (le_refl _)
    simpa using this
  intro n
  induction n with
  | zero => intros; simp [Memory.getList]
  | succ n ih =>
    intro k m h hn
    have hi : l.length - (n + 1) < l.length := by omega
    rw [Memory.getList, List.drop_eq_getElem_cons hi, h _ hi]
    have e1 : k + (l.length - (n + 1)) + 1 = k + (l.length - n) := by omega
    have e2 : l.length - (n + 1) + 1 = l.length - n := by omega
    rw [e1, e2, ih k m h (by omega)]

theorem look_filter (d : Byte) (p : Nat → Bool) (m : List Host.Cell) (j : Nat) :
    look d (m.filter fun e => p e.1) j = if p j then look d m j else d := by
  induction m with
  | nil => simp [look]
  | cons e m ih =>
    obtain ⟨k, v⟩ := e
    by_cases hk : k = j
    · subst hk
      by_cases hp : p k = true
      · simp [hp, look]
      · rw [List.filter_cons_of_neg (by simpa using hp), ih, if_neg hp, if_neg hp]
    · by_cases hp : p k = true
      · simp only [List.filter_cons, hp, if_true, look, if_neg hk, ih]
      · rw [List.filter_cons_of_neg (by simpa using hp), ih, look, if_neg hk]

theorem Memory.get_drop (k n j : Nat) (m : List Host.Cell) :
    Memory.get (Memory.drop k n m) j = if k ≤ j ∧ j < k + n then 0 else Memory.get m j := by
  unfold Memory.get Memory.drop
  rw [look_filter Memory.unlisted (fun x => !(decide (k ≤ x) && decide (x < k + n))) m j]
  by_cases h : k ≤ j ∧ j < k + n
  · simp [h, Memory.unlisted]
  · rw [if_neg h, if_pos]
    simp only [Bool.not_eq_true', Bool.and_eq_false_iff, decide_eq_false_iff_not]
    omega

/-! ## The canonical form -/

theorem Memory.wf_iff (m : List Host.Cell) : Memory.wf m = true ↔ risingKeys m = true ∧ ∀ e ∈ m, e.2 ≠ Memory.unlisted := by
  simp [Memory.wf, List.all_eq_true]

theorem Memory.wf_nil : Memory.wf [] = true := rfl

theorem Memory.wf_filter (p : Host.Cell → Bool) {m : List Host.Cell} (h : Memory.wf m = true) : Memory.wf (m.filter p) = true := by
  rw [Memory.wf_iff] at *
  exact ⟨risingKeys_filter p h.1, fun e he => h.2 e (List.mem_of_mem_filter he)⟩

theorem Memory.wf_set (k : Nat) (b : Byte) {m : List Host.Cell} (h : Memory.wf m = true) : Memory.wf (Memory.set k b m) = true := by
  unfold Memory.set
  split
  · exact Memory.wf_filter _ h
  · rw [Memory.wf_iff] at *
    refine ⟨risingKeys_put k b h.1, fun e he => ?_⟩
    rcases mem_put he with rfl | he
    · assumption
    · exact h.2 e he

theorem Memory.wf_setList (k : Nat) (l : List Byte) {m : List Host.Cell} (h : Memory.wf m = true) :
    Memory.wf (Memory.setList k l m) = true := by
  induction l generalizing k m with
  | nil => exact h
  | cons b l ih => exact ih (k + 1) (Memory.wf_set k b h)

theorem Memory.wf_drop (k n : Nat) {m : List Host.Cell} (h : Memory.wf m = true) : Memory.wf (Memory.drop k n m) = true :=
  Memory.wf_filter _ h

theorem Memory.wf_copy (a b n : Nat) {m : List Host.Cell} (h : Memory.wf m = true) : Memory.wf (Memory.copy a b n m) = true := by
  unfold Memory.copy
  have h' := Memory.wf_drop b n h
  revert h'
  generalize Memory.drop b n m = m'
  generalize m.filter _ = l
  intro h'
  induction l generalizing m' with
  | nil => exact h'
  | cons e l ih => exact ih _ (Memory.wf_set _ _ h')

/-- Equal memories are equal data: two canonical memories that read the same everywhere are the same list. -/
theorem Memory.ext {m m' : List Host.Cell} (h : Memory.wf m = true) (h' : Memory.wf m' = true)
    (he : ∀ k, Memory.get m k = Memory.get m' k) : m = m' := by
  rw [Memory.wf_iff] at h h'
  have key : ∀ (m m' : List Host.Cell), (∀ e ∈ m, e.2 ≠ Memory.unlisted) → (∀ k, Memory.get m k = Memory.get m' k) →
      risingKeys m = true → ∀ e ∈ m, e ∈ m' := by
    intro m m' hn he hr e hem
    have hl : ∀ (l : List Host.Cell), risingKeys l = true → ∀ e ∈ l, look Memory.unlisted l e.1 = e.2 := by
      intro l
      induction l with
      | nil => intro _ e h; simp at h
      | cons x l ih =>
        intro hr e h
        rw [risingKeys_cons] at hr
        rcases List.mem_cons.1 h with rfl | h
        · simp [look]
        · rw [look, if_neg (Nat.ne_of_lt (hr.1 e h)), ih hr.2 e h]
    have hf : ∀ (l : List Host.Cell) (k : Nat), look Memory.unlisted l k ≠ Memory.unlisted → (k, look Memory.unlisted l k) ∈ l := by
      intro l k
      induction l with
      | nil => intro h; exact absurd rfl h
      | cons x l ih =>
        obtain ⟨a, b⟩ := x
        rw [look]
        split
        · subst a; intro _; exact List.mem_cons_self ..
        · intro h; exact List.mem_cons_of_mem _ (ih h)
    have h1 := hl m hr e hem
    have h2 := he e.1
    unfold Memory.get at h2
    have h3 := hf m' e.1 (by rw [← h2, h1]; exact hn e hem)
    rw [← h2, h1] at h3
    exact h3
  have sub := key m m' h.2 he h.1
  have sup := key m' m h'.2 (fun k => (he k).symm) h'.1
  have hs : ∀ (l : List Host.Cell), risingKeys l = true → l.Pairwise (fun a b => a.1 < b.1) := by
    intro l
    induction l with
    | nil => intro _; exact List.Pairwise.nil
    | cons x l ih => intro hr; rw [risingKeys_cons] at hr; exact List.Pairwise.cons hr.1 (ih hr.2)
  have n1 : m.Nodup := (hs m h.1).imp (fun {a b} hab e => by subst e; exact absurd hab (lt_irrefl _))
  have n2 : m'.Nodup := (hs m' h'.1).imp (fun {a b} hab e => by subst e; exact absurd hab (lt_irrefl _))
  have hp : m.Perm m' := (List.perm_ext_iff_of_nodup n1 n2).2 fun e => ⟨sub e, sup e⟩
  exact hp.eq_of_pairwise (fun a b _ _ h1 h2 => absurd (lt_trans h1 h2) (lt_irrefl _)) (hs m h.1) (hs m' h'.1)

/-! ## The state's bytes -/

@[simp] theorem State.setBytes_mem (k : Nat) (l : List Byte) (s : State) : (s.setBytes k l).mem = Memory.setList k l s.mem := rfl

theorem State.setBytes_wf (k : Nat) (l : List Byte) {s : State} (h : Memory.wf s.mem = true) :
    Memory.wf (s.setBytes k l).mem = true := Memory.wf_setList k l h

theorem State.byteAt_setBytes_other {k j : Nat} {l : List Byte} (h : j < k ∨ k + l.length ≤ j) (s : State) :
    (s.setBytes k l).byteAt j = s.byteAt j := Memory.get_setList_other h s.mem

theorem State.byteAt_setBytes {k i : Nat} {l : List Byte} (h : i < l.length) (s : State) :
    (s.setBytes k l).byteAt (k + i) = l[i] := Memory.get_setList h s.mem

theorem reset_mem_wf : Memory.wf State.reset.mem = true := rfl

end Sys2Proof.Machine
end

