-- ==== Sys2Proof/Laws/State.lean ====
section
/-! SUPPORT. What each update of the state leaves alone, one lemma per field and update, and what it makes of the part it changes. -/

namespace Sys2Proof.Machine

/-! ## modSlot -/

@[simp] theorem State.modSlot_cur (k : Nat) (f : Slot → Slot) (s : State) : (s.modSlot k f).cur = s.cur := rfl
@[simp] theorem State.modSlot_focus (k : Nat) (f : Slot → Slot) (s : State) : (s.modSlot k f).focus = s.focus := rfl
@[simp] theorem State.modSlot_agenda (k : Nat) (f : Slot → Slot) (s : State) : (s.modSlot k f).agenda = s.agenda := rfl
@[simp] theorem State.modSlot_work (k : Nat) (f : Slot → Slot) (s : State) : (s.modSlot k f).work = s.work := rfl
@[simp] theorem State.modSlot_todo (k : Nat) (f : Slot → Slot) (s : State) : (s.modSlot k f).todo = s.todo := rfl
@[simp] theorem State.modSlot_rank (k : Nat) (f : Slot → Slot) (s : State) : (s.modSlot k f).rank = s.rank := rfl
@[simp] theorem State.modSlot_arg (k : Nat) (f : Slot → Slot) (s : State) : (s.modSlot k f).arg = s.arg := rfl
@[simp] theorem State.modSlot_deferred (k : Nat) (f : Slot → Slot) (s : State) : (s.modSlot k f).deferred = s.deferred := rfl
@[simp] theorem State.modSlot_fresh (k : Nat) (f : Slot → Slot) (s : State) : (s.modSlot k f).fresh = s.fresh := rfl
@[simp] theorem State.modSlot_cycle (k : Nat) (f : Slot → Slot) (s : State) : (s.modSlot k f).cycle = s.cycle := rfl
@[simp] theorem State.modSlot_time (k : Nat) (f : Slot → Slot) (s : State) : (s.modSlot k f).time = s.time := rfl
@[simp] theorem State.modSlot_halted (k : Nat) (f : Slot → Slot) (s : State) : (s.modSlot k f).halted = s.halted := rfl
@[simp] theorem State.modSlot_cores (k : Nat) (f : Slot → Slot) (s : State) : (s.modSlot k f).cores = s.cores := rfl
@[simp] theorem State.modSlot_clusters (k : Nat) (f : Slot → Slot) (s : State) : (s.modSlot k f).clusters = s.clusters := rfl
@[simp] theorem State.modSlot_sectors (k : Nat) (f : Slot → Slot) (s : State) : (s.modSlot k f).sectors = s.sectors := rfl
@[simp] theorem State.modSlot_monitors (k : Nat) (f : Slot → Slot) (s : State) : (s.modSlot k f).monitors = s.monitors := rfl
@[simp] theorem State.modSlot_parts (k : Nat) (f : Slot → Slot) (s : State) : (s.modSlot k f).parts = s.parts := rfl
@[simp] theorem State.modSlot_launch (k : Nat) (f : Slot → Slot) (s : State) : (s.modSlot k f).launch = s.launch := rfl
@[simp] theorem State.modSlot_fabric (k : Nat) (f : Slot → Slot) (s : State) : (s.modSlot k f).fabric = s.fabric := rfl
@[simp] theorem State.modSlot_chip (k : Nat) (f : Slot → Slot) (s : State) : (s.modSlot k f).chip = s.chip := rfl
@[simp] theorem State.modSlot_mem (k : Nat) (f : Slot → Slot) (s : State) : (s.modSlot k f).mem = s.mem := rfl
@[simp] theorem State.modSlot_full (k : Nat) (f : Slot → Slot) (s : State) : (s.modSlot k f).full = s.full := rfl
@[simp] theorem State.modSlot_poison (k : Nat) (f : Slot → Slot) (s : State) : (s.modSlot k f).poison = s.poison := rfl
@[simp] theorem State.modSlot_fills (k : Nat) (f : Slot → Slot) (s : State) : (s.modSlot k f).fills = s.fills := rfl
@[simp] theorem State.modSlot_l2 (k : Nat) (f : Slot → Slot) (s : State) : (s.modSlot k f).l2 = s.l2 := rfl
@[simp] theorem State.modSlot_errors (k : Nat) (f : Slot → Slot) (s : State) : (s.modSlot k f).errors = s.errors := rfl
@[simp] theorem State.modSlot_written (k : Nat) (f : Slot → Slot) (s : State) : (s.modSlot k f).written = s.written := rfl
@[simp] theorem State.modSlot_net (k : Nat) (f : Slot → Slot) (s : State) : (s.modSlot k f).net = s.net := rfl
@[simp] theorem State.modSlot_netOut (k : Nat) (f : Slot → Slot) (s : State) : (s.modSlot k f).netOut = s.netOut := rfl
@[simp] theorem State.modSlot_shoots (k : Nat) (f : Slot → Slot) (s : State) : (s.modSlot k f).shoots = s.shoots := rfl
@[simp] theorem State.modSlot_saved (k : Nat) (f : Slot → Slot) (s : State) : (s.modSlot k f).saved = s.saved := rfl
@[simp] theorem State.modSlot_saves (k : Nat) (f : Slot → Slot) (s : State) : (s.modSlot k f).saves = s.saves := rfl
@[simp] theorem State.modSlot_records (k : Nat) (f : Slot → Slot) (s : State) : (s.modSlot k f).records = s.records := rfl
@[simp] theorem State.modSlot_serial (k : Nat) (f : Slot → Slot) (s : State) : (s.modSlot k f).serial = s.serial := rfl

/-! ## modMe -/

@[simp] theorem State.modMe_cur (f : Slot → Slot) (s : State) : (s.modMe f).cur = s.cur := rfl
@[simp] theorem State.modMe_focus (f : Slot → Slot) (s : State) : (s.modMe f).focus = s.focus := rfl
@[simp] theorem State.modMe_agenda (f : Slot → Slot) (s : State) : (s.modMe f).agenda = s.agenda := rfl
@[simp] theorem State.modMe_work (f : Slot → Slot) (s : State) : (s.modMe f).work = s.work := rfl
@[simp] theorem State.modMe_todo (f : Slot → Slot) (s : State) : (s.modMe f).todo = s.todo := rfl
@[simp] theorem State.modMe_rank (f : Slot → Slot) (s : State) : (s.modMe f).rank = s.rank := rfl
@[simp] theorem State.modMe_arg (f : Slot → Slot) (s : State) : (s.modMe f).arg = s.arg := rfl
@[simp] theorem State.modMe_deferred (f : Slot → Slot) (s : State) : (s.modMe f).deferred = s.deferred := rfl
@[simp] theorem State.modMe_fresh (f : Slot → Slot) (s : State) : (s.modMe f).fresh = s.fresh := rfl
@[simp] theorem State.modMe_cycle (f : Slot → Slot) (s : State) : (s.modMe f).cycle = s.cycle := rfl
@[simp] theorem State.modMe_time (f : Slot → Slot) (s : State) : (s.modMe f).time = s.time := rfl
@[simp] theorem State.modMe_halted (f : Slot → Slot) (s : State) : (s.modMe f).halted = s.halted := rfl
@[simp] theorem State.modMe_cores (f : Slot → Slot) (s : State) : (s.modMe f).cores = s.cores := rfl
@[simp] theorem State.modMe_clusters (f : Slot → Slot) (s : State) : (s.modMe f).clusters = s.clusters := rfl
@[simp] theorem State.modMe_sectors (f : Slot → Slot) (s : State) : (s.modMe f).sectors = s.sectors := rfl
@[simp] theorem State.modMe_monitors (f : Slot → Slot) (s : State) : (s.modMe f).monitors = s.monitors := rfl
@[simp] theorem State.modMe_parts (f : Slot → Slot) (s : State) : (s.modMe f).parts = s.parts := rfl
@[simp] theorem State.modMe_launch (f : Slot → Slot) (s : State) : (s.modMe f).launch = s.launch := rfl
@[simp] theorem State.modMe_fabric (f : Slot → Slot) (s : State) : (s.modMe f).fabric = s.fabric := rfl
@[simp] theorem State.modMe_chip (f : Slot → Slot) (s : State) : (s.modMe f).chip = s.chip := rfl
@[simp] theorem State.modMe_mem (f : Slot → Slot) (s : State) : (s.modMe f).mem = s.mem := rfl
@[simp] theorem State.modMe_full (f : Slot → Slot) (s : State) : (s.modMe f).full = s.full := rfl
@[simp] theorem State.modMe_poison (f : Slot → Slot) (s : State) : (s.modMe f).poison = s.poison := rfl
@[simp] theorem State.modMe_fills (f : Slot → Slot) (s : State) : (s.modMe f).fills = s.fills := rfl
@[simp] theorem State.modMe_l2 (f : Slot → Slot) (s : State) : (s.modMe f).l2 = s.l2 := rfl
@[simp] theorem State.modMe_errors (f : Slot → Slot) (s : State) : (s.modMe f).errors = s.errors := rfl
@[simp] theorem State.modMe_written (f : Slot → Slot) (s : State) : (s.modMe f).written = s.written := rfl
@[simp] theorem State.modMe_net (f : Slot → Slot) (s : State) : (s.modMe f).net = s.net := rfl
@[simp] theorem State.modMe_netOut (f : Slot → Slot) (s : State) : (s.modMe f).netOut = s.netOut := rfl
@[simp] theorem State.modMe_shoots (f : Slot → Slot) (s : State) : (s.modMe f).shoots = s.shoots := rfl
@[simp] theorem State.modMe_saved (f : Slot → Slot) (s : State) : (s.modMe f).saved = s.saved := rfl
@[simp] theorem State.modMe_saves (f : Slot → Slot) (s : State) : (s.modMe f).saves = s.saves := rfl
@[simp] theorem State.modMe_records (f : Slot → Slot) (s : State) : (s.modMe f).records = s.records := rfl
@[simp] theorem State.modMe_serial (f : Slot → Slot) (s : State) : (s.modMe f).serial = s.serial := rfl

/-! ## modCore -/

@[simp] theorem State.modCore_cur (k : Nat) (f : Core → Core) (s : State) : (s.modCore k f).cur = s.cur := rfl
@[simp] theorem State.modCore_focus (k : Nat) (f : Core → Core) (s : State) : (s.modCore k f).focus = s.focus := rfl
@[simp] theorem State.modCore_agenda (k : Nat) (f : Core → Core) (s : State) : (s.modCore k f).agenda = s.agenda := rfl
@[simp] theorem State.modCore_work (k : Nat) (f : Core → Core) (s : State) : (s.modCore k f).work = s.work := rfl
@[simp] theorem State.modCore_todo (k : Nat) (f : Core → Core) (s : State) : (s.modCore k f).todo = s.todo := rfl
@[simp] theorem State.modCore_rank (k : Nat) (f : Core → Core) (s : State) : (s.modCore k f).rank = s.rank := rfl
@[simp] theorem State.modCore_arg (k : Nat) (f : Core → Core) (s : State) : (s.modCore k f).arg = s.arg := rfl
@[simp] theorem State.modCore_deferred (k : Nat) (f : Core → Core) (s : State) : (s.modCore k f).deferred = s.deferred := rfl
@[simp] theorem State.modCore_fresh (k : Nat) (f : Core → Core) (s : State) : (s.modCore k f).fresh = s.fresh := rfl
@[simp] theorem State.modCore_cycle (k : Nat) (f : Core → Core) (s : State) : (s.modCore k f).cycle = s.cycle := rfl
@[simp] theorem State.modCore_time (k : Nat) (f : Core → Core) (s : State) : (s.modCore k f).time = s.time := rfl
@[simp] theorem State.modCore_halted (k : Nat) (f : Core → Core) (s : State) : (s.modCore k f).halted = s.halted := rfl
@[simp] theorem State.modCore_slots (k : Nat) (f : Core → Core) (s : State) : (s.modCore k f).slots = s.slots := rfl
@[simp] theorem State.modCore_clusters (k : Nat) (f : Core → Core) (s : State) : (s.modCore k f).clusters = s.clusters := rfl
@[simp] theorem State.modCore_sectors (k : Nat) (f : Core → Core) (s : State) : (s.modCore k f).sectors = s.sectors := rfl
@[simp] theorem State.modCore_monitors (k : Nat) (f : Core → Core) (s : State) : (s.modCore k f).monitors = s.monitors := rfl
@[simp] theorem State.modCore_parts (k : Nat) (f : Core → Core) (s : State) : (s.modCore k f).parts = s.parts := rfl
@[simp] theorem State.modCore_launch (k : Nat) (f : Core → Core) (s : State) : (s.modCore k f).launch = s.launch := rfl
@[simp] theorem State.modCore_fabric (k : Nat) (f : Core → Core) (s : State) : (s.modCore k f).fabric = s.fabric := rfl
@[simp] theorem State.modCore_chip (k : Nat) (f : Core → Core) (s : State) : (s.modCore k f).chip = s.chip := rfl
@[simp] theorem State.modCore_mem (k : Nat) (f : Core → Core) (s : State) : (s.modCore k f).mem = s.mem := rfl
@[simp] theorem State.modCore_full (k : Nat) (f : Core → Core) (s : State) : (s.modCore k f).full = s.full := rfl
@[simp] theorem State.modCore_poison (k : Nat) (f : Core → Core) (s : State) : (s.modCore k f).poison = s.poison := rfl
@[simp] theorem State.modCore_fills (k : Nat) (f : Core → Core) (s : State) : (s.modCore k f).fills = s.fills := rfl
@[simp] theorem State.modCore_l2 (k : Nat) (f : Core → Core) (s : State) : (s.modCore k f).l2 = s.l2 := rfl
@[simp] theorem State.modCore_errors (k : Nat) (f : Core → Core) (s : State) : (s.modCore k f).errors = s.errors := rfl
@[simp] theorem State.modCore_written (k : Nat) (f : Core → Core) (s : State) : (s.modCore k f).written = s.written := rfl
@[simp] theorem State.modCore_net (k : Nat) (f : Core → Core) (s : State) : (s.modCore k f).net = s.net := rfl
@[simp] theorem State.modCore_netOut (k : Nat) (f : Core → Core) (s : State) : (s.modCore k f).netOut = s.netOut := rfl
@[simp] theorem State.modCore_shoots (k : Nat) (f : Core → Core) (s : State) : (s.modCore k f).shoots = s.shoots := rfl
@[simp] theorem State.modCore_saved (k : Nat) (f : Core → Core) (s : State) : (s.modCore k f).saved = s.saved := rfl
@[simp] theorem State.modCore_saves (k : Nat) (f : Core → Core) (s : State) : (s.modCore k f).saves = s.saves := rfl
@[simp] theorem State.modCore_records (k : Nat) (f : Core → Core) (s : State) : (s.modCore k f).records = s.records := rfl
@[simp] theorem State.modCore_serial (k : Nat) (f : Core → Core) (s : State) : (s.modCore k f).serial = s.serial := rfl

/-! ## modCluster -/

@[simp] theorem State.modCluster_cur (k : Nat) (f : Cluster → Cluster) (s : State) : (s.modCluster k f).cur = s.cur := rfl
@[simp] theorem State.modCluster_focus (k : Nat) (f : Cluster → Cluster) (s : State) : (s.modCluster k f).focus = s.focus := rfl
@[simp] theorem State.modCluster_agenda (k : Nat) (f : Cluster → Cluster) (s : State) : (s.modCluster k f).agenda = s.agenda := rfl
@[simp] theorem State.modCluster_work (k : Nat) (f : Cluster → Cluster) (s : State) : (s.modCluster k f).work = s.work := rfl
@[simp] theorem State.modCluster_todo (k : Nat) (f : Cluster → Cluster) (s : State) : (s.modCluster k f).todo = s.todo := rfl
@[simp] theorem State.modCluster_rank (k : Nat) (f : Cluster → Cluster) (s : State) : (s.modCluster k f).rank = s.rank := rfl
@[simp] theorem State.modCluster_arg (k : Nat) (f : Cluster → Cluster) (s : State) : (s.modCluster k f).arg = s.arg := rfl
@[simp] theorem State.modCluster_deferred (k : Nat) (f : Cluster → Cluster) (s : State) : (s.modCluster k f).deferred = s.deferred := rfl
@[simp] theorem State.modCluster_fresh (k : Nat) (f : Cluster → Cluster) (s : State) : (s.modCluster k f).fresh = s.fresh := rfl
@[simp] theorem State.modCluster_cycle (k : Nat) (f : Cluster → Cluster) (s : State) : (s.modCluster k f).cycle = s.cycle := rfl
@[simp] theorem State.modCluster_time (k : Nat) (f : Cluster → Cluster) (s : State) : (s.modCluster k f).time = s.time := rfl
@[simp] theorem State.modCluster_halted (k : Nat) (f : Cluster → Cluster) (s : State) : (s.modCluster k f).halted = s.halted := rfl
@[simp] theorem State.modCluster_slots (k : Nat) (f : Cluster → Cluster) (s : State) : (s.modCluster k f).slots = s.slots := rfl
@[simp] theorem State.modCluster_cores (k : Nat) (f : Cluster → Cluster) (s : State) : (s.modCluster k f).cores = s.cores := rfl
@[simp] theorem State.modCluster_sectors (k : Nat) (f : Cluster → Cluster) (s : State) : (s.modCluster k f).sectors = s.sectors := rfl
@[simp] theorem State.modCluster_monitors (k : Nat) (f : Cluster → Cluster) (s : State) : (s.modCluster k f).monitors = s.monitors := rfl
@[simp] theorem State.modCluster_parts (k : Nat) (f : Cluster → Cluster) (s : State) : (s.modCluster k f).parts = s.parts := rfl
@[simp] theorem State.modCluster_launch (k : Nat) (f : Cluster → Cluster) (s : State) : (s.modCluster k f).launch = s.launch := rfl
@[simp] theorem State.modCluster_fabric (k : Nat) (f : Cluster → Cluster) (s : State) : (s.modCluster k f).fabric = s.fabric := rfl
@[simp] theorem State.modCluster_chip (k : Nat) (f : Cluster → Cluster) (s : State) : (s.modCluster k f).chip = s.chip := rfl
@[simp] theorem State.modCluster_mem (k : Nat) (f : Cluster → Cluster) (s : State) : (s.modCluster k f).mem = s.mem := rfl
@[simp] theorem State.modCluster_full (k : Nat) (f : Cluster → Cluster) (s : State) : (s.modCluster k f).full = s.full := rfl
@[simp] theorem State.modCluster_poison (k : Nat) (f : Cluster → Cluster) (s : State) : (s.modCluster k f).poison = s.poison := rfl
@[simp] theorem State.modCluster_fills (k : Nat) (f : Cluster → Cluster) (s : State) : (s.modCluster k f).fills = s.fills := rfl
@[simp] theorem State.modCluster_l2 (k : Nat) (f : Cluster → Cluster) (s : State) : (s.modCluster k f).l2 = s.l2 := rfl
@[simp] theorem State.modCluster_errors (k : Nat) (f : Cluster → Cluster) (s : State) : (s.modCluster k f).errors = s.errors := rfl
@[simp] theorem State.modCluster_written (k : Nat) (f : Cluster → Cluster) (s : State) : (s.modCluster k f).written = s.written := rfl
@[simp] theorem State.modCluster_net (k : Nat) (f : Cluster → Cluster) (s : State) : (s.modCluster k f).net = s.net := rfl
@[simp] theorem State.modCluster_netOut (k : Nat) (f : Cluster → Cluster) (s : State) : (s.modCluster k f).netOut = s.netOut := rfl
@[simp] theorem State.modCluster_shoots (k : Nat) (f : Cluster → Cluster) (s : State) : (s.modCluster k f).shoots = s.shoots := rfl
@[simp] theorem State.modCluster_saved (k : Nat) (f : Cluster → Cluster) (s : State) : (s.modCluster k f).saved = s.saved := rfl
@[simp] theorem State.modCluster_saves (k : Nat) (f : Cluster → Cluster) (s : State) : (s.modCluster k f).saves = s.saves := rfl
@[simp] theorem State.modCluster_records (k : Nat) (f : Cluster → Cluster) (s : State) : (s.modCluster k f).records = s.records := rfl
@[simp] theorem State.modCluster_serial (k : Nat) (f : Cluster → Cluster) (s : State) : (s.modCluster k f).serial = s.serial := rfl

/-! ## modSector -/

@[simp] theorem State.modSector_cur (k : Nat) (f : Sector → Sector) (s : State) : (s.modSector k f).cur = s.cur := rfl
@[simp] theorem State.modSector_focus (k : Nat) (f : Sector → Sector) (s : State) : (s.modSector k f).focus = s.focus := rfl
@[simp] theorem State.modSector_agenda (k : Nat) (f : Sector → Sector) (s : State) : (s.modSector k f).agenda = s.agenda := rfl
@[simp] theorem State.modSector_work (k : Nat) (f : Sector → Sector) (s : State) : (s.modSector k f).work = s.work := rfl
@[simp] theorem State.modSector_todo (k : Nat) (f : Sector → Sector) (s : State) : (s.modSector k f).todo = s.todo := rfl
@[simp] theorem State.modSector_rank (k : Nat) (f : Sector → Sector) (s : State) : (s.modSector k f).rank = s.rank := rfl
@[simp] theorem State.modSector_arg (k : Nat) (f : Sector → Sector) (s : State) : (s.modSector k f).arg = s.arg := rfl
@[simp] theorem State.modSector_deferred (k : Nat) (f : Sector → Sector) (s : State) : (s.modSector k f).deferred = s.deferred := rfl
@[simp] theorem State.modSector_fresh (k : Nat) (f : Sector → Sector) (s : State) : (s.modSector k f).fresh = s.fresh := rfl
@[simp] theorem State.modSector_cycle (k : Nat) (f : Sector → Sector) (s : State) : (s.modSector k f).cycle = s.cycle := rfl
@[simp] theorem State.modSector_time (k : Nat) (f : Sector → Sector) (s : State) : (s.modSector k f).time = s.time := rfl
@[simp] theorem State.modSector_halted (k : Nat) (f : Sector → Sector) (s : State) : (s.modSector k f).halted = s.halted := rfl
@[simp] theorem State.modSector_slots (k : Nat) (f : Sector → Sector) (s : State) : (s.modSector k f).slots = s.slots := rfl
@[simp] theorem State.modSector_cores (k : Nat) (f : Sector → Sector) (s : State) : (s.modSector k f).cores = s.cores := rfl
@[simp] theorem State.modSector_clusters (k : Nat) (f : Sector → Sector) (s : State) : (s.modSector k f).clusters = s.clusters := rfl
@[simp] theorem State.modSector_monitors (k : Nat) (f : Sector → Sector) (s : State) : (s.modSector k f).monitors = s.monitors := rfl
@[simp] theorem State.modSector_parts (k : Nat) (f : Sector → Sector) (s : State) : (s.modSector k f).parts = s.parts := rfl
@[simp] theorem State.modSector_launch (k : Nat) (f : Sector → Sector) (s : State) : (s.modSector k f).launch = s.launch := rfl
@[simp] theorem State.modSector_fabric (k : Nat) (f : Sector → Sector) (s : State) : (s.modSector k f).fabric = s.fabric := rfl
@[simp] theorem State.modSector_chip (k : Nat) (f : Sector → Sector) (s : State) : (s.modSector k f).chip = s.chip := rfl
@[simp] theorem State.modSector_mem (k : Nat) (f : Sector → Sector) (s : State) : (s.modSector k f).mem = s.mem := rfl
@[simp] theorem State.modSector_full (k : Nat) (f : Sector → Sector) (s : State) : (s.modSector k f).full = s.full := rfl
@[simp] theorem State.modSector_poison (k : Nat) (f : Sector → Sector) (s : State) : (s.modSector k f).poison = s.poison := rfl
@[simp] theorem State.modSector_fills (k : Nat) (f : Sector → Sector) (s : State) : (s.modSector k f).fills = s.fills := rfl
@[simp] theorem State.modSector_l2 (k : Nat) (f : Sector → Sector) (s : State) : (s.modSector k f).l2 = s.l2 := rfl
@[simp] theorem State.modSector_errors (k : Nat) (f : Sector → Sector) (s : State) : (s.modSector k f).errors = s.errors := rfl
@[simp] theorem State.modSector_written (k : Nat) (f : Sector → Sector) (s : State) : (s.modSector k f).written = s.written := rfl
@[simp] theorem State.modSector_net (k : Nat) (f : Sector → Sector) (s : State) : (s.modSector k f).net = s.net := rfl
@[simp] theorem State.modSector_netOut (k : Nat) (f : Sector → Sector) (s : State) : (s.modSector k f).netOut = s.netOut := rfl
@[simp] theorem State.modSector_shoots (k : Nat) (f : Sector → Sector) (s : State) : (s.modSector k f).shoots = s.shoots := rfl
@[simp] theorem State.modSector_saved (k : Nat) (f : Sector → Sector) (s : State) : (s.modSector k f).saved = s.saved := rfl
@[simp] theorem State.modSector_saves (k : Nat) (f : Sector → Sector) (s : State) : (s.modSector k f).saves = s.saves := rfl
@[simp] theorem State.modSector_records (k : Nat) (f : Sector → Sector) (s : State) : (s.modSector k f).records = s.records := rfl
@[simp] theorem State.modSector_serial (k : Nat) (f : Sector → Sector) (s : State) : (s.modSector k f).serial = s.serial := rfl

/-! ## modPart -/

@[simp] theorem State.modPart_cur (k : Nat) (f : Part → Part) (s : State) : (s.modPart k f).cur = s.cur := rfl
@[simp] theorem State.modPart_focus (k : Nat) (f : Part → Part) (s : State) : (s.modPart k f).focus = s.focus := rfl
@[simp] theorem State.modPart_agenda (k : Nat) (f : Part → Part) (s : State) : (s.modPart k f).agenda = s.agenda := rfl
@[simp] theorem State.modPart_work (k : Nat) (f : Part → Part) (s : State) : (s.modPart k f).work = s.work := rfl
@[simp] theorem State.modPart_todo (k : Nat) (f : Part → Part) (s : State) : (s.modPart k f).todo = s.todo := rfl
@[simp] theorem State.modPart_rank (k : Nat) (f : Part → Part) (s : State) : (s.modPart k f).rank = s.rank := rfl
@[simp] theorem State.modPart_arg (k : Nat) (f : Part → Part) (s : State) : (s.modPart k f).arg = s.arg := rfl
@[simp] theorem State.modPart_deferred (k : Nat) (f : Part → Part) (s : State) : (s.modPart k f).deferred = s.deferred := rfl
@[simp] theorem State.modPart_fresh (k : Nat) (f : Part → Part) (s : State) : (s.modPart k f).fresh = s.fresh := rfl
@[simp] theorem State.modPart_cycle (k : Nat) (f : Part → Part) (s : State) : (s.modPart k f).cycle = s.cycle := rfl
@[simp] theorem State.modPart_time (k : Nat) (f : Part → Part) (s : State) : (s.modPart k f).time = s.time := rfl
@[simp] theorem State.modPart_halted (k : Nat) (f : Part → Part) (s : State) : (s.modPart k f).halted = s.halted := rfl
@[simp] theorem State.modPart_slots (k : Nat) (f : Part → Part) (s : State) : (s.modPart k f).slots = s.slots := rfl
@[simp] theorem State.modPart_cores (k : Nat) (f : Part → Part) (s : State) : (s.modPart k f).cores = s.cores := rfl
@[simp] theorem State.modPart_clusters (k : Nat) (f : Part → Part) (s : State) : (s.modPart k f).clusters = s.clusters := rfl
@[simp] theorem State.modPart_sectors (k : Nat) (f : Part → Part) (s : State) : (s.modPart k f).sectors = s.sectors := rfl
@[simp] theorem State.modPart_monitors (k : Nat) (f : Part → Part) (s : State) : (s.modPart k f).monitors = s.monitors := rfl
@[simp] theorem State.modPart_launch (k : Nat) (f : Part → Part) (s : State) : (s.modPart k f).launch = s.launch := rfl
@[simp] theorem State.modPart_fabric (k : Nat) (f : Part → Part) (s : State) : (s.modPart k f).fabric = s.fabric := rfl
@[simp] theorem State.modPart_chip (k : Nat) (f : Part → Part) (s : State) : (s.modPart k f).chip = s.chip := rfl
@[simp] theorem State.modPart_mem (k : Nat) (f : Part → Part) (s : State) : (s.modPart k f).mem = s.mem := rfl
@[simp] theorem State.modPart_full (k : Nat) (f : Part → Part) (s : State) : (s.modPart k f).full = s.full := rfl
@[simp] theorem State.modPart_poison (k : Nat) (f : Part → Part) (s : State) : (s.modPart k f).poison = s.poison := rfl
@[simp] theorem State.modPart_fills (k : Nat) (f : Part → Part) (s : State) : (s.modPart k f).fills = s.fills := rfl
@[simp] theorem State.modPart_l2 (k : Nat) (f : Part → Part) (s : State) : (s.modPart k f).l2 = s.l2 := rfl
@[simp] theorem State.modPart_errors (k : Nat) (f : Part → Part) (s : State) : (s.modPart k f).errors = s.errors := rfl
@[simp] theorem State.modPart_written (k : Nat) (f : Part → Part) (s : State) : (s.modPart k f).written = s.written := rfl
@[simp] theorem State.modPart_net (k : Nat) (f : Part → Part) (s : State) : (s.modPart k f).net = s.net := rfl
@[simp] theorem State.modPart_netOut (k : Nat) (f : Part → Part) (s : State) : (s.modPart k f).netOut = s.netOut := rfl
@[simp] theorem State.modPart_shoots (k : Nat) (f : Part → Part) (s : State) : (s.modPart k f).shoots = s.shoots := rfl
@[simp] theorem State.modPart_saved (k : Nat) (f : Part → Part) (s : State) : (s.modPart k f).saved = s.saved := rfl
@[simp] theorem State.modPart_saves (k : Nat) (f : Part → Part) (s : State) : (s.modPart k f).saves = s.saves := rfl
@[simp] theorem State.modPart_records (k : Nat) (f : Part → Part) (s : State) : (s.modPart k f).records = s.records := rfl
@[simp] theorem State.modPart_serial (k : Nat) (f : Part → Part) (s : State) : (s.modPart k f).serial = s.serial := rfl

/-! ## modLaunch -/

@[simp] theorem State.modLaunch_cur (f : Launch → Launch) (s : State) : (s.modLaunch f).cur = s.cur := rfl
@[simp] theorem State.modLaunch_focus (f : Launch → Launch) (s : State) : (s.modLaunch f).focus = s.focus := rfl
@[simp] theorem State.modLaunch_agenda (f : Launch → Launch) (s : State) : (s.modLaunch f).agenda = s.agenda := rfl
@[simp] theorem State.modLaunch_work (f : Launch → Launch) (s : State) : (s.modLaunch f).work = s.work := rfl
@[simp] theorem State.modLaunch_todo (f : Launch → Launch) (s : State) : (s.modLaunch f).todo = s.todo := rfl
@[simp] theorem State.modLaunch_rank (f : Launch → Launch) (s : State) : (s.modLaunch f).rank = s.rank := rfl
@[simp] theorem State.modLaunch_arg (f : Launch → Launch) (s : State) : (s.modLaunch f).arg = s.arg := rfl
@[simp] theorem State.modLaunch_deferred (f : Launch → Launch) (s : State) : (s.modLaunch f).deferred = s.deferred := rfl
@[simp] theorem State.modLaunch_fresh (f : Launch → Launch) (s : State) : (s.modLaunch f).fresh = s.fresh := rfl
@[simp] theorem State.modLaunch_cycle (f : Launch → Launch) (s : State) : (s.modLaunch f).cycle = s.cycle := rfl
@[simp] theorem State.modLaunch_time (f : Launch → Launch) (s : State) : (s.modLaunch f).time = s.time := rfl
@[simp] theorem State.modLaunch_halted (f : Launch → Launch) (s : State) : (s.modLaunch f).halted = s.halted := rfl
@[simp] theorem State.modLaunch_slots (f : Launch → Launch) (s : State) : (s.modLaunch f).slots = s.slots := rfl
@[simp] theorem State.modLaunch_cores (f : Launch → Launch) (s : State) : (s.modLaunch f).cores = s.cores := rfl
@[simp] theorem State.modLaunch_clusters (f : Launch → Launch) (s : State) : (s.modLaunch f).clusters = s.clusters := rfl
@[simp] theorem State.modLaunch_sectors (f : Launch → Launch) (s : State) : (s.modLaunch f).sectors = s.sectors := rfl
@[simp] theorem State.modLaunch_monitors (f : Launch → Launch) (s : State) : (s.modLaunch f).monitors = s.monitors := rfl
@[simp] theorem State.modLaunch_parts (f : Launch → Launch) (s : State) : (s.modLaunch f).parts = s.parts := rfl
@[simp] theorem State.modLaunch_fabric (f : Launch → Launch) (s : State) : (s.modLaunch f).fabric = s.fabric := rfl
@[simp] theorem State.modLaunch_chip (f : Launch → Launch) (s : State) : (s.modLaunch f).chip = s.chip := rfl
@[simp] theorem State.modLaunch_mem (f : Launch → Launch) (s : State) : (s.modLaunch f).mem = s.mem := rfl
@[simp] theorem State.modLaunch_full (f : Launch → Launch) (s : State) : (s.modLaunch f).full = s.full := rfl
@[simp] theorem State.modLaunch_poison (f : Launch → Launch) (s : State) : (s.modLaunch f).poison = s.poison := rfl
@[simp] theorem State.modLaunch_fills (f : Launch → Launch) (s : State) : (s.modLaunch f).fills = s.fills := rfl
@[simp] theorem State.modLaunch_l2 (f : Launch → Launch) (s : State) : (s.modLaunch f).l2 = s.l2 := rfl
@[simp] theorem State.modLaunch_errors (f : Launch → Launch) (s : State) : (s.modLaunch f).errors = s.errors := rfl
@[simp] theorem State.modLaunch_written (f : Launch → Launch) (s : State) : (s.modLaunch f).written = s.written := rfl
@[simp] theorem State.modLaunch_net (f : Launch → Launch) (s : State) : (s.modLaunch f).net = s.net := rfl
@[simp] theorem State.modLaunch_netOut (f : Launch → Launch) (s : State) : (s.modLaunch f).netOut = s.netOut := rfl
@[simp] theorem State.modLaunch_shoots (f : Launch → Launch) (s : State) : (s.modLaunch f).shoots = s.shoots := rfl
@[simp] theorem State.modLaunch_saved (f : Launch → Launch) (s : State) : (s.modLaunch f).saved = s.saved := rfl
@[simp] theorem State.modLaunch_saves (f : Launch → Launch) (s : State) : (s.modLaunch f).saves = s.saves := rfl
@[simp] theorem State.modLaunch_records (f : Launch → Launch) (s : State) : (s.modLaunch f).records = s.records := rfl
@[simp] theorem State.modLaunch_serial (f : Launch → Launch) (s : State) : (s.modLaunch f).serial = s.serial := rfl

/-! ## modFabric -/

@[simp] theorem State.modFabric_cur (f : Fabric → Fabric) (s : State) : (s.modFabric f).cur = s.cur := rfl
@[simp] theorem State.modFabric_focus (f : Fabric → Fabric) (s : State) : (s.modFabric f).focus = s.focus := rfl
@[simp] theorem State.modFabric_agenda (f : Fabric → Fabric) (s : State) : (s.modFabric f).agenda = s.agenda := rfl
@[simp] theorem State.modFabric_work (f : Fabric → Fabric) (s : State) : (s.modFabric f).work = s.work := rfl
@[simp] theorem State.modFabric_todo (f : Fabric → Fabric) (s : State) : (s.modFabric f).todo = s.todo := rfl
@[simp] theorem State.modFabric_rank (f : Fabric → Fabric) (s : State) : (s.modFabric f).rank = s.rank := rfl
@[simp] theorem State.modFabric_arg (f : Fabric → Fabric) (s : State) : (s.modFabric f).arg = s.arg := rfl
@[simp] theorem State.modFabric_deferred (f : Fabric → Fabric) (s : State) : (s.modFabric f).deferred = s.deferred := rfl
@[simp] theorem State.modFabric_fresh (f : Fabric → Fabric) (s : State) : (s.modFabric f).fresh = s.fresh := rfl
@[simp] theorem State.modFabric_cycle (f : Fabric → Fabric) (s : State) : (s.modFabric f).cycle = s.cycle := rfl
@[simp] theorem State.modFabric_time (f : Fabric → Fabric) (s : State) : (s.modFabric f).time = s.time := rfl
@[simp] theorem State.modFabric_halted (f : Fabric → Fabric) (s : State) : (s.modFabric f).halted = s.halted := rfl
@[simp] theorem State.modFabric_slots (f : Fabric → Fabric) (s : State) : (s.modFabric f).slots = s.slots := rfl
@[simp] theorem State.modFabric_cores (f : Fabric → Fabric) (s : State) : (s.modFabric f).cores = s.cores := rfl
@[simp] theorem State.modFabric_clusters (f : Fabric → Fabric) (s : State) : (s.modFabric f).clusters = s.clusters := rfl
@[simp] theorem State.modFabric_sectors (f : Fabric → Fabric) (s : State) : (s.modFabric f).sectors = s.sectors := rfl
@[simp] theorem State.modFabric_monitors (f : Fabric → Fabric) (s : State) : (s.modFabric f).monitors = s.monitors := rfl
@[simp] theorem State.modFabric_parts (f : Fabric → Fabric) (s : State) : (s.modFabric f).parts = s.parts := rfl
@[simp] theorem State.modFabric_launch (f : Fabric → Fabric) (s : State) : (s.modFabric f).launch = s.launch := rfl
@[simp] theorem State.modFabric_chip (f : Fabric → Fabric) (s : State) : (s.modFabric f).chip = s.chip := rfl
@[simp] theorem State.modFabric_mem (f : Fabric → Fabric) (s : State) : (s.modFabric f).mem = s.mem := rfl
@[simp] theorem State.modFabric_full (f : Fabric → Fabric) (s : State) : (s.modFabric f).full = s.full := rfl
@[simp] theorem State.modFabric_poison (f : Fabric → Fabric) (s : State) : (s.modFabric f).poison = s.poison := rfl
@[simp] theorem State.modFabric_fills (f : Fabric → Fabric) (s : State) : (s.modFabric f).fills = s.fills := rfl
@[simp] theorem State.modFabric_l2 (f : Fabric → Fabric) (s : State) : (s.modFabric f).l2 = s.l2 := rfl
@[simp] theorem State.modFabric_errors (f : Fabric → Fabric) (s : State) : (s.modFabric f).errors = s.errors := rfl
@[simp] theorem State.modFabric_written (f : Fabric → Fabric) (s : State) : (s.modFabric f).written = s.written := rfl
@[simp] theorem State.modFabric_net (f : Fabric → Fabric) (s : State) : (s.modFabric f).net = s.net := rfl
@[simp] theorem State.modFabric_netOut (f : Fabric → Fabric) (s : State) : (s.modFabric f).netOut = s.netOut := rfl
@[simp] theorem State.modFabric_shoots (f : Fabric → Fabric) (s : State) : (s.modFabric f).shoots = s.shoots := rfl
@[simp] theorem State.modFabric_saved (f : Fabric → Fabric) (s : State) : (s.modFabric f).saved = s.saved := rfl
@[simp] theorem State.modFabric_saves (f : Fabric → Fabric) (s : State) : (s.modFabric f).saves = s.saves := rfl
@[simp] theorem State.modFabric_records (f : Fabric → Fabric) (s : State) : (s.modFabric f).records = s.records := rfl
@[simp] theorem State.modFabric_serial (f : Fabric → Fabric) (s : State) : (s.modFabric f).serial = s.serial := rfl

/-! ## modChip -/

@[simp] theorem State.modChip_cur (f : Chip → Chip) (s : State) : (s.modChip f).cur = s.cur := rfl
@[simp] theorem State.modChip_focus (f : Chip → Chip) (s : State) : (s.modChip f).focus = s.focus := rfl
@[simp] theorem State.modChip_agenda (f : Chip → Chip) (s : State) : (s.modChip f).agenda = s.agenda := rfl
@[simp] theorem State.modChip_work (f : Chip → Chip) (s : State) : (s.modChip f).work = s.work := rfl
@[simp] theorem State.modChip_todo (f : Chip → Chip) (s : State) : (s.modChip f).todo = s.todo := rfl
@[simp] theorem State.modChip_rank (f : Chip → Chip) (s : State) : (s.modChip f).rank = s.rank := rfl
@[simp] theorem State.modChip_arg (f : Chip → Chip) (s : State) : (s.modChip f).arg = s.arg := rfl
@[simp] theorem State.modChip_deferred (f : Chip → Chip) (s : State) : (s.modChip f).deferred = s.deferred := rfl
@[simp] theorem State.modChip_fresh (f : Chip → Chip) (s : State) : (s.modChip f).fresh = s.fresh := rfl
@[simp] theorem State.modChip_cycle (f : Chip → Chip) (s : State) : (s.modChip f).cycle = s.cycle := rfl
@[simp] theorem State.modChip_time (f : Chip → Chip) (s : State) : (s.modChip f).time = s.time := rfl
@[simp] theorem State.modChip_halted (f : Chip → Chip) (s : State) : (s.modChip f).halted = s.halted := rfl
@[simp] theorem State.modChip_slots (f : Chip → Chip) (s : State) : (s.modChip f).slots = s.slots := rfl
@[simp] theorem State.modChip_cores (f : Chip → Chip) (s : State) : (s.modChip f).cores = s.cores := rfl
@[simp] theorem State.modChip_clusters (f : Chip → Chip) (s : State) : (s.modChip f).clusters = s.clusters := rfl
@[simp] theorem State.modChip_sectors (f : Chip → Chip) (s : State) : (s.modChip f).sectors = s.sectors := rfl
@[simp] theorem State.modChip_monitors (f : Chip → Chip) (s : State) : (s.modChip f).monitors = s.monitors := rfl
@[simp] theorem State.modChip_parts (f : Chip → Chip) (s : State) : (s.modChip f).parts = s.parts := rfl
@[simp] theorem State.modChip_launch (f : Chip → Chip) (s : State) : (s.modChip f).launch = s.launch := rfl
@[simp] theorem State.modChip_fabric (f : Chip → Chip) (s : State) : (s.modChip f).fabric = s.fabric := rfl
@[simp] theorem State.modChip_mem (f : Chip → Chip) (s : State) : (s.modChip f).mem = s.mem := rfl
@[simp] theorem State.modChip_full (f : Chip → Chip) (s : State) : (s.modChip f).full = s.full := rfl
@[simp] theorem State.modChip_poison (f : Chip → Chip) (s : State) : (s.modChip f).poison = s.poison := rfl
@[simp] theorem State.modChip_fills (f : Chip → Chip) (s : State) : (s.modChip f).fills = s.fills := rfl
@[simp] theorem State.modChip_l2 (f : Chip → Chip) (s : State) : (s.modChip f).l2 = s.l2 := rfl
@[simp] theorem State.modChip_errors (f : Chip → Chip) (s : State) : (s.modChip f).errors = s.errors := rfl
@[simp] theorem State.modChip_written (f : Chip → Chip) (s : State) : (s.modChip f).written = s.written := rfl
@[simp] theorem State.modChip_net (f : Chip → Chip) (s : State) : (s.modChip f).net = s.net := rfl
@[simp] theorem State.modChip_netOut (f : Chip → Chip) (s : State) : (s.modChip f).netOut = s.netOut := rfl
@[simp] theorem State.modChip_shoots (f : Chip → Chip) (s : State) : (s.modChip f).shoots = s.shoots := rfl
@[simp] theorem State.modChip_saved (f : Chip → Chip) (s : State) : (s.modChip f).saved = s.saved := rfl
@[simp] theorem State.modChip_saves (f : Chip → Chip) (s : State) : (s.modChip f).saves = s.saves := rfl
@[simp] theorem State.modChip_records (f : Chip → Chip) (s : State) : (s.modChip f).records = s.records := rfl
@[simp] theorem State.modChip_serial (f : Chip → Chip) (s : State) : (s.modChip f).serial = s.serial := rfl

/-! ## setBytes -/

@[simp] theorem State.setBytes_cur (k : Nat) (l : List Byte) (s : State) : (s.setBytes k l).cur = s.cur := rfl
@[simp] theorem State.setBytes_focus (k : Nat) (l : List Byte) (s : State) : (s.setBytes k l).focus = s.focus := rfl
@[simp] theorem State.setBytes_agenda (k : Nat) (l : List Byte) (s : State) : (s.setBytes k l).agenda = s.agenda := rfl
@[simp] theorem State.setBytes_work (k : Nat) (l : List Byte) (s : State) : (s.setBytes k l).work = s.work := rfl
@[simp] theorem State.setBytes_todo (k : Nat) (l : List Byte) (s : State) : (s.setBytes k l).todo = s.todo := rfl
@[simp] theorem State.setBytes_rank (k : Nat) (l : List Byte) (s : State) : (s.setBytes k l).rank = s.rank := rfl
@[simp] theorem State.setBytes_arg (k : Nat) (l : List Byte) (s : State) : (s.setBytes k l).arg = s.arg := rfl
@[simp] theorem State.setBytes_deferred (k : Nat) (l : List Byte) (s : State) : (s.setBytes k l).deferred = s.deferred := rfl
@[simp] theorem State.setBytes_fresh (k : Nat) (l : List Byte) (s : State) : (s.setBytes k l).fresh = s.fresh := rfl
@[simp] theorem State.setBytes_cycle (k : Nat) (l : List Byte) (s : State) : (s.setBytes k l).cycle = s.cycle := rfl
@[simp] theorem State.setBytes_time (k : Nat) (l : List Byte) (s : State) : (s.setBytes k l).time = s.time := rfl
@[simp] theorem State.setBytes_halted (k : Nat) (l : List Byte) (s : State) : (s.setBytes k l).halted = s.halted := rfl
@[simp] theorem State.setBytes_slots (k : Nat) (l : List Byte) (s : State) : (s.setBytes k l).slots = s.slots := rfl
@[simp] theorem State.setBytes_cores (k : Nat) (l : List Byte) (s : State) : (s.setBytes k l).cores = s.cores := rfl
@[simp] theorem State.setBytes_clusters (k : Nat) (l : List Byte) (s : State) : (s.setBytes k l).clusters = s.clusters := rfl
@[simp] theorem State.setBytes_sectors (k : Nat) (l : List Byte) (s : State) : (s.setBytes k l).sectors = s.sectors := rfl
@[simp] theorem State.setBytes_monitors (k : Nat) (l : List Byte) (s : State) : (s.setBytes k l).monitors = s.monitors := rfl
@[simp] theorem State.setBytes_parts (k : Nat) (l : List Byte) (s : State) : (s.setBytes k l).parts = s.parts := rfl
@[simp] theorem State.setBytes_launch (k : Nat) (l : List Byte) (s : State) : (s.setBytes k l).launch = s.launch := rfl
@[simp] theorem State.setBytes_fabric (k : Nat) (l : List Byte) (s : State) : (s.setBytes k l).fabric = s.fabric := rfl
@[simp] theorem State.setBytes_chip (k : Nat) (l : List Byte) (s : State) : (s.setBytes k l).chip = s.chip := rfl
@[simp] theorem State.setBytes_full (k : Nat) (l : List Byte) (s : State) : (s.setBytes k l).full = s.full := rfl
@[simp] theorem State.setBytes_poison (k : Nat) (l : List Byte) (s : State) : (s.setBytes k l).poison = s.poison := rfl
@[simp] theorem State.setBytes_fills (k : Nat) (l : List Byte) (s : State) : (s.setBytes k l).fills = s.fills := rfl
@[simp] theorem State.setBytes_l2 (k : Nat) (l : List Byte) (s : State) : (s.setBytes k l).l2 = s.l2 := rfl
@[simp] theorem State.setBytes_errors (k : Nat) (l : List Byte) (s : State) : (s.setBytes k l).errors = s.errors := rfl
@[simp] theorem State.setBytes_written (k : Nat) (l : List Byte) (s : State) : (s.setBytes k l).written = s.written := rfl
@[simp] theorem State.setBytes_net (k : Nat) (l : List Byte) (s : State) : (s.setBytes k l).net = s.net := rfl
@[simp] theorem State.setBytes_netOut (k : Nat) (l : List Byte) (s : State) : (s.setBytes k l).netOut = s.netOut := rfl
@[simp] theorem State.setBytes_shoots (k : Nat) (l : List Byte) (s : State) : (s.setBytes k l).shoots = s.shoots := rfl
@[simp] theorem State.setBytes_saved (k : Nat) (l : List Byte) (s : State) : (s.setBytes k l).saved = s.saved := rfl
@[simp] theorem State.setBytes_saves (k : Nat) (l : List Byte) (s : State) : (s.setBytes k l).saves = s.saves := rfl
@[simp] theorem State.setBytes_records (k : Nat) (l : List Byte) (s : State) : (s.setBytes k l).records = s.records := rfl
@[simp] theorem State.setBytes_serial (k : Nat) (l : List Byte) (s : State) : (s.setBytes k l).serial = s.serial := rfl

/-! ## setPoison -/

@[simp] theorem State.setPoison_cur (k : Nat) (b : Bool) (s : State) : (s.setPoison k b).cur = s.cur := rfl
@[simp] theorem State.setPoison_focus (k : Nat) (b : Bool) (s : State) : (s.setPoison k b).focus = s.focus := rfl
@[simp] theorem State.setPoison_agenda (k : Nat) (b : Bool) (s : State) : (s.setPoison k b).agenda = s.agenda := rfl
@[simp] theorem State.setPoison_work (k : Nat) (b : Bool) (s : State) : (s.setPoison k b).work = s.work := rfl
@[simp] theorem State.setPoison_todo (k : Nat) (b : Bool) (s : State) : (s.setPoison k b).todo = s.todo := rfl
@[simp] theorem State.setPoison_rank (k : Nat) (b : Bool) (s : State) : (s.setPoison k b).rank = s.rank := rfl
@[simp] theorem State.setPoison_arg (k : Nat) (b : Bool) (s : State) : (s.setPoison k b).arg = s.arg := rfl
@[simp] theorem State.setPoison_deferred (k : Nat) (b : Bool) (s : State) : (s.setPoison k b).deferred = s.deferred := rfl
@[simp] theorem State.setPoison_fresh (k : Nat) (b : Bool) (s : State) : (s.setPoison k b).fresh = s.fresh := rfl
@[simp] theorem State.setPoison_cycle (k : Nat) (b : Bool) (s : State) : (s.setPoison k b).cycle = s.cycle := rfl
@[simp] theorem State.setPoison_time (k : Nat) (b : Bool) (s : State) : (s.setPoison k b).time = s.time := rfl
@[simp] theorem State.setPoison_halted (k : Nat) (b : Bool) (s : State) : (s.setPoison k b).halted = s.halted := rfl
@[simp] theorem State.setPoison_slots (k : Nat) (b : Bool) (s : State) : (s.setPoison k b).slots = s.slots := rfl
@[simp] theorem State.setPoison_cores (k : Nat) (b : Bool) (s : State) : (s.setPoison k b).cores = s.cores := rfl
@[simp] theorem State.setPoison_clusters (k : Nat) (b : Bool) (s : State) : (s.setPoison k b).clusters = s.clusters := rfl
@[simp] theorem State.setPoison_sectors (k : Nat) (b : Bool) (s : State) : (s.setPoison k b).sectors = s.sectors := rfl
@[simp] theorem State.setPoison_monitors (k : Nat) (b : Bool) (s : State) : (s.setPoison k b).monitors = s.monitors := rfl
@[simp] theorem State.setPoison_parts (k : Nat) (b : Bool) (s : State) : (s.setPoison k b).parts = s.parts := rfl
@[simp] theorem State.setPoison_launch (k : Nat) (b : Bool) (s : State) : (s.setPoison k b).launch = s.launch := rfl
@[simp] theorem State.setPoison_fabric (k : Nat) (b : Bool) (s : State) : (s.setPoison k b).fabric = s.fabric := rfl
@[simp] theorem State.setPoison_chip (k : Nat) (b : Bool) (s : State) : (s.setPoison k b).chip = s.chip := rfl
@[simp] theorem State.setPoison_mem (k : Nat) (b : Bool) (s : State) : (s.setPoison k b).mem = s.mem := rfl
@[simp] theorem State.setPoison_full (k : Nat) (b : Bool) (s : State) : (s.setPoison k b).full = s.full := rfl
@[simp] theorem State.setPoison_fills (k : Nat) (b : Bool) (s : State) : (s.setPoison k b).fills = s.fills := rfl
@[simp] theorem State.setPoison_l2 (k : Nat) (b : Bool) (s : State) : (s.setPoison k b).l2 = s.l2 := rfl
@[simp] theorem State.setPoison_errors (k : Nat) (b : Bool) (s : State) : (s.setPoison k b).errors = s.errors := rfl
@[simp] theorem State.setPoison_written (k : Nat) (b : Bool) (s : State) : (s.setPoison k b).written = s.written := rfl
@[simp] theorem State.setPoison_net (k : Nat) (b : Bool) (s : State) : (s.setPoison k b).net = s.net := rfl
@[simp] theorem State.setPoison_netOut (k : Nat) (b : Bool) (s : State) : (s.setPoison k b).netOut = s.netOut := rfl
@[simp] theorem State.setPoison_shoots (k : Nat) (b : Bool) (s : State) : (s.setPoison k b).shoots = s.shoots := rfl
@[simp] theorem State.setPoison_saved (k : Nat) (b : Bool) (s : State) : (s.setPoison k b).saved = s.saved := rfl
@[simp] theorem State.setPoison_saves (k : Nat) (b : Bool) (s : State) : (s.setPoison k b).saves = s.saves := rfl
@[simp] theorem State.setPoison_records (k : Nat) (b : Bool) (s : State) : (s.setPoison k b).records = s.records := rfl
@[simp] theorem State.setPoison_serial (k : Nat) (b : Bool) (s : State) : (s.setPoison k b).serial = s.serial := rfl

/-! ## setFullAt -/

@[simp] theorem State.setFullAt_cur (k : Nat) (b : Bool) (s : State) : (s.setFullAt k b).cur = s.cur := rfl
@[simp] theorem State.setFullAt_focus (k : Nat) (b : Bool) (s : State) : (s.setFullAt k b).focus = s.focus := rfl
@[simp] theorem State.setFullAt_agenda (k : Nat) (b : Bool) (s : State) : (s.setFullAt k b).agenda = s.agenda := rfl
@[simp] theorem State.setFullAt_work (k : Nat) (b : Bool) (s : State) : (s.setFullAt k b).work = s.work := rfl
@[simp] theorem State.setFullAt_todo (k : Nat) (b : Bool) (s : State) : (s.setFullAt k b).todo = s.todo := rfl
@[simp] theorem State.setFullAt_rank (k : Nat) (b : Bool) (s : State) : (s.setFullAt k b).rank = s.rank := rfl
@[simp] theorem State.setFullAt_arg (k : Nat) (b : Bool) (s : State) : (s.setFullAt k b).arg = s.arg := rfl
@[simp] theorem State.setFullAt_deferred (k : Nat) (b : Bool) (s : State) : (s.setFullAt k b).deferred = s.deferred := rfl
@[simp] theorem State.setFullAt_fresh (k : Nat) (b : Bool) (s : State) : (s.setFullAt k b).fresh = s.fresh := rfl
@[simp] theorem State.setFullAt_cycle (k : Nat) (b : Bool) (s : State) : (s.setFullAt k b).cycle = s.cycle := rfl
@[simp] theorem State.setFullAt_time (k : Nat) (b : Bool) (s : State) : (s.setFullAt k b).time = s.time := rfl
@[simp] theorem State.setFullAt_halted (k : Nat) (b : Bool) (s : State) : (s.setFullAt k b).halted = s.halted := rfl
@[simp] theorem State.setFullAt_slots (k : Nat) (b : Bool) (s : State) : (s.setFullAt k b).slots = s.slots := rfl
@[simp] theorem State.setFullAt_cores (k : Nat) (b : Bool) (s : State) : (s.setFullAt k b).cores = s.cores := rfl
@[simp] theorem State.setFullAt_clusters (k : Nat) (b : Bool) (s : State) : (s.setFullAt k b).clusters = s.clusters := rfl
@[simp] theorem State.setFullAt_sectors (k : Nat) (b : Bool) (s : State) : (s.setFullAt k b).sectors = s.sectors := rfl
@[simp] theorem State.setFullAt_monitors (k : Nat) (b : Bool) (s : State) : (s.setFullAt k b).monitors = s.monitors := rfl
@[simp] theorem State.setFullAt_parts (k : Nat) (b : Bool) (s : State) : (s.setFullAt k b).parts = s.parts := rfl
@[simp] theorem State.setFullAt_launch (k : Nat) (b : Bool) (s : State) : (s.setFullAt k b).launch = s.launch := rfl
@[simp] theorem State.setFullAt_fabric (k : Nat) (b : Bool) (s : State) : (s.setFullAt k b).fabric = s.fabric := rfl
@[simp] theorem State.setFullAt_chip (k : Nat) (b : Bool) (s : State) : (s.setFullAt k b).chip = s.chip := rfl
@[simp] theorem State.setFullAt_mem (k : Nat) (b : Bool) (s : State) : (s.setFullAt k b).mem = s.mem := rfl
@[simp] theorem State.setFullAt_poison (k : Nat) (b : Bool) (s : State) : (s.setFullAt k b).poison = s.poison := rfl
@[simp] theorem State.setFullAt_fills (k : Nat) (b : Bool) (s : State) : (s.setFullAt k b).fills = s.fills := rfl
@[simp] theorem State.setFullAt_l2 (k : Nat) (b : Bool) (s : State) : (s.setFullAt k b).l2 = s.l2 := rfl
@[simp] theorem State.setFullAt_errors (k : Nat) (b : Bool) (s : State) : (s.setFullAt k b).errors = s.errors := rfl
@[simp] theorem State.setFullAt_written (k : Nat) (b : Bool) (s : State) : (s.setFullAt k b).written = s.written := rfl
@[simp] theorem State.setFullAt_net (k : Nat) (b : Bool) (s : State) : (s.setFullAt k b).net = s.net := rfl
@[simp] theorem State.setFullAt_netOut (k : Nat) (b : Bool) (s : State) : (s.setFullAt k b).netOut = s.netOut := rfl
@[simp] theorem State.setFullAt_shoots (k : Nat) (b : Bool) (s : State) : (s.setFullAt k b).shoots = s.shoots := rfl
@[simp] theorem State.setFullAt_saved (k : Nat) (b : Bool) (s : State) : (s.setFullAt k b).saved = s.saved := rfl
@[simp] theorem State.setFullAt_saves (k : Nat) (b : Bool) (s : State) : (s.setFullAt k b).saves = s.saves := rfl
@[simp] theorem State.setFullAt_records (k : Nat) (b : Bool) (s : State) : (s.setFullAt k b).records = s.records := rfl
@[simp] theorem State.setFullAt_serial (k : Nat) (b : Bool) (s : State) : (s.setFullAt k b).serial = s.serial := rfl

/-! ## post -/

@[simp] theorem State.post_cur (i : Sys2Proof.Instr) (a : Arg) (s : State) : (s.post i a).cur = s.cur := rfl
@[simp] theorem State.post_focus (i : Sys2Proof.Instr) (a : Arg) (s : State) : (s.post i a).focus = s.focus := rfl
@[simp] theorem State.post_agenda (i : Sys2Proof.Instr) (a : Arg) (s : State) : (s.post i a).agenda = s.agenda := rfl
@[simp] theorem State.post_todo (i : Sys2Proof.Instr) (a : Arg) (s : State) : (s.post i a).todo = s.todo := rfl
@[simp] theorem State.post_rank (i : Sys2Proof.Instr) (a : Arg) (s : State) : (s.post i a).rank = s.rank := rfl
@[simp] theorem State.post_arg (i : Sys2Proof.Instr) (a : Arg) (s : State) : (s.post i a).arg = s.arg := rfl
@[simp] theorem State.post_deferred (i : Sys2Proof.Instr) (a : Arg) (s : State) : (s.post i a).deferred = s.deferred := rfl
@[simp] theorem State.post_fresh (i : Sys2Proof.Instr) (a : Arg) (s : State) : (s.post i a).fresh = s.fresh := rfl
@[simp] theorem State.post_cycle (i : Sys2Proof.Instr) (a : Arg) (s : State) : (s.post i a).cycle = s.cycle := rfl
@[simp] theorem State.post_time (i : Sys2Proof.Instr) (a : Arg) (s : State) : (s.post i a).time = s.time := rfl
@[simp] theorem State.post_halted (i : Sys2Proof.Instr) (a : Arg) (s : State) : (s.post i a).halted = s.halted := rfl
@[simp] theorem State.post_slots (i : Sys2Proof.Instr) (a : Arg) (s : State) : (s.post i a).slots = s.slots := rfl
@[simp] theorem State.post_cores (i : Sys2Proof.Instr) (a : Arg) (s : State) : (s.post i a).cores = s.cores := rfl
@[simp] theorem State.post_clusters (i : Sys2Proof.Instr) (a : Arg) (s : State) : (s.post i a).clusters = s.clusters := rfl
@[simp] theorem State.post_sectors (i : Sys2Proof.Instr) (a : Arg) (s : State) : (s.post i a).sectors = s.sectors := rfl
@[simp] theorem State.post_monitors (i : Sys2Proof.Instr) (a : Arg) (s : State) : (s.post i a).monitors = s.monitors := rfl
@[simp] theorem State.post_parts (i : Sys2Proof.Instr) (a : Arg) (s : State) : (s.post i a).parts = s.parts := rfl
@[simp] theorem State.post_launch (i : Sys2Proof.Instr) (a : Arg) (s : State) : (s.post i a).launch = s.launch := rfl
@[simp] theorem State.post_fabric (i : Sys2Proof.Instr) (a : Arg) (s : State) : (s.post i a).fabric = s.fabric := rfl
@[simp] theorem State.post_chip (i : Sys2Proof.Instr) (a : Arg) (s : State) : (s.post i a).chip = s.chip := rfl
@[simp] theorem State.post_mem (i : Sys2Proof.Instr) (a : Arg) (s : State) : (s.post i a).mem = s.mem := rfl
@[simp] theorem State.post_full (i : Sys2Proof.Instr) (a : Arg) (s : State) : (s.post i a).full = s.full := rfl
@[simp] theorem State.post_poison (i : Sys2Proof.Instr) (a : Arg) (s : State) : (s.post i a).poison = s.poison := rfl
@[simp] theorem State.post_fills (i : Sys2Proof.Instr) (a : Arg) (s : State) : (s.post i a).fills = s.fills := rfl
@[simp] theorem State.post_l2 (i : Sys2Proof.Instr) (a : Arg) (s : State) : (s.post i a).l2 = s.l2 := rfl
@[simp] theorem State.post_errors (i : Sys2Proof.Instr) (a : Arg) (s : State) : (s.post i a).errors = s.errors := rfl
@[simp] theorem State.post_written (i : Sys2Proof.Instr) (a : Arg) (s : State) : (s.post i a).written = s.written := rfl
@[simp] theorem State.post_net (i : Sys2Proof.Instr) (a : Arg) (s : State) : (s.post i a).net = s.net := rfl
@[simp] theorem State.post_netOut (i : Sys2Proof.Instr) (a : Arg) (s : State) : (s.post i a).netOut = s.netOut := rfl
@[simp] theorem State.post_shoots (i : Sys2Proof.Instr) (a : Arg) (s : State) : (s.post i a).shoots = s.shoots := rfl
@[simp] theorem State.post_saved (i : Sys2Proof.Instr) (a : Arg) (s : State) : (s.post i a).saved = s.saved := rfl
@[simp] theorem State.post_saves (i : Sys2Proof.Instr) (a : Arg) (s : State) : (s.post i a).saves = s.saves := rfl
@[simp] theorem State.post_records (i : Sys2Proof.Instr) (a : Arg) (s : State) : (s.post i a).records = s.records := rfl
@[simp] theorem State.post_serial (i : Sys2Proof.Instr) (a : Arg) (s : State) : (s.post i a).serial = s.serial := rfl

/-! ## defer -/

@[simp] theorem State.defer_cur (s : State) : (s.defer).cur = s.cur := rfl
@[simp] theorem State.defer_focus (s : State) : (s.defer).focus = s.focus := rfl
@[simp] theorem State.defer_agenda (s : State) : (s.defer).agenda = s.agenda := rfl
@[simp] theorem State.defer_work (s : State) : (s.defer).work = s.work := rfl
@[simp] theorem State.defer_todo (s : State) : (s.defer).todo = s.todo := rfl
@[simp] theorem State.defer_rank (s : State) : (s.defer).rank = s.rank := rfl
@[simp] theorem State.defer_arg (s : State) : (s.defer).arg = s.arg := rfl
@[simp] theorem State.defer_fresh (s : State) : (s.defer).fresh = s.fresh := rfl
@[simp] theorem State.defer_cycle (s : State) : (s.defer).cycle = s.cycle := rfl
@[simp] theorem State.defer_time (s : State) : (s.defer).time = s.time := rfl
@[simp] theorem State.defer_halted (s : State) : (s.defer).halted = s.halted := rfl
@[simp] theorem State.defer_slots (s : State) : (s.defer).slots = s.slots := rfl
@[simp] theorem State.defer_cores (s : State) : (s.defer).cores = s.cores := rfl
@[simp] theorem State.defer_clusters (s : State) : (s.defer).clusters = s.clusters := rfl
@[simp] theorem State.defer_sectors (s : State) : (s.defer).sectors = s.sectors := rfl
@[simp] theorem State.defer_monitors (s : State) : (s.defer).monitors = s.monitors := rfl
@[simp] theorem State.defer_parts (s : State) : (s.defer).parts = s.parts := rfl
@[simp] theorem State.defer_launch (s : State) : (s.defer).launch = s.launch := rfl
@[simp] theorem State.defer_fabric (s : State) : (s.defer).fabric = s.fabric := rfl
@[simp] theorem State.defer_chip (s : State) : (s.defer).chip = s.chip := rfl
@[simp] theorem State.defer_mem (s : State) : (s.defer).mem = s.mem := rfl
@[simp] theorem State.defer_full (s : State) : (s.defer).full = s.full := rfl
@[simp] theorem State.defer_poison (s : State) : (s.defer).poison = s.poison := rfl
@[simp] theorem State.defer_fills (s : State) : (s.defer).fills = s.fills := rfl
@[simp] theorem State.defer_l2 (s : State) : (s.defer).l2 = s.l2 := rfl
@[simp] theorem State.defer_errors (s : State) : (s.defer).errors = s.errors := rfl
@[simp] theorem State.defer_written (s : State) : (s.defer).written = s.written := rfl
@[simp] theorem State.defer_net (s : State) : (s.defer).net = s.net := rfl
@[simp] theorem State.defer_netOut (s : State) : (s.defer).netOut = s.netOut := rfl
@[simp] theorem State.defer_shoots (s : State) : (s.defer).shoots = s.shoots := rfl
@[simp] theorem State.defer_saved (s : State) : (s.defer).saved = s.saved := rfl
@[simp] theorem State.defer_saves (s : State) : (s.defer).saves = s.saves := rfl
@[simp] theorem State.defer_records (s : State) : (s.defer).records = s.records := rfl
@[simp] theorem State.defer_serial (s : State) : (s.defer).serial = s.serial := rfl

/-! ## record -/

@[simp] theorem State.record_cur (c n : Nat) (v w : Word) (s : State) : (s.record c n v w).cur = s.cur := rfl
@[simp] theorem State.record_focus (c n : Nat) (v w : Word) (s : State) : (s.record c n v w).focus = s.focus := rfl
@[simp] theorem State.record_agenda (c n : Nat) (v w : Word) (s : State) : (s.record c n v w).agenda = s.agenda := rfl
@[simp] theorem State.record_work (c n : Nat) (v w : Word) (s : State) : (s.record c n v w).work = s.work := rfl
@[simp] theorem State.record_todo (c n : Nat) (v w : Word) (s : State) : (s.record c n v w).todo = s.todo := rfl
@[simp] theorem State.record_rank (c n : Nat) (v w : Word) (s : State) : (s.record c n v w).rank = s.rank := rfl
@[simp] theorem State.record_arg (c n : Nat) (v w : Word) (s : State) : (s.record c n v w).arg = s.arg := rfl
@[simp] theorem State.record_deferred (c n : Nat) (v w : Word) (s : State) : (s.record c n v w).deferred = s.deferred := rfl
@[simp] theorem State.record_fresh (c n : Nat) (v w : Word) (s : State) : (s.record c n v w).fresh = s.fresh := rfl
@[simp] theorem State.record_cycle (c n : Nat) (v w : Word) (s : State) : (s.record c n v w).cycle = s.cycle := rfl
@[simp] theorem State.record_time (c n : Nat) (v w : Word) (s : State) : (s.record c n v w).time = s.time := rfl
@[simp] theorem State.record_halted (c n : Nat) (v w : Word) (s : State) : (s.record c n v w).halted = s.halted := rfl
@[simp] theorem State.record_slots (c n : Nat) (v w : Word) (s : State) : (s.record c n v w).slots = s.slots := rfl
@[simp] theorem State.record_cores (c n : Nat) (v w : Word) (s : State) : (s.record c n v w).cores = s.cores := rfl
@[simp] theorem State.record_clusters (c n : Nat) (v w : Word) (s : State) : (s.record c n v w).clusters = s.clusters := rfl
@[simp] theorem State.record_sectors (c n : Nat) (v w : Word) (s : State) : (s.record c n v w).sectors = s.sectors := rfl
@[simp] theorem State.record_monitors (c n : Nat) (v w : Word) (s : State) : (s.record c n v w).monitors = s.monitors := rfl
@[simp] theorem State.record_parts (c n : Nat) (v w : Word) (s : State) : (s.record c n v w).parts = s.parts := rfl
@[simp] theorem State.record_launch (c n : Nat) (v w : Word) (s : State) : (s.record c n v w).launch = s.launch := rfl
@[simp] theorem State.record_fabric (c n : Nat) (v w : Word) (s : State) : (s.record c n v w).fabric = s.fabric := rfl
@[simp] theorem State.record_chip (c n : Nat) (v w : Word) (s : State) : (s.record c n v w).chip = s.chip := rfl
@[simp] theorem State.record_mem (c n : Nat) (v w : Word) (s : State) : (s.record c n v w).mem = s.mem := rfl
@[simp] theorem State.record_full (c n : Nat) (v w : Word) (s : State) : (s.record c n v w).full = s.full := rfl
@[simp] theorem State.record_poison (c n : Nat) (v w : Word) (s : State) : (s.record c n v w).poison = s.poison := rfl
@[simp] theorem State.record_fills (c n : Nat) (v w : Word) (s : State) : (s.record c n v w).fills = s.fills := rfl
@[simp] theorem State.record_l2 (c n : Nat) (v w : Word) (s : State) : (s.record c n v w).l2 = s.l2 := rfl
@[simp] theorem State.record_errors (c n : Nat) (v w : Word) (s : State) : (s.record c n v w).errors = s.errors := rfl
@[simp] theorem State.record_written (c n : Nat) (v w : Word) (s : State) : (s.record c n v w).written = s.written := rfl
@[simp] theorem State.record_net (c n : Nat) (v w : Word) (s : State) : (s.record c n v w).net = s.net := rfl
@[simp] theorem State.record_netOut (c n : Nat) (v w : Word) (s : State) : (s.record c n v w).netOut = s.netOut := rfl
@[simp] theorem State.record_shoots (c n : Nat) (v w : Word) (s : State) : (s.record c n v w).shoots = s.shoots := rfl
@[simp] theorem State.record_saved (c n : Nat) (v w : Word) (s : State) : (s.record c n v w).saved = s.saved := rfl
@[simp] theorem State.record_saves (c n : Nat) (v w : Word) (s : State) : (s.record c n v w).saves = s.saves := rfl
@[simp] theorem State.record_serial (c n : Nat) (v w : Word) (s : State) : (s.record c n v w).serial = s.serial := rfl

/-! ## setX -/

@[simp] theorem State.setX_cur (r : Reg) (v : Word) (s : State) : (s.setX r v).cur = s.cur := rfl
@[simp] theorem State.setX_focus (r : Reg) (v : Word) (s : State) : (s.setX r v).focus = s.focus := rfl
@[simp] theorem State.setX_agenda (r : Reg) (v : Word) (s : State) : (s.setX r v).agenda = s.agenda := rfl
@[simp] theorem State.setX_work (r : Reg) (v : Word) (s : State) : (s.setX r v).work = s.work := rfl
@[simp] theorem State.setX_todo (r : Reg) (v : Word) (s : State) : (s.setX r v).todo = s.todo := rfl
@[simp] theorem State.setX_rank (r : Reg) (v : Word) (s : State) : (s.setX r v).rank = s.rank := rfl
@[simp] theorem State.setX_arg (r : Reg) (v : Word) (s : State) : (s.setX r v).arg = s.arg := rfl
@[simp] theorem State.setX_deferred (r : Reg) (v : Word) (s : State) : (s.setX r v).deferred = s.deferred := rfl
@[simp] theorem State.setX_fresh (r : Reg) (v : Word) (s : State) : (s.setX r v).fresh = s.fresh := rfl
@[simp] theorem State.setX_cycle (r : Reg) (v : Word) (s : State) : (s.setX r v).cycle = s.cycle := rfl
@[simp] theorem State.setX_time (r : Reg) (v : Word) (s : State) : (s.setX r v).time = s.time := rfl
@[simp] theorem State.setX_halted (r : Reg) (v : Word) (s : State) : (s.setX r v).halted = s.halted := rfl
@[simp] theorem State.setX_cores (r : Reg) (v : Word) (s : State) : (s.setX r v).cores = s.cores := rfl
@[simp] theorem State.setX_clusters (r : Reg) (v : Word) (s : State) : (s.setX r v).clusters = s.clusters := rfl
@[simp] theorem State.setX_sectors (r : Reg) (v : Word) (s : State) : (s.setX r v).sectors = s.sectors := rfl
@[simp] theorem State.setX_monitors (r : Reg) (v : Word) (s : State) : (s.setX r v).monitors = s.monitors := rfl
@[simp] theorem State.setX_parts (r : Reg) (v : Word) (s : State) : (s.setX r v).parts = s.parts := rfl
@[simp] theorem State.setX_launch (r : Reg) (v : Word) (s : State) : (s.setX r v).launch = s.launch := rfl
@[simp] theorem State.setX_fabric (r : Reg) (v : Word) (s : State) : (s.setX r v).fabric = s.fabric := rfl
@[simp] theorem State.setX_chip (r : Reg) (v : Word) (s : State) : (s.setX r v).chip = s.chip := rfl
@[simp] theorem State.setX_mem (r : Reg) (v : Word) (s : State) : (s.setX r v).mem = s.mem := rfl
@[simp] theorem State.setX_full (r : Reg) (v : Word) (s : State) : (s.setX r v).full = s.full := rfl
@[simp] theorem State.setX_poison (r : Reg) (v : Word) (s : State) : (s.setX r v).poison = s.poison := rfl
@[simp] theorem State.setX_fills (r : Reg) (v : Word) (s : State) : (s.setX r v).fills = s.fills := rfl
@[simp] theorem State.setX_l2 (r : Reg) (v : Word) (s : State) : (s.setX r v).l2 = s.l2 := rfl
@[simp] theorem State.setX_errors (r : Reg) (v : Word) (s : State) : (s.setX r v).errors = s.errors := rfl
@[simp] theorem State.setX_written (r : Reg) (v : Word) (s : State) : (s.setX r v).written = s.written := rfl
@[simp] theorem State.setX_net (r : Reg) (v : Word) (s : State) : (s.setX r v).net = s.net := rfl
@[simp] theorem State.setX_netOut (r : Reg) (v : Word) (s : State) : (s.setX r v).netOut = s.netOut := rfl
@[simp] theorem State.setX_shoots (r : Reg) (v : Word) (s : State) : (s.setX r v).shoots = s.shoots := rfl
@[simp] theorem State.setX_saved (r : Reg) (v : Word) (s : State) : (s.setX r v).saved = s.saved := rfl
@[simp] theorem State.setX_saves (r : Reg) (v : Word) (s : State) : (s.setX r v).saves = s.saves := rfl
@[simp] theorem State.setX_records (r : Reg) (v : Word) (s : State) : (s.setX r v).records = s.records := rfl
@[simp] theorem State.setX_serial (r : Reg) (v : Word) (s : State) : (s.setX r v).serial = s.serial := rfl

/-! ## setF -/

@[simp] theorem State.setF_cur (r : Reg) (v : QWord) (s : State) : (s.setF r v).cur = s.cur := rfl
@[simp] theorem State.setF_focus (r : Reg) (v : QWord) (s : State) : (s.setF r v).focus = s.focus := rfl
@[simp] theorem State.setF_agenda (r : Reg) (v : QWord) (s : State) : (s.setF r v).agenda = s.agenda := rfl
@[simp] theorem State.setF_work (r : Reg) (v : QWord) (s : State) : (s.setF r v).work = s.work := rfl
@[simp] theorem State.setF_todo (r : Reg) (v : QWord) (s : State) : (s.setF r v).todo = s.todo := rfl
@[simp] theorem State.setF_rank (r : Reg) (v : QWord) (s : State) : (s.setF r v).rank = s.rank := rfl
@[simp] theorem State.setF_arg (r : Reg) (v : QWord) (s : State) : (s.setF r v).arg = s.arg := rfl
@[simp] theorem State.setF_deferred (r : Reg) (v : QWord) (s : State) : (s.setF r v).deferred = s.deferred := rfl
@[simp] theorem State.setF_fresh (r : Reg) (v : QWord) (s : State) : (s.setF r v).fresh = s.fresh := rfl
@[simp] theorem State.setF_cycle (r : Reg) (v : QWord) (s : State) : (s.setF r v).cycle = s.cycle := rfl
@[simp] theorem State.setF_time (r : Reg) (v : QWord) (s : State) : (s.setF r v).time = s.time := rfl
@[simp] theorem State.setF_halted (r : Reg) (v : QWord) (s : State) : (s.setF r v).halted = s.halted := rfl
@[simp] theorem State.setF_cores (r : Reg) (v : QWord) (s : State) : (s.setF r v).cores = s.cores := rfl
@[simp] theorem State.setF_clusters (r : Reg) (v : QWord) (s : State) : (s.setF r v).clusters = s.clusters := rfl
@[simp] theorem State.setF_sectors (r : Reg) (v : QWord) (s : State) : (s.setF r v).sectors = s.sectors := rfl
@[simp] theorem State.setF_monitors (r : Reg) (v : QWord) (s : State) : (s.setF r v).monitors = s.monitors := rfl
@[simp] theorem State.setF_parts (r : Reg) (v : QWord) (s : State) : (s.setF r v).parts = s.parts := rfl
@[simp] theorem State.setF_launch (r : Reg) (v : QWord) (s : State) : (s.setF r v).launch = s.launch := rfl
@[simp] theorem State.setF_fabric (r : Reg) (v : QWord) (s : State) : (s.setF r v).fabric = s.fabric := rfl
@[simp] theorem State.setF_chip (r : Reg) (v : QWord) (s : State) : (s.setF r v).chip = s.chip := rfl
@[simp] theorem State.setF_mem (r : Reg) (v : QWord) (s : State) : (s.setF r v).mem = s.mem := rfl
@[simp] theorem State.setF_full (r : Reg) (v : QWord) (s : State) : (s.setF r v).full = s.full := rfl
@[simp] theorem State.setF_poison (r : Reg) (v : QWord) (s : State) : (s.setF r v).poison = s.poison := rfl
@[simp] theorem State.setF_fills (r : Reg) (v : QWord) (s : State) : (s.setF r v).fills = s.fills := rfl
@[simp] theorem State.setF_l2 (r : Reg) (v : QWord) (s : State) : (s.setF r v).l2 = s.l2 := rfl
@[simp] theorem State.setF_errors (r : Reg) (v : QWord) (s : State) : (s.setF r v).errors = s.errors := rfl
@[simp] theorem State.setF_written (r : Reg) (v : QWord) (s : State) : (s.setF r v).written = s.written := rfl
@[simp] theorem State.setF_net (r : Reg) (v : QWord) (s : State) : (s.setF r v).net = s.net := rfl
@[simp] theorem State.setF_netOut (r : Reg) (v : QWord) (s : State) : (s.setF r v).netOut = s.netOut := rfl
@[simp] theorem State.setF_shoots (r : Reg) (v : QWord) (s : State) : (s.setF r v).shoots = s.shoots := rfl
@[simp] theorem State.setF_saved (r : Reg) (v : QWord) (s : State) : (s.setF r v).saved = s.saved := rfl
@[simp] theorem State.setF_saves (r : Reg) (v : QWord) (s : State) : (s.setF r v).saves = s.saves := rfl
@[simp] theorem State.setF_records (r : Reg) (v : QWord) (s : State) : (s.setF r v).records = s.records := rfl
@[simp] theorem State.setF_serial (r : Reg) (v : QWord) (s : State) : (s.setF r v).serial = s.serial := rfl

/-! ## setP -/

@[simp] theorem State.setP_cur (r : PReg) (v : Byte) (s : State) : (s.setP r v).cur = s.cur := rfl
@[simp] theorem State.setP_focus (r : PReg) (v : Byte) (s : State) : (s.setP r v).focus = s.focus := rfl
@[simp] theorem State.setP_agenda (r : PReg) (v : Byte) (s : State) : (s.setP r v).agenda = s.agenda := rfl
@[simp] theorem State.setP_work (r : PReg) (v : Byte) (s : State) : (s.setP r v).work = s.work := rfl
@[simp] theorem State.setP_todo (r : PReg) (v : Byte) (s : State) : (s.setP r v).todo = s.todo := rfl
@[simp] theorem State.setP_rank (r : PReg) (v : Byte) (s : State) : (s.setP r v).rank = s.rank := rfl
@[simp] theorem State.setP_arg (r : PReg) (v : Byte) (s : State) : (s.setP r v).arg = s.arg := rfl
@[simp] theorem State.setP_deferred (r : PReg) (v : Byte) (s : State) : (s.setP r v).deferred = s.deferred := rfl
@[simp] theorem State.setP_fresh (r : PReg) (v : Byte) (s : State) : (s.setP r v).fresh = s.fresh := rfl
@[simp] theorem State.setP_cycle (r : PReg) (v : Byte) (s : State) : (s.setP r v).cycle = s.cycle := rfl
@[simp] theorem State.setP_time (r : PReg) (v : Byte) (s : State) : (s.setP r v).time = s.time := rfl
@[simp] theorem State.setP_halted (r : PReg) (v : Byte) (s : State) : (s.setP r v).halted = s.halted := rfl
@[simp] theorem State.setP_cores (r : PReg) (v : Byte) (s : State) : (s.setP r v).cores = s.cores := rfl
@[simp] theorem State.setP_clusters (r : PReg) (v : Byte) (s : State) : (s.setP r v).clusters = s.clusters := rfl
@[simp] theorem State.setP_sectors (r : PReg) (v : Byte) (s : State) : (s.setP r v).sectors = s.sectors := rfl
@[simp] theorem State.setP_monitors (r : PReg) (v : Byte) (s : State) : (s.setP r v).monitors = s.monitors := rfl
@[simp] theorem State.setP_parts (r : PReg) (v : Byte) (s : State) : (s.setP r v).parts = s.parts := rfl
@[simp] theorem State.setP_launch (r : PReg) (v : Byte) (s : State) : (s.setP r v).launch = s.launch := rfl
@[simp] theorem State.setP_fabric (r : PReg) (v : Byte) (s : State) : (s.setP r v).fabric = s.fabric := rfl
@[simp] theorem State.setP_chip (r : PReg) (v : Byte) (s : State) : (s.setP r v).chip = s.chip := rfl
@[simp] theorem State.setP_mem (r : PReg) (v : Byte) (s : State) : (s.setP r v).mem = s.mem := rfl
@[simp] theorem State.setP_full (r : PReg) (v : Byte) (s : State) : (s.setP r v).full = s.full := rfl
@[simp] theorem State.setP_poison (r : PReg) (v : Byte) (s : State) : (s.setP r v).poison = s.poison := rfl
@[simp] theorem State.setP_fills (r : PReg) (v : Byte) (s : State) : (s.setP r v).fills = s.fills := rfl
@[simp] theorem State.setP_l2 (r : PReg) (v : Byte) (s : State) : (s.setP r v).l2 = s.l2 := rfl
@[simp] theorem State.setP_errors (r : PReg) (v : Byte) (s : State) : (s.setP r v).errors = s.errors := rfl
@[simp] theorem State.setP_written (r : PReg) (v : Byte) (s : State) : (s.setP r v).written = s.written := rfl
@[simp] theorem State.setP_net (r : PReg) (v : Byte) (s : State) : (s.setP r v).net = s.net := rfl
@[simp] theorem State.setP_netOut (r : PReg) (v : Byte) (s : State) : (s.setP r v).netOut = s.netOut := rfl
@[simp] theorem State.setP_shoots (r : PReg) (v : Byte) (s : State) : (s.setP r v).shoots = s.shoots := rfl
@[simp] theorem State.setP_saved (r : PReg) (v : Byte) (s : State) : (s.setP r v).saved = s.saved := rfl
@[simp] theorem State.setP_saves (r : PReg) (v : Byte) (s : State) : (s.setP r v).saves = s.saves := rfl
@[simp] theorem State.setP_records (r : PReg) (v : Byte) (s : State) : (s.setP r v).records = s.records := rfl
@[simp] theorem State.setP_serial (r : PReg) (v : Byte) (s : State) : (s.setP r v).serial = s.serial := rfl

/-! ## retire -/

@[simp] theorem State.retire_cur (len sc : Nat) (s : State) : (s.retire len sc).cur = s.cur := rfl
@[simp] theorem State.retire_focus (len sc : Nat) (s : State) : (s.retire len sc).focus = s.focus := rfl
@[simp] theorem State.retire_agenda (len sc : Nat) (s : State) : (s.retire len sc).agenda = s.agenda := rfl
@[simp] theorem State.retire_work (len sc : Nat) (s : State) : (s.retire len sc).work = s.work := rfl
@[simp] theorem State.retire_todo (len sc : Nat) (s : State) : (s.retire len sc).todo = s.todo := rfl
@[simp] theorem State.retire_rank (len sc : Nat) (s : State) : (s.retire len sc).rank = s.rank := rfl
@[simp] theorem State.retire_arg (len sc : Nat) (s : State) : (s.retire len sc).arg = s.arg := rfl
@[simp] theorem State.retire_deferred (len sc : Nat) (s : State) : (s.retire len sc).deferred = s.deferred := rfl
@[simp] theorem State.retire_fresh (len sc : Nat) (s : State) : (s.retire len sc).fresh = s.fresh := rfl
@[simp] theorem State.retire_cycle (len sc : Nat) (s : State) : (s.retire len sc).cycle = s.cycle := rfl
@[simp] theorem State.retire_time (len sc : Nat) (s : State) : (s.retire len sc).time = s.time := rfl
@[simp] theorem State.retire_halted (len sc : Nat) (s : State) : (s.retire len sc).halted = s.halted := rfl
@[simp] theorem State.retire_cores (len sc : Nat) (s : State) : (s.retire len sc).cores = s.cores := rfl
@[simp] theorem State.retire_clusters (len sc : Nat) (s : State) : (s.retire len sc).clusters = s.clusters := rfl
@[simp] theorem State.retire_sectors (len sc : Nat) (s : State) : (s.retire len sc).sectors = s.sectors := rfl
@[simp] theorem State.retire_monitors (len sc : Nat) (s : State) : (s.retire len sc).monitors = s.monitors := rfl
@[simp] theorem State.retire_parts (len sc : Nat) (s : State) : (s.retire len sc).parts = s.parts := rfl
@[simp] theorem State.retire_launch (len sc : Nat) (s : State) : (s.retire len sc).launch = s.launch := rfl
@[simp] theorem State.retire_fabric (len sc : Nat) (s : State) : (s.retire len sc).fabric = s.fabric := rfl
@[simp] theorem State.retire_chip (len sc : Nat) (s : State) : (s.retire len sc).chip = s.chip := rfl
@[simp] theorem State.retire_mem (len sc : Nat) (s : State) : (s.retire len sc).mem = s.mem := rfl
@[simp] theorem State.retire_full (len sc : Nat) (s : State) : (s.retire len sc).full = s.full := rfl
@[simp] theorem State.retire_poison (len sc : Nat) (s : State) : (s.retire len sc).poison = s.poison := rfl
@[simp] theorem State.retire_fills (len sc : Nat) (s : State) : (s.retire len sc).fills = s.fills := rfl
@[simp] theorem State.retire_l2 (len sc : Nat) (s : State) : (s.retire len sc).l2 = s.l2 := rfl
@[simp] theorem State.retire_errors (len sc : Nat) (s : State) : (s.retire len sc).errors = s.errors := rfl
@[simp] theorem State.retire_written (len sc : Nat) (s : State) : (s.retire len sc).written = s.written := rfl
@[simp] theorem State.retire_net (len sc : Nat) (s : State) : (s.retire len sc).net = s.net := rfl
@[simp] theorem State.retire_netOut (len sc : Nat) (s : State) : (s.retire len sc).netOut = s.netOut := rfl
@[simp] theorem State.retire_shoots (len sc : Nat) (s : State) : (s.retire len sc).shoots = s.shoots := rfl
@[simp] theorem State.retire_saved (len sc : Nat) (s : State) : (s.retire len sc).saved = s.saved := rfl
@[simp] theorem State.retire_saves (len sc : Nat) (s : State) : (s.retire len sc).saves = s.saves := rfl
@[simp] theorem State.retire_records (len sc : Nat) (s : State) : (s.retire len sc).records = s.records := rfl
@[simp] theorem State.retire_serial (len sc : Nat) (s : State) : (s.retire len sc).serial = s.serial := rfl

/-! ## jump -/

@[simp] theorem State.jump_cur (a : BitVec 48) (sc : Nat) (s : State) : (s.jump a sc).cur = s.cur := rfl
@[simp] theorem State.jump_focus (a : BitVec 48) (sc : Nat) (s : State) : (s.jump a sc).focus = s.focus := rfl
@[simp] theorem State.jump_agenda (a : BitVec 48) (sc : Nat) (s : State) : (s.jump a sc).agenda = s.agenda := rfl
@[simp] theorem State.jump_work (a : BitVec 48) (sc : Nat) (s : State) : (s.jump a sc).work = s.work := rfl
@[simp] theorem State.jump_todo (a : BitVec 48) (sc : Nat) (s : State) : (s.jump a sc).todo = s.todo := rfl
@[simp] theorem State.jump_rank (a : BitVec 48) (sc : Nat) (s : State) : (s.jump a sc).rank = s.rank := rfl
@[simp] theorem State.jump_arg (a : BitVec 48) (sc : Nat) (s : State) : (s.jump a sc).arg = s.arg := rfl
@[simp] theorem State.jump_deferred (a : BitVec 48) (sc : Nat) (s : State) : (s.jump a sc).deferred = s.deferred := rfl
@[simp] theorem State.jump_fresh (a : BitVec 48) (sc : Nat) (s : State) : (s.jump a sc).fresh = s.fresh := rfl
@[simp] theorem State.jump_cycle (a : BitVec 48) (sc : Nat) (s : State) : (s.jump a sc).cycle = s.cycle := rfl
@[simp] theorem State.jump_time (a : BitVec 48) (sc : Nat) (s : State) : (s.jump a sc).time = s.time := rfl
@[simp] theorem State.jump_halted (a : BitVec 48) (sc : Nat) (s : State) : (s.jump a sc).halted = s.halted := rfl
@[simp] theorem State.jump_cores (a : BitVec 48) (sc : Nat) (s : State) : (s.jump a sc).cores = s.cores := rfl
@[simp] theorem State.jump_clusters (a : BitVec 48) (sc : Nat) (s : State) : (s.jump a sc).clusters = s.clusters := rfl
@[simp] theorem State.jump_sectors (a : BitVec 48) (sc : Nat) (s : State) : (s.jump a sc).sectors = s.sectors := rfl
@[simp] theorem State.jump_monitors (a : BitVec 48) (sc : Nat) (s : State) : (s.jump a sc).monitors = s.monitors := rfl
@[simp] theorem State.jump_parts (a : BitVec 48) (sc : Nat) (s : State) : (s.jump a sc).parts = s.parts := rfl
@[simp] theorem State.jump_launch (a : BitVec 48) (sc : Nat) (s : State) : (s.jump a sc).launch = s.launch := rfl
@[simp] theorem State.jump_fabric (a : BitVec 48) (sc : Nat) (s : State) : (s.jump a sc).fabric = s.fabric := rfl
@[simp] theorem State.jump_chip (a : BitVec 48) (sc : Nat) (s : State) : (s.jump a sc).chip = s.chip := rfl
@[simp] theorem State.jump_mem (a : BitVec 48) (sc : Nat) (s : State) : (s.jump a sc).mem = s.mem := rfl
@[simp] theorem State.jump_full (a : BitVec 48) (sc : Nat) (s : State) : (s.jump a sc).full = s.full := rfl
@[simp] theorem State.jump_poison (a : BitVec 48) (sc : Nat) (s : State) : (s.jump a sc).poison = s.poison := rfl
@[simp] theorem State.jump_fills (a : BitVec 48) (sc : Nat) (s : State) : (s.jump a sc).fills = s.fills := rfl
@[simp] theorem State.jump_l2 (a : BitVec 48) (sc : Nat) (s : State) : (s.jump a sc).l2 = s.l2 := rfl
@[simp] theorem State.jump_errors (a : BitVec 48) (sc : Nat) (s : State) : (s.jump a sc).errors = s.errors := rfl
@[simp] theorem State.jump_written (a : BitVec 48) (sc : Nat) (s : State) : (s.jump a sc).written = s.written := rfl
@[simp] theorem State.jump_net (a : BitVec 48) (sc : Nat) (s : State) : (s.jump a sc).net = s.net := rfl
@[simp] theorem State.jump_netOut (a : BitVec 48) (sc : Nat) (s : State) : (s.jump a sc).netOut = s.netOut := rfl
@[simp] theorem State.jump_shoots (a : BitVec 48) (sc : Nat) (s : State) : (s.jump a sc).shoots = s.shoots := rfl
@[simp] theorem State.jump_saved (a : BitVec 48) (sc : Nat) (s : State) : (s.jump a sc).saved = s.saved := rfl
@[simp] theorem State.jump_saves (a : BitVec 48) (sc : Nat) (s : State) : (s.jump a sc).saves = s.saves := rfl
@[simp] theorem State.jump_records (a : BitVec 48) (sc : Nat) (s : State) : (s.jump a sc).records = s.records := rfl
@[simp] theorem State.jump_serial (a : BitVec 48) (sc : Nat) (s : State) : (s.jump a sc).serial = s.serial := rfl

/-! ## parkMe -/

@[simp] theorem State.parkMe_cur (p : Park) (sc : Nat) (s : State) : (s.parkMe p sc).cur = s.cur := rfl
@[simp] theorem State.parkMe_focus (p : Park) (sc : Nat) (s : State) : (s.parkMe p sc).focus = s.focus := rfl
@[simp] theorem State.parkMe_agenda (p : Park) (sc : Nat) (s : State) : (s.parkMe p sc).agenda = s.agenda := rfl
@[simp] theorem State.parkMe_work (p : Park) (sc : Nat) (s : State) : (s.parkMe p sc).work = s.work := rfl
@[simp] theorem State.parkMe_todo (p : Park) (sc : Nat) (s : State) : (s.parkMe p sc).todo = s.todo := rfl
@[simp] theorem State.parkMe_rank (p : Park) (sc : Nat) (s : State) : (s.parkMe p sc).rank = s.rank := rfl
@[simp] theorem State.parkMe_arg (p : Park) (sc : Nat) (s : State) : (s.parkMe p sc).arg = s.arg := rfl
@[simp] theorem State.parkMe_deferred (p : Park) (sc : Nat) (s : State) : (s.parkMe p sc).deferred = s.deferred := rfl
@[simp] theorem State.parkMe_fresh (p : Park) (sc : Nat) (s : State) : (s.parkMe p sc).fresh = s.fresh := rfl
@[simp] theorem State.parkMe_cycle (p : Park) (sc : Nat) (s : State) : (s.parkMe p sc).cycle = s.cycle := rfl
@[simp] theorem State.parkMe_time (p : Park) (sc : Nat) (s : State) : (s.parkMe p sc).time = s.time := rfl
@[simp] theorem State.parkMe_halted (p : Park) (sc : Nat) (s : State) : (s.parkMe p sc).halted = s.halted := rfl
@[simp] theorem State.parkMe_cores (p : Park) (sc : Nat) (s : State) : (s.parkMe p sc).cores = s.cores := rfl
@[simp] theorem State.parkMe_clusters (p : Park) (sc : Nat) (s : State) : (s.parkMe p sc).clusters = s.clusters := rfl
@[simp] theorem State.parkMe_sectors (p : Park) (sc : Nat) (s : State) : (s.parkMe p sc).sectors = s.sectors := rfl
@[simp] theorem State.parkMe_monitors (p : Park) (sc : Nat) (s : State) : (s.parkMe p sc).monitors = s.monitors := rfl
@[simp] theorem State.parkMe_parts (p : Park) (sc : Nat) (s : State) : (s.parkMe p sc).parts = s.parts := rfl
@[simp] theorem State.parkMe_launch (p : Park) (sc : Nat) (s : State) : (s.parkMe p sc).launch = s.launch := rfl
@[simp] theorem State.parkMe_fabric (p : Park) (sc : Nat) (s : State) : (s.parkMe p sc).fabric = s.fabric := rfl
@[simp] theorem State.parkMe_chip (p : Park) (sc : Nat) (s : State) : (s.parkMe p sc).chip = s.chip := rfl
@[simp] theorem State.parkMe_mem (p : Park) (sc : Nat) (s : State) : (s.parkMe p sc).mem = s.mem := rfl
@[simp] theorem State.parkMe_full (p : Park) (sc : Nat) (s : State) : (s.parkMe p sc).full = s.full := rfl
@[simp] theorem State.parkMe_poison (p : Park) (sc : Nat) (s : State) : (s.parkMe p sc).poison = s.poison := rfl
@[simp] theorem State.parkMe_fills (p : Park) (sc : Nat) (s : State) : (s.parkMe p sc).fills = s.fills := rfl
@[simp] theorem State.parkMe_l2 (p : Park) (sc : Nat) (s : State) : (s.parkMe p sc).l2 = s.l2 := rfl
@[simp] theorem State.parkMe_errors (p : Park) (sc : Nat) (s : State) : (s.parkMe p sc).errors = s.errors := rfl
@[simp] theorem State.parkMe_written (p : Park) (sc : Nat) (s : State) : (s.parkMe p sc).written = s.written := rfl
@[simp] theorem State.parkMe_net (p : Park) (sc : Nat) (s : State) : (s.parkMe p sc).net = s.net := rfl
@[simp] theorem State.parkMe_netOut (p : Park) (sc : Nat) (s : State) : (s.parkMe p sc).netOut = s.netOut := rfl
@[simp] theorem State.parkMe_shoots (p : Park) (sc : Nat) (s : State) : (s.parkMe p sc).shoots = s.shoots := rfl
@[simp] theorem State.parkMe_saved (p : Park) (sc : Nat) (s : State) : (s.parkMe p sc).saved = s.saved := rfl
@[simp] theorem State.parkMe_saves (p : Park) (sc : Nat) (s : State) : (s.parkMe p sc).saves = s.saves := rfl
@[simp] theorem State.parkMe_records (p : Park) (sc : Nat) (s : State) : (s.parkMe p sc).records = s.records := rfl
@[simp] theorem State.parkMe_serial (p : Park) (sc : Nat) (s : State) : (s.parkMe p sc).serial = s.serial := rfl

/-! ## The part a write changes -/

theorem State.slot_setSlot (k j : Nat) (v : Slot) (s : State) : (s.setSlot k v).slot j = if j = k then v else s.slot j := look_put ..
theorem State.slot_modSlot (k j : Nat) (f : Slot → Slot) (s : State) : (s.modSlot k f).slot j = if j = k then f (s.slot k) else s.slot j := look_put ..
@[simp] theorem State.slot_setSlot_same (k : Nat) (v : Slot) (s : State) : (s.setSlot k v).slot k = v := look_put_same ..
@[simp] theorem State.slot_modSlot_same (k : Nat) (f : Slot → Slot) (s : State) : (s.modSlot k f).slot k = f (s.slot k) := look_put_same ..
theorem State.slot_modSlot_other {k j : Nat} (h : j ≠ k) (f : Slot → Slot) (s : State) : (s.modSlot k f).slot j = s.slot j := look_put_other _ h ..
@[simp] theorem State.modSlot_modSlot (k : Nat) (f g : Slot → Slot) (s : State) : (s.modSlot k f).modSlot k g = s.modSlot k (fun x => g (f x)) := by
  simp [State.modSlot, State.setSlot, State.slot]

theorem State.core_setCore (k j : Nat) (v : Core) (s : State) : (s.setCore k v).core j = if j = k then v else s.core j := look_put ..
theorem State.core_modCore (k j : Nat) (f : Core → Core) (s : State) : (s.modCore k f).core j = if j = k then f (s.core k) else s.core j := look_put ..
@[simp] theorem State.core_setCore_same (k : Nat) (v : Core) (s : State) : (s.setCore k v).core k = v := look_put_same ..
@[simp] theorem State.core_modCore_same (k : Nat) (f : Core → Core) (s : State) : (s.modCore k f).core k = f (s.core k) := look_put_same ..
theorem State.core_modCore_other {k j : Nat} (h : j ≠ k) (f : Core → Core) (s : State) : (s.modCore k f).core j = s.core j := look_put_other _ h ..
@[simp] theorem State.modCore_modCore (k : Nat) (f g : Core → Core) (s : State) : (s.modCore k f).modCore k g = s.modCore k (fun x => g (f x)) := by
  simp [State.modCore, State.setCore, State.core]

theorem State.cluster_setCluster (k j : Nat) (v : Cluster) (s : State) : (s.setCluster k v).cluster j = if j = k then v else s.cluster j := look_put ..
theorem State.cluster_modCluster (k j : Nat) (f : Cluster → Cluster) (s : State) : (s.modCluster k f).cluster j = if j = k then f (s.cluster k) else s.cluster j := look_put ..
@[simp] theorem State.cluster_setCluster_same (k : Nat) (v : Cluster) (s : State) : (s.setCluster k v).cluster k = v := look_put_same ..
@[simp] theorem State.cluster_modCluster_same (k : Nat) (f : Cluster → Cluster) (s : State) : (s.modCluster k f).cluster k = f (s.cluster k) := look_put_same ..
theorem State.cluster_modCluster_other {k j : Nat} (h : j ≠ k) (f : Cluster → Cluster) (s : State) : (s.modCluster k f).cluster j = s.cluster j := look_put_other _ h ..
@[simp] theorem State.modCluster_modCluster (k : Nat) (f g : Cluster → Cluster) (s : State) : (s.modCluster k f).modCluster k g = s.modCluster k (fun x => g (f x)) := by
  simp [State.modCluster, State.setCluster, State.cluster]

theorem State.sector_setSector (k j : Nat) (v : Sector) (s : State) : (s.setSector k v).sector j = if j = k then v else s.sector j := look_put ..
theorem State.sector_modSector (k j : Nat) (f : Sector → Sector) (s : State) : (s.modSector k f).sector j = if j = k then f (s.sector k) else s.sector j := look_put ..
@[simp] theorem State.sector_setSector_same (k : Nat) (v : Sector) (s : State) : (s.setSector k v).sector k = v := look_put_same ..
@[simp] theorem State.sector_modSector_same (k : Nat) (f : Sector → Sector) (s : State) : (s.modSector k f).sector k = f (s.sector k) := look_put_same ..
theorem State.sector_modSector_other {k j : Nat} (h : j ≠ k) (f : Sector → Sector) (s : State) : (s.modSector k f).sector j = s.sector j := look_put_other _ h ..
@[simp] theorem State.modSector_modSector (k : Nat) (f g : Sector → Sector) (s : State) : (s.modSector k f).modSector k g = s.modSector k (fun x => g (f x)) := by
  simp [State.modSector, State.setSector, State.sector]

theorem State.part_modPart (k j : Nat) (f : Part → Part) (s : State) : (s.modPart k f).part j = if j = k then f (s.part k) else s.part j := look_put ..
@[simp] theorem State.part_modPart_same (k : Nat) (f : Part → Part) (s : State) : (s.modPart k f).part k = f (s.part k) := look_put_same ..
@[simp] theorem State.modLaunch_launch (f : Launch → Launch) (s : State) : (s.modLaunch f).launch = f s.launch := rfl
@[simp] theorem State.modFabric_fabric (f : Fabric → Fabric) (s : State) : (s.modFabric f).fabric = f s.fabric := rfl
@[simp] theorem State.modChip_chip (f : Chip → Chip) (s : State) : (s.modChip f).chip = f s.chip := rfl
@[simp] theorem State.me_modMe (f : Slot → Slot) (s : State) : (s.modMe f).me = f s.me := look_put_same ..
theorem State.slot_modMe_other {j : Nat} (f : Slot → Slot) (s : State) (h : j ≠ s.cur) : (s.modMe f).slot j = s.slot j := look_put_other _ h ..
@[simp] theorem State.modMe_modMe (f g : Slot → Slot) (s : State) : (s.modMe f).modMe g = s.modMe (fun x => g (f x)) := State.modSlot_modSlot ..

@[simp] theorem State.modCore_slot (k : Nat) (f : Core → Core) (s : State) (j : Nat) : (s.modCore k f).slot j = s.slot j := rfl
@[simp] theorem State.modCluster_slot (k : Nat) (f : Cluster → Cluster) (s : State) (j : Nat) : (s.modCluster k f).slot j = s.slot j := rfl
@[simp] theorem State.modSector_slot (k : Nat) (f : Sector → Sector) (s : State) (j : Nat) : (s.modSector k f).slot j = s.slot j := rfl
@[simp] theorem State.modPart_slot (k : Nat) (f : Part → Part) (s : State) (j : Nat) : (s.modPart k f).slot j = s.slot j := rfl
@[simp] theorem State.modLaunch_slot (f : Launch → Launch) (s : State) (j : Nat) : (s.modLaunch f).slot j = s.slot j := rfl
@[simp] theorem State.modFabric_slot (f : Fabric → Fabric) (s : State) (j : Nat) : (s.modFabric f).slot j = s.slot j := rfl
@[simp] theorem State.modChip_slot (f : Chip → Chip) (s : State) (j : Nat) : (s.modChip f).slot j = s.slot j := rfl
@[simp] theorem State.setBytes_slot (k : Nat) (l : List Byte) (s : State) (j : Nat) : (s.setBytes k l).slot j = s.slot j := rfl
@[simp] theorem State.setPoison_slot (k : Nat) (b : Bool) (s : State) (j : Nat) : (s.setPoison k b).slot j = s.slot j := rfl
@[simp] theorem State.setFullAt_slot (k : Nat) (b : Bool) (s : State) (j : Nat) : (s.setFullAt k b).slot j = s.slot j := rfl
@[simp] theorem State.post_slot (i : Sys2Proof.Instr) (a : Arg) (s : State) (j : Nat) : (s.post i a).slot j = s.slot j := rfl
@[simp] theorem State.defer_slot (s : State) (j : Nat) : (s.defer).slot j = s.slot j := rfl
@[simp] theorem State.record_slot (c n : Nat) (v w : Word) (s : State) (j : Nat) : (s.record c n v w).slot j = s.slot j := rfl
@[simp] theorem State.modSlot_core (k : Nat) (f : Slot → Slot) (s : State) (j : Nat) : (s.modSlot k f).core j = s.core j := rfl
@[simp] theorem State.modMe_core (f : Slot → Slot) (s : State) (j : Nat) : (s.modMe f).core j = s.core j := rfl
@[simp] theorem State.modCluster_core (k : Nat) (f : Cluster → Cluster) (s : State) (j : Nat) : (s.modCluster k f).core j = s.core j := rfl
@[simp] theorem State.modSector_core (k : Nat) (f : Sector → Sector) (s : State) (j : Nat) : (s.modSector k f).core j = s.core j := rfl
@[simp] theorem State.modPart_core (k : Nat) (f : Part → Part) (s : State) (j : Nat) : (s.modPart k f).core j = s.core j := rfl
@[simp] theorem State.modLaunch_core (f : Launch → Launch) (s : State) (j : Nat) : (s.modLaunch f).core j = s.core j := rfl
@[simp] theorem State.modFabric_core (f : Fabric → Fabric) (s : State) (j : Nat) : (s.modFabric f).core j = s.core j := rfl
@[simp] theorem State.modChip_core (f : Chip → Chip) (s : State) (j : Nat) : (s.modChip f).core j = s.core j := rfl
@[simp] theorem State.setBytes_core (k : Nat) (l : List Byte) (s : State) (j : Nat) : (s.setBytes k l).core j = s.core j := rfl
@[simp] theorem State.setPoison_core (k : Nat) (b : Bool) (s : State) (j : Nat) : (s.setPoison k b).core j = s.core j := rfl
@[simp] theorem State.setFullAt_core (k : Nat) (b : Bool) (s : State) (j : Nat) : (s.setFullAt k b).core j = s.core j := rfl
@[simp] theorem State.post_core (i : Sys2Proof.Instr) (a : Arg) (s : State) (j : Nat) : (s.post i a).core j = s.core j := rfl
@[simp] theorem State.defer_core (s : State) (j : Nat) : (s.defer).core j = s.core j := rfl
@[simp] theorem State.record_core (c n : Nat) (v w : Word) (s : State) (j : Nat) : (s.record c n v w).core j = s.core j := rfl
@[simp] theorem State.setX_core (r : Reg) (v : Word) (s : State) (j : Nat) : (s.setX r v).core j = s.core j := rfl
@[simp] theorem State.setF_core (r : Reg) (v : QWord) (s : State) (j : Nat) : (s.setF r v).core j = s.core j := rfl
@[simp] theorem State.setP_core (r : PReg) (v : Byte) (s : State) (j : Nat) : (s.setP r v).core j = s.core j := rfl
@[simp] theorem State.retire_core (len sc : Nat) (s : State) (j : Nat) : (s.retire len sc).core j = s.core j := rfl
@[simp] theorem State.jump_core (a : BitVec 48) (sc : Nat) (s : State) (j : Nat) : (s.jump a sc).core j = s.core j := rfl
@[simp] theorem State.parkMe_core (p : Park) (sc : Nat) (s : State) (j : Nat) : (s.parkMe p sc).core j = s.core j := rfl
@[simp] theorem State.modSlot_cluster (k : Nat) (f : Slot → Slot) (s : State) (j : Nat) : (s.modSlot k f).cluster j = s.cluster j := rfl
@[simp] theorem State.modMe_cluster (f : Slot → Slot) (s : State) (j : Nat) : (s.modMe f).cluster j = s.cluster j := rfl
@[simp] theorem State.modCore_cluster (k : Nat) (f : Core → Core) (s : State) (j : Nat) : (s.modCore k f).cluster j = s.cluster j := rfl
@[simp] theorem State.modSector_cluster (k : Nat) (f : Sector → Sector) (s : State) (j : Nat) : (s.modSector k f).cluster j = s.cluster j := rfl
@[simp] theorem State.modPart_cluster (k : Nat) (f : Part → Part) (s : State) (j : Nat) : (s.modPart k f).cluster j = s.cluster j := rfl
@[simp] theorem State.modLaunch_cluster (f : Launch → Launch) (s : State) (j : Nat) : (s.modLaunch f).cluster j = s.cluster j := rfl
@[simp] theorem State.modFabric_cluster (f : Fabric → Fabric) (s : State) (j : Nat) : (s.modFabric f).cluster j = s.cluster j := rfl
@[simp] theorem State.modChip_cluster (f : Chip → Chip) (s : State) (j : Nat) : (s.modChip f).cluster j = s.cluster j := rfl
@[simp] theorem State.setBytes_cluster (k : Nat) (l : List Byte) (s : State) (j : Nat) : (s.setBytes k l).cluster j = s.cluster j := rfl
@[simp] theorem State.setPoison_cluster (k : Nat) (b : Bool) (s : State) (j : Nat) : (s.setPoison k b).cluster j = s.cluster j := rfl
@[simp] theorem State.setFullAt_cluster (k : Nat) (b : Bool) (s : State) (j : Nat) : (s.setFullAt k b).cluster j = s.cluster j := rfl
@[simp] theorem State.post_cluster (i : Sys2Proof.Instr) (a : Arg) (s : State) (j : Nat) : (s.post i a).cluster j = s.cluster j := rfl
@[simp] theorem State.defer_cluster (s : State) (j : Nat) : (s.defer).cluster j = s.cluster j := rfl
@[simp] theorem State.record_cluster (c n : Nat) (v w : Word) (s : State) (j : Nat) : (s.record c n v w).cluster j = s.cluster j := rfl
@[simp] theorem State.setX_cluster (r : Reg) (v : Word) (s : State) (j : Nat) : (s.setX r v).cluster j = s.cluster j := rfl
@[simp] theorem State.setF_cluster (r : Reg) (v : QWord) (s : State) (j : Nat) : (s.setF r v).cluster j = s.cluster j := rfl
@[simp] theorem State.setP_cluster (r : PReg) (v : Byte) (s : State) (j : Nat) : (s.setP r v).cluster j = s.cluster j := rfl
@[simp] theorem State.retire_cluster (len sc : Nat) (s : State) (j : Nat) : (s.retire len sc).cluster j = s.cluster j := rfl
@[simp] theorem State.jump_cluster (a : BitVec 48) (sc : Nat) (s : State) (j : Nat) : (s.jump a sc).cluster j = s.cluster j := rfl
@[simp] theorem State.parkMe_cluster (p : Park) (sc : Nat) (s : State) (j : Nat) : (s.parkMe p sc).cluster j = s.cluster j := rfl
@[simp] theorem State.modSlot_sector (k : Nat) (f : Slot → Slot) (s : State) (j : Nat) : (s.modSlot k f).sector j = s.sector j := rfl
@[simp] theorem State.modMe_sector (f : Slot → Slot) (s : State) (j : Nat) : (s.modMe f).sector j = s.sector j := rfl
@[simp] theorem State.modCore_sector (k : Nat) (f : Core → Core) (s : State) (j : Nat) : (s.modCore k f).sector j = s.sector j := rfl
@[simp] theorem State.modCluster_sector (k : Nat) (f : Cluster → Cluster) (s : State) (j : Nat) : (s.modCluster k f).sector j = s.sector j := rfl
@[simp] theorem State.modPart_sector (k : Nat) (f : Part → Part) (s : State) (j : Nat) : (s.modPart k f).sector j = s.sector j := rfl
@[simp] theorem State.modLaunch_sector (f : Launch → Launch) (s : State) (j : Nat) : (s.modLaunch f).sector j = s.sector j := rfl
@[simp] theorem State.modFabric_sector (f : Fabric → Fabric) (s : State) (j : Nat) : (s.modFabric f).sector j = s.sector j := rfl
@[simp] theorem State.modChip_sector (f : Chip → Chip) (s : State) (j : Nat) : (s.modChip f).sector j = s.sector j := rfl
@[simp] theorem State.setBytes_sector (k : Nat) (l : List Byte) (s : State) (j : Nat) : (s.setBytes k l).sector j = s.sector j := rfl
@[simp] theorem State.setPoison_sector (k : Nat) (b : Bool) (s : State) (j : Nat) : (s.setPoison k b).sector j = s.sector j := rfl
@[simp] theorem State.setFullAt_sector (k : Nat) (b : Bool) (s : State) (j : Nat) : (s.setFullAt k b).sector j = s.sector j := rfl
@[simp] theorem State.post_sector (i : Sys2Proof.Instr) (a : Arg) (s : State) (j : Nat) : (s.post i a).sector j = s.sector j := rfl
@[simp] theorem State.defer_sector (s : State) (j : Nat) : (s.defer).sector j = s.sector j := rfl
@[simp] theorem State.record_sector (c n : Nat) (v w : Word) (s : State) (j : Nat) : (s.record c n v w).sector j = s.sector j := rfl
@[simp] theorem State.setX_sector (r : Reg) (v : Word) (s : State) (j : Nat) : (s.setX r v).sector j = s.sector j := rfl
@[simp] theorem State.setF_sector (r : Reg) (v : QWord) (s : State) (j : Nat) : (s.setF r v).sector j = s.sector j := rfl
@[simp] theorem State.setP_sector (r : PReg) (v : Byte) (s : State) (j : Nat) : (s.setP r v).sector j = s.sector j := rfl
@[simp] theorem State.retire_sector (len sc : Nat) (s : State) (j : Nat) : (s.retire len sc).sector j = s.sector j := rfl
@[simp] theorem State.jump_sector (a : BitVec 48) (sc : Nat) (s : State) (j : Nat) : (s.jump a sc).sector j = s.sector j := rfl
@[simp] theorem State.parkMe_sector (p : Park) (sc : Nat) (s : State) (j : Nat) : (s.parkMe p sc).sector j = s.sector j := rfl
@[simp] theorem State.modSlot_part (k : Nat) (f : Slot → Slot) (s : State) (j : Nat) : (s.modSlot k f).part j = s.part j := rfl
@[simp] theorem State.modMe_part (f : Slot → Slot) (s : State) (j : Nat) : (s.modMe f).part j = s.part j := rfl
@[simp] theorem State.modCore_part (k : Nat) (f : Core → Core) (s : State) (j : Nat) : (s.modCore k f).part j = s.part j := rfl
@[simp] theorem State.modCluster_part (k : Nat) (f : Cluster → Cluster) (s : State) (j : Nat) : (s.modCluster k f).part j = s.part j := rfl
@[simp] theorem State.modSector_part (k : Nat) (f : Sector → Sector) (s : State) (j : Nat) : (s.modSector k f).part j = s.part j := rfl
@[simp] theorem State.modLaunch_part (f : Launch → Launch) (s : State) (j : Nat) : (s.modLaunch f).part j = s.part j := rfl
@[simp] theorem State.modFabric_part (f : Fabric → Fabric) (s : State) (j : Nat) : (s.modFabric f).part j = s.part j := rfl
@[simp] theorem State.modChip_part (f : Chip → Chip) (s : State) (j : Nat) : (s.modChip f).part j = s.part j := rfl
@[simp] theorem State.setBytes_part (k : Nat) (l : List Byte) (s : State) (j : Nat) : (s.setBytes k l).part j = s.part j := rfl
@[simp] theorem State.setPoison_part (k : Nat) (b : Bool) (s : State) (j : Nat) : (s.setPoison k b).part j = s.part j := rfl
@[simp] theorem State.setFullAt_part (k : Nat) (b : Bool) (s : State) (j : Nat) : (s.setFullAt k b).part j = s.part j := rfl
@[simp] theorem State.post_part (i : Sys2Proof.Instr) (a : Arg) (s : State) (j : Nat) : (s.post i a).part j = s.part j := rfl
@[simp] theorem State.defer_part (s : State) (j : Nat) : (s.defer).part j = s.part j := rfl
@[simp] theorem State.record_part (c n : Nat) (v w : Word) (s : State) (j : Nat) : (s.record c n v w).part j = s.part j := rfl
@[simp] theorem State.setX_part (r : Reg) (v : Word) (s : State) (j : Nat) : (s.setX r v).part j = s.part j := rfl
@[simp] theorem State.setF_part (r : Reg) (v : QWord) (s : State) (j : Nat) : (s.setF r v).part j = s.part j := rfl
@[simp] theorem State.setP_part (r : PReg) (v : Byte) (s : State) (j : Nat) : (s.setP r v).part j = s.part j := rfl
@[simp] theorem State.retire_part (len sc : Nat) (s : State) (j : Nat) : (s.retire len sc).part j = s.part j := rfl
@[simp] theorem State.jump_part (a : BitVec 48) (sc : Nat) (s : State) (j : Nat) : (s.jump a sc).part j = s.part j := rfl
@[simp] theorem State.parkMe_part (p : Park) (sc : Nat) (s : State) (j : Nat) : (s.parkMe p sc).part j = s.part j := rfl
@[simp] theorem State.modCore_me (k : Nat) (f : Core → Core) (s : State) : (s.modCore k f).me = s.me := rfl
@[simp] theorem State.modCluster_me (k : Nat) (f : Cluster → Cluster) (s : State) : (s.modCluster k f).me = s.me := rfl
@[simp] theorem State.modSector_me (k : Nat) (f : Sector → Sector) (s : State) : (s.modSector k f).me = s.me := rfl
@[simp] theorem State.modPart_me (k : Nat) (f : Part → Part) (s : State) : (s.modPart k f).me = s.me := rfl
@[simp] theorem State.modLaunch_me (f : Launch → Launch) (s : State) : (s.modLaunch f).me = s.me := rfl
@[simp] theorem State.modFabric_me (f : Fabric → Fabric) (s : State) : (s.modFabric f).me = s.me := rfl
@[simp] theorem State.modChip_me (f : Chip → Chip) (s : State) : (s.modChip f).me = s.me := rfl
@[simp] theorem State.setBytes_me (k : Nat) (l : List Byte) (s : State) : (s.setBytes k l).me = s.me := rfl
@[simp] theorem State.setPoison_me (k : Nat) (b : Bool) (s : State) : (s.setPoison k b).me = s.me := rfl
@[simp] theorem State.setFullAt_me (k : Nat) (b : Bool) (s : State) : (s.setFullAt k b).me = s.me := rfl
@[simp] theorem State.post_me (i : Sys2Proof.Instr) (a : Arg) (s : State) : (s.post i a).me = s.me := rfl
@[simp] theorem State.defer_me (s : State) : (s.defer).me = s.me := rfl
@[simp] theorem State.record_me (c n : Nat) (v w : Word) (s : State) : (s.record c n v w).me = s.me := rfl

/-! ## Slots -/

@[simp] theorem Slot.retired1_x (n : Nat) (sl : Slot) : (sl.retired1 n).x = sl.x := rfl
@[simp] theorem Slot.retired1_f (n : Nat) (sl : Slot) : (sl.retired1 n).f = sl.f := rfl
@[simp] theorem Slot.retired1_p (n : Nat) (sl : Slot) : (sl.retired1 n).p = sl.p := rfl
@[simp] theorem Slot.retired1_pc (n : Nat) (sl : Slot) : (sl.retired1 n).pc = sl.pc := rfl
@[simp] theorem Slot.retired1_pend (n : Nat) (sl : Slot) : (sl.retired1 n).pend = sl.pend := rfl
@[simp] theorem Slot.retired1_active (n : Nat) (sl : Slot) : (sl.retired1 n).active = sl.active := rfl
@[simp] theorem Slot.retired1_park (n : Nat) (sl : Slot) : (sl.retired1 n).park = sl.park := rfl
@[simp] theorem Slot.retired1_frozen (n : Nat) (sl : Slot) : (sl.retired1 n).frozen = sl.frozen := rfl
@[simp] theorem Slot.retired1_woken (n : Nat) (sl : Slot) : (sl.retired1 n).woken = sl.woken := rfl
@[simp] theorem Slot.retired1_act (n : Nat) (sl : Slot) : (sl.retired1 n).act = sl.act := rfl
@[simp] theorem Slot.retired1_actNo (n : Nat) (sl : Slot) : (sl.retired1 n).actNo = sl.actNo := rfl
@[simp] theorem Slot.retired1_replyh (n : Nat) (sl : Slot) : (sl.retired1 n).replyh = sl.replyh := rfl
@[simp] theorem Slot.retired1_actarg (n : Nat) (sl : Slot) : (sl.retired1 n).actarg = sl.actarg := rfl
@[simp] theorem Slot.retired1_xferid (n : Nat) (sl : Slot) : (sl.retired1 n).xferid = sl.xferid := rfl
@[simp] theorem Slot.retired1_lstart (n : Nat) (sl : Slot) : (sl.retired1 n).lstart = sl.lstart := rfl
@[simp] theorem Slot.retired1_lend (n : Nat) (sl : Slot) : (sl.retired1 n).lend = sl.lend := rfl
@[simp] theorem Slot.retired1_lcount (n : Nat) (sl : Slot) : (sl.retired1 n).lcount = sl.lcount := rfl
@[simp] theorem Slot.retired1_rmode (n : Nat) (sl : Slot) : (sl.retired1 n).rmode = sl.rmode := rfl
@[simp] theorem Slot.retired1_rowmask (n : Nat) (sl : Slot) : (sl.retired1 n).rowmask = sl.rowmask := rfl
@[simp] theorem Slot.retired1_temp (n : Nat) (sl : Slot) : (sl.retired1 n).temp = sl.temp := rfl
@[simp] theorem Slot.retired1_lanep (n : Nat) (sl : Slot) : (sl.retired1 n).lanep = sl.lanep := rfl
@[simp] theorem Slot.retired1_tcause (n : Nat) (sl : Slot) : (sl.retired1 n).tcause = sl.tcause := rfl
@[simp] theorem Slot.retired1_taddr (n : Nat) (sl : Slot) : (sl.retired1 n).taddr = sl.taddr := rfl
@[simp] theorem Slot.retired1_tpc (n : Nat) (sl : Slot) : (sl.retired1 n).tpc = sl.tpc := rfl
@[simp] theorem Slot.retired1_vec (n : Nat) (sl : Slot) : (sl.retired1 n).vec = sl.vec := rfl
@[simp] theorem Slot.retired1_intrap (n : Nat) (sl : Slot) : (sl.retired1 n).intrap = sl.intrap := rfl
@[simp] theorem Slot.retired1_tsc (n : Nat) (sl : Slot) : (sl.retired1 n).tsc = sl.tsc := rfl
@[simp] theorem Slot.retired1_grstat (n : Nat) (sl : Slot) : (sl.retired1 n).grstat = sl.grstat := rfl
@[simp] theorem Slot.retired1_nanseen (n : Nat) (sl : Slot) : (sl.retired1 n).nanseen = sl.nanseen := rfl
@[simp] theorem Slot.retired1_merstat (n : Nat) (sl : Slot) : (sl.retired1 n).merstat = sl.merstat := rfl
@[simp] theorem Slot.retired1_merfault (n : Nat) (sl : Slot) : (sl.retired1 n).merfault = sl.merfault := rfl
@[simp] theorem Slot.retired1_elapsed (n : Nat) (sl : Slot) : (sl.retired1 n).elapsed = sl.elapsed := rfl
@[simp] theorem Slot.retired1_noticed (n : Nat) (sl : Slot) : (sl.retired1 n).noticed = sl.noticed := rfl
@[simp] theorem Slot.retired1_lost (n : Nat) (sl : Slot) : (sl.retired1 n).lost = sl.lost := rfl
@[simp] theorem Slot.retired1_inl (n : Nat) (sl : Slot) : (sl.retired1 n).inl = sl.inl := rfl
@[simp] theorem Slot.retired1_streams (n : Nat) (sl : Slot) : (sl.retired1 n).streams = sl.streams := rfl
@[simp] theorem Slot.retired1_shadow (n : Nat) (sl : Slot) : (sl.retired1 n).shadow = sl.shadow := rfl
@[simp] theorem Slot.retired1_mshadow (n : Nat) (sl : Slot) : (sl.retired1 n).mshadow = sl.mshadow := rfl
@[simp] theorem Slot.retired1_auction (n : Nat) (sl : Slot) : (sl.retired1 n).auction = sl.auction := rfl
@[simp] theorem Slot.retired1_waiting (n : Nat) (sl : Slot) : (sl.retired1 n).waiting = sl.waiting := rfl
@[simp] theorem Slot.retired1_trackers (n : Nat) (sl : Slot) : (sl.retired1 n).trackers = sl.trackers := rfl
@[simp] theorem Slot.retired1_stores (n : Nat) (sl : Slot) : (sl.retired1 n).stores = sl.stores := rfl
@[simp] theorem Slot.retired1_sends (n : Nat) (sl : Slot) : (sl.retired1 n).sends = sl.sends := rfl
@[simp] theorem Slot.retired1_fences (n : Nat) (sl : Slot) : (sl.retired1 n).fences = sl.fences := rfl
@[simp] theorem Slot.retired1_cmds (n : Nat) (sl : Slot) : (sl.retired1 n).cmds = sl.cmds := rfl
@[simp] theorem Slot.setX_f (r : Reg) (v : Word) (sl : Slot) : (sl.setX r v).f = sl.f := by unfold Slot.setX; split <;> rfl
@[simp] theorem Slot.setX_p (r : Reg) (v : Word) (sl : Slot) : (sl.setX r v).p = sl.p := by unfold Slot.setX; split <;> rfl
@[simp] theorem Slot.setX_pc (r : Reg) (v : Word) (sl : Slot) : (sl.setX r v).pc = sl.pc := by unfold Slot.setX; split <;> rfl
@[simp] theorem Slot.setX_ready (r : Reg) (v : Word) (sl : Slot) : (sl.setX r v).ready = sl.ready := by unfold Slot.setX; split <;> rfl
@[simp] theorem Slot.setX_pend (r : Reg) (v : Word) (sl : Slot) : (sl.setX r v).pend = sl.pend := by unfold Slot.setX; split <;> rfl
@[simp] theorem Slot.setX_active (r : Reg) (v : Word) (sl : Slot) : (sl.setX r v).active = sl.active := by unfold Slot.setX; split <;> rfl
@[simp] theorem Slot.setX_park (r : Reg) (v : Word) (sl : Slot) : (sl.setX r v).park = sl.park := by unfold Slot.setX; split <;> rfl
@[simp] theorem Slot.setX_frozen (r : Reg) (v : Word) (sl : Slot) : (sl.setX r v).frozen = sl.frozen := by unfold Slot.setX; split <;> rfl
@[simp] theorem Slot.setX_woken (r : Reg) (v : Word) (sl : Slot) : (sl.setX r v).woken = sl.woken := by unfold Slot.setX; split <;> rfl
@[simp] theorem Slot.setX_waited (r : Reg) (v : Word) (sl : Slot) : (sl.setX r v).waited = sl.waited := by unfold Slot.setX; split <;> rfl
@[simp] theorem Slot.setX_act (r : Reg) (v : Word) (sl : Slot) : (sl.setX r v).act = sl.act := by unfold Slot.setX; split <;> rfl
@[simp] theorem Slot.setX_actNo (r : Reg) (v : Word) (sl : Slot) : (sl.setX r v).actNo = sl.actNo := by unfold Slot.setX; split <;> rfl
@[simp] theorem Slot.setX_replyh (r : Reg) (v : Word) (sl : Slot) : (sl.setX r v).replyh = sl.replyh := by unfold Slot.setX; split <;> rfl
@[simp] theorem Slot.setX_actarg (r : Reg) (v : Word) (sl : Slot) : (sl.setX r v).actarg = sl.actarg := by unfold Slot.setX; split <;> rfl
@[simp] theorem Slot.setX_xferid (r : Reg) (v : Word) (sl : Slot) : (sl.setX r v).xferid = sl.xferid := by unfold Slot.setX; split <;> rfl
@[simp] theorem Slot.setX_lstart (r : Reg) (v : Word) (sl : Slot) : (sl.setX r v).lstart = sl.lstart := by unfold Slot.setX; split <;> rfl
@[simp] theorem Slot.setX_lend (r : Reg) (v : Word) (sl : Slot) : (sl.setX r v).lend = sl.lend := by unfold Slot.setX; split <;> rfl
@[simp] theorem Slot.setX_lcount (r : Reg) (v : Word) (sl : Slot) : (sl.setX r v).lcount = sl.lcount := by unfold Slot.setX; split <;> rfl
@[simp] theorem Slot.setX_rmode (r : Reg) (v : Word) (sl : Slot) : (sl.setX r v).rmode = sl.rmode := by unfold Slot.setX; split <;> rfl
@[simp] theorem Slot.setX_rowmask (r : Reg) (v : Word) (sl : Slot) : (sl.setX r v).rowmask = sl.rowmask := by unfold Slot.setX; split <;> rfl
@[simp] theorem Slot.setX_temp (r : Reg) (v : Word) (sl : Slot) : (sl.setX r v).temp = sl.temp := by unfold Slot.setX; split <;> rfl
@[simp] theorem Slot.setX_lanep (r : Reg) (v : Word) (sl : Slot) : (sl.setX r v).lanep = sl.lanep := by unfold Slot.setX; split <;> rfl
@[simp] theorem Slot.setX_tcause (r : Reg) (v : Word) (sl : Slot) : (sl.setX r v).tcause = sl.tcause := by unfold Slot.setX; split <;> rfl
@[simp] theorem Slot.setX_taddr (r : Reg) (v : Word) (sl : Slot) : (sl.setX r v).taddr = sl.taddr := by unfold Slot.setX; split <;> rfl
@[simp] theorem Slot.setX_tpc (r : Reg) (v : Word) (sl : Slot) : (sl.setX r v).tpc = sl.tpc := by unfold Slot.setX; split <;> rfl
@[simp] theorem Slot.setX_vec (r : Reg) (v : Word) (sl : Slot) : (sl.setX r v).vec = sl.vec := by unfold Slot.setX; split <;> rfl
@[simp] theorem Slot.setX_intrap (r : Reg) (v : Word) (sl : Slot) : (sl.setX r v).intrap = sl.intrap := by unfold Slot.setX; split <;> rfl
@[simp] theorem Slot.setX_tsc (r : Reg) (v : Word) (sl : Slot) : (sl.setX r v).tsc = sl.tsc := by unfold Slot.setX; split <;> rfl
@[simp] theorem Slot.setX_grstat (r : Reg) (v : Word) (sl : Slot) : (sl.setX r v).grstat = sl.grstat := by unfold Slot.setX; split <;> rfl
@[simp] theorem Slot.setX_nanseen (r : Reg) (v : Word) (sl : Slot) : (sl.setX r v).nanseen = sl.nanseen := by unfold Slot.setX; split <;> rfl
@[simp] theorem Slot.setX_merstat (r : Reg) (v : Word) (sl : Slot) : (sl.setX r v).merstat = sl.merstat := by unfold Slot.setX; split <;> rfl
@[simp] theorem Slot.setX_merfault (r : Reg) (v : Word) (sl : Slot) : (sl.setX r v).merfault = sl.merfault := by unfold Slot.setX; split <;> rfl
@[simp] theorem Slot.setX_retired (r : Reg) (v : Word) (sl : Slot) : (sl.setX r v).retired = sl.retired := by unfold Slot.setX; split <;> rfl
@[simp] theorem Slot.setX_elapsed (r : Reg) (v : Word) (sl : Slot) : (sl.setX r v).elapsed = sl.elapsed := by unfold Slot.setX; split <;> rfl
@[simp] theorem Slot.setX_noticed (r : Reg) (v : Word) (sl : Slot) : (sl.setX r v).noticed = sl.noticed := by unfold Slot.setX; split <;> rfl
@[simp] theorem Slot.setX_lost (r : Reg) (v : Word) (sl : Slot) : (sl.setX r v).lost = sl.lost := by unfold Slot.setX; split <;> rfl
@[simp] theorem Slot.setX_inl (r : Reg) (v : Word) (sl : Slot) : (sl.setX r v).inl = sl.inl := by unfold Slot.setX; split <;> rfl
@[simp] theorem Slot.setX_streams (r : Reg) (v : Word) (sl : Slot) : (sl.setX r v).streams = sl.streams := by unfold Slot.setX; split <;> rfl
@[simp] theorem Slot.setX_shadow (r : Reg) (v : Word) (sl : Slot) : (sl.setX r v).shadow = sl.shadow := by unfold Slot.setX; split <;> rfl
@[simp] theorem Slot.setX_mshadow (r : Reg) (v : Word) (sl : Slot) : (sl.setX r v).mshadow = sl.mshadow := by unfold Slot.setX; split <;> rfl
@[simp] theorem Slot.setX_auction (r : Reg) (v : Word) (sl : Slot) : (sl.setX r v).auction = sl.auction := by unfold Slot.setX; split <;> rfl
@[simp] theorem Slot.setX_waiting (r : Reg) (v : Word) (sl : Slot) : (sl.setX r v).waiting = sl.waiting := by unfold Slot.setX; split <;> rfl
@[simp] theorem Slot.setX_trackers (r : Reg) (v : Word) (sl : Slot) : (sl.setX r v).trackers = sl.trackers := by unfold Slot.setX; split <;> rfl
@[simp] theorem Slot.setX_stores (r : Reg) (v : Word) (sl : Slot) : (sl.setX r v).stores = sl.stores := by unfold Slot.setX; split <;> rfl
@[simp] theorem Slot.setX_sends (r : Reg) (v : Word) (sl : Slot) : (sl.setX r v).sends = sl.sends := by unfold Slot.setX; split <;> rfl
@[simp] theorem Slot.setX_fences (r : Reg) (v : Word) (sl : Slot) : (sl.setX r v).fences = sl.fences := by unfold Slot.setX; split <;> rfl
@[simp] theorem Slot.setX_cmds (r : Reg) (v : Word) (sl : Slot) : (sl.setX r v).cmds = sl.cmds := by unfold Slot.setX; split <;> rfl
@[simp] theorem Slot.setP_x (r : PReg) (v : Byte) (sl : Slot) : (sl.setP r v).x = sl.x := by unfold Slot.setP; split <;> rfl
@[simp] theorem Slot.setP_f (r : PReg) (v : Byte) (sl : Slot) : (sl.setP r v).f = sl.f := by unfold Slot.setP; split <;> rfl
@[simp] theorem Slot.setP_pc (r : PReg) (v : Byte) (sl : Slot) : (sl.setP r v).pc = sl.pc := by unfold Slot.setP; split <;> rfl
@[simp] theorem Slot.setP_ready (r : PReg) (v : Byte) (sl : Slot) : (sl.setP r v).ready = sl.ready := by unfold Slot.setP; split <;> rfl
@[simp] theorem Slot.setP_pend (r : PReg) (v : Byte) (sl : Slot) : (sl.setP r v).pend = sl.pend := by unfold Slot.setP; split <;> rfl
@[simp] theorem Slot.setP_active (r : PReg) (v : Byte) (sl : Slot) : (sl.setP r v).active = sl.active := by unfold Slot.setP; split <;> rfl
@[simp] theorem Slot.setP_park (r : PReg) (v : Byte) (sl : Slot) : (sl.setP r v).park = sl.park := by unfold Slot.setP; split <;> rfl
@[simp] theorem Slot.setP_frozen (r : PReg) (v : Byte) (sl : Slot) : (sl.setP r v).frozen = sl.frozen := by unfold Slot.setP; split <;> rfl
@[simp] theorem Slot.setP_woken (r : PReg) (v : Byte) (sl : Slot) : (sl.setP r v).woken = sl.woken := by unfold Slot.setP; split <;> rfl
@[simp] theorem Slot.setP_waited (r : PReg) (v : Byte) (sl : Slot) : (sl.setP r v).waited = sl.waited := by unfold Slot.setP; split <;> rfl
@[simp] theorem Slot.setP_act (r : PReg) (v : Byte) (sl : Slot) : (sl.setP r v).act = sl.act := by unfold Slot.setP; split <;> rfl
@[simp] theorem Slot.setP_actNo (r : PReg) (v : Byte) (sl : Slot) : (sl.setP r v).actNo = sl.actNo := by unfold Slot.setP; split <;> rfl
@[simp] theorem Slot.setP_replyh (r : PReg) (v : Byte) (sl : Slot) : (sl.setP r v).replyh = sl.replyh := by unfold Slot.setP; split <;> rfl
@[simp] theorem Slot.setP_actarg (r : PReg) (v : Byte) (sl : Slot) : (sl.setP r v).actarg = sl.actarg := by unfold Slot.setP; split <;> rfl
@[simp] theorem Slot.setP_xferid (r : PReg) (v : Byte) (sl : Slot) : (sl.setP r v).xferid = sl.xferid := by unfold Slot.setP; split <;> rfl
@[simp] theorem Slot.setP_lstart (r : PReg) (v : Byte) (sl : Slot) : (sl.setP r v).lstart = sl.lstart := by unfold Slot.setP; split <;> rfl
@[simp] theorem Slot.setP_lend (r : PReg) (v : Byte) (sl : Slot) : (sl.setP r v).lend = sl.lend := by unfold Slot.setP; split <;> rfl
@[simp] theorem Slot.setP_lcount (r : PReg) (v : Byte) (sl : Slot) : (sl.setP r v).lcount = sl.lcount := by unfold Slot.setP; split <;> rfl
@[simp] theorem Slot.setP_rmode (r : PReg) (v : Byte) (sl : Slot) : (sl.setP r v).rmode = sl.rmode := by unfold Slot.setP; split <;> rfl
@[simp] theorem Slot.setP_rowmask (r : PReg) (v : Byte) (sl : Slot) : (sl.setP r v).rowmask = sl.rowmask := by unfold Slot.setP; split <;> rfl
@[simp] theorem Slot.setP_temp (r : PReg) (v : Byte) (sl : Slot) : (sl.setP r v).temp = sl.temp := by unfold Slot.setP; split <;> rfl
@[simp] theorem Slot.setP_lanep (r : PReg) (v : Byte) (sl : Slot) : (sl.setP r v).lanep = sl.lanep := by unfold Slot.setP; split <;> rfl
@[simp] theorem Slot.setP_tcause (r : PReg) (v : Byte) (sl : Slot) : (sl.setP r v).tcause = sl.tcause := by unfold Slot.setP; split <;> rfl
@[simp] theorem Slot.setP_taddr (r : PReg) (v : Byte) (sl : Slot) : (sl.setP r v).taddr = sl.taddr := by unfold Slot.setP; split <;> rfl
@[simp] theorem Slot.setP_tpc (r : PReg) (v : Byte) (sl : Slot) : (sl.setP r v).tpc = sl.tpc := by unfold Slot.setP; split <;> rfl
@[simp] theorem Slot.setP_vec (r : PReg) (v : Byte) (sl : Slot) : (sl.setP r v).vec = sl.vec := by unfold Slot.setP; split <;> rfl
@[simp] theorem Slot.setP_intrap (r : PReg) (v : Byte) (sl : Slot) : (sl.setP r v).intrap = sl.intrap := by unfold Slot.setP; split <;> rfl
@[simp] theorem Slot.setP_tsc (r : PReg) (v : Byte) (sl : Slot) : (sl.setP r v).tsc = sl.tsc := by unfold Slot.setP; split <;> rfl
@[simp] theorem Slot.setP_grstat (r : PReg) (v : Byte) (sl : Slot) : (sl.setP r v).grstat = sl.grstat := by unfold Slot.setP; split <;> rfl
@[simp] theorem Slot.setP_nanseen (r : PReg) (v : Byte) (sl : Slot) : (sl.setP r v).nanseen = sl.nanseen := by unfold Slot.setP; split <;> rfl
@[simp] theorem Slot.setP_merstat (r : PReg) (v : Byte) (sl : Slot) : (sl.setP r v).merstat = sl.merstat := by unfold Slot.setP; split <;> rfl
@[simp] theorem Slot.setP_merfault (r : PReg) (v : Byte) (sl : Slot) : (sl.setP r v).merfault = sl.merfault := by unfold Slot.setP; split <;> rfl
@[simp] theorem Slot.setP_retired (r : PReg) (v : Byte) (sl : Slot) : (sl.setP r v).retired = sl.retired := by unfold Slot.setP; split <;> rfl
@[simp] theorem Slot.setP_elapsed (r : PReg) (v : Byte) (sl : Slot) : (sl.setP r v).elapsed = sl.elapsed := by unfold Slot.setP; split <;> rfl
@[simp] theorem Slot.setP_noticed (r : PReg) (v : Byte) (sl : Slot) : (sl.setP r v).noticed = sl.noticed := by unfold Slot.setP; split <;> rfl
@[simp] theorem Slot.setP_lost (r : PReg) (v : Byte) (sl : Slot) : (sl.setP r v).lost = sl.lost := by unfold Slot.setP; split <;> rfl
@[simp] theorem Slot.setP_inl (r : PReg) (v : Byte) (sl : Slot) : (sl.setP r v).inl = sl.inl := by unfold Slot.setP; split <;> rfl
@[simp] theorem Slot.setP_streams (r : PReg) (v : Byte) (sl : Slot) : (sl.setP r v).streams = sl.streams := by unfold Slot.setP; split <;> rfl
@[simp] theorem Slot.setP_shadow (r : PReg) (v : Byte) (sl : Slot) : (sl.setP r v).shadow = sl.shadow := by unfold Slot.setP; split <;> rfl
@[simp] theorem Slot.setP_mshadow (r : PReg) (v : Byte) (sl : Slot) : (sl.setP r v).mshadow = sl.mshadow := by unfold Slot.setP; split <;> rfl
@[simp] theorem Slot.setP_auction (r : PReg) (v : Byte) (sl : Slot) : (sl.setP r v).auction = sl.auction := by unfold Slot.setP; split <;> rfl
@[simp] theorem Slot.setP_waiting (r : PReg) (v : Byte) (sl : Slot) : (sl.setP r v).waiting = sl.waiting := by unfold Slot.setP; split <;> rfl
@[simp] theorem Slot.setP_trackers (r : PReg) (v : Byte) (sl : Slot) : (sl.setP r v).trackers = sl.trackers := by unfold Slot.setP; split <;> rfl
@[simp] theorem Slot.setP_stores (r : PReg) (v : Byte) (sl : Slot) : (sl.setP r v).stores = sl.stores := by unfold Slot.setP; split <;> rfl
@[simp] theorem Slot.setP_sends (r : PReg) (v : Byte) (sl : Slot) : (sl.setP r v).sends = sl.sends := by unfold Slot.setP; split <;> rfl
@[simp] theorem Slot.setP_fences (r : PReg) (v : Byte) (sl : Slot) : (sl.setP r v).fences = sl.fences := by unfold Slot.setP; split <;> rfl
@[simp] theorem Slot.setP_cmds (r : PReg) (v : Byte) (sl : Slot) : (sl.setP r v).cmds = sl.cmds := by unfold Slot.setP; split <;> rfl
@[simp] theorem Slot.setF_x (r : Reg) (v : QWord) (sl : Slot) : (sl.setF r v).x = sl.x := rfl
@[simp] theorem Slot.setF_p (r : Reg) (v : QWord) (sl : Slot) : (sl.setF r v).p = sl.p := rfl
@[simp] theorem Slot.setF_pc (r : Reg) (v : QWord) (sl : Slot) : (sl.setF r v).pc = sl.pc := rfl
@[simp] theorem Slot.setF_ready (r : Reg) (v : QWord) (sl : Slot) : (sl.setF r v).ready = sl.ready := rfl
@[simp] theorem Slot.setF_pend (r : Reg) (v : QWord) (sl : Slot) : (sl.setF r v).pend = sl.pend := rfl
@[simp] theorem Slot.setF_active (r : Reg) (v : QWord) (sl : Slot) : (sl.setF r v).active = sl.active := rfl
@[simp] theorem Slot.setF_park (r : Reg) (v : QWord) (sl : Slot) : (sl.setF r v).park = sl.park := rfl
@[simp] theorem Slot.setF_frozen (r : Reg) (v : QWord) (sl : Slot) : (sl.setF r v).frozen = sl.frozen := rfl
@[simp] theorem Slot.setF_woken (r : Reg) (v : QWord) (sl : Slot) : (sl.setF r v).woken = sl.woken := rfl
@[simp] theorem Slot.setF_waited (r : Reg) (v : QWord) (sl : Slot) : (sl.setF r v).waited = sl.waited := rfl
@[simp] theorem Slot.setF_act (r : Reg) (v : QWord) (sl : Slot) : (sl.setF r v).act = sl.act := rfl
@[simp] theorem Slot.setF_actNo (r : Reg) (v : QWord) (sl : Slot) : (sl.setF r v).actNo = sl.actNo := rfl
@[simp] theorem Slot.setF_replyh (r : Reg) (v : QWord) (sl : Slot) : (sl.setF r v).replyh = sl.replyh := rfl
@[simp] theorem Slot.setF_actarg (r : Reg) (v : QWord) (sl : Slot) : (sl.setF r v).actarg = sl.actarg := rfl
@[simp] theorem Slot.setF_xferid (r : Reg) (v : QWord) (sl : Slot) : (sl.setF r v).xferid = sl.xferid := rfl
@[simp] theorem Slot.setF_lstart (r : Reg) (v : QWord) (sl : Slot) : (sl.setF r v).lstart = sl.lstart := rfl
@[simp] theorem Slot.setF_lend (r : Reg) (v : QWord) (sl : Slot) : (sl.setF r v).lend = sl.lend := rfl
@[simp] theorem Slot.setF_lcount (r : Reg) (v : QWord) (sl : Slot) : (sl.setF r v).lcount = sl.lcount := rfl
@[simp] theorem Slot.setF_rmode (r : Reg) (v : QWord) (sl : Slot) : (sl.setF r v).rmode = sl.rmode := rfl
@[simp] theorem Slot.setF_rowmask (r : Reg) (v : QWord) (sl : Slot) : (sl.setF r v).rowmask = sl.rowmask := rfl
@[simp] theorem Slot.setF_temp (r : Reg) (v : QWord) (sl : Slot) : (sl.setF r v).temp = sl.temp := rfl
@[simp] theorem Slot.setF_lanep (r : Reg) (v : QWord) (sl : Slot) : (sl.setF r v).lanep = sl.lanep := rfl
@[simp] theorem Slot.setF_tcause (r : Reg) (v : QWord) (sl : Slot) : (sl.setF r v).tcause = sl.tcause := rfl
@[simp] theorem Slot.setF_taddr (r : Reg) (v : QWord) (sl : Slot) : (sl.setF r v).taddr = sl.taddr := rfl
@[simp] theorem Slot.setF_tpc (r : Reg) (v : QWord) (sl : Slot) : (sl.setF r v).tpc = sl.tpc := rfl
@[simp] theorem Slot.setF_vec (r : Reg) (v : QWord) (sl : Slot) : (sl.setF r v).vec = sl.vec := rfl
@[simp] theorem Slot.setF_intrap (r : Reg) (v : QWord) (sl : Slot) : (sl.setF r v).intrap = sl.intrap := rfl
@[simp] theorem Slot.setF_tsc (r : Reg) (v : QWord) (sl : Slot) : (sl.setF r v).tsc = sl.tsc := rfl
@[simp] theorem Slot.setF_grstat (r : Reg) (v : QWord) (sl : Slot) : (sl.setF r v).grstat = sl.grstat := rfl
@[simp] theorem Slot.setF_nanseen (r : Reg) (v : QWord) (sl : Slot) : (sl.setF r v).nanseen = sl.nanseen := rfl
@[simp] theorem Slot.setF_merstat (r : Reg) (v : QWord) (sl : Slot) : (sl.setF r v).merstat = sl.merstat := rfl
@[simp] theorem Slot.setF_merfault (r : Reg) (v : QWord) (sl : Slot) : (sl.setF r v).merfault = sl.merfault := rfl
@[simp] theorem Slot.setF_retired (r : Reg) (v : QWord) (sl : Slot) : (sl.setF r v).retired = sl.retired := rfl
@[simp] theorem Slot.setF_elapsed (r : Reg) (v : QWord) (sl : Slot) : (sl.setF r v).elapsed = sl.elapsed := rfl
@[simp] theorem Slot.setF_noticed (r : Reg) (v : QWord) (sl : Slot) : (sl.setF r v).noticed = sl.noticed := rfl
@[simp] theorem Slot.setF_lost (r : Reg) (v : QWord) (sl : Slot) : (sl.setF r v).lost = sl.lost := rfl
@[simp] theorem Slot.setF_inl (r : Reg) (v : QWord) (sl : Slot) : (sl.setF r v).inl = sl.inl := rfl
@[simp] theorem Slot.setF_streams (r : Reg) (v : QWord) (sl : Slot) : (sl.setF r v).streams = sl.streams := rfl
@[simp] theorem Slot.setF_shadow (r : Reg) (v : QWord) (sl : Slot) : (sl.setF r v).shadow = sl.shadow := rfl
@[simp] theorem Slot.setF_mshadow (r : Reg) (v : QWord) (sl : Slot) : (sl.setF r v).mshadow = sl.mshadow := rfl
@[simp] theorem Slot.setF_auction (r : Reg) (v : QWord) (sl : Slot) : (sl.setF r v).auction = sl.auction := rfl
@[simp] theorem Slot.setF_waiting (r : Reg) (v : QWord) (sl : Slot) : (sl.setF r v).waiting = sl.waiting := rfl
@[simp] theorem Slot.setF_trackers (r : Reg) (v : QWord) (sl : Slot) : (sl.setF r v).trackers = sl.trackers := rfl
@[simp] theorem Slot.setF_stores (r : Reg) (v : QWord) (sl : Slot) : (sl.setF r v).stores = sl.stores := rfl
@[simp] theorem Slot.setF_sends (r : Reg) (v : QWord) (sl : Slot) : (sl.setF r v).sends = sl.sends := rfl
@[simp] theorem Slot.setF_fences (r : Reg) (v : QWord) (sl : Slot) : (sl.setF r v).fences = sl.fences := rfl
@[simp] theorem Slot.setF_cmds (r : Reg) (v : QWord) (sl : Slot) : (sl.setF r v).cmds = sl.cmds := rfl
theorem Slot.seq_eq (n : Nat) (sl : Slot) : sl.seq n = { sl with pc := (sl.seq n).pc, lcount := (sl.seq n).lcount } := by
  unfold Slot.seq; dsimp only; split
  · rfl
  · split
    · split <;> rfl
    · split <;> rfl

theorem Slot.goto_eq (a : BitVec 48) (sl : Slot) : sl.goto a = { sl with pc := a, lcount := (sl.goto a).lcount } := by
  unfold Slot.goto; split <;> rfl

@[simp] theorem Slot.seq_x (n : Nat) (sl : Slot) : (sl.seq n).x = sl.x := by rw [Slot.seq_eq]
@[simp] theorem Slot.seq_f (n : Nat) (sl : Slot) : (sl.seq n).f = sl.f := by rw [Slot.seq_eq]
@[simp] theorem Slot.seq_p (n : Nat) (sl : Slot) : (sl.seq n).p = sl.p := by rw [Slot.seq_eq]
@[simp] theorem Slot.seq_ready (n : Nat) (sl : Slot) : (sl.seq n).ready = sl.ready := by rw [Slot.seq_eq]
@[simp] theorem Slot.seq_pend (n : Nat) (sl : Slot) : (sl.seq n).pend = sl.pend := by rw [Slot.seq_eq]
@[simp] theorem Slot.seq_active (n : Nat) (sl : Slot) : (sl.seq n).active = sl.active := by rw [Slot.seq_eq]
@[simp] theorem Slot.seq_park (n : Nat) (sl : Slot) : (sl.seq n).park = sl.park := by rw [Slot.seq_eq]
@[simp] theorem Slot.seq_frozen (n : Nat) (sl : Slot) : (sl.seq n).frozen = sl.frozen := by rw [Slot.seq_eq]
@[simp] theorem Slot.seq_woken (n : Nat) (sl : Slot) : (sl.seq n).woken = sl.woken := by rw [Slot.seq_eq]
@[simp] theorem Slot.seq_waited (n : Nat) (sl : Slot) : (sl.seq n).waited = sl.waited := by rw [Slot.seq_eq]
@[simp] theorem Slot.seq_act (n : Nat) (sl : Slot) : (sl.seq n).act = sl.act := by rw [Slot.seq_eq]
@[simp] theorem Slot.seq_actNo (n : Nat) (sl : Slot) : (sl.seq n).actNo = sl.actNo := by rw [Slot.seq_eq]
@[simp] theorem Slot.seq_replyh (n : Nat) (sl : Slot) : (sl.seq n).replyh = sl.replyh := by rw [Slot.seq_eq]
@[simp] theorem Slot.seq_actarg (n : Nat) (sl : Slot) : (sl.seq n).actarg = sl.actarg := by rw [Slot.seq_eq]
@[simp] theorem Slot.seq_xferid (n : Nat) (sl : Slot) : (sl.seq n).xferid = sl.xferid := by rw [Slot.seq_eq]
@[simp] theorem Slot.seq_lstart (n : Nat) (sl : Slot) : (sl.seq n).lstart = sl.lstart := by rw [Slot.seq_eq]
@[simp] theorem Slot.seq_lend (n : Nat) (sl : Slot) : (sl.seq n).lend = sl.lend := by rw [Slot.seq_eq]
@[simp] theorem Slot.seq_rmode (n : Nat) (sl : Slot) : (sl.seq n).rmode = sl.rmode := by rw [Slot.seq_eq]
@[simp] theorem Slot.seq_rowmask (n : Nat) (sl : Slot) : (sl.seq n).rowmask = sl.rowmask := by rw [Slot.seq_eq]
@[simp] theorem Slot.seq_temp (n : Nat) (sl : Slot) : (sl.seq n).temp = sl.temp := by rw [Slot.seq_eq]
@[simp] theorem Slot.seq_lanep (n : Nat) (sl : Slot) : (sl.seq n).lanep = sl.lanep := by rw [Slot.seq_eq]
@[simp] theorem Slot.seq_tcause (n : Nat) (sl : Slot) : (sl.seq n).tcause = sl.tcause := by rw [Slot.seq_eq]
@[simp] theorem Slot.seq_taddr (n : Nat) (sl : Slot) : (sl.seq n).taddr = sl.taddr := by rw [Slot.seq_eq]
@[simp] theorem Slot.seq_tpc (n : Nat) (sl : Slot) : (sl.seq n).tpc = sl.tpc := by rw [Slot.seq_eq]
@[simp] theorem Slot.seq_vec (n : Nat) (sl : Slot) : (sl.seq n).vec = sl.vec := by rw [Slot.seq_eq]
@[simp] theorem Slot.seq_intrap (n : Nat) (sl : Slot) : (sl.seq n).intrap = sl.intrap := by rw [Slot.seq_eq]
@[simp] theorem Slot.seq_tsc (n : Nat) (sl : Slot) : (sl.seq n).tsc = sl.tsc := by rw [Slot.seq_eq]
@[simp] theorem Slot.seq_grstat (n : Nat) (sl : Slot) : (sl.seq n).grstat = sl.grstat := by rw [Slot.seq_eq]
@[simp] theorem Slot.seq_nanseen (n : Nat) (sl : Slot) : (sl.seq n).nanseen = sl.nanseen := by rw [Slot.seq_eq]
@[simp] theorem Slot.seq_merstat (n : Nat) (sl : Slot) : (sl.seq n).merstat = sl.merstat := by rw [Slot.seq_eq]
@[simp] theorem Slot.seq_merfault (n : Nat) (sl : Slot) : (sl.seq n).merfault = sl.merfault := by rw [Slot.seq_eq]
@[simp] theorem Slot.seq_retired (n : Nat) (sl : Slot) : (sl.seq n).retired = sl.retired := by rw [Slot.seq_eq]
@[simp] theorem Slot.seq_elapsed (n : Nat) (sl : Slot) : (sl.seq n).elapsed = sl.elapsed := by rw [Slot.seq_eq]
@[simp] theorem Slot.seq_noticed (n : Nat) (sl : Slot) : (sl.seq n).noticed = sl.noticed := by rw [Slot.seq_eq]
@[simp] theorem Slot.seq_lost (n : Nat) (sl : Slot) : (sl.seq n).lost = sl.lost := by rw [Slot.seq_eq]
@[simp] theorem Slot.seq_inl (n : Nat) (sl : Slot) : (sl.seq n).inl = sl.inl := by rw [Slot.seq_eq]
@[simp] theorem Slot.seq_streams (n : Nat) (sl : Slot) : (sl.seq n).streams = sl.streams := by rw [Slot.seq_eq]
@[simp] theorem Slot.seq_shadow (n : Nat) (sl : Slot) : (sl.seq n).shadow = sl.shadow := by rw [Slot.seq_eq]
@[simp] theorem Slot.seq_mshadow (n : Nat) (sl : Slot) : (sl.seq n).mshadow = sl.mshadow := by rw [Slot.seq_eq]
@[simp] theorem Slot.seq_auction (n : Nat) (sl : Slot) : (sl.seq n).auction = sl.auction := by rw [Slot.seq_eq]
@[simp] theorem Slot.seq_waiting (n : Nat) (sl : Slot) : (sl.seq n).waiting = sl.waiting := by rw [Slot.seq_eq]
@[simp] theorem Slot.seq_trackers (n : Nat) (sl : Slot) : (sl.seq n).trackers = sl.trackers := by rw [Slot.seq_eq]
@[simp] theorem Slot.seq_stores (n : Nat) (sl : Slot) : (sl.seq n).stores = sl.stores := by rw [Slot.seq_eq]
@[simp] theorem Slot.seq_sends (n : Nat) (sl : Slot) : (sl.seq n).sends = sl.sends := by rw [Slot.seq_eq]
@[simp] theorem Slot.seq_fences (n : Nat) (sl : Slot) : (sl.seq n).fences = sl.fences := by rw [Slot.seq_eq]
@[simp] theorem Slot.seq_cmds (n : Nat) (sl : Slot) : (sl.seq n).cmds = sl.cmds := by rw [Slot.seq_eq]
@[simp] theorem Slot.goto_x (a : BitVec 48) (sl : Slot) : (sl.goto a).x = sl.x := by rw [Slot.goto_eq]
@[simp] theorem Slot.goto_f (a : BitVec 48) (sl : Slot) : (sl.goto a).f = sl.f := by rw [Slot.goto_eq]
@[simp] theorem Slot.goto_p (a : BitVec 48) (sl : Slot) : (sl.goto a).p = sl.p := by rw [Slot.goto_eq]
@[simp] theorem Slot.goto_ready (a : BitVec 48) (sl : Slot) : (sl.goto a).ready = sl.ready := by rw [Slot.goto_eq]
@[simp] theorem Slot.goto_pend (a : BitVec 48) (sl : Slot) : (sl.goto a).pend = sl.pend := by rw [Slot.goto_eq]
@[simp] theorem Slot.goto_active (a : BitVec 48) (sl : Slot) : (sl.goto a).active = sl.active := by rw [Slot.goto_eq]
@[simp] theorem Slot.goto_park (a : BitVec 48) (sl : Slot) : (sl.goto a).park = sl.park := by rw [Slot.goto_eq]
@[simp] theorem Slot.goto_frozen (a : BitVec 48) (sl : Slot) : (sl.goto a).frozen = sl.frozen := by rw [Slot.goto_eq]
@[simp] theorem Slot.goto_woken (a : BitVec 48) (sl : Slot) : (sl.goto a).woken = sl.woken := by rw [Slot.goto_eq]
@[simp] theorem Slot.goto_waited (a : BitVec 48) (sl : Slot) : (sl.goto a).waited = sl.waited := by rw [Slot.goto_eq]
@[simp] theorem Slot.goto_act (a : BitVec 48) (sl : Slot) : (sl.goto a).act = sl.act := by rw [Slot.goto_eq]
@[simp] theorem Slot.goto_actNo (a : BitVec 48) (sl : Slot) : (sl.goto a).actNo = sl.actNo := by rw [Slot.goto_eq]
@[simp] theorem Slot.goto_replyh (a : BitVec 48) (sl : Slot) : (sl.goto a).replyh = sl.replyh := by rw [Slot.goto_eq]
@[simp] theorem Slot.goto_actarg (a : BitVec 48) (sl : Slot) : (sl.goto a).actarg = sl.actarg := by rw [Slot.goto_eq]
@[simp] theorem Slot.goto_xferid (a : BitVec 48) (sl : Slot) : (sl.goto a).xferid = sl.xferid := by rw [Slot.goto_eq]
@[simp] theorem Slot.goto_lstart (a : BitVec 48) (sl : Slot) : (sl.goto a).lstart = sl.lstart := by rw [Slot.goto_eq]
@[simp] theorem Slot.goto_lend (a : BitVec 48) (sl : Slot) : (sl.goto a).lend = sl.lend := by rw [Slot.goto_eq]
@[simp] theorem Slot.goto_rmode (a : BitVec 48) (sl : Slot) : (sl.goto a).rmode = sl.rmode := by rw [Slot.goto_eq]
@[simp] theorem Slot.goto_rowmask (a : BitVec 48) (sl : Slot) : (sl.goto a).rowmask = sl.rowmask := by rw [Slot.goto_eq]
@[simp] theorem Slot.goto_temp (a : BitVec 48) (sl : Slot) : (sl.goto a).temp = sl.temp := by rw [Slot.goto_eq]
@[simp] theorem Slot.goto_lanep (a : BitVec 48) (sl : Slot) : (sl.goto a).lanep = sl.lanep := by rw [Slot.goto_eq]
@[simp] theorem Slot.goto_tcause (a : BitVec 48) (sl : Slot) : (sl.goto a).tcause = sl.tcause := by rw [Slot.goto_eq]
@[simp] theorem Slot.goto_taddr (a : BitVec 48) (sl : Slot) : (sl.goto a).taddr = sl.taddr := by rw [Slot.goto_eq]
@[simp] theorem Slot.goto_tpc (a : BitVec 48) (sl : Slot) : (sl.goto a).tpc = sl.tpc := by rw [Slot.goto_eq]
@[simp] theorem Slot.goto_vec (a : BitVec 48) (sl : Slot) : (sl.goto a).vec = sl.vec := by rw [Slot.goto_eq]
@[simp] theorem Slot.goto_intrap (a : BitVec 48) (sl : Slot) : (sl.goto a).intrap = sl.intrap := by rw [Slot.goto_eq]
@[simp] theorem Slot.goto_tsc (a : BitVec 48) (sl : Slot) : (sl.goto a).tsc = sl.tsc := by rw [Slot.goto_eq]
@[simp] theorem Slot.goto_grstat (a : BitVec 48) (sl : Slot) : (sl.goto a).grstat = sl.grstat := by rw [Slot.goto_eq]
@[simp] theorem Slot.goto_nanseen (a : BitVec 48) (sl : Slot) : (sl.goto a).nanseen = sl.nanseen := by rw [Slot.goto_eq]
@[simp] theorem Slot.goto_merstat (a : BitVec 48) (sl : Slot) : (sl.goto a).merstat = sl.merstat := by rw [Slot.goto_eq]
@[simp] theorem Slot.goto_merfault (a : BitVec 48) (sl : Slot) : (sl.goto a).merfault = sl.merfault := by rw [Slot.goto_eq]
@[simp] theorem Slot.goto_retired (a : BitVec 48) (sl : Slot) : (sl.goto a).retired = sl.retired := by rw [Slot.goto_eq]
@[simp] theorem Slot.goto_elapsed (a : BitVec 48) (sl : Slot) : (sl.goto a).elapsed = sl.elapsed := by rw [Slot.goto_eq]
@[simp] theorem Slot.goto_noticed (a : BitVec 48) (sl : Slot) : (sl.goto a).noticed = sl.noticed := by rw [Slot.goto_eq]
@[simp] theorem Slot.goto_lost (a : BitVec 48) (sl : Slot) : (sl.goto a).lost = sl.lost := by rw [Slot.goto_eq]
@[simp] theorem Slot.goto_inl (a : BitVec 48) (sl : Slot) : (sl.goto a).inl = sl.inl := by rw [Slot.goto_eq]
@[simp] theorem Slot.goto_streams (a : BitVec 48) (sl : Slot) : (sl.goto a).streams = sl.streams := by rw [Slot.goto_eq]
@[simp] theorem Slot.goto_shadow (a : BitVec 48) (sl : Slot) : (sl.goto a).shadow = sl.shadow := by rw [Slot.goto_eq]
@[simp] theorem Slot.goto_mshadow (a : BitVec 48) (sl : Slot) : (sl.goto a).mshadow = sl.mshadow := by rw [Slot.goto_eq]
@[simp] theorem Slot.goto_auction (a : BitVec 48) (sl : Slot) : (sl.goto a).auction = sl.auction := by rw [Slot.goto_eq]
@[simp] theorem Slot.goto_waiting (a : BitVec 48) (sl : Slot) : (sl.goto a).waiting = sl.waiting := by rw [Slot.goto_eq]
@[simp] theorem Slot.goto_trackers (a : BitVec 48) (sl : Slot) : (sl.goto a).trackers = sl.trackers := by rw [Slot.goto_eq]
@[simp] theorem Slot.goto_stores (a : BitVec 48) (sl : Slot) : (sl.goto a).stores = sl.stores := by rw [Slot.goto_eq]
@[simp] theorem Slot.goto_sends (a : BitVec 48) (sl : Slot) : (sl.goto a).sends = sl.sends := by rw [Slot.goto_eq]
@[simp] theorem Slot.goto_fences (a : BitVec 48) (sl : Slot) : (sl.goto a).fences = sl.fences := by rw [Slot.goto_eq]
@[simp] theorem Slot.goto_cmds (a : BitVec 48) (sl : Slot) : (sl.goto a).cmds = sl.cmds := by rw [Slot.goto_eq]

@[simp] theorem Slot.goto_pc (a : BitVec 48) (sl : Slot) : (sl.goto a).pc = a := by unfold Slot.goto; split <;> rfl

theorem Slot.getX_setX (r q : Reg) (v : Word) (sl : Slot) : (sl.setX r v).getX q = if q = 0 then 0 else if q = r then v else sl.getX q := by
  unfold Slot.getX Slot.setX
  by_cases hq : q = 0
  · simp [hq]
  · by_cases hr : r = 0
    · subst hr; rw [if_pos rfl, if_neg hq, if_neg hq, if_neg hq]
    · simp only [hq, hr, if_false, look_put]
      by_cases h : q = r
      · simp [h]
      · rw [if_neg h, if_neg]
        intro e; exact h (BitVec.eq_of_toNat_eq e)

theorem Slot.getP_setP (r q : PReg) (v : Byte) (sl : Slot) : (sl.setP r v).getP q = if q = 0 then 0xFF else if q = r then v else sl.getP q := by
  unfold Slot.getP Slot.setP
  by_cases hq : q = 0
  · simp [hq]
  · by_cases hr : r = 0
    · subst hr; rw [if_pos rfl, if_neg hq, if_neg hq, if_neg hq]
    · simp only [hq, hr, if_false, look_put]
      by_cases h : q = r
      · simp [h]
      · rw [if_neg h, if_neg]
        intro e; exact h (BitVec.eq_of_toNat_eq e)

theorem Slot.getF_setF (r q : Reg) (v : QWord) (sl : Slot) : (sl.setF r v).getF q = if q = r then v else sl.getF q := by
  unfold Slot.getF Slot.setF
  simp only [look_put]
  by_cases h : q = r
  · simp [h]
  · rw [if_neg h, if_neg]
    intro e; exact h (BitVec.eq_of_toNat_eq e)

@[simp] theorem Slot.getX_zero (sl : Slot) : sl.getX 0 = 0 := rfl
@[simp] theorem Slot.getP_zero (sl : Slot) : sl.getP 0 = 0xFF := rfl

end Sys2Proof.Machine
end

