-- ==== Sys2Proof/Laws/Results.lean ====
section
/-! SUPPORT. What the shared operations of results and retirement do, one lemma each: a later proof cites these and unfolds none of them. -/

namespace Sys2Proof.Machine

/-! ## Slots and frames -/

theorem State.setSlot_eq (k : Nat) (v : Slot) (s : State) : s.setSlot k v = { s with slots := put k v s.slots } := rfl

theorem State.onlySlot_modSlot (k : Nat) (f : Slot → Slot) (s : State) : s.onlySlot k (s.modSlot k f) :=
  ⟨rfl, fun _ h => State.slot_modSlot_other h f s⟩

theorem State.onlySlot_modMe (f : Slot → Slot) (s : State) : s.onlySlot s.cur (s.modMe f) := State.onlySlot_modSlot ..

theorem State.onlySlot.trans {k : Nat} {s t u : State} (h : s.onlySlot k t) (h' : t.onlySlot k u) : s.onlySlot k u := by
  refine ⟨?_, fun j hj => (h'.2 j hj).trans (h.2 j hj)⟩
  rw [h'.1, h.1]

theorem State.onlySlot.cur {k : Nat} {s t : State} (h : s.onlySlot k t) : t.cur = s.cur := by rw [h.1]
theorem State.onlySlot.mem {k : Nat} {s t : State} (h : s.onlySlot k t) : t.mem = s.mem := by rw [h.1]
theorem State.onlySlot.byteAt {k : Nat} {s t : State} (h : s.onlySlot k t) (a : Nat) : t.byteAt a = s.byteAt a := by
  rw [State.byteAt, h.mem]; rfl

theorem Slot.keepsRest_rfl (a : Slot) : a.keepsRest a := rfl

/-! ## Results under way -/

theorem Slot.landOne_pend (w : PendWrite) (sl : Slot) : (sl.landOne w).pend = sl.pend := by
  unfold Slot.landOne; cases w.kind <;> simp

theorem Slot.landOne_congr (w : PendWrite) {a b : Slot} (hx : b.x = a.x) (hf : b.f = a.f) (hp : b.p = a.p) :
    (b.landOne w).x = (a.landOne w).x ∧ (b.landOne w).f = (a.landOne w).f ∧ (b.landOne w).p = (a.landOne w).p := by
  unfold Slot.landOne
  cases w.kind
  · simp only [Slot.setX_f, Slot.setX_p, hf, hp, and_true]
    unfold Slot.setX; split <;> simp [hx]
  · simp only [hx, hp, Slot.setF, Slot.getF, hf, and_self]
  · simp only [Slot.setP_f, Slot.setP_x, hf, hx, true_and]
    unfold Slot.setP; split <;> simp [hp]

theorem Slot.landAll_congr (l : List PendWrite) {a b : Slot} (hx : b.x = a.x) (hf : b.f = a.f) (hp : b.p = a.p) :
    (l.foldl (fun sl w => sl.landOne w) b).x = (l.foldl (fun sl w => sl.landOne w) a).x ∧
    (l.foldl (fun sl w => sl.landOne w) b).f = (l.foldl (fun sl w => sl.landOne w) a).f ∧
    (l.foldl (fun sl w => sl.landOne w) b).p = (l.foldl (fun sl w => sl.landOne w) a).p := by
  induction l generalizing a b with
  | nil => exact ⟨hx, hf, hp⟩
  | cons w l ih =>
    obtain ⟨h1, h2, h3⟩ := Slot.landOne_congr w hx hf hp
    exact ih h1 h2 h3

/-- A slot with the same registers and one more result under way. -/
theorem Slot.flush_append {a b : Slot} {w : PendWrite} (hx : b.x = a.x) (hf : b.f = a.f) (hp : b.p = a.p)
    (h : b.pend = a.pend ++ [w]) :
    b.flush.x = (a.flush.landOne w).x ∧ b.flush.f = (a.flush.landOne w).f ∧ b.flush.p = (a.flush.landOne w).p := by
  obtain ⟨h1, h2, h3⟩ := Slot.landAll_congr b.pend hx hf hp
  have e : b.flush.x = (b.pend.foldl (fun sl w => sl.landOne w) b).x ∧ b.flush.f = (b.pend.foldl (fun sl w => sl.landOne w) b).f ∧
      b.flush.p = (b.pend.foldl (fun sl w => sl.landOne w) b).p := ⟨rfl, rfl, rfl⟩
  rw [e.1, e.2.1, e.2.2, h1, h2, h3, h, List.foldl_append]
  exact Slot.landOne_congr w (a := a.flush) rfl rfl rfl

theorem Slot.xComes_of {a b : Slot} {rd : Reg} {v : Word} {land : Nat} {m : QWord} {pc : BitVec 48} (hx : b.x = a.x) (hf : b.f = a.f)
    (hp : b.p = a.p) (h : b.pend = a.pend ++ [⟨.x, rd.toNat, v.setWidth 128, m, land, pc⟩]) : a.xComes rd v land b := by
  refine ⟨hx, hf, hp, ⟨_, h, rfl⟩, fun q => ?_⟩
  obtain ⟨e, -, -⟩ := Slot.flush_append hx hf hp h
  have : b.xEnd q = (a.flush.landOne ⟨.x, rd.toNat, v.setWidth 128, m, land, pc⟩).getX q := by
    unfold Slot.xEnd Slot.getX; rw [e]
  rw [this]
  show (a.flush.setX (BitVec.ofNat 5 rd.toNat) ((v.setWidth 128).setWidth 64)).getX q = _
  rw [Slot.getX_setX, BitVec.ofNat_toNat, BitVec.setWidth_setWidth_of_le _ (by omega)]
  simp only [BitVec.setWidth_eq]
  rfl

theorem Slot.fComes_of {a b : Slot} {rd : Reg} {v m : QWord} {land : Nat} {pc : BitVec 48} (hx : b.x = a.x) (hf : b.f = a.f)
    (hp : b.p = a.p) (h : b.pend = a.pend ++ [⟨.f, rd.toNat, v, m, land, pc⟩]) : a.fComes rd v m land b := by
  refine ⟨hx, hf, hp, ⟨_, h, rfl⟩, fun q => ?_⟩
  obtain ⟨-, e, -⟩ := Slot.flush_append hx hf hp h
  have : b.fEnd q = (a.flush.landOne ⟨.f, rd.toNat, v, m, land, pc⟩).getF q := by
    unfold Slot.fEnd Slot.getF; rw [e]
  rw [this]
  show (a.flush.setF (BitVec.ofNat 5 rd.toNat) _).getF q = _
  rw [Slot.getF_setF, BitVec.ofNat_toNat, BitVec.setWidth_eq]
  by_cases hq : q = rd
  · subst hq; rw [if_pos rfl, if_pos rfl]; rfl
  · rw [if_neg hq, if_neg hq]; rfl

theorem Slot.pComes_of {a b : Slot} {rd : PReg} {v : Byte} {land : Nat} {m : QWord} {pc : BitVec 48} (hx : b.x = a.x) (hf : b.f = a.f)
    (hp : b.p = a.p) (h : b.pend = a.pend ++ [⟨.p, rd.toNat, v.setWidth 128, m, land, pc⟩]) : a.pComes rd v land b := by
  refine ⟨hx, hf, hp, ⟨_, h, rfl⟩, fun q => ?_⟩
  obtain ⟨-, -, e⟩ := Slot.flush_append hx hf hp h
  have : b.pEnd q = (a.flush.landOne ⟨.p, rd.toNat, v.setWidth 128, m, land, pc⟩).getP q := by
    unfold Slot.pEnd Slot.getP; rw [e]
  rw [this]
  show (a.flush.setP (BitVec.ofNat 3 rd.toNat) ((v.setWidth 128).setWidth 8)).getP q = _
  rw [Slot.getP_setP, BitVec.ofNat_toNat, BitVec.setWidth_setWidth_of_le _ (by omega)]
  simp only [BitVec.setWidth_eq]
  rfl

/-! ## Retirement -/

theorem Slot.seq_congr (n : Nat) {a b : Slot} (h1 : b.pc = a.pc) (h2 : b.lcount = a.lcount) (h3 : b.lstart = a.lstart) (h4 : b.lend = a.lend) :
    (b.seq n).pc = (a.seq n).pc ∧ (b.seq n).lcount = (a.seq n).lcount := by
  unfold Slot.seq; dsimp only; rw [h1, h2, h3, h4]
  split
  · exact ⟨rfl, rfl⟩
  · split
    · split <;> exact ⟨rfl, rfl⟩
    · split <;> exact ⟨rfl, rfl⟩

theorem Slot.goto_congr (a : BitVec 48) {b c : Slot} (h2 : b.lcount = c.lcount) (h3 : b.lstart = c.lstart) (h4 : b.lend = c.lend) :
    (b.goto a).lcount = (c.goto a).lcount := by
  unfold Slot.goto; rw [h2, h3, h4]; split <;> rfl

/-- What `retire` does after `f` has written registers of the slot in hand. -/
theorem State.retire_modMe (f : Slot → Slot) (len sc : Nat) (s : State) (hr : s.me.keepsRest (f s.me)) (h1 : (f s.me).pc = s.me.pc)
    (h2 : (f s.me).lcount = s.me.lcount) (h3 : (f s.me).retired = s.me.retired) :
    s.onlySlot s.cur ((s.modMe f).retire len sc) ∧ s.me.keepsRest ((s.modMe f).retire len sc).me ∧
    s.stepped len sc ((s.modMe f).retire len sc) ∧
    ((s.modMe f).retire len sc).me = ((f s.me).seq len).retired1 (s.cycle + 1 + sc) := by
  have e : ((s.modMe f).retire len sc).me = ((f s.me).seq len).retired1 (s.cycle + 1 + sc) := by
    simp only [State.retire, State.me_modMe, State.modMe_modMe, State.modMe_cycle]
  have h4 : (f s.me).lstart = s.me.lstart := by rw [show f s.me = _ from hr]
  have h5 : (f s.me).lend = s.me.lend := by rw [show f s.me = _ from hr]
  refine ⟨?_, ?_, ?_, e⟩
  · simp only [State.retire, State.modMe_modMe]; exact State.onlySlot_modMe ..
  · rw [e]; unfold Slot.keepsRest Slot.retired1
    rw [Slot.seq_eq]
    have := show f s.me = _ from hr
    rw [this]
  · obtain ⟨g1, g2⟩ := Slot.seq_congr len (a := s.me) (b := f s.me) h1 h2 h4 h5
    unfold State.stepped; rw [e]
    refine ⟨g1, g2, ?_, rfl⟩
    show ((f s.me).seq len).retired + 1 = _
    rw [Slot.seq_retired, h3]

theorem State.retire_stepsOnly (len sc : Nat) (s : State) : s.stepsOnly len sc (s.retire len sc) := by
  have e : s.retire len sc = (s.modMe id).retire len sc := by simp [State.retire]
  rw [e]
  obtain ⟨h1, h2, h3, h4⟩ := State.retire_modMe id len sc s (Slot.keepsRest_rfl _) rfl rfl rfl
  refine ⟨h1, h2, ?_, h3⟩
  rw [h4]; exact ⟨by simp, by simp, by simp, by simp⟩

theorem State.setX_setsX (rd : Reg) (v : Word) (len sc : Nat) (s : State) : s.setsX rd v len sc ((s.setX rd v).retire len sc) := by
  obtain ⟨h1, h2, h3, h4⟩ := State.retire_modMe (Slot.setX rd v) len sc s
    (by unfold Slot.keepsRest Slot.setX; split <;> rfl) (by simp) (by simp) (by simp)
  refine ⟨h1, h2, h3, ?_⟩
  show Slot.xIs _ _ _ (State.me ((s.modMe (Slot.setX rd v)).retire len sc))
  rw [h4]
  refine ⟨by simp, by simp, by simp, fun q => ?_⟩
  rw [← Slot.getX_setX]
  unfold Slot.getX; simp

theorem State.setP_setsP (rd : PReg) (v : Byte) (len sc : Nat) (s : State) : s.setsP rd v len sc ((s.setP rd v).retire len sc) := by
  obtain ⟨h1, h2, h3, h4⟩ := State.retire_modMe (Slot.setP rd v) len sc s
    (by unfold Slot.keepsRest Slot.setP; split <;> rfl) (by simp) (by simp) (by simp)
  refine ⟨h1, h2, h3, ?_⟩
  show Slot.pIs _ _ _ (State.me ((s.modMe (Slot.setP rd v)).retire len sc))
  rw [h4]
  refine ⟨by simp, by simp, by simp, fun q => ?_⟩
  rw [← Slot.getP_setP]
  unfold Slot.getP; simp

/-- A result of latency above 1 and the retirement after it. -/
theorem State.result_retire (k : RegKind) (r : Nat) (v m : QWord) (l len sc : Nat) (s : State) :
    s.onlySlot s.cur ((s.result k r v m l).retire len sc) ∧ s.me.keepsRest ((s.result k r v m l).retire len sc).me ∧
    s.stepped len sc ((s.result k r v m l).retire len sc) ∧
    ((s.result k r v m l).retire len sc).me.x = s.me.x ∧ ((s.result k r v m l).retire len sc).me.f = s.me.f ∧
    ((s.result k r v m l).retire len sc).me.p = s.me.p ∧
    ((s.result k r v m l).retire len sc).me.pend = s.me.pend ++ [⟨k, r, v, m, s.cycle + l, s.me.pc⟩] := by
  obtain ⟨h1, h2, h3, h4⟩ := State.retire_modMe (fun sl => { sl with pend := sl.pend ++ [⟨k, r, v, m, s.cycle + l, sl.pc⟩] })
    len sc s rfl rfl rfl rfl
  refine ⟨h1, h2, h3, ?_⟩
  have e : ((s.result k r v m l).retire len sc).me =
      (({ s.me with pend := s.me.pend ++ [⟨k, r, v, m, s.cycle + l, s.me.pc⟩] } : Slot).seq len).retired1 (s.cycle + 1 + sc) := h4
  rw [e, Slot.retired1_x, Slot.retired1_f, Slot.retired1_p, Slot.retired1_pend, Slot.seq_x, Slot.seq_f, Slot.seq_p, Slot.seq_pend]
  exact ⟨rfl, rfl, rfl, rfl⟩

theorem State.resultX_sendsX {l : Nat} (hl : 1 < l) (rd : Reg) (v : Word) (len sc : Nat) (s : State) :
    s.sendsX rd v l len sc ((s.resultX rd v l).retire len sc) := by
  unfold State.resultX; rw [if_neg (by omega)]
  obtain ⟨h1, h2, h3, hx, hf, hp, h⟩ := State.result_retire .x rd.toNat (v.setWidth 128) 0 l len sc s
  exact ⟨h1, h2, h3, Slot.xComes_of hx hf hp h⟩

/-! ## Transfers -/

theorem State.jump_modMe (f : Slot → Slot) (a : BitVec 48) (sc : Nat) (s : State) (hr : s.me.keepsRest (f s.me))
    (h2 : (f s.me).lcount = s.me.lcount) (h3 : (f s.me).retired = s.me.retired) :
    s.onlySlot s.cur ((s.modMe f).jump a sc) ∧ s.me.keepsRest ((s.modMe f).jump a sc).me ∧
    s.jumped a sc ((s.modMe f).jump a sc) ∧
    ((s.modMe f).jump a sc).me = ((f s.me).goto a).retired1 (s.cycle + 1 + sc) := by
  have e : ((s.modMe f).jump a sc).me = ((f s.me).goto a).retired1 (s.cycle + 1 + sc) := by
    simp only [State.jump, State.me_modMe, State.modMe_modMe, State.modMe_cycle]
  have h4 : (f s.me).lstart = s.me.lstart := by rw [show f s.me = _ from hr]
  have h5 : (f s.me).lend = s.me.lend := by rw [show f s.me = _ from hr]
  refine ⟨?_, ?_, ?_, e⟩
  · simp only [State.jump, State.modMe_modMe]; exact State.onlySlot_modMe ..
  · rw [e]; unfold Slot.keepsRest Slot.retired1
    rw [Slot.goto_eq]
    have := show f s.me = _ from hr
    rw [this]
  · have g2 := Slot.goto_congr a (c := s.me) (b := f s.me) h2 h4 h5
    unfold State.jumped; rw [e]
    refine ⟨?_, g2, ?_, rfl⟩
    · show ((f s.me).goto a).pc = a
      simp
    · show ((f s.me).goto a).retired + 1 = _
      rw [Slot.goto_retired, h3]

/-- A jump with a link in x[rd]. -/
theorem State.setX_jump (rd : Reg) (v : Word) (a : BitVec 48) (sc : Nat) (s : State) :
    s.onlySlot s.cur ((s.setX rd v).jump a sc) ∧ s.me.keepsRest ((s.setX rd v).jump a sc).me ∧ s.jumped a sc ((s.setX rd v).jump a sc) ∧
    s.me.xIs rd v ((s.setX rd v).jump a sc).me := by
  obtain ⟨h1, h2, h3, h4⟩ := State.jump_modMe (Slot.setX rd v) a sc s
    (by unfold Slot.keepsRest Slot.setX; split <;> rfl) (by simp) (by simp)
  refine ⟨h1, h2, h3, ?_⟩
  show Slot.xIs _ _ _ (State.me ((s.modMe (Slot.setX rd v)).jump a sc))
  rw [h4]
  refine ⟨by simp, by simp, by simp, fun q => ?_⟩
  rw [← Slot.getX_setX]
  unfold Slot.getX; simp

theorem State.jump_spec (a : BitVec 48) (sc : Nat) (s : State) :
    s.onlySlot s.cur (s.jump a sc) ∧ s.me.keepsRest (s.jump a sc).me ∧ s.me.keepsRegs (s.jump a sc).me ∧ s.jumped a sc (s.jump a sc) := by
  have e : s.jump a sc = (s.modMe id).jump a sc := by simp [State.jump]
  rw [e]
  obtain ⟨h1, h2, h3, h4⟩ := State.jump_modMe id a sc s (Slot.keepsRest_rfl _) rfl rfl
  refine ⟨h1, h2, ?_, h3⟩
  rw [h4]; exact ⟨by simp, by simp, by simp, by simp⟩

theorem State.branch_branches {n : Nat} (len : Nat) (taken : Bool) (o : BitVec n) (s : State) :
    s.branches (taken = true) (s.target o) len (s.branch len taken o) := by
  unfold State.branch
  cases taken
  · obtain ⟨h1, h2, h3, h4⟩ := State.retire_stepsOnly len 0 s
    exact ⟨h1, h2, h3, fun h => by simp at h, fun _ => h4⟩
  · obtain ⟨h1, h2, h3, h4⟩ := State.jump_spec (s.target o) 0 s
    exact ⟨h1, h2, h3, fun _ => h4, fun h => absurd rfl h⟩

/-! ## Parking -/

theorem State.parkMe_spec (p : Park) (sc : Nat) (s : State) :
    s.onlySlot s.cur (s.parkMe p sc) ∧ s.me.parksAs p (s.cycle + 1 + sc) (s.parkMe p sc).me :=
  ⟨State.onlySlot_modMe .., State.me_modMe ..⟩

theorem State.onlySlot_post {k : Nat} {s t : State} (h : s.onlySlot k t) (i : Sys2Proof.Instr) (a : Arg) : s.onlySlotPosts k (t.post i a) := by
  refine ⟨?_, h.2⟩
  unfold State.post; rw [h.1]

end Sys2Proof.Machine
end

