-- ==== Sys2Proof/Laws/Traps.lean ====
section
/-! SUPPORT. What taking a trap does, said once. -/

namespace Sys2Proof.Machine

/-- `t` is `s` but for messages and records on their way, watched lines, steps that stand out and the halt. -/
def State.tells (s t : State) : Prop :=
  t = { s with net := t.net, netOut := t.netOut, work := t.work, records := t.records, serial := t.serial, monitors := t.monitors,
               halted := t.halted }

theorem State.tells_rfl (s : State) : s.tells s := rfl

theorem State.tells.trans {s t u : State} (h : s.tells t) (h' : t.tells u) : s.tells u := by
  unfold State.tells at *; rw [h', h]

theorem State.tells.slots {s t : State} (h : s.tells t) : t.slots = s.slots := by rw [h]
theorem State.tells.slot {s t : State} (h : s.tells t) (k : Nat) : t.slot k = s.slot k := by rw [State.slot, h.slots]; rfl

theorem State.tells_post (s : State) (i : Sys2Proof.Instr) (a : Arg) : s.tells (s.post i a) := rfl
theorem State.tells_record (s : State) (c n : Nat) (v w : Word) : s.tells (s.record c n v w) := rfl

theorem State.tells_sendPacket (a b : Nat) (y : Body) (s : State) : s.tells (s.sendPacket a b y) := by
  unfold State.sendPacket State.number; dsimp only; split <;> rfl

theorem State.tellHandler_tells (c part chan : Nat) (a0 a1 a2 a3 : Word) (s : State) : s.tells (s.tellHandler c part chan a0 a1 a2 a3) := by
  unfold State.tellHandler; dsimp only; split
  · exact State.tells_record ..
  · exact State.tells_sendPacket ..

theorem State.watchLine_tells (key : Nat) (f : Monitor → Monitor) (s : State) : s.tells (s.watchLine key f) := by
  unfold State.watchLine; dsimp only
  split
  · rfl
  · split <;> rfl

theorem State.tellHandler_halted (c part chan : Nat) (a0 a1 a2 a3 : Word) (s : State) : (s.tellHandler c part chan a0 a1 a2 a3).halted = s.halted := by
  unfold State.tellHandler; dsimp only; split
  · rfl
  · unfold State.sendPacket State.number; dsimp only; split <;> rfl

theorem State.watchLine_halted (key : Nat) (f : Monitor → Monitor) (s : State) : (s.watchLine key f).halted = s.halted := by
  unfold State.watchLine; dsimp only
  split
  · rfl
  · split <;> rfl

theorem State.onlyTells_of {k : Nat} {s u t : State} (h : s.onlySlot k u) (h' : u.tells t) : s.onlyTells k t := by
  refine ⟨?_, fun j hj => (h'.slot j).trans (h.2 j hj)⟩
  unfold State.tells at h'
  rw [h', h.1]

/-- Taking a trap, but a POISON trap of a partition whose poison ends the activation (R377). -/
theorem State.trapAt_trapped (k cause : Nat) (addr : Word) (pc : BitVec 48) (entry : Option Nat) (s : State)
    (hc : cause = cPOISON → isSup (coreOf k) = false → s.chip.paction.getLsbD (s.corePart (coreOf k)) = false) :
    s.trapped k cause addr pc entry (s.trapAt k cause addr pc entry) := by
  unfold State.trapAt
  dsimp only
  generalize hs1 : (s.modSlot k fun sl => { sl.flush with tcause := BitVec.ofNat 8 cause, taddr := addr, tpc := pc, tsc := 0, waited := false, ready := s.cycle + 1 }) = s1
  have e1 : s1.slot k = { (s.slot k).flush with tcause := BitVec.ofNat 8 cause, taddr := addr, tpc := pc, tsc := 0, waited := false, ready := s.cycle + 1 } := by
    rw [← hs1]; exact State.slot_modSlot_same ..
  have h1 : s.onlySlot k s1 := by rw [← hs1]; exact State.onlySlot_modSlot ..
  have hh : s1.halted = s.halted := by rw [h1.1]
  have flushPc : ∀ sl : Slot, sl.flush.pc = sl.pc ∧ sl.flush.lcount = sl.lcount ∧ sl.flush.retired = sl.retired ∧ sl.flush.intrap = sl.intrap ∧
      sl.flush.vec = sl.vec ∧ sl.flush.pend = [] := by
    intro sl
    have : ∀ (l : List PendWrite) (b : Slot), let r := l.foldl (fun sl w => sl.landOne w) b
        r.pc = b.pc ∧ r.lcount = b.lcount ∧ r.retired = b.retired ∧ r.intrap = b.intrap ∧ r.vec = b.vec := by
      intro l
      induction l with
      | nil => intro b; exact ⟨rfl, rfl, rfl, rfl, rfl⟩
      | cons w l ih =>
        intro b
        obtain ⟨g1, g2, g3, g4, g5⟩ := ih (b.landOne w)
        have : (b.landOne w).pc = b.pc ∧ (b.landOne w).lcount = b.lcount ∧ (b.landOne w).retired = b.retired ∧
            (b.landOne w).intrap = b.intrap ∧ (b.landOne w).vec = b.vec := by
          unfold Slot.landOne; cases w.kind <;> simp
        obtain ⟨f1, f2, f3, f4, f5⟩ := this
        exact ⟨g1.trans f1, g2.trans f2, g3.trans f3, g4.trans f4, g5.trans f5⟩
    obtain ⟨g1, g2, g3, g4, g5⟩ := this sl.pend sl
    exact ⟨g1, g2, g3, g4, g5, rfl⟩
  obtain ⟨f1, f2, f3, f4, f5, f6⟩ := flushPc (s.slot k)
  have regs : ∀ b : Slot, b.tcause = (s1.slot k).tcause → b.taddr = (s1.slot k).taddr → b.tpc = (s1.slot k).tpc → b.x = (s1.slot k).x →
      b.f = (s1.slot k).f → b.p = (s1.slot k).p → b.pend = (s1.slot k).pend → b.lcount = (s1.slot k).lcount → b.retired = (s1.slot k).retired →
      (s.slot k).trapRegs cause addr pc b := by
    intro b g1 g2 g3 g4 g5 g6 g7 g8 g9
    rw [e1] at g1 g2 g3 g4 g5 g6 g7 g8 g9
    exact ⟨g1, g2, g3, g4, g5, g6, g7, g8.trans f2, g9.trans f3⟩
  by_cases hsup : isSup (coreOf k) = true
  · rw [if_pos hsup]
    by_cases hf : (s1.slot k).intrap = true ∨ (s1.slot k).vec = 0
    · rw [if_pos hf]
      refine ⟨State.onlyTells_of h1 rfl, regs (s1.slot k) rfl rfl rfl rfl rfl rfl rfl rfl rfl, fun h => ?_, fun _ h3 h4 => ?_, fun _ _ => rfl⟩
      · rw [hsup] at h; cases h
      · rw [e1] at hf
        rcases hf with hf | hf
        · rw [show _ = _ from hf] at f4; rw [← f4] at h3; cases h3
        · exact absurd (f5.symm.trans hf) h4
    · rw [if_neg hf]
      have e2 := State.slot_modSlot_same k (fun sl => { sl with intrap := true, pc := evenPc sl.vec, park := .run }) s1
      refine ⟨State.onlyTells_of (h1.trans (State.onlySlot_modSlot ..)) (State.tells_rfl _), ?_, fun h => ?_, fun _ h3 h4 => ?_, fun _ h => ?_⟩
      · rw [e2]; exact regs _ rfl rfl rfl rfl rfl rfl rfl rfl rfl
      · rw [hsup] at h; cases h
      · rw [e2, e1]; exact ⟨rfl, congrArg evenPc f5, rfl, hh⟩
      · exfalso; apply hf; rw [e1]
        exact h.imp (fun h => f4.trans h) (fun h => f5.trans h)
  · rw [if_neg hsup]
    generalize hs2 : s1.tellHandler (coreOf k) (s1.corePart (coreOf k)) 0 (w64 cause) addr (pc.setWidth 64) (w64 (slotSpec k)) = s2
    have h2 : s1.tells s2 := by rw [← hs2]; exact State.tellHandler_tells ..
    have g2 : s2.halted = s1.halted := by rw [← hs2]; exact State.tellHandler_halted ..
    have hp2 : ¬ (cause = cPOISON ∧ s2.chip.paction.getLsbD (s1.corePart (coreOf k)) = true) := by
      intro h
      have e1 : s2.chip = s.chip := by rw [h2, h1.1]
      have e2 : s1.corePart (coreOf k) = s.corePart (coreOf k) := by unfold State.corePart State.partOf; rw [h1.1]
      rw [e1, e2, hc h.1 (by simpa using hsup)] at h
      exact absurd h.2 (by simp)
    rw [if_neg hp2]
    generalize hs3 : (s2.modSlot k fun sl => { sl with park := .trap entry }) = s3
    have e3 : s3.slot k = { s1.slot k with park := .trap entry } := by
      rw [← hs3, State.slot_modSlot_same, h2.slot]
    have h3 : s2.onlySlot k s3 := by rw [← hs3]; exact State.onlySlot_modSlot ..
    have g3 : s3.halted = s.halted := by rw [h3.1]; exact g2.trans hh
    have h13 : s.onlyTells k s3 := by
      refine ⟨?_, fun j hj => (h3.2 j hj).trans ((h2.slot j).trans (h1.2 j hj))⟩
      rw [h3.1, h2, h1.1]
    have fin : ∀ t : State, s3.tells t → t.halted = s3.halted → s.trapped k cause addr pc entry t := by
      intro t ht htt
      refine ⟨?_, ?_, fun _ => ?_, fun h => absurd h hsup, fun h => absurd h hsup⟩
      · refine ⟨?_, fun j hj => (ht.slot j).trans (h13.2 j hj)⟩
        unfold State.tells at ht; rw [ht, h13.1]
      · rw [ht.slot, e3]; exact regs _ rfl rfl rfl rfl rfl rfl rfl rfl rfl
      · rw [ht.slot, e3, e1]; exact ⟨rfl, f1, htt.trans g3⟩
    cases entry with
    | none => exact fin s3 (State.tells_rfl _) rfl
    | some e => exact fin _ (State.watchLine_tells ..) (State.watchLine_halted ..)

theorem State.trap_trapsWith (cause : Nat) (addr : Word) (s : State) (hc : cause ≠ cPOISON) : s.trapsWith cause addr (s.trap cause addr) :=
  State.trapAt_trapped _ _ _ _ _ _ (fun h => absurd h hc)

end Sys2Proof.Machine
end

