-- ==== Sys2Proof/Tests/Slice0.lean ====
section
/-! SUPPORT. The model's own tests: ill-formed instructions, words from the encoding tables, results worked out from the rules, and for every statement with hypotheses a state that meets them. -/

set_option maxRecDepth 100000
set_option Elab.async false

namespace Sys2Proof.Tests

open Sys2Proof Sys2Proof.Machine

/-- A chip whose key slot 0 is loaded, as the boot sequence leaves it. -/
def booted : Chip := { Chip.reset with keys := [(0, ⟨true, 1, 0⟩)] }

/-- A partition, number 1, over the whole chip. -/
def part1 : Part := { Part.reset with partno := 1, known := true, colhi := 15, rowhi := 15, key := 5 }

/-- A powered cluster whose whole SRAM the partition may read and write. -/
def clus : Cluster := { Cluster.reset with pstate := 1, prot := [(0, ⟨0, 0x100000, 1, true, true, true, 0⟩)] }

/-- Slot 0 of core 0 holds an activation with registers `x`. -/
def slot0 (x : SMap Word) : Slot := { Slot.reset with active := true, pc := 0x10000, x := x }

/-- Core 0 of a running partition, slot 0 in hand. -/
def one (x : SMap Word) : State := { State.reset with slots := [(0, slot0 x)], clusters := [(0, clus)], parts := [(1, part1)], chip := booted }

/-- The same for slot 0 of supervisor core 0. -/
def sup (x : SMap Word) : State := { State.reset with cur := 16384, slots := [(16384, slot0 x)], clusters := [(0, clus)], parts := [(1, part1)], chip := booted }

/-- The own cluster's scratchpad address of an offset. -/
def own (off : Nat) : Word := BitVec.ofNat 64 (0x80000000FF000000 + off)

/-- What an outcome's next state gives. -/
def of {α : Type} (d : α) (f : State → α) : Host.Outcome State Fault Refusal → α
  | .next t => f t
  | _ => d

/-- x[r] of the slot in hand once every result under way has landed. -/
def xOf (r : Reg) (o : Host.Outcome State Fault Refusal) : Word := of 0xDEAD (fun t => t.me.xEnd r) o
def giveOf (r : Reg) (o : Host.Outcome State Fault Refusal) : Word := of 0xDEAD (fun t => match t.me.park with
  | .give q v _ => if q = r.toNat then v else 0xDEAD
  | _ => 0xDEAD) o
def fOf (r : Reg) (o : Host.Outcome State Fault Refusal) : QWord := of 0xDEAD (fun t => t.me.fEnd r) o
def causeOf (o : Host.Outcome State Fault Refusal) : Nat := of 0 (fun t => t.me.tcause.toNat) o

/-! ## Well-formedness: a term each check refuses, and a neighbour it takes -/

/-- R95: a loop body of no halfword. -/
theorem test_wf_loop : (Instr.loop 5 0 0).wf = false ∧ (Instr.loop 5 1 0).wf = true := by decide

/-- R66: scope code 3 of the barrier instructions. -/
theorem test_wf_scope : ([.wfa 1 2 3 3 0, .wfp 1 2 3 3 0, .arr 1 2 3 3 0, .arrx 1 2 3 3 0] : List Instr).all (fun i => !i.wf) = true ∧
    (Instr.arr 1 2 3 2 0).wf = true := by decide

/-- R68, R99: format code 3 of a two-bit format field. -/
theorem test_wf_format : ([.fadd 1 2 3 3 0, .fsub 1 2 3 3 0, .fmul 1 2 3 3 0, .fmin 1 2 3 3 0, .fmax 1 2 3 3 0, .fabs 1 2 3 0, .fneg 1 2 3 0,
    .fsel 1 2 3 3 0, .fmv 1 2 3 0, .fdiv 1 2 3 3 0, .fsqrt 1 2 3 0, .fma 1 2 3 4 3 0, .fnma 1 2 3 4 3 0, .frcp 1 2 3 0, .frsq 1 2 3 0, .fexp2 1 2 3 0,
    .flog2 1 2 3 0, .fsum 1 2 3 0, .fmaxr 1 2 3 0, .fcmp 1 0 2 3 3 0, .sscfg 1 2 3 3 0, .fshuf 1 2 3 3 0, .mma 1 2 3 0] : List Instr).all (fun i => !i.wf) = true ∧
    (Instr.fadd 1 2 3 2 0).wf = true := by decide

/-- R228, R230: fcvt takes no INT4, no FP4, no code past 9, and no rounding code past 5. -/
theorem test_wf_fcvt : ([.fcvt 7 8 6 0 1 0, .fcvt 7 8 0 0 7 0, .fcvt 7 8 10 0 1 0, .fcvt 7 8 0 6 1 0] : List Instr).all (fun i => !i.wf) = true ∧
    (Instr.fcvt 7 8 9 5 1 0).wf = true := by decide

/-- R213: fpack and funpack are of the 16-bit formats; R255: mmaq of codes 0 and 1. -/
theorem test_wf_pack : ([.fpack 1 2 3 0 0, .fpack 1 2 3 3 0, .funpack 1 2 3 0 0, .mmaq 1 2 3 2 0] : List Instr).all (fun i => !i.wf) = true ∧
    (Instr.fpack 1 2 3 2 0).wf = true ∧ (Instr.mmaq 1 2 3 1 0).wf = true := by decide

/-- R64: the halfword 0x0000 is no c.mv x0, x0. -/
theorem test_wf_zero_halfword : (Instr.cMv 0 0).wf = false ∧ (Instr.cMv 0 1).wf = true := by decide

/-! ## Words: every family once more, written out from the encoding tables (R61 to R65) -/

theorem test_words_scalar : ([(0x0A166303, .sll 6 6 11 0), (0x80000003 ||| 0x2A000000 ||| 5 * 128, .lea 5 0 0 2 0), (0x0F00A487, .andi 9 10 0xF0 0), (0x02000297, .ctz 5 0 0)] :
    List (Nat × Instr)).all (fun e => decide (decodeTableWord 32 e.1 = some e.2)) = true := by decide

theorem test_words_memory : ([(0x00C063B5, .st 7 6 0 3 0), (0x040053B9, .stfill 7 5 0), (0x4400003F, .rel 1 0), (0x92CC543D, .amoCas 8 5 6 1 1 0 2)] :
    List (Nat × Instr)).all (fun e => decide (decodeTableWord 32 e.1 = some e.2)) = true := by decide

theorem test_words_groups_and_invocation : ([(0x08123043, .gleave 0x123 0), (0x080CB045, .invp 11 6 0), (0x12006045, .replyDatum 6 0)] :
    List (Nat × Instr)).all (fun e => decide (decodeTableWord 32 e.1 = some e.2)) = true := by decide

theorem test_words_vector : ([(0x000204C9, .fadd 9 0 1 0 0), (0x2140434D, .fsum 6 4 0 5), (0x100023D1, .ssdis 7 2 0)] :
    List (Nat × Instr)).all (fun e => decide (decodeTableWord 32 e.1 = some e.2)) = true := by decide

theorem test_words_units : ([(0x00005053, .mring 0 5 0), (0x020C5253, .mringScale 4 5 6 0), (0x18000053, .mzero 0), (0x28005053, .mepi 5 0), (0x400063D3, .mstat 7 6 0),
    (0x0A00C055, .merCapAll 12 0), (0x1020F055, .merCfg 15 16 0), (0x080024D7, .lqStat 9 2 0), (0x120C5057, .evSigSet 5 6 0), (0x1A0683D7, .cqPopAct 7 8 3 0),
    (0x00000859, .rfence 16 0), (0x0000A4DB, .svResume 9 10 0)] : List (Nat × Instr)).all (fun e => decide (decodeTableWord 32 e.1 = some e.2)) = true := by decide

/-- The encoder writes the same words. -/
theorem test_encode : encodeWord (.lea 6 7 8 3 0) = some 0xEA107303 ∧ encodeWord (.tlbinv 9 10 11 0) = some 0x3016A4DB ∧ encodeWord (.cSd 7 6 1) = some 0x98F4 := by decide

/-! ## Scalar and control results (R81 to R98) -/

/-- R81: the sum wraps; the product's high halves differ by the signs of -1. -/
theorem test_add_wraps : xOf 5 (exec (.add 5 6 7 0) (one [(6, 0xFFFFFFFFFFFFFFFF), (7, 2)])) = 1 := by decide
theorem test_mulh_signs : xOf 5 (exec (.mulh 5 6 7 0) (one [(6, 0xFFFFFFFFFFFFFFFF), (7, 2)])) = 0xFFFFFFFFFFFFFFFF ∧
    xOf 5 (exec (.mulhn 5 6 7 0) (one [(6, 0xFFFFFFFFFFFFFFFF), (7, 2)])) = 1 := by decide
/-- R81: shifts take the low six bits of the amount. -/
theorem test_sll_amount : xOf 5 (exec (.sll 5 6 7 0) (one [(6, 3), (7, 65)])) = 6 ∧ xOf 5 (exec (.sra 5 6 7 0) (one [(6, 0x8000000000000000), (7, 63)])) = 0xFFFFFFFFFFFFFFFF := by decide
/-- R81: lea's scale; sel takes rb where rd is 0. -/
theorem test_lea_sel : xOf 5 (exec (.lea 5 6 7 3 0) (one [(6, 0x1000), (7, 5)])) = 0x1028 ∧ xOf 5 (exec (.sel 5 6 7 0) (one [(5, 0), (6, 11), (7, 22)])) = 22 ∧
    xOf 5 (exec (.sel 5 6 7 0) (one [(5, 9), (6, 11), (7, 22)])) = 11 := by decide
/-- R5: x0 stays 0. -/
theorem test_x0 : xOf 0 (exec (.addi 0 6 1 0) (one [(6, 5)])) = 0 := by decide
/-- R85: lui's place; R86: adpc counts halfwords from its own address. -/
theorem test_lui_adpc : xOf 5 (exec (.lui 5 0x80000) (one [])) = 0xFFFFFFFF80000000 ∧ xOf 5 (exec (.adpc 5 0xFFFFF) (one [])) = 0xFFFE := by decide
/-- R88: a field past bit 63 is cut; a field of width 0 is 0. -/
theorem test_bexs_cut : xOf 5 (exec (.bexs 5 6 60 8 0) (one [(6, 0xF000000000000000)])) = 0xFFFFFFFFFFFFFFFF ∧ xOf 5 (exec (.bexn 5 6 3 0 0) (one [(6, 0xFF)])) = 0 := by decide
/-- R87: counts of 0 are 64. -/
theorem test_clz_zero : xOf 5 (exec (.clz 5 6 0) (one [])) = 64 ∧ xOf 5 (exec (.ctz 5 6 0) (one [(6, 0x10)])) = 4 := by decide
/-- R82: the corners, in the park. -/
theorem test_div_corner : of false (fun t => decide (t.me.park = .divide 5 0x8000000000000000 33 2)) (exec (.div 5 6 7 2) (one [(6, 0x8000000000000000), (7, 0xFFFFFFFFFFFFFFFF)])) = true ∧
    of false (fun t => decide (t.me.park = .divide 5 0xFFFFFFFFFFFFFFFE 33 0)) (exec (.rem 5 6 7 0) (one [(6, 0xFFFFFFFFFFFFFFFE), (7, 0)])) = true := by decide
/-- R90: a branch counts halfwords from its own address; R92: jal links. -/
theorem test_branch : of 0 (fun t => t.me.pc) (exec (.blt 5 6 0xFFC) (one [(5, 0xFFFFFFFFFFFFFFFF)])) = 0xFFF8 ∧ xOf 1 (exec (.jal 1 4) (one [])) = 0x10004 := by decide
/-- R93: rd may equal ra; an odd target traps. -/
theorem test_jalr : of 0 (fun t => t.me.pc) (exec (.jalr 1 1 4 0) (one [(1, 0x2000)])) = 0x2004 ∧ causeOf (exec (.jalr 1 1 1 0) (one [(1, 0x2000)])) = cMISALIGN := by decide
/-- R95: a count of 0 skips the body. -/
theorem test_loop_skips : of 0 (fun t => t.me.pc) (exec (.loop 9 4 0) (one [])) = 0x1000C ∧ of 0 (fun t => t.me.pc) (exec (.loop 9 4 0) (one [(9, 2)])) = 0x10004 := by decide

/-- Premises of DivisionParksThenWrites: a division parked, before and after its last cycle. -/
theorem witness_DivisionParksThenWrites : let s (n : Nat) : State := { one [] with slots := [(0, { slot0 [] with park := .divide 5 7 33 0 })], cycle := n }
    ((s 33).slot 0).park = .divide (5 : Reg).toNat 7 33 0 ∧ (s 33).cycle ≤ 33 ∧ 33 < (s 34).cycle ∧
    of 0 (fun t => (t.slot 0).getX 5) (exec .divideResult (s 34)) = 7 ∧ of 0 (fun t => (t.slot 0).ready) (exec .divideResult (s 34)) = 34 := by decide

/-- Premises of BranchesAndJumps: an odd target, one above 48 bits at its lowest, and one below it at its highest. -/
theorem witness_BranchesAndJumps : (((one [(1, 0x2001)]).x 1).toNat % 2 = 1) ∧ (((one [(1, 0x1000000000000)]).x 1).toNat % 2 = 0 ∧ 2 ^ 48 ≤ ((one [(1, 0x1000000000000)]).x 1).toNat) ∧
    ((one [(1, 0xFFFFFFFFFFFE)]).x 1).toNat % 2 = 0 ∧ ((one [(1, 0xFFFFFFFFFFFE)]).x 1).toNat < 2 ^ 48 := by decide

/-- A slot in a loop of 16 bytes at 0x10000 with a count. -/
def looping (pc : BitVec 48) (n : Word) : Slot := { slot0 [] with pc := pc, lstart := 0x10000, lend := 0x10010, lcount := n }

/-- Premises of LoopOpensAndCloses, clause by clause: loop open or not; the end met with a count of 2 and of 1; straddled; inside; a transfer inside and past the end. -/
theorem witness_LoopOpensAndCloses : (looping 0x10000 1).lcount ≠ 0 ∧ (slot0 []).lcount = 0 ∧
    ((looping 0x1000C 2).pc + 4 = (looping 0x1000C 2).lend ∧ ((looping 0x1000C 2).seq 4).pc = 0x10000 ∧ ((looping 0x1000C 2).seq 4).lcount = 1) ∧
    ((looping 0x1000C 1).pc + 4 = (looping 0x1000C 1).lend ∧ ((looping 0x1000C 1).seq 4).lcount = 0 ∧ ((looping 0x1000C 1).seq 4).pc = 0x10010) ∧
    ((looping 0x1000E 2).pc.toNat < 0x10010 ∧ 0x10010 < 0x1000E + 4 ∧ ((looping 0x1000E 2).seq 4).lcount = 0) ∧ ((looping 0x10008 2).seq 4).lcount = 2 ∧
    ((looping 0x10008 2).goto 0x1000F).lcount = 2 ∧ ((looping 0x10008 2).goto 0x10010).lcount = 0 := by decide

/-- Premises of SysAndBrkRetireThenTrap: a compute core, a supervisor core with a vector, and one in its trap. -/
theorem witness_SysAndBrkRetireThenTrap : let v : State := { sup [] with slots := [(16384, { slot0 [] with vec := 0x400 })] }
    let r : State := { sup [] with slots := [(16384, { slot0 [] with vec := 0x400, intrap := true, tcause := BitVec.ofNat 8 cSYS, tpc := 0x80 })] }
    isSup (one []).myCore = false ∧ (isSup v.myCore = true ∧ v.me.intrap = false ∧ v.me.vec ≠ 0) ∧ (isSup r.myCore = true ∧ r.me.intrap = true) ∧
    of 0 (fun t => t.me.pc) (exec (.sys 5 0) v) = 0x400 ∧ of none (fun t => t.halted) (exec (.sys 5 0) r) = some 1 ∧ of 0 (fun t => t.me.pc) (exec (.tret 0) r) = 0x84 ∧
    slotOf 0 = some 0 ∧ (let u : State := { one [] with slots := [(0, { slot0 [] with park := .trap none, tsc := 3 })] }; (u.slot 0).park.isTrap = true ∧ ((u.resumeSlot 0 none).2.slot 0).ready = 4) := by decide

/-- Premise of DecodeAndFetchTrapsArePrecise: any cause but POISON. -/
theorem witness_DecodeAndFetchTrapsArePrecise : (one []).arg.a ≠ cPOISON ∧ causeOf (exec .illegalInstruction (one [])) = cILLEGAL := by decide

/-- Premises of ControlRegisters: a register that reads, one that is only read, and one that is none. -/
theorem witness_ControlRegisters : let s := one [(9, 7)]
    (0x015, (0 : Word)) ∈ s.ctlMap ∧ (∀ e ∈ s.ctlMap, e.1 ≠ 0x024) ∧ (0x015, (7 : Word)) ∈ ctlMasks (isSup s.myCore) ∧ s.ctlRead 0x015 = some 0 ∧
    (s.ctlRead 0x042 = some 0 ∧ ∀ e ∈ ctlMasks (isSup s.myCore), e.1 ≠ 0x042) ∧ s.ctlRead 0x070 = none ∧ isSup (sup []).myCore = true ∧
    of none (fun t => t.ctlRead 0x015) (exec (.ctlwr 0 9 0x015) s) = some 7 ∧ causeOf (exec (.ctlwr 0 9 0x042) s) = cPROTECTION ∧ causeOf (exec (.ctlrd 5 0x070) s) = cILLEGAL := by decide

/-- Premises of DoneEndsTheActivation: an activation of its own, and an inline child. -/
theorem witness_DoneEndsTheActivation : let c : State := { one [] with slots := [(0, { slot0 [(10, 9)] with inl := some ⟨1, 2, 3, 4, 0, 0, 0, 0x500⟩ })] }
    ((one []).me.inl = none ∧ (one []).me.act.expansion = none) ∧ c.me.inl = some ⟨1, 2, 3, 4, 0, 0, 0, 0x500⟩ ∧
    of true (fun t => t.me.active) (exec (.done 0) (one [])) = false ∧ xOf 10 (exec .cDone c) = 1 ∧ of 0 (fun t => t.me.pc) (exec .cDone c) = 0x504 := by decide
/-- Premises of DoneEndsTheActivation, the rest: a parent's open loop that comes round, ends and is left; an expansion's activation. -/
theorem witness_DoneEndsTheActivation_loops : let c (n : Word) (e : BitVec 48) : State := { one [] with slots := [(0, { slot0 [] with inl := some ⟨1, 2, 3, 4, 0x400, e, n, 0x500⟩ })] }
    let x : State := { one [] with slots := [(0, { slot0 [] with act := { (slot0 []).act with expansion := some (7, 2) } })] }; let w : State := { x with slots := [(0, { x.slot 0 with stores := [⟨.sram 0 0x40, .zeroLine⟩] })] }
    of (0, 0) (fun t => (t.me.pc.toNat, t.me.lcount.toNat)) (exec .cDone (c 3 0x504)) = (0x400, 2) ∧ of (0, 9) (fun t => (t.me.pc.toNat, t.me.lcount.toNat)) (exec .cDone (c 1 0x504)) = (0x504, 0) ∧
    of (0, 9) (fun t => (t.me.pc.toNat, t.me.lcount.toNat)) (exec .cDone (c 3 0x502)) = (0x504, 0) ∧ (x.released 0 .ch = true ∧ of [] (fun t => t.net.map Packet.body) (exec (.done 0) x) = [.endNotice (7, 2) 0]) ∧
    w.released 0 .ch = false ∧ of false (fun t => decide (t.me.park = .again (.release .ch))) (exec (.done 0) w) = true := by decide
/-! ## Loads, stores, atomics, words that slots share -/

/-- `one` with bytes at an offset of cluster 0's SRAM. -/
def withSram (off : Nat) (l : List Byte) (s : State) : State := s.setBytes (sramKey 0 off) l

/-- R178: a signed halfword; its zero-extended sibling. -/
theorem test_ld_extends : xOf 5 (exec (.ld 5 6 1 1 0) (withSram 0x42 [0xFE, 0xFF] (one [(6, own 0x40)]))) = 0xFFFFFFFFFFFFFFFE ∧
    xOf 5 (exec (.ldn 5 6 1 1 0) (withSram 0x42 [0xFE, 0xFF] (one [(6, own 0x40)]))) = 0xFFFE := by decide
/-- R178: a store waits at the slot, little-endian; R147: alignment comes first. -/
theorem test_st_waits : of [] (fun t => t.me.stores) (exec (.st 7 6 1 0 0) (one [(6, own 0x40), (7, 0x12345)])) = [⟨.sram 0 0x40, .bytes [0x45, 0x23]⟩] ∧
    causeOf (exec (.st 7 6 1 0 0) (one [(6, 0x41)])) = cMISALIGN := by decide

/-- Premises of AccessesAreChecked: the last 8 bytes of the SRAM pass, a byte further does not, nor cluster 255 for a supervisor core. -/
theorem witness_AccessesAreChecked_scratchpad : let s := one []
    (2 ^ 63 ≤ (own 0xFFFF8).toNat ∧ s.check 0 (own 0xFFFF8) 8 .load = (.ok (.sram 0 0xFFFF8), s)) ∧ s.check 0 (own 0xFFFF9) 8 .load = (.bad cPROTECTION none, s) ∧
    s.check 2048 (own 0) 8 .load = (.bad cPROTECTION none, s) ∧ s.check 2048 0x8000000000000040 8 .load = (.ok (.sram 0 0x40), s) ∧ s.check 0 (own 0) 2 .fetch = (.bad cPROTECTION none, s) := by decide

/-- Premises of MisalignedAccessTraps. -/
theorem witness_MisalignedAccessTraps : let s := one [(6, 0x1)]
    s.me.fences = [] ∧ (s.x 6).toNat % 2 ≠ 0 ∧ (s.x 6).toNat % 8 ≠ 0 ∧ s.streamAt 5 = none ∧ causeOf (exec (.amoAdd 5 6 7 0 0 0 0) s) = cMISALIGN ∧ causeOf (exec (.fld 5 6 0 0 0) s) = cMISALIGN := by decide

/-- Premises of LocalLoadsAndForwarding: a local load with nothing in its way, and one behind a store of the same bytes. -/
theorem witness_LocalLoadsAndForwarding_local : (one [(6, own 0x40)]).loadsLocally (own 0x40) 8 (.sram 0 0x40) :=
  ⟨by decide, by decide, by decide, by decide, by decide⟩
theorem witness_LocalLoadsAndForwarding_store : let s : State := { one [] with slots := [(0, { slot0 [(6, own 0x40)] with stores := [⟨.sram 0 0x40, .bytes [0x78, 0x56]⟩] })] }
    s.me.fences = [] ∧ s.place (own 0x40) 2 .load = (.ok (.sram 0 0x40), s) ∧ s.servedLocally s.myCore (.sram 0 0x40) = true ∧ s.poisonAt (sramKey 0 0x40) = false ∧
    xOf 5 (exec (.ldn 5 6 1 0 0) s) = 0x5678 ∧ of 0 (fun t => t.byteAt (sramKey 0 0x41)) (exec (.ldn 5 6 1 0 0) s) = 0x56 := by decide

/-- Cluster 1 of the same partition, for an access that is not local. -/
def two (x : SMap Word) : State := { one x with clusters := [(0, clus), (1, clus)] }

/-- Cluster 0 translates page 1 by way of tables in LPDDR 6 whose leaf is `e`. -/
def walking (e : Word) : State :=
  ([(0x20000, 0x21001), (0x21000, 0x22001), (0x22000, 0x23001), (0x23008, e)] : List (Nat × Word)).foldl (fun (s : State) x => s.setBytes x.1 (toBytes 8 x.2.toNat))
    { one [(6, 0x10000)] with clusters := [(0, { clus with en := true, root := 0x20 })] }

/-- Premises of OtherLoadsParkForTheirData: a load from cluster 1's SRAM and one from a discarded page; a load's data, clean and poisoned, the two halves of a long one, zero, and a bank that serves nobody. -/
theorem witness_OtherLoadsParkForTheirData : let s := two [(6, 0x8000000001000040)]; let h := Home.sram 1 0x40
    let ld : OutLoad := ⟨0x8000000001000040, h, 2, 5, false, true, none, false, none⟩; let wide : OutLoad := { ld with size := 16, toF := true }
    let w (b : List (Nat × Bool)) (ld : OutLoad) : State := { two [] with slots := [(0, { slot0 [] with park := .load ld 4 0 })], mem := [(sramKey 1 0x41, 0x80)], poison := b }
    let v (ld : OutLoad) (b : Nat) : State := { w [] ld with arg := arg2 0 b }
    (s.fenced s.cur 1 = false ∧ s.place 0x8000000001000040 8 .load = (.ok h, s) ∧ s.servedLocally s.myCore h = false) ∧
    State.read 0 h 2 (w [] ld) = (([0, 0x80], false), w [] ld) ∧ (w [] ld).closed h = false ∧ of 0 (fun t => t.me.getX 5) (exec .loadDataReturn (w [] ld)) = 0xFFFFFFFFFFFF8000 ∧
    of 1 (fun t => t.me.getX 5) (exec .loadDataReturn (w [] { ld with zero := true })) = 0 ∧
    of false (fun t => decide (t.me.park = .load { wide with half := some (true, [0, 0, 0, 0, 0, 0, 0, 0]) } 4 0)) (exec .loadDataReturn (v wide 1)) = true ∧
    of 0 (fun t => t.me.getF 5) (exec .loadDataReturn (v { wide with half := some (true, [7, 0, 0, 0, 0, 0, 0, 0]) } 0)) = 0x8000 + 7 * 2 ^ 64 ∧
    (({ w [] ld with parts := [(1, { part1 with st := 3 })] } : State).closed h = true ∧ causeOf (exec .loadDataReturn { w [] ld with parts := [(1, { part1 with st := 3 })] }) = cPROTECTION) ∧
    ((w [(sramKey 1 0x40 / 64, true)] ld).homePoison h = true ∧ (w [] ld).chip.paction = 0 ∧ causeOf (exec .loadDataReturn (w [(sramKey 1 0x40 / 64, true)] ld)) = cPOISON ∧
      causeOf (exec .loadDataReturn { w [(sramKey 1 0x40 / 64, true)] wide with arg := arg2 0 1 }) = cPOISON) ∧
    causeOf (exec .loadDataReturn { w [] { wide with half := some (true, [0, 0, 0, 0, 0, 0, 0, 0]) } with parts := [(1, { part1 with st := 3 })] }) = cPROTECTION := by decide
theorem witness_OtherLoadsParkForTheirData_discarded : let s := walking 0x100000000BF
    s.fenced s.cur 1 = false ∧ (s.place 0x10000 8 .load).1 = .disc ∧ of false (fun t => decide (t.me.park = .load ⟨0x10000, .sram 0 0, 8, 5, false, true, none, true, none⟩ 4 0)) (exec (.ld 5 6 3 0 0) s) = true := by decide +kernel

/-- Premises of AccessesAreChecked, for virtual addresses (R141, R147, R150): past the end; no root; a good leaf, a read-only, a window's and a discarded one, none; and the traps. -/
theorem witness_AccessesAreChecked_virtual : let k (e a : Word) (n : Need) := ((walking e).check 0 a 8 n).1
    k 0x1000000003D (2 ^ 48) .load = .bad cPROTECTION none ∧ ((one []).check 0 0x10000 8 .load).1 = .bad cPROTECTION none ∧ k 0x1000000003D 0x10000 .store = .ok (.dram 0 0x10000 0 0) ∧
    k 0x10000000035 0x10000 .load = .ok (.dram 0 0x10000 0 0) ∧ k 0x10000000035 0x10000 .store = .bad cPROTECTION none ∧ k 0x10405000025 0x10000 .load = .bad cWINDOWLOAD none ∧ k 0x1040500002D 0x10000 .store = .window 5 ∧
    k 0x1000000003F 0x10000 .load = .disc ∧ k 0x1000000003F 0x10000 .fetch = .bad cNOTPRESENT (some 0x2300B) ∧ k 0 0x10000 .load = .bad cNOTPRESENT (some 0x2300B) ∧
    (walking 0).me.fences = [] ∧ causeOf (exec (.ld 5 6 3 0 0) (walking 0)) = cNOTPRESENT ∧ causeOf (exec (.st 5 6 3 0 0) (walking 0x1000000003F)) = cDISCARDWRITE ∧
    of none (fun t => some t.me.park) (exec (.st 5 6 3 0 0) (walking 0x1000000003F)) = some (.trap (some 0x2300B)) := by decide +kernel

/-- Premises of StoresRetireAndStandOut. -/
theorem witness_StoresRetireAndStandOut : let s := one [(6, own 0x40), (7, 1)]
    s.fenced s.cur 2 = false ∧ s.place (own 0x40) 8 .store = (.ok (.sram 0 0x40), s) ∧ s.streamAt 7 = none := by decide

/-- A state whose slot 0 has one write still to be performed. -/
def pending (h : Home) (op : StOp) : State := { one [] with slots := [(0, { slot0 [] with stores := [⟨h, op⟩] })], full := [(sramKey 0 0x40 / 8, true)], l2 := [(l2Index 3 0x5000, ⟨false, 0, 7⟩)] }

/-- Premises of StorePerformedAtHome for each write, under a reset and at a held line. -/
theorem witness_StorePerformedAtHome : let s := pending (.sram 0 0x40) (.bytes [1, 2]); let n := pending (.sram 0 0x40) (.nibble true 0xA); let f := pending (.sram 0 0x40) (.clearFull 1)
    let z := pending (.sram 0 0x40) .zeroLine; let d := pending (.dram 3 0x5000 1 9) (.bytes [7])
    (s.arg.b = 0 ∧ isSup (coreOf s.arg.a) = false ∧ s.closed (.sram 0 0x40) = false ∧ of 0 (fun t => t.byteAt (sramKey 0 0x41)) (exec .storePerformedAtHome s) = 2) ∧ of 0 (fun t => t.byteAt (sramKey 0 0x40)) (exec .storePerformedAtHome n) = 0xA0 ∧
    of true (fun t => t.fullAt (sramKey 0 0x40)) (exec .storePerformedAtHome f) = false ∧ of true (fun t => t.fullAt (sramKey 0 0x40)) (exec .storePerformedAtHome z) = false ∧
    of [] (fun t => t.me.stores) (exec .storePerformedAtHome (pending (.sram 0 0x40) (.clearFull 3))) = [⟨.sram 0 0x48, .clearFull 2⟩] ∧
    ({ s with parts := [(1, { part1 with st := 3 })] } : State).closed (.sram 0 0x40) = true ∧
    (d.l2Has 3 0x5000 = true ∧ d.monitors = [] ∧ of none (fun t => find? t.l2 (l2Index 3 0x5000)) (exec .storePerformedAtHome d) = some ⟨true, 1, 9⟩) := by decide

/-- Premises of FullEmptyWords: a full word, an empty one, stfill with nobody waiting, a range for feclr, a nibble. -/
theorem witness_FullEmptyWords : let s := { withSram 0x40 [9] (one [(6, own 0x40), (7, 1), (8, 0x55)]) with full := [(sramKey 0 0x40 / 8, true)] }; let e := { s with full := [] }
    (s.place (own 0x40) 8 .atomic = (.ok (.sram 0 0x40), s) ∧ s.me.fences = [] ∧ s.me.stores = [] ∧ s.poisonAt (sramKey 0 0x40) = false ∧ s.fullAt (sramKey 0 0x40) = true ∧ e.fullAt (sramKey 0 0x40) = false) ∧
    (s.released s.cur .ch = true ∧ s.syncWaiters (.sram 0 0x40) false = [] ∧ s.syncWaiters (.sram 0 0x40) true = []) ∧ (s.x 9 = 0 ∧ s.check s.myCore (own 0x40) 8 .atomic = (.ok (.sram 0 0x40), s)) ∧
    s.place (own 0x40 + 1 / 2) 1 .atomic = (.ok (.sram 0 0x40), s) ∧ xOf 5 (exec (.ldtake 5 6 0) s) = 9 ∧ of true (fun t => t.fullAt (sramKey 0 0x40)) (exec (.ldtake 5 6 0) s) = false ∧
    of false (fun t => decide (t.me.park = .sync (.sram 0 0x40) (own 0x40) true 5 0 1)) (exec (.ldtake 5 6 0) e) = true ∧
    of [] (fun t => t.me.stores) (exec (.stnib 8 6 7 0) s) = [⟨.sram 0 0x40, .nibble true 5⟩] := by decide

/-- R185: amo.min is signed; cas that fails writes nothing; the old value comes back zero-extended. -/
def atomic (op : Nat) (v c : Word) (l : List Byte) : State :=
  withSram 0x40 l { one [] with slots := [(0, { slot0 [] with park := .amo ⟨op, .sram 0 0x40, own 0x40, 4, v, c, 5, false, .co⟩ })] }

/-- Premises of AtomicsParkAndActAtTheirHome: at issue, and at the home. -/
theorem witness_AtomicsParkAndActAtTheirHome : let s := one [(6, own 0x40)]; let a := atomic 4 5 0 [0xFF, 0xFF, 0xFF, 0xFF]; let c := atomic 9 5 1 [2]
    (s.me.fences = [] ∧ s.place (own 0x40) 4 .atomic = (.ok (.sram 0 0x40), s) ∧ s.released s.cur (scopeOf 1) = true) ∧ ((a.slot 0).stores = [] ∧ a.poisonAt (sramKey 0 0x40) = false) ∧
    of 0 (fun t => t.byteAt (sramKey 0 0x40)) (exec .storePerformedAtHome a) = 0xFF ∧ of 0 (fun t => t.me.getX 5) (exec .storePerformedAtHome a) = 0xFFFFFFFF ∧
    of 0 (fun t => t.byteAt (sramKey 0 0x40)) (exec .storePerformedAtHome c) = 2 := by decide

/-- Premises of FencesAcquiresAndReleases. -/
theorem witness_FencesAcquiresAndReleases : let s := one []; let p := pending (.sram 0 0x40) .zeroLine
    s.released s.cur .sy = true ∧ p.me.stores ≠ [] ∧ p.released p.cur .co = false ∧ of 0 (fun t => t.me.fences.length) (exec (.fence 6 1 2 0) s) = 1 ∧
    of false (fun t => decide (t.me.park = .again (.release .ch))) (exec (.rel 2 0) p) = true ∧
    s.loadsPerformed s.cur = true ∧ (pending (.sram 0 0x40) (.nibble true 5)).loadsPerformed 0 = false ∧
    of false (fun t => decide (t.me.park = .again .loads)) (exec (.acq 2 0) (pending (.sram 0 0x40) (.nibble true 5))) = true := by decide

/-- Page 1 of cluster 0's address space at physical page 1, readable and writable under policy L2, home slice 3; its dirty line in the slice. -/
def paged : State :=
  { one [(6, 0x10000)] with
    clusters := [(0, { clus with en := true, tlb := [(1, ⟨0x000001000003006D, 1, 0x23008⟩)] })],
    l2 := [(l2Index 3 0x10000, ⟨true, BitVec.allOnes 64, 0⟩)], mem := [(l2Key 3 0x10007, 0x77)] }

/-- Premises of CacheLineInstructions: a scratchpad address; a dirty line under slot 0's key; a page of policy L2; a line to be zeroed. -/
theorem witness_CacheLineInstructions : let s := paged
    2 ^ 63 ≤ (own 0x40).toNat ∧ (own 0x40).toNat / 2 ^ 32 % 2 ^ 31 = 0 ∧ (own 0x40).toNat / 2 ^ 20 % 16 = 0 ∧
    s.check s.myCore 0x10000 1 ⟨true, false, false, false⟩ = (.ok (.dram 3 0x10000 1 0), s) ∧ s.noWindow s.myCore 0x10000 = true ∧ s.keyLoaded 0 = true ∧ Memory.wf s.mem = true ∧
    s.check s.myCore 0x10000 1 .load = (.ok (.dram 3 0x10000 1 0), s) ∧ s.me.fences = [] ∧ s.place 0x10000 64 ⟨false, true, false, true⟩ = (.ok (.dram 3 0x10000 1 0), s) ∧ s.l1Has (clusterOf s.myCore) 0x10000 = false ∧
    of false (fun t => decide (t.me.park = .clean 3 0x10000 0)) (exec (.l2wb 6 0) s) = true ∧
    let w := { s with slots := [(0, { slot0 [] with park := .clean 3 0x10000 0 })] }
    of 0 (fun t => t.byteAt 0x10007) (exec .slotWake w) = 0x77 ∧ of none (fun t => find? t.l2 (l2Index 3 0x10000)) (exec .slotWake w) = some ⟨false, 0, 0⟩ := by decide

/-! ## Barriers, groups -/

/-- A barrier word with EXPECTED `n` at offset 0x40, and the slot's operands (R113, R115). -/
def barrier (n a : Nat) (rb : Word) : State := withSram 0x40 (toBytes 8 (Barrier.word ⟨false, 0, n, a, 0, false⟩).toNat) (one [(6, own 0x40), (7, rb)])

/-- R114: the last arrival turns the phase; an arrival at EXPECTED = 0 fails. -/
theorem test_barrier_turns : ((⟨false, 0, 2, 1, 0, false⟩ : Barrier).arrive false 0 = some ⟨true, 0, 2, 0, 0, false⟩) ∧ (⟨false, 0, 0, 0, 0, false⟩ : Barrier).arrive false 0 = none := by decide
/-- R116's worked word: three arrivals of three, with one early, leave one arrival in the new phase. -/
theorem test_barrier_early : (⟨false, 0, 3, 2, 1, false⟩ : Barrier).arrive false 0 = some ⟨true, 0, 3, 1, 0, false⟩ := by decide

/-- Premises of Barriers: each outcome of an arrival, and the ranges of the fields at their ends. -/
theorem witness_Barriers : let s := barrier 2 0 0; let z := barrier 0 0 0; let l := barrier 1 0 0
    ((-2 ^ 31 : Int) ≤ 2 ^ 31 - 1 ∧ (4095 : Nat) < 4096 ∧ Barrier.ofWord (Barrier.word ⟨true, -2 ^ 31, 4095, 4095, 63, true⟩) = ⟨true, -2 ^ 31, 4095, 4095, 63, true⟩) ∧
    ((one [(7, 0x8000000000000000)]).x 7).getLsbD 63 = true ∧
    (s.place (own 0x40) 8 .atomic = (.ok (.sram 0 0x40), s) ∧ s.poisonAt (sramKey 0 0x40) = false ∧ s.released s.cur (scopeOf 1) = true ∧ s.me.fences = [] ∧ s.me.stores = [] ∧ (s.cluster 0).l1 = []) ∧
    causeOf (exec (.arr 5 6 7 1 0) z) = cPHASE ∧ of false (fun t => decide (t.me.park = .barrier (some (.sram 0 0x40)) (own 0x40) false 5 0 .cl)) (exec (.wfa 5 6 7 1 0) s) = true ∧
    (of false (fun t => decide (t.me.park = .give 5 (Barrier.word ⟨false, 0, 2, 0, 0, false⟩) 3)) (exec (.arr 5 6 7 1 3) s) = true ∧
      of false (fun t => decide (t.me.park = .barrier (some (.sram 0 0x40)) (own 0x40) false 5 0 .cl)) (exec (.wfa 5 6 7 1 0) l) = true) ∧ (Barrier.ofWord (xOf 5 (exec (.wfp 5 6 7 1 0) (barrier 1 0 1)))).expected = 1 ∧
    causeOf (exec (.arrx 5 6 7 1 0) (barrier 2 0 0x8000000000000000)) = cPHASE := by decide

/-- Slot 0 parked as given. -/
def parked (p : Park) : State := { barrier 1 0 0 with slots := [(0, { slot0 [] with park := p })] }

/-- Premises of SlotWakes. -/
theorem witness_SlotWakes : let w := parked (.again (.release .co)); let f : State := { w with slots := [(0, { slot0 [] with park := .again (.release .co), frozen := true })] }
    let h : State := { w with slots := [(0, { slot0 [] with park := .again (.release .co), stores := [⟨.sram 0 0, .zeroLine⟩] })] }; let b (p : Bool) := parked (.barrier (some (.sram 0 0x40)) (own 0x40) p 5 0 .cl)
    h.waitOver 0 (.release .co) = false ∧ (w.waitOver 0 (.release .co) = true ∧ (w.slot 0).frozen = false) ∧ (f.waitOver 0 (.release .co) = true ∧ (f.slot 0).frozen = true) ∧
    ((b true).poisonAt (sramKey 0 0x40) = false ∧ of false (fun t => t.deferred) (exec .slotWake (b false)) = true ∧ of false (fun t => decide ((t.slot 0).park = .run)) (exec .slotWake (b true)) = true) ∧
    ((b true).cluster (domainOf (coreOf 0))).l1 = [] ∧
    of 0 (fun t => t.me.getX 5) (exec .slotWake (parked (.give 5 0x77 3))) = 0x77 ∧
    (let g : State := { w with slots := [(0, { slot0 [] with park := .give 5 0x77 3, frozen := true })] }; of false (fun t => t.me.woken && decide (t.me.park = .give 5 0x77 3)) (exec .slotWake g) = true) := by decide

/-- A partition with groups 4 to 7 (R32), group 4 valid, of 1 (its operator), at the root. -/
def grouped (ms : List Member) (rs : SMap RSlot) (op : BitVec 4) : State :=
  { one [(5, 0x4000000000)] with
      parts := [(1, { part1 with gbase := 4, gcount := 4 })]
      fabric := { Fabric.reset with groups := [(4, ⟨true, 1, op, 8, 0, 100, 0, 0, []⟩)], members := ms, rslots := rs } }

def member (c n : BitVec 16) (has sent : Bool) : Member := ⟨4, 0, true, 0, c, 0, 0x33, 0, 1, 1, n, has, sent⟩

/-- Premises of GroupMembership: out of range, a member, none, and a member of a group without an open instance. -/
theorem witness_GroupMembership : let s := grouped [] [] 2; let m := member 0 0 false false; let t := grouped [m] [] 2
    s.groupInRange s.myCore 8 = false ∧ s.groupInRange s.myCore 7 = true ∧ s.member s.cur 4 = none ∧ t.member t.cur 4 = some m ∧ t.groupInRange t.myCore 4 = true ∧
    causeOf (exec (.gjoin 8 0) s) = cPROTECTION ∧ of false (fun t => decide (t.me.park = .group 4 true 0)) (exec (.gjoin 4 0) s) = true ∧
    (let w (join : Bool) (ms : List Member) : State := { grouped ms [] 2 with slots := [(0, { slot0 [] with park := .group 4 join 0 })] };
      of 0 (fun t => t.fabric.members.length) (exec .slotWake (w true [])) = 1 ∧ of 9 (fun t => t.fabric.members.length) (exec .slotWake (w true [m])) = 1 ∧
      of 9 (fun t => t.fabric.members.length) (exec .slotWake (w false [m])) = 0 ∧ ((w false [m]).member 0 4 = some m ∧ ((w false [m]).slot 0).frozen = false)) := by decide
/-- Premise of GroupMembership: a full group table, at which a gjoin waits. -/
theorem witness_GroupMembership_full : let s : State := { grouped [] [] 2 with slots := [(0, { slot0 [] with park := .group 4 true 0 })], fabric := { Fabric.reset with members := List.replicate 16384 ⟨5, 0, true, 0, 0, 0, 0, 0, 0, 0, 0, false, false⟩ } }
    (s.slot 0).park = .group 4 true 0 ∧ s.member 0 4 = none ∧ 16384 ≤ s.fabric.members.length ∧ of false (fun t => t.deferred) (exec .slotWake s) = true := by decide +kernel

/-- A contribution on its way to the switch. -/
def contribution (key : Nat) (v : Word) (rs : SMap RSlot) (closed : List (BitVec 16)) : State :=
  let s := grouped [member 0 0 false true] rs 2
  { s with net := [⟨7, 0, 0, .contribution 4 key v 0⟩], arg := arg1 7, fabric := { s.fabric with groups := [(4, ⟨true, 1, 2, 8, 0, 100, 1, 0, closed⟩)] } }

/-- Premises of GroupReductions: gread waiting, answered and without a contribution; a late contribution, an opening one, a joining one, a completing one; a time-out. -/
theorem witness_GroupReductions : let m := member 1 0 true true; let s := grouped [m] [] 2; let n := grouped [member 1 0 false false] [] 2; let w := grouped [member 1 0 false true] [] 2
    let open' : RSlot := ⟨4, 0, [0, 1], [(1, (5, 1, 0))], 0, false⟩; let k := (contribution 0 7 [] []).expected 4
    (s.member s.cur 4 = some m ∧ s.me.fences = [] ∧ m.num = m.counter - 1 ∧ (s.group 4).valid = true ∧ (s.group 4).part.toNat = s.corePart s.myCore ∧ s.sendReleased s.cur .sy = true) ∧
    xOf 5 (exec (.gread 5 4 0) s) = 0x33 ∧ causeOf (exec (.gread 5 4 0) n) = cPROTECTION ∧ of false (fun t => decide (t.me.park = .again (.group 4))) (exec (.gread 5 4 0) w) = true ∧
    ((contribution 0 7 [] [0]).group 4).closed.contains 0 = true ∧ k.length = 1 ∧
    of 0 (fun t => ((t.fabric.members.map Member.result).headD 0).toNat) (exec .groupContribution (contribution (k.headD 9) 7 [(0, { open' with expect := [k.headD 9, 1], got := [(1, (5, 1, 0))] })] [])) = 12 ∧
    (find? (contribution 0 7 [(0, open')] []).fabric.rslots 0 = some open' ∧ open'.sentUp = false) ∧
    (let t := { contribution 0 7 [(0, open')] [] with arg := arg1 0, cycle := 100 }; (t.group 4).timeout ≠ 0 ∧ open'.since + (t.group 4).timeout.toNat ≤ t.cycle ∧ 8 ≤ (t.group 4).parent.toNat ∧
      of 9 (fun u => ((u.fabric.members.map Member.status).headD 9).toNat) (exec .groupSlotTimeout t) = 1) := by decide


/-- Premises of GroupReductions, the rest: a contribution held back, one that stands out at a gread, full slots, a switch with a parent (passing up and late after it), and its parent's and child's packets. -/
theorem witness_GroupReductions_switches : let m := member 1 0 true true; let h := { grouped [m] [] 2 with slots := [(0, { slot0 [] with stores := [⟨.sram 0 0x40, .zeroLine⟩] })] }
    let o := { grouped [m] [] 2 with slots := [(0, { slot0 [] with sends := [(0, 1)] })], net := [⟨1, 0, 0, .contribution 4 0 0 0⟩] }
    let full := (contribution 8 7 ((List.range 64).map fun i => (i, (⟨5, 0, [], [], 0, false⟩ : RSlot))) [])
    let k := ((contribution 0 7 [] []).expected 4).headD 9; let r : RSlot := ⟨4, 0, [k], [], 0, false⟩
    let up (b : Body) (r : RSlot) : State := let s := contribution k 7 [(0, r)] []; { s with net := [⟨7, 0, 0, b⟩], cycle := 100, fabric := { s.fabric with groups := [(4, ⟨true, 1, 2, 3, 1, 100, 1, 0, []⟩)] } }
    let c := Body.contribution 4 k 7 0
    h.sendReleased 0 .sy = false ∧ of 0 (fun t => t.me.fences.length) (exec (.gcontrib 5 4 0) h) = 1 ∧
    o.sendsPerformed 0 = false ∧ of false (fun t => decide (t.me.park = .again .sends)) (exec (.gread 5 4 0) o) = true ∧
    of false (fun t => t.deferred) (exec .groupContribution full) = true ∧
    ((up c r).takePacket 7).isSome = true ∧ of [] (fun t => t.netOut) (exec .groupContribution (up c r)) = [⟨0, 0, 2 ^ 40 + 3, .partialUp 4 0 7 1 0 0⟩] ∧
    of 9 (fun t => ((t.group 4).late).toNat) (exec .groupContribution (up c { r with sentUp := true })) = 1 ∧
    of 9 (fun t => ((find? t.fabric.rslots 0).map fun r => r.got.length).getD 9) (exec .groupContribution (up (.partialUp 4 0 9 3 0 0) { r with expect := [k, 2 ^ 40] })) = 1 ∧
    of 9 (fun t => ((t.fabric.members.map Member.result).headD 9).toNat) (exec .groupResult (up (.result 4 77 0 3 0 0) r)) = 77 ∧
    of [] (fun t => t.netOut) (exec .groupSlotTimeout { up c { r with got := [(k, (7, 1, 0))] } with arg := arg1 0 }) = [⟨0, 0, 2 ^ 40 + 3, .partialUp 4 0 7 1 0 0⟩] := by decide

/-- Premises of FullEmptyWords and FencesAcquiresAndReleases: an activation one of whose sends stands out; a feclr at an odd address (MisalignedAccessTraps). -/
theorem witness_FullEmptyWords_sends : let o := { one [(6, own 0x40), (7, 1), (8, 1)] with slots := [(0, { slot0 [(6, own 0x40), (7, 1), (8, 1)] with sends := [(0, 1)] })], net := [⟨1, 0, 0, .contribution 4 0 0 0⟩] }
    o.sendsPerformed 0 = false ∧ (o.place (own 0x40) 8 .atomic = (.ok (.sram 0 0x40), o) ∧ o.me.stores = []) ∧ of false (fun t => decide (t.me.park = .again .sends)) (exec (.ldsync 5 6 0) o) = true ∧
    of false (fun t => decide (t.me.park = .again .loads)) (exec (.acq 2 0) o) = true ∧ causeOf (exec (.feclr 7 8 0) o) = cMISALIGN := by decide
/-! ## Handles, messages, activations -/

/-- Page tables that map the first 2 MiB of cluster 0's address space, uncached, to physical 0x200000. -/
def tables : List (Nat × Word) := [(0x20000, 0x21001), (0x21000, 0x22001), (0x22000, 0x2000000000BD)]

/-- Core 0 with a handle table at 0x40000 and a sequence area at 0x80000; object class 1 has a handler for channel 2. -/
def tab (x : SMap Word) : State :=
  { one x with
    clusters := [(0, { clus with en := true, root := 0x20 })]
    cores := [(0, { Core.reset with htbase := 0x40000, seqbase := 0x80000, classes := [(1, ⟨true, false, 0, true⟩)], handlers := [(66, ⟨0x900, 1, false, true⟩)], regions := [(0, ⟨0x1000, 0x100, 1, true, false, false, 0⟩)] })]
    mem := (tables.foldl (fun (s : State) e => s.setBytes e.1 (toBytes 8 e.2.toNat)) (one x)).mem }

/-- The same with an entry in the handle table, of generation 1. -/
def tabWith (i : Nat) (e : HEntry) (x : SMap Word) : State := (tab x).setEntry 0 i e

def gen1 : HEntry := HEntry.zero.freed
def object : HEntry := { gen1 with w0 := gen1.w0 ||| 2 ||| (1 <<< 15) }

/-- The handle of entry `i` of core 0 in generation 1. -/
def handle (i kind : Nat) : Word := mkHandle 0 i 1 kind 5

theorem test_tables : (tab []).peek 0 0x40040 = some (.dram 0 0x240040 2 0) ∧ gen1.gen = 1 ∧ (tabWith 3 object []).entry 0 3 = object ∧ object.cls = 1 := by decide +kernel

/-- Premises of HandleTable: fields at the ends of their ranges; a free entry and none; an own handle live, stale and pending; one of another core. -/
theorem witness_HandleTable : let s := tabWith 1 (gen1.mk' 2 0 (handle 1 1)) [(6, handle 1 1), (7, mkHandle 9 1 1 2 5)]
    ((2 ^ 25 - 1 : Nat) < 2 ^ 25 ∧ hCap (mkHandle (2 ^ 25 - 1) 4095 2047 3 (2 ^ 14 - 1)) = 2 ^ 14 - 1 ∧ hGen (mkHandle (2 ^ 25 - 1) 4095 2047 3 (2 ^ 14 - 1)) = 2047) ∧
    (tab []).freeIndex 0 = some 1 ∧ s.freeIndex 0 = some 2 ∧ (one []).freeIndex 0 = none ∧
    (hNum (s.x 6) = s.numOf 0 % 2 ^ 25 ∧ hIdx (s.x 6) ≠ 0 ∧ (s.entry 0 1).st = 1 ∧ (s.entry 0 1).gen = hGen (s.x 6) ∧ s.isLocalPromise 0 1 = true ∧ hKind (s.x 6) = 1) ∧
    ((s.entry 0 (hIdx (handle 2 1))).st = 0) ∧ hKind (s.x 7) = 2 ∧ hNum (s.x 7) ≠ s.numOf 0 % 2 ^ 25 ∧ hKind (s.x 0) = 0 ∧
    of false (fun t => decide (t.me.park = .give 5 0x11 0)) (exec (.hstat 5 6 0) s) = true ∧ hIdx (giveOf 5 (exec (.hnew 5 0) s)) = 2 ∧ of false (fun t => (t.entry 0 1).dropped) (exec (.hdrop 6 0) s) = true := by decide +kernel

/-- Core 0 with 8 credits for cluster 0's cores. -/
def credited (s : State) : State := s.setCredit 0 (creditKey 0) ⟨1, 8, false, 0⟩

/-- Premises of InvSendsAndPromises: an object of core 1 called with channel 2; the same without a credit; one whose route is broken. -/
theorem witness_InvSendsAndPromises : let x : SMap Word := [(6, mkHandle 1 4 1 0 5), (7, 0x200), (10, 1)]; let s := credited (tab x); let u := s.setEntry 0 1 ((s.entry 0 1).mk' 1 1 (s.x 6))
    let p := (credited (tabWith 1 (gen1.mk' 2 0 (mkHandle 8 3 1 1 5)) x)).modMe fun sl => { sl with replyh := mkHandle 8 3 1 1 5 }
    s.me.fences = [] ∧ s.payload (s.x 7) = .ok (([], false), s) ∧ s.route 0 (s.x 6) = .go 1 false ∧ s.sendReleased 0 (s.sendScope (s.x 6)) = true ∧ s.hasCredit (creditKey 1) = true ∧
    s.freeIndex 0 = some 1 ∧ u.hasPair 0 (s.x 6) = true ∧ (u.nextSeq 0 (s.x 6) 1).isSome = true ∧ (p.me.replyh ≠ 0 ∧ p.keyedIndex 0 p.me.replyh = some 1 ∧ p.hasCredit (creditKey 1) = true) ∧
    ((tab x).hasCredit (creditKey 1) = false ∧ (tab x).me.lost = false) ∧ s.route 0 (handle 3 1) = .broken rSTALE none 0 ∧
    hIdx (giveOf 5 (exec (.inv 5 6 7 0) s)) = 1 ∧ of 0 (fun t => t.net.length) (exec (.inv 5 6 7 0) s) = 1 ∧ of 1 (fun t => t.me.replyh) (exec (.invp 6 7 0) p) = 0 := by decide +kernel

/-- Premises of SpawnSendsOrRunsInline: a core number outside, an odd PC, one of 49 bits; a credit; none, outside and inside a child. -/
theorem witness_SpawnSendsOrRunsInline : let s := credited (tab [(6, 1), (7, 0x500), (8, 0x501), (9, 0x1000000000000), (5, 2048)])
    let n := tab [(6, 1), (7, 0x500)]; let c : State := n.modMe fun sl => { sl with inl := some ⟨0, 0, 0, 0, 0, 0, 0, 0⟩ }
    (¬ (s.x 5).toNat < 2 ^ 11) ∧ ((s.x 6).toNat < 2 ^ 11 ∧ s.corePart 0 ≠ 0 ∧ s.partOf ((s.x 6).toNat / 8) = s.corePart 0) ∧ (s.x 8).toNat % 2 = 1 ∧ ((s.x 9).toNat % 2 = 0 ∧ 2 ^ 48 ≤ (s.x 9).toNat) ∧
    (s.hasCredit (creditKey 1) = true ∧ s.sendReleased s.cur .ch = true ∧ s.hasPair 0 (mkHandle 1 0 0 0 (s.partKey 0).toNat) = true) ∧ (n.hasCredit (creditKey 1) = false ∧ n.me.inl = none) ∧
    (c.hasCredit (creditKey 1) = false ∧ c.me.inl ≠ none ∧ c.me.lost = false) ∧ of 0 (fun t => t.me.pc) (exec (.spawn 6 7 0) n) = 0x500 ∧ of 0 (fun t => t.net.length) (exec (.spawn 6 7 0) s) = 1 := by decide +kernel

/-- A core whose entry 1 is a pending answer entry keyed by another core's promise, and whose REPLYH names it. -/
def answering (x : SMap Word) : State := (tabWith 1 (gen1.mk' 2 9 (mkHandle 9 3 1 1 5)) x).modMe fun sl => { sl with replyh := mkHandle 9 3 1 1 5 }
def promising (x : SMap Word) : State := tabWith 1 (gen1.mk' 2 0 (handle 1 1)) x

/-- Premises of RepliesResolve: REPLYH 0; an answer entry that nothing waits on; a local promise; one of another generation; a handle of another core. -/
theorem witness_RepliesResolve : let s := answering [(6, mkHandle 1 4 1 0 5)]; let p := promising [(6, handle 4 0), (7, handle 1 1)]
    (one []).me.replyh = 0 ∧ (s.me.replyh ≠ 0 ∧ s.keyedIndex 0 s.me.replyh = some 1 ∧ ((s.entry 0 1).st = 1 ∧ (s.entry 0 1).w4 = 0 ∧ (s.entry 0 1).w6 = 0 ∧ (s.entry 0 1).dropped = false) ∧
      s.isLocalPromise 0 1 = false ∧ s.forwarding 0 (s.entry 0 1).w2 = false ∧ s.sendReleased s.cur (s.replyScope 0 1 none) = true ∧ s.sendReleased s.cur (s.replyScope 0 1 (some (s.x 6))) = true ∧ hKind (s.x 6) = 0) ∧ (hKind (mkHandle 9 1 1 1 5) = 1 ∧ hNum (mkHandle 9 1 1 1 5) ≠ s.numOf 0 % 2 ^ 25) ∧
    ((s.setEntry 0 1 ((s.entry 0 1).set0 15 4 3)).entry 0 1 = (s.entry 0 1).set0 15 4 3) ∧
    (p.isLocalPromise 0 1 = true ∧ (p.entry 0 1).gen = hGen (p.x 7) ∧ p.forwarding 0 (p.entry 0 1).w2 = false ∧ p.sendReleased p.cur (p.replyScope 0 1 (some (p.x 6))) = true ∧ hNum (p.x 7) = p.numOf 0 % 2 ^ 25) ∧ (p.entry 0 1).gen ≠ hGen (mkHandle 0 1 2 1 5) ∧
    of 0 (fun t => (t.entry 0 1).st) (exec (.reply 6 0) s) = 2 ∧ of 0 (fun t => t.net.length) (exec (.reply 6 0) s) = 1 ∧ of 0 (fun t => (t.entry 0 1).reason) (exec (.rbreakLocalPromise 6 7 0) p) = 0x8005 := by decide +kernel

/-- The reply's handle is a broken one of an own entry. -/
theorem witness_RepliesResolve_broken : let b := (answering [(6, handle 2 3)]).setEntry 0 2 ((gen1.mk' 2 0 (handle 2 1)).resolved (Resol.brk 0x8001 (handle 4 1) 3))
    hKind (b.x 6) = 3 ∧ hNum (b.x 6) = b.numOf 0 % 2 ^ 25 ∧ hIdx (b.x 6) ≠ 0 ∧ (b.entry 0 2).st = 3 ∧ (b.entry 0 2).gen = hGen (b.x 6) ∧ b.sendReleased 0 (b.replyScope 0 1 (some (b.x 6))) = true ∧
    of 0 (fun t => (t.entry 0 1).w1) (exec (.reply 6 0) b) = handle 4 1 := by decide +kernel

/-- A packet of number 7 on its way to core 0, and the step that takes it. -/
def arriving (b : Body) (src : Nat) (s : State) : State := { s with net := [⟨7, src, 0, b⟩], arg := arg1 7 }

/-- Premises of RegistrationsAndNotices. -/
theorem witness_RegistrationsAndNotices : let o (s : State) := s.modMe fun sl => { sl with act := { sl.act with obj := 3, cls := 1 } }
    let s := o (tab [(6, mkHandle 9 4 1 0 5), (7, 0x200), (8, 0x300), (9, mkHandle 9 1 1 1 5)])
    let st := arriving (.watch (handle 3 1) (.object 9 1 0 2)) 9 (tab []); let rs := arriving (.resolve (handle 1 1) (Resol.brk 6 0 0) 1 0) 9 (tabWith 1 (gen1.mk' 1 0 (mkHandle 9 3 1 1 5)) [])
    let lo := arriving (.locate (handle 1 1) 9) 9 (tabWith 1 (gen1.mk' 1 0 (mkHandle 9 3 1 1 5)) [])
    let rl := arriving (.release (mkHandle 9 3 1 1 5) false) 9 (tabWith 1 ((gen1.mk' 2 9 (mkHandle 9 3 1 1 5)).resolved (Resol.val 0)) [])
    (one []).me.act.obj = 0 ∧ (s.me.act.obj ≠ 0 ∧ (look Handler.reset (s.core 0).handlers (64 * s.me.act.cls.toNat + 2)).valid = true ∧ hKind (s.x 6) = 0) ∧
    (look Handler.reset (s.core 0).handlers (64 * 1 + 3)).valid = false ∧ (hKind (s.x 9) ≠ 0 ∧ hNum (s.x 9) ≠ s.numOf 0 % 2 ^ 25) ∧
    (st.takePacket 7).isSome = true ∧ (st.cutOff 0 = false ∧ (st.entry 0 3).st = 0 ∧ (9 : Nat) ≠ st.numOf 0) ∧
    (rs.namesEntry 0 (handle 1 1) = true ∧ (rs.entry 0 1).role = 1 ∧ (rs.entry 0 1).st = 1 ∧ (rs.entry 0 1).dropped = false ∧ (rs.entry 0 1).w6 = 0 ∧ (rs.core 0).reorder = []) ∧
    ((lo.entry 0 1).loc = lo.numOf 0 % 2 ^ 25) ∧ (rl.keyedIndex 0 (mkHandle 9 3 1 1 5) = some 1 ∧ (rl.entry 0 1).ownDatum (rl.handleOf 0 1 2) = false ∧ (rl.entry 0 1).moved = false ∧ (rl.entry 0 1).st ≠ 1 ∧ (rl.entry 0 1).seqlist = 0 ∧ (rl.core 0).reorder = [] ∧ (rl.core 0).dataDue = []) ∧
    (one []).keyedIndex 0 (handle 1 1) = none ∧ of 0 (fun t => (t.entry 0 1).st) (exec .resolutionNotice rs) = 3 ∧ of 0 (fun t => (t.entry 0 1).loc) (exec .locationNotice lo) = 9 ∧ of 9 (fun t => (t.entry 0 1).st) (exec .releaseNotice rl) = 0 := by decide +kernel

/-- A resolution broken STALE by a message that core 0 itself sent to core 9's entry 3. -/
def stale : Resol := { Resol.brk 1 0 0 with stale := some (0, mkHandle 9 3 1 1 5) }
theorem witness_RegistrationsAndNotices_stale : let k := mkHandle 9 3 1 1 5; let s := arriving (.resolve k stale 2 0) 9 (one [])
    s.keyedIndex 0 k = none ∧ (Resol.brk 6 0 0).stale = none ∧ stale.stale = some (s.numOf 0, k) ∧ (s.freeSend 0 k).keyedIndex 0 k = none := by decide +kernel

/-- A message to entry 3 of core 0. -/
def message (cap : BitVec 14) (idx gen : Nat) (fwd : Bool) : Msg :=
  ⟨mkHandle 0 idx gen 0 5, 0, 1, 2, 3, 4, 9, 0, 2, fwd, 0xFF, cap, [], false, 9, none, none⟩

/-- Premises of InvocationArrivalQueuesOrBreaks: a foreign capability, an anonymous message, a stale generation, one in sequence, one that waits, one that goes on. -/
theorem witness_InvocationArrivalQueuesOrBreaks : let s (m : Msg) := arriving (.invoke m) 9 (tabWith 3 object []); let q := s (message 5 3 1 false)
    let w := arriving (.invoke (message 5 3 1 true)) 9 (one []); let g := arriving (.invoke (message 5 3 1 true)) 9 (tabWith 3 ((gen1.mk' 2 8 (message 5 3 1 true).target).set0 20 1 1) [])
    isSup 0 = false ∧ (message 4 3 1 false).cap ≠ q.partKey 0 ∧ (message 5 0 1 false).cap = q.partKey 0 ∧ hIdx (message 5 0 1 false).target = 0 ∧ (q.core 0).quar = false ∧ (q.entry 0 3).gen ≠ hGen (message 5 3 2 false).target ∧
    (q.entry 0 3).gen = hGen (message 5 3 1 false).target ∧ (q.recvPair 0 3 9 (hKey (message 5 3 1 false).target)).isSome = true ∧ (q.entry 0 3).role = 0 ∧ (message 5 3 1 false).kind 0 = 3 ∧
    w.keyedIndex 0 (message 5 3 1 true).target = none ∧ (w.core 0).reorder.length < 64 ∧ g.keyedIndex 0 (message 5 3 1 true).target = some 3 ∧ (g.entry 0 3).moved = true ∧
    of 0 (fun t => (look [] (t.core 0).queues 3).length) (exec .invocationArrival q) = 1 ∧ of 0 (fun t => (t.cluster 0).used) (exec .invocationArrival q) = 1 ∧
    of 0 (fun t => t.records.length) (exec .invocationArrival (s (message 4 3 1 false))) = 1 ∧ of 0 (fun t => (t.core 0).anon.length) (exec .invocationArrival (s (message 5 0 1 false))) = 1 ∧
    of 0 (fun t => (t.core 0).reorder.length) (exec .forwardedInvocationArrival w) = 1 := by decide +kernel

/-- Premises of HeldWorkAndInboxCells. -/
theorem witness_HeldWorkAndInboxCells : let h := credited ((tab []).modCore 0 fun k => { k with held := [.forward (message 5 3 1 true) 1 0] }); let n := (tab []).modCore 0 fun k => { k with held := [.forward (message 5 3 1 true) 1 0] }
    let m : Msg := { message 5 3 1 false with payload := [1, 2, 3] }; let q := (tabWith 3 object []).modCore 0 fun k => { k with queues := [(3, [⟨.msg m none, 9, none⟩])] }
    ((tab []).core 0).held = [] ∧ ((h.modCore 0 fun k => { k with held := [] }).spend 0 (creditKey 1)).isSome = true ∧ (n.credit 0 (creditKey 1)).avail = 0 ∧ (∀ e ∈ ((tab []).core 0).queues, ∀ it ∈ e.2, it.needsCell = false) ∧
    (m.payload ≠ [] ∧ (look ClassD.reset (q.core 0).classes (q.entry 0 3).cls).inboxen = true ∧ q.freeInbox 0 (q.entry 0 3).cls = some 0x1000 ∧ q.scratchRole 0 0x1000 3 = true ∧ q.saved = []) ∧
    of 0 (fun t => t.byteAt (sramKey 0 0x1002)) (exec .inboxCellAssignment q) = 3 := by decide +kernel

/-- Premises of AdmissionStartsActivations: a core that admits, its chosen head; one that is quarantined; an activation past its run limit. -/
theorem witness_AdmissionStartsActivations : let s : State := { (tabWith 3 object []).modCore 0 fun k => { k with queues := [(3, [⟨.msg (message 5 3 1 false) none, 9, some 0⟩])] } with slots := [] }
    let l : State := { one [] with parts := [(1, { part1 with runlimit := 10 })], cycle := 10 }
    (s.modCore 0 fun k => { k with quar := true }).admits 0 = false ∧ s.admits 0 = true ∧ ((s.chosen 0).map fun h => h.item.body) = some (.msg (message 5 3 1 false) none) ∧ (s.core 0).admitted ≤ s.cycle ∧ (s.slot 0).active = false ∧
    (l.me.active = true ∧ l.me.park = .run ∧ l.me.frozen = false ∧ l.me.noticed = false ∧ (l.part 1).runlimit.toNat ≠ 0 ∧ l.me.elapsed + 10 ≤ l.cycle) ∧
    of 0 (fun t => (t.slot 0).pc) (exec .activationAdmission s) = 0x900 ∧ of 0 (fun t => (t.slot 0).getX 3) (exec .activationAdmission s) = handle 3 0 ∧ of 9 (fun t => (t.slot 0).getX 10) (exec .activationAdmission s) = 0 := by decide +kernel

/-- Premises of ReservationsAndCredits: 63 blocks out and 64; a grant, a credit; a block that goes home at 10 µs and not before. -/
theorem witness_ReservationsAndCredits : let r (n : Nat) := (arriving (.resvReq 0) 9 (one [])).modCluster 0 fun k => { k with lent := n }; let c (n : Nat) : State := { credited (one []) with arg := arg2 0 (creditKey 0), cycle := n }
    (r 63).takePacket 7 ≠ none ∧ ((r 63).cluster 0).waiters = [] ∧ ((r 63).cluster 0).lent < 64 ∧ 64 ≤ ((r 64).cluster 0).lent ∧ (r 63).cutOff 0 = false ∧
    (((c 0).credit 0 (creditKey 0)).blocks ≠ 0 ∧ 8 ≤ ((c 0).credit 0 (creditKey 0)).avail ∧ (c 9999).cycle < 10000 ∧ 10000 ≤ (c 10000).cycle) ∧
    ((one []).credit 0 (creditKey 0)).blocks = 0 ∧ of 0 (fun t => (t.cluster 0).lent) (exec .reservationRequest (r 63)) = 64 ∧ of 0 (fun t => (t.cluster 0).waiters.length) (exec .reservationRequest (r 64)) = 1 ∧
    of 9 (fun t => (t.credit 0 (creditKey 0)).blocks) (exec .reservationBlockReturn (c 10000)) = 0 ∧ of 0 (fun t => (t.credit 0 (creditKey 9)).avail) (exec .reservationGrant (arriving (.grant 1) 8 (one []))) = 8 := by decide +kernel

/-! ## Copy engines -/

/-- A map of two FP32 elements 4 bytes apart. -/
def map2 : TMap := ⟨true, 0, 0, 0, 0, [⟨2, 2, 4⟩]⟩

/-- A copy of two FP32 elements from offset 0x40 to 0x80 of the own SRAM, described in the slot's shadow image; completion mode as given. -/
def copying (ctl : Word) (x : SMap Word) : State :=
  let s := withSram 0x40 (toBytes 8 0x3F80000040000000) (one x)
  ({ s with cores := [(0, { Core.reset with tmaps := [(2, map2)] })] } : State).modMe fun sl =>
    { sl with shadow := { Shadow.reset with smap := 2, sbase := own 0x40, skind := 1, dmap := 2, dbase := own 0x80, dkind := 1, ctl := ctl, paddr := own 0xC0, postval := 0x77 } }

/-- The state once that command is issued, and the command. -/
def issued (ctl : Word) : State := of (one []) id (exec (.xgo 5 0) (copying ctl []))
def cmd (ctl : Word) : CopyCmd := { (copying ctl []).newCmd 1 with }

/-- That command in engine 0 of cluster 0, at a place of its walk; the step in hand is for that engine. -/
def running (ctl : Word) (pos : Nat) : State :=
  { (copying ctl []).modCluster 0 fun k => { k with engine0 := ⟨some { cmd ctl with pos := pos, stage := .running }, false, 0⟩ } with arg := arg3 0 0 1 }

theorem test_xgo_identifier : xOf 5 (exec (.xgo 5 0) (copying 0 [])) = 0 ∧ of 0 (fun t => (t.core 0).xseq) (exec (.xgo 5 0) (copying 0 [])) = 1 ∧
    of 0 (fun t => (look XStat.empty (t.core 0).xstat 0).state) (exec (.xgo 5 0) (copying 0 [])) = 1 := by decide +kernel

/-- An image of R233 at offset 0x100: FP32, one dimension of size 2, bound 3, stride 4. -/
def image : List Byte := toBytes 8 0x1234 ++ toBytes 8 0x40 ++ List.replicate 48 0 ++ toBytes 8 0x300000002 ++ toBytes 8 4

/-- Premises of CopyInstructions: an image, well formed and not; room and none; a command that issues, loops, arms; a status entry of another, a finished and a queued command, a looping one with a busy stage. -/
theorem witness_CopyInstructions_maps : let s := withSram 0x100 image (one [(6, own 0x100), (7, own 0x108)])
    (s.x 7).toNat % 64 ≠ 0 ∧ (s.x 6).toNat % 64 = 0 ∧ s.imageWords 8 (s.x 6) = (.ok [0x1234, 0x40, 0, 0, 0, 0, 0, 0], s) ∧ s.imageWords 2 (s.x 6 + 64) = (.ok [0x300000002, 4], s) ∧
    (let m : TMap := ⟨true, 0x1234, 0, 0, 0, [⟨2, 3, 4⟩]⟩;
      of false (fun t => decide (t.me.park = .tmset 3 m 2)) (exec (.tmset 3 6 2) s) = true ∧ of TMap.invalid (fun t => look TMap.invalid (t.core 0).tmaps 3) (exec .slotWake { s with slots := [(0, { slot0 [] with park := .tmset 3 m 2 })] }) = m) ∧
    (withSram 0x100 (List.replicate 128 0xFF) s).imageWords 8 (s.x 6) = (.ok (List.replicate 8 0xFFFFFFFFFFFFFFFF), withSram 0x100 (List.replicate 128 0xFF) s) := by intros; and_intros <;> decide +kernel
theorem witness_CopyInstructions_issue : let s := copying 0 [(6, own 0x140), (7, 1), (8, own 0x180), (9, 0x100000003)]; let u : State := { s with serial := s.serial + 1 }; let f := s.modCore 0 fun k => { k with xq := [cmd 0, cmd 0] }
    s.me.fences = [] ∧ f.copyRoom 0 false = false ∧ (s.copyRoom 0 false = true ∧ u.issueStatus (u.newCmd 1) = (0, [], u)) ∧
    (u.stepRecord 0 (s.x 8) = (some (List.replicate 16 0, 0), u) ∧ (s.x 9).toNat % 2 ^ 32 ≠ 0) ∧ (s.place (s.x 6) 8 .load = (.ok (.sram 0 0x140), s) ∧ s.homePoison (.sram 0 0x140) = false ∧ s.copyRoom 0 true = true) ∧
    of 0 (fun t => ((t.core 0).xq.map CopyCmd.stages).headD 0) (exec (.xloop 5 9 8 0) s) = 2 ∧ of 0 (fun t => (t.cluster 0).pending.length) (exec (.xarm 5 6 7 0) s) = 1 := by decide +kernel
theorem witness_CopyInstructions_status : let q := issued 0; let d := q.modCore 0 fun k => { k with xq := [] }; let c := { cmd 0 with loop := true, busy := [2], stage := .looping }
    let l := d.modCluster 0 fun k => { k with pending := [c] }
    (look XStat.empty ((copying 0 []).core 0).xstat 0).used = false ∧ (d.cmdOf 0 0 = none ∧ (look XStat.empty (d.core 0).xstat 0).used = true ∧ (look XStat.empty (d.core 0).xstat 0).id = 0) ∧
    (q.me.stores = [] ∧ q.windowsPerformed q.cur (fun _ => true) .ch = true) ∧ (((l.cmdOf 0 0).map CopyCmd.busy) = some [2] ∧ c.sh.dkind ≠ 3) ∧
    ((q.cmdOf 0 0).map CopyCmd.stage = some .queued ∧ (q.core 0).xq.length = 1 ∧ (cmd 0).sh.ctl.toNat / 256 % 16 = 0) ∧
    of 0 (fun t => (look XStat.empty (t.core 0).xstat 0).state) (exec (.xcancel 5 6 0) q) = 5 ∧ of [9] (fun t => ((t.cluster 0).pending.map CopyCmd.busy).headD [9]) (exec (.xrel 6 0) ({ l with slots := [(0, { l.slot 0 with x := [(6, 0x20000)] })] })) = [] := by decide +kernel

/-- A counter on a discarded page, on one under a window, and poisoned. -/
theorem witness_CopyInstructions_counter : let d : State := { walking 0x100000000BF with cores := (copying 0 []).cores, slots := (copying 0 [(6, 0x10000)]).slots }; let w := walking 0x104000000BD; let c := { copying 0 [(6, own 0x140)] with poison := [(sramKey 0 0x140 / 64, true)] }
    (d.place 0x10000 8 .load).1 = .disc ∧ (w.place 0x10000 8 .load).1 = .bad cWINDOWLOAD none ∧ causeOf (exec (.xarm 5 6 7 0) w) = cWINDOWLOAD ∧ (c.place (c.x 6) 8 .load = (.ok (.sram 0 0x140), c) ∧ c.homePoison (.sram 0 0x140) = true) ∧
    (d.copyRoom 0 true = true ∧ of [] (fun t => (t.cluster 0).pending.map CopyCmd.trig) (exec (.xarm 5 6 7 0) d) = [some (none, 0)]) := by decide +kernel

/-- Premises of CopyEngineSteps: a busy and a free engine; an item, the end of the walk, the completion with a post; a looping and a triggered command, each ready and not. -/
theorem witness_CopyEngineSteps_walk : let q : State := { issued 0 with arg := arg2 0 0 }; let r := running 0x200 0; let c := { cmd 0x200 with stage := .running }
    let e : State := (running 0x200 (2 ^ 64)).modCluster 0 fun k => { k with engine0 := ⟨some { c with pos := 2 ^ 64, ended := true }, false, 0⟩ }
    (r.engine 0 0).free = false ∧ ((q.engine 0 0).free = true ∧ (q.cluster 0).pending = [] ∧ (q.nextQueued 0 0).isSome = true ∧ (cmd 0).sh.dkind ≠ 3) ∧ (∀ i, i < 8 → ((one []).core (0 * 8 + i)).xq = []) ∧
    (r.itemAt c 0 = some ⟨0, [(0, own 0x80), (2, own 0x84)], 4, true⟩ ∧ r.itemAll c ⟨0, [(0, own 0x80), (2, own 0x84)], 4, true⟩ = [(0, own 0x80), (2, own 0x84)] ∧ c.skips = [] ∧ c.isGet = false ∧ c.remote = false ∧ c.fills = false) ∧
    (c.sh.ctl.toNat / 256 % 16 = 2 ∧ c.sh.paddr.toNat % 8 = 0 ∧ c.cluster = 0 ∧ c.sent = 0 ∧ c.ring = none ∧ c.segs = [] ∧ e.engineCheck 0 (own 0xC0) 8 .engineWrite = (.ok (some (.sram 0 0xC0)), e)) ∧
    of [] (fun t => t.bytesAt (sramKey 0 0x80) 8) (exec .copyItem r) = toBytes 8 0x3F80000040000000 ∧ of none (fun t => (t.engine 0 0).cmd.map CopyCmd.ended) (exec .copyItem (running 0x200 (2 ^ 64))) = some true ∧
    of 0 (fun t => t.byteAt (sramKey 0 0xC0)) (exec .copyCompletion e) = 0x77 ∧ of none (fun t => (t.engine 0 0).cmd) (exec .copyCompletion e) = none ∧
    of false (fun t => t.deferred) (exec .copyCompletion (e.modCluster 0 fun k => { k with engine0 := ⟨some { c with pos := 2 ^ 64, ended := true, sent := 1 }, false, 0⟩ })) = true ∧
    of false (fun t => (t.engine 0 0).cmd.isSome) (exec .copyCommandStart q) = true := by decide +kernel
/-- The two elements of the walk are read and written. -/
theorem witness_CopyEngineSteps_item : let r := running 0x200 0; let c := { cmd 0x200 with stage := .running }
    (match r.itemElems c [(0, own 0x80), (2, own 0x84)] with
      | (.ok es, u) => decide (es.length = 2) && es.all (fun x => !x.bad) && ((u.writeItem c es).1).isNone
      | _ => false) = true := by decide +kernel
theorem witness_CopyEngineSteps_pending : let l (busy : List Nat) : State := { (copying 0 []).modCluster 0 fun k => { k with pending := [{ cmd 0 with loop := true, iters := 3, busy := busy, stage := .looping }] } with arg := arg3 0 0 1 }
    let c (th : Word) (met : Bool) : CopyCmd := { cmd 0 with trig := some (some (.sram 0 0x40), th), stage := .armed, met := met }
    let a (th : Word) (met : Bool) : State := { (copying 0 []).modCluster 0 fun k => { k with pending := [c th met] } with arg := arg2 0 1 }
    ((l []).engine 0 0).free = true ∧ (cmd 0).stageNo = 0 ∧ of false (fun t => t.deferred) (exec .loopIterationStart (l [0])) = true ∧ of none (fun t => (t.engine 0 0).cmd.map CopyCmd.busy) (exec .loopIterationStart (l [])) = some [0] ∧
    BitVec.ofNat 64 (ofBytes ((a 0 true).homeBytes (.sram 0 0x40) 8)) = 0x3F80000040000000 ∧
    (((a 0x3F80000040000001 false).watchTriggers.cluster 0).pending.map CopyCmd.met = [false] ∧ ((a 0x3F80000040000000 false).watchTriggers.cluster 0).pending.map CopyCmd.met = [true]) ∧
    of false (fun t => t.deferred) (exec .triggeredCopyFire (a 0 false)) = true ∧ (a 0 true).cmdBlocked (c 0 true) = (none, a 0 true) ∧
    of [] (fun t => (t.cluster 0).pending.map CopyCmd.stage) (exec .triggeredCopyFire (a 0 true)) = [.fired] := by decide +kernel
/-- A triggered copy whose source lies in a page that is not there is held (R247). -/
theorem witness_CopyEngineSteps_held : let s := (walking 0x100000000BC)
    let c : CopyCmd := { cmd 0 with trig := some (some (.sram 0 0x40), 0), stage := .armed, met := true, smap := { map2 with base := 0x10000 } }
    let a : State := { s.modCluster 0 fun k => { k with pending := [c] } with arg := arg2 0 1, cores := (copying 0 []).cores, slots := (copying 0 []).slots }
    (a.cmdBlocked c).1.isSome = true ∧ of [] (fun t => (t.cluster 0).pending.map CopyCmd.stage) (exec .triggeredCopyFire a) = [.held] := by decide +kernel

/-- Premises of CopyInstructions and CopyEngineSteps: an undefined operation (R241); a cancelled running command; xrel behind a store; a frozen engine with an item. -/
theorem witness_CopyInstructions_refused : let s := copying 6 []; let u : State := { s with serial := s.serial + 1 }; let r := running 0 0; let q := ({ r with cores := (issued 0).cores } : State).modCore 0 fun k => { k with xq := [] }
    let w : State := { q with slots := [(0, { slot0 [] with stores := [⟨.sram 0 0x40, .zeroLine⟩] })] }; let f := r.modCluster 0 fun k => { k with engine0 := { k.engine0 with frozen := true } }
    u.issueStatus (u.newCmd 1) = (7, [], u) ∧ of 0 (fun t => (look XStat.empty (t.core 0).xstat 0).status.toNat) (exec (.xgo 5 0) s) = 7 ∧
    ((q.cmdOf 0 0).map CopyCmd.stage = some .running ∧ (look XStat.empty (q.core 0).xstat 0).used = true ∧ of none (fun t => (t.engine 0 0).cmd.map CopyCmd.stage) (exec (.xcancel 5 6 0) q) = some .cancelled) ∧
    of false (fun t => decide (t.me.park = .again (.stage 0 0))) (exec (.xrel 6 0) w) = true ∧
    ((f.itemAt (cmd 0) 0).isSome = true ∧ of none (fun t => (t.engine 0 0).cmd.map CopyCmd.pos) (exec .copyItem f) = some 0) := by decide +kernel

/-! ## Lanes, reductions, streams -/

/-- Core 0 with float registers; predicate 2 enables the lanes. -/
def floats (p : Byte) (f : SMap QWord) (x : SMap Word) : State := (one x).modMe fun sl => { sl with f := f, p := [(2, p)], lanep := 2 }

/-- Premises of LaneArithmetic (format codes at their last), and R212, R222: 1 + 2 in lane 0, lane 1 kept, the FP32 sum of 2^24 and 1 inexact to even. -/
theorem witness_LaneArithmetic : let s := floats 5 [(4, 0x40400000_4B800000_3F800000_3F800000), (5, 0x00000000_3F800000_40000000_40000000), (6, 0x77777777)] []
    ((2 : BitVec 2).toNat < 3 ∧ ∀ q ∈ [(6 : Reg), 4, 5, 7], s.streamAt q = none) ∧ s.laneOn 0 = true ∧ s.laneOn 1 = false ∧
    fOf 6 (exec (.fadd 6 4 5 0 0) s) = 0x4B80000000000000_40400000 ∧ fOf 6 (exec (.fneg 6 4 0 0) s) = 0xCB80000000000000_BF800000 ∧
    of 0 (fun t => (t.core 0).flags) (exec (.fadd 6 4 5 0 0) s) = fNX ∧ fOf 6 (exec (.fsel 6 4 5 0 0) s) = 0x000000004B80000040000000_3F800000 := by decide +kernel

/-- Premises of ReductionsComparesConversions; R226's example: BF16 lanes 256, 1, 1, 1, 0, 0, 0, 0 sum to 0x4381; a NaN compares unordered; FP32 1.5 to INT32 and to BF16. -/
theorem witness_ReductionsComparesConversions : let s := floats 0xFF [(4, 0x3F803F803F804380), (5, 0x7FC00000_3FC00000)] []
    ((1 : BitVec 2).toNat < 3 ∧ (∀ q ∈ [(6 : Reg), 4, 5], s.streamAt q = none)) ∧ ((9 : BitVec 4).toNat < 10 ∧ (9 : BitVec 5).toNat < 10 ∧ (1 : BitVec 2) ≠ 0) ∧
    fOf 6 (exec (.fsum 6 4 1 0) s) = 0x4381 ∧ of 9 (fun t => t.me.pEnd 3) (exec (.fcmp 3 0 5 5 0 0) s) = 0x0D ∧ fOf 6 (exec (.fcvt 6 5 0 0 1 0) s) = 0x7FC03FC0 ∧
    fOf 6 (exec (.fpack 6 5 5 1 0) s) = 0x000000007FC03FC0_000000007FC03FC0 ∧ fOf 6 (exec (.funpack 6 4 0 1 0) s) = 0x3F8000003F8000003F80000043800000 := by decide +kernel

/-- Premises of DivideAndRootPark: registers; a divide parked at its last cycle and past it. -/
theorem witness_DivideAndRootPark : let s (n : Nat) : State := { one [] with slots := [(0, { slot0 [] with park := .fdivide 6 0x3F800000 0xFFFFFFFF 1 23 0 })], cycle := n }
    ((0 : BitVec 2).toNat < 3 ∧ ∀ q ∈ [(6 : Reg), 4, 5], (s 0).streamAt q = none) ∧ ((s 23).slot (s 23).arg.a).park = .fdivide (6 : Reg).toNat 0x3F800000 0xFFFFFFFF 1 23 0 ∧ (s 23).cycle ≤ 23 ∧ 23 < (s 24).cycle ∧
    of 0 (fun t => (t.slot 0).getF 6) (exec .fdivFsqrtResult (s 24)) = 0x3F800000 ∧ of 0 (fun t => (t.core 0).flags) (exec .fdivFsqrtResult (s 24)) = 1 := by decide +kernel

/-- Premises of DivideAndRootPark for streams: a divide of no element parks all the same (R215, R222); a division's push waits for its cycle, then for room. -/
theorem witness_DivideAndRootPark_streams : let st (n : Nat) : Stream := ⟨true, true, 0, own 0x80, n, true, false, 0, 0⟩
    let z := (one []).modMe fun sl => { sl with streams := [(0, { st 0 with write := false })] }
    let l : List PushTo := [(own 0x80, 0x3F800000, .inl (.sram 0 0x80))]
    let p (n m : Nat) : State := { one [] with slots := [(0, { slot0 [] with park := .fpush 4 l 1 23 0, stores := List.replicate m ⟨.sram 0 0, .zeroLine⟩ })], cycle := n }
    (z.me.fences = [] ∧ z.streamIllegal 0 (some 6) [0, 5] = false ∧ z.vecLen (fmtOf 0) [6, 0, 5] = 0 ∧ z.streamIllegal 0 (some 6) [0] = false ∧ z.vecLen (fmtOf 0) [6, 0] = 0) ∧
    of false (fun t => decide (t.me.park = .fpush 0 [] 0 23 2)) (exec (.fdiv 6 0 5 0 2) z) = true ∧ of false (fun t => t.deferred) (exec .fdivFsqrtResult (p 23 0)) = true ∧
    of [] (fun t => t.me.stores) (exec .fdivFsqrtResult (p 24 0)) = [⟨.sram 0 0x80, .bytes [0, 0, 0x80, 0x3F]⟩] ∧ of 0 (fun t => (t.core 0).flags) (exec .fdivFsqrtResult (p 24 0)) = 1 := by decide +kernel

/-- Premises of ArithmeticCorners, clause by clause, and some of the values as bits (R198, R222). -/
theorem witness_ArithmeticCorners : let f := Fmt.f32
    (f.decode 0x7F800001).isNan = true ∧ f.decode 0x7FC00000 = .nan false ∧ f.decode 0x7F800000 = .inf false ∧ f.decode 0xFF800000 = .inf true ∧ f.decode 0x80000000 = .zero true ∧ f.decode 0 = .zero false ∧
    f.decode 1 = .fin false 1 (-149) ∧ f.decode 0x80000001 = .fin true 1 (-149) ∧ f.fdiv 0 0x3F800000 0 = (0x7F800000, fDZ) ∧ f.fsqrt 0 0x80000000 = (0x80000000, 0) ∧ f.fadd 0 0x7F800000 0xFF800000 = (0x7FC00000, fNV) ∧
    f.pick false 0 0x80000000 = (0x80000000, 0) ∧ f.pick true 0x7FC00000 1 = (1, 0) ∧ f.fmul 0 0x7F800001 0 = (0x7FC00000, fNV) := by decide +kernel

/-- Premises of StreamInstructions: accumulator streams on each kind of core at the last element, data streams at the end of the SRAM and past it, a stream configured and not. -/
theorem witness_StreamInstructions : let s := one [(6, own 0xFFFFC), (7, 1), (8, 2), (9, 0x200000001), (10, 4095), (11, 0x200000002), (12, 0x300000001), (13, own 2)]; let c := s.modMe fun sl => { sl with streams := [(0, ⟨true, false, 0, own 0, 9, false, false, 0, 4⟩)] }
    ((s.x 12).getLsbD 33 = true ∧ (s.x 12).getLsbD 32 = true) ∧ ((s.x 9).getLsbD 33 = true ∧ (s.x 9).getLsbD 32 = false ∧ isSup s.myCore = false ∧ (s.x 10).toNat % 4096 + 1 ≤ 4096 ∧ 4096 < (s.x 10).toNat % 4096 + 2) ∧
    ((s.x 13).toNat % 4 ≠ 0 ∧ (s.x 7).getLsbD 33 = false) ∧ (look Stream.off s.me.streams 0).configured = false ∧ (look Stream.off c.me.streams 0).configured = true ∧
    causeOf (exec (.sscfg 0 6 8 0 0) s) = cPROTECTION ∧ causeOf (exec (.sscfg 0 13 7 0 0) s) = cMISALIGN ∧ causeOf (exec (.sscfg 0 10 11 0 0) s) = cPROTECTION ∧ causeOf (exec (.ssdis 5 0 0) s) = cILLEGAL ∧
    of Stream.off (fun t => look Stream.off t.me.streams 0) (exec (.sscfg 0 6 7 0 0) s) = ⟨true, false, 0, own 0xFFFFC, 1, false, false, 0, 0⟩ ∧
    of Stream.off (fun t => look Stream.off t.me.streams 0) (exec (.sscfg 0 10 9 0 0) s) = ⟨true, false, 0, 0, 1, false, true, 4095, 0⟩ ∧ xOf 5 (exec (.ssdis 5 0 0) c) = 5 := by decide +kernel

/-- Premises of ArithmeticCorners for rounding (R199, R200): a tie to even, an overflow to infinity and to the largest number, a carry into the next binade, a subnormal, one flushed in BF16. -/
theorem witness_ArithmeticCorners_rounding : let f := Fmt.f32
    (2 ^ 24 ≤ 2 ^ 24 + 1 ∧ 2 ^ 24 + 1 < 2 ^ 25 ∧ f.frac + 1 < 25 ∧ f.round 0 false (2 ^ 24 + 1) 0 false = (0x4B800000, fNX)) ∧ f.round 0 true (2 ^ 24) 104 false = (0xFF800000, fOF ||| fNX) ∧
    (f.bias < (128 : Int) + 1 - 1 ∧ f.round 1 false 1 128 false = (0x7F7FFFFF, fOF ||| fNX)) ∧ f.round 0 false (2 ^ 25 - 1) 0 false = (0x4C000000, fNX) ∧
    f.round 0 false (2 ^ 25 + 2 ^ 24) (-170) false = (0x00000018, 0) ∧ Fmt.bf16.round 0 false 511 (-140) false = (0, fUF ||| fNX) ∧ f.round 0 false (2 ^ 25 - 1) (-151) false = (0x00800000, fNX) := by decide +kernel

/-- Premises of Streams: operands of the wrong kind; a read stream's two FP32 elements popped into a register, a write stream pushed from one; the end; elements past the SRAM; fld and fst. -/
theorem witness_Streams : let ld : Stream := ⟨true, true, 0, own 0x40, 2, false, false, 0, 0⟩; let st : Stream := ⟨true, true, 0, own 0x80, 3, true, false, 0, 1⟩
    let s := withSram 0x40 (toBytes 8 0x4000000040400000) ((floats 0xFF [(5, 0x3F8000003F8000003F8000003F800000)] [(6, own 0x40)]).modMe fun sl => { sl with streams := [(0, ld), (1, st)] })
    let z := s.modMe fun sl => { sl with streams := [(0, { ld with pos := 2 }), (1, { st with base := own 0xFFFFC })] }; let b := s.modMe fun sl => { sl with streams := [(0, { ld with base := own 0xFFFFC })] }
    (s.streamIllegal 0 (some 0) [5] = true ∧ s.streamIllegal 1 (some 6) [0] = true ∧ causeOf (exec (.fneg 0 5 0 0) s) = cILLEGAL ∧ causeOf (exec (.fcvt 6 0 0 0 1 0) s) = cILLEGAL ∧ causeOf (exec (.fld 0 6 1 0 0) s) = cILLEGAL) ∧
    (s.place (own 0x44) 4 .load = (.ok (.sram 0 0x44), s) ∧ s.poisonAt (sramKey 0 0x44) = false ∧ fOf 6 (exec (.fadd 6 0 5 0 0) s) = 0x4040000040800000 ∧
      of 9 (fun t => (look Stream.off t.me.streams 0).pos) (exec (.fadd 6 0 5 0 0) s) = 2) ∧
    (s.place (own 0x84) 4 .store = (.ok (.sram 0 0x84), s) ∧ of [] (fun t => t.me.stores) (exec (.fadd 1 0 5 0 0) s) = [⟨.sram 0 0x84, .bytes [0, 0, 0x80, 0x40]⟩, ⟨.sram 0 0x88, .bytes [0, 0, 0x40, 0x40]⟩]) ∧
    of 0 (fun t => t.me.retired) (exec (.fadd 6 0 5 0 0) z) = 1 ∧ (b.place (own 0xFFFFC + 4) 4 .load).1 = .bad cPROTECTION none ∧ causeOf (exec (.fneg 6 0 0 0) b) = cPROTECTION ∧
    causeOf (exec (.fneg 1 5 0 0) z) = cPROTECTION ∧ of [] (fun t => t.me.stores) (exec (.fst 0 6 1 2 0) s) = [⟨.sram 0 0x48, .bytes [0, 0, 0x40, 0x40]⟩] ∧
    of [] (fun t => t.me.stores) (exec (.fld 1 6 2 0 0) s) = [⟨.sram 0 0x84, .bytes [0, 0, 0x40, 0x40]⟩, ⟨.sram 0 0x88, .bytes [0, 0, 0, 0x40]⟩] := by decide +kernel

/-! ## The matrix unit -/

/-- A ring of cluster 0 over bank 1 with two stages produced and every core a consumer. -/
def ringAt (first fmt : Nat) (scale : Bool) : Ring := { Ring.undefined with defined := true, scale := scale, group := 1, first := first, nbanks := 1, fmt := BitVec.ofNat 4 fmt, cmask := 0xFF, resv := 2, head := 2 }

/-- Core 0 with BF16 rings 0 and 1, an INT4 ring 2, a scale ring 3, and bank 31 an operand buffer of BF16; the image of R271 for it lies at offset 0x100. -/
def matrix (x : SMap Word) : State :=
  (withSram 0x100 (toBytes 8 (31 + 32 + 1 * 2048 + 0xFF * 32768)) (one x)).modCluster 0 fun k =>
    { k with rings := [(0, ringAt 1 1 false), (1, ringAt 2 1 false), (2, ringAt 3 6 false), (3, ringAt 4 1 true)], banks := [(31, ⟨2, 1, false, 0⟩)] }

/-- Premises of MatrixInstructions, for rings: address 0 of an undefined ring and of one not idle; an image that is well formed, and one of zeros; a supervisor core. -/
theorem witness_MatrixInstructions_rings : let s := matrix [(6, own 0x100), (7, own 0x140), (8, own 0x104), (9, 1)]
    isSup (sup []).myCore = true ∧ isSup s.myCore = false ∧ (s.x 0 = 0 ∧ (s.ring 0 5).defined = false ∧ (s.ring 0 0).defined = true ∧ ¬ (s.ring 0 0).idle = true) ∧ ({ s.ring 0 0 with resv := 0, head := 0 } : Ring).idle = true ∧
    (s.x 8).toNat % 64 ≠ 0 ∧ s.imageWords 8 (s.x 6) = (.ok [0x7F883F, 0, 0, 0, 0, 0, 0, 0], s) ∧ (s.imageWords 8 (s.x 7)).1.toOption = some (List.replicate 8 0) ∧
    (s.imageWords 8 0x40).1.isOk = false ∧ causeOf (exec (.mring 0 0 0) s) = cRING ∧ causeOf (exec (.mring 5 7 0) s) = cPROTECTION ∧ causeOf (exec (.mring 0 6 0) s) = cRING ∧
    of Ring.undefined (fun t => t.ring 0 5) (exec (.mring 5 6 0) s) = { Ring.undefined with defined := true, first := 31, nbanks := 1, fmt := 1, cmask := 0xFF } ∧
    of 9 (fun t => (t.ring 0 5).group) (exec (.mringScale 5 6 9 0) s) = 1 := by decide +kernel

/-- Premises of MatrixInstructions, for steps: operands that serve and are ready, one not produced, a full queue, a core outside CMASK; for mepi a K of 8 and one of 9. -/
theorem witness_MatrixInstructions_steps : let s := matrix [(6, 8), (7, 9)]; let f := s.modCore 0 fun k => { k with mq := [.mzero, .mzero] }; let e := s.modCluster 0 fun k => { k with rings := put 1 { ringAt 2 1 false with head := 0 } k.rings }
    let serves (r : Ring) (fmt : Nat) : Bool := r.defined && !r.scale && r.cmask.getLsbD 0 && decide (r.fmt.toNat = fmt)
    (serves (s.ring 0 0) 1 = true ∧ serves (s.ring 0 1) 1 = true ∧ serves (s.ring 0 2) 6 = true ∧ serves (s.ring 0 3) 1 = false ∧ serves (s.ring 0 4) 1 = false) ∧ ((s.ring 0 3).defined = true ∧ (s.ring 0 3).scale = true ∧ (s.ring 0 3).cmask.getLsbD 0 = true) ∧
    0 < ctrDiff (s.ring 0 0).head ((s.ring 0 0).claimOf 0) ∧ ¬ 0 < ctrDiff (e.ring 0 1).head ((e.ring 0 1).claimOf 0) ∧ (s.core 0).mq.length < 2 ∧ 2 ≤ (f.core 0).mq.length ∧ (s.x 6).toNat % 16 ≤ 8 ∧ 8 < (s.x 7).toNat % 16 ∧
    of [] (fun t => (t.core 0).mq) (exec (.mma 0 1 0 0) s) = [.mma 0 1 0 0 0xFFFFFFFFFFFFFFFF 0 0 0x10000] ∧ of 0 (fun t => (t.ring 0 1).claimOf 0) (exec (.mma 0 1 0 0) s) = 1 ∧
    of false (fun t => decide (t.me.park = .again (.tile 1 0))) (exec (.mma 0 1 0 0) e) = true ∧ causeOf (exec (.mma 0 4 0 0) s) = cRING ∧
    of 0 (fun t => (t.ring 0 3).claimOf 0) (exec (.mmaq 3 0 2 0 0) s) = 0 ∧ of 0 (fun t => look 0 (t.ring 0 3).qcnt 0) (exec (.mmaq 3 0 2 0 0) s) = 1 ∧ causeOf (exec (.mepi 7 0) s) = cPROTECTION := by decide +kernel

/-- Premises of MatrixInstructions, for mtopk and mstat: the unit idle for the core, its queue busy, its lists poisoned, a pair at rank 0 and none at rank 1; a ring defined and not. -/
theorem witness_MatrixInstructions_results : let s := (matrix [(6, 0x100), (7, 0x10), (8, 0x1F)]).modCore 0 fun k => { k with epi := { k.epi with k := 2, lists := [(0, [(0x3F800000, 5)])] } }
    let p := s.modCore 0 fun k => { k with epi := { k.epi with poison := true } }; let q := s.modCore 0 fun k => { k with mq := [.mzero] }
    ((s.core 0).mq = [] ∧ (s.cluster 0).array = none ∧ (s.core 0).epi.running = none ∧ (s.core 0).epi.poison = false) ∧ (p.core 0).epi.poison = true ∧ (q.core 0).mq ≠ [] ∧ (s.x 7).getLsbD 4 = true ∧ (s.x 6).getLsbD 4 = false ∧
    ((s.ring 0 0).owner < 8 ∧ ((s.ring 0 0).stages : Int) - ctrDiff (s.ring 0 0).resv (s.ring 0 0).tail = 6) ∧ (s.ring 0 15).defined = false ∧
    of false (fun t => decide (t.me.park = .give 5 0x0001_0005_3F800000 0)) (exec (.mtopk 5 0 0) s) = true ∧ of false (fun t => decide (t.me.park = .give 5 0 0)) (exec (.mtopk 5 6 0) s) = true ∧ causeOf (exec (.mtopk 5 0 0) p) = cPOISON ∧ of false (fun t => decide (t.me.park = .topk 0 1 5 0)) (exec (.mtopk 5 0 0) q) = true ∧
    (let w (n : Nat) (s : State) : State := s.modMe fun sl => { sl with park := .topk 0 n 5 0 }; (w 2 q).topkStep 0 true = w 1 q ∧ ((w 1 s).topkStep 0 true).me.park = .give 5 0x0001_0005_3F800000 0 ∧ ((w 0 s).topkStep 0 false).me.park = .give 5 0x0001_0005_3F800000 0 ∧ ((w 1 p).topkStep 0 true).me.tcause = BitVec.ofNat 8 cPOISON) ∧
    xOf 5 (exec (.mstat 5 7 0) s) = 1 + 0xFF * 32 + 6 * 8192 + 2 * 2 ^ 32 ∧ xOf 5 (exec (.mstat 5 8 0) s) = 0 ∧ xOf 5 (exec (.mstat 5 6 0) q) = 0x81 := by decide +kernel

/-- A step of rings 0 and 1 in the array of cluster 0, for row 0 alone, at its last cycle; A's row 0 begins 2, 1 and B's column 0 begins 3, 0x3F80 (1). -/
def stepping (mask : Word) (b : Nat) : State :=
  let s := withSram 0x8000 [0x00, 0x40, 0x80, 0x3F] (withSram 0x10000 [0x40, 0x40] (withSram 0x10080 [0x80, 0x3F] (matrix [])))
  ({ s.modCluster 0 fun k => { k with array := some ⟨0, .mma 0 1 0 0 mask 0 9 0x444, 16⟩, steps := 1, banks := [1, 2, 3, 4].map fun b => (b, ⟨2, 1, false, 0⟩) } with cycle := 16, arg := arg2 0 b } : State).modCore 0 fun k => { k with working := [(0, 0x3F800000)] }

/-- Premises of MatrixUnitSteps, for the array: a busy and an idle unit; a ready head with credit, with none, under a budget used up; a step before and at its cycle, checked, once and twice mismatched. -/
theorem witness_MatrixUnitSteps_array : let g (credit : Nat) (budget : BitVec 8) : State := ((matrix []).modCore 0 fun k => { k with mq := [.mma 0 1 0 0 1 0 0 0] }).modCluster 0 fun k => { k with credit := credit, budget := budget }
    let s := stepping 1 0
    (((g 1 0).cluster 0).array = none ∧ ((g 1 0).core 0).mq = [.mma 0 1 0 0 1 0 0 0] ∧ ((g 1 0).cluster 0).ptr = 0 ∧ cornerOf (sectorOf 0) = 0 ∧ ((g 1 0).ring 0 0).fmt = 1) ∧ ((g 1 0).core 1).mq = [] ∧
    ((0 : BitVec 8) = ((g 1 0).cluster 0).budget ∧ ((g 1 1).cluster 0).budget ≠ 0 ∧ (((g 1 1).modCluster 0 fun k => { k with granted := 1 }).cluster 0).granted = 1) ∧
    ((s.cluster 0).array = some ⟨0, .mma 0 1 0 0 1 0 9 0x444, 16⟩ ∧ clusterOf 0 = 0 ∧ s.arg.b = 0 ∧ (s.ring 0 0).scale = false ∧ (s.ring 0 1).fmt = 1 ∧ ¬ s.cycle < 16 ∧ s.poison = [] ∧ (stepping 0 2).arg.b = 2 ∧ ((stepping 0 2).slot 0).actNo ≠ 9) ∧
    of none (fun t => (t.cluster 0).array.map Step.due) (exec .matrixGrant (g 1 0)) = some 16 ∧ of 0 (fun t => (t.cluster 0).credit) (exec .matrixGrant (g 0 0)) = 0 ∧
    of none (fun t => (t.cluster 0).array.map Step.due) (exec .matrixGrant ((g 1 1).modCluster 0 fun k => { k with granted := 1 })) = none ∧ of 0 (fun t => (t.core 0).govstall) (exec .matrixGrant ((g 1 1).modCluster 0 fun k => { k with granted := 1 })) = 1 ∧
    of 0 (fun t => t.records.length) (exec .matrixStepRetire (stepping 0 2)) = 1 ∧ of none (fun t => (t.cluster 0).array.map Step.due) (exec .matrixStepRetire (stepping 0 1)) = some 32 := by decide +kernel

/-- R210, R266: 1 + 2 * 3 + 1 * 1 = 8 at row 0, column 0; a masked row keeps its value. -/
theorem test_mma_value : of 0 (fun t => look 0 (t.core 0).working 0) (exec .matrixStepRetire (stepping 1 0)) = 0x41000000 := by decide +kernel
theorem test_mma_masked : of 0 (fun t => look 0 (t.core 0).working 0) (exec .matrixStepRetire (stepping 0 0)) = 0x3F800000 := by decide +kernel

/-- Core 0 with a head at its queue, and an epilogue's state. -/
def heading (m : MatCmd) (e : Epi) : State := (one []).modCore 0 fun k => { k with mq := [m], epi := e, working := [(0, 0x40000000)], visible := [(0, 0x3F800000), (1, 0x7FC00000), (2, 0x40400000)] }

/-- Premises of MatrixUnitSteps, for queue heads and epilogues: no head, each kind of head with no epilogue running, one held by an epilogue; an epilogue before its cycle and at it, with a row in and a row out. -/
theorem witness_MatrixUnitSteps_queue : let w : State := (heading (.mswap 0 0 1 7) { Epi.reset with k := 1 }).modMe fun sl => { sl with park := .swap 0 }; let r (n : Nat) : State := { heading .mzero { Epi.reset with k := 1, colnext := 10, limit := 12, running := some (1, 0x3F80), due := 64, lists := [(1, [(5, 5)])] } with cycle := n }
    ((one []).core 0).mq = [] ∧ ((heading .mzero Epi.reset).core 0).mq.head? = some .mzero ∧ ((heading .mzero Epi.reset).core 0).epi.running = none ∧ ((heading (.mepi 0x70) Epi.reset).core 0).mq.head? = some (.mepi 0x70) ∧ (w.slot 0).park = .swap 0 ∧ (w.slot 0).actNo = 0 ∧
    (((r 63).core 0).epi.running = some (1, 0x3F80) ∧ (r 63).cycle < 64 ∧ ¬ (r 64).cycle < 64) ∧ (look [] ((r 64).core 0).epi.lists 0).length ≤ 1 ∧
    of [(9, 9)] (fun t => (t.core 0).working) (exec .matrixQueueCommandPerform (heading .mzero Epi.reset)) = [] ∧ of 9 (fun t => (t.core 0).epi.k) (exec .matrixQueueCommandPerform (heading (.mepi 0x70) Epi.reset)) = 0 ∧
    of none (fun t => find? (t.core 0).epi.gens 1) (exec .matrixQueueCommandPerform (heading (.mseed 0) Epi.reset)) = some 0x9E3779B97F4A7C15 ∧ of none (fun t => find? (t.core 0).epi.gens 0) (exec .matrixQueueCommandPerform (heading (.mseed 0) Epi.reset)) = some 1 ∧
    of 0 (fun t => look 0 (t.core 0).visible 0) (exec .matrixQueueCommandPerform w) = 0x40000000 ∧ of 0 (fun t => (t.core 0).epi.due) (exec .matrixQueueCommandPerform w) = 64 ∧
    of [] (fun t => look [] (t.core 0).epi.lists 0) (exec .epilogueComplete (r 64)) = [(0x3F800000, 10)] ∧ of [] (fun t => look [] (t.core 0).epi.lists 1) (exec .epilogueComplete (r 64)) = [(5, 5)] ∧
    of 0 (fun t => (t.core 0).epi.colnext) (exec .epilogueComplete (r 64)) = 74 := by decide +kernel

/-- R268: the generator's first value from 1, and g at three points. -/
theorem test_noise : xorshift 1 = 0x40822041 ∧ gumbel 0 = 0xC00D ∧ gumbel 2048 = 0x3EBC ∧ gumbel 4095 = 0x4110 := by decide +kernel

/-- R207's own examples: FP4 -6 by 2 is -12; INT4 7 by 1.0078125 rounds to 7.0625. -/
theorem test_dequant : dequantRule true 15 0x4000 = (0xC140, 0) ∧ dequantRule false 7 0x3F81 = (0x40E2, fNX) := by decide +kernel

/-- Premises of MatrixUnitSteps for mmaq (rings 0, 2, 3: BF16 tile, INT4 weights, BF16 scales): at its cycle, its scale ring's stage not yet returned; row 0 of the tile begins with 2, column 0 of the weights with 3, its scale is 2, so 1 + 2 * 6 = 13. -/
theorem witness_MatrixUnitSteps_quantised : let s := ((withSram 0x20000 [0x00, 0x40] (withSram 0x18000 [0x03] (stepping 1 0))).setBytes (sramKey 0 0x8002) [0, 0]).modCluster 0 fun k => { k with array := some ⟨0, .mmaq 0 2 3 0 0 0 1 0 9 0x444, 16⟩ }
    let t := of s id (exec .matrixStepRetire s); let roles (r : Ring) := ([0, r.stageBytes - 1].map fun j => (look Bank.reset (s.cluster 0).banks ((r.base 0 + j) / 32768)).role)
    ((s.ring 0 0).scale = false ∧ (s.ring 0 2).scale = false ∧ (s.ring 0 3).scale = true ∧ (s.ring 0 0).fmt = 1 ∧ (s.ring 0 2).fmt = 6) ∧ ([0, 2, 3].map fun i => roles (s.ring 0 i)) = [[2, 2], [2, 2], [2, 2]] ∧
    look 0 (t.core 0).working 0 = 0x41500000 ∧ (t.ring 0 0).popOf 0 = 1 ∧ (t.ring 0 2).popOf 0 = 1 ∧ (t.ring 0 3).popOf 0 = 0 ∧ look 0 (t.ring 0 3).qret 0 = 1 := by decide +kernel

/-- Premises of MatrixUnitSteps for the governor (R265): a request that is one of those allowed, and one refused again in the cycle the window's rest is divided; a pair that outranks another. -/
theorem witness_MatrixUnitSteps_governor : let g (k : Cluster → Cluster) : State := (((matrix []).modCore 0 fun k => { k with mq := [.mma 0 1 0 0 1 0 0 0] }).modCluster 0 fun k => { k with credit := 1, budget := 2 }).modCluster 0 k
    let none' := g id; let used := g fun k => { k with granted := 2, govAt := 1 }
    none'.requests 0 = true ∧ of none (fun t => (t.cluster 0).array.map Step.due) (exec .matrixGrant none') = some 16 ∧
    ((used.cluster 0).govAt = used.cycle + 1 ∧ (used.cluster 0).govSet.contains 0 = false) ∧ of none (fun t => (t.cluster 0).array.map Step.due) (exec .matrixGrant used) = none ∧
    ((Fmt.f32.decode 0x40400000).lt (Fmt.f32.decode 0x3F800000) = false ∧ (Fmt.f32.decode 0x3F800000).lt (Fmt.f32.decode 0x40400000) = true) := by decide +kernel

/-! ## Meridian -/

/-- A shadow for a matrix of one row and two columns at offset 0x200, one copy, both capacities 1, epsilon 1, floor 0, overflow to column 1. -/
def shadow : MerShadow := { MerShadow.reset with loaded := true, src := own 0x200, rows := 1, cols := 2, stride := 8, capmode := 2, capall := 1, cfg := 16 + 1 * 8192 + 1 * 65536 + 1 * 524288, eps := 0x3F800000, configured := true }

/-- Core 0, whose slot 0 has that shadow; the scores 5 and 3 lie at offset 0x200; the partition owns sector 0's bias vector. -/
def meridian (x : SMap Word) : State :=
  ((withSram 0x200 (toBytes 4 0x40A00000 ++ toBytes 4 0x40400000) (one x)).modMe fun sl => { sl with mshadow := shadow }).modCluster 0 fun k => { k with biaspart := 1 }

/-- The same with the slot's shadow in the take order of sector 0. -/
def waiting (h : MerShadow) : State :=
  { (meridian []).modMe fun sl => { sl with mshadow := h, park := .merGo 5 0, waiting := true } with sectors := [(0, { Sector.reset with order := [0] })] }

/-- An auction of slot 0 for that shadow. -/
def auction : Auction := ⟨7, 0, 1, shadow, 0, [], [(0, 1), (1, 1)], [(0, [(0, 0x40A00000), (1, 0x40400000)])], [], [], 0, false, true, 0, false, false⟩

/-- A state whose sector 0 has that auction in a buffer, running. -/
def bidding (a : Auction) (x : SMap Word) : State :=
  { (meridian x).modMe fun sl => { sl with auction := some 7 } with sectors := [(0, { Sector.reset with buffers := [a], current := some 7 })] }

/-- Premises of AssignmentShadowAndTake, for the shadow: addresses aligned and not; sizes at their ends and past them; a configuration good and not; a shadow whole and not. -/
theorem witness_AssignmentShadowAndTake_shadow : let s := meridian [(6, 0x42), (7, 0x44), (8, 512 + 256 * 65536), (9, 513 + 65536), (10, 1 + 8192), (11, 0x3F800000), (12, 512), (13, 513), (14, 0x48), (15, 0x41)]
    isSup (sup []).myCore = true ∧ isSup s.myCore = false ∧ (s.x 6).toNat % 4 ≠ 0 ∧ (s.x 7).toNat % 4 = 0 ∧ (s.x 7).toNat % 8 ≠ 0 ∧ (s.x 14).toNat % 8 = 0 ∧ (s.x 12).toNat ≤ 512 ∧ ¬ (s.x 13).toNat ≤ 512 ∧ (s.x 6).toNat % 2 = 0 ∧ (s.x 15).toNat % 2 ≠ 0 ∧
    (bitsAt (s.x 8) 0 10 = 512 ∧ bitsAt (s.x 8) 16 9 = 256 ∧ bitsAt (s.x 9) 0 10 = 513) ∧ (bitsAt (s.x 10) 0 13 = 1 ∧ bitsAt (s.x 10) 13 3 = 1 ∧ bitsAt (s.x 11) 0 32 < 2 ^ 31) ∧ ((one []).me.mshadow.loaded = false) ∧ s.me.mshadow.capmode ≠ 0 ∧ s.me.fences = [] ∧
    of MerShadow.reset (fun t => t.me.mshadow) (exec (.merLoadTile 7 8 0) s) = { shadow with src := 0x44, rows := 512, cols := 256, stride := 1024 } ∧ causeOf (exec (.merLoadTile 7 9 0) s) = cPROTECTION ∧
    of MerShadow.reset (fun t => t.me.mshadow) (exec (.merLoadCand 14 8 0) s) = { shadow with src := 0x48, rows := 512, cols := 256, smode := true } ∧ of 0 (fun t => t.me.mshadow.eps) (exec (.merCfg 10 11 0) s) = 0x3F800000 ∧ causeOf (exec (.merCfg 10 0 0) s) = cPROTECTION ∧
    of [] (fun t => (t.sector 0).order) (exec (.merGo 5 0) s) = [0] ∧ causeOf (exec (.merGo 5 0) (one [])) = cPROTECTION := by decide +kernel

/-- Premises of AssignmentShadowAndTake, for the take: a frozen, a busy and an idle engine; a restored auction; a shadow with and without a free buffer. -/
theorem witness_AssignmentShadowAndTake_take : let s := waiting shadow; let n := s.sector 0
    (s.arg.a = 0 ∧ n.frozen = false ∧ n.current = none ∧ n.resume = [] ∧ n.order = [0] ∧ n.buffers.length < 4 ∧ slotSector 0 = 0 ∧ (s.slot 0).park = .merGo 5 0 ∧ s.biasPart 0 ≠ 0 ∧ s.biasPart 0 = s.corePart 0) ∧
    of 0 (fun t => (t.sector 0).buffers.length) (exec .auctionTake s) = 1 ∧ of [] (fun t => ((t.sector 0).buffers.map Auction.cands).headD []) (exec .auctionTake s) = [(0, [(0, 0x40A00000), (1, 0x40400000)])] ∧
    of false (fun t => t.deferred) (exec .auctionTake { s with sectors := [(0, { n with buffers := [auction, auction, auction, auction] })] }) = true ∧
    of none (fun t => (t.sector 0).current) (exec .auctionTake { s with sectors := [(0, { n with resume := [7] })] }) = some 7 := by decide +kernel
/-- The state in hand at that take, whatever its slots and sectors have become. -/
theorem witness_AssignmentShadowAndTake_read : let s := waiting shadow
    ∀ v : State, v = { s with slots := v.slots, serial := v.serial, sectors := v.sectors } → v.merPieces 0 0 shadow.items = ((toBytes 4 0x40A00000 ++ toBytes 4 0x40400000, []), v) := by
  intro s v h; rw [h]
  generalize v.slots = sl; generalize v.serial = n; generalize v.sectors = z
  have i : shadow.items = [(own 0x200, 8)] := by decide +kernel
  have e : linePieces (8 + 1) (own 0x200) 8 = [(own 0x200, 8)] := by decide +kernel
  have m : s.homeBytes (.sram 0 0x200) 8 = toBytes 4 0x40A00000 ++ toBytes 4 0x40400000 := by decide +kernel
  have r : ({ s with slots := sl, serial := n, sectors := z } : State).engineReadBy (.meridian 0) 0 (own 0x200) 8 = (.ok (toBytes 4 0x40A00000 ++ toBytes 4 0x40400000, false), { s with slots := sl, serial := n, sectors := z }) := by
    unfold State.engineReadBy; rw [e]
    have k : ({ s with slots := sl, serial := n, sectors := z } : State).engineChecksBy (.meridian 0) 0 .engineRead [(own 0x200, 8)] = (.ok [(some (.sram 0 0x200), 8)], { s with slots := sl, serial := n, sectors := z }) := rfl
    rw [k, ← m]; simp only [List.foldl, List.flatMap_cons, List.flatMap_nil, List.append_nil]; rfl
  rw [i]; simp only [State.merPieces, r]; rfl
/-- A partition under reset refuses every item of the take. -/
theorem witness_AssignmentShadowAndTake_fails : let h : MerShadow := { shadow with capmode := 1, capaddr := own 0x40 }; let s : State := { waiting h with parts := [(1, { part1 with st := 3 })] }
    (∀ v : State, v = { s with slots := v.slots, serial := v.serial, sectors := v.sectors } → v.merPieces 0 0 h.items = ((List.replicate 12 0, [⟨5, 0, own 0x40, none⟩, ⟨5, 0, own 0x200, none⟩]), v)) ∧
    (s.slot 0).merfault = 0 ∧ of 0 (fun t => (t.slot 0).merfault) (exec .auctionTake s) = 5 := by
  refine ⟨?_, by decide +kernel⟩; intro v h; rw [h]; rfl

/-- Premises of AssignmentShadowAndTake, for a row's bytes in each mode. -/
theorem witness_AssignmentShadowAndTake_rows : let c : MerShadow := { shadow with smode := true }; let l := toBytes 8 (0x0001_0001_40400000) ++ List.replicate 56 0
    (c.smode = true ∧ l.length = 64 ∧ rowCands c [1, 1] l = [(1, 0x40400000)]) ∧ shadow.smode = false ∧ (toBytes 4 0x40A00000 ++ toBytes 4 0x7F800000).length = 4 * shadow.cols.toNat ∧
    rowCands shadow [1, 1] (toBytes 4 0x40A00000 ++ toBytes 4 0x7F800000) = [(0, 0x40A00000)] := by decide +kernel

/-- Premises of AuctionRoundsAndResults, for the round: nothing running; abandoned; frozen; every copy held; stuck; at its limit; one that bids. R290: the bid is 0 + (5 - 3) + 1 = 3. -/
theorem witness_AuctionRoundsAndResults_round : let s := bidding auction []; let held : Auction := { auction with held := [(0, (0, 0x40400000))] }; let stuck : Auction := { auction with cands := [] }
    ((one []).sector 0).current = none ∧ ((s.sector 0).current = some 7 ∧ auction.abandon = false ∧ (s.sector 0).frozen = false ∧ auction.sh.copies ≤ 4 ∧ auction.rounds < auction.sh.roundLimit ∧ risingKeys auction.held = true) ∧
    (find? auction.held 0 = none ∧ 0 / 4 < auction.rows ∧ 0 % 4 < auction.sh.copies ∧ auction.above 0 (auction.heldByRow 0) ≠ [] ∧ stuck.above 0 [] = [] ∧ find? held.held 0 ≠ none) ∧ auction.bid 0 [] = some (0, 0x40400000) ∧
    of [] (fun t => ((t.sector 0).buffers.map Auction.held).headD []) (exec .auctionRound s) = [(0, (0, 0x40400000))] ∧ of 0 (fun t => ((t.sector 0).buffers.headD auction).price 0) (exec .auctionRound s) = 0x40400000 ∧
    of 0 (fun t => ((t.sector 0).buffers.headD auction).cause) (exec .auctionRound (bidding held [])) = 1 ∧ of 0 (fun t => ((t.sector 0).buffers.headD auction).cause) (exec .auctionRound (bidding stuck [])) = 2 ∧
    of 0 (fun t => ((t.sector 0).buffers.headD auction).cause) (exec .auctionRound (bidding { auction with rounds := 16 } [])) = 3 ∧ of [auction] (fun t => (t.sector 0).buffers) (exec .auctionRound (bidding { auction with abandon := true } [])) = [] ∧
    of false (fun t => t.deferred) (exec .auctionRound { s with sectors := [(0, { s.sector 0 with frozen := true })] }) = true ∧
    (((s.merFreeze 0 0x240).sector 0).buffers.map fun x => (x.ran, x.held)) = [(false, [])] ∧ (s.merFreeze 0 0x240).records.map (fun r => r.w2) = [4] := by decide +kernel

/-- The auction stopped, with its copy held. -/
def stopped : Auction := { auction with held := [(0, (0, 0x40400000))], prices := [(0, 0x40400000)], rounds := 1, stopped := true, cause := 1 }

/-- Premises of AuctionRoundsAndResults, for the instructions: no auction; one that runs; one stopped; aligned and misaligned addresses; an owned and a foreign bias vector; a finite factor and an infinite one. -/
theorem witness_AuctionRoundsAndResults_instructions : let x : SMap Word := [(6, own 0x240), (7, own 0x280), (8, 4), (9, 0x7F800000), (10, 0x40000000)]; let s := bidding stopped x; let r := bidding auction x; let n := meridian x
    (isSup s.myCore = false ∧ s.me.park = .run ∧ s.me.fences = [] ∧ (s.x 6).toNat % 64 = 0 ∧ (s.x 8).toNat % 8 ≠ 0 ∧ s.biasPart 0 = s.corePart 0 ∧ (two []).biasPart 0 = 0) ∧ n.auctionOf n.cur = none ∧ s.auctionOf s.cur = some stopped ∧ stopped.stopped = true ∧
    r.auctionOf r.cur = some auction ∧ auction.stopped = false ∧ stopped.ran = true ∧ (stopped.held.all fun e => decide (e.2.1 < 256)) = true ∧
    of false (fun t => decide (t.me.park = .give 5 0x40000001 0)) (exec (.merStat 5 0) s) = true ∧ xOf 5 (exec (.merStat 5 0) n) = 0 ∧ of false (fun t => decide (t.me.park = .again (.auction 7))) (exec (.merStat 5 0) r) = true ∧
    (let w := fun (p : Park) => (s.modMe fun sl => { sl with park := p } : State);
      of none (fun t => some t.me.park) (exec (.merOut 6 7 0) s) = some (.merOut (own 0x240) (own 0x280) 0) ∧ of none (fun t => some t.me.park) (exec (.merSnap 5 6 0) s) = some (.merSnap (own 0x240) [0x40400000, 0] 5 2 0) ∧
      of [] (fun t => t.bytesAt (sramKey 0 0x240) 8) (exec .slotWake (w (.merOut (own 0x240) (own 0x280) 0))) = [0, 0, 0xFF, 0xFF, 0xFF, 0xFF, 0xFF, 0xFF] ∧
      of [] (fun t => t.bytesAt (sramKey 0 0x240) 4) (exec .slotWake (w (.merSnap (own 0x240) [0x40400000, 0] 5 2 0))) = [0, 0, 0x40, 0x40] ∧
      of false (fun t => t.deferred) (exec .slotWake ({ w (.merOut (own 0x240) (own 0x280) 0) with sectors := [(0, { s.sector 0 with frozen := true })] } : State)) = true) ∧
    of false (fun t => decide (t.me.park = .give 5 1 0)) (exec (.merBias 5 10 0) s) = true ∧ of false (fun t => decide (t.me.park = .again (.meridian 0))) (exec (.merSnap 5 6 0) { s with sectors := [(0, { s.sector 0 with frozen := true })] }) = true ∧ of 0 (fun t => look 0 (t.sector 0).bias 0) (exec (.merBias 5 10 0) s) = 0x40C00000 ∧ causeOf (exec (.merBias 5 9 0) s) = cPROTECTION ∧
    ofBytes ((stopped.raggedBytes.drop 2).take 2) = 1 ∧ ofBytes (({ stopped with held := [] } : Auction).assignBytes.take 2) = 0x8001 := by decide +kernel

/-- Premise of AuctionRoundsAndResults: the engine may write 8 bytes at offset 0x240 whatever it has written. -/
theorem witness_AuctionRoundsAndResults_writes : (bidding stopped []).engineMayWrite (.meridian 0) 0 (own 0x240) 8 0 0x240 := by
  intro v h x m
  have e : linePieces (8 + 1) (own 0x240) 8 = [(own 0x240, 8)] := by decide +kernel
  rw [e] at m; cases List.mem_singleton.mp m; rw [h]; rfl
theorem witness_AuctionRoundsAndResults_bias : let s := withSram 0x400 (List.replicate 1024 0) (bidding stopped [(6, own 0x400)])
    (s.imageWords 128 (s.x 6)).1.toOption = some (List.replicate 128 0) ∧ (s.imageWords 128 (s.x 6)).2 = s := by decide +kernel

/-- Premises of AuctionRoundsAndResults, for the ranking (R290): a kept offer and a rejected one of the same column; held bids that are finite. -/
theorem witness_AuctionRoundsAndResults_ranking : let a : Auction := { auction with sh := { shadow with rows := 2 }, cands := [(0, [(0, 0x40A00000)]), (1, [(0, 0x40400000)])] }; let b := ((of none (fun t => (t.sector 0).buffers.head?) (exec .auctionRound (bidding a []))).getD auction)
    a.bids = [(0, 0, 0x40C00000), (4, 0, 0x40800000)] ∧ (∀ x ∈ a.bids, x.2.2.toNat % 2 ^ 31 < 0x7F800000) ∧ b.held = [(0, (0, 0x40C00000))] ∧ b.price 0 = 0x40C00000 ∧ a.cap 0 = 1 ∧ less32 0x40800000 0x40C00000 = true := by decide +kernel

/-! ## The launch unit -/

/-- Launch queue 3 and completion queue 2 are the partition's; event 5 is the partition's; a record of MODE 0 with one handle at offset 0x300 lies at offset 0x200, with event 5's count of 4 awaited. -/
def recordImage : List Byte := (([2 * 4 + 64 + 128 + 7 * 1024, 0x77, 0x80000000FF000300, 1, 0, 11, 12, 13, 5 + 4 * 2 ^ 32] : List Nat).map fun w => toBytes 8 w).flatten
def launching (f : Launch → Launch) (x : SMap Word) : State :=
  { withSram 0x200 recordImage (one x) with launch := f { Launch.reset with queues := [(3, ⟨1, 2, true, [], 9⟩)], comps := [(2, ⟨1, true, [], none, []⟩)], events := [(5, ⟨0, 1, 0, false, false, 0, 0⟩)] } }

/-- That record as the queue holds it. -/
def lrec : LRec := ⟨0, 2, true, 7, 0x77, own 0x300, 1, 0, 11, 12, 13, [0x0000000400000005], 0, 1, 3, 9⟩
def crec : CRec := ⟨0x1234, 2, 3, 4⟩
def arm : Arm := ⟨0, 1, 0x600, own 0x240⟩

/-- Premises of LaunchInstructions, for queues and events: a foreign queue and the own one with and without room, a misaligned address, a record that reads and one that does not, a malformed one; events. -/
theorem witness_LaunchInstructions_queues : let s := launching id [(6, own 0x200), (7, own 0x220), (8, 5), (9, 6), (10, 2)]; let f := launching (fun l => { l with queues := [(3, ⟨1, 2, true, List.replicate 32 lrec, 9⟩)] }) [(6, own 0x200)]
    let h := s.modMe fun sl => { sl with stores := [⟨.sram 0 0x40, .zeroLine⟩] }; let ws := (s.imageWords 8 (s.x 6)).1
    (s.me.fences = [] ∧ (s.lqueue 3).en = true ∧ (s.lqueue 3).part.toNat = s.corePart 0 ∧ s.corePart 0 ≠ 0 ∧ (s.lqueue 4).en = false ∧ (s.x 6).toNat % 32 = 0 ∧ (s.x 8).toNat % 32 ≠ 0 ∧ (f.lqueue 3).recs.length = 32) ∧
    (ws.toOption.map fun l => (bitsAt (l.getD 0 0) 0 2, bitsAt (l.getD 0 0) 7 3, bitsAt (l.getD 3 0) 0 9)) = some (0, 1, 1) ∧ (s.imageWords 8 (s.x 6)).2 = s ∧ (s.imageWords 1 (s.x 6 + 64)).1.toOption = some [0x400000005] ∧ (s.imageWords 8 0).1.isOk = false ∧
    (s.released s.cur .ch = true ∧ h.released h.cur .ch = false ∧ (s.event 5).part.toNat = 1 ∧ (s.event 6).part.toNat = 0 ∧ s.me.stores = []) ∧
    of [] (fun t => (t.lqueue 3).recs) (exec (.lqPush 3 6 0) s) = [lrec] ∧ of 0 (fun t => (t.lqueue 3).seq) (exec (.lqPush 3 6 0) s) = 10 ∧ causeOf (exec (.lqPush 3 7 0) s) = cPROTECTION ∧ causeOf (exec (.lqPush 4 6 0) s) = cPROTECTION ∧ causeOf (exec (.lqPush 3 8 0) s) = cMISALIGN ∧
    of false (fun t => decide (t.me.park = .push { lrec with seq := 0 } 0)) (exec (.lqPush 3 6 0) f) = true ∧ of false (fun t => decide (t.me.park = .push { lrec with seq := 0 } 0)) (exec (.lqPush 3 6 0) h) = true ∧ xOf 5 (exec (.lqStat 5 3 0) f) = 32 + 2 * 64 + 256 + 9 * 65536 ∧
    of [] (fun t => t.me.fences.map FenceCond.sig) (exec (.evSig 8 10 0) s) = [some (.event 5 false 2)] ∧ causeOf (exec (.evSig 9 10 0) s) = cPROTECTION := by decide +kernel

/-- Premises of LaunchInstructions, for the wake of a parked push: its queue taken away, full, and with room. -/
theorem witness_LaunchInstructions_push : let s (en : Bool) (l : List LRec) : State := (launching (fun k => { k with queues := [(3, ⟨1, 2, en, l, 9⟩)] }) []).modMe fun sl => { sl with park := .push { lrec with seq := 0 } 0 }
    (((s true []).slot (s true []).arg.a).park = .push { lrec with seq := 0 } 0 ∧ (s true []).me.frozen = false ∧ ((s true []).lqueue 3).en = true ∧ ((s false []).lqueue 3).en = false) ∧ of false (fun t => decide (t.me.park = .run)) (exec .slotWake (s false [])) = true ∧
    of false (fun t => t.deferred) (exec .slotWake (s true (List.replicate 32 lrec))) = true ∧ of false (fun t => t.deferred) (exec .slotWake ((s true []).modMe fun sl => { sl with stores := [⟨.sram 0 0x40, .zeroLine⟩] })) = true ∧ of [] (fun t => (t.lqueue 3).recs) (exec .slotWake (s true [])) = [lrec] ∧ of 9 (fun t => t.me.pc) (exec .slotWake (s true [])) = 0x10004 := by decide +kernel

/-- Premises of LaunchInstructions, for completion queues: a foreign queue; an empty one; a record behind another's registration; one to be had; for the arm a good and a bad PC, an arm already there. -/
theorem witness_LaunchInstructions_pops : let q (recs : List CRec) (regs : List (Option Nat)) (a : Option Arm) := launching (fun l => { l with comps := [(2, ⟨1, true, recs, a, regs⟩)] }) [(6, own 0x240), (7, 0x600), (8, 0x601)]
    ((q [] [] none).cqueue 2).en = true ∧ ((q [] [] none).cqueue 1).en = false ∧ ((q [crec] [some 4] none).cqueue 2).regs = [some 4] ∧ (some 4 : Option Nat) ≠ some (q [] [] none).cur ∧ ((q [] [] none).x 7).toNat % 2 = 0 ∧ ((q [] [] none).x 8).toNat % 2 = 1 ∧ ((q [] [none] (some arm)).cqueue 2).arm ≠ none ∧
    giveOf 5 (exec (.cqPop 5 6 2 0) (q [crec] [] none)) = 0x1234 ∧ of 0 (fun t => t.me.stores.length) (exec (.cqPop 5 6 2 0) (q [crec] [] none)) = 4 ∧ causeOf (exec (.cqPop 5 6 1 0) (q [] [] none)) = cPROTECTION ∧
    of [] (fun t => (t.cqueue 2).regs) (exec (.cqPop 5 6 2 0) (q [crec] [some 4] none)) = [some 4, some 0] ∧ of none (fun t => (t.cqueue 2).arm) (exec (.cqPopAct 7 6 2 0) (q [] [] none)) = some arm ∧
    causeOf (exec (.cqPopAct 8 6 2 0) (q [] [] none)) = cPROTECTION ∧ causeOf (exec (.cqPopAct 7 6 2 0) (q [] [none] (some arm))) = cPROTECTION := by decide +kernel
theorem witness_LaunchInstructions_place : let s : State := { one [(6, own 0x240), (7, own 0x100000)] with launch := { Launch.reset with comps := [(2, ⟨1, true, [crec], none, []⟩)] } }; let off := { s.cqueue 2 with regs := (s.cqueue 2).regs.filter (· != some s.cur) }
    (∀ u, s.compIs 2 off u → u.place (s.x 6) 32 .store = (.ok (.sram 0 0x240), u)) ∧ ∀ u, s.compIs 2 off u → u.place (s.x 7) 32 .store = (.bad cPROTECTION none, u) := by
  intro s off
  have e : s.x 6 = own 0x240 := by decide +kernel
  have f : s.x 7 = own 0x100000 := by decide +kernel
  rw [e, f]; refine ⟨fun u h => ?_, fun u h => ?_⟩
  · have c : u.myCore = coreOf 0 := congrArg coreOf (by rw [h.1]; rfl)
    unfold State.place; rw [if_neg (by decide +kernel), c, h.1]; rfl
  · rw [h.1]; rfl

/-- An expansion of that record, its handle as read. -/
def expanding (h : Word) : Expansion := ⟨40, lrec, 0, 0, 0, 0, 0, none, false, some [h], 0⟩
def sending (x : Expansion) : State := { credited (tab []) with launch := { Launch.reset with exps := [x], queues := [(3, ⟨1, 2, true, [], 9⟩)], comps := [(2, ⟨1, true, [], none, []⟩)] } }

/-- Premises of LaunchUnitSteps, for an ev.sig: a store of the slot before it, and none. -/
theorem witness_LaunchUnitSteps_signal : let s (st : List PendStore) : State := { (launching id []).modMe (fun sl => { sl with stores := st, fences := [⟨.ch, 14, 0, st.length, 0, [], some (.event 5 false 2)⟩] }) with arg := arg2 1 0 }
    ((s []).fenceMet 0 ⟨.ch, 14, 0, 0, 0, [], some (.event 5 false 2)⟩ = true ∧ (s [⟨.sram 0 0, .zeroLine⟩]).fenceMet 0 ⟨.ch, 14, 0, 1, 0, [], some (.event 5 false 2)⟩ = false) ∧
    of 0 (fun t => (t.event 5).count) (exec .launchRecordTake (s [])) = 2 ∧ of [] (fun t => t.me.fences) (exec .launchRecordTake (s [])) = [] ∧ of false (fun t => t.deferred) (exec .launchRecordTake (s [⟨.sram 0 0, .zeroLine⟩])) = true := by decide +kernel

/-- Premises of LaunchUnitSteps, for the take: a candidate, one whose event failed, one not met, one taken this cycle. -/
theorem witness_LaunchUnitSteps_take : let s (e : EvReg) (n : Nat) := launching (fun l => { l with queues := [(3, ⟨1, 2, true, [lrec], 9⟩)], events := [(5, e)], took := n }) []
    ((s ⟨4, 1, 0, false, false, 0, 0⟩ 0).evMet 0x400000005 = true ∧ (s ⟨3, 1, 0, false, false, 0, 0⟩ 0).evMet 0x400000005 = false ∧ ((s ⟨0, 1, 0, false, true, 0, 0⟩ 0).event 5).failed = true ∧ (s ⟨0, 1, 0, false, true, 0, 0⟩ 0).expanding < 64 ∧ (part1.st.toNat < 2) ∧ (s ⟨4, 1, 0, false, false, 0, 0⟩ 1).cycle + 1 = 1) ∧
    ((List.range 16).filter fun q => ((s ⟨4, 1, 0, false, false, 0, 0⟩ 0).lqueue q).en) = [3] ∧
    of [] (fun t => t.launch.exps.map Expansion.lrec) (exec .launchRecordTake (s ⟨4, 1, 0, false, false, 0, 0⟩ 0)) = [lrec] ∧ of 9 (fun t => t.launch.exps.length) (exec .launchRecordTake (s ⟨3, 1, 0, false, false, 0, 0⟩ 0)) = 0 ∧
    of [] (fun t => t.launch.exps.map Expansion.failed) (exec .launchRecordTake (s ⟨0, 1, 0, false, true, 0, 0⟩ 0)) = [some (0, 1)] ∧ of false (fun t => t.deferred) (exec .launchRecordTake (s ⟨4, 1, 0, false, false, 0, 0⟩ 1)) = true := by decide +kernel

/-- Premises of LaunchUnitSteps, for the sends and ends: all read; a message that goes; a broken handle; a part that does not read; a mask of no cluster; a notice; a completion with a place and one behind another. -/
theorem witness_LaunchUnitSteps_sends : let h := mkHandle 1 4 1 0 5; let s := sending (expanding h); let b := sending (expanding (handle 3 1)); let m := sending { expanding 0 with lrec := { lrec with mode := 1 }, part := some [0, 0, 0, 0] }
    let r := sending { expanding 0 with part := none, lrec := { lrec with src := 0x8000000000100000 } }; let e : State := { sending { expanding 0 with read := true, count := 2, ended := 1 } with net := [⟨7, 0, 0, .endNotice (40, 1) 0⟩], arg := arg1 7 }
    let d : State := { sending { expanding 0 with read := true, count := 1, ended := 1, place := 1 } with arg := arg1 40 }
    ((expanding h).sends (fun j => [h].getD j 0) h 0 11 12 13 ∧ s.partWords (expanding h) = (.ok [h], s) ∧ s.route 0 h = .go 1 false ∧ (s.credit 0 (creditKey 1)).avail ≠ 0 ∧ s.findSend 0 (hKey h) ≠ none) ∧ b.route 0 (handle 3 1) = .broken rSTALE none 0 ∧
    ((r.partWords { expanding 0 with part := none, lrec := { lrec with src := 0x8000000000100000 } }).1.isOk = false) ∧ maskClusters [0, 0, 0, 0] = [] ∧ ((e.takePacket 7).isSome = true ∧ e.saved = []) ∧ (d.cqueue 2).recs.length < 64 ∧
    of 0 (fun t => t.net.length) (exec .launchExpansionSend s) = 1 ∧ of [] (fun t => t.launch.exps.map Expansion.rflags) (exec .launchExpansionSend b) = [1] ∧ of [] (fun t => t.launch.exps.map Expansion.rflags) (exec .launchExpansionSend r) = [2] ∧
    of [] (fun t => t.launch.exps.map Expansion.rflags) (exec .launchExpansionSend m) = [8] ∧ of [] (fun t => t.launch.exps.map Expansion.place) (exec .activationEndNotice e) = [1] ∧ of [] (fun t => (t.cqueue 2).recs) (exec .completionRecordWrite d) = [⟨0x0000000100010000, 0x0300000000000009, 0, 0x77⟩] ∧
    of [] (fun t => t.launch.exps) (exec .completionRecordWrite d) = [] := by simp only [Expansion.sends]; decide +kernel

/-- Premises of LaunchUnitSteps, for arms: none; one behind a slot; one that fires, and where its record lands. -/
theorem witness_LaunchUnitSteps_arm : let q (recs : List CRec) (regs : List (Option Nat)) : State := { launching (fun l => { l with comps := [(2, ⟨1, true, recs, some arm, regs⟩)] }) [] with arg := arg1 2 }
    ((q [crec] [none]).arg.a = 2 ∧ ((q [crec] [none]).cqueue 2).arm = some arm ∧ (q [crec] [none]).queueRoom 0 = true ∧ arm.addr.toNat % 32 = 0) ∧
    of [] (fun t => t.bytesAt (sramKey 0 0x240) 2) (exec .cqArmFire (q [crec] [none])) = [0x34, 0x12] ∧ of 0 (fun t => (t.core 0).anon.length) (exec .cqArmFire (q [crec] [none])) = 1 ∧ of false (fun t => t.deferred) (exec .cqArmFire (q [crec] [some 3])) = true ∧
    ∀ u, (q [crec] [none]).compIs 2 { (q [crec] [none]).cqueue 2 with arm := none, recs := [], regs := [] } u → u.engineMayWrite .tlb arm.core arm.addr 32 0 0x240 := by
  refine ⟨by decide +kernel, by decide +kernel, by decide +kernel, by decide +kernel, ?_⟩
  intro u h v w x m
  have e : linePieces (32 + 1) arm.addr 32 = [(own 0x240, 32)] := by decide +kernel
  rw [e] at m; cases List.mem_singleton.mp m; rw [w, h.1]; rfl

/-- Premises of LaunchUnitSteps, for MODE 1 (R309): a cluster of the partition, one of another, and no pair to send by; the unit of the target's message. -/
theorem witness_LaunchUnitSteps_mode1 : let m (w : Word) := sending { expanding 0 with lrec := { lrec with mode := 1, src := 0x600 }, part := some [w, 0, 0, 0] }; let there := mkHandle 0 0 0 0 5; let f : State := { m 2 with parts := [(1, { part1 with colhi := 0, rowhi := 0 })] }
    maskClusters [1, 0, 0, 0] = [0] ∧ (m 1).partWords { expanding 0 with lrec := { lrec with mode := 1, src := 0x600 }, part := some [1, 0, 0, 0] } = (.ok [1, 0, 0, 0], m 1) ∧ (m 1).partOf 0 = 1 ∧ f.partOf 1 ≠ 1 ∧
    ((m 1).credit 0 (creditKey 0)).avail ≠ 0 ∧ (m 1).findSend 0 (hKey there) ≠ none ∧ of 0 (fun t => t.net.length) (exec .launchExpansionSend (m 1)) = 1 ∧ of [] (fun t => t.launch.exps.map Expansion.failed) (exec .launchExpansionSend f) = [some (0, BitVec.ofNat 16 rCAPABILITY)] ∧
    (let z := (m 1).modCore 0 fun k => { k with seqbase := 0 }; z.findSend 0 (hKey there) = none ∧ of false (fun t => t.deferred) (exec .launchExpansionSend z) = true) := by decide +kernel

/-! ## Windows and links -/

/-- Receive window 3 of partition 1, one page of 64 KiB, whose page-list entry at 0x30000 gives page 1 with home slice 3; transmit window 2 onto it, from address 0x50000 on. -/
def rx3 : RxEnt := { RxEnt.reset with st := 1, loopback := true, part := 1, size := 1, plist := 0x30000, gen := 7 }
def tx2 : TxEnt := ⟨true, 1, 1, 5, [(4, ⟨0, 3, 7, true, false⟩)]⟩
def windows (f : Fabric → Fabric) (s : State) : State :=
  let s := s.setBytes 0x30000 (toBytes 8 0x0000010000030001)
  { s with fabric := f { Fabric.reset with rx := [(3, rx3)], tx := [(2, tx2)] }, clusters := put 3 { Cluster.reset with pstate := 1 } s.clusters }

/-- A tracker of window 2, and a store through it. -/
def tracker (out : Nat) (fail : Bool) : Tracker := ⟨9, 2, out, fail, if fail then 5 else 0, 4, if fail then 1 else 0, 1⟩
def wstore : WStore := ⟨0, 9, 7, 1, 2, 0x50010, [1, 2, 3, 4]⟩
def tracked (t : Tracker) (x : SMap Word) : State := (one x).modMe fun sl => { sl with trackers := [t] }

/-- Premises of WindowFencesAndPackets, for the fences: stores out; none out; a failure; an operand past 1023; a window with and without a tracker. -/
theorem witness_WindowFencesAndPackets_fences : let s (out : Nat) (fail : Bool) := tracked (tracker out fail) [(6, 2), (7, 1024), (8, 1023)]
    ((s 1 false).me.trackers = [tracker 1 false] ∧ (tracker 1 false).out ≠ 0 ∧ (tracker 0 true).out = 0 ∧ ((s 0 true).cluster (domainOf (s 0 true).myCore)).wq = [] ∧ (tracker 0 true).fail = true ∧ 1024 ≤ ((s 0 false).x 7).toNat ∧ ((s 0 false).x 8).toNat < 1024 ∧ (tracker 0 true).window = ((s 0 false).x 6).toNat) ∧
    of false (fun t => decide (t.me.park = .again (.trackers none))) (exec (.rfence 5 0) (s 1 false)) = true ∧ of false (fun t => decide (t.me.park = .give 5 0 0)) (exec (.rfence 5 0) (s 0 false)) = true ∧ of false (fun t => decide (t.me.park = .give 5 (5 + 2 * 256 + 4 * 2 ^ 18 + 2 ^ 32 + 2 ^ 63) 0)) (exec (.rfence 5 0) (s 0 true)) = true ∧
    of false (fun t => decide (t.me.park = .give 5 (5 + 2 * 256 + 4 * 2 ^ 18 + 2 ^ 32 + 2 ^ 63) 0)) (exec (.rflush 5 6 0) (s 0 true)) = true ∧ causeOf (exec (.rflush 5 7 0) (s 0 true)) = cPROTECTION ∧ xOf 5 (exec (.rflush 5 8 0) (s 0 true)) = 0 := by decide +kernel

/-- A state whose cluster 0 has that store at its window port. -/
def porting (w : WStore) : State := (windows id (tracked (tracker 1 false) [])).modCluster 0 fun k => { k with wq := [w] }

/-- Premises of WindowFencesAndPackets, for the port: an empty queue, a store that goes, one of another partition. -/
theorem witness_WindowFencesAndPackets_port : let s := porting wstore; let b := porting { wstore with part := 2 }
    ((s.cluster 0).wq = [wstore] ∧ ((one []).cluster 0).wq = [] ∧ s.pathTo 0 = none ∧ (look TxEnt.reset s.fabric.tx 2).valid = true ∧ (0x50010 : Int) - 65536 * 5 = 0x10 ∧ (look TxEnt.reset b.fabric.tx 2).part.toNat ≠ 2 ∧ ((List.range 16).filter fun i => (look Recv.reset tx2.recv i).valid) = [4]) ∧
    of [] (fun t => t.fabric.outgo.map fun p => (p.recv, p.dst, p.window, p.off, p.op)) (exec .windowPortTake s) = [(4, 0, 3, 0x10, .store 7 false)] ∧ of [] (fun t => t.me.trackers) (exec .windowPortTake s) = [tracker 2 false] ∧
    of [] (fun t => t.me.trackers.map fun x => (x.fail, x.status, x.count)) (exec .windowPortTake b) = [(true, 4, 1)] ∧ of 0 (fun t => t.fabric.tookAt) (exec .windowPortTake s) = 1 ∧
    of false (fun t => t.deferred) (exec .windowPortTake { s with fabric := { s.fabric with tookAt := 1 } }) = true := by decide +kernel

/-- A store packet to window 3, arrived. -/
def wpack (op : WOp) (key : BitVec 14) : WPack := ⟨7, 0, 0, 0, 0, 2, 4, 3, 0x10, [1, 2, 3, 4], op, key, [], 0, 0, 0, 0, 0, 0, [], 100, 100, none, 9, 0, [], none, false⟩
def flown (p : WPack) : State := { windows (fun f => { f with flying := [p] }) (one []) with arg := arg2 7 0 }

/-- Premises of WindowFencesAndPackets, for arrival: each row of R339, and a packet that is placed. -/
theorem witness_WindowFencesAndPackets_arrival : let ok := wpack (.store 7 false) 5; let s := flown ok; let w (r : RxEnt) (p : WPack) := (windows (fun f => { f with rx := [(3, r)] }) (one [])).refusal p
    (w { rx3 with st := 0 } ok = some (6, false) ∧ w rx3 (wpack (.store 6 false) 5) = some (6, false) ∧ w rx3 (wpack (.store 7 false) 4) = some (5, true) ∧ w { rx3 with loopback := false } ok = some (5, false) ∧ w rx3 { ok with off := 0xFFFD } = some (5, false) ∧
      w rx3 (wpack (.reduce 1 0) 5) = some (7, false) ∧ ({ windows id (one []) with parts := [(1, { part1 with st := 3 })] } : State).refusal ok = some (5, false) ∧ w rx3 ok = none) ∧ (s.fabric.flying = [ok] ∧ ok.src = s.chipNo ∧ ok.chain = [] ∧ ok.off % 64 + ok.bytes.length ≤ 64) ∧
    s.windowHome rx3 0x10 = .dram 3 0x10010 1 0 ∧ of [] (fun t => t.bytesAt (l2Key 3 0x10010) 4) (exec .windowArrival s) = [1, 2, 3, 4] ∧ of [] (fun t => t.fabric.answers.map WAns.status) (exec .windowArrival s) = [0] ∧ of false (fun t => t.deferred) (exec .windowArrival { s with fabric := { s.fabric with flying := [{ ok with id := 6 }, ok] } }) = true ∧
    of [] (fun t => t.fabric.answers.map WAns.status) (exec .windowArrival (flown (wpack (.store 7 false) 4))) = [5] ∧ of 0 (fun t => t.records.length) (exec .windowArrival (flown (wpack (.store 7 false) 4))) = 1 := by decide +kernel

/-- A packet sent and unanswered, with its answers so far. -/
def sent (p : WPack) (as : List WAns) (s : State) : State := { windows (fun f => { f with outgo := [p], answers := as }) s with arg := arg1 7 }
def wans (st : BitVec 8) : WAns := ⟨7, 0, 0, st, [], false, false, none⟩

/-- Premises of WindowFencesAndPackets, for answers: of a tracked store, good and bad; of a command; a placement before and after its time, answered and not. -/
theorem witness_WindowFencesAndPackets_answers : let p := wpack (.store 7 false) 5; let s (st : BitVec 8) := sent p [wans st] (tracked (tracker 2 false) []); let q := { p with tracker := 0 }; let t (n : Nat) (as : List WAns) : State := { sent p as (one []) with cycle := n }
    ((s 0).fabric.outgo = [p] ∧ p.far = none ∧ p.relayOf = none ∧ (s 0).saved = [] ∧ p.tracker ≠ 0 ∧ (wans 0).id = (s 0).arg.a ∧ q.tracker = 0 ∧ (s 0).fabric.placetmo = 1000 ∧ (t 1000099 []).cycle < 100 + 1000 * 1000 ∧ 100 + 1000 * 1000 ≤ (t 1000100 []).cycle) ∧
    of [] (fun t => t.me.trackers) (exec .windowAnswer (s 0)) = [tracker 1 false] ∧ of [] (fun t => t.me.trackers.map fun x => (x.out, x.fail, x.status, x.receiver, x.count)) (exec .windowAnswer (s 5)) = [(1, true, 5, 4, 1)] ∧ of [p] (fun t => t.fabric.outgo) (exec .windowAnswer (sent q [wans 0] (one []))) = [] ∧
    of false (fun t => t.deferred) (exec .placementTimeout (t 1000099 [])) = true ∧ of [] (fun t => t.fabric.answers) (exec .placementTimeout (t 1000100 [])) = [wans 5] ∧ of [] (fun t => t.fabric.answers) (exec .placementTimeout (t 1000100 [wans 0])) = [wans 0] := by decide +kernel

/-- A get of one FP32 element for item 0 of the copy command, answered with its data. -/
def getting : State :=
  let c : CopyCmd := { cmd 0 with stage := .running, serial := 6, sent := 1, gets := [⟨7, 0, 0, 1⟩] }
  let s := (copying 0 []).modCluster 0 fun k => { k with engine0 := ⟨some c, false, 0⟩ }
  { s with fabric := { s.fabric with outgo := [{ wpack (.get 4) 5 with tracker := 0, serial := 6 }], answers := [{ wans 0 with data := [0, 0, 0x80, 0x3F] }] }, arg := arg1 7 }

/-- Premises of WindowFencesAndPackets, for a get's data. -/
theorem witness_WindowFencesAndPackets_get : let s := getting
    ((s.fabric.outgo.map WPack.id) = [7] ∧ (s.fabric.answers.map WAns.poison) = [false] ∧ ((s.findCmd 0 6).map fun c => c.gets.map GetReq.id) = some [7]) ∧
    of [] (fun t => t.bytesAt (sramKey 0 0x80) 4) (exec .getReply s) = [0, 0, 0x80, 0x3F] ∧ of none (fun t => (t.findCmd 0 6).map CopyCmd.sent) (exec .getReply s) = some 0 := by decide +kernel

/-- Premises of WindowRevocationAndLinks, for revocation: opening, closing at once and with senders, a write that changes nothing; a timeout before and at its time; a question and an answer. -/
theorem witness_WindowRevocationAndLinks_revocation : let s (r : RxEnt) (v : Word) (n : Nat) : State := { windows (fun f => { f with rx := [(3, r)] }) (one []) with arg := { arg1 3 with v := v }, cycle := n }; let c : RxEnt := { rx3 with st := 2, pending := 1 }
    let q (b : Body) (out : List WPack) : State := { windows (fun f => { f with rx := [(3, c)], outgo := out }) (one []) with net := [⟨3, 0, 0, b⟩], arg := arg1 3 }
    (((s { rx3 with st := 0 } 1 0).rx 3).st = 0 ∧ ((s rx3 0 0).rx 3).st = 1 ∧ (s rx3 0 0).arg.v.toNat % 4 = 0 ∧ ((s c 0 0).rx 3).st = 2 ∧ (s c 0 0).fabric.closetmo = 100 ∧ (q (.closeAns 3) []).net = [⟨3, 0, 0, .closeAns 3⟩]) ∧
    of 0 (fun t => (t.rx 3).st) (exec .receiveEntryStateWrite (s { rx3 with st := 0 } 1 0)) = 1 ∧ of 9 (fun t => (t.rx 3).st) (exec .receiveEntryStateWrite (s rx3 0 0)) = 0 ∧ of 9 (fun t => (t.rx 3).st) (exec .receiveEntryStateWrite (s { rx3 with taken := 1 } 2 0)) = 2 ∧
    of false (fun t => t.deferred) (exec .closeTimeout (s c 0 99998)) = true ∧ of 9 (fun t => (t.rx 3).st) (exec .closeTimeout (s c 0 99999)) = 0 ∧ of 9 (fun t => (t.rx 3).st) (exec .closeAnswer (q (.closeAns 3) [])) = 0 ∧
    of false (fun t => t.deferred) (exec .closeNotice (q (.closeAsk 3) [wpack .write 5])) = true ∧ of 0 (fun t => t.net.length) (exec .closeNotice (q (.closeAsk 3) [])) = 1 := by decide +kernel

/-- Premises of WindowRevocationAndLinks, for far traffic: resends before and at their time, a tombstone, a rate that rises and one halved. -/
theorem witness_WindowRevocationAndLinks_far : let s (n : Nat) : State := { sent { wpack .write 5 with far := some 1 } [] (one []) with cycle := n }; let g (n : Nat) : State := { windows (fun f => { f with farTab := [⟨7, 4, [], 0, some 10⟩] }) (one []) with arg := arg2 7 4, cycle := n }
    let r (h : Bool) (n : Nat) : State := { windows (fun f => { f with rates := [(7, ⟨0x10, 0x13880, 5, h, 0, true⟩)] }) (one []) with arg := arg1 7, cycle := n }
    let e : State := { windows (fun f => { f with far := [(1, { FarD.reset with valid := true, qp := true, conn := 4, chip := 9, flow := 6 })], flying := [{ wpack .write 5 with src := 9, seq := 3 }] }) (one []) with arg := arg2 7 9 }
    (e.farEntry 9 = some 1 ∧ (e.routeEntry 9).getLsbD 0 = false ∧ e.chipNo ≠ 9) ∧ e.flowDown 6 = false ∧ of [] (fun t => t.fabric.etherOut.map fun x => (x.flow, x.num, x.what)) (exec .windowArrival e) = [(6, 0, .expected 1 { wpack .write 5 with src := 9, seq := 3 } 0)] ∧
    of [] (fun t => t.fabric.etherOut.map EthPkt.num) (exec .farResendTimer (s 20100)) = [0] ∧
    ((s 0).fabric.outgo.map WPack.id = [7] ∧ (s 0).arg.ok = false ∧ ((g 0).fabric.farTab.map FarMsg.tomb) = [some 10] ∧ (g 0).fabric.msglife = 2000 ∧ (s 0).srttOf { wpack .write 5 with far := some 1 } = 0) ∧
    of false (fun t => t.deferred) (exec .farResendTimer (s 20099)) = true ∧ of [] (fun t => t.fabric.outgo.map WPack.resent) (exec .farResendTimer (s 20100)) = [20100] ∧ of false (fun t => t.deferred) (exec .queuePairResend (s 100)) = true ∧ of [] (fun t => t.fabric.outgo.map WPack.resent) (exec .queuePairResend (s 101)) = [101] ∧
    of false (fun t => t.deferred) (exec .tombstoneExpiry (g 2000009)) = true ∧ of 9 (fun t => t.fabric.farTab.length) (exec .tombstoneExpiry (g 2000010)) = 0 ∧
    of false (fun t => t.deferred) (exec .rateIncrease (r false 4)) = true ∧ of 0 (fun t => (look RGroup.reset t.fabric.rates 7).rate) (exec .rateIncrease (r true 5)) = 0x10 := by decide +kernel

/-- A flit that completes a packet for this chip. -/
def flit (seq : BitVec 9) (good tail idle : Bool) : Flit :=
  let f := Flit.sealed ⟨seq, 0, false, 0, false, 0, 0, false, true, tail, idle, List.replicate 120 0x55, 0, true, false, 0, some ⟨0, 4096, 0, .credit 0⟩, none, none⟩
  if good then f else { f with crc := f.crc + 1 }
def linked (p : Port) (ok : Bool) : State := { windows (fun f => { f with ports := [(3, p)], coordSet := true, routesSet := true }) (one []) with arg := { arg1 3 with ok := ok }, chip := { booted with opened := true } }

/-- Premises of WindowRevocationAndLinks, for links: each kind of flit, retrainings, a rekey. -/
theorem witness_WindowRevocationAndLinks_links : let f (x : Flit) := linked { Port.reset with incoming := [x] } false
    ((f (flit 0 true true false)).port 3 = { Port.reset with incoming := [flit 0 true true false] } ∧ (flit 0 true true false).dest = (f (flit 0 true true false)).chipNo ∧ (linked Port.reset true).arg.ok = true ∧ Port.reset.resends < 16) ∧
    of 0 (fun t => t.net.length) (exec .flitReceive (f (flit 0 true true false))) = 1 ∧ of 0 (fun t => (t.port 3).expect) (exec .flitReceive (f (flit 0 true false false))) = 1 ∧ of false (fun t => (t.port 3).asking) (exec .flitReceive (f (flit 1 true true false))) = true ∧
    of false (fun t => (t.port 3).asking) (exec .flitReceive (f (flit 0 false true false))) = true ∧ of 9 (fun t => (t.port 3).resends) (exec .flitReceive (linked { Port.reset with incoming := [Flit.sealed { flit 0 true true true with retry := true }], resends := 15 } false)) = 0 ∧
    of 0 (fun t => look 0 (t.port 3).back 0) (exec .flitReceive (f (flit 0 true true false))) = 1 ∧ of [] (fun t => (t.port 3).coming) (exec .flitReceive (f (Flit.sealed { flit 0 true false false with poison := true }))) = [(0, (1, [0]))] ∧ of 9 (fun t => (t.port 3).expect) (exec .flitReceive (f (flit 5 true true true))) = 0 ∧ of 9 (fun t => (t.port 3).incoming.length) (exec .flitReceive (linked { Port.reset with incoming := [flit 0 true true false], down := true } false)) = 0 ∧
    of 9 (fun t => (t.port 3).retrains) (exec .linkRetrain (linked { Port.reset with retrains := 2 } true)) = 0 ∧ of 9 (fun t => (t.port 3).retrains) (exec .linkRetrain (linked Port.reset false)) = 1 ∧ of false (fun t => (t.port 3).down) (exec .linkRetrain (linked { Port.reset with retrains := 2 } false)) = true ∧
    of 0 (fun t => (t.port 3).epoch) (exec .linkRekeyMarker (linked { Port.reset with nextKey := true } false)) = 1 := by decide +kernel

/-- R348's header of a store packet: type 6, no flags, window 3, generation 7, source 0, message 0, packet 0 of 0, offset 0x10, 4 bytes, number 0. -/
theorem test_header : (EthOut.packet 1 (wpack (.store 7 false) 5)).header 0 9 = [6, 0, 3, 0, 7, 0, 0, 0, 0, 0, 0, 0, 0, 0, 0, 0, 0x10, 0, 0, 0, 0, 0, 0, 0, 4, 0, 0, 0, 0, 0, 0, 0] := by decide +kernel

/-- R358's check: CRC-32C of the digits 1 to 9 is 0xE3069283. -/
theorem test_crc : crc32c [0x31, 0x32, 0x33, 0x34, 0x35, 0x36, 0x37, 0x38, 0x39] = 0xE3069283 := by decide +kernel

/-- Premises of WindowRevocationAndLinks, the rest: links not yet open; a marker. -/
theorem witness_WindowRevocationAndLinks_opening : let x := flit 0 true true false; let s (ok : Bool) (f : Flit) : State := { linked { Port.reset with incoming := [f] } false with chip := { booted with opened := ok } }; let k := Flit.sealed { x with marker := true }
    (x.intact = true ∧ x.idle = false ∧ (s false x).linksOpen = false ∧ of 9 (fun t => t.net.length) (exec .flitReceive (s false x)) = 0 ∧ of 9 (fun t => (t.port 3).expect) (exec .flitReceive (s false x)) = 0) ∧
    ((s true k).linksOpen = true ∧ k.intact = true ∧ of [] (fun t => t.work.map Event.i) (exec .flitReceive (s true k)) = [.linkRekeyMarker]) ∧ x.payload.length = 120 ∧ x.front.length = 124 := by decide +kernel

/-! ## Walks, banks, evictions, the scrubber, the supervisor -/

/-- A step of another agent, with its operands, in a state. -/
def acting (a : Arg) (s : State) : State := { s with arg := a }

/-- Premises of WalksAndWatchedLines, for walks: EN 0; a leaf at level 2, nothing held; one held; no valid entry. -/
theorem witness_WalksAndWatchedLines_walks : let s := acting (arg2 0 33) ((tab []).setBytes 0x22008 (toBytes 8 0x2000000000BD)); let h := s.modCluster 0 fun k => { k with tlb := [(32, ⟨0xBD, 32, 0x22008⟩)] }; let b := acting (arg2 0 33) ((one []).modCluster 0 fun k => { k with en := true })
    (((one []).cluster 0).en = false ∧ (s.cluster 0).en = true ∧ tlbFind (s.cluster 0).tlb 33 = none ∧ (s.homePoison (tableHome 0x20000) = false ∧ (s.tableEntry 0x20000).getLsbD 0 = true ∧ entryMalformed 0 (s.tableEntry 0x20000) = false ∧ (s.tableEntry 0x20000).getLsbD 5 = false)) ∧
    ((s.tableEntry 0x21000).getLsbD 0 = true ∧ entryMalformed 1 (s.tableEntry 0x21000) = false ∧ (s.tableEntry 0x21000).getLsbD 5 = false) ∧ ((s.tableEntry 0x22008).getLsbD 0 = true ∧ entryMalformed 2 (s.tableEntry 0x22008) = false ∧ (s.tableEntry 0x22008).getLsbD 5 = true) ∧
    ((tlbFind (h.cluster 0).tlb 33).map fun l => l.word.getLsbD 1) = some false ∧ (b.tableEntry 0).getLsbD 0 = false ∧
    of [] (fun t => (t.cluster 0).tlb) (exec .translationWalk s) = [(32, ⟨0x2000000000BD, 32, 0x2200A⟩)] ∧ of false (fun t => t.l2Has 2 0x22008) (exec .translationWalk s) = true ∧
    of [(9, ⟨0, 0, 0⟩)] (fun t => (t.cluster 0).tlb) (exec .translationWalk { s with sectors := [(0, { Sector.reset with walkAt := 1, walks := (List.range 64).map (· + 100) })] }) = [] ∧ of [] (fun t => (t.sector 0).walks) (exec .translationWalk s) = [33] ∧ of [(9, ⟨0, 0, 0⟩)] (fun t => (t.cluster 0).tlb) (exec .translationWalk b) = [] := by intros; and_intros <;> decide +kernel

/-- A slot parked on the watched entry at 0x22000, whose line sector 0's walker watches. -/
def watching (m : Monitor) (n : Nat) : State := { acting (arg1 (0x22000 / 64)) ((tab []).modMe fun sl => { sl with park := .trap (some 0x22002) }) with monitors := [(0x22000 / 64, m)], cycle := n }

/-- Premises of WalksAndWatchedLines, for monitors: nothing watched; a monitor armed and not; a poll before and at its cycle; an entry that reads valid, and one that does not. -/
theorem witness_WalksAndWatchedLines_monitors : let m : Monitor := ⟨[0], [], true, none⟩; let p : Monitor := ⟨[0], [], false, some 4096⟩; let w := watching m 9
    (find? (tab []).monitors 0 = none ∧ find? w.monitors w.arg.a = some m ∧ p.armed = false ∧ p.due = some 4096 ∧ (watching p 4095).cycle < 4096 ∧ ¬ (watching p 4096).cycle < 4096 ∧ (w.slot 0).park = .trap (some 0x22002) ∧ (0x22002 / 64 : Nat) = w.arg.a % 2 ^ 34) ∧
    (w.homePoison (tableHome 0x22000) = false ∧ (w.tableEntry 0x22000).getLsbD 0 = true ∧ entryMalformed 2 (w.tableEntry 0x22000) = false ∧ (w.tableEntry 0x22000).getLsbD 1 = false) ∧ ({ w with mem := [] }.tableEntry 0x22000).getLsbD 0 = false ∧
    of false (fun t => decide (t.me.park = .run ∧ t.me.ready = 10 ∧ t.monitors = [])) (exec .pageMonitorWake w) = true ∧ of false (fun t => decide (t.me.park = .run)) (exec .pageMonitorWake { w with mem := [] }) = false ∧
    of false (fun t => t.deferred) (exec .monitorPoll (watching p 4095)) = true ∧ of false (fun t => decide (t.me.park = .run)) (exec .monitorPoll (watching p 4096)) = true := by intros; and_intros <;> decide +kernel

/-- Bank 31 of cluster 0 with a role and a state of change. -/
def banked (b : Bank) (v : Word) (s : State) : State := { s.modCluster 0 fun k => { k with banks := [(31, b)], l1 := [5] } with arg := { arg2 0 31 with v := v } }

/-- Premises of BanksEvictionsAndScrubbing, for banks: a role code that is none, the same role, a new one with nothing and something in flight, one that is draining out of the cache role. -/
theorem witness_BanksEvictionsAndScrubbing_banks : let u := (one []).modMe fun sl => { sl with stores := [⟨.sram 0 0xF8010, .zeroLine⟩] }; let f := withSram 0xF8000 [7] (one [])
    (((banked ⟨0, 0, false, 0⟩ 2 u).slot 0).stores.any (fun p => p.home.inBank p.op.size 0 31) = true ∧ ((one []).slot 0).stores = [] ∧ ((banked ⟨1, 0, true, 2⟩ 0 f).bank 0 31).busy = true) ∧
    of Bank.reset (fun t => t.bank 0 31) (exec .bankRegisterWrite (banked ⟨0, 0, false, 0⟩ (2 + 4 * 9) (one []))) = ⟨2, 9, false, 2⟩ ∧ of Bank.reset (fun t => t.bank 0 31) (exec .bankRegisterWrite (banked ⟨0, 0, false, 0⟩ (2 + 4 * 10) u)) = ⟨0, 0, true, 2⟩ ∧
    of Bank.reset (fun t => t.bank 0 31) (exec .bankRegisterWrite (banked ⟨0, 0, true, 2⟩ 1 u)) = ⟨0, 0, true, 1⟩ ∧ of Bank.reset (fun t => t.bank 0 31) (exec .bankRegisterWrite (banked ⟨2, 4, false, 2⟩ 3 u)) = ⟨2, 0, false, 2⟩ ∧
    of false (fun t => t.deferred) (exec .bankRoleDrainComplete (banked ⟨0, 0, true, 2⟩ 0 u)) = true ∧ of 9 (fun t => t.byteAt (sramKey 0 0xF8000)) (exec .bankRoleDrainComplete (banked ⟨0, 0, true, 2⟩ 0 f)) = 7 ∧
    of 9 (fun t => t.byteAt (sramKey 0 0xF8000)) (exec .bankRoleDrainComplete (banked ⟨1, 0, true, 2⟩ 0 f)) = 0 := by decide +kernel

/-- Premises of BanksEvictionsAndScrubbing, for evictions: a line that is not there, a dirty and a clean one. -/
theorem witness_BanksEvictionsAndScrubbing_evictions : let s := acting (arg2 3 0x400) paged; let c : State := { s with l2 := [(l2Index 3 0x10000, ⟨false, 0, 0⟩)] }
    (s.l2Has 3 0x10000 = true ∧ s.l2Has 2 0x10000 = false ∧ Memory.wf s.mem = true ∧ risingKeys s.l2 = true ∧ s.keyLoaded 0 = true ∧ find? s.l2 (l2Index 3 0x10000) = some ⟨true, BitVec.allOnes 64, 0⟩ ∧ s.chip.fullEn = false) ∧
    of 0 (fun t => t.byteAt 0x10007) (exec .l2LineEviction s) = 0x77 ∧ of 9 (fun t => t.byteAt 0x10007) (exec .l2LineEviction { s with l2 := [(l2Index 3 0x10000, ⟨true, 0x7F, 0⟩)] }) = 0 ∧ of 9 (fun t => t.byteAt 0x10007) (exec .l2LineEviction c) = 0 ∧ of true (fun t => t.l2Has 3 0x10000) (exec .l2LineEviction c) = false := by decide +kernel

/-- A chip whose line 5 of LPDDR 6 has errors at the symbols `l`, with positions already seen and recorded. -/
def erring (l : List Nat) (seen : List (Nat × Nat)) : State := { acting (arg1 5) (one []) with errors := [(5, l)], chip := { booted with corrected := seen } }

/-- Premises of BanksEvictionsAndScrubbing, for the scrubber: a key loaded; no error; four at the edge of 2e + f, and five; a line that is corrected and one that reads poisoned. -/
theorem witness_BanksEvictionsAndScrubbing_scrubber : let u (l : List Nat) := (look [] (erring l []).errors 5).filter fun sym => decide ((5, (BitVec.ofNat 32 sym : BitVec 32)) ∉ (erring l []).chip.repair)
    (erring [] []).keyLoaded 0 = true ∧ (∀ sym ∈ [3, 9, 27, 127], sym < 128) ∧ u [] = [] ∧ u [3] = [3] ∧ u [3, 9] = [3, 9] ∧ (u [3, 9, 27, 127]).length + [3, 9, 27, 127].length ≤ 8 ∧ 8 < (u [1, 3, 9, 27, 127]).length + [1, 3, 9, 27, 127].length := by decide +kernel
theorem test_scrub_uncorrectable : of 0 (fun t => (t.records.map SRec.cause).headD 0) (exec .patrolScrub (erring [1, 3, 9, 27, 127] [])) = 0xA1 := by decide +kernel

/-- Supervisor core 0 with the tables of `tab` under its own root, and partition 2 (no cluster at all). -/
def superv (x : SMap Word) (st : BitVec 2) : State :=
  let d : Part := { Part.reset with known := true, collo := 1, rowlo := 0, key := 6, st := st }
  { sup x with clusters := [(0, clus), (256, { Cluster.reset with en := true, root := 0x20 })], parts := [(1, part1), (2, d)], mem := (tab []).mem }

/-- The same once partition 2 has been saved into the area at address 0x40000. -/
def kept (x : SMap Word) : State :=
  let r := superv [(6, 2), (7, 0x40000)] 1
  { of r id (exec (.svSave 5 6 7 0) r) with slots := (superv x 1).slots, work := [] }

/-- Premises of SupervisorInstructionsAndSlices, for slots and engines: a compute core; specifiers past the end; a slot trapped, running, idle, frozen and thawed; engines each way. -/
theorem witness_SupervisorInstructionsAndSlices_slots : let x : SMap Word := [(6, 0), (7, 0x55), (8, 2 ^ 14), (9, 2 ^ 14 + 1), (10, 2 ^ 15 + 15), (11, 3 * 2 ^ 14), (12, 5)]; let s := superv x 0; let sl := slot0 []
    let w (z : Slot) : State := { s with slots := s.slots ++ [], cores := [] }.setSlot 0 z; let t := w { sl with park := .trap none, tcause := 8 }; let f := w { sl with frozen := true, woken := true }
    (isSup (one []).myCore = false ∧ isSup s.myCore = true ∧ 2 ^ 14 ≤ (s.x 8).toNat ∧ (s.x 6).toNat < 2 ^ 14 ∧ (s.slot 5).active = false ∧ (t.slot 0).park = .trap none ∧ (w sl).me.park = .run ∧ (f.slot 0).frozen = true ∧ (s.slot 5).frozen = false) ∧
    (bitsAt (s.x 9) 14 50 = 1 ∧ bitsAt (s.x 9) 1 5 = 0 ∧ (s.engine 0 1).frozen = false ∧ bitsAt (s.x 10) 14 50 = 2 ∧ bitsAt (s.x 10) 4 10 = 0 ∧ 3 * 2 ^ 14 ≤ (s.x 11).toNat) ∧
    causeOf (exec (.svResume 5 6 0) (one [])) = cPROTECTION ∧ giveOf 5 (exec (.svResume 5 8 0) s) = 1 ∧ giveOf 5 (exec (.svResume 5 6 0) (w sl)) = 2 ∧ giveOf 5 (exec (.svResumeX10 5 6 7 0) t) = 0 ∧ of 0 (fun u => (u.slot 0).getX 10) (exec (.svResumeX10 5 6 7 0) t) = 0x55 ∧
    of true (fun u => (u.slot 0).active) (exec (.svBreak 5 6 0) t) = false ∧ giveOf 5 (exec (.svBreak 5 12 0) s) = 2 ∧ of false (fun u => (u.slot 0).frozen) (exec (.svFreeze 5 6 0) (w sl)) = true ∧ of true (fun u => (u.slot 0).frozen) (exec (.svThaw 5 6 0) f) = false ∧
    (let z (p : Park) : State := w { sl with frozen := true, woken := true, park := p }; of false (fun u => decide ((u.slot 0).park = .run ∧ (u.slot 0).waited = true)) (exec (.svThaw 5 6 0) (z (.again .loads))) = true ∧ of 0 (fun u => (u.slot 0).getX 7) (exec (.svThaw 5 6 0) (z (.give 7 3 0))) = 3) ∧
   
    of false (fun u => (u.engine 0 1).frozen) (exec (.svFreeze 5 9 0) s) = true ∧ of false (fun u => (u.sector 15).frozen) (exec (.svFreeze 5 10 0) s) = true ∧ giveOf 5 (exec (.svThaw 5 11 0) s) = 1 := by decide +kernel

/-- Premises of SupervisorInstructionsAndSlices: no armed command of the partition waits at its counter. -/
theorem witness_SupervisorInstructionsAndSlices_invalidation : let s := superv [(12, 1 + 2 ^ 16)] 2; bitsAt (s.x 12) 8 8 = 0 ∧ bitsAt (s.x 12) 48 16 = 0 ∧ (s.part 1).known = true ∧ ∀ cl, cl < 256 → (s.cluster cl).pending = [] := by decide +kernel

/-- Premises of SupervisorInstructionsAndSlices, for partitions: no such partition, a misaligned area, a state that is not the right one, an unreadable header, a bad one, a load and a load that fails, a save; an invalidation, good and bad. -/
theorem witness_SupervisorInstructionsAndSlices_partitions : let x : SMap Word := [(6, 2), (7, 0x40000), (8, 0x40001), (9, 9), (10, 0x400000), (11, 0x50000), (12, 1 + 2 ^ 16)]; let s := kept x; let r := superv x 1; let v := (find? s.saved 2).getD ⟨0, 0, false, Part.reset, 0, [], [], [], [], [], [], [], 0, 0⟩
    let z := { s with parts := [(2, { s.part 2 with collo := 0 })], clusters := s.clusters }.engineWrite (.dram 0 0x3F0000 2 0) (toBytes 8 0x14A535356 ++ toBytes 8 2) false
    ((s.part 2).known = true ∧ (s.part 9).known = false ∧ (s.x 8).toNat % 65536 ≠ 0 ∧ (s.x 7).toNat % 65536 = 0 ∧ (s.part 2).st = 2 ∧ (r.part 2).st.toNat < 2 ∧ r.me.park = .run ∧ (find? s.saved 2).isSome = true) ∧
    (s.areaGet (domainOf s.myCore) 0x400000 2 = none ∧ s.areaGet (domainOf s.myCore) 0x40000 2 = some [0x200014A535356, 0x6000100] ∧ s.areaGet (domainOf s.myCore) 0x50000 2 = some [0, 0]) ∧ ((s.loadPart 2 256 0x40000 v false).isSome = true) ∧
    (z.areaGet 256 0x1F0000 2 = some [0x14A535356, 2] ∧ (z.loadPart 2 256 0x1F0000 v false).isSome = false) ∧
    giveOf 5 (exec (.svSave 5 9 7 0) s) = 1 ∧ giveOf 5 (exec (.svSave 5 6 8 0) s) = 3 ∧ giveOf 5 (exec (.svSave 5 6 7 0) s) = 2 ∧ giveOf 5 (exec (.svLoad 5 6 7 0) r) = 2 ∧ giveOf 5 (exec (.svLoad 5 6 10 0) s) = 3 ∧ giveOf 5 (exec (.svLoad 5 6 11 0) s) = 2 ∧
    giveOf 5 (exec (.svLoad 5 6 7 0) s) = 0 ∧ of 0 (fun t => (t.part 2).st) (exec (.svLoad 5 6 7 0) s) = 1 ∧ of 0 (fun t => (t.part 2).st) (exec (.svSave 5 6 10 0) r) = 2 ∧ of 0 (fun t => t.shoots.length) (exec (.tlbinv 5 12 7 0) s) = 1 ∧ giveOf 5 (exec (.tlbinv 5 12 8 0) s) = 1 := by decide +kernel

/-- An invalidation of partition 1 that a supervisor slot waits for, with a state of the rest. -/
def shooting (s : State) : State := { s with shoots := [⟨7, 16384, 1, 1, 1, [(1, 1)]⟩], arg := arg1 7, slots := s.slots ++ [(16384, { slot0 [] with park := .shoot 5 7 0 })] }
def sliced (x : Slice) (a : Arg) (s : State) : State := { s with launch := { s.launch with slices := [(1, x)] }, arg := a }

/-- Premises of SupervisorInstructionsAndSlices, for completions and slices: an access under way and none; a slice that has not run out, one of an idle and one of a running partition. -/
theorem witness_SupervisorInstructionsAndSlices_slices : let p : State := { two [] with slots := [] }; let w : State := shooting (pending (.sram 0 0x40) .zeroLine); let g := shooting p; let x : Slice := ⟨5, true, 1, 5⟩; let r : State := { p with slots := [(0, slot0 [])], parts := [(1, { part1 with colhi := 0, rowhi := 0 })] }
    (g.shoots = [⟨7, 16384, 1, 1, 1, [(1, 1)]⟩] ∧ (w.slot 0).stores ≠ [] ∧ (g.slot 16384).park = .shoot 5 7 0) ∧ ((sliced x (arg1 1) p).idlePart 1 = true ∧ (sliced x (arg1 1) r).idlePart 1 = false ∧ (p.part 1).st.toNat < 2 ∧ (1 : Nat) ≠ 0) ∧
    of false (fun t => t.deferred) (exec .shootdownComplete w) = true ∧ of false (fun t => decide ((t.slot 16384).park = .run)) (exec .shootdownComplete g) = true ∧ of Slice.reset (fun t => t.slice 1) (exec .sliceRegisterWrite (sliced x { arg1 1 with v := 2 ^ 32 + 9 } p)) = ⟨9, true, 1, 0⟩ ∧
    of 0 (fun t => (t.records.map SRec.cause).headD 0) (exec .sliceExpiry (sliced x (arg1 1) p)) = 0x81 ∧ of true (fun t => (t.slice 1).armed) (exec .sliceExpiry (sliced x (arg1 1) r)) = false ∧ of 0 (fun t => (t.part 1).st) (exec .sliceExpiry (sliced x (arg1 1) r)) = 2 := by decide +kernel
theorem witness_SupervisorInstructionsAndSlices_waits : let g := shooting { two [] with slots := [] }; let slots := fun (j : Nat) => j ∈ g.slotKeys ∧ isSup (coreOf j) = false
    (∀ j, ¬ slots j) ∧ ∀ cl, cl < 256 → (g.cluster cl).wq = [] := by
  refine ⟨fun j h => ?_, by decide +kernel⟩
  obtain ⟨m, n⟩ := h
  rw [show (shooting { two [] with slots := [] }).slotKeys = [16384] by decide +kernel, List.mem_singleton] at m
  subst m; revert n; decide

/-- Premises of WalksAndWatchedLines (R127): slots 0 and 512 parked on one line, watched by the walkers of two sectors; a store that readies the line's entry wakes both. -/
theorem witness_WalksAndWatchedLines_sectors : let key (n : Nat) := n * 2 ^ 34 + 0x22000 / 64; let w := watching ⟨[0], [], true, none⟩ 9
    let s : State := ({ w with monitors := [(key 0, ⟨[0], [], true, none⟩), (key 1, ⟨[512], [], true, none⟩)], arg := { w.arg with b := 1 } } : State).modSlot 512 fun sl => { sl with park := .trap (some 0x22012) }
    risingKeys s.monitors = true ∧ (s.homePoison (tableHome 0x22000) = false ∧ (s.tableEntry 0x22000).getLsbD 0 = true ∧ entryMalformed 2 (s.tableEntry 0x22000) = false ∧ (s.tableEntry 0x22000).getLsbD 1 = false) ∧ of false (fun t => decide ((t.slot 0).park = .run ∧ (t.slot 512).park = .run ∧ t.monitors = [])) (exec .pageMonitorWake s) = true := by intros; and_intros <;> decide +kernel

/-- Premises of SupervisorInstructionsAndSlices: a slice of a partition that is saved runs out and is discarded; a wide translation under an invalidation; a slot whose reply is a plain pending entry. -/
theorem witness_SupervisorInstructionsAndSlices_others : let d := sliced ⟨5, true, 1, 5⟩ (arg1 1) { superv [] 0 with parts := [(1, { part1 with st := 2 })] }
    let i := (superv [(12, 1 + 2 ^ 16), (13, 0x10000)] 0).modCluster 0 fun k => { k with tlb := [(0, ⟨0xBD, 32, 0x2200A⟩)] }
    let q : State := { answering [] with cur := 16384, slots := (answering []).slots ++ [(16384, slot0 [(6, 0)])] }
    ((d.part 1).st.toNat = 2 ∧ of Slice.reset (fun t => t.slice 1) (exec .sliceExpiry d) = ⟨5, true, 1, 0⟩) ∧ of [] (fun t => t.shoots.map Shoot.ranges) (exec (.tlbinv 5 12 13 0) i) = [[(1, 1), (0, 32)]] ∧
    of [(9, ⟨0, 0, 0⟩)] (fun t => (t.cluster 0).tlb) (exec (.tlbinv 5 12 13 0) i) = [] ∧
    ((q.slot 0).replyh ≠ 0 ∧ q.keyedIndex 0 (q.slot 0).replyh = some 1 ∧ q.isLocalPromise 0 1 = false ∧ (q.entry 0 1).w4 = 0 ∧ (q.entry 0 1).w6 = 0 ∧ of (0, 0) (fun t => ((t.entry 0 1).st, (t.entry 0 1).reason)) (exec (.svBreak 5 6 0) q) = (3, 11)) := by intros; and_intros <;> decide +kernel

/-! ## Astrolabe, containment, power, configuration, the whole machine -/

/-- A mailbox request with its argument and buffer address, supervisor core 0 having the tables of `tab`. -/
def mailing (a : Nat) (buf : Word) (f : Chip → Chip) : State :=
  let s := superv [] 0
  acting { arg1 a with v := buf } { s with chip := f s.chip }

/-- STATUS of the request that a step has begun. -/
def mailStatus (o : Host.Outcome State Fault Refusal) : Nat := of 99 (fun t => match t.chip.mail with
  | some q => q.status.toNat
  | none => 98) o

/-- Premises of AstrolabeRequestsAndEvents, for keys: a request under way; a halted chip; slots 0 and 255; a readable buffer and one that is not; ports 7 and 8. -/
theorem witness_AstrolabeRequestsAndEvents_keys : let s := mailing 7 0x80000 id; let m : MailReq := ⟨1, 0, 0, 0⟩
    (s.chip.mail = none ∧ s.halted = none ∧ s.bufHome 0x80000 32 .engineRead = some (.dram 0 0x280000 2 0) ∧ s.bufHome 0x80000 32 .engineWrite = some (.dram 0 0x280000 2 0) ∧ s.homePoison (.dram 0 0x280000 2 0) = false ∧ s.bufHome 0x400000 32 .engineRead = none) ∧
    of none (fun t => t.chip.mail) (exec .mailboxLoadkey (mailing 3 0 fun c => { c with mail := some m })) = some m ∧ mailStatus (exec .mailboxLoadkey { s with halted := some 4 }) = 1 ∧ mailStatus (exec .mailboxLoadkey (mailing 0 0 id)) = 2 ∧
    of false (fun t => t.keyLoaded 255) (exec .mailboxLoadkey (mailing 255 0 id)) = true ∧ mailStatus (exec .mailboxErasekey (mailing 256 0 id)) = 2 ∧ mailStatus (exec .mailboxLinkkey s) = 0 ∧ mailStatus (exec .mailboxLinkkey (mailing 8 0x80000 id)) = 2 ∧
    mailStatus (exec .mailboxLinkkey (mailing 7 0x400000 id)) = 2 ∧ mailStatus (exec .mailboxFlowkey s) = 0 := by intros; and_intros <;> decide +kernel

/-- Premises of AstrolabeRequestsAndEvents, for the other requests: registers 3, 4 and 8; a job open, one new with 64 open, one that is not open; an unreadable buffer; a completion. -/
theorem witness_AstrolabeRequestsAndEvents_jobs : let job (l : List (Word × BitVec 256)) := mailing 0 0x80000 fun c => { c with jobs := l }
    mailStatus (exec .mailboxExtend (mailing 3 0x80000 id)) = 2 ∧ mailStatus (exec .mailboxExtend (mailing 4 0x80000 id)) = 0 ∧ mailStatus (exec .mailboxExtend (mailing 8 0x80000 id)) = 2 ∧ mailStatus (exec .mailboxInvalidOp (mailing 7 0 id)) = 2 ∧
    mailStatus (exec .mailboxJobstart (job [(0, 5)])) = 1 ∧ mailStatus (exec .mailboxJobstart (job ((List.range 64).map fun i => (BitVec.ofNat 64 (i + 1), 0)))) = 1 ∧ mailStatus (exec .mailboxJobend (job [])) = 3 ∧ mailStatus (exec .mailboxJobstart (mailing 0 0x400000 id)) = 2 ∧
    of 0 (fun t => t.chip.mstatus) (exec .mailboxRequestComplete (mailing 3 0 fun c => { c with mail := some ⟨1, 0, 0, 2⟩ })) = 2 := by intros; and_intros <;> decide +kernel

/-- Premises of AstrolabeRequestsAndEvents, for a job's records: every field at its width, and where the record can and cannot be written. -/
theorem witness_AstrolabeRequestsAndEvents_records : let s := mailing 0 0x80000 id
    ((3 : Nat) < 4 ∧ (List.replicate 16 (0 : Byte)).length = 16) ∧ (s.chip.jobs.find? fun e => e.1 = 0) = none ∧ ((mailing 0 0x80000 fun c => { c with jobs := [(0, 5)] }).chip.jobs.find? fun e => e.1 = 0) = some (0, 5) := by decide +kernel

/-- Premises of AstrolabeRequestsAndEvents, for fatal errors, heat and time: the watchdog's last cycle and the one before; 100 and 110 degrees and below; a correction either way. -/
theorem witness_AstrolabeRequestsAndEvents_events : let w (n : Nat) : State := { one [] with cycle := n }; let h (t : Nat) := acting (arg2 3 t) (one [])
    (¬ (w 999999999).chip.wdog + 10 ^ 9 ≤ (w 999999999).cycle ∧ (w 1000000000).chip.wdog + 10 ^ 9 ≤ (w 1000000000).cycle) ∧ of (some 9) (fun t => t.halted) (exec .watchdogExpiry (w 999999999)) = none ∧ of none (fun t => t.halted) (exec .watchdogExpiry (w 1000000000)) = some 4 ∧
    of none (fun t => t.halted) (exec .thermalThreshold (h 110000)) = some 5 ∧ of 0 (fun t => (t.cluster 204).budget) (exec .thermalThreshold (h 109999)) = 8 ∧ of 9 (fun t => t.records.length) (exec .thermalThreshold (h 99999)) = 0 ∧
    of 0 (fun t => t.chip.slew) (exec .timeCorrection (acting { arg1 3 with ok := true } (one []))) = -3 ∧ (({ one [] with chip := { Chip.reset with slew := -3 } } : State).pass 5000).time = 4999 ∧
    of none (fun t => t.halted) (exec .chipReset (acting (arg1 4) (one []))) = some 20 ∧ of false (fun t => (t.slot 16384).active) (exec .chipReset (acting (arg1 4) (one []))) = true ∧ of false (fun t => (t.slot 16384).active) (exec .chipReset (acting (arg1 3) (one []))) = false := by decide +kernel

/-- Partition 1 over cluster 0 alone. -/
def lone (st : BitVec 2) (x : SMap Word) : State := { one x with parts := [(1, { part1 with colhi := 0, rowhi := 0, st := st })] }

/-- Premises of ContainmentAndPower, for containment: a partition over cluster 0 with GO, in STATE 0 and 3, and one that is none; what a reset of a partition without clusters does. -/
theorem witness_ContainmentAndPower_containment : let s := acting { arg1 0 with v := 0x101 } (lone 0 [(6, 1)]); let c := acting (arg1 1) (lone 3 [(6, 1)]); let g := acting { arg1 0 with v := 0x102 } (superv [] 0); let d := acting (arg1 2) (superv [] 3)
    ((s.arg.v.getLsbD 8 = true ∧ s.chip.rstBusy = false ∧ bitsAt s.arg.v 0 8 = 1 ∧ (s.part 1).known = true) ∧ s.net = [] ∧ (s.part 1).clusters = [0] ∧ (s.part 2).known = false ∧ (c.part 1).st = 3 ∧ (s.part 1).st ≠ 3) ∧
    of 0 (fun t => (t.part 2).st) (exec .containmentResetGo g) = 3 ∧ of false (fun t => t.chip.rstBusy) (exec .containmentResetGo g) = true ∧ of 9 (fun t => (t.part 2).st) (exec .containmentResetComplete d) = 0 ∧ of [] (fun t => t.records.map SRec.cause) (exec .containmentResetComplete d) = [0xD0] := by decide +kernel
theorem witness_ContainmentAndPower_pending : let s := acting { arg1 0 with v := 0x101 } (lone 0 [(6, 1)])
    ∀ cl ∈ (s.part 1).clusters, ∀ i < 8, (s.core (cl * 8 + i)).reorder = [] ∧ (s.core (cl * 8 + i)).held = [] ∧ ∀ j, 1 ≤ j → j < 4096 → (s.entry (cl * 8 + i) j).st ≠ 1 ∨ (s.entry (cl * 8 + i) j).role = 0 := by
  intro s cl hc i hi
  have e : (s.part 1).clusters = [0] := by decide +kernel
  rw [e] at hc; cases List.mem_singleton.mp hc
  refine ⟨rfl, rfl, fun j _ _ => Or.inl ?_⟩
  have z : s.entry (0 * 8 + i) j = HEntry.zero := by
    interval_cases i <;> rfl
  rw [z]; decide

/-- A cluster with a power request under way. -/
def powering (req st : BitVec 2) (busy : Bool) (v : Word) (s : State) : State := { s.modCluster 0 fun k => { k with req := req, pstate := st, pbusy := busy } with arg := { Arg.zero with v := v } }

/-- Premises of ContainmentAndPower, for power: ignored requests, one that changes nothing and one that does; a change that waits, goes on, loses and clears the SRAM. -/
theorem witness_ContainmentAndPower_power : let f := withSram 0x40 [7] (one []); let q : State := { f with slots := [] }
    (((powering 1 1 true 0 f).cluster 0).pbusy = true ∧ (f.slot 0).active = true ∧ ((powering 2 1 true 0 q).cluster 0).req = 2 ∧ (q.slot 0).active = false) ∧
    of true (fun t => (t.cluster 0).pbusy) (exec .clusterPowerRequest (powering 1 1 false 3 f)) = false ∧ of false (fun t => (t.cluster 0).pbusy) (exec .clusterPowerRequest (powering 1 1 false 2 f)) = true ∧ of true (fun t => (t.cluster 0).pbusy) (exec .clusterPowerRequest (powering 1 1 false 1 f)) = false ∧
    of false (fun t => t.deferred) (exec .clusterPowerChangeComplete (powering 2 1 true 0 f)) = true ∧ of 9 (fun t => (t.cluster 0).pstate) (exec .clusterPowerChangeComplete (powering 2 1 true 0 q)) = 2 ∧ of 9 (fun t => t.byteAt (sramKey 0 0x40)) (exec .clusterPowerChangeComplete (powering 2 1 true 0 q)) = 7 ∧
    of 9 (fun t => t.byteAt (sramKey 0 0x40)) (exec .clusterPowerChangeComplete (powering 0 1 true 0 f)) = 0 ∧ of true (fun t => (t.slot 0).active) (exec .clusterPowerChangeComplete (powering 0 1 true 0 f)) = false ∧ of 9 (fun t => t.byteAt (sramKey 0 0x40)) (exec .clusterPowerChangeComplete (powering 1 0 true 0 f)) = 0 := by decide +kernel

/-- A configuration write. -/
def writing (b : Block) (off : Nat) (v : Word) : State := acting { arg1 off with blk := b, v := v } (one [])
def after (b : Block) (off : Nat) (v : Word) : State := of (one []) id (exec .configRegisterWrite (writing b off v))

/-- Premises of ConfigurationWrites: the last register of each table, at its offset. -/
theorem witness_ConfigurationWrites : ((writing (.core 0) 0x1FF8 0).arg.blk = .core 0 ∧ (0x1FF8 : Nat) = 8 * 1023 ∧ (0x2078 : Nat) = 0x2000 + 8 * 15 ∧ (0x21F0 : Nat) = 0x2100 + 16 * 15 ∧ (0x21F8 : Nat) = 0x2108 + 16 * 15 ∧ (0x2308 : Nat) ≤ 0x2308 ∧ (one []).chip.thermal ≠ (one []).cycle + 1) ∧
    look Handler.reset ((after (.core 0) 0x1FF8 (0xD000000000700 + 2 ^ 63)).core 0).handlers 1023 = ⟨0x700, 1, true, true⟩ ∧ look ClassD.reset ((after (.core 0) 0x2078 0x7F).core 0).classes 15 = ⟨true, true, 15, true⟩ ∧
    (look Region.reset ((after (.core 0) 0x21F0 (2 ^ 49 + 5)).core 0).regions 15).base = 5 ∧ ((after (.core 0) 0x2300 7).core 0).agesint = 7 ∧ (look Region.reset ((after (.cluster 0) 0xF0 (2 ^ 51)).cluster 0).prot 15).wr = true ∧ ((after (.cluster 0) 0x308 9).cluster 0).budget = 9 ∧
    look 0 ((after (.cluster 0) 0x300 0x70000000).cluster 0).weights 7 = 7 ∧ ((after .launch 0xF8 0x105).cqueue 15).en = true ∧ ((after .launch 0x8FF8 (7 + 1 * 2 ^ 32)).event 4095).count = 7 ∧ (look TxEnt.reset (after .fabric (256 * 1023) 3).fabric.tx 1023).valid = true ∧
    ((after .fabric (0x40000 + 64 * 1023) (4 + 16)).rx 1023).sendmap = true ∧ (look Group.reset (after .fabric (0x80000 + 32 * 4095) 3).fabric.groups 4095).part = 1 ∧ look 0 (after .fabric (0xA0000 + 4 * 16383) 0x3FFFF).fabric.routes 16383 = 0x3FFFF ∧ (after .fabric 0x61000 5).fabric.closetmo = 5 ∧
    (after .chip 0x218 1).chip.paction.getLsbD 192 = true ∧ look 0 (after .chip (0xC00 + 8 * 255) 9).chip.fhandle 255 = 9 ∧ ((after (.partition 3) 0 (3 + 2 ^ 24)).part 3).known = true ∧ ((after (.partition 3) 8 6).part 3).runlimit = 6 ∧ (after (.core 0) 0x2300 7).configRead (.core 0) 0x2300 = 7 ∧ (after (.partition 3) 0 (3 + 2 ^ 24)).configRead (.partition 3) 0 = 3 + 2 ^ 24 + 2 ^ 46 ∧ (after .chip 0x310 1).configRead .chip 0x310 = 0 := by decide +kernel

/-- Premises of StepRunsTheDecodedInstruction, for issues: the first instruction after reset is the one placed there; a core with a slot that may issue, and one without; a word that no table has, a poisoned one, a page that is not there. -/
theorem witness_StepRunsTheDecodedInstruction_issues : let s := State.reset.withFetchWord 32 0x0A166303; let n : State := { one [] with slots := [] }; let w := State.reset.withFetchWord 16 0
    (s.halted = none ∧ s.agenda = [.issue 0] ∧ s.tooLate (.issue 0) = false ∧ s.select 0 = some 0 ∧ (one []).select (one []).focus = some 0 ∧ n.select n.focus = none) ∧
    (let b := s.inHand 0; (b.check 0 ((b.slot 0).pc.setWidth 64) 2 .fetch).1 = .ok (.dram 0 0x10000 2 0) ∧ b.homePoison (.dram 0 0x10000 2 0) = false ∧ (b.core 0).scheck = false) ∧ decode [0x03, 0x63, 0x16, 0x0A] = .instr (.sll 6 6 11 0) 4 ∧ decode [0, 0] = .illegal 0 2 ∧
    of 0 (fun t => (t.slot 0).retired) (step s) = 1 ∧ causeOf (step w) = cILLEGAL ∧ causeOf (step { s with mem := [] }) = cNOTPRESENT ∧ causeOf (step { s with poison := [(0x10000 / 64, true)] }) = cPOISON ∧
    (let e := s.modSlot 0 fun sl => { sl with pend := [⟨.x, 11, 5, 0, 9, 0x10000⟩] }; causeOf (step (e.modCore 0 fun k => { k with scheck := true })) = cSTALLSHORT) := by decide +kernel

/-- Premises of StepRunsTheDecodedInstruction, for the order of a cycle: an issue after a step of a lower place and before one of a higher; a step whose place is past; the cycle's end; turns of the agenda. -/
theorem witness_StepRunsTheDecodedInstruction_order : let w (i : Sys2Proof.Instr) : State := { one [] with todo := [⟨i, arg1 3⟩] }; let n : State := { one [] with slots := [] }
    (((one []).agenda = [] ∧ (one []).halted = none ∧ (one []).tooLate (.issue 0) = false ∧ (one []).coreRank 0 = some (2 ^ 48) ∧ n.coreRank 0 = none ∧ (w .closeTimeout).eventRank ⟨.closeTimeout, arg1 3⟩ = some (8 * 2 ^ 48)) ∧
    (w .windowPortTake).eventRank ⟨.windowPortTake, arg1 3⟩ = some 0 ∧ ({ w .windowPortTake with rank := 2 ^ 48 } : State).tooLate (.event ⟨.windowPortTake, arg1 3⟩) = true ∧ (w .windowPortTake).tooLate (.event ⟨.windowPortTake, arg1 3⟩) = false) ∧
    of 9 (fun t => t.cycle) (step n) = 1 ∧ of 9 (fun t => t.todo.length) (step (w .windowPortTake)) = 0 ∧ of 9 (fun t => t.todo.length) (step (w .closeTimeout)) = 1 ∧ of 0 (fun t => t.work.length) (step { w .windowPortTake with rank := 2 ^ 48 }) = 1 ∧
    of 0 (fun t => t.cycle) (step { one [] with agenda := [.tick 5] }) = 5 ∧ of 0 (fun t => t.chip.slew) (step { one [] with agenda := [.event ⟨.timeCorrection, arg1 3⟩] }) = 3 := by decide +kernel

/-- Premises of EncodingRoundTrips: a well-formed encoded instruction, and a word of each length that decodes. -/
theorem witness_EncodingRoundTrips : (Instr.sll 6 6 11 0).wf = true ∧ (Instr.sll 6 6 11 0).encoded = true ∧ decodeWord 0x0A166303 = some (.sll 6 6 11 0) ∧ decodeWord 0x18A2 = some (.cAdd 5 6) := by decide +kernel

/-- Premises of OnlyAFatalErrorStopsTheChip: a chip that runs, one that has halted, and one that a reset takes up again. -/
theorem witness_OnlyAFatalErrorStopsTheChip : (one []).halted = none ∧ ({ one [] with halted := some 4 } : State).halted.isSome = true ∧ (match step ({ one [] with halted := some 4 }) with | .fault .chipHalted => true | _ => false) = true ∧
    of (some 9) (fun t => t.halted) (step ({ one [] with halted := some 4, agenda := [.event ⟨.chipReset, arg1 0⟩] })) = none := by decide +kernel

/-- Premises of EveryStepKeepsMemoryCanonical: a canonical memory and a step from it. -/
theorem witness_EveryStepKeepsMemoryCanonical : Memory.wf (withSram 0x40 [1, 0, 2] (one [])).mem = true ∧ of 9 (fun t => t.mem.length) (step (withSram 0x40 [1, 0, 2] (one []))) = 2 := by decide +kernel

/-- Premises of ContainmentAndPower: no command is held at its counter; a plain pending answer entry whose key lies outside the partition under reset. -/
theorem witness_ContainmentAndPower_entries : let s := answering []; let l := lone 0 [(6, 1)]
    l.heldCommands 1 = [] ∧ (2 ≤ (s.entry 0 1).role ∧ (s.entry 0 1).st = 1 ∧ (s.entry 0 1).w4 = 0 ∧ (s.entry 0 1).w6 = 0 ∧ (s.entry 0 1).dropped = false ∧ (s.entry 0 1).moved = false) ∧
    s.insideRect 1 (s.numOf 0) = true ∧ s.isLocalPromise 0 1 = false ∧ s.forwarding 0 (s.entry 0 1).w2 = false := by decide +kernel

/-- Premises of AstrolabeRequestsAndEvents: a flow that an entry uses, which gets its marker (R384, R385). -/
theorem witness_AstrolabeRequestsAndEvents_flow : let s := mailing 1 0x80000 id; let u : State := { s with fabric := { s.fabric with far := [(2, { FarD.reset with valid := true, flow := 16 })] } }
    risingKeys u.fabric.far = true ∧ u.flowDown 16 = false ∧ of [] (fun t => t.fabric.etherOut.map fun x => (x.flow, x.what)) (exec .mailboxFlowkey u) = [(16, .rekey 2)] ∧
    of [] (fun t => (t.port 1).out.map Flit.marker) (exec .mailboxLinkkey u) = [true] := by decide +kernel

/-- FIPS 202's own value: SHA3-256 of the empty message (R386). -/
theorem test_sha3 : toBytes 32 (sha3 []).toNat = [0xa7, 0xff, 0xc6, 0xf8, 0xbf, 0x1e, 0xd7, 0x66, 0x51, 0xc1, 0x47, 0x56, 0xa0, 0x61, 0xd6, 0x62, 0xf5, 0x80, 0xff, 0x4d, 0xe4, 0x3b, 0x49, 0xfa, 0x82, 0xd8, 0x0a, 0x4b, 0x80, 0xf8, 0x43, 0x4a] := by decide +kernel

end Sys2Proof.Tests
end

namespace Sys2Proof.Machine

/-! # The memory stays canonical (O60) and no step but a halted chip's is refused (O59) -/

/-- The memory of a state is in its canonical form. -/
def State.canonical (s : State) : Prop := Memory.wf s.mem = true

/-- A change of other fields leaves the memory canonical. -/
theorem State.canonical.update {s : State} (h : s.canonical)
    {f1 f2 f3 f4 f5 f6 f7 f8 f9 f10 f11 f12 f13 f14 f15 f16 f17 f18 f19 f20 f21 g1 g2 g3 g4 g5 g6 g7 g8 g9 g10 g11 g12 g13} :
    (State.mk f1 f2 f3 f4 f5 f6 f7 f8 f9 f10 f11 f12 f13 f14 f15 f16 f17 f18 f19 f20 f21 s.mem g1 g2 g3 g4 g5 g6 g7 g8 g9 g10 g11 g12 g13).canonical := h

/-- So does dropping a range of bytes. -/
theorem State.canonical.of_drop {s : State} {a n : Nat} (h : s.canonical)
    {f1 f2 f3 f4 f5 f6 f7 f8 f9 f10 f11 f12 f13 f14 f15 f16 f17 f18 f19 f20 f21 g1 g2 g3 g4 g5 g6 g7 g8 g9 g10 g11 g12 g13} :
    (State.mk f1 f2 f3 f4 f5 f6 f7 f8 f9 f10 f11 f12 f13 f14 f15 f16 f17 f18 f19 f20 f21 (Memory.drop a n s.mem) g1 g2 g3 g4 g5 g6 g7 g8 g9 g10 g11 g12 g13).canonical :=
  Memory.wf_drop a n h

theorem State.canonical.ite {c : Prop} [Decidable c] {s t : State} (hs : s.canonical) (ht : t.canonical) : (if c then s else t).canonical := by
  split
  · exact hs
  · exact ht

theorem State.canonical.ite_left {c : Prop} [Decidable c] {s t : State} (h : s.canonical) (ht : s.canonical → t.canonical) :
    (if c then t else s).canonical := (ht h).ite h

theorem State.canonical.ite_right {c : Prop} [Decidable c] {s t : State} (h : s.canonical) (ht : s.canonical → t.canonical) :
    (if c then s else t).canonical := h.ite (ht h)

theorem State.canonical.foldl {α : Type} {f : State → α → State} {s : State} {l : List α} (h : s.canonical)
    (hf : ∀ s a, s.canonical → (f s a).canonical) : (l.foldl f s).canonical := by
  induction l generalizing s with
  | nil => exact h
  | cons a l ih => exact ih (hf s a h)

theorem canonical_foldl_snd {α β : Type} {f : β × State → α → β × State} (hf : ∀ p a, p.2.canonical → (f p a).2.canonical) {p : β × State}
    (h : p.2.canonical) {l : List α} : (l.foldl f p).2.canonical := by
  induction l generalizing p with
  | nil => exact h
  | cons a l ih => exact ih (hf p a h)

theorem canonical_foldl_fst {α β : Type} {f : State × β → α → State × β} (hf : ∀ p a, p.1.canonical → (f p a).1.canonical) {p : State × β}
    (h : p.1.canonical) {l : List α} : (l.foldl f p).1.canonical := by
  induction l generalizing p with
  | nil => exact h
  | cons a l ih => exact ih (hf p a h)

theorem State.canonical.getD {o : Option State} {s : State} (h : s.canonical) (ho : ∀ t, o = some t → t.canonical) : (o.getD s).canonical := by
  cases o with
  | none => exact h
  | some t => exact ho t rfl

theorem canonical_ite_snd {α : Type} {c : Prop} [Decidable c] {p q : α × State} (hp : p.2.canonical) (hq : q.2.canonical) :
    (if c then p else q).2.canonical := by
  split
  · exact hp
  · exact hq

theorem canonical_snd_of {α : Type} {p : α × State} {a : α} {t : State} (e : p = (a, t)) (h : p.2.canonical) : t.canonical := by
  subst e; exact h
theorem canonical_fst_of {α : Type} {p : State × α} {a : α} {t : State} (e : p = (t, a)) (h : p.1.canonical) : t.canonical := by
  subst e; exact h

section options
variable {α β ε : Type} {P : α → Prop} {Q : β → Prop}

theorem all_none : ∀ x, (none : Option α) = some x → P x := nofun
theorem all_some {a : α} (h : P a) : ∀ x, some a = some x → P x := fun _ e => Option.some.inj e ▸ h
theorem all_ite {c : Prop} [Decidable c] {o o' : Option α} (h : ∀ x, o = some x → P x) (h' : ∀ x, o' = some x → P x) :
    ∀ x, (if c then o else o') = some x → P x := by
  split
  · exact h
  · exact h'
theorem all_map {o : Option α} {f : α → β} (h : ∀ x, o = some x → Q (f x)) : ∀ y, o.map f = some y → Q y := by
  intro y e
  obtain ⟨x, hx, rfl⟩ := Option.map_eq_some_iff.1 e
  exact h x hx
theorem all_bind {o : Option α} {f : α → Option β} (h : ∀ x, o = some x → ∀ y, f x = some y → Q y) : ∀ y, o.bind f = some y → Q y := by
  intro y e
  obtain ⟨x, hx, hy⟩ := Option.bind_eq_some_iff.1 e
  exact h x hx y hy
theorem ok_ok {a : α} (h : P a) : ∀ x, (Except.ok a : Except ε α) = .ok x → P x := fun _ e => Except.ok.inj e ▸ h
theorem ok_error {a : ε} : ∀ x, (Except.error a : Except ε α) = .ok x → P x := nofun
theorem ok_ite {c : Prop} [Decidable c] {r r' : Except ε α} (h : ∀ x, r = .ok x → P x) (h' : ∀ x, r' = .ok x → P x) :
    ∀ x, (if c then r else r') = .ok x → P x := by
  split
  · exact h
  · exact h'
theorem error_error {R : ε → Prop} {a : ε} (h : R a) : ∀ x, (Except.error a : Except ε α) = .error x → R x := fun _ e => Except.error.inj e ▸ h
theorem error_ok {R : ε → Prop} {a : α} : ∀ x, (Except.ok a : Except ε α) = .error x → R x := nofun
end options

/-- The state that comes with either answer is canonical. -/
def Answered {α β : Type} (r : Except (β × State) (α × State)) : Prop :=
  (∀ x, r = .ok x → x.2.canonical) ∧ ∀ x, r = .error x → x.2.canonical

theorem answered_ok {α β : Type} {x : α × State} (h : x.2.canonical) : Answered (.ok x : Except (β × State) (α × State)) :=
  ⟨ok_ok h, error_ok⟩
theorem answered_error {α β : Type} {x : β × State} (h : x.2.canonical) : Answered (.error x : Except (β × State) (α × State)) :=
  ⟨ok_error, error_error h⟩
theorem Answered.of_ok {α β : Type} {r : Except (β × State) (α × State)} {a : α} {t : State} (h : Answered r) (e : r = .ok (a, t)) : t.canonical :=
  h.1 _ e
theorem Answered.of_error {α β : Type} {r : Except (β × State) (α × State)} {b : β} {t : State} (h : Answered r) (e : r = .error (b, t)) :
    t.canonical := h.2 _ e
theorem Answered.ite {α β : Type} {c : Prop} [Decidable c] {r r' : Except (β × State) (α × State)} (h : Answered r) (h' : Answered r') :
    Answered (if c then r else r') := by
  split
  · exact h
  · exact h'

/-- An outcome is a next state, whose memory is canonical if that of `s` is. -/
def State.Keeps (s : State) (o : Host.Outcome State Fault Refusal) : Prop := ∃ t, o = .next t ∧ (s.canonical → t.canonical)

theorem State.Keeps.next {s t : State} (h : s.canonical → t.canonical) : s.Keeps (.next t) := ⟨t, rfl, h⟩

theorem State.canonical.setBytes {k : Nat} {l : List Byte} {s : State} (h : s.canonical) : (s.setBytes k l).canonical := State.setBytes_wf k l h

/-! ## Every function of the model keeps the memory canonical

One lemma per function of the model that answers a state, in the order of the definitions: most chain the lemmas of the functions it calls,
and only the few that touch the memory themselves cite the laws of memory. -/

theorem State.canonical.modChip {f} {s : State} (h : s.canonical) : (s.modChip f).canonical := h.update

theorem State.canonical.loseRecord {s : State} (h : s.canonical) : s.loseRecord.canonical := h.modChip

theorem State.canonical.setSector {n v} {s : State} (h : s.canonical) : (s.setSector n v).canonical := h.update

theorem State.canonical.modSector {n f} {s : State} (h : s.canonical) : (s.modSector n f).canonical := h.setSector

theorem State.canonical.takeWalk {u dom page} {s : State} (h : s.canonical) : ∀ t, (s.takeWalk u dom page) = some t → t.canonical := by
  unfold State.takeWalk
  split
  · exact all_some h
  · exact all_ite (all_some h) (all_ite all_none (all_some h.modSector))

theorem State.canonical.record {cause info w1 w2} {s : State} (h : s.canonical) : (s.record cause info w1 w2).canonical := h.update

theorem State.canonical.recordPosition {line sym} {s : State} (h : s.canonical) : (s.recordPosition line sym).canonical := h.ite h.modChip.record

theorem State.canonical.correctedAt {line once} {s : State} {sym} (h : s.canonical) : (s.correctedAt line once sym).canonical :=
    h.recordPosition.ite h.modChip

theorem State.canonical.decodeLine {line} {s : State} (h : s.canonical) : (s.decodeLine line).canonical :=
    h.ite ((h.foldl (fun _ _ h1 => h1.correctedAt)).ite h.record)

theorem State.canonical.keyRecord {ks pa} {s : State} (h : s.canonical) : (s.keyRecord ks pa).canonical := h.ite h.record

theorem State.canonical.setPoison {k b} {s : State} (h : s.canonical) : (s.setPoison k b).canonical := h.update

theorem State.canonical.renew {pa whole} {s : State} (h : s.canonical) : (s.renew pa whole).canonical :=
    h.ite (((h.ite h.decodeLine).ite ((h.ite h.decodeLine).setPoison)).update)

theorem State.canonical.lpWrite {ks pa l} {s : State} (h : s.canonical) : (s.lpWrite ks pa l).canonical := by
  unfold State.lpWrite
  split
  · exact h.keyRecord
  · dsimp only
    split
    · exact h.renew.setBytes.update
    · exact (h.renew.ite h.renew.setBytes).setBytes.update

theorem State.canonical.cleanL2 {slice pa} {s : State} (h : s.canonical) : (s.cleanL2 slice pa).canonical := by
  unfold State.cleanL2
  split
  · exact h
  · exact h.ite (h.update.keyRecord.ite ((h.update.lpWrite.ite (h.update.foldl (fun s1 a h1 => h1.lpWrite))).setPoison))

theorem State.canonical.setAreaBits {pa b} {s : State} (h : s.canonical) : (s.setAreaBits pa b).canonical := h.lpWrite.ite h

theorem State.canonical.setFullAt {k b} {s : State} (h : s.canonical) : (s.setFullAt k b).canonical := h.update

theorem State.canonical.setLineFull {k b} {s : State} (h : s.canonical) : (s.setLineFull k b).canonical := h.foldl (fun _ _ h1 => h1.setFullAt)

theorem State.canonical.evictL2 {slice pa} {s : State} (h : s.canonical) : (s.evictL2 slice pa).canonical := h.ite h.cleanL2.setAreaBits.of_drop

theorem State.canonical.roomL2 {slice pa} {s : State} (h : s.canonical) : (s.roomL2 slice pa).canonical := by
  unfold State.roomL2
  dsimp only
  split
  · exact h
  · split
    · exact h
    · exact h.update.evictL2

theorem State.canonical.fillL2 {slice ks pa} {s : State} (h : s.canonical) : (s.fillL2 slice ks pa).canonical := by
  unfold State.fillL2
  extract_lets s1 base k bad s2 s3 m
  have h3 : s3.canonical := h.roomL2.decodeLine.decodeLine.ite h.roomL2.decodeLine
  have hm : Memory.wf m = true := by
    unfold m
    split
    · exact Memory.wf_copy _ _ _ h3
    · split
      · exact Memory.wf_copy _ _ _ h3
      · exact Memory.wf_setList _ _ h3
  exact h.ite (State.canonical.keyRecord (State.canonical.setLineFull (State.canonical.setPoison hm)))

theorem State.canonical.touch {hm} {s : State} (h : s.canonical) : (s.touch hm).canonical := by
  unfold State.touch
  split
  · exact h
  · exact (h.ite h.keyRecord.decodeLine).ite h.fillL2

theorem State.canonical.setCluster {k v} {s : State} (h : s.canonical) : (s.setCluster k v).canonical := h.update

theorem State.canonical.modCluster {k f} {s : State} (h : s.canonical) : (s.modCluster k f).canonical := h.setCluster

theorem State.canonical.modHeld {u dom f} {s : State} (h : s.canonical) : (s.modHeld u dom f).canonical := by
  unfold State.modHeld
  split
  · exact h.modCluster
  · exact h.modSector

theorem State.canonical.walk {u dom va} {s : State} (h : s.canonical) : (s.walk u dom va).2.canonical := by
  unfold State.walk
  split
  · exact h
  next e =>
    dsimp only
    split
    · exact ((h.takeWalk _ e).foldl (fun s1 a h1 => h1.touch)).modHeld
    · exact ((h.takeWalk _ e).foldl (fun s1 a h1 => h1.touch)).modHeld

theorem State.canonical.translate {u dom va} {s : State} (h : s.canonical) : (s.translate u dom va).2.canonical := by
  unfold State.translate
  split
  · split
    · exact h.walk
    · exact h
  · exact h.walk

theorem State.canonical.checkBy {u c a n need} {s : State} (h : s.canonical) : (s.checkBy u c a n need).2.canonical := by
  unfold State.checkBy
  split
  · exact h
  · split
    · exact h
    · dsimp only
      split
      · exact h
      · split
        · exact h.translate
        · exact h.translate
        · exact h.translate
        · split
          · exact h.translate
          · exact h.translate

theorem State.canonical.endWalk {u dom} {s : State} (h : s.canonical) : (s.endWalk u dom).canonical := by
  unfold State.endWalk
  split
  · exact h
  · exact h.modSector

theorem State.canonical.engineCheckBy {u core a n need} {s : State} (h : s.canonical) : (s.engineCheckBy u core a n need).2.canonical := by
  unfold State.engineCheckBy
  refine canonical_ite_snd h ?_
  extract_lets answer
  have ha : ∀ r, r.2.canonical → (answer r).2.canonical := by
    intro r hr
    unfold answer
    split <;> exact hr
  clear_value answer
  split
  next e => exact ha _ (canonical_snd_of e h.checkBy).endWalk.checkBy
  · exact ha _ h.checkBy

theorem State.canonical.engineChecksBy {u core need l} {s : State} (h : s.canonical) : (s.engineChecksBy u core need l).2.canonical := by
  induction l generalizing s with
  | nil => exact h
  | cons a l ih =>
    unfold State.engineChecksBy
    split
    next _ _ e => exact canonical_snd_of e h.engineCheckBy
    next _ _ e =>
      have hs := ih (canonical_snd_of e h.engineCheckBy)
      split
      next e => exact canonical_snd_of e hs
      next e => exact canonical_snd_of e hs

theorem State.canonical.dropL1 {k pa} {s : State} (h : s.canonical) : (s.dropL1 k pa).canonical := h.of_drop.ite h

theorem State.canonical.dropCluster {cl hm} {s : State} (h : s.canonical) : (s.dropCluster cl hm).canonical := by
  unfold State.dropCluster
  split
  · exact h.dropL1
  · exact h

theorem State.canonical.maskL2 {slice pa n ks} {s : State} (h : s.canonical) : (s.maskL2 slice pa n ks).canonical := h.update

theorem State.canonical.post {i a} {s : State} (h : s.canonical) : (s.post i a).canonical := h.update

theorem State.canonical.notice {pa} {s : State} (h : s.canonical) : (s.notice pa).canonical := h.foldl (fun _ _ h1 => h1.post)

theorem State.canonical.homeWrite {hm l} {s : State} (h : s.canonical) : (s.homeWrite hm l).canonical := by
  unfold State.homeWrite
  split
  · exact h.setBytes
  · exact ((h.setBytes.maskL2.cleanL2.ite h.lpWrite).ite h.fillL2.setBytes.maskL2).notice

theorem State.canonical.setHomePoison {hm b} {s : State} (h : s.canonical) : (s.setHomePoison hm b).canonical := by
  unfold State.setHomePoison
  split
  · exact h.setPoison
  · refine State.canonical.ite ?_ (h.setPoison.ite h)
    refine h.setPoison.setPoison.ite ?_
    split
    · exact h.setPoison
    · exact h.setPoison.update

theorem State.canonical.engineWrite {hm l bad} {s : State} (h : s.canonical) : (s.engineWrite hm l bad).canonical :=
    h.homeWrite.setHomePoison.ite (h.homeWrite.setHomePoison.ite h.homeWrite)

theorem State.canonical.engineLand {cl bad l b} {s : State} (h : s.canonical) : (s.engineLand cl bad l b).canonical := by
  induction l generalizing s b with
  | nil => exact h
  | cons a l ih =>
    unfold State.engineLand
    refine ih ?_
    split
    · exact h.engineWrite.dropCluster
    · exact h

theorem State.canonical.engineStoreBy {u core a l bad} {s : State} (h : s.canonical) : (s.engineStoreBy u core a l bad).2.canonical := by
  unfold State.engineStoreBy
  split
  next e => exact canonical_snd_of e h.engineChecksBy
  next e => exact (canonical_snd_of e h.engineChecksBy).engineLand

theorem State.canonical.engineStore {core a l bad} {s : State} (h : s.canonical) : (s.engineStore core a l bad).2.canonical := h.engineStoreBy

theorem State.canonical.setHomeFull {hm b} {s : State} (h : s.canonical) : (s.setHomeFull hm b).canonical := by
  unfold State.setHomeFull
  split
  · exact h.setFullAt
  · exact ((h.ite h.fillL2).setFullAt.ite (h.ite h.fillL2)).setAreaBits.ite ((h.ite h.fillL2).setFullAt.ite (h.ite h.fillL2))

theorem State.canonical.fillWord {hm} {s : State} (h : s.canonical) : (s.fillWord hm).canonical := h.setHomeFull.update

theorem State.canonical.writeRecord {s : State} {r} (h : s.canonical) : (s.writeRecord r).canonical := by
  unfold State.writeRecord
  dsimp only
  split
  · exact h
  · split
    · exact h.loseRecord
    · split
      next e2 => exact (canonical_snd_of e2 h.engineStore).loseRecord
      · refine State.canonical.modChip ?_
        split
        next e3 => exact (canonical_snd_of e3 h.engineStore).fillWord
        next e3 => exact canonical_snd_of e3 h.engineStore

theorem State.canonical.writeRecords {s : State} (h : s.canonical) : s.writeRecords.canonical := h.update.foldl (fun _ _ h1 => h1.writeRecord)

theorem State.canonical.modFabric {f} {s : State} (h : s.canonical) : (s.modFabric f).canonical := h.update

theorem State.canonical.drainPorts {s : State} (h : s.canonical) : s.drainPorts.canonical := h.ite h.modFabric

theorem State.canonical.modPort {p f} {s : State} (h : s.canonical) : (s.modPort p f).canonical := h.modFabric

theorem State.canonical.emit {port vc cls poison dest bytes carry} {s : State} (h : s.canonical) :
    (s.emit port vc cls poison dest bytes carry).canonical := h.modPort

theorem State.canonical.etherSend {i x} {s : State} (h : s.canonical) : (s.etherSend i x).canonical := h.ite h.modChip.modFabric

theorem State.canonical.setCore {c v} {s : State} (h : s.canonical) : (s.setCore c v).canonical := h.update

theorem State.canonical.modCore {c f} {s : State} (h : s.canonical) : (s.modCore c f).canonical := h.setCore

theorem State.canonical.setCredit {c key v} {s : State} (h : s.canonical) : (s.setCredit c key v).canonical := h.modCore

theorem State.canonical.faultRecord {part chan a0 a1} {s : State} (h : s.canonical) : (s.faultRecord part chan a0 a1).canonical := h.record

theorem State.canonical.number {s : State} (h : s.canonical) : s.number.2.canonical := h.update

theorem State.canonical.sendPacket {src dst b} {s : State} (h : s.canonical) : (s.sendPacket src dst b).canonical := h.update.post.ite h.update

theorem State.canonical.expEnd {c e reason} {s : State} (h : s.canonical) : (s.expEnd c e reason).canonical := by
  unfold State.expEnd
  split
  · exact h
  · exact h.sendPacket

theorem State.canonical.lostRecord {kind dst w1 w2} {s : State} (h : s.canonical) : (s.lostRecord kind dst w1 w2).canonical := h.record

theorem State.canonical.setPair {c recv i p} {s : State} (h : s.canonical) : (s.setPair c recv i p).canonical := by
  unfold State.setPair
  split
  · exact h
  · exact h.homeWrite

theorem State.canonical.closeGap {c n m g f i} {s : State} (h : s.canonical) : (s.closeGap c n m g f i).canonical := by
  induction f generalizing s g i with
  | zero => exact h
  | succ f ih =>
    unfold State.closeGap
    split
    · exact h
    · exact h.ite ((ih h).ite (ih h.setPair.setPair))

theorem State.canonical.freeSend {c target} {s : State} (h : s.canonical) : (s.freeSend c target).canonical := by
  unfold State.freeSend
  split
  · exact h
  · exact h.ite h.setPair.closeGap

theorem State.canonical.freeStale {c r} {s : State} (h : s.canonical) : (s.freeStale c r).canonical := by
  unfold State.freeStale
  split
  · exact h.freeSend.ite h
  · exact h

theorem State.canonical.tellStale {c r} {s : State} (h : s.canonical) : (s.tellStale c r).canonical := by
  unfold State.tellStale
  split
  · exact h.freeStale.ite h.sendPacket
  · exact h

theorem State.canonical.setEntry {c i e} {s : State} (h : s.canonical) : (s.setEntry c i e).canonical := by
  unfold State.setEntry
  dsimp only
  split
  · exact h
  · split
    · exact h
    · exact h.homeWrite

theorem State.canonical.freeCell {c n} {s : State} (h : s.canonical) : (s.freeCell c n).canonical := h.modCore

theorem State.canonical.freeCells {c l} {s : State} (h : s.canonical) : (s.freeCells c l).canonical := h.foldl (fun _ _ h1 => h1.freeCell)

theorem State.canonical.returnBlock {c key} {s : State} (h : s.canonical) : (s.returnBlock c key).canonical := h.setCredit.sendPacket

theorem State.canonical.sendAsk {c key} {s : State} (h : s.canonical) : ∀ t, (s.sendAsk c key) = some t → t.canonical :=
    all_ite (all_some h.sendPacket) (all_map (fun _ _ => (h.foldl (fun _ _ h1 => h1.returnBlock)).sendPacket))

theorem State.canonical.hold {c hm} {s : State} (h : s.canonical) : (s.hold c hm).canonical := h.modCore.post

theorem State.canonical.askBlock {c key} {s : State} (h : s.canonical) : (s.askBlock c key).canonical := by
  unfold State.askBlock
  dsimp only
  split
  · exact h
  · split
    next e1 => exact h.setCredit.sendAsk _ e1
    · exact h.setCredit.hold

theorem State.canonical.spend {c key} {s : State} (h : s.canonical) : ∀ t, (s.spend c key) = some t → t.canonical :=
    all_ite all_none (all_some (h.setCredit.askBlock.ite h.setCredit))

theorem State.canonical.forwardCell {c n m dst} {s : State} (h : s.canonical) : (s.forwardCell c n m dst).canonical := by
  unfold State.forwardCell
  split
  next e => exact ((all_ite all_none h.spend) _ e).freeCell.sendPacket
  · exact h.modCore.askBlock.hold

theorem State.canonical.moveAnswer {c dst f reply} {s : State} (h : s.canonical) : (s.moveAnswer c dst f reply).canonical := by
  induction f generalizing s reply with
  | zero => exact (rfl : s.moveAnswer c dst 0 reply = s) ▸ h
  | succ f ih =>
    refine h.ite ?_
    split
    · exact h
    · exact h.ite (h.setEntry.foldl fun _ _ h => ih h.forwardCell)

theorem State.canonical.sendNotice {c key dst r hop loc} {s : State} (h : s.canonical) : (s.sendNotice c key dst r hop loc).canonical :=
    h.hold.ite h.sendPacket

theorem State.canonical.sendNotices {c key r loc} {s : State} (h : s.canonical) : (s.sendNotices c key r loc).canonical :=
    h.sendNotice.sendNotice.ite h.sendNotice

theorem State.canonical.freeRecv {c e} {s : State} (h : s.canonical) : (s.freeRecv c e).canonical := h.foldl (fun _ _ h1 => h1.modCore.setPair)

theorem State.canonical.creditBack {c m} {s : State} (h : s.canonical) : (s.creditBack c m).canonical := h.ite h.sendPacket

theorem State.canonical.freePlace {c m} {s : State} (h : s.canonical) : (s.freePlace c m).canonical := h.modCluster.creditBack

theorem State.canonical.freeEntry {c i} {s : State} (h : s.canonical) : (s.freeEntry c i).canonical :=
    ((h.modCore.freeRecv.foldl (fun _ _ h1 => h1.freeCell)).ite h.modCore.freeRecv).setEntry.foldl (fun _ _ h1 => h1.freePlace.expEnd.hold)

theorem State.canonical.dropPromise {c i} {s : State} (h : s.canonical) : (s.dropPromise c i).canonical :=
    h.setEntry.ite ((h.freeEntry.ite h.freeEntry.sendPacket).sendPacket.ite (h.freeEntry.ite h.freeEntry.sendPacket))

theorem State.canonical.refreshHeads {c} {s : State} (h : s.canonical) : (s.refreshHeads c).canonical := h.modCore

theorem State.canonical.stir {c} {s : State} (h : s.canonical) : (s.stir c).canonical := h.refreshHeads.post

theorem State.canonical.joinQueue {c i it} {s : State} (h : s.canonical) : (s.joinQueue c i it).canonical := h.modCore.stir

theorem State.canonical.fireWhen {c obj gen ch hm r sender} {s : State} (h : s.canonical) : (s.fireWhen c obj gen ch hm r sender).canonical :=
    h.joinQueue.ite h

/-- What the three functions that resolve entries in a chain keep, at one depth of the chain. -/
def ResolvesCanonically (fuel : Nat) : Prop :=
  (∀ c i r tell src (s : State), s.canonical → (s.resolveEntry c fuel i r tell src).canonical) ∧
  (∀ c l r src (s : State), s.canonical → (s.breakAll c fuel l r src).canonical) ∧
  ∀ c l h r src (s : State), s.canonical → (s.fireAll c fuel l h r src).canonical

theorem State.canonical.resolveEntry_succ {fuel c i r tell src} {s : State} (hf : ResolvesCanonically fuel) (h : s.canonical) :
    (s.resolveEntry c (fuel + 1) i r tell src).canonical := by
  obtain ⟨_, hb, hw⟩ := hf
  have hm : ∀ {c i x d dst reply f} {s : State}, s.canonical → ((s.forwardCell c i x d).moveAnswer c dst f reply).canonical :=
    fun h => h.forwardCell.moveAnswer
  rw [State.resolveEntry]
  refine State.canonical.ite_left ?_ fun h => h.dropPromise
  refine State.canonical.ite_right ?_ fun h => h.sendNotice.ite (h.ite h.sendNotices)
  refine State.canonical.ite_right ?_ fun h => hw _ _ _ _ _ _ h
  refine State.canonical.ite ?_ ?_
  · refine hb _ _ _ _ _ ?_
    refine State.canonical.foldl ?_ fun _ _ h => h.expEnd
    exact State.canonical.freeCells (h.setEntry.modCore.ite h.freeCells.setEntry)
  · refine State.canonical.foldl ?_ ?_
    · exact h.setEntry.modCore.ite h.freeCells.setEntry
    · intro _ _ h
      exact State.canonical.ite (hm h) h.forwardCell

set_option maxRecDepth 20000 in
/-- The equation of `breakAll` at a positive depth. -/
theorem State.breakAll_succ {fuel c l r src} {s : State} : s.breakAll c (fuel + 1) l r src =
    l.foldl (fun s reply => if reply = 0 then s else match s.keyedIndex c reply with
      | none => s
      | some j => if (s.entry c j).st = 1 then s.resolveEntry c fuel j r true src else s) s := rfl

theorem State.canonical.breakAll_succ {fuel c l r src} {s : State}
    (hf : ResolvesCanonically fuel) (h : s.canonical) :
    (s.breakAll c (fuel + 1) l r src).canonical := by
  rw [State.breakAll_succ]
  refine h.foldl fun s _ h => h.ite ?_
  split
  · exact h
  · exact State.canonical.ite (hf.1 _ _ _ _ _ _ h) h

theorem State.canonical.fireAll_succ {fuel c l hm r src} {s : State} (hf : ResolvesCanonically fuel) (h : s.canonical) :
    (s.fireAll c (fuel + 1) l hm r src).canonical := by
  rw [State.fireAll]
  refine h.foldl fun s w h => State.canonical.ite ?_ h.sendPacket
  split
  · exact h.fireWhen
  · exact State.canonical.ite (hf.1 _ _ _ _ _ _ h) h

theorem resolvesCanonically (fuel : Nat) : ResolvesCanonically fuel := by
  induction fuel with
  | zero =>
    exact ⟨fun _ _ _ _ _ _ h => by rwa [State.resolveEntry], fun c l r src s h => (rfl : s.breakAll c 0 l r src = s) ▸ h, fun _ _ _ _ _ _ h => by rwa
        [State.fireAll]⟩
  | succ fuel ih =>
    exact ⟨fun _ _ _ _ _ _ h => State.canonical.resolveEntry_succ ih h, fun _ _ _ _ _ h => State.canonical.breakAll_succ ih h, fun _ _ _ _ _ _ h =>
        State.canonical.fireAll_succ ih h⟩

theorem State.canonical.resolveEntry {c fuel i r tell src} {s : State} (h : s.canonical) : (s.resolveEntry c fuel i r tell src).canonical :=
  (resolvesCanonically fuel).1 _ _ _ _ _ _ h

theorem State.canonical.recheck {c key} {s : State} (h : s.canonical) : (s.recheck c key).canonical :=
    h.modCore.foldl (fun _ _ h1 => h1.modCluster.sendPacket)

theorem State.canonical.breakReply {c reply loc r} {s : State} (h : s.canonical) : ∀ t, s.breakReply c reply loc r = some t → t.canonical := by
  unfold State.breakReply
  refine all_ite (all_some h.tellStale) ?_
  split
  · exact all_some (State.canonical.tellStale (h.resolveEntry.ite h))
  · exact all_map fun _ _ => h.setEntry.recheck.sendNotices.freeStale

theorem State.canonical.tellHandler {c part chan a0 a1 a2 a3} {s : State} (h : s.canonical) : (s.tellHandler c part chan a0 a1 a2 a3).canonical :=
    h.faultRecord.ite h.sendPacket

theorem State.canonical.tableNotice {c table a1 a2} {s : State} (h : s.canonical) : (s.tableNotice c table a1 a2).canonical :=
    h.modCore.tellHandler.ite h

theorem State.canonical.breakOrHold {c target reply loc r} {s : State} (h : s.canonical) : (s.breakOrHold c target reply loc r).canonical := by
  unfold State.breakOrHold
  split
  next e => exact h.breakReply _ e
  · exact h.tableNotice.hold

theorem State.canonical.fireAll {c fuel l hm r src} {s : State} (h : s.canonical) : (s.fireAll c fuel l hm r src).canonical :=
  (resolvesCanonically fuel).2.2 _ _ _ _ _ _ h

theorem State.canonical.modLaunch {f} {s : State} (h : s.canonical) : (s.modLaunch f).canonical := h.update

theorem State.canonical.setSlot {k v} {s : State} (h : s.canonical) : (s.setSlot k v).canonical := h.update

theorem State.canonical.modSlot {k f} {s : State} (h : s.canonical) : (s.modSlot k f).canonical := h.setSlot

theorem State.canonical.nacked {reason p} {s : State} (h : s.canonical) : (s.nacked reason p).canonical := by
  unfold State.nacked
  split
  · split
    · exact h.faultRecord
    · exact h.setCredit.post.expEnd.lostRecord.ite h.setCredit.post.expEnd.breakOrHold
  · exact h.fireAll
  · refine ((h.setCredit.modLaunch.ite h.setCredit).foldl (fun s1 a h1 => h1.modSlot.ite h1)).modCore.foldl (fun s1 a h1 => ?_)
    split
    · exact h1.freeCell.expEnd.breakOrHold
    · exact h1
  · exact h.lostRecord
  · exact h.lostRecord
  · exact h.lostRecord
  · exact h.lostRecord
  · exact h.lostRecord
  · exact h.lostRecord
  · exact h.lostRecord
  · exact h
  · exact h
  · exact h
  · exact h
  · exact h
  · exact h

theorem State.canonical.unreachable {p} {s : State} (h : s.canonical) : (s.unreachable p).canonical := h.nacked

theorem State.canonical.dispatch {p} {s : State} (h : s.canonical) : (s.dispatch p).canonical := by
  unfold State.dispatch
  split
  · exact h.ite h.emit
  · split
    · split
      · split
        · exact h.etherSend
        · exact h.etherSend
        · exact h.unreachable
      · split
        · exact h
        · exact h
        · exact h.unreachable
    · exact h.unreachable.ite h.emit

theorem State.canonical.flushOut {n} {s : State} (h : s.canonical) : (s.flushOut n).canonical := by
  induction n generalizing s with
  | zero => exact h
  | succ n ih =>
    unfold State.flushOut
    split
    · exact h
    · exact ih (h.update.foldl fun _ _ h => h.dispatch)

theorem State.canonical.dumpBytes {n pa l} {s : State} (h : s.canonical) : (s.dumpBytes n pa l).canonical := by
  induction n generalizing s pa l with
  | zero => exact h
  | succ n ih =>
    cases l with
    | nil => exact h
    | cons b l => exact ih h.lpWrite.setPoison

theorem State.canonical.dumpWords {pa ws} {s : State} (h : s.canonical) : (s.dumpWords pa ws).canonical := h.dumpBytes

theorem State.canonical.jobRecord {kind handle desc start} {s : State} (h : s.canonical) : (s.jobRecord kind handle desc start).2.canonical :=
    h.update.modChip

theorem State.canonical.writeDump {s : State} (h : s.canonical) : s.writeDump.canonical := by
  unfold State.writeDump
  exact State.canonical.dumpBytes (State.canonical.jobRecord (((h.foldl fun _ _ h => h.modPort).foldl fun _ _ h => h.dumpWords).update))

theorem State.canonical.settle {was s : State} (h : s.canonical) : (was.settle s).canonical := by
  unfold State.settle
  extract_lets s1
  have h1 : s1.canonical := h.flushOut.drainPorts.writeRecords
  split
  · exact h1.writeDump.ite h1
  · exact h1

theorem State.canonical.modMe {f} {s : State} (h : s.canonical) : (s.modMe f).canonical := h.modSlot

theorem State.canonical.retire {len sc} {s : State} (h : s.canonical) : (s.retire len sc).canonical := h.modMe

theorem State.canonical.setX {r v} {s : State} (h : s.canonical) : (s.setX r v).canonical := h.modMe

theorem State.canonical.alu {rd v sc} {s : State} (h : s.canonical) : (s.alu rd v sc).canonical := h.setX.retire

theorem State.canonical.result {kind reg val mask l} {s : State} (h : s.canonical) : (s.result kind reg val mask l).canonical := h.modMe

theorem State.canonical.resultX {r v l} {s : State} (h : s.canonical) : (s.resultX r v l).canonical := h.setX.ite h.result

theorem State.canonical.aluLate {rd v l sc} {s : State} (h : s.canonical) : (s.aluLate rd v l sc).canonical := h.resultX.retire

theorem State.canonical.parkMe {p sc} {s : State} (h : s.canonical) : (s.parkMe p sc).canonical := h.modMe

theorem State.canonical.divide {rd v sc} {s : State} (h : s.canonical) : (s.divide rd v sc).canonical := h.parkMe.post

theorem State.canonical.setP {r v} {s : State} (h : s.canonical) : (s.setP r v).canonical := h.modMe

theorem State.canonical.aluP {rd v sc} {s : State} (h : s.canonical) : (s.aluP rd v sc).canonical := h.setP.retire

theorem State.canonical.jump {t sc} {s : State} (h : s.canonical) : (s.jump t sc).canonical := h.modMe

theorem State.canonical.branch {n : ℕ} {len taken} {o : BitVec n} {s : State} (h : s.canonical) : (s.branch len taken o).canonical :=
    h.jump.ite h.retire

theorem State.canonical.fatal {cause} {s : State} (h : s.canonical) : (s.fatal cause).canonical := h.update

theorem State.canonical.modGroup {g f} {s : State} (h : s.canonical) : (s.modGroup g f).canonical := h.modFabric

theorem State.canonical.groupEvents {g status} {s : State} (h : s.canonical) : (s.groupEvents g status).canonical := h.modLaunch.post

theorem State.canonical.groupDeliver {g num v status count nan} {s : State} (h : s.canonical) :
    (s.groupDeliver g num v status count nan).canonical := by
  unfold State.groupDeliver
  extract_lets e s1 next s2 s3 s4
  have h4 : s4.canonical := h.modFabric.modGroup.groupEvents.update
  exact h4.foldl fun _ _ h => h.post

theorem State.canonical.groupComplete {i status} {s : State} (h : s.canonical) : (s.groupComplete i status).canonical := by
  unfold State.groupComplete
  split
  · exact h
  · exact h.groupDeliver.ite (h.ite h.update.modFabric)

theorem State.canonical.leaveGroup {g m} {s : State} (h : s.canonical) : (s.leaveGroup g m).canonical :=
    h.modFabric.foldl (fun _ _ h1 => h1.modFabric.groupComplete.ite h1.modFabric)

theorem State.canonical.leaveAll {k} {s : State} (h : s.canonical) : (s.leaveAll k).canonical := h.ite (h.foldl (fun _ _ h1 => h1.leaveGroup))

theorem State.canonical.endAuctions {k} {s : State} (h : s.canonical) : (s.endAuctions k).canonical := h.ite h.modSector

theorem State.canonical.forgetPops {k} {s : State} (h : s.canonical) : (s.forgetPops k).canonical := h.modLaunch

theorem State.canonical.endActivation {k reason} {s : State} (h : s.canonical) : (s.endActivation k reason).canonical := by
  unfold State.endActivation
  exact (h.leaveAll.endAuctions.forgetPops.expEnd.modSlot.update).stir.post

theorem State.canonical.breakMine {k reason cause} {s : State} (h : s.canonical) : (s.breakMine k reason cause).canonical :=
    h.modSlot.ite h.modSlot.breakOrHold

theorem State.canonical.breakActivation {k reason cause} {s : State} (h : s.canonical) : (s.breakActivation k reason cause).canonical :=
    h.breakMine.endActivation

theorem State.canonical.watchLine {key f} {s : State} (h : s.canonical) : (s.watchLine key f).canonical :=
    h.update.post.ite (h.update.ite h.update.post)

theorem State.canonical.armMonitor {k entry} {s : State} (h : s.canonical) : (s.armMonitor k entry).canonical := h.watchLine

theorem State.canonical.trapAt {k cause addr pc entry} {s : State} (h : s.canonical) : (s.trapAt k cause addr pc entry).canonical := by
  unfold State.trapAt
  split
  · exact (h.modSlot.fatal.ite h.modSlot.modSlot).ite (h.modSlot.tellHandler.breakActivation.ite h.modSlot.tellHandler.modSlot)
  · exact (h.modSlot.fatal.ite h.modSlot.modSlot).ite (h.modSlot.tellHandler.breakActivation.ite h.modSlot.tellHandler.modSlot.armMonitor)

theorem State.canonical.trap {cause addr} {s : State} (h : s.canonical) : (s.trap cause addr).canonical := h.trapAt

theorem State.canonical.illegal {i} {s : State} (h : s.canonical) : (s.illegal i).canonical := h.trap

theorem State.canonical.waitFor {w} {s : State} (h : s.canonical) : (s.waitFor w).canonical := h.parkMe.post

theorem State.canonical.finishActivation {s : State} (h : s.canonical) : s.finishActivation.canonical := by
  unfold State.finishActivation
  split
  · exact h.modMe
  · exact h.modMe.endActivation

theorem State.canonical.doneOrWait {s : State} (h : s.canonical) : s.doneOrWait.canonical := h.waitFor.ite h.finishActivation

theorem State.canonical.trapAfter {cause code sc} {s : State} (h : s.canonical) : (s.trapAfter cause code sc).canonical := h.retire.trapAt.modMe

theorem State.canonical.trapReturn {s : State} (h : s.canonical) : s.trapReturn.canonical := h.modMe

theorem execCtlrd_keeps {rd r} {s : State} : s.Keeps (execCtlrd rd r s) := by
  unfold execCtlrd
  split
  · exact .next fun h => h.illegal
  · exact .next fun h => h.setX.retire

theorem State.canonical.ctlWrite {n v} {s : State} (h : s.canonical) : (s.ctlWrite n v).canonical := by
  unfold State.ctlWrite
  split
  · exact h.modCore
  · exact h.modMe.ite h
  · exact h.modCore
  · exact h.modMe
  · exact h.modMe
  · exact h.modMe
  · exact h.modMe
  · exact h.modMe
  · exact h.modMe
  · exact h.modCore
  · exact h.modMe
  · exact h.modCore
  · exact h.modMe
  · exact h.modCore
  · exact h.modChip
  · exact h

theorem State.canonical.ctlModify {i rd r f} {s : State} (h : s.canonical) : (s.ctlModify i rd r f).canonical := by
  unfold State.ctlModify
  split
  · exact h.illegal
  · exact h.trap.ite h.ctlWrite.setX.retire

theorem State.canonical.check {c a n need} {s : State} (h : s.canonical) : (s.check c a n need).2.canonical := h.checkBy

theorem State.canonical.place {ea n need} {s : State} (h : s.canonical) : (s.place ea n need).2.canonical := by
  unfold State.place
  split
  · exact h
  · exact h.check

theorem State.canonical.trapEntry {cause addr entry} {s : State} (h : s.canonical) : (s.trapEntry cause addr entry).canonical := h.trapAt

theorem State.canonical.access {ea n need ok disc win} {s : State} (hok : ∀ (a : Home) (t : State), t.canonical → (ok a t).canonical) (hdisc : ∀ (a :
    State), a.canonical → (disc a).canonical) (hwin : ∀ (a : ℕ) (t : State), t.canonical → (win a t).canonical) (h : s.canonical) : (s.access ea n
        need ok disc win).canonical := by
  unfold State.access
  split
  next e => exact hok _ _ (canonical_snd_of e h.place)
  next e => exact hdisc _ (canonical_snd_of e h.place)
  next e => exact hwin _ _ (canonical_snd_of e h.place)
  next e => exact (canonical_snd_of e h.place).waitFor
  next e => exact (canonical_snd_of e h.place).trapEntry

theorem State.canonical.homeZero {hm} {s : State} (h : s.canonical) : (s.homeZero hm).canonical := by
  unfold State.homeZero
  split
  · exact h.setBytes.setPoison.setLineFull
  · exact (h.setBytes.setPoison.setLineFull.maskL2.cleanL2.ite h.lpWrite.setHomePoison).setAreaBits.notice.ite
      h.roomL2.setBytes.maskL2.setPoison.setLineFull.notice

theorem State.canonical.perform {hm op} {s : State} (h : s.canonical) : (s.perform hm op).canonical := by
  unfold State.perform
  split
  · exact h.homeWrite
  · exact h.homeWrite
  · exact h.foldl (fun s1 a h1 => h1.setHomeFull)
  · exact h.homeZero

theorem State.canonical.destroyed {c i old} {s : State} (h : s.canonical) : (s.destroyed c i old).canonical := by
  unfold State.destroyed
  refine (h.freeRecv.freeCells.modCore.setEntry.foldl (fun s1 a h1 => h1.modCluster.sendPacket)).foldl (fun s1 a h1 => ?_)
  split
  · exact h1.freePlace.expEnd.breakOrHold
  · exact h1

theorem State.canonical.performStore {k p} {s : State} (h : s.canonical) : (s.performStore k p).canonical := by
  unfold State.performStore
  split
  · exact h
  · split
    · exact h.perform
    · split
      · exact h.perform
      · exact h.perform.destroyed.ite h.perform

theorem State.canonical.settleStores {k hm n} {s : State} (h : s.canonical) : (s.settleStores k hm n).canonical :=
    h.ite (h.modSlot.foldl (fun _ _ h1 => h1.performStore))

theorem State.canonical.roomL1 {k pa} {s : State} (h : s.canonical) : (s.roomL1 k pa).canonical := by
  unfold State.roomL1
  dsimp only
  split
  · exact h
  · split
    · exact h
    · exact h.update.dropL1

theorem State.canonical.fillL1 {k slice pa} {s : State} (h : s.canonical) : (s.fillL1 k slice pa).canonical :=
  h.ite (Memory.wf_copy _ _ _ h.roomL1)

theorem State.canonical.settleCluster {k hm n} {s : State} (h : s.canonical) : (s.settleCluster k hm n).canonical :=
    h.foldl (fun _ _ h1 => h1.settleStores)

theorem State.canonical.read {c hm n} {s : State} (h : s.canonical) : (s.read c hm n).2.canonical := by
  unfold State.read
  split
  · exact h
  · split
    · exact h
    · exact h.touch.settleCluster.fillL1.ite h.touch

theorem State.canonical.pushChecks {st l} {s : State} (h : s.canonical) : Answered (s.pushChecks st l) := by
  induction l generalizing s with
  | nil => exact answered_ok h
  | cons a l ih =>
    unfold State.pushChecks
    dsimp only
    split
    next e => exact answered_error (canonical_snd_of e h.place)
    next e => exact answered_error (canonical_snd_of e h.place)
    next e => exact answered_error (canonical_snd_of e h.place)
    next e =>
      split
      next e' => exact answered_error ((ih (canonical_snd_of e h.place)).2 _ e')
      next e' => exact answered_ok ((ih (canonical_snd_of e h.place)).of_ok e')
    next e =>
      split
      next e' => exact answered_error ((ih (canonical_snd_of e h.place)).2 _ e')
      next e' => exact answered_ok ((ih (canonical_snd_of e h.place)).of_ok e')

theorem State.canonical.bad {b} {s : State} (h : s.canonical) : (s.bad b).canonical := h.waitFor.ite h.trapEntry

theorem State.canonical.pushPlan {st vals on n fin} {s : State} (hfin : ∀ (a : List PushTo) (t : State), t.canonical → (fin a t).canonical) (h :
    s.canonical) : (s.pushPlan st vals on n fin).canonical := by
  unfold State.pushPlan
  dsimp only
  split
  next e => exact (h.pushChecks.of_error e).bad
  next e => exact (h.pushChecks.of_ok e).waitFor.ite ((hfin _ _ (h.pushChecks.of_ok e)).ite ((h.pushChecks.of_ok e).waitFor))

theorem State.canonical.store {k hm op} {s : State} (h : s.canonical) : (s.store k hm op).canonical := by
  unfold State.store
  refine State.canonical.foldl ?_ (fun s1 a h1 => h1.modSlot.post)
  split
  · split
    · exact h
    · split
      · exact h.dropL1
      · split
        · split
          · exact h.settleCluster.setBytes
          · exact h.settleCluster
        · exact h
  · exact h

theorem State.canonical.reflect {k w ea l} {s : State} (h : s.canonical) : (s.reflect k w ea l).canonical := by
  unfold State.reflect
  refine State.canonical.post (State.canonical.modCluster (State.canonical.number ?_))
  split
  · exact h
  · exact h.number.modSlot

theorem State.canonical.pushAll {k bytes l} {s : State} (h : s.canonical) : (s.pushAll k bytes l).canonical := by
  unfold State.pushAll
  refine h.foldl (fun s1 a h1 => ?_)
  split
  · exact h1.store
  · exact h1.reflect

theorem State.canonical.push {st vals on n fin} {s : State} (hfin : ∀ (a : State), a.canonical → (fin a).canonical) (h : s.canonical) :
    (s.push st vals on n fin).canonical := State.canonical.pushPlan (fun _ _ h1 => hfin _ h1.pushAll) h

theorem State.canonical.advance {regs n} {s : State} (h : s.canonical) : (s.advance regs n).canonical := h.foldl (fun _ _ h1 => h1.modMe)

theorem State.canonical.setF {r v} {s : State} (h : s.canonical) : (s.setF r v).canonical := h.modMe

theorem State.canonical.resultF {r v mask l} {s : State} (h : s.canonical) : (s.resultF r v mask l).canonical := h.result

theorem State.canonical.loaded {ld l lat fin} {s : State} (hfin : ∀ (a : State), a.canonical → (fin a).canonical) (h : s.canonical) :
    (s.loaded ld l lat fin).canonical := by
  unfold State.loaded
  split
  · exact State.canonical.push (fun s1 h1 => hfin _ h1.advance) h
  · exact (hfin _ (h.setF.ite h.resultF)).ite (hfin _ (h.setX.ite h.resultX))

theorem State.canonical.load {i ea n rd toF signed sc} {s : State} (h : s.canonical) : (s.load i ea n rd toF signed sc).canonical := by
  unfold State.load
  split
  · split
    · exact h.illegal.ite h.waitFor
    · split
      · dsimp only
        exact h.illegal.ite (State.canonical.access (fun a s1 h1 => (h1.settleStores.read.trap.ite (State.canonical.loaded (fun s2 h2 => h2.retire)
            h1.settleStores.read)).ite h1.parkMe.post) (fun s1 h1 => h1.parkMe.post) (fun a s1 h1 => h1.trap) h)
      · dsimp only
        exact h.illegal.ite (State.canonical.access (fun a s1 h1 => (h1.settleStores.read.trap.ite (State.canonical.loaded (fun s2 h2 => h2.retire)
            h1.settleStores.read)).ite h1.parkMe.post) (fun s1 h1 => h1.parkMe.post) (fun a s1 h1 => h1.trap) h)
  · split
    · exact h.illegal.ite h.waitFor
    · split
      · dsimp only
        exact h.illegal.ite (State.canonical.access (fun a s1 h1 => (h1.settleStores.read.trap.ite (State.canonical.loaded (fun s2 h2 => h2.retire)
            h1.settleStores.read)).ite h1.parkMe.post) (fun s1 h1 => h1.parkMe.post) (fun a s1 h1 => h1.trap) h)
      · dsimp only
        exact h.illegal.ite (State.canonical.access (fun a s1 h1 => (h1.settleStores.read.trap.ite (State.canonical.loaded (fun s2 h2 => h2.retire)
            h1.settleStores.read)).ite h1.parkMe.post) (fun s1 h1 => h1.parkMe.post) (fun a s1 h1 => h1.trap) h)

theorem State.canonical.discardTrap {ea} {s : State} (h : s.canonical) : (s.discardTrap ea).canonical := h.trapEntry

theorem State.canonical.storeAccess {ea l fin} {s : State} (hfin : ∀ (a : State), a.canonical → (fin a).canonical) (h : s.canonical) :
    (s.storeAccess ea l fin).canonical := State.canonical.access (fun _ _ h1 => h1.waitFor.ite (hfin _ h1.store)) (fun _ h1 => h1.discardTrap) (fun
        _ _ h1 => h1.waitFor.ite (h1.waitFor.ite ((hfin _ h1.reflect.reflect).ite (hfin _ h1.reflect)))) h

theorem State.canonical.storeX {ea n v len sc} {s : State} (h : s.canonical) : (s.storeX ea n v len sc).canonical :=
    State.canonical.storeAccess (fun _ h1 => h1.retire) h

theorem State.canonical.element {st j} {s : State} (h : s.canonical) : Answered (s.element st j) := by
  unfold State.element
  split
  · exact Answered.ite (answered_error h) (answered_ok h)
  · dsimp only
    split
    next e1 =>
      exact Answered.ite (answered_error ((canonical_snd_of e1 h.place).settleStores.read)) (answered_ok ((canonical_snd_of e1
          h.place).settleStores.read))
    next e1 => exact answered_ok (canonical_snd_of e1 h.place)
    next e1 => exact answered_error (canonical_snd_of e1 h.place)
    next e1 => exact answered_error (canonical_snd_of e1 h.place)
    next e1 => exact answered_error (canonical_snd_of e1 h.place)

theorem State.canonical.elements {st j n} {s : State} (h : s.canonical) : Answered (s.elements st j n) := by
  induction n generalizing s j with
  | zero => exact answered_ok h
  | succ n ih =>
    unfold State.elements
    split
    next e => exact answered_error (h.element.2 _ e)
    next e =>
      split
      next e' => exact answered_error ((ih (h.element.of_ok e)).2 _ e')
      next e' => exact answered_ok ((ih (h.element.of_ok e)).of_ok e')

theorem execFst_keeps {rd ra z imm sc} {s : State} : s.Keeps (execFst rd ra z imm sc s) := by
  unfold execFst
  split
  · exact .next fun h => State.canonical.storeAccess (fun s1 h1 => h1.retire) h
  · split
    · exact .next fun h => h.illegal
    · split
      · exact .next fun h => h.waitFor
      · dsimp only
        split
        next e3 => exact .next fun h => (h.elements.of_error e3).bad
        next e3 => exact .next fun h => State.canonical.storeAccess (fun s1 h1 => h1.advance.retire) (h.elements.of_ok e3)

theorem State.canonical.accessHome {ea n need ok} {s : State} (hok : ∀ (a : Home) (t : State), t.canonical → (ok a t).canonical) (h : s.canonical) :
    (s.accessHome ea n need ok).canonical := State.canonical.access (fun _ _ h1 => hok _ _ h1) (fun _ h1 => h1.discardTrap) (fun _ _ h1 =>
        h1.trap) h

theorem State.canonical.afterSends {f} {s : State} (hf : ∀ (a : State), a.canonical → (f a).canonical) (h : s.canonical) :
    (s.afterSends f).canonical := (hf _ h).ite h.waitFor

theorem State.canonical.completeAt {k len} {s : State} (h : s.canonical) : (s.completeAt k len).canonical := h.modSlot

theorem State.canonical.deliverX {k r v} {s : State} (h : s.canonical) : (s.deliverX k r v).canonical := h.modSlot.completeAt

theorem State.canonical.deliverSync {k hm addr take rd} {s : State} (h : s.canonical) : (s.deliverSync k hm addr take rd).canonical :=
    h.trapAt.ite ((h.setHomeFull.ite h).deliverX)

theorem State.canonical.syncLoad {take rd ra sc} {s : State} (h : s.canonical) : (s.syncLoad take rd ra sc).canonical :=
    h.waitFor.ite (State.canonical.accessHome (fun _ _ h1 => State.canonical.afterSends (fun _ h2 =>
        h2.settleStores.touch.update.parkMe.deliverSync.ite h2.settleStores.touch.update.parkMe) h1) h)

theorem State.canonical.releasing {sc f} {s : State} (hf : ∀ (a : State), a.canonical → (f a).canonical) (h : s.canonical) :
    (s.releasing sc f).canonical := (hf _ h).ite h.waitFor

theorem State.canonical.dropOwn {hm} {s : State} (h : s.canonical) : (s.dropOwn hm).canonical := by
  unfold State.dropOwn
  split
  · exact h.ite h.dropL1
  · exact h

theorem execFeclr_keeps {ra rb sc} {s : State} : s.Keeps (execFeclr ra rb sc s) := by
  unfold execFeclr
  refine .next fun h => h.retire.ite (h.waitFor.ite (h.trap.ite (h.trap.ite ?_)))
  split
  next e => exact (canonical_snd_of e h.check).store.retire
  next e => exact (canonical_snd_of e h.check).discardTrap
  next e => exact (canonical_snd_of e h.check).trap
  next e => exact (canonical_snd_of e h.check).waitFor
  next e => exact (canonical_snd_of e h.check).trapEntry

theorem State.canonical.amo {op rd ra rb z l q c} {s : State} (h : s.canonical) : (s.amo op rd ra rb z l q c).canonical :=
    h.waitFor.ite (State.canonical.accessHome (fun _ _ h1 => (State.canonical.releasing (fun _ h2 => h2.parkMe.post) h1).ite h1.parkMe.post) h)

theorem State.canonical.afterLoads {f} {s : State} (hf : ∀ (a : State), a.canonical → (f a).canonical) (h : s.canonical) :
    (s.afterLoads f).canonical := (hf _ h).ite h.waitFor

theorem State.canonical.flushL1 {k} {s : State} (h : s.canonical) : (s.flushL1 k).canonical := h.ite h.of_drop

theorem State.canonical.acquire {k sc} {s : State} (h : s.canonical) : (s.acquire k sc).canonical := h.ite h.flushL1

theorem execL2wb_keeps {ra sc} {s : State} : s.Keeps (execL2wb ra sc s) := by
  unfold execL2wb
  dsimp only
  split
  · exact .next fun h => h.trap.ite h.retire
  · split
    next e1 => exact .next fun h => (canonical_snd_of e1 h.check).retire.ite ((canonical_snd_of e1 h.check).parkMe.post)
    next e1 => exact .next fun h => (canonical_snd_of e1 h.check).trapEntry
    next e1 => exact .next fun h => (canonical_snd_of e1 h.check).waitFor
    next e4 => exact .next fun h => (canonical_snd_of e4 h.check).retire

theorem execPfetch_keeps {ra sc} {s : State} : s.Keeps (execPfetch ra sc s) := by
  unfold execPfetch
  refine .next fun h => h.retire.ite ?_
  split
  next e =>
    have ht := canonical_snd_of e h.check
    split
    · exact State.canonical.retire (ht.ite ht.read)
    · exact ht.retire
  next e => exact (canonical_snd_of e h.check).retire

theorem State.canonical.arriveAt {hm p b} {s : State} (h : s.canonical) : ∀ (t : Word × State), (s.arriveAt hm p b) = some t → t.2.canonical := by
  unfold State.arriveAt
  dsimp only
  split
  · exact all_none
  · exact all_some h.homeWrite

theorem State.canonical.arrival {ea p b m fin} {s : State} (hfin : ∀ (a : Home) (t : Word) (a_2 :
    State), a_2.canonical → (fin a t a_2).canonical) (h : s.canonical) : (s.arrival ea p b m fin).canonical := by
  unfold State.arrival
  refine State.canonical.access (fun a s1 h1 => State.canonical.releasing (fun s2 h2 => ?_) h1) (fun s1 h1 => h1.trap) (fun a s1 h1 => h1.trap) h
  dsimp only
  split
  · exact h2.touch.trap
  · split
    · exact h2.touch.trap
    next e1 => exact hfin _ _ _ ((h2.touch.arriveAt _ e1).dropOwn)

theorem State.canonical.awaitPhase {hm ea p rd sc m} {s : State} (h : s.canonical) : (s.awaitPhase hm ea p rd sc m).canonical := h.parkMe.post

theorem State.canonical.giveX {r v sc} {s : State} (h : s.canonical) : (s.giveX r v sc).canonical := h.parkMe.post

theorem State.canonical.changeGroup {g join sc} {s : State} (h : s.canonical) : (s.changeGroup g join sc).canonical := h.trap.ite h.parkMe.post

theorem State.canonical.contribute {k g key v num} {s : State} (h : s.canonical) : (s.contribute k g key v num).canonical := h.sendPacket.modSlot

theorem State.canonical.signalLater {sc g} {s : State} (h : s.canonical) : (s.signalLater sc g).canonical := h.modMe.post

theorem execGcontrib_keeps {rd g sc} {s : State} : s.Keeps (execGcontrib rd g sc s) := by
  unfold execGcontrib
  split
  · exact .next fun h => h.trap
  · exact .next fun h => h.trap.ite ((h.modFabric.contribute.ite h.modFabric.signalLater).retire)

theorem execGread_keeps {rd g sc} {s : State} : s.Keeps (execGread rd g sc s) := by
  unfold execGread
  split
  · exact .next fun h => h.waitFor
  · split
    · exact .next fun h => h.trap
    · exact .next fun h => h.trap.ite (State.canonical.afterSends (fun s1 h1 => h1.waitFor.ite h1.modMe.retire) h)

theorem State.canonical.payload {d} {s : State} (h : s.canonical) : Answered (s.payload d) := by
  unfold State.payload
  dsimp only
  split
  · exact answered_error h
  · split
    · exact answered_ok h
    · split
      · exact answered_error h
      · split
        next e3 => exact answered_ok ((canonical_snd_of e3 h.check).settleStores)
        next e3 => exact answered_error (canonical_snd_of e3 h.check)
        next e3 => exact answered_error (canonical_snd_of e3 h.check)
        next e6 => exact answered_error (canonical_snd_of e6 h.check)

theorem State.canonical.sendReleasing {sc f} {s : State} (hf : ∀ (a : State), a.canonical → (f a).canonical) (h : s.canonical) :
    (s.sendReleasing sc f).canonical := (hf _ h).ite h.waitFor

theorem State.canonical.onCredit {s : State} (h : s.canonical) : s.onCredit.canonical := h.modMe.ite h

theorem State.canonical.needCredit {key} {s : State} (h : s.canonical) : (s.needCredit key).canonical := h.askBlock.waitFor

theorem State.canonical.sending {t d f} {s : State} (hf : ∀ (a : List Byte × Bool) (a_1 : Route) (a_2 :
    State), a_2.canonical → (f a a_1 a_2).canonical) (h : s.canonical) : (s.sending t d f).canonical := by
  unfold State.sending
  split
  · exact h.waitFor
  · split
    next e1 => exact (h.payload.of_error e1).bad
    next e1 =>
      split
      · exact hf _ _ _ (h.payload.of_ok e1)
      · exact State.canonical.sendReleasing (fun s1 h1 => (hf _ _ _ h1.onCredit).ite ((hf _ _ _ h1.modMe).ite h1.needCredit)) (h.payload.of_ok e1)

theorem State.canonical.nextSeq {c target peer} {s : State} (h : s.canonical) : ∀ (t :
    BitVec 16 × State), (s.nextSeq c target peer) = some t → t.2.canonical := by
  unfold State.nextSeq
  split
  · exact all_none
  · exact all_some h.setPair

theorem State.canonical.asSend {f} {s : State} (hf : ∀ (a : State), a.canonical → (f a).canonical) (h : s.canonical) : (s.asSend f).canonical :=
    (hf _ h).modSlot

theorem State.canonical.launchMsg {m num} {s : State} (h : s.canonical) : (s.launchMsg m num).canonical := by
  unfold State.launchMsg
  split
  next e => exact State.canonical.asSend (fun s1 h1 => h1.sendPacket) (h.spend _ e)
  · exact h

theorem State.canonical.numberAndSend {m num} {s : State} (h : s.canonical) : (s.numberAndSend m num).canonical := by
  unfold State.numberAndSend
  split
  next e => exact (h.nextSeq _ e).launchMsg
  · exact h.tableNotice

theorem execInv_keeps (rd ra rb sc) (s : State) : s.Keeps (execInv rd ra rb sc s) := by
  unfold execInv
  refine .next fun h => State.canonical.sending (fun pl route s h => ?_) h
  dsimp only
  split
  · exact h.giveX
  · refine State.canonical.giveX ?_
    split
    · exact h.setEntry.setEntry
    · exact State.canonical.ite h.setEntry.numberAndSend h.setEntry.setEntry.tableNotice

theorem execInvp_keeps {ra rb sc} {s : State} : s.Keeps (execInvp ra rb sc s) := by
  unfold execInvp
  refine .next fun h => State.canonical.sending (fun pl route s h => ?_) h
  extract_lets c reply s1 s2 s3
  have h1 : s1.canonical := by
    refine h.ite ?_
    split
    · exact h
    · exact h.setEntry
  have h2 : s2.canonical := h1.modMe
  refine State.canonical.retire ?_
  unfold s3
  clear_value s2 reply
  split
  · exact h2.breakOrHold
  · exact h2.numberAndSend.ite h2.tableNotice.breakOrHold

theorem State.canonical.resolveMine {res f sc} {s : State} (hf : ∀ i s, s.canonical → ∀ t, f i s = some t → t.canonical) (h : s.canonical) :
    (s.resolveMine res f sc).canonical := by
  unfold State.resolveMine
  refine h.retire.ite ?_
  split
  · exact h.modMe.retire
  · refine h.sendReleasing fun s h => h.modMe.retire.ite ?_
    split
    · exact h.waitFor
    next e => exact (State.canonical.asSend (fun _ _ => hf _ _ h _ e) h).modMe.retire

theorem State.canonical.newCell {c q} {s : State} (h : s.canonical) : ∀ (t : ℕ × State), (s.newCell c q) = some t → t.2.canonical :=
    all_map (fun _ _ => h.modCore)

theorem State.canonical.linkCell {c last n} {s : State} (h : s.canonical) : (s.linkCell c last n).canonical := h.modCore

theorem State.canonical.addWatch {c i w} {s : State} (h : s.canonical) : ∀ t, (s.addWatch c i w) = some t → t.canonical := by
  unfold State.addWatch
  split
  · exact all_none
  next e => exact all_ite (all_some ((h.newCell _ e).setEntry)) (all_some ((h.newCell _ e).linkCell.setEntry))

theorem State.canonical.watchHere {c hm w} {s : State} (h : s.canonical) : ∀ t, (s.watchHere c hm w) = some t → t.canonical :=
    all_ite (all_some h.fireAll) (all_ite h.addWatch (all_ite (all_some h.fireAll) (all_ite (all_some h.fireAll) (all_ite h.addWatch (all_some
        h.fireAll)))))

theorem State.canonical.register {c hm w} {s : State} (h : s.canonical) : ∀ t, (s.register c hm w) = some t → t.canonical :=
    all_ite (all_some h.fireAll) (all_ite h.watchHere (all_some h.sendPacket))

theorem State.canonical.replyHandle {c i hm} {s : State} (h : s.canonical) : ∀ t, (s.replyHandle c i hm) = some t → t.canonical := by
  unfold State.replyHandle
  split
  · exact h.register
  · exact all_some h.resolveEntry
  · exact all_some h.resolveEntry

theorem State.canonical.replyDatumAt {c i cls} {s : State} (h : s.canonical) : (s.replyDatumAt c i cls).canonical := h.setEntry.resolveEntry

theorem State.canonical.resolveLocal {hm res f sc} {s : State} (hf : ∀ i s, s.canonical → ∀ t, f i s = some t → t.canonical) (h : s.canonical) :
    (s.resolveLocal hm res f sc).canonical := by
  unfold State.resolveLocal
  refine h.trap.ite (h.retire.ite (h.trap.ite (h.retire.ite (h.sendReleasing fun s h => ?_))))
  split
  · exact h.waitFor
  next e => exact (State.canonical.asSend (fun _ _ => hf _ _ h _ e) h).retire

theorem State.canonical.runInline {pc sc} {s : State} (h : s.canonical) : (s.runInline pc sc).canonical := h.modMe

theorem execHnew_keeps (rd sc) (s : State) : s.Keeps (execHnew rd sc s) := by
  unfold execHnew
  refine .next fun h => ?_
  split
  · exact h.giveX
  · exact h.setEntry.giveX

theorem execWhen_keeps {ra rb sc} {s : State} : s.Keeps (execWhen ra rb sc s) := by
  unfold execWhen
  dsimp only
  split
  · exact .next fun h => h.trap
  · split
    · exact .next fun h => h.waitFor
    next e1 => exact .next fun h => (h.register _ e1).retire

theorem State.canonical.imageWords {n ea} {s : State} (h : s.canonical) : (s.imageWords n ea).2.canonical := by
  induction n generalizing s ea with
  | zero => exact h
  | succ n ih =>
    unfold State.imageWords
    split
    next e => exact canonical_snd_of e h.place
    next e => exact canonical_snd_of e h.place
    next e => exact canonical_snd_of e h.place
    next e =>
      split
      next e' => exact canonical_snd_of e' (ih (canonical_snd_of e h.place))
      · exact ih (canonical_snd_of e h.place)
    next e =>
      dsimp only
      split
      · exact (canonical_snd_of e h.place).settleStores.read
      · split
        next e' => exact canonical_snd_of e' (ih (canonical_snd_of e h.place).settleStores.read)
        · exact ih (canonical_snd_of e h.place).settleStores.read

theorem execTmset_keeps {t ra sc} {s : State} : s.Keeps (execTmset t ra sc s) := by
  unfold execTmset
  refine .next fun h => h.trap.ite ?_
  split
  next e => exact (canonical_snd_of e h.imageWords).bad
  next e =>
    have ht := canonical_snd_of e h.imageWords
    dsimp only
    split
    next e' => exact (canonical_snd_of e' (canonical_ite_snd ht.imageWords ht)).bad
    next e' =>
      have hu := canonical_snd_of e' (canonical_ite_snd ht.imageWords ht)
      split
      · exact hu.trap
      · exact hu.parkMe.post

theorem State.canonical.shadow {sc f} {s : State} (h : s.canonical) : (s.shadow sc f).canonical := h.modMe.retire

theorem State.canonical.copyIssue {armed f} {s : State} (hf : ∀ (a : ℕ) (t : State), t.canonical → (f a t).canonical) (h : s.canonical) :
    (s.copyIssue armed f).canonical := h.waitFor.ite (h.waitFor.ite (hf _ _ h.update))

theorem State.canonical.engineReadBy {u core a n} {s : State} (h : s.canonical) : (s.engineReadBy u core a n).2.canonical := by
  unfold State.engineReadBy
  split
  next e => exact canonical_snd_of e h.engineChecksBy
  next e =>
    refine (canonical_snd_of e h.engineChecksBy).foldl (fun s1 a1 h1 => ?_)
    split
    · exact h1.touch
    · exact h1

theorem State.canonical.engineRead {core a n} {s : State} (h : s.canonical) : (s.engineRead core a n).2.canonical := h.engineReadBy

theorem State.canonical.chainOf {c} {s : State} (h : s.canonical) : (s.chainOf c).2.canonical := by
  unfold State.chainOf
  split
  · exact h
  · split
    · exact h
    · split
      next e2 => exact canonical_snd_of e2 h.engineRead
      next e2 =>
        dsimp only
        split
        · exact canonical_snd_of e2 h.engineRead
        · split
          · exact canonical_snd_of e2 h.engineRead
          · exact canonical_snd_of e2 h.engineRead

theorem State.canonical.gatherIndex {c e} {s : State} (h : s.canonical) : (s.gatherIndex c e).2.canonical := by
  unfold State.gatherIndex
  split
  · exact h
  · split
    next e2 => exact canonical_snd_of e2 h.engineRead
    next e2 => exact canonical_snd_of e2 h.engineRead

theorem State.canonical.issueStatus {c} {s : State} (h : s.canonical) : (s.issueStatus c).2.2.canonical := by
  unfold State.issueStatus
  split
  · exact h
  · split
    next e1 => exact canonical_snd_of e1 h.chainOf
    next e1 =>
      split
      · exact canonical_snd_of e1 h.chainOf
      · split
        · exact canonical_snd_of e1 h.chainOf
        · exact canonical_snd_of e1 h.chainOf

theorem State.canonical.setXstat {c state st} {s : State} (h : s.canonical) : (s.setXstat c state st).canonical := h.modCore

theorem State.canonical.engineCheck {core a n need} {s : State} (h : s.canonical) : (s.engineCheck core a n need).2.canonical := h.engineCheckBy

theorem State.canonical.engineFault {c part spec f} {s : State} (h : s.canonical) : (s.engineFault c part spec f).canonical := h.tellHandler

theorem State.canonical.modEngine {cl b f} {s : State} (h : s.canonical) : (s.modEngine cl b f).canonical := h.modCluster

theorem State.canonical.freezeEngine {cl b addr} {s : State} (h : s.canonical) : (s.freezeEngine cl b addr).canonical := h.modEngine.record

theorem State.canonical.completionWrite {c b a need f} {s : State} (hf : ∀ (a : Home) (t : State), t.canonical → (f a t).canonical) (h :
    s.canonical) : (s.completionWrite c b a need f).canonical := by
  unfold State.completionWrite
  split
  next e => exact hf _ _ (canonical_snd_of e h.engineCheck)
  next e => exact canonical_snd_of e h.engineCheck
  next e =>
    split
    · exact ((canonical_snd_of e h.engineCheck).ite ((canonical_snd_of e h.engineCheck).engineFault)).freezeEngine.ite ((canonical_snd_of e
        h.engineCheck).ite ((canonical_snd_of e h.engineCheck).engineFault))
    · exact (canonical_snd_of e h.engineCheck).ite ((canonical_snd_of e h.engineCheck).engineFault)

theorem State.canonical.completeModes {c b st bytes} {s : State} (h : s.canonical) : (s.completeModes c b st bytes).2.canonical := by
  unfold State.completeModes
  extract_lets ba pa
  split
  next e =>
    have ht := canonical_snd_of e (canonical_ite_snd h (by 
      split
      next e =>
        have hu := canonical_snd_of e h.engineCheck
        refine canonical_ite_snd hu.engineFault ?_
        split
        next e => exact (hu.arriveAt _ e).dropCluster
        · exact hu
      next e => exact (State.canonical.completionWrite (fun _ _ h => h) (canonical_snd_of e h.engineCheck))))
    have hp : ∀ {n w n'}, (if (!c.posts || decide (c.sh.paddr.toNat % 8 ≠ 0)) = true then _ else State.completionWrite c b n n' (fun h s =>
        (s.engineWrite h (toBytes 8 w) false).dropCluster c.cluster h) _).canonical := 
      ht.ite (State.canonical.completionWrite (fun _ _ h => h.engineWrite.dropCluster) ht)
    exact hp.ite ((hp.foldl fun _ _ h => h.fillWord).ite (hp.foldl fun _ _ h => State.canonical.completionWrite (fun _ _ h => h.fillWord) h))

theorem State.canonical.joinAnon {c it} {s : State} (h : s.canonical) : (s.joinAnon c it).canonical := h.modCore.stir

theorem State.canonical.usePlace {c} {s : State} (h : s.canonical) : (s.usePlace c).canonical := h.modCluster

theorem State.canonical.completeActivate {c state st} {s : State} (h : s.canonical) : (s.completeActivate c state st).canonical := h.usePlace.joinAnon

theorem State.canonical.finishAway {c st bytes} {s : State} (h : s.canonical) : (s.finishAway c st bytes).canonical := by
  unfold State.finishAway
  split
  next e =>
    exact (canonical_snd_of e h.completeModes).setXstat.ite ((canonical_snd_of e h.completeModes).setXstat.completeActivate.ite ((canonical_snd_of e
        h.completeModes).setXstat.modCluster.post))

theorem State.canonical.kick {cl} {s : State} (h : s.canonical) : (s.kick cl).canonical := h.post.post

theorem State.canonical.resultCopy {rd v} {s : State} (h : s.canonical) : (s.resultCopy rd v).canonical := h.setX.ite h.resultX

theorem State.canonical.issueCmd {c rd sc refuse} {s : State} (h : s.canonical) : (s.issueCmd c rd sc refuse).canonical := by
  have h0 : (if refuse then (7, [], s) else s.issueStatus c).2.2.canonical := by
    split
    · exact h
    · exact h.issueStatus
  unfold State.issueCmd
  exact State.canonical.retire (State.canonical.resultCopy (h0.modCore.modMe.setXstat.finishAway.ite
    (h0.modCore.modMe.setXstat.modCluster.post.ite h0.modCore.modMe.setXstat.modCore.kick)))

theorem State.canonical.stepRecord {core a} {s : State} (h : s.canonical) : (s.stepRecord core a).2.canonical := by
  unfold State.stepRecord
  split
  · exact h
  · split
    next e1 => exact canonical_snd_of e1 h.engineRead
    next e1 =>
      split
      · exact canonical_snd_of e1 h.engineRead
      · exact canonical_snd_of e1 h.engineRead

theorem execXloop_keeps {rd ra rb sc} {s : State} : s.Keeps (execXloop rd ra rb sc s) := by
  unfold execXloop
  refine .next fun h => State.canonical.copyIssue (fun a s1 h1 => ?_) h
  split
  next e => exact (canonical_snd_of e h1.stepRecord).issueCmd
  next e => exact (canonical_snd_of e h1.stepRecord).issueCmd

theorem State.canonical.modCmd {cl serial f} {s : State} (h : s.canonical) : (s.modCmd cl serial f).canonical := by
  unfold State.modCmd
  exact h.modCluster.update.foldl fun _ _ h => h.modCore.ite h

theorem execXrel_keeps {ra sc} {s : State} : s.Keeps (execXrel ra sc s) := by
  unfold execXrel
  split
  · exact .next fun h => h.waitFor
  · dsimp only
    split
    · exact .next fun h => (h.modCmd.ite h).retire
    · exact .next fun h => h.retire

theorem State.canonical.dropCmd {cl serial} {s : State} (h : s.canonical) : (s.dropCmd cl serial).canonical :=
    h.modCluster.foldl (fun _ _ h1 => h1.modCore.ite h1)

theorem State.canonical.cancelCmd {c} {s : State} (h : s.canonical) : (s.cancelCmd c).canonical :=
    (h.modCmd.post.setXstat.ite h.modCmd.post).ite (h.ite h.dropCmd.finishAway)

theorem execXcancel_keeps {rd ra sc} {s : State} : s.Keeps (execXcancel rd ra sc s) := by
  unfold execXcancel
  refine .next fun h => (State.canonical.resultX ?_).retire
  split
  · exact h.cancelCmd
  · exact h

theorem State.canonical.source {f n r} {s : State} (h : s.canonical) : Answered (s.source f n r) := by
  unfold State.source
  split
  · exact answered_ok h
  · split
    next e => exact answered_error (h.elements.2 _ e)
    next e => exact answered_ok (h.elements.of_ok e)

theorem State.canonical.sources {f n l} {s : State} (h : s.canonical) : Answered (s.sources f n l) := by
  induction l generalizing s with
  | nil => exact answered_ok h
  | cons r l ih =>
    unfold State.sources
    split
    next e => exact answered_error (h.source.2 _ e)
    next e =>
      split
      next e' => exact answered_error ((ih (h.source.of_ok e)).2 _ e')
      next e' => exact answered_ok ((ih (h.source.of_ok e)).of_ok e')

theorem State.canonical.vectorOr {i m dst srcs none body} {s : State} (hnone : ∀ (a : State), a.canonical → (none a).canonical) (hbody : ∀ (a :
    ℕ) (t : List (List ℕ)) (a_2 : State), a_2.canonical → (body a t a_2).canonical) (h : s.canonical) : (s.vectorOr i m dst srcs none body).canonical
        := by
  unfold State.vectorOr
  split
  · exact h.illegal
  · split
    · exact h.waitFor
    · dsimp only
      split
      · exact hnone _ h
      · split
        next e3 => exact (h.sources.of_error e3).bad
        next e3 => exact hbody _ _ _ (h.sources.of_ok e3)

theorem State.canonical.vector {i m dst srcs sc body} {s : State} (hbody : ∀ (a : ℕ) (t : List (List ℕ)) (a_2 :
    State), a_2.canonical → (body a t a_2).canonical) (h : s.canonical) : (s.vector i m dst srcs sc body).canonical :=
        State.canonical.vectorOr (fun _ h1 => h1.retire) (fun _ _ _ h1 => hbody _ _ _ h1) h

theorem State.canonical.raise {fl} {s : State} (h : s.canonical) : (s.raise fl).canonical := h.modCore

theorem State.canonical.vecResult {m rd regs n vals on fl lat sc} {s : State} (h : s.canonical) :
    (s.vecResult m rd regs n vals on fl lat sc).canonical := by
  unfold State.vecResult
  split
  · exact State.canonical.push (fun s1 h1 => h1.raise.advance.retire) h
  · exact h.resultF.raise.advance.retire

theorem State.canonical.lanewise {i m rd srcs lat sc op} {s : State} (h : s.canonical) : (s.lanewise i m rd srcs lat sc op).canonical :=
    State.canonical.vector (fun _ _ _ h1 => h1.vecResult) h

theorem State.canonical.parkDivide {p sc} {s : State} (h : s.canonical) : (s.parkDivide p sc).canonical := h.parkMe.post

theorem State.canonical.lanewiseParked {i m rd srcs sc op} {s : State} (h : s.canonical) : (s.lanewiseParked i m rd srcs sc op).canonical := by
  unfold State.lanewiseParked
  refine State.canonical.vectorOr (fun s1 h1 => h1.parkDivide) (fun a t s1 h1 => ?_) h
  split
  · exact State.canonical.pushPlan (fun a1 s2 h2 => h2.advance.parkDivide) h1
  · exact h1.advance.parkDivide

theorem State.canonical.reduce {i m rd ra sc identity op} {s : State} (h : s.canonical) : (s.reduce i m rd ra sc identity op).canonical :=
    State.canonical.vector (fun _ _ _ h1 => h1.vecResult) h

theorem State.canonical.resultP {r v l} {s : State} (h : s.canonical) : (s.resultP r v l).canonical := h.setP.ite h.result

theorem State.canonical.noStreams {i regs f} {s : State} (hf : ∀ (a : State), a.canonical → (f a).canonical) (h : s.canonical) :
    (s.noStreams i regs f).canonical := h.illegal.ite (hf _ h)

theorem State.canonical.modRing {cl n f} {s : State} (h : s.canonical) : (s.modRing cl n f).canonical := h.modCluster

theorem State.canonical.mring {i n ra scale group sc} {s : State} (h : s.canonical) : (s.mring i n ra scale group sc).canonical := by
  unfold State.mring
  dsimp only
  split
  · exact h.illegal
  · split
    · exact h.retire.ite (h.trap.ite h.modRing.retire)
    · split
      · exact h.trap
      · split
        next e3 => exact (canonical_snd_of e3 h.imageWords).bad
        next e3 =>
          exact (canonical_snd_of e3 h.imageWords).trap.ite ((canonical_snd_of e3 h.imageWords).trap.ite ((canonical_snd_of e3 h.imageWords).trap.ite
              ((canonical_snd_of e3 h.imageWords).modRing.giveX)))

theorem State.canonical.matQueue {c m} {s : State} (h : s.canonical) : (s.matQueue c m).canonical := by
  unfold State.matQueue
  split
  · exact h.modCore.post
  · exact h.modCore.post
  · exact h.modCore.post

theorem State.canonical.matAccept {m fin} {s : State} (hfin : ∀ (a : State), a.canonical → (fin a).canonical) (h : s.canonical) :
    (s.matAccept m fin).canonical := h.waitFor.ite (hfin _ h.matQueue)

theorem State.canonical.accepted {len sc} {s : State} (h : s.canonical) : (s.accepted len sc).canonical := h.modMe

theorem State.canonical.merShadow {sc f} {s : State} (h : s.canonical) : (s.merShadow sc f).canonical := h.modMe.retire

theorem execMerStat_keeps {rd sc} {s : State} : s.Keeps (execMerStat rd sc s) := by
  unfold execMerStat
  split
  · exact .next fun h => h.illegal
  · split
    · exact .next fun h => h.modMe.setX.retire
    · exact .next fun h => h.waitFor.ite h.modMe.giveX

theorem State.canonical.merGate {f} {s : State} (hf : ∀ (a : State), a.canonical → (f a).canonical) (h : s.canonical) : (s.merGate f).canonical :=
    h.waitFor.ite (h.waitFor.ite (hf _ h))

theorem execMerOut_keeps {ra rb sc} {s : State} : s.Keeps (execMerOut ra rb sc s) := by
  unfold execMerOut
  split
  · exact .next fun h => h.illegal
  · split
    · exact .next fun h => h.trap.ite (h.trap.ite h.retire)
    · exact .next fun h => h.trap.ite (h.trap.ite (h.waitFor.ite (State.canonical.merGate (fun s1 h1 => h1.parkMe.post) h)))

theorem State.canonical.publish {rd sc b} {s : State} (h : s.canonical) : (s.publish rd sc b).canonical := h.modSector.giveX

theorem State.canonical.merBias {rd ra sc f above} {s : State} (h : s.canonical) : (s.merBias rd ra sc f above).canonical := by
  unfold State.merBias
  split
  · exact h.trap
  · split
    · exact h.trap
    · exact h.trap.ite (h.waitFor.ite (h.waitFor.ite h.publish))

theorem execMerBiasCopy_keeps {rd ra sc} {s : State} : s.Keeps (execMerBiasCopy rd ra sc s) := by
  unfold execMerBiasCopy
  refine .next fun h => h.illegal.ite (h.trap.ite (h.trap.ite (h.waitFor.ite ?_)))
  extract_lets go
  have hgo : (go s).canonical := by
    unfold go
    split
    next e => exact (canonical_snd_of e h.imageWords).bad
    next e => exact (canonical_snd_of e h.imageWords).publish
  clear_value go
  split
  · exact hgo.ite h.waitFor
  · exact hgo

theorem State.canonical.merSnap {rd a sc l res} {s : State} (h : s.canonical) : (s.merSnap rd a sc l res).canonical :=
    State.canonical.merGate (fun _ h1 => h1.parkMe.post) h

theorem execMerSnap_keeps {rd ra sc} {s : State} : s.Keeps (execMerSnap rd ra sc s) := by
  unfold execMerSnap
  split
  · exact .next fun h => h.illegal
  · split
    · exact .next fun h => h.trap.ite h.giveX
    · exact .next fun h => h.trap.ite (h.waitFor.ite h.merSnap)

theorem State.canonical.modQueue {q f} {s : State} (h : s.canonical) : (s.modQueue q f).canonical := h.modLaunch

theorem State.canonical.pushRecord {r} {s : State} (h : s.canonical) : (s.pushRecord r).canonical := h.modQueue.post

theorem execLqPush_keeps {q ra sc} {s : State} : s.Keeps (execLqPush q ra sc s) := by
  unfold execLqPush
  split
  · exact .next fun h => h.trap.ite (h.trap.ite h.waitFor)
  · dsimp only
    split
    · exact .next fun h => h.trap
    · split
      · exact .next fun h => h.trap
      · split
        next e3 => exact .next fun h => (canonical_snd_of e3 h.imageWords).bad
        next e3 =>
          split
          next e4 => exact .next fun h => (canonical_snd_of e4 ((canonical_snd_of e3 h.imageWords).imageWords)).bad
          next e4 =>
            exact .next fun h => (canonical_snd_of e4 ((canonical_snd_of e3 h.imageWords).imageWords)).trap.ite ((canonical_snd_of e4
                ((canonical_snd_of e3 h.imageWords).imageWords)).parkMe.post.ite ((canonical_snd_of e4 ((canonical_snd_of e3
                    h.imageWords).imageWords)).pushRecord.retire))

theorem State.canonical.evSignal {set ra rb sc} {s : State} (h : s.canonical) : (s.evSignal set ra rb sc).canonical := h.trap.ite h.signalLater.retire

theorem State.canonical.modComp {c f} {s : State} (h : s.canonical) : (s.modComp c f).canonical := h.modLaunch

theorem State.canonical.store4 {hm ws} {s : State} (h : s.canonical) : (s.store4 hm ws).canonical := h.foldl (fun _ _ h1 => h1.store)

theorem execCqPop_keeps {rd ra c sc} {s : State} : s.Keeps (execCqPop rd ra c sc s) := by
  unfold execCqPop
  split
  · exact .next fun h => h.modComp.trap.ite (h.modComp.trap.ite h.waitFor)
  · dsimp only
    split
    · exact .next fun h => h.modComp.trap
    · split
      · exact .next fun h => h.modComp.trap
      · refine .next fun h => State.canonical.afterSends (fun s1 h1 => ?_) h
        split
        · exact (State.canonical.access (fun a s2 h2 => h2.waitFor.ite h2.store4.modComp.giveX) (fun s2 h2 => h2.discardTrap) (fun a s2 h2 =>
            h2.waitFor.ite (h2.waitFor.ite ((h2.foldl (fun s3 a1 h3 => h3.reflect)).modComp.giveX))) h1.modComp).modComp.ite (State.canonical.access
                (fun a s2 h2 => h2.waitFor.ite h2.store4.modComp.giveX) (fun s2 h2 => h2.discardTrap) (fun a s2 h2 => h2.waitFor.ite (h2.waitFor.ite
                    ((h2.foldl (fun s3 a1 h3 => h3.reflect)).modComp.giveX))) h1.modComp)
        · exact (h1.ite h1.modComp).waitFor

theorem State.canonical.clearFails {k f} {s : State} (h : s.canonical) : (s.clearFails k f).canonical := h.modSlot

theorem execRflush_keeps {rd ra sc} {s : State} : s.Keeps (execRflush rd ra sc s) := by
  unfold execRflush
  dsimp only
  split
  · exact .next fun h => h.trap
  · split
    · exact .next fun h => h.setX.retire
    · exact .next fun h => h.waitFor.ite h.clearFails.giveX

theorem State.canonical.supervise {i rd sc f} {s : State} (hf : ∀ (a : State), a.canonical → (f a).2.canonical) (h : s.canonical) :
    (s.supervise i rd sc f).canonical := h.trap.ite ((hf _ h).giveX)

theorem State.canonical.unpark {k} {s : State} (h : s.canonical) : (s.unpark k).canonical := h.modSlot

theorem State.canonical.resumeSlot {w x10} {s : State} (h : s.canonical) : (s.resumeSlot w x10).2.canonical := by
  unfold State.resumeSlot
  split
  · exact h
  · split
    · exact h
    · exact h.unpark.modSlot

theorem execSvBreak_keeps {rd ra sc} {s : State} : s.Keeps (execSvBreak rd ra sc s) := by
  unfold execSvBreak
  refine .next fun h => State.canonical.supervise (fun s1 h1 => ?_) h
  split
  · exact h1
  · dsimp only
    split
    · exact h1
    · split
      · exact h1.breakActivation
      · exact h1.breakActivation

theorem execSvFreeze_keeps {rd ra sc} {s : State} : s.Keeps (execSvFreeze rd ra sc s) := by
  unfold execSvFreeze
  refine .next fun h => State.canonical.supervise (fun s1 h1 => ?_) h
  split
  · exact h1
  · split
    · exact h1
    · exact h1.modSlot
  · split
    · exact h1
    · exact h1.modEngine
  · split
    · exact h1
    · exact h1.modSector

theorem State.canonical.takeWake {k} {s : State} (h : s.canonical) : (s.takeWake k).canonical := by
  unfold State.takeWake
  split
  · exact h.unpark
  · exact h.deliverX
  · exact h

theorem State.canonical.resumeEngine {cl b} {s : State} (h : s.canonical) : (s.resumeEngine cl b).canonical := by
  unfold State.resumeEngine
  refine State.canonical.kick ?_
  split
  · exact h
  · exact h.post.ite h.post

theorem execSvThaw_keeps {rd ra sc} {s : State} : s.Keeps (execSvThaw rd ra sc s) := by
  unfold execSvThaw
  refine .next fun h => State.canonical.supervise (fun s1 h1 => ?_) h
  split
  · exact h1
  · dsimp only
    split
    · exact h1
    · exact h1.modSlot.takeWake.ite h1.modSlot
  · split
    · exact h1
    · exact h1.modEngine.resumeEngine
  · split
    · exact h1
    · exact h1.modSector.post

theorem State.canonical.topkDone {k} {s : State} (h : s.canonical) : (s.topkDone k).canonical := by
  unfold State.topkDone
  split
  · exact h.ite (h.trapAt.ite h.modSlot.post)
  · exact h

theorem State.canonical.topkStep {c done} {s : State} (h : s.canonical) : (s.topkStep c done).canonical := by
  unfold State.topkStep
  refine h.foldl (fun s1 a h1 => ?_)
  split
  · dsimp only
    split
    · exact h1.modSlot.topkDone
    · exact h1
  · dsimp only
    split
    · exact h1.modSlot.topkDone
    · exact h1

theorem State.canonical.stepPops {c m} {s : State} (h : s.canonical) : (s.stepPops c m).canonical := by
  unfold State.stepPops
  split
  · exact h.modRing.modRing
  · exact h.modRing.modRing.modRing
  · exact h

theorem State.canonical.retireStep {cl st failed} {s : State} (h : s.canonical) : (s.retireStep cl st failed).canonical :=
    ((h.ite h.update).modCore.ite ((h.ite h.update).modCore.record.breakActivation.ite ((h.ite
        h.update).modCore.record))).modSlot.stepPops.modCluster.topkStep.post.post

theorem State.canonical.endEpilogue {c} {s : State} (h : s.canonical) : (s.endEpilogue c).canonical := by
  unfold State.endEpilogue
  split
  · exact h
  · exact h.modCore.topkStep

theorem State.canonical.performHead {c} {s : State} (h : s.canonical) : (s.performHead c).canonical := by
  unfold State.performHead
  refine State.canonical.topkStep ?_
  split
  · exact h.modCore.modCore
  · exact h.modCore.modCore
  · exact h.modCore.modCore
  · exact (h.modCore.modCore.post.ite h.modCore.modCore).completeAt.ite (h.modCore.modCore.post.ite h.modCore.modCore)
  · exact h.modCore

theorem State.canonical.drainOne {cl} {s : State} (h : s.canonical) : (s.drainOne cl).canonical := by
  unfold State.drainOne
  split
  · exact h.retireStep
  · dsimp only
    split
    · exact h.endEpilogue
    · split
      · exact h.performHead
      · split
        · exact h
        · split
          · exact h
          · exact h.modCore.modCluster.retireStep

theorem State.canonical.drainMatrix {cl} {s : State} (h : s.canonical) : (s.drainMatrix cl).canonical := h.foldl (fun _ _ h1 => h1.drainOne)

theorem State.canonical.endFlags {s : State} (h : s.canonical) : s.endFlags.canonical := h.ite h.update

theorem State.canonical.landStores {k} {s : State} (h : s.canonical) : (s.landStores k).canonical := h.modSlot.foldl (fun _ _ h1 => h1.performStore)

theorem State.canonical.returnLoad {k ld len sc upper} {s : State} (h : s.canonical) : (s.returnLoad k ld len sc upper).canonical := by
  have fin : ∀ l (s : State), s.canonical → (s.loaded ld l 0 fun s => s.completeAt k len).canonical :=
    fun _ _ h => State.canonical.loaded (fun _ h => h.completeAt) h
  have get : ∀ hm n (f : List Byte → State → State) (s : State), (∀ l s, s.canonical → (f l s).canonical) → s.canonical →
      (if s.closed hm then s.trap cPROTECTION ld.addr else
        match (s.settleStores k hm n).read (coreOf k) hm n with
        | ((l, bad), s) => if bad then s.trap cPOISON ld.addr else f l s).canonical :=
    fun _ _ _ _ hf h => h.trap.ite (h.settleStores.read.trap.ite (hf _ _ h.settleStores.read))
  unfold State.returnLoad
  refine State.canonical.update ?_
  have h' : ({ s with cur := k } : State).canonical := h
  refine (fin _ _ h').ite (State.canonical.ite (get _ _ _ _ fin h') ?_)
  split
  · exact get _ _ _ _ (fun _ _ h => h.modSlot.post) h'
  · exact get _ _ _ _ (fun _ => fin _) h'
  · exact get _ _ _ _ (fun _ => fin _) h'

theorem State.canonical.defer {s : State} (h : s.canonical) : s.defer.canonical := h.update

theorem State.canonical.performAmo {k a} {s : State} (h : s.canonical) : (s.performAmo k a).canonical := by
  unfold State.performAmo
  refine h.defer.ite (h.trapAt.ite (h.touch.trapAt.ite ?_))
  extract_lets old r s1 s2 s3 s4
  have h1 : s1.canonical := by
    unfold s1
    split
    · exact h.touch.homeWrite
    · exact h.touch
  have h2 : s2.canonical := by
    unfold s2
    split
    · exact h1.ite h1.dropL1
    · exact h1
  have h3 : s3.canonical := h2.modCore
  exact State.canonical.deliverX (h3.acquire.ite h3)

theorem State.canonical.divideDone {k rd v due sc} {s : State} (h : s.canonical) : (s.divideDone k rd v due sc).canonical := h.deliverX.modSlot

theorem State.canonical.fdivideEnd {k fl due sc} {s : State} (h : s.canonical) : (s.fdivideEnd k fl due sc).canonical := h.modCore.completeAt.modSlot

theorem State.canonical.fdivideDone {k rd v mask fl due sc} {s : State} (h : s.canonical) : (s.fdivideDone k rd v mask fl due sc).canonical :=
    h.modSlot.fdivideEnd

theorem State.canonical.fpushDone {k bytes l fl due sc} {s : State} (h : s.canonical) : (s.fpushDone k bytes l fl due sc).canonical :=
    h.pushAll.fdivideEnd

theorem State.canonical.setMap {k n m} {s : State} (h : s.canonical) : (s.setMap k n m).canonical := h.modCore

theorem State.canonical.tmsetDone {k n m} {s : State} (h : s.canonical) : (s.tmsetDone k n m).canonical := h.setMap.completeAt

theorem State.canonical.landSlot {k} {s : State} (h : s.canonical) : (s.landSlot k).canonical := by
  unfold State.landSlot
  refine (State.canonical.landStores ?_).modSlot
  split
  · dsimp only
    split
    · exact h.landStores.returnLoad.returnLoad
    · exact h.landStores.returnLoad
  · exact h.landStores.performAmo
  · exact h.landStores.divideDone
  · exact h.landStores.fdivideDone
  · exact h.landStores.fpushDone.ite h.landStores
  · exact h.landStores.deliverX
  · exact h.landStores.tmsetDone
  · exact h.landStores.cleanL2.completeAt
  · exact h.landStores.unpark
  · exact h.landStores.unpark.modSlot
  · exact h.landStores

theorem State.canonical.completeExp {id} {s : State} (h : s.canonical) : ∀ t, (s.completeExp id) = some t → t.canonical := by
  unfold State.completeExp
  split
  · exact all_some h
  · exact all_ite (all_some h.modLaunch) (all_ite all_none (all_ite all_none (all_some h.modLaunch.modComp)))

theorem State.canonical.completeAll {p} {s : State} (h : s.canonical) : (s.completeAll p).canonical := h.foldl (fun _ _ h1 => h1.getD h1.completeExp)

theorem State.canonical.areaPut {dom va l} {s : State} (h : s.canonical) : ∀ t, s.areaPut dom va l = some t → t.canonical := by
  induction l generalizing s va with
  | nil => exact all_some h
  | cons w l ih =>
    unfold State.areaPut
    split
    · exact all_none
    · exact ih h.engineWrite

theorem State.canonical.areaFree {dom r} {s : State} (h : s.canonical) : ∀ t, (s.areaFree dom r) = some t → t.canonical := h.update.areaPut

theorem State.canonical.copyLine {src dst} {s : State} (h : s.canonical) : (s.copyLine src dst).canonical :=
    h.homeWrite.setHomePoison.foldl (fun _ _ h1 => h1.setHomeFull)

/-- A fold that may give up keeps what its steps keep. -/
theorem canonical_foldl_bind {α : Type} {f : Option State → α → Option State} {o : Option State} {l : List α}
    (h : ∀ t, o = some t → t.canonical) (hf : ∀ o a, (∀ t, o = some t → t.canonical) → ∀ t, f o a = some t → t.canonical) :
    ∀ t, l.foldl f o = some t → t.canonical := by
  induction l generalizing o with
  | nil => exact h
  | cons a l ih => exact ih (hf o a h)

theorem State.canonical.writeArea {p area v secs mer launch} {s : State} (h : s.canonical) :
    ∀ t, s.writeArea p area v secs mer launch = some t → t.canonical := by
  unfold State.writeArea
  refine all_ite all_none ?_
  have h1 : ∀ {l : List (Nat × List Word)} {r : List (Nat × Nat)} t,
      r.foldl (fun (s : Option State) r => s.bind (State.areaFree v.dom r))
        (l.foldl (fun (s : Option State) j => s.bind (State.areaPut v.dom j.1 j.2)) (some s)) = some t → t.canonical :=
    canonical_foldl_bind (canonical_foldl_bind (all_some h) fun _ _ ho => all_bind fun _ e => (ho _ e).areaPut) fun _ _ ho => all_bind fun _ e => (ho
        _ e).areaFree
  exact all_ite h1 (canonical_foldl_bind h1 fun _ _ ho => canonical_foldl_bind ho fun _ _ ho =>
    all_bind fun _ e => all_map fun _ _ => (ho _ e).copyLine)

theorem State.canonical.vacate {p v} {s : State} (h : s.canonical) : (s.vacate p v).canonical :=
    ((((h.foldl (fun _ _ h1 => h1.modSlot)).foldl (fun _ _ h1 => h1.modCore)).foldl (fun _ _ h1 => h1.modCluster)).foldl (fun _ _ h1 =>
        h1.modSector.post)).modLaunch.post

theorem State.canonical.modPart {p f} {s : State} (h : s.canonical) : (s.modPart p f).canonical := h.update

theorem State.canonical.savePart {p dom area move} {s : State} (h : s.canonical) : (s.savePart p dom area move).2.canonical := by
  unfold State.savePart
  extract_lets d s1 s2 mer launch secs v s3 r s4 s5
  have h3 : s3.canonical := (((h.foldl fun _ _ h => h.landSlot).endFlags.foldl fun _ _ h => h.drainMatrix).completeAll).number
  exact (h3.getD h3.writeArea).vacate.modPart.update.modLaunch

theorem execSvSave_keeps {rd ra rb sc} {s : State} : s.Keeps (execSvSave rd ra rb sc s) := by
  unfold execSvSave
  refine .next fun h => State.canonical.supervise (fun s1 h1 => ?_) h
  split
  · exact h1
  · exact h1.savePart

theorem State.canonical.expDone {id} {s : State} (h : s.canonical) : (s.expDone id).canonical := by
  unfold State.expDone
  split
  · exact h
  · exact (h.post.ite h).ite ((h.post.ite h).modLaunch.ite ((h.post.ite h).modLaunch.post))

theorem State.canonical.restoreLaunch {p v r} {s : State} (h : s.canonical) : (s.restoreLaunch p v r).canonical :=
    ((h.modLaunch.foldl (fun _ _ h1 => h1.expDone.ite h1.post)).foldl (fun _ _ h1 => h1.post.ite h1)).post.post

theorem State.canonical.rewatch {c} {s : State} (h : s.canonical) : (s.rewatch c).canonical := by
  unfold State.rewatch
  split
  · exact h
  · exact h.engineCheck.modCmd

theorem State.canonical.resumeCluster {cl} {s : State} (h : s.canonical) : (s.resumeCluster cl).canonical := by
  unfold State.resumeCluster
  refine (h.foldl (fun s1 a h1 => ?_)).resumeEngine.resumeEngine
  split
  · exact h1.post
  · split
    · exact h1.rewatch.post
    · exact h1.post
    · exact h1

theorem State.canonical.loadPart {p dom area cur move} {s : State} (h : s.canonical) : ∀ t, s.loadPart p dom area cur move = some t → t.canonical :=
    by
  unfold State.loadPart
  refine all_bind fun secs _ => ?_
  extract_lets off len images
  have hi : ∀ t, images = some t → t.canonical :=
    all_ite (all_some h) (canonical_foldl_bind (all_some h) fun _ _ ho => canonical_foldl_bind ho fun _ _ ho =>
      all_bind fun _ e => all_map fun _ _ => (ho _ e).copyLine)
  refine all_bind fun v _ => all_bind fun st _ => all_bind fun s1 e1 => ?_
  extract_lets cores slots
  have hc : ∀ t, cores = some t → t.canonical := by
    refine canonical_foldl_bind (all_some (hi _ e1)) fun o x ho => all_bind fun u e => ?_
    dsimp only
    split
    · exact all_some (ho _ e).modCore
    · exact all_none
  have hs : ∀ t, slots = some t → t.canonical := by
    refine canonical_foldl_bind hc fun o x ho => all_bind fun u e => ?_
    split
    · exact all_some (ho _ e)
    · refine all_map fun ws _ => ?_
      have h2 : ∀ {c : Prop} [Decidable c] {i a k f}, (if c then (u.modSlot k f).post i a else u.modSlot k f).canonical :=
        State.canonical.ite_left (ho _ e).modSlot fun h => h.post
      dsimp only
      split
      · exact h2.post
      · exact h2.post
      · exact h2.post
      · exact h2
  refine all_map fun u e => ?_
  extract_lets u1 u2 u3 u4 u5
  have h2 : u2.canonical := ((hs _ e).foldl fun _ _ h => h.modCluster).foldl fun _ _ h => h.modSector.post
  have h4 : u4.canonical := h2.update
  exact (h4.restoreLaunch.foldl fun _ _ h => h.resumeCluster).foldl fun _ _ h => h.stir

theorem execSvLoad_keeps {rd ra rb sc} {s : State} : s.Keeps (execSvLoad rd ra rb sc s) := by
  unfold execSvLoad
  refine .next fun h => State.canonical.supervise (fun s1 h1 => ?_) h
  split
  · exact h1
  · dsimp only
    split
    · split
      · exact h1
      · split
        next e4 => exact h1.loadPart _ e4
        · exact h1
    · exact h1
    · exact h1

theorem State.canonical.dropRange {d first pages} {s : State} (h : s.canonical) : (s.dropRange d first pages).canonical :=
    h.foldl (fun _ _ h1 => h1.modCluster.modSector)

theorem State.canonical.startShoot {d first pages l} {s : State} (h : s.canonical) : (s.startShoot d first pages l).canonical := by
  unfold State.startShoot
  refine (h.dropRange.foldl (fun s1 a h1 => ?_)).foldl (fun s1 a h1 => h1.foldl (fun s2 a1 h2 => h2.rewatch))
  split
  · exact h1.unpark.ite h1
  · exact h1

theorem State.canonical.aluC {rd v} {s : State} (h : s.canonical) : (s.aluC rd v).canonical := h.setX.retire

theorem execDivideResult_keeps {s : State} : s.Keeps (execDivideResult s) := by
  unfold execDivideResult
  dsimp only
  split
  · exact .next fun h => h.divideDone.ite h.defer
  · exact .next fun h => h

theorem execLoadDataReturn_keeps {s : State} : s.Keeps (execLoadDataReturn s) := by
  unfold execLoadDataReturn
  split
  · exact .next fun h => h.returnLoad
  · exact .next fun h => h

theorem execStorePerformedAtHome_keeps {s : State} : s.Keeps (execStorePerformedAtHome s) := by
  unfold execStorePerformedAtHome
  dsimp only
  split
  · split
    · exact .next fun h => h.defer
    · split
      · exact .next fun h => h.modSlot.performStore.post
      · exact .next fun h => h.setSlot.performStore
  · split
    · exact .next fun h => h.performAmo
    · exact .next fun h => h

theorem State.canonical.takePacket {n} {s : State} (h : s.canonical) : ∀ (t : Packet × State), (s.takePacket n) = some t → t.2.canonical := by
  unfold State.takePacket
  split
  · exact all_none
  · exact all_some h.update

theorem State.canonical.nackPacket {p} {s : State} (h : s.canonical) : (s.nackPacket p).canonical := by
  unfold State.nackPacket
  split
  · exact h.unreachable
  · split
    · exact h.ite h.emit
    · exact h

theorem State.canonical.turnBack {p} {s : State} (h : s.canonical) : (s.turnBack p).canonical := h.ite (h.nackPacket.ite h.nacked)

theorem State.canonical.receive {f} {s : State} (hf : ∀ (a : Packet) (t : State), t.canonical → (f a t).canonical) (h : s.canonical) :
    (s.receive f).canonical := by
  unfold State.receive
  split
  · exact h
  next e => exact (h.takePacket _ e).turnBack.ite (hf _ _ (h.takePacket _ e))

theorem State.canonical.failMsg {c m reason origin cause} {s : State} (h : s.canonical) :
    ∀ t, (s.failMsg c m reason origin cause) = some t → t.canonical := by
  unfold State.failMsg
  split
  · exact all_some h.faultRecord
  · exact all_map (fun s1 e1 => (h.breakReply _ e1).creditBack.expEnd)

theorem State.canonical.forward {c m dst} {s : State} (h : s.canonical) : ∀ t, (s.forward c m dst) = some t → t.canonical := by
  unfold State.forward
  split
  next e => exact all_some (((all_ite all_none h.spend) _ e).sendPacket)
  · exact all_map (fun x1 e1 => (h.newCell _ e1).askBlock.hold)

theorem State.canonical.passOn {c m fwd num} {s : State} (h : s.canonical) : ∀ t, (s.passOn c m fwd num) = Except.ok t → t.canonical := by
  unfold State.passOn
  split
  next e => exact ok_ok ((h.forward _ e).creditBack)
  · exact ok_error

theorem State.canonical.acceptReply {c m} {s : State} (h : s.canonical) : ∀ t, s.acceptReply c m = .ok t → t.canonical := by
  unfold State.acceptReply
  refine ok_ite (ok_ok h) ?_
  dsimp only
  split
  · exact ok_ok (h.setEntry.sendPacket.ite h.setEntry)
  · split
    · exact ok_error
    · exact ok_ok (h.setEntry.recheck.sendPacket.ite h.setEntry.recheck)

theorem State.canonical.enqueue {c i m} {s : State} (h : s.canonical) : ∀ t, (s.enqueue c i m) = some t → t.canonical := by
  unfold State.enqueue
  split
  · exact all_none
  next e => exact all_ite (all_some ((h.newCell _ e).setEntry)) (all_some ((h.newCell _ e).linkCell.setEntry))

theorem State.canonical.depositAt {k n off l} {s : State} (h : s.canonical) : (s.depositAt k n off l).canonical := by
  induction n generalizing s off l with
  | zero => exact h
  | succ n ih =>
    cases l with
    | nil => exact h
    | cons b l => exact ih h.engineWrite

theorem State.canonical.deposit {c cell l} {s : State} (h : s.canonical) : (s.deposit c cell l).canonical := h.ite h.depositAt

theorem State.canonical.deliver {c i m} {s : State} (h : s.canonical) : ∀ t, s.deliver c i m = .ok t → t.canonical := by
  unfold State.deliver
  extract_lets k e cd hm stop own bad
  have hstop : ∀ r o ca t, stop r o ca = .ok t → t.canonical := by
    intro r o ca
    simp only [stop]
    split
    next e => exact ok_ok (h.failMsg _ e)
    · exact ok_error
  refine ok_ite (hstop _ _ _) (ok_ite (hstop _ _ _) (ok_ite (hstop _ _ _) (ok_ite (hstop _ _ _) ?_)))
  clear_value stop bad
  split
  · exact hstop _ _ _
  · split
    · exact ok_error
    next e =>
      refine ok_ite (ok_ok (h.acceptReply _ e).usePlace.joinQueue) ?_
      split
      · exact ok_ok (h.acceptReply _ e).usePlace.deposit.joinQueue
      · exact ok_ok (h.acceptReply _ e).usePlace.joinQueue.post

theorem State.canonical.recvPair {c i sender keyh} {s : State} (h : s.canonical) : ∀ (t :
    ℕ × Pair × State), (s.recvPair c i sender keyh) = some t → t.2.2.canonical := by
  unfold State.recvPair
  split
  · dsimp only
    split
    · exact all_some h
    · exact all_none
  · split
    · dsimp only
      split
      · exact all_some h
      · exact all_none
    · dsimp only
      split
      · exact all_some h
      · exact all_some h.modCore.setPair.setEntry

theorem State.canonical.deliverHeld {c i keyh sender f} {s : State} (h : s.canonical) : (s.deliverHeld c i keyh sender f).canonical := by
  induction f generalizing s with
  | zero => exact h
  | succ f ih =>
    unfold State.deliverHeld
    split
    · exact h
    · split
      · exact h
      · extract_lets s1 s2
        have h2 : s2.canonical := h.modCore.setPair.modCluster
        split
        next e => exact ih (h2.deliver _ e)
        · exact State.canonical.ite_right h.tableNotice fun h => h.hold

theorem State.canonical.atTarget {c i gen m} {s : State} (h : s.canonical) : ∀ t, s.atTarget c i gen m = .ok t → t.canonical := by
  unfold State.atTarget
  extract_lets e stop
  have hstop : ∀ s r, s.canonical → ∀ t, stop s r = .ok t → t.canonical := by
    intro s r h
    simp only [stop]
    split
    next e => exact ok_ok (h.failMsg _ e)
    · exact ok_error
  refine ok_ite (hstop _ _ h) (ok_ite h.deliver ?_)
  split
  · exact ok_error
  next n p u e =>
    have hu : u.canonical := h.recvPair _ e
    refine ok_ite ?_ (ok_ite (ok_ite (ok_ok hu.modCore.usePlace) ok_error) (hstop _ _ hu))
    split
    · exact ok_error
    next e => exact ok_ok (hu.setPair.deliver _ e).deliverHeld

theorem State.canonical.atForward {c m} {s : State} (h : s.canonical) : ∀ t, s.atForward c m = .ok t → t.canonical := by
  unfold State.atForward
  split
  · exact ok_ite (ok_ok h.modCore.usePlace) ok_error
  · refine ok_ite (ok_ite h.passOn ?_) (ok_ite (ok_ite h.atTarget h.passOn) ?_)
    · split
      · exact ok_error
      next e =>
        split
        · exact ok_error
        next e' => exact ok_ok ((h.acceptReply _ e).enqueue _ e').creditBack
    · split
      next e => exact ok_ok (h.failMsg _ e)
      · exact ok_error

theorem State.canonical.arrive {c m} {s : State} (h : s.canonical) : ∀ t, s.arrive c m = .ok t → t.canonical := by
  unfold State.arrive
  refine ok_ite ?_ (ok_ite h.atForward (ok_ite (ok_ite (ok_ok h.creditBack.expEnd) (ok_ok h.usePlace.joinAnon)) (ok_ite ?_ h.atTarget)))
  · extract_lets u
    split
    next e => exact ok_ok (h.record.failMsg _ e)
    · exact ok_error
  · split
    · exact h.passOn
    · split
      next e => exact ok_ok (h.failMsg _ e)
      · exact ok_error

theorem State.canonical.passOne {c m} {s : State} (h : s.canonical) : ∀ t, (s.passOne c m) = some t → t.canonical := by
  unfold State.passOne
  dsimp only
  split
  · exact all_map (fun s1 e1 => (h.modCore.forward _ e1).freePlace)
  · exact all_some h.modCore.freePlace.expEnd.breakOrHold

theorem State.canonical.passSome {c key} {s : State} (h : s.canonical) : (s.passSome c key).canonical := h.foldl (fun _ _ h1 => h1.getD h1.passOne)

theorem State.canonical.passHeld {c key} {s : State} (h : s.canonical) : (s.passHeld c key).canonical := h.passSome.ite h.passSome.hold

theorem State.canonical.resolveHome {c key r src} {s : State} (h : s.canonical) : (s.resolveHome c key r src).canonical :=
    h.ite ((h.freeCells.setEntry.fireAll.passHeld.dropPromise.ite h.freeCells.setEntry.fireAll.passHeld).ite
        ((h.modCore.freeCells.setEntry.fireAll.passHeld.dropPromise.ite h.modCore.freeCells.setEntry.fireAll.passHeld).ite h))

theorem State.canonical.takeResolution {c key r hop loc src} {s : State} (h : s.canonical) :
    ∀ t, s.takeResolution c key r hop loc src = .ok t → t.canonical := by
  unfold State.takeResolution
  refine ok_ite (ok_ok h.freeStale) ?_
  split
  · split
    · exact ok_ok (State.canonical.ite_left (State.canonical.sendNotices (h.freeStale.resolveEntry.ite h.freeStale)) fun h => h.sendNotice)
    · split
      · exact ok_error
      · exact ok_ok h.freeStale.setEntry.recheck.sendNotices
  · exact ok_ok h.freeStale.resolveHome
  · split
    · exact ok_ok h.freeStale
    · exact ok_ite (ok_ok h.freeStale) (ok_ok (h.freeStale.resolveEntry.sendNotice.ite h.freeStale.resolveEntry))

theorem State.canonical.takeRelease {c key datum} {s : State} (h : s.canonical) : ∀ t, s.takeRelease c key datum = some t → t.canonical := by
  unfold State.takeRelease
  refine all_ite (all_some (h.freeEntry.ite h)) ?_
  split
  · exact all_some h
  · exact all_ite (all_some h.setEntry.modCore) (all_ite all_none (all_some (State.canonical.freeEntry (h.sendPacket.ite h))))

theorem State.canonical.takeBody {c p} {s : State} (h : s.canonical) : ∀ t, (s.takeBody c p) = Except.ok t → t.canonical := by
  unfold State.takeBody
  split
  · exact h.arrive
  · exact h.takeResolution
  · split
    next e1 => exact ok_ok (h.watchHere _ e1)
    · exact ok_error
  · split
    next e1 => exact ok_ok (h.takeRelease _ e1)
    · exact ok_error
  · exact ok_ok h

theorem State.canonical.takeArrival {s : State} (h : s.canonical) : s.takeArrival.canonical := by
  unfold State.takeArrival
  refine State.canonical.receive (fun a s1 h1 => ?_) h
  dsimp only
  split
  next e => exact h1.takeBody _ e
  · exact (h1.ite h1.tableNotice).hold

theorem State.canonical.retryHeld {c hm} {s : State} (h : s.canonical) : ∀ t, (s.retryHeld c hm) = some t → t.canonical := by
  unfold State.retryHeld
  split
  · split
    next e => exact all_some (h.takeBody _ e)
    · exact all_none
  · exact h.breakReply
  · exact all_map (fun s1 e => (h.spend _ e).freeCell.sendPacket)
  · exact all_ite all_none (all_some h.sendPacket)
  · exact all_ite (all_some h.deliverHeld) all_none
  · exact all_ite (all_some h.passHeld) all_none
  · exact all_ite h.sendAsk (all_some h)

theorem State.canonical.tryHeld {c n l} {s : State} (h : s.canonical) : ∀ t, s.tryHeld c n l = some t → t.canonical := by
  induction l generalizing n with
  | nil => exact all_none
  | cons a l ih =>
    unfold State.tryHeld
    split
    next e => exact all_some (h.modCore.retryHeld _ e)
    · exact ih

theorem execTableEntryWaitRelease_keeps {s : State} : s.Keeps (execTableEntryWaitRelease s) := by
  unfold execTableEntryWaitRelease
  split
  next e => exact .next fun h => h.tryHeld _ e
  · exact .next fun h => h.defer

theorem State.canonical.dropHeads {c i f} {s : State} (h : s.canonical) : (s.dropHeads c i f).canonical := by
  induction f generalizing s with
  | zero => exact h
  | succ f ih =>
    unfold State.dropHeads
    split
    · exact h
    · refine h.ite ?_
      split
      · exact ih h.modCore.freePlace.expEnd.breakOrHold
      · exact h

theorem State.canonical.giveCell {c i} {s : State} {j} (h : s.canonical) : (s.giveCell c i j).canonical := by
  unfold State.giveCell
  dsimp only
  split
  · exact h
  · split
    · exact h
    · split
      · exact h.deposit.modCore
      · exact h

theorem execInboxCellAssignment_keeps {s : State} : s.Keeps (execInboxCellAssignment s) := by
  unfold execInboxCellAssignment
  dsimp only
  split
  · exact .next fun h => h
  · exact .next fun h => (h.foldl (fun s1 a h1 => (h1.foldl (fun s2 a1 h2 => h2.giveCell)).dropHeads)).stir

theorem State.canonical.leaveQueue {c a} {s : State} (h : s.canonical) : (s.leaveQueue c a).canonical := h.modCore

theorem State.canonical.start {c k obj it} {s : State} (h : s.canonical) : (s.start c k obj it).canonical := by
  unfold State.start
  split
  · exact h.freePlace.modSlot
  · exact h.modSlot
  · exact h.modCluster.sendPacket.modSlot
  · exact h.modCluster.modSlot
  · exact h.modCluster.modSlot

theorem execActivationAdmission_keeps {s : State} : s.Keeps (execActivationAdmission s) := by
  unfold execActivationAdmission
  dsimp only
  split
  · exact .next fun h => h
  · split
    · exact .next fun h => h
    · exact .next fun h => h
    · split
      · exact .next fun h => h.defer
      · split
        · exact .next fun h => h.defer
        · exact .next fun h => (h.leaveQueue.modCore.start.number.modSlot.flushL1.ite h.leaveQueue.modCore.start.number.modSlot).stir

theorem execLocationNotice_keeps {s : State} : s.Keeps (execLocationNotice s) := by
  unfold execLocationNotice
  refine .next fun h => State.canonical.receive (fun a s1 h1 => ?_) h
  split
  · exact h1.setEntry.passHeld.ite h1
  · exact h1

theorem execWhenNotice_keeps {s : State} : s.Keeps (execWhenNotice s) := by
  unfold execWhenNotice
  refine .next fun h => State.canonical.receive (fun a s1 h1 => ?_) h
  split
  · split
    · exact h1.fireWhen
    · exact h1.resolveEntry.ite h1
  · exact h1

theorem State.canonical.grantBlocks {k l} {s : State} (h : s.canonical) : (s.grantBlocks k l).canonical := by
  induction l generalizing s with
  | nil => exact h
  | cons n l ih => exact h.ite (ih h.modCluster.sendPacket)

theorem execReservationRequest_keeps {s : State} : s.Keeps (execReservationRequest s) := by
  unfold execReservationRequest
  split
  · exact .next fun h => h.ite h.grantBlocks
  · refine .next fun h => State.canonical.receive (fun a s1 h1 => ?_) h
    split
    · exact h1.modCluster.grantBlocks
    · exact h1.modCluster.grantBlocks
    · exact h1

theorem execReservationGrant_keeps {s : State} : s.Keeps (execReservationGrant s) := by
  unfold execReservationGrant
  refine .next fun h => State.canonical.receive (fun a s1 h1 => ?_) h
  split
  · exact h1.setCredit.post
  · exact h1

theorem execCreditReturn_keeps {s : State} : s.Keeps (execCreditReturn s) := by
  unfold execCreditReturn
  refine .next fun h => State.canonical.receive (fun a s1 h1 => ?_) h
  split
  · exact h1.setCredit.post
  · exact h1

theorem State.canonical.rerun {k} {s : State} (h : s.canonical) : (s.rerun k).canonical := h.modSlot.ite h.unpark

theorem State.canonical.finishWait {k rd v sc} {s : State} (h : s.canonical) : (s.finishWait k rd v sc).canonical := h.modSlot.ite h.deliverX

theorem State.canonical.seekPhase {k a p rd sc scope} {s : State} (h : s.canonical) : (s.seekPhase k a p rd sc scope).canonical := by
  unfold State.seekPhase
  split
  next e => exact (canonical_snd_of e h.check).modSlot.defer
  next e => exact (canonical_snd_of e h.check).acquire.finishWait
  next e2 => exact (canonical_snd_of e2 h.check).defer

theorem State.canonical.merFail {k wr f} {s : State} (h : s.canonical) : (s.merFail k wr f).canonical := h.modSlot.engineFault

theorem State.canonical.merFreeze {sec addr} {s : State} (h : s.canonical) : (s.merFreeze sec addr).canonical := h.modSector.record

theorem State.canonical.merWrite {k bad l b} {s : State} (h : s.canonical) : (s.merWrite k bad l b).2.canonical := by
  induction l generalizing s b with
  | nil => exact h
  | cons a l ih =>
    unfold State.merWrite
    split
    next e =>
      extract_lets u
      have hu : u.canonical := (canonical_snd_of e h.engineStoreBy).merFail
      split
      · exact hu.merFreeze.foldl fun _ _ h => h.merFail
      · exact ih hu
    next e => exact ih (canonical_snd_of e h.engineStoreBy)

theorem State.canonical.merPut {k} {s : State} (h : s.canonical) : (s.merPut k).canonical := by
  unfold State.merPut
  split
  · split
    · exact h
    · exact h.merWrite.foldl (fun s1 a h1 => h1.fillWord)
  · exact h.merWrite
  · exact h

theorem State.canonical.joinGroup {k g} {s : State} (h : s.canonical) : (s.joinGroup k g).canonical := h.modFabric

theorem State.canonical.recordGroup {k g join} {s : State} (h : s.canonical) : ∀ t, (s.recordGroup k g join) = some t → t.canonical := by
  unfold State.recordGroup
  split
  · exact all_ite (all_some h) (all_ite all_none (all_some h.joinGroup))
  · exact all_some (h.ite h.leaveGroup)

theorem execSlotWake_keeps {s : State} : s.Keeps (execSlotWake s) := by
  unfold execSlotWake
  dsimp only
  split
  · exact .next fun h => h.rerun.ite h.defer
  · exact .next fun h => h.finishWait
  · exact .next fun h => h.seekPhase
  · exact .next fun h => h.trapAt.ite (h.acquire.finishWait.ite h.defer)
  · exact .next fun h => h.cleanL2.finishWait
  · exact .next fun h => h.defer.ite h.merPut.finishWait
  · exact .next fun h => h.defer.ite h.merPut.finishWait
  · exact .next fun h => h.setMap.finishWait
  · split
    · exact .next fun h => h.defer
    next e1 => exact .next fun h => (h.recordGroup _ e1).finishWait
  · exact .next fun h => h.rerun.ite (h.defer.ite h.pushRecord.finishWait)
  · exact .next fun h => h

theorem State.canonical.startCmd {cl b c} {s : State} (h : s.canonical) : (s.startCmd cl b c).canonical := by
  unfold State.startCmd
  exact State.canonical.post (State.canonical.modEngine (canonical_ite_snd h.modRing h))

theorem State.canonical.beginCmd {cl b c} {s : State} (h : s.canonical) : (s.beginCmd cl b c).canonical :=
    h.dropCmd.startCmd.ite h.dropCmd.finishAway.kick

theorem execCopyCommandStart_keeps {s : State} : s.Keeps (execCopyCommandStart s) := by
  unfold execCopyCommandStart
  dsimp only
  split
  · exact .next fun h => h
  · split
    · exact .next fun h => h.beginCmd
    · split
      · exact .next fun h => h.defer
      · split
        · exact .next fun h => h.modEngine.beginCmd
        · exact .next fun h => h.defer.ite h

theorem State.canonical.stageWritten {c} {s : State} (h : s.canonical) : (s.stageWritten c).canonical := by
  unfold State.stageWritten
  split
  · exact h
  · exact h.modRing.ite h

theorem State.canonical.windowBack {id src status data poison echo} {s : State} (h : s.canonical) :
    (s.windowBack id src status data poison echo).canonical := h.modFabric.post

theorem State.canonical.farMessage {p} {s : State} (h : s.canonical) : (s.farMessage p).2.canonical := by
  unfold State.farMessage
  split
  · dsimp only
    split
    · exact h
    · exact h.modFabric
  · dsimp only
    split
    · exact h
    · exact h.modFabric
  · dsimp only
    split
    · exact h
    · split
      · exact h
      · exact h.modFabric

theorem State.canonical.sendWin {p} {s : State} (h : s.canonical) : (s.sendWin p).canonical := by
  unfold State.sendWin
  split
  next e =>
    dsimp only
    split
    · exact (canonical_snd_of e h.number).modFabric.post.modFabric.post
    · split
      · exact (canonical_snd_of e h.number).modFabric.post.windowBack.ite ((canonical_snd_of e h.number).modFabric.post.emit)
      · split
        · exact (canonical_snd_of e h.number).modFabric.post.windowBack.ite ((canonical_snd_of e h.number).modFabric.post.windowBack.ite
            ((canonical_snd_of e h.number).farMessage.modFabric.modFabric.post.etherSend.post.ite ((canonical_snd_of e
                h.number).farMessage.modFabric.post.etherSend.post)))
        · exact (canonical_snd_of e h.number).modFabric.post.windowBack

theorem State.canonical.sendMessages {cl c f l} {s : State} (h : s.canonical) : (s.sendMessages cl c f l).canonical := by
  induction f generalizing s l with
  | zero => exact h
  | succ f ih => exact h.ite (ih (h.modFabric.foldl fun _ _ h => h.modCmd.sendWin))

theorem State.canonical.itemFailed {cl b c f} {s : State} (h : s.canonical) : (s.itemFailed cl b c f).canonical :=
    h.engineFault.modCmd.ite ((h.engineFault.freezeEngine.foldl (fun _ _ h1 => h1.engineFault)).modCmd)

theorem State.canonical.engineChecks {core need l} {s : State} (h : s.canonical) : (s.engineChecks core need l).2.canonical := h.engineChecksBy

theorem State.canonical.writeItem {c l} {s : State} (h : s.canonical) : (s.writeItem c l).2.canonical := by
  unfold State.writeItem
  dsimp only
  split
  next e => exact canonical_snd_of e (canonical_ite_snd h h.engineChecks)
  next e =>
    have hs := canonical_snd_of e (canonical_ite_snd h h.engineChecks)
    refine State.canonical.ite_left (State.canonical.ite (hs.foldl fun _ _ h => ?_) hs.engineLand) fun h => ?_
    · split
      next e => exact (canonical_snd_of e h.engineChecks).engineLand
      next e => exact canonical_snd_of e h.engineChecks
    · split
      · exact h.setHomePoison
      · exact h

theorem State.canonical.sourceElem {c e} {s : State} (h : s.canonical) : (s.sourceElem c e).2.canonical := by
  unfold State.sourceElem
  split
  next e1 => exact canonical_snd_of e1 h.gatherIndex
  next e1 =>
    split
    · exact canonical_snd_of e1 h.gatherIndex
    · split
      · split
        next e4 => exact canonical_snd_of e4 ((canonical_snd_of e1 h.gatherIndex).engineRead)
        next e4 => exact canonical_snd_of e4 ((canonical_snd_of e1 h.gatherIndex).engineRead)
      · split
        · dsimp only
          split
          next e5 => exact canonical_snd_of e5 ((canonical_snd_of e1 h.gatherIndex).engineRead)
          next e5 => exact canonical_snd_of e5 ((canonical_snd_of e1 h.gatherIndex).engineRead)
        · dsimp only
          split
          next e5 => exact canonical_snd_of e5 ((canonical_snd_of e1 h.gatherIndex).engineRead)
          next e5 => exact canonical_snd_of e5 ((canonical_snd_of e1 h.gatherIndex).engineRead)

theorem State.canonical.itemElems {c l} {s : State} (h : s.canonical) : (s.itemElems c l).2.canonical := by
  induction l generalizing s with
  | nil => exact h
  | cons a l ih =>
    unfold State.itemElems
    split
    next e => exact canonical_snd_of e h.sourceElem
    next e =>
      have hs := canonical_snd_of e h.sourceElem
      dsimp only
      split
      · exact hs
      · split
        next e => exact canonical_snd_of e (ih hs)
        next e => exact canonical_snd_of e (ih hs)

theorem State.canonical.runItem {cl b c p} {s : State} (h : s.canonical) : (s.runItem cl b c p).canonical := by
  unfold State.runItem
  split
  · exact h.modEngine
  · split
    · split
      · exact h.itemFailed
      · dsimp only
        split
        next e3 => exact (canonical_snd_of e3 h.writeItem).itemFailed
        next e3 =>
          refine (canonical_snd_of e3 h.writeItem).modEngine.foldl (fun s1 a h1 => ?_)
          split
          · exact h1
          · exact h1.modEngine.sendWin
    · split
      next e2 => exact (canonical_snd_of e2 h.itemElems).itemFailed
      next e2 =>
        split
        · exact (canonical_snd_of e2 h.itemElems).modEngine.engineFault.ite ((canonical_snd_of e2 h.itemElems).modEngine)
        · dsimp only
          split
          next e4 => exact (canonical_snd_of e4 ((canonical_snd_of e2 h.itemElems).writeItem)).itemFailed
          next e4 =>
            exact (canonical_snd_of e4 ((canonical_snd_of e2 h.itemElems).writeItem)).modEngine.engineFault.ite ((canonical_snd_of e4
                ((canonical_snd_of e2 h.itemElems).writeItem)).modEngine)

theorem execCopyItem_keeps {s : State} : s.Keeps (execCopyItem s) := by
  unfold execCopyItem
  dsimp only
  split
  · exact .next fun h => h
  · split
    · exact .next fun h => h
    · split
      · exact .next fun h => h.modEngine.sendMessages.stageWritten.post
      · split
        · exact .next fun h => h.modEngine.sendMessages.stageWritten.post
        · exact .next fun h => h.ite h.runItem.post

theorem State.canonical.leaveEngine {cl b c st} {s : State} (h : s.canonical) : (s.leaveEngine cl b c st).canonical :=
    (h.modEngine.setXstat.ite h.modEngine.modCluster.post).kick

theorem execCopyCompletion_keeps {s : State} : s.Keeps (execCopyCompletion s) := by
  unfold execCopyCompletion
  refine .next fun h => State.canonical.ite ?_ ?_
  · split
    · exact h
    · exact h.defer.ite h.dropCmd.completeActivate
  · split
    · exact h
    next c _ =>
      refine h.ite (h.defer.ite (h.defer.ite ?_))
      have hm : ∀ {c : CopyCmd} {b st0}, (if c.told then (c.istatus, s) else s.completeModes c b st0 (s.byteCount c)).2.canonical :=
        canonical_ite_snd h h.completeModes
      split
      next e =>
        have hu := canonical_snd_of e hm
        refine hu.leaveEngine.ite (State.canonical.ite ?_ hu.completeActivate.leaveEngine)
        exact (hu.setXstat.ite hu).modEngine.defer

theorem execLoopIterationStart_keeps {s : State} : s.Keeps (execLoopIterationStart s) := by
  unfold execLoopIterationStart
  dsimp only
  split
  · exact .next fun h => h
  · split
    · exact .next fun h => h.defer
    · exact .next fun h => h.defer.ite h.beginCmd

theorem State.canonical.pageBlocks {core need l} {s : State} (h : s.canonical) : (s.pageBlocks core need l).2.canonical := by
  induction l generalizing s with
  | nil => exact h
  | cons a l ih =>
    unfold State.pageBlocks
    split
    · exact h
    · split
      next e =>
        split
        · exact canonical_snd_of e h.engineCheck
        · exact ih (canonical_snd_of e h.engineCheck)
      next e => exact ih (canonical_snd_of e h.engineCheck)

theorem State.canonical.cmdBlocked {c} {s : State} (h : s.canonical) : (s.cmdBlocked c).2.canonical := by
  unfold State.cmdBlocked
  dsimp only
  split
  next e => exact canonical_snd_of e h.pageBlocks
  next e => exact (canonical_snd_of e h.pageBlocks).pageBlocks

theorem State.canonical.monitorCmd {cl serial entry} {s : State} (h : s.canonical) : (s.monitorCmd cl serial entry).canonical := h.watchLine

theorem execTriggeredCopyFire_keeps {s : State} : s.Keeps (execTriggeredCopyFire s) := by
  unfold execTriggeredCopyFire
  dsimp only
  split
  · exact .next fun h => h
  · split
    · exact .next fun h => h.defer
    · split
      next e2 =>
        split
        · exact .next fun h => (canonical_snd_of e2 h.cmdBlocked).modCmd.engineFault.monitorCmd
        · exact .next fun h => (canonical_snd_of e2 h.cmdBlocked).modCmd.engineFault
      next e2 => exact .next fun h => (canonical_snd_of e2 h.cmdBlocked).modCmd.kick

theorem execFdivFsqrtResult_keeps {s : State} : s.Keeps (execFdivFsqrtResult s) := by
  unfold execFdivFsqrtResult
  dsimp only
  split
  · exact .next fun h => h.fdivideDone.ite h.defer
  · exact .next fun h => h.fpushDone.ite h.defer
  · exact .next fun h => h

theorem State.canonical.divideWindow {sec} {s : State} (h : s.canonical) : (s.divideWindow sec).canonical := h.ite h.modCluster

theorem execMatrixGrant_keeps {s : State} : s.Keeps (execMatrixGrant s) := by
  unfold execMatrixGrant
  dsimp only
  split
  · exact .next fun h => h
  · split
    · exact .next fun h => h
    · split
      · exact .next fun h => (h.divideWindow.foldl (fun s1 a h1 => h1.ite h1.modCore)).modCore.defer
      · split
        · exact .next fun h => h.divideWindow.foldl (fun s1 a h1 => h1.ite h1.modCore)
        · exact .next fun h => (h.divideWindow.foldl (fun s1 a h1 => h1.ite h1.modCore)).modCore.modCluster.modCluster.post.post

theorem execMatrixStepRetire_keeps {s : State} : s.Keeps (execMatrixStepRetire s) := by
  unfold execMatrixStepRetire
  split
  · dsimp only
    split
    · exact .next fun h => h
    · exact .next fun h => h.defer.ite h.modCluster.post
  · dsimp only
    split
    · exact .next fun h => h
    · exact .next fun h => h.defer.ite h.retireStep

theorem execMatrixQueueCommandPerform_keeps {s : State} : s.Keeps (execMatrixQueueCommandPerform s) := by
  unfold execMatrixQueueCommandPerform
  dsimp only
  split
  · exact .next fun h => h.performHead.post.post
  · split
    · exact .next fun h => h
    · split
      · exact .next fun h => h
      · exact .next fun h => h
      · exact .next fun h => h
      · exact .next fun h => h.defer

theorem State.canonical.merPieces {sec c l} {s : State} (h : s.canonical) : (s.merPieces sec c l).2.canonical := by
  induction l generalizing s with
  | nil => exact h
  | cons a l ih =>
    unfold State.merPieces
    split
    next e =>
      split
      · exact canonical_snd_of e h.engineReadBy
      · exact ih (canonical_snd_of e h.engineReadBy)
    next e => exact ih (canonical_snd_of e h.engineReadBy)

theorem execAuctionTake_keeps {s : State} : s.Keeps (execAuctionTake s) := by
  unfold execAuctionTake
  refine .next fun h => h.ite ?_
  split
  · exact h.modSector.post
  · split
    · exact h
    · refine h.defer.ite ?_
      extract_lets hd c owns
      split
      next n t e =>
        have ht : t.canonical := canonical_snd_of e h.number
        extract_lets a s1 s2 s3 r fails s4
        have h2 : s2.canonical := by
          unfold s2
          split
          · exact ht.modSlot.deliverX
          · exact ht.modSlot
        have h3 : s3.canonical := h2.modSector
        have h4 : s4.canonical := h3.merPieces.foldl fun _ _ h => h.merFail
        refine State.canonical.ite (State.canonical.post ?_) h4.modSector.post
        split
        · exact h4.modSector.merFreeze
        · exact h4.modSector

theorem execAuctionRound_keeps {s : State} : s.Keeps (execAuctionRound s) := by
  unfold execAuctionRound
  dsimp only
  split
  · exact .next fun h => h
  · split
    · exact .next fun h => h.modSector.modSector.post
    · split
      · exact .next fun h => h.defer
      · split
        · exact .next fun h => h.modSector.modSector.post
        · exact .next fun h => h.modSector.post

theorem State.canonical.modEvent {n f} {s : State} (h : s.canonical) : (s.modEvent n f).canonical := h.modLaunch

theorem State.canonical.signalEvent {n set v} {s : State} (h : s.canonical) : (s.signalEvent n set v).canonical := h.modEvent.post

theorem State.canonical.performSigs {k} {s : State} (h : s.canonical) : (s.performSigs k).canonical := by
  unfold State.performSigs
  refine h.modSlot.foldl (fun s1 a h1 => ?_)
  split
  · exact h1.signalEvent
  · exact h1.contribute
  · exact h1

theorem execLaunchRecordTake_keeps {s : State} : s.Keeps (execLaunchRecordTake s) := by
  unfold execLaunchRecordTake
  split
  · exact .next fun h => h.performSigs.defer.ite h.performSigs
  · split
    · exact .next fun h => h.defer
    · split
      · exact .next fun h => h
      · split
        · exact .next fun h => h
        · exact .next fun h => (h.modQueue.modLaunch.expDone.ite h.modQueue.modLaunch.post).post.ite (h.modQueue.modLaunch.expDone.ite
            h.modQueue.modLaunch.post)

theorem State.canonical.unitWords {core n a} {s : State} (h : s.canonical) : (s.unitWords core n a).2.canonical := by
  induction n generalizing s a with
  | zero => exact h
  | succ n ih =>
    unfold State.unitWords
    split
    next e => exact canonical_snd_of e h.engineRead
    next e =>
      have hs := canonical_snd_of e h.engineRead
      split
      · exact hs
      · split
        next e => exact canonical_snd_of e (ih hs)
        next e => exact canonical_snd_of e (ih hs)

theorem State.canonical.partWords {x} {s : State} (h : s.canonical) : (s.partWords x).2.canonical := by
  unfold State.partWords
  split
  · exact h
  · dsimp only
    split
    · exact h.unitWords
    · exact h.unitWords
    · split
      next e3 => exact canonical_snd_of e3 h.unitWords
      next e3 =>
        split
        · exact canonical_snd_of e3 h.unitWords
        · split
          next e5 => exact canonical_snd_of e5 ((canonical_snd_of e3 h.unitWords).unitWords)
          next e5 => exact canonical_snd_of e5 ((canonical_snd_of e3 h.unitWords).unitWords)

theorem State.canonical.modExp {id f} {s : State} (h : s.canonical) : (s.modExp id f).canonical := h.modLaunch

theorem State.canonical.sendExp {x m num pairWaits} {s : State} (h : s.canonical) : ∀ t, (s.sendExp x m num pairWaits) = some t → t.canonical := by
  unfold State.sendExp
  split
  · dsimp only
    split
    · exact all_ite (all_some h.modLaunch.record.modExp.modLaunch) all_none
    · split
      · exact all_none
      next e2 =>
        split
        · exact all_none
        next e3 => exact all_some ((((h.nextSeq _ e2).spend) _ e3).sendPacket.modExp.modLaunch)
  · dsimp only
    split
    · exact all_ite (all_some h.modLaunch.modExp.modLaunch) all_none
    · split
      · exact all_some h.tableNotice.modExp.modLaunch
      next e2 =>
        split
        · exact all_none
        next e3 => exact all_some ((((h.nextSeq _ e2).spend) _ e3).sendPacket.modExp.modLaunch)

theorem State.canonical.sendTo {x hm a0 a1 a2 a3} {s : State} (h : s.canonical) : ∀ t, (s.sendTo x hm a0 a1 a2 a3) = some t → t.canonical := by
  unfold State.sendTo
  dsimp only
  split
  · exact all_some h.modExp
  · exact h.sendExp

theorem State.canonical.expandStep {x ws} {s : State} (h : s.canonical) : ∀ t, (s.expandStep x ws) = some t → t.canonical := by
  unfold State.expandStep
  dsimp only
  split
  · exact all_map (fun s1 e1 => (h.sendTo _ e1).modExp)
  · exact all_ite (all_some h.modExp) (all_ite (all_some h.modExp.modExp) (all_map (fun s1 e1 => (h.sendExp _ e1).modExp)))
  · exact all_ite (all_some h.modExp) (all_ite (all_some h.modExp) (all_map (fun s1 e2 => (h.sendTo _ e2).modExp)))

theorem State.canonical.wantsCredit {c num} {s : State} (h : s.canonical) : (s.wantsCredit c num).canonical := h.askBlock.ite h

theorem State.canonical.askFor {x ws} {s : State} (h : s.canonical) : (s.askFor x ws).canonical := by
  unfold State.askFor
  split
  · exact h.wantsCredit.ite h.tableNotice
  · split
    · dsimp only
      split
      · exact h.wantsCredit
      · exact h
    · dsimp only
      split
      · exact h.wantsCredit
      · exact h

theorem execLaunchExpansionSend_keeps {s : State} : s.Keeps (execLaunchExpansionSend s) := by
  unfold execLaunchExpansionSend
  split
  · exact .next fun h => h
  · split
    · exact .next fun h => h.defer
    · split
      next e2 =>
        exact .next fun h => (canonical_snd_of e2 h.partWords).modExp.engineFault.expDone.post.ite ((canonical_snd_of e2
            h.partWords).modExp.engineFault.expDone)
      next e2 =>
        dsimp only
        split
        next e3 =>
          exact .next fun h => (((canonical_snd_of e2 h.partWords).modExp.expandStep) _ e3).expDone.post.ite ((((canonical_snd_of e2
              h.partWords).modExp.expandStep) _ e3).expDone)
        · exact .next fun h => (canonical_snd_of e2 h.partWords).modExp.askFor.defer

theorem execActivationEndNotice_keeps {s : State} : s.Keeps (execActivationEndNotice s) := by
  unfold execActivationEndNotice
  split
  · exact .next fun h => h
  next e =>
    split
    · exact .next fun h => (h.takePacket _ e).update.modExp.expDone
    · exact .next fun h => h.takePacket _ e

theorem execCqArmFire_keeps {s : State} : s.Keeps (execCqArmFire s) := by
  unfold execCqArmFire
  dsimp only
  split
  · exact .next fun h => h
  · split
    · exact .next fun h => h.defer
    · refine .next fun h => (State.canonical.usePlace ?_).joinAnon
      split
      next e4 => exact (canonical_snd_of e4 h.modComp.engineStore).engineFault
      next e4 => exact (canonical_snd_of e4 h.modComp.engineStore).foldl (fun s1 a h1 => h1.dropCluster)
  · exact .next fun h => h.defer

theorem State.canonical.modSlice {p f} {s : State} (h : s.canonical) : (s.modSlice p f).canonical := h.modLaunch

theorem State.canonical.overSlot {k f} {s : State} (h : s.canonical) : (s.overSlot k f).canonical := h.update.modSlot

theorem State.canonical.trimTrackers {k} {s : State} (h : s.canonical) : (s.trimTrackers k).canonical := h.overSlot

theorem State.canonical.modTracker {k id f} {s : State} (h : s.canonical) : (s.modTracker k id f).canonical := h.overSlot

theorem State.canonical.trackerFail {k id status receiver} {s : State} (h : s.canonical) : (s.trackerFail k id status receiver).canonical :=
    h.update.modTracker

theorem State.canonical.sendStore {w} {s : State} (h : s.canonical) : (s.sendStore w).canonical :=
    h.trackerFail.ite (h.foldl (fun _ _ h1 => h1.modTracker.sendWin))

theorem execWindowPortTake_keeps {s : State} : s.Keeps (execWindowPortTake s) := by
  unfold execWindowPortTake
  dsimp only
  split
  · exact .next fun h => h
  · exact .next fun h => h.defer.ite h.modCluster.modFabric.sendStore.trimTrackers

theorem State.canonical.answerTo {q status data poison} {s : State} (h : s.canonical) : (s.answerTo q status data poison).canonical := by
  unfold State.answerTo
  split
  · exact h.windowBack
  · split
    · exact h.ite h.emit
    · split
      · exact h.etherSend
      · exact h

theorem State.canonical.modRx {n f} {s : State} (h : s.canonical) : (s.modRx n f).canonical := h.modFabric

theorem State.canonical.holdAnswer {p n status} {s : State} (h : s.canonical) : (s.holdAnswer p n status).canonical := h.modRx.modFabric

theorem State.canonical.passChain {p status} {s : State} (h : s.canonical) : (s.passChain p status).canonical := by
  unfold State.passChain
  split
  · exact h.answerTo
  · exact h.holdAnswer.sendWin

theorem State.canonical.placeRun {r bad base l b} {s : State} (h : s.canonical) : (s.placeRun r bad base l b).canonical := by
  induction l generalizing s b with
  | nil => exact h
  | cons a l ih => exact ih h.engineWrite

theorem State.canonical.reduceRun {r op rfmt base bad f off b} {s : State} (h : s.canonical) : (s.reduceRun r op rfmt base bad f off b).canonical :=
    by
  induction f generalizing s off b with
  | zero => exact h
  | succ f ih => exact h.ite (ih h.placeRun)

theorem State.canonical.placePacket {p} {s : State} (h : s.canonical) : (s.placePacket p).canonical := by
  unfold State.placePacket
  split
  · exact h.reduceRun
  · exact h.placeRun

theorem State.canonical.relay {p} {s : State} (h : s.canonical) : (s.relay p).canonical :=
    h.answerTo.ite (h.answerTo.ite (h.answerTo.ite (h.holdAnswer.foldl (fun _ _ h1 => h1.sendWin))))

theorem State.canonical.signal {window} {s : State} (h : s.canonical) : (s.signal window).canonical := h.ite h.homeWrite.fillWord

theorem State.canonical.countPacket {p} {s : State} (h : s.canonical) : (s.countPacket p).canonical := h.modFabric.signal.ite h.modFabric

theorem State.canonical.takeWin {p count} {s : State} (h : s.canonical) : (s.takeWin p count).canonical := by
  unfold State.takeWin
  split
  · exact (h.record.ite h).passChain
  · split
    · exact (h.foldl (fun s1 a h1 => h1.touch)).answerTo
    · exact h.placePacket.relay.ite h.placePacket.answerTo
    · exact (h.placePacket.countPacket.ite h.placePacket).passChain

theorem State.canonical.takeFar {p} {s : State} (h : s.canonical) : (s.takeFar p).canonical := by
  unfold State.takeFar
  split
  · split
    · dsimp only
      split
      · exact h.answerTo.ite (h.takeWin.ite ((h.takeWin.modFabric.signal.ite h.takeWin.modFabric).post.ite h.takeWin.modFabric))
      · exact h
    · dsimp only
      split
      · exact h.answerTo.ite (h.takeWin.ite ((h.takeWin.modFabric.signal.ite h.takeWin.modFabric).post.ite h.takeWin.modFabric))
      · exact (h.modFabric.takeWin.signal.ite h.modFabric.takeWin).post.ite h.modFabric.takeWin
  · split
    · dsimp only
      split
      · exact h.answerTo.ite (h.takeWin.ite ((h.takeWin.modFabric.signal.ite h.takeWin.modFabric).post.ite h.takeWin.modFabric))
      · exact h
    · dsimp only
      split
      · exact h.answerTo.ite (h.takeWin.ite ((h.takeWin.modFabric.signal.ite h.takeWin.modFabric).post.ite h.takeWin.modFabric))
      · exact (h.modFabric.takeWin.signal.ite h.modFabric.takeWin).post.ite h.modFabric.takeWin

theorem execWindowArrival_keeps {s : State} : s.Keeps (execWindowArrival s) := by
  unfold execWindowArrival
  dsimp only
  split
  · exact .next fun h => h
  · split
    · exact .next fun h => h.defer
    · split
      · exact .next fun h => h.modFabric.takeWin
      · split
        · exact .next fun h => h.modFabric
        · exact .next fun h => (h.modFabric.etherSend.ite h.modFabric.modFabric.takeWin).ite (h.modFabric.takeWin.ite h.modFabric.takeFar)

theorem State.canonical.takeAnswer {id} {s : State} (h : s.canonical) : ∀ (t : WPack × WAns × State), (s.takeAnswer id) = some t → t.2.2.canonical :=
    by
  unfold State.takeAnswer
  split
  · exact all_some h.modFabric
  · exact all_none

theorem State.canonical.rateAnswer {p a} {s : State} (h : s.canonical) : (s.rateAnswer p a).canonical := by
  unfold State.rateAnswer
  split
  · exact h
  · exact h.ite (h.update.modFabric.post.ite h.update.modFabric)

theorem State.canonical.tryClosed {n} {s : State} (h : s.canonical) : (s.tryClosed n).canonical := h.modRx.ite h

theorem State.canonical.onwardAnswer {key status} {s : State} (h : s.canonical) : (s.onwardAnswer key status).canonical := by
  unfold State.onwardAnswer
  split
  · exact h
  · exact h.modFabric.ite h.modFabric.modRx.answerTo.tryClosed

theorem State.canonical.remoteFault {p f} {s : State} (h : s.canonical) : (s.remoteFault p f).canonical := h.engineFault

theorem execWindowAnswer_keeps {s : State} : s.Keeps (execWindowAnswer s) := by
  unfold execWindowAnswer
  split
  · split
    · exact .next fun h => h.modFabric.unreachable
    · exact .next fun h => h.modFabric
  next e =>
    split
    · exact .next fun h => (h.takeAnswer _ e).rateAnswer.onwardAnswer
    · exact .next fun h => ((h.takeAnswer _ e).rateAnswer.modTracker.trackerFail.ite ((h.takeAnswer _ e).rateAnswer.modTracker)).trimTrackers.ite
        ((h.takeAnswer _ e).rateAnswer.modCmd.ite ((h.takeAnswer _ e).rateAnswer.modCmd.foldl (fun s1 a h1 => h1.remoteFault)))

theorem execPlacementTimeout_keeps {s : State} : s.Keeps (execPlacementTimeout s) := by
  unfold execPlacementTimeout
  split
  · exact .next fun h => h
  · exact .next fun h => h.defer.ite (h.ite h.windowBack)

theorem execGetReply_keeps {s : State} : s.Keeps (execGetReply s) := by
  unfold execGetReply
  refine .next fun h => ?_
  split
  · exact h
  next p a s e =>
    have ht : (s.rateAnswer p a).canonical := (h.takeAnswer _ e).rateAnswer
    dsimp only
    split
    · exact ht
    · have hw : ∀ {c places es}, (match (s.rateAnswer p a).getBreach c places with
          | some f => (some f, s.rateAnswer p a)
          | none => (s.rateAnswer p a).writeItem c es).2.canonical := by
        intros
        split
        · exact ht
        · exact ht.writeItem
      split
      next e => exact (canonical_snd_of e hw).itemFailed
      next e =>
        have hu := canonical_snd_of e hw
        exact hu.modCmd.remoteFault.ite hu.modCmd

theorem execCloseNotice_keeps {s : State} : s.Keeps (execCloseNotice s) := by
  unfold execCloseNotice
  split
  · exact .next fun h => h
  · split
    · exact .next fun h => h.defer.ite h.update.sendPacket
    · exact .next fun h => h

theorem execCloseAnswer_keeps {s : State} : s.Keeps (execCloseAnswer s) := by
  unfold execCloseAnswer
  split
  · exact .next fun h => h
  next e =>
    split
    · exact .next fun h => (h.takePacket _ e).modRx.tryClosed
    · exact .next fun h => h.takePacket _ e

theorem execFarResendTimer_keeps {s : State} : s.Keeps (execFarResendTimer s) := by
  unfold execFarResendTimer
  split
  · exact .next fun h => h
  · split
    · exact .next fun h => h.defer
    · refine .next fun h => State.canonical.post ?_
      split
      · exact h.modFabric
      · exact h.modFabric.etherSend

theorem execTombstoneExpiry_keeps {s : State} : s.Keeps (execTombstoneExpiry s) := by
  unfold execTombstoneExpiry
  dsimp only
  split
  · exact .next fun h => h
  · exact .next fun h => h.defer.ite h.modFabric

theorem State.canonical.goBack {fd n} {s : State} (h : s.canonical) : (s.goBack fd n).canonical := h.modFabric.foldl (fun _ _ h1 => h1.etherSend)

theorem execQueuePairResend_keeps {s : State} : s.Keeps (execQueuePairResend s) := by
  unfold execQueuePairResend
  split
  · exact .next fun h => h.goBack
  · split
    · exact .next fun h => h
    · split
      · exact .next fun h => h.defer
      · refine .next fun h => State.canonical.post ?_
        split
        · exact h.goBack
        · exact h

theorem State.canonical.linkHeader {port f} {s : State} (h : s.canonical) : (s.linkHeader port f).canonical := by
  unfold State.linkHeader
  exact State.canonical.ite h.modPort.update.modPort.post h.modPort

theorem State.canonical.nackWin {p} {s : State} (h : s.canonical) : (s.nackWin p).canonical := h.windowBack.ite h.answerTo

theorem State.canonical.nackAnswer {a} {s : State} (h : s.canonical) : (s.nackAnswer a).canonical := by
  unfold State.nackAnswer
  split
  · exact h.ite h.emit
  · exact h

theorem State.canonical.linkDown {port} {s : State} (h : s.canonical) : (s.linkDown port).canonical := by
  unfold State.linkDown
  refine h.modPort.record.foldl (fun s1 a h1 => ?_)
  split
  · exact h1.nackPacket
  · exact h1.nackWin
  · exact h1

theorem State.canonical.tagFailed {port f} {s : State} (h : s.canonical) : (s.tagFailed port f).canonical := by
  unfold State.tagFailed
  split
  · exact h.record.nackPacket.modPort.linkDown.ite h.record.nackPacket.modPort
  · exact h.record.nackWin.modPort.linkDown.ite h.record.nackWin.modPort
  · exact h.record.nackAnswer.modPort.linkDown.ite h.record.nackAnswer.modPort
  · exact h.record.modPort.linkDown.ite h.record.modPort

theorem State.canonical.fromPort {port p} {s : State} (h : s.canonical) : (s.fromPort port p).canonical := h.update.post

theorem State.canonical.takeTail {port f} {s : State} (h : s.canonical) : (s.takeTail port f).canonical := by
  unfold State.takeTail
  extract_lets here next ok on
  have hon : ∀ p b, (on p b s).canonical := by
    clear_value next
    intro p b
    cases next with
    | none => exact h
    | some q => exact h.emit
  clear_value on
  split
  · exact h.fromPort.ite ((hon _ _).ite h.nackPacket)
  · exact h.modFabric.post.ite ((hon _ _).ite h.nackWin)
  · refine State.canonical.ite ?_ ((hon _ _).ite h)
    split
    · exact h.unreachable
    · exact h.windowBack.ite h
  · exact h

theorem execFlitReceive_keeps {s : State} : s.Keeps (execFlitReceive s) := by
  unfold execFlitReceive
  dsimp only
  split
  · exact .next fun h => h
  · exact .next fun h => h.modPort.ite (h.modPort.modPort.ite (h.modPort.linkHeader.ite (h.modPort.ite (h.modPort.modPort.ite
      (h.modPort.modPort.linkHeader.ite (h.modPort.modPort.linkHeader.modPort.tagFailed.ite (h.modPort.modPort.linkHeader.modPort.post.ite
          h.modPort.modPort.linkHeader.modPort.takeTail)))))))

theorem State.canonical.groupTake {g num key v count nan} {s : State} (h : s.canonical) :
    ∀ t, (s.groupTake g num key v count nan) = some t → t.canonical := by
  unfold State.groupTake
  split
  · exact all_some h.modGroup
  · split
    · dsimp only
      split
      · exact all_ite (all_some h.modGroup) (all_some (h.modFabric.groupComplete.ite h.modFabric))
      · exact all_none
    · dsimp only
      split
      · exact all_ite (all_some h.modGroup) (all_some (h.modFabric.groupComplete.ite h.modFabric))
      · exact all_some (h.modGroup.post.modFabric.groupComplete.ite h.modGroup.post.modFabric)

theorem execGroupContribution_keeps {s : State} : s.Keeps (execGroupContribution s) := by
  unfold execGroupContribution
  split
  · exact .next fun h => h
  next e =>
    split
    · dsimp only
      split
      next e2 => exact .next fun h => ((h.takePacket _ e).groupTake) _ e2
      · exact .next fun h => h.defer
    · split
      next e2 => exact .next fun h => ((h.takePacket _ e).groupTake) _ e2
      · exact .next fun h => h.defer
    · exact .next fun h => h.takePacket _ e

theorem execGroupResult_keeps {s : State} : s.Keeps (execGroupResult s) := by
  unfold execGroupResult
  split
  · exact .next fun h => h
  next e =>
    split
    · exact .next fun h => (h.takePacket _ e).groupDeliver
    · exact .next fun h => h.takePacket _ e

theorem execGroupSlotTimeout_keeps {s : State} : s.Keeps (execGroupSlotTimeout s) := by
  unfold execGroupSlotTimeout
  split
  · exact .next fun h => h
  · exact .next fun h => h.ite (h.defer.ite h.groupComplete)

theorem State.canonical.dropLineTranslations {line} {s : State} (h : s.canonical) : (s.dropLineTranslations line).canonical := h.update

theorem State.canonical.wakeLine {key} {s : State} (h : s.canonical) : (s.wakeLine key).canonical := by
  unfold State.wakeLine
  refine State.canonical.foldl (State.canonical.foldl (h.dropLineTranslations.update) fun _ _ h => h.unpark.modSlot) fun t x h => ?_
  split
  · exact h.post
  · exact h

theorem State.canonical.planPoll {key} {s : State} (h : s.canonical) : (s.planPoll key).canonical := by
  unfold State.planPoll
  split
  · exact h.update.post.ite h
  · exact h

theorem State.canonical.reread {key} {s : State} (h : s.canonical) : (s.reread key).canonical := h.wakeLine.ite h.update

theorem execPageMonitorWake_keeps {s : State} : s.Keeps (execPageMonitorWake s) := by
  unfold execPageMonitorWake
  dsimp only
  split
  · exact .next fun h => h
  · exact .next fun h => h.ite ((h.foldl (fun s1 a h1 => h1.wakeLine)).ite h.reread.planPoll)

theorem execMonitorPoll_keeps {s : State} : s.Keeps (execMonitorPoll s) := by
  unfold execMonitorPoll
  dsimp only
  split
  · exact .next fun h => h
  · split
    · exact .next fun h => h
    · exact .next fun h => h.defer.ite h.update.reread.planPoll

theorem execShootdownComplete_keeps {s : State} : s.Keeps (execShootdownComplete s) := by
  unfold execShootdownComplete
  split
  · exact .next fun h => h
  · split
    · exact .next fun h => h.defer
    · dsimp only
      split
      · exact .next fun h => (h.dropRange.foldl (fun s1 a h1 => h1.flushL1)).update.deliverX.ite ((h.dropRange.foldl (fun s1 a h1 =>
          h1.flushL1)).update)
      · exact .next fun h => (h.dropRange.foldl (fun s1 a h1 => h1.flushL1)).update

theorem State.canonical.modBank {k b f} {s : State} (h : s.canonical) : (s.modBank k b f).canonical := h.modCluster

theorem State.canonical.clearSram {k off n} {s : State} (h : s.canonical) : (s.clearSram k off n).canonical := h.of_drop

theorem State.canonical.breakHeld {s : State} {c} (h : s.canonical) : (s.breakHeld c).canonical :=
    (h.foldl (fun _ _ h1 => h1.engineFault)).finishAway

theorem State.canonical.discardWrites {p} {s : State} (h : s.canonical) : (s.discardWrites p).canonical := h.update

theorem State.canonical.fence {p} {s : State} (h : s.canonical) : (s.fence p).canonical := h.update.foldl (fun _ _ h1 => h1.turnBack)

theorem State.canonical.resetAuctions {p} {s : State} (h : s.canonical) : (s.resetAuctions p).canonical := h.foldl (fun _ _ h1 => h1.modSector.post)

theorem State.canonical.resetLaunch {p} {s : State} (h : s.canonical) : (s.resetLaunch p).canonical := h.modLaunch.post

theorem State.canonical.stopSlots {p} {s : State} (h : s.canonical) : (s.stopSlots p).canonical := h.update

theorem State.canonical.resetEntry {p c} {s : State} {i} (h : s.canonical) : (s.resetEntry p c i).canonical :=
    h.ite (h.resolveHome.ite h.resolveEntry)

theorem State.canonical.resetMsg {c} {s : State} {m} (h : s.canonical) : (s.resetMsg c m).canonical := by
  unfold State.resetMsg
  split
  next e => exact h.failMsg _ e
  · exact h.sendNotices.creditBack.expEnd

theorem State.canonical.resetHeld {p c} {s : State} {hm} (h : s.canonical) : (s.resetHeld p c hm).canonical := by
  unfold State.resetHeld
  split
  · exact h.turnBack
  · exact h.ite h.sendNotices
  · exact h.resetMsg.ite h
  · exact h
  · exact h
  · exact h
  · exact h

theorem State.canonical.resetCore {p c} {s : State} (h : s.canonical) : (s.resetCore p c).canonical :=
    ((h.foldl (fun _ _ h1 => h1.resetEntry)).modCore.foldl (fun _ _ h1 => h1.resetMsg)).foldl (fun _ _ h1 => h1.resetHeld)

theorem State.canonical.resetGroups {p} {s : State} (h : s.canonical) : (s.resetGroups p).canonical := h.modFabric.foldl (fun _ _ h1 => h1.modGroup)

theorem State.canonical.beginReset {p} {s : State} (h : s.canonical) : (s.beginReset p).canonical :=
    (((h.modPart.modChip.foldl (fun _ _ h1 => h1.breakHeld)).fence.discardWrites.stopSlots.resetLaunch.resetAuctions.foldl (fun _ _ h1 =>
        h1.resetCore.modCore)).foldl (fun _ _ h1 => h1.modCluster)).resetGroups.fence.post

theorem State.canonical.clearEngine {cl} {s : State} (h : s.canonical) : (s.clearEngine cl).canonical := h.modSector.post.ite h

theorem State.canonical.clearCluster {cl} {s : State} (h : s.canonical) : (s.clearCluster cl).canonical := by
  unfold State.clearCluster
  exact h.flushL1.clearSram.setCluster.clearEngine.foldl fun _ _ h => h.setCore.update

theorem State.canonical.mailbox {op f} {s : State} (hf : ∀ a b s, s.canonical → (f a b s).2.canonical) (h : s.canonical) :
    (s.mailbox op f).canonical := by
  unfold State.mailbox
  exact h.ite (State.canonical.post (State.canonical.modChip (canonical_ite_snd h (hf _ _ _ h))))

theorem execMailboxLoadkey_keeps {s : State} : s.Keeps (execMailboxLoadkey s) := by
  unfold execMailboxLoadkey
  refine .next fun h => State.canonical.mailbox (fun a t s1 h1 => ?_) h
  split
  · exact h1
  · exact h1.update.modChip

theorem execMailboxErasekey_keeps {s : State} : s.Keeps (execMailboxErasekey s) := by
  unfold execMailboxErasekey
  refine .next fun h => State.canonical.mailbox (fun a t s1 h1 => ?_) h
  split
  · exact h1
  · exact h1.modChip

theorem State.canonical.bufWrite {n va l} {s : State} (h : s.canonical) : ∀ t, s.bufWrite n va l = some t → t.canonical := by
  induction n generalizing s va l with
  | zero => exact all_some h
  | succ n ih =>
    cases l with
    | nil => exact all_some h
    | cons b l =>
      unfold State.bufWrite
      split
      · exact all_none
      · exact ih h.engineWrite

theorem State.canonical.bufTake {va} {s : State} (h : s.canonical) : ∀ (t : BitVec 256 × State), (s.bufTake va) = some t → t.2.canonical := by
  unfold State.bufTake
  split
  · exact all_none
  · exact all_map h.bufWrite

theorem State.canonical.rekeyOut {port key} {s : State} (h : s.canonical) : (s.rekeyOut port key).canonical := h.emit.modChip.modPort

theorem execMailboxLinkkey_keeps {s : State} : s.Keeps (execMailboxLinkkey s) := by
  unfold execMailboxLinkkey
  refine .next fun h => State.canonical.mailbox (fun a t s1 h1 => ?_) h
  split
  · exact h1
  · split
    · exact h1
    next e1 => exact (h1.bufTake _ e1).modChip.modPort.rekeyOut

theorem State.canonical.rekeyFlow {flow key} {s : State} (h : s.canonical) : (s.rekeyFlow flow key).canonical := by
  unfold State.rekeyFlow
  refine State.canonical.modChip ?_
  split
  · exact h.etherSend
  · exact h

theorem execMailboxFlowkey_keeps {s : State} : s.Keeps (execMailboxFlowkey s) := by
  unfold execMailboxFlowkey
  refine .next fun h => State.canonical.mailbox (fun a t s1 h1 => ?_) h
  split
  · exact h1
  next e => exact (h1.bufTake _ e).modChip.rekeyFlow

theorem execMailboxJobstart_keeps {s : State} : s.Keeps (execMailboxJobstart s) := by
  unfold execMailboxJobstart
  refine .next fun h => State.canonical.mailbox (fun a t s1 h1 => ?_) h
  split
  · exact h1
  · split
    · exact h1
    · split
      next e2 =>
        split
        · exact h1
        next e3 => exact (((canonical_snd_of e2 h1.jobRecord).bufWrite) _ e3).modChip

theorem execMailboxJobend_keeps {s : State} : s.Keeps (execMailboxJobend s) := by
  unfold execMailboxJobend
  refine .next fun h => State.canonical.mailbox (fun a t s1 h1 => ?_) h
  split
  · exact h1
  · split
    · exact h1
    · split
      next e2 =>
        split
        · exact h1
        next e3 => exact (((canonical_snd_of e2 h1.jobRecord).bufWrite) _ e3).modChip

theorem State.canonical.extend {i d} {s : State} (h : s.canonical) : (s.extend i d).canonical := h.modChip

theorem execMailboxExtend_keeps {s : State} : s.Keeps (execMailboxExtend s) := by
  unfold execMailboxExtend
  refine .next fun h => State.canonical.mailbox (fun a t s1 h1 => ?_) h
  split
  · exact h1
  · split
    · exact h1
    · exact h1.extend

theorem execMailboxRequestComplete_keeps {s : State} : s.Keeps (execMailboxRequestComplete s) := by
  unfold execMailboxRequestComplete
  split
  · exact .next fun h => h
  · exact .next fun h => h.modChip

theorem State.canonical.kept {s : State} (h : s.canonical) : s.kept.canonical := Memory.wf_filter _ h

theorem State.canonical.reports {m} {s : State} (h : s.canonical) : (s.reports m).canonical := h.modChip

theorem State.canonical.bootFails {n} {s : State} (h : s.canonical) : (s.bootFails n).canonical := h.reports.update

theorem State.canonical.measure {i n} {s : State} (h : s.canonical) : (s.measure i n).canonical := h.update.extend

theorem State.canonical.openTier {s : State} (h : s.canonical) : s.openTier.canonical := h.update.modChip.extend

theorem State.canonical.powerDown {cl} {s : State} (h : s.canonical) : (s.powerDown cl).canonical :=
    h.flushL1.clearSram.update.setCluster.foldl (fun _ _ h1 => h1.setCore)

theorem State.canonical.writeCore {c off v} {s : State} (h : s.canonical) : (s.writeCore c off v).canonical := h.modCore.post.stir

theorem State.canonical.writeCluster {k off v} {s : State} (h : s.canonical) : (s.writeCluster k off v).canonical := h.modCluster

theorem State.canonical.writeLaunch {off v} {s : State} (h : s.canonical) : (s.writeLaunch off v).canonical := by
  unfold State.writeLaunch
  split
  · exact h.modComp
  · exact h.modEvent.post
  · exact h

theorem State.canonical.writeFabric {off v} {s : State} (h : s.canonical) : (s.writeFabric off v).canonical := h.modFabric

theorem State.canonical.writeChip {off v} {s : State} (h : s.canonical) : (s.writeChip off v).canonical := h.modChip

theorem State.canonical.writePart {p off v} {s : State} (h : s.canonical) : (s.writePart p off v).canonical := h.modPart

theorem execConfigRegisterWrite_keeps {s : State} : s.Keeps (execConfigRegisterWrite s) := by
  unfold execConfigRegisterWrite
  split
  · exact .next fun h => h.writeCore
  · exact .next fun h => h.writeCluster
  · exact .next fun h => h.writeLaunch
  · exact .next fun h => h.writeFabric
  · exact .next fun h => h.writeChip
  · exact .next fun h => h.writePart
  · exact .next fun h => h

theorem State.canonical.fetchHalf {c pc} {s : State} (h : s.canonical) : ∀ (t :
    List Byte × State), (s.fetchHalf c pc) = Except.ok t → t.2.canonical := by
  unfold State.fetchHalf
  dsimp only
  split
  next e => exact ok_ite ok_error (ok_ok (canonical_snd_of e h.check))
  · exact ok_error
  · exact ok_error
  · exact ok_error

theorem State.canonical.fetch {k} {s : State} (h : s.canonical) : (s.fetch k).2.canonical := by
  unfold State.fetch
  dsimp only
  split
  · exact h
  next e =>
    split
    · exact h.fetchHalf _ e
    · split
      · exact h.fetchHalf _ e
      next e2 => exact ((h.fetchHalf _ e).fetchHalf) _ e2

/-- The state an issue goes on with, be it to run an instruction or to end with a trap. -/
theorem State.canonical.issueFrom {k} {s : State} (h : s.canonical) : (s.issueFrom k).elim (fun x => x.2.canonical) State.canonical := by
  unfold State.issueFrom
  extract_lets s1 s2
  have hf : (s2.fetch k).2.canonical := h.update.modCore.modSlot.fetch
  split
  next e => exact (canonical_snd_of e hf).update
  next e => exact (canonical_snd_of e hf).update
  next e =>
    have hu := canonical_snd_of e hf
    split
    · split
      · exact hu.trap
      · exact hu
    · exact hu

theorem State.canonical.watchTriggers {s : State} (h : s.canonical) : s.watchTriggers.canonical := h.update.ite h

theorem State.canonical.wakeFull {hm} {s : State} (h : s.canonical) : (s.wakeFull hm).canonical := by
  unfold State.wakeFull
  split
  · exact h
  · dsimp only
    split
    · exact h.foldl (fun s1 a h1 => h1.deliverSync)
    · exact (h.foldl (fun s1 a h1 => h1.deliverSync)).deliverSync

theorem State.canonical.endFills {s : State} (h : s.canonical) : s.endFills.canonical := h.update.foldl (fun _ _ h1 => h1.wakeFull)

theorem State.canonical.tickSlices {n} {s : State} (h : s.canonical) : (s.tickSlices n).canonical := h.foldl (fun _ _ h1 => h1.modSlice.ite h1)

theorem State.canonical.pass {n} {s : State} (h : s.canonical) : (s.pass n).canonical := h.update

theorem State.canonical.advanceTime {n} {s : State} (h : s.canonical) : (s.advanceTime n).canonical :=
    h.endFlags.endFills.watchTriggers.pass.tickSlices.update

theorem State.canonical.etherNack {x} {s : State} (h : s.canonical) : (s.etherNack x).canonical := h.answerTo

theorem State.canonical.ackBefore {a} {s : State} (h : s.canonical) : (s.ackBefore a).canonical := by
  unfold State.ackBefore
  split
  · exact h
  · exact h.ite (h.foldl (fun s1 a1 h1 => h1.windowBack))

theorem State.canonical.etherTake {flow x} {s : State} (h : s.canonical) : (s.etherTake flow x).canonical := by
  unfold State.etherTake
  split
  · exact h.modFabric.post
  · exact h.ackBefore.windowBack.ite h
  · exact h.update.post
  · split
    · exact h
    · exact h.modChip

theorem State.canonical.etherIn {flow num tagOk x} {s : State} (h : s.canonical) : (s.etherIn flow num tagOk x).canonical :=
    h.ite (h.modChip.record.etherNack.ite (h.ite h.modChip.etherTake))

theorem State.canonical.checkerFails {c} {s : State} (h : s.canonical) : (s.checkerFails c).canonical := by
  unfold State.checkerFails
  split
  · exact h
  · exact h.fatal.ite ((h.modCore.trapAt.foldl (fun s1 a h1 => h1.breakActivation)).modCore.record)

theorem State.canonical.sramError {line} {s : State} (h : s.canonical) : (s.sramError line).canonical := by
  unfold State.sramError
  dsimp only
  split
  · exact h
  · split
    · exact h.setPoison.record
    · split
      · split
        · exact h
        · exact h.update.setPoison.record
      · exact h.update.setPoison.record.ite h

theorem State.canonical.lpError {line sym} {s : State} (h : s.canonical) : (s.lpError line sym).canonical := h.ite h.update

theorem State.canonical.input {t} {s : State} (h : s.canonical) : (s.input t).canonical := by
  unfold State.input
  split
  · exact h
  · exact h
  · exact h
  · exact h.etherIn
  · exact h.modPort.post
  · exact h.checkerFails
  · exact h.sramError
  · exact h.lpError
  · exact h.dropL1.ite h
  · exact h.modCluster
  · exact h.modChip

theorem State.canonical.inTime {t} {s : State} (h : s.canonical) : (s.inTime t).canonical := h.advanceTime.ite h

/-- Every instruction and every step of an agent answers a next state and keeps the memory canonical. -/
theorem exec_keeps (i : Instr) (s : State) : s.Keeps (exec i s) := by
  cases i with
  | add => exact .next fun h => h.alu
  | sub => exact .next fun h => h.alu
  | and => exact .next fun h => h.alu
  | or => exact .next fun h => h.alu
  | xor => exact .next fun h => h.alu
  | sll => exact .next fun h => h.alu
  | srl => exact .next fun h => h.alu
  | sra => exact .next fun h => h.alu
  | slt => exact .next fun h => h.alu
  | sltn => exact .next fun h => h.alu
  | min => exact .next fun h => h.alu
  | max => exact .next fun h => h.alu
  | minn => exact .next fun h => h.alu
  | maxn => exact .next fun h => h.alu
  | mul => exact .next fun h => h.aluLate
  | mulh => exact .next fun h => h.aluLate
  | mulhn => exact .next fun h => h.aluLate
  | div => exact .next fun h => h.divide
  | divn => exact .next fun h => h.divide
  | rem => exact .next fun h => h.divide
  | remn => exact .next fun h => h.divide
  | lea => exact .next fun h => h.alu
  | sel => exact .next fun h => h.alu
  | addi => exact .next fun h => h.alu
  | andi => exact .next fun h => h.alu
  | ori => exact .next fun h => h.alu
  | xori => exact .next fun h => h.alu
  | slti => exact .next fun h => h.alu
  | sltni => exact .next fun h => h.alu
  | slli => exact .next fun h => h.alu
  | srli => exact .next fun h => h.alu
  | srai => exact .next fun h => h.alu
  | lui => exact .next fun h => h.setX.retire
  | adpc => exact .next fun h => h.setX.retire
  | clz => exact .next fun h => h.alu
  | ctz => exact .next fun h => h.alu
  | popc => exact .next fun h => h.alu
  | sxb => exact .next fun h => h.alu
  | sxh => exact .next fun h => h.alu
  | sxw => exact .next fun h => h.alu
  | zxb => exact .next fun h => h.alu
  | zxh => exact .next fun h => h.alu
  | zxw => exact .next fun h => h.alu
  | bexs => exact .next fun h => h.alu
  | bexn => exact .next fun h => h.alu
  | bins => exact .next fun h => h.alu
  | psetEq => exact .next fun h => h.aluP
  | psetNe => exact .next fun h => h.aluP
  | psetLt => exact .next fun h => h.aluP
  | psetGe => exact .next fun h => h.aluP
  | psetLtn => exact .next fun h => h.aluP
  | psetGen => exact .next fun h => h.aluP
  | pand => exact .next fun h => h.aluP
  | por => exact .next fun h => h.aluP
  | pnot => exact .next fun h => h.aluP
  | pmovToPredicate => exact .next fun h => h.aluP
  | pmovFromPredicate => exact .next fun h => h.alu
  | beq => exact .next fun h => h.branch
  | bne => exact .next fun h => h.branch
  | blt => exact .next fun h => h.branch
  | bge => exact .next fun h => h.branch
  | bltn => exact .next fun h => h.branch
  | bgen => exact .next fun h => h.branch
  | bpt => exact .next fun h => h.branch
  | bpf => exact .next fun h => h.branch
  | jal => exact .next fun h => h.setX.jump
  | jalr => exact .next fun h => h.trap.ite (h.trap.ite h.setX.jump)
  | loop => exact .next fun h => h.illegal.ite (h.modMe.modMe.ite h.modMe.modMe)
  | done => exact .next fun h => h.doneOrWait
  | sys => exact .next fun h => h.trapAfter
  | tret => exact .next fun h => h.trap.ite h.trapReturn
  | brk => exact .next fun h => h.trapAfter
  | ctlrd => exact execCtlrd_keeps
  | ctlwr => exact .next fun h => h.ctlModify
  | ctlset => exact .next fun h => h.ctlModify
  | ctlclr => exact .next fun h => h.ctlModify
  | ld => exact .next fun h => h.load
  | ldn => exact .next fun h => h.load
  | fld => exact .next fun h => h.load
  | st => exact .next fun h => h.storeX
  | fst => exact execFst_keeps
  | ldsync => exact .next fun h => h.syncLoad
  | ldtake => exact .next fun h => h.syncLoad
  | stfill => exact .next fun h => h.waitFor.ite (State.canonical.accessHome (fun a s1 h1 => State.canonical.releasing (fun s2 h2 =>
      h2.homeWrite.dropOwn.fillWord.retire) h1) h)
  | feclr => exact execFeclr_keeps
  | stnib => exact .next fun h => h.waitFor.ite (State.canonical.accessHome (fun a s1 h1 => h1.store.retire) h)
  | amoAdd => exact .next fun h => h.amo
  | amoAnd => exact .next fun h => h.amo
  | amoOr => exact .next fun h => h.amo
  | amoXor => exact .next fun h => h.amo
  | amoMin => exact .next fun h => h.amo
  | amoMax => exact .next fun h => h.amo
  | amoMinn => exact .next fun h => h.amo
  | amoMaxn => exact .next fun h => h.amo
  | amoSwap => exact .next fun h => h.amo
  | amoCas => exact .next fun h => h.amo
  | amoFadd => exact .next fun h => h.amo
  | amoFmax => exact .next fun h => h.amo
  | fence => exact .next fun h => h.retire.ite h.modMe.retire
  | acq => exact .next fun h => State.canonical.afterLoads (fun s1 h1 => h1.acquire.retire) h
  | rel => exact .next fun h => State.canonical.releasing (fun s1 h1 => h1.retire) h
  | l1inv => exact .next fun h => State.canonical.afterLoads (fun s1 h1 => h1.flushL1.retire) h
  | l2wb => exact execL2wb_keeps
  | l2zero => exact .next fun h => h.waitFor.ite (State.canonical.accessHome (fun a s1 h1 => h1.store.retire) h)
  | pfetch => exact execPfetch_keeps
  | wfa => exact .next fun h => State.canonical.arrival (fun a t s1 h1 => h1.awaitPhase) h
  | wfp => exact .next fun h => State.canonical.access (fun a s1 h1 => h1.settleStores.touch.trap.ite (State.canonical.afterLoads (fun s2 h2 =>
      h2.acquire.setX.retire.ite h2.awaitPhase) h1.settleStores.touch)) (fun s1 h1 => State.canonical.afterLoads (fun s2 h2 =>
          h2.acquire.setX.retire) h1) (fun a s1 h1 => h1.trap) h
  | arr => exact .next fun h => State.canonical.arrival (fun a t s1 h1 => h1.giveX) h
  | arrx => exact .next fun h => h.trap.ite (State.canonical.arrival (fun a t s1 h1 => h1.giveX) h)
  | gjoin => exact .next fun h => h.changeGroup
  | gleave => exact .next fun h => h.changeGroup
  | gcontrib => exact execGcontrib_keeps
  | gread => exact execGread_keeps
  | inv rd ra rb sc => exact execInv_keeps rd ra rb sc s
  | invp => exact execInvp_keeps
  | reply => exact .next fun h => State.canonical.resolveMine (fun a s1 h1 => h1.replyHandle) h
  | replyDatum => exact .next fun h => State.canonical.resolveMine (fun a s1 h1 => all_some h1.replyDatumAt) h
  | replyLocalPromise => exact .next fun h => State.canonical.resolveLocal (fun a s1 h1 => h1.replyHandle) h
  | replyDatumLocalPromise => exact .next fun h => State.canonical.resolveLocal (fun a s1 h1 => all_some h1.replyDatumAt) h
  | rbreak => exact .next fun h => State.canonical.resolveMine (fun a s1 h1 => all_some h1.resolveEntry) h
  | rbreakLocalPromise => exact .next fun h => State.canonical.resolveLocal (fun a s1 h1 => all_some h1.resolveEntry) h
  | spawn => exact .next fun h => h.trap.ite (h.trap.ite (h.trap.ite ((State.canonical.sendReleasing (fun s1 h1 => h1.numberAndSend.retire.ite
      h1.tableNotice.waitFor) h.onCredit).ite (h.askBlock.runInline.ite (h.modMe.lostRecord.retire.ite h.needCredit)))))
  | hnew rd sc => exact execHnew_keeps rd sc s
  | hdrop => exact .next fun h => (h.ite (h.sendPacket.ite (h.ite (h.setEntry.ite h.dropPromise)))).retire
  | hstat => exact .next fun h => h.giveX
  | when => exact execWhen_keeps
  | tmset => exact execTmset_keeps
  | tmclr => exact .next fun h => h.modCore.retire
  | xsrcLocal => exact .next fun h => h.shadow
  | xsrcImageBase => exact .next fun h => h.shadow
  | xsrcRemote => exact .next fun h => h.shadow
  | xdstLocal => exact .next fun h => h.shadow
  | xdstImageBase => exact .next fun h => h.shadow
  | xdstRing => exact .next fun h => h.shadow
  | xdstRemote => exact .next fun h => h.shadow
  | xset => exact .next fun h => h.shadow
  | xsetPost => exact .next fun h => h.shadow
  | xsetAct => exact .next fun h => h.shadow
  | xsetChain => exact .next fun h => h.shadow
  | xgo => exact .next fun h => State.canonical.copyIssue (fun a s1 h1 => h1.issueCmd) h
  | xloop => exact execXloop_keeps
  | xrel => exact execXrel_keeps
  | xarm => exact .next fun h => h.waitFor.ite (State.canonical.access (fun a s1 h1 => h1.trap.ite (State.canonical.copyIssue (fun a1 s2 h2 =>
      h2.issueCmd) h1)) (fun s1 h1 => State.canonical.copyIssue (fun a s2 h2 => h2.issueCmd) h1) (fun a s1 h1 => h1.trap) h)
  | xstat => exact .next fun h => h.resultX.retire
  | xcancel => exact execXcancel_keeps
  | fadd => exact .next fun h => h.lanewise
  | fsub => exact .next fun h => h.lanewise
  | fmul => exact .next fun h => h.lanewise
  | fmin => exact .next fun h => h.lanewise
  | fmax => exact .next fun h => h.lanewise
  | fabs => exact .next fun h => h.lanewise
  | fneg => exact .next fun h => h.lanewise
  | fsel => exact .next fun h => State.canonical.vector (fun a t s1 h1 => h1.vecResult) h
  | fmv => exact .next fun h => h.lanewise
  | fdiv => exact .next fun h => h.lanewiseParked
  | fsqrt => exact .next fun h => h.lanewiseParked
  | fma => exact .next fun h => h.lanewise
  | fnma => exact .next fun h => h.lanewise
  | frcp => exact .next fun h => h.lanewise
  | frsq => exact .next fun h => h.lanewise
  | fexp2 => exact .next fun h => h.lanewise
  | flog2 => exact .next fun h => h.lanewise
  | fsum => exact .next fun h => h.reduce
  | fmaxr => exact .next fun h => h.reduce
  | fcmp => exact .next fun h => State.canonical.vector (fun a t s1 h1 => h1.resultP.raise.advance.retire) h
  | fcvt => exact .next fun h => State.canonical.noStreams (fun s1 h1 => h1.resultF.raise.retire) h
  | sscfg => exact .next fun h => h.trap.ite (h.trap.ite (h.trap.ite (h.trap.ite h.modMe.retire)))
  | ssen => exact .next fun h => h.illegal.ite h.modMe.retire
  | ssdis => exact .next fun h => h.illegal.ite h.modMe.resultX.retire
  | fpack => exact .next fun h => State.canonical.noStreams (fun s1 h1 => h1.resultF.raise.retire) h
  | funpack => exact .next fun h => State.canonical.noStreams (fun s1 h1 => h1.resultF.raise.retire) h
  | fshuf => exact .next fun h => State.canonical.noStreams (fun s1 h1 => h1.resultF.retire) h
  | mring => exact .next fun h => h.mring
  | mringScale => exact .next fun h => h.mring
  | mma => exact .next fun h => h.illegal.ite (h.trap.ite (h.trap.ite (h.trap.ite (h.waitFor.ite (h.waitFor.ite (State.canonical.matAccept (fun s1 h1
      => h1.modRing.modRing.accepted) h))))))
  | mmaq => exact .next fun h => h.illegal.ite (h.trap.ite (h.trap.ite (h.trap.ite (h.trap.ite (h.trap.ite (h.waitFor.ite (h.waitFor.ite
      (h.waitFor.ite (State.canonical.matAccept (fun s1 h1 => h1.modRing.modRing.modRing.accepted) h)))))))))
  | mzero => exact .next fun h => h.illegal.ite (State.canonical.matAccept (fun s1 h1 => h1.retire) h)
  | mswap => exact .next fun h => h.illegal.ite (State.canonical.matAccept (fun s1 h1 => h1.parkMe) h)
  | mepi => exact .next fun h => h.illegal.ite (h.trap.ite (State.canonical.matAccept (fun s1 h1 => h1.retire) h))
  | mtopk => exact .next fun h => h.illegal.ite (h.parkMe.ite (h.trap.ite h.giveX))
  | mseed => exact .next fun h => h.illegal.ite (State.canonical.matAccept (fun s1 h1 => h1.retire) h)
  | mstat => exact .next fun h => h.illegal.ite h.resultX.retire
  | merLoadTile => exact .next fun h => h.illegal.ite (h.trap.ite (h.trap.ite h.merShadow))
  | merLoadCand => exact .next fun h => h.illegal.ite (h.trap.ite (h.trap.ite h.merShadow))
  | merCap => exact .next fun h => h.illegal.ite (h.trap.ite h.merShadow)
  | merCapAll => exact .next fun h => h.illegal.ite (h.trap.ite h.merShadow)
  | merCfg => exact .next fun h => h.illegal.ite (h.trap.ite (h.trap.ite h.merShadow))
  | merGo => exact .next fun h => h.illegal.ite (h.trap.ite (h.waitFor.ite h.endAuctions.modMe.modSector.parkMe.post))
  | merStat => exact execMerStat_keeps
  | merOut => exact execMerOut_keeps
  | merBias => exact .next fun h => h.illegal.ite h.merBias
  | merBiasAdd => exact .next fun h => h.illegal.ite h.merBias
  | merBiasCopy => exact execMerBiasCopy_keeps
  | merSnap => exact execMerSnap_keeps
  | merSnapBias => exact .next fun h => h.illegal.ite (h.trap.ite (h.trap.ite h.merSnap))
  | lqPush => exact execLqPush_keeps
  | lqStat => exact .next fun h => h.trap.ite h.resultX.retire
  | evSig => exact .next fun h => h.evSignal
  | evSigSet => exact .next fun h => h.evSignal
  | cqPop => exact execCqPop_keeps
  | cqPopAct => exact .next fun h => h.trap.ite (h.trap.ite (h.trap.ite (h.trap.ite (h.waitFor.ite h.modComp.post.retire))))
  | rfence => exact .next fun h => h.waitFor.ite h.clearFails.giveX
  | rflush => exact execRflush_keeps
  | svResume => exact .next fun h => State.canonical.supervise (fun s1 h1 => h1.resumeSlot) h
  | svResumeX10 => exact .next fun h => State.canonical.supervise (fun s1 h1 => h1.resumeSlot) h
  | svBreak => exact execSvBreak_keeps
  | svFreeze => exact execSvFreeze_keeps
  | svThaw => exact execSvThaw_keeps
  | svSave => exact execSvSave_keeps
  | svLoad => exact execSvLoad_keeps
  | tlbinv => exact .next fun h => h.trap.ite (h.giveX.ite h.update.startShoot.update.parkMe.post)
  | cMv => exact .next fun h => h.aluC
  | cAdd => exact .next fun h => h.aluC
  | cSub => exact .next fun h => h.aluC
  | cAddi => exact .next fun h => h.aluC
  | cLi => exact .next fun h => h.aluC
  | cAnd => exact .next fun h => h.aluC
  | cOr => exact .next fun h => h.aluC
  | cSlli => exact .next fun h => h.aluC
  | cSrli => exact .next fun h => h.aluC
  | cLd => exact .next fun h => h.load
  | cSd => exact .next fun h => h.storeX
  | cBeqz => exact .next fun h => h.branch
  | cBnez => exact .next fun h => h.branch
  | cJ => exact .next fun h => h.jump
  | cDone => exact .next fun h => h.doneOrWait
  | divideResult => exact execDivideResult_keeps
  | loadDataReturn => exact execLoadDataReturn_keeps
  | storePerformedAtHome => exact execStorePerformedAtHome_keeps
  | invocationArrival => exact .next fun h => h.takeArrival
  | forwardedInvocationArrival => exact .next fun h => h.takeArrival
  | tableEntryWaitRelease => exact execTableEntryWaitRelease_keeps
  | inboxCellAssignment => exact execInboxCellAssignment_keeps
  | activationAdmission => exact execActivationAdmission_keeps
  | resolutionNotice => exact .next fun h => h.takeArrival
  | locationNotice => exact execLocationNotice_keeps
  | watchRequest => exact .next fun h => h.takeArrival
  | whenNotice => exact execWhenNotice_keeps
  | releaseNotice => exact .next fun h => h.takeArrival
  | reservationRequest => exact execReservationRequest_keeps
  | reservationGrant => exact execReservationGrant_keeps
  | creditReturn => exact execCreditReturn_keeps
  | reservationBlockReturn => exact .next fun h => h.ite (h.defer.ite (h.foldl (fun s1 a h1 => h1.returnBlock)))
  | runLimitExpiry => exact .next fun h => h.ite h.modSlot.tellHandler
  | slotWake => exact execSlotWake_keeps
  | copyCommandStart => exact execCopyCommandStart_keeps
  | copyItem => exact execCopyItem_keeps
  | copyCompletion => exact execCopyCompletion_keeps
  | loopIterationStart => exact execLoopIterationStart_keeps
  | triggeredCopyFire => exact execTriggeredCopyFire_keeps
  | fdivFsqrtResult => exact execFdivFsqrtResult_keeps
  | matrixGrant => exact execMatrixGrant_keeps
  | matrixStepRetire => exact execMatrixStepRetire_keeps
  | matrixQueueCommandPerform => exact execMatrixQueueCommandPerform_keeps
  | epilogueComplete => exact .next fun h => h.ite (h.defer.ite h.endEpilogue.post)
  | governorWindowEnd => exact .next fun h => h.foldl (fun s1 a h1 => h1.ite h1.modCluster)
  | auctionTake => exact execAuctionTake_keeps
  | auctionRound => exact execAuctionRound_keeps
  | launchRecordTake => exact execLaunchRecordTake_keeps
  | launchExpansionSend => exact execLaunchExpansionSend_keeps
  | activationEndNotice => exact execActivationEndNotice_keeps
  | completionRecordWrite => exact .next fun h => h.defer.getD h.completeExp
  | cqArmFire => exact execCqArmFire_keeps
  | sliceExpiry => exact .next fun h => h.ite (h.modSlice.ite (h.modSlice.record.ite ((((h.modSlice.foldl (fun s1 a h1 =>
      h1.landSlot)).endFlags.foldl (fun s1 a h1 => h1.drainMatrix)).completeAll.number.getD (((h.modSlice.foldl (fun s1 a h1 =>
          h1.landSlot)).endFlags.foldl (fun s1 a h1 => h1.drainMatrix)).completeAll.number.writeArea)).vacate.modPart.update.modLaunch.record)))
  | windowPortTake => exact execWindowPortTake_keeps
  | windowArrival => exact execWindowArrival_keeps
  | windowAnswer => exact execWindowAnswer_keeps
  | placementTimeout => exact execPlacementTimeout_keeps
  | getReply => exact execGetReply_keeps
  | receiveEntryStateWrite => exact .next fun h => h.modRx.ite ((h.modRx.foldl (fun s1 a h1 => h1.sendPacket)).post.tryClosed.ite h)
  | closeNotice => exact execCloseNotice_keeps
  | closeAnswer => exact execCloseAnswer_keeps
  | closeTimeout => exact .next fun h => h.ite (h.defer.ite h.modRx)
  | farResendTimer => exact execFarResendTimer_keeps
  | tombstoneExpiry => exact execTombstoneExpiry_keeps
  | queuePairResend => exact execQueuePairResend_keeps
  | rateIncrease => exact .next fun h => h.defer.ite h.modFabric.post
  | flitReceive => exact execFlitReceive_keeps
  | linkRetrain => exact .next fun h => h.ite (h.modPort.ite (h.modPort.linkDown.ite h.modPort.update.post))
  | linkRekeyMarker => exact .next fun h => h.ite h.modChip.modPort
  | groupContribution => exact execGroupContribution_keeps
  | groupResult => exact execGroupResult_keeps
  | groupSlotTimeout => exact execGroupSlotTimeout_keeps
  | translationWalk => exact .next fun h => h.translate.ite h
  | pageMonitorWake => exact execPageMonitorWake_keeps
  | monitorPoll => exact execMonitorPoll_keeps
  | shootdownComplete => exact execShootdownComplete_keeps
  | bankRegisterWrite => exact .next fun h => (h.modBank.ite h).ite ((h.modBank.ite h).modBank.ite ((h.modBank.ite h).ite ((h.modBank.ite
      h).modBank.post.ite ((h.modBank.ite h).modBank))))
  | bankRoleDrainComplete => exact .next fun h => h.ite (h.defer.ite ((h.flushL1.clearSram.ite h).modBank))
  | translationRootWrite => exact .next fun h => h.modCluster
  | sequenceAreaBaseWrite => exact .next fun h => h.update.modCore
  | l2LineEviction => exact .next fun h => h.evictL2
  | patrolScrub => exact .next fun h => (h.modChip.ite h).decodeLine.update.ite ((h.modChip.ite h).decodeLine)
  | containmentResetGo => exact .next fun h => h.modChip.beginReset.ite h.modChip
  | containmentResetComplete => exact .next fun h => h.ite ((h.fence.stopSlots.foldl (fun s1 a h1 => h1.clearCluster)).modPart.modChip.record)
  | mailboxLoadkey => exact execMailboxLoadkey_keeps
  | mailboxErasekey => exact execMailboxErasekey_keeps
  | mailboxLinkkey => exact execMailboxLinkkey_keeps
  | mailboxFlowkey => exact execMailboxFlowkey_keeps
  | mailboxJobstart => exact execMailboxJobstart_keeps
  | mailboxJobend => exact execMailboxJobend_keeps
  | mailboxExtend => exact execMailboxExtend_keeps
  | mailboxInvalidOp => exact .next fun h => State.canonical.mailbox (fun a t s1 h1 => h1) h
  | mailboxRequestComplete => exact execMailboxRequestComplete_keeps
  | watchdogExpiry => exact .next fun h => h.fatal.ite h
  | thermalThreshold => exact .next fun h => h.fatal.ite (h.ite ((h.foldl (fun s1 a h1 => h1.modCluster)).modChip.record))
  | chipReset => exact .next fun h => h.kept.bootFails.ite (h.kept.measure.reports.bootFails.ite
      (h.kept.measure.reports.openTier.reports.bootFails.ite (h.kept.measure.reports.openTier.reports.measure.modSlot.update.bootFails.ite
          h.kept.measure.reports.openTier.reports.measure.modSlot.update.measure.modChip)))
  | timeCorrection => exact .next fun h => h.modChip
  | clusterPowerRequest => exact .next fun h => h.ite (h.modCluster.ite h.modCluster.post)
  | clusterPowerChangeComplete => exact .next fun h => h.ite (h.defer.ite ((h.powerDown.ite (h.flushL1.clearSram.ite h)).modCluster.foldl (fun s1 a
      h1 => h1.stir)))
  | launchQueueConfigWrite => exact .next fun h => h.modQueue.post
  | sliceRegisterWrite => exact .next fun h => h.modSlice
  | configRegisterWrite => exact execConfigRegisterWrite_keeps
  | illegalInstruction => exact .next fun h => h.trap
  | instructionFetchFault => exact .next fun h => h.trapEntry
  | astrolabeMemoryError => exact .next fun h => h.fatal

/-- `Keeps` from a later state on. -/
theorem State.Keeps.since {s t : State} {o} (h : t.Keeps o) (ht : s.canonical → t.canonical) : s.Keeps o := by
  obtain ⟨u, rfl, hu⟩ := h
  exact .next fun hs => hu (ht hs)

theorem State.Keeps.andThen {s : State} {f : State → State} {o} (h : s.Keeps o) (hf : ∀ t, t.canonical → (f t).canonical) :
    s.Keeps (andThen f o) := by
  obtain ⟨t, rfl, ht⟩ := h
  exact .next fun hs => hf t (ht hs)

theorem State.Keeps.settled {s was : State} {o} (h : s.Keeps o) : s.Keeps (settled was o) := by
  obtain ⟨t, rfl, ht⟩ := h
  exact .next fun hs => (ht hs).settle

theorem State.issue_keeps {c} {s : State} : s.Keeps (s.issue c) := by
  unfold State.issue
  split
  · exact .next id
  next k _ =>
    have hi : s.canonical → (s.issueFrom k).elim (fun x => x.2.canonical) State.canonical := State.canonical.issueFrom
    split
    next e =>
      rw [e] at hi
      exact (exec_keeps _ _).since fun h => State.canonical.update (hi h)
    next e =>
      rw [e] at hi
      exact .next fun h => State.canonical.update (hi h)

theorem State.take_keeps {e} {s : State} : s.Keeps (s.take e) := by
  unfold State.take
  split
  · exact .next id
  · exact (exec_keeps _ _).since fun h => h.update

theorem State.tryEvent_keeps {e} {s : State} : s.Keeps (s.tryEvent e) := by
  unfold State.tryEvent
  split
  · exact .next fun h => h.update
  · exact s.take_keeps.andThen fun _ h => h.update.ite h

theorem State.turn_keeps {t} {s : State} : s.Keeps (s.turn t) := by
  unfold State.turn
  split
  · exact s.issue_keeps
  · exact .next fun h => h.advanceTime
  · exact s.take_keeps.andThen fun _ h => h.update
  · exact .next fun h => h.input

theorem State.idle_keeps {s : State} : s.Keeps s.idle := by
  have hev {e l} : s.Keeps (State.tryEvent e { s with todo := l }) := State.tryEvent_keeps.since fun h => h.update
  unfold State.idle
  extract_lets mine
  split
  · exact .next fun h => h.advanceTime
  · exact s.issue_keeps
  · exact hev
  · split
    · exact hev
    · exact s.issue_keeps

/-- A chip that has not halted takes its step. -/
theorem step_keeps_of_running {s : State} (hs : s.halted = none) : s.Keeps (step s) := by
  cases ha : s.agenda with
  | nil =>
    have e : step s = settled s s.idle := by
      unfold step
      rw [hs, ha]
    rw [e]
    exact s.idle_keeps.settled
  | cons t l =>
    have e : step s = settled s (State.turn t (State.inTime t { s with agenda := l })) := by
      unfold step
      rw [hs, ha]
    rw [e]
    exact (State.turn_keeps.since fun h => State.canonical.inTime h.update).settled

theorem step_keeps_of_chipReset {s : State} {a l} (hs : s.halted.isSome = true) (ha : s.agenda = .event ⟨.chipReset, a⟩ :: l) : s.Keeps (step s) := by
  obtain ⟨f, hf⟩ := Option.isSome_iff_exists.1 hs
  have e : step s = settled s (State.take ⟨.chipReset, a⟩ { s with agenda := l }) := by
    unfold step
    rw [hf, ha]
  rw [e]
  exact (State.take_keeps.since fun h => h.update).settled

theorem step_of_halted {s : State} (hs : s.halted.isSome = true) (ha : ∀ a l, s.agenda ≠ .event ⟨.chipReset, a⟩ :: l) :
    step s = .fault .chipHalted := by
  obtain ⟨f, hf⟩ := Option.isSome_iff_exists.1 hs
  unfold step
  split
  next e => exact absurd e (ha _ _)
  · rfl
  next e _ => exact absurd (hf.symm.trans e) nofun
  next e _ => exact absurd (hf.symm.trans e) nofun

/-- Settles O59: every instruction and every agent's step answers a next state (`exec_keeps`), so only a halted chip can fault. -/
theorem onlyAFatalErrorStopsTheChip : Obligations.OnlyAFatalErrorStopsTheChip := by
  unfold Obligations.OnlyAFatalErrorStopsTheChip
  refine ⟨fun i s => ?_, fun s => ⟨fun hs => ?_, fun hs => ⟨fun a l ha => ?_, step_of_halted hs⟩⟩⟩
  · obtain ⟨t, e, _⟩ := exec_keeps i s
    exact ⟨t, e⟩
  · obtain ⟨t, e, _⟩ := step_keeps_of_running hs
    exact ⟨t, e⟩
  · obtain ⟨t, e, _⟩ := step_keeps_of_chipReset hs ha
    exact ⟨t, e⟩

theorem State.Keeps.canonical {s t : State} {o} (h : s.Keeps o) (e : o = .next t) (hs : s.canonical) : t.canonical := by
  obtain ⟨u, rfl, hu⟩ := h
  cases e
  exact hu hs

/-- Settles O60, from what every turn of the step function keeps. -/
theorem everyStepKeepsMemoryCanonical : Obligations.EveryStepKeepsMemoryCanonical := by
  unfold Obligations.EveryStepKeepsMemoryCanonical
  intro s t hs e
  by_cases hh : s.halted.isSome = true
  · by_cases ha : ∃ a l, s.agenda = .event ⟨.chipReset, a⟩ :: l
    · obtain ⟨a, l, ha⟩ := ha
      exact (step_keeps_of_chipReset hh ha).canonical e hs
    · rw [step_of_halted hh fun a l h => ha ⟨a, l, h⟩] at e
      cases e
  · exact (step_keeps_of_running (by simpa using hh)).canonical e hs

end Sys2Proof.Machine

namespace Sys2Proof.Machine

/-! # Traps of decode and fetch (O8) -/

/-- Settles O8: both steps take a trap of the slot in hand. -/
theorem decodeAndFetchTrapsArePrecise : Obligations.DecodeAndFetchTrapsArePrecise := by
  unfold Obligations.DecodeAndFetchTrapsArePrecise
  exact fun s => ⟨⟨_, rfl, State.trap_trapsWith _ _ s (by decide)⟩,
    fun hc => ⟨_, rfl, State.trapAt_trapped _ _ _ _ _ s fun h => absurd h hc⟩⟩

/-! # Fetch, issue and the turn of a step (O55) -/

theorem State.fetchHalf_ok {c pc} {s v : State} {h : Home} (e : s.check c (pc.setWidth 64) 2 .fetch = (.ok h, v)) (hp : v.homePoison h = false) :
    s.fetchHalf c pc = .ok (v.homeBytes h 2, v) := by
  unfold State.fetchHalf
  dsimp only
  rw [e]
  exact if_neg (by rw [hp]; decide)

theorem State.fetchHalf_poison {c pc} {s v : State} {h : Home} (e : s.check c (pc.setWidth 64) 2 .fetch = (.ok h, v)) (hp : v.homePoison h = true) :
    s.fetchHalf c pc = .error (cPOISON, pc.setWidth 64, none) := by
  unfold State.fetchHalf
  dsimp only
  rw [e]
  exact if_pos hp

theorem State.fetchHalf_bad {c pc cause x} {s v : State} (e : s.check c (pc.setWidth 64) 2 .fetch = (.bad cause x, v)) :
    s.fetchHalf c pc = .error (cause, pc.setWidth 64, x) := by
  unfold State.fetchHalf
  dsimp only
  rw [e]

/-- What the bytes of an instruction decode to, as a fetch answers it. -/
def fetchedOf : Decoded → Fetched
  | .instr i _ => .instr i
  | .illegal w _ => .illegal w.toNat
  | .short => .illegal 0

theorem State.fetch_of_fetches {k l} {s u : State} (h : s.fetches (coreOf k) (s.slot k).pc u l) : s.fetch k = (fetchedOf (decode l), u) := by
  obtain ⟨a, v, e, hp, h⟩ := h
  unfold State.fetch
  dsimp only
  rw [State.fetchHalf_ok e hp]
  dsimp only
  split at h
  next hb =>
    obtain ⟨rfl, rfl⟩ := h
    exact if_pos hb
  next hb =>
    obtain ⟨g, e', hp', rfl⟩ := h
    rw [if_neg hb, State.fetchHalf_ok e' hp']
    rfl

theorem State.fetch_of_first_error {k c a x} {s : State} (h : s.fetchHalf (coreOf k) (s.slot k).pc = .error (c, a, x)) :
    s.fetch k = (.fault c a x, s) := by
  unfold State.fetch
  dsimp only
  rw [h]

theorem State.fetch_of_second_error {k c a x l} {s v : State} (h : s.fetchHalf (coreOf k) (s.slot k).pc = .ok (l, v)) (hb : (l.headD 0).toNat % 2 = 1)
    (h' : v.fetchHalf (coreOf k) ((s.slot k).pc + 2) = .error (c, a, x)) : s.fetch k = (.fault c a x, v) := by
  unfold State.fetch
  dsimp only
  rw [h]
  dsimp only
  rw [if_neg (by omega), h']

/-- The step of a failed fetch, in the state `u` the fetch leaves. -/
def State.fetchFault (k : Nat) (u : State) (cause : Nat) (e : Option Nat) (a : Word) : Host.Outcome State Fault Refusal :=
  exec .instructionFetchFault { u with arg := { Arg.zero with a := cause, b := (match e with | none => 0 | some x => x + 1), v := a }, rank := issueRank k .instructionFetchFault }

/-- An issue fetches with the slot in hand. -/
theorem State.issueFrom_eq (k) (s : State) : s.issueFrom k = match (s.inHand k).fetch k with
    | (.fault c a e, s) => .inl (.instructionFetchFault, { s with arg := ⟨c, match e with | none => 0 | some e => e + 1, 0, a, .chip, false⟩ })
    | (.illegal w, s) => .inl (.illegalInstruction, { s with arg := { Arg.zero with v := w64 w } })
    | (.instr i, s) =>
      if (s.core (coreOf k)).scheck ∧ !s.turnedAway i then
        match s.me.early s.cycle i with
        | some pc => .inr (s.trap cSTALLSHORT (pc.setWidth 64))
        | none => .inl (i, s)
      else .inl (i, s) := by
  unfold State.issueFrom
  extract_lets b u
  have e : u = s.inHand k := rfl
  rw [e] <;> rfl

theorem State.issueFrom_instr {k i} {s u : State} (h : (s.inHand k).fetch k = (.instr i, u)) : s.issueFrom k =
    if (u.core (coreOf k)).scheck = true ∧ (!u.turnedAway i) = true then
      match u.me.early u.cycle i with
      | some pc => .inr (u.trap cSTALLSHORT (pc.setWidth 64))
      | none => .inl (i, u)
    else .inl (i, u) := by
  rw [State.issueFrom_eq, h]

theorem State.issueFrom_illegal {k w} {s u : State} (h : (s.inHand k).fetch k = (.illegal w, u)) :
    s.issueFrom k = .inl (.illegalInstruction, { u with arg := { Arg.zero with v := w64 w } }) := by
  rw [State.issueFrom_eq, h]

theorem State.coreOf_of_select {c k} {s : State} (h : s.select c = some k) : coreOf k = c := by
  unfold State.select at h
  dsimp only at h
  split at h
  · cases h
  · obtain ⟨i, -, rfl⟩ := List.mem_map.1 (List.mem_of_find?_eq_some h)
    unfold coreOf
    omega

theorem State.issue_inl {c k i} {s t : State} (h : s.select c = some k) (e : s.issueFrom k = .inl (i, t)) :
    s.issue c = exec i { t with rank := issueRank k i } := by
  unfold State.issue
  rw [h]
  dsimp only
  rw [e]

theorem State.issue_inr {c k} {s t : State} (h : s.select c = some k) (e : s.issueFrom k = .inr t) :
    s.issue c = .next { t with rank := rankAt (if isSup (coreOf k) then 2 else 1) k } := by
  unfold State.issue
  rw [h]
  dsimp only
  rw [e, State.coreOf_of_select h]

theorem State.issue_fault {c k cause a x} {s u : State} (h : s.select c = some k) (e : (s.inHand k).fetch k = (.fault cause a x, u)) :
    s.issue c = u.fetchFault k cause x a := by
  unfold State.issue
  rw [h]
  dsimp only
  rw [State.issueFrom_eq, e]
  rfl

theorem State.issue_illegal {c k w} {s u : State} (h : s.select c = some k) (e : (s.inHand k).fetch k = (.illegal w, u)) :
    s.issue c = exec .illegalInstruction { u with arg := { Arg.zero with v := w64 w }, rank := issueRank k .illegalInstruction } :=
  State.issue_inl h (State.issueFrom_illegal e)

theorem State.issue_none {c} {s : State} (h : s.select c = none) : s.issue c = .next s := by
  unfold State.issue
  rw [h]

/-- An issue comes to what the fetched bytes of the slot say. -/
theorem State.issue_issues {c k} {s : State} (h : s.select c = some k) : s.issues k (s.issue c) := by
  refine ⟨fun u l i n hf hd => ?_, fun u l w n hf hd => ?_, fun a v e hp => ?_, fun a v e hp hb => ⟨fun cause x w e' => ?_, fun g w e' hp' => ?_⟩,
    fun cause x v e => ?_⟩
  · have hi : (s.inHand k).fetch k = (.instr i, u) := (State.fetch_of_fetches hf).trans (by rw [hd]; rfl)
    replace hi := State.issueFrom_instr hi
    refine ⟨fun hc => State.issue_inl h (hi.trans ?_), fun p h1 h2 h3 => State.issue_inr h (hi.trans ?_)⟩
    · split
      next hs =>
        rcases hc with h1 | h2 | h3
        · rw [h1] at hs; exact absurd hs.1 nofun
        · rw [h2] at hs; exact absurd hs.2 nofun
        · rw [h3]
      · rfl
    · rw [if_pos ⟨h1, by rw [h2]; rfl⟩, h3]
  · rw [State.issue_illegal h ((State.fetch_of_fetches hf).trans (by rw [hd]; rfl)), w64, BitVec.ofNat_toNat]
  · exact (State.issue_fault h (State.fetch_of_first_error (State.fetchHalf_poison e hp)) :)
  · exact (State.issue_fault h (State.fetch_of_second_error (State.fetchHalf_ok e hp) hb (State.fetchHalf_bad e')) :)
  · exact (State.issue_fault h (State.fetch_of_second_error (State.fetchHalf_ok e hp) hb (State.fetchHalf_poison e' hp')) :)
  · exact (State.issue_fault h (State.fetch_of_first_error (State.fetchHalf_bad e)) :)

theorem step_cons {s : State} {t l} (hs : s.halted = none) (ha : s.agenda = t :: l) :
    step s = settled s (State.turn t (State.inTime t { s with agenda := l })) := by
  unfold step
  rw [hs, ha]

theorem State.inTime_tick {n} {s : State} : s.inTime (.tick n) = s := by
  unfold State.inTime State.tooLate State.turnRank
  simp

theorem step_nil {s : State} (hs : s.halted = none) (ha : s.agenda = []) : step s = settled s s.idle := by
  unfold step
  rw [hs, ha]

theorem State.take_some {e n} {s : State} (h : s.eventRank e = some n) :
    s.take e = exec e.i { s with arg := e.arg, deferred := false, rank := n } := by
  unfold State.take
  rw [h]

theorem State.tryEvent_tooLate {e} {s : State} (h : s.tooLate (.event e) = true) : s.tryEvent e = .next { s with work := s.work ++ [e] } := if_pos h

theorem State.tryEvent_inTime {e} {s : State} (h : s.tooLate (.event e) = false) : s.tryEvent e =
    andThen (fun t => if t.deferred then { t with work := t.work ++ [e], deferred := false } else t) (s.take e) := if_neg (by rw [h]; decide)

theorem State.andThen_take {e n f} {s t : State} (h : s.eventRank e = some n)
    (ht : exec e.i { s with arg := e.arg, deferred := false, rank := n } = .next t) : andThen f (s.take e) = .next (f t) := by
  rw [State.take_some h, ht]
  rfl

/-- A place of the focus core in this cycle, if it has one left. -/
def State.focusRank (s : State) : Option Nat := if s.tooLate (.issue s.focus) then none else s.coreRank s.focus

theorem State.idle_tick {s : State} (h : s.todo = []) (hm : s.focusRank = none) : s.idle = .next (s.advanceTime 1) := by
  unfold State.focusRank at hm
  unfold State.idle
  rw [h, hm]

theorem State.idle_issue {n} {s : State} (hm : s.focusRank = some n) (h : ∀ e l, s.todo = e :: l → n < (s.eventRank e).getD 0) :
    s.idle = s.issue s.focus := by
  unfold State.focusRank at hm
  unfold State.idle
  rw [hm]
  cases ht : s.todo with
  | nil => rfl
  | cons e l => exact if_neg (by have := h e l ht; omega)

theorem State.idle_event {e l} {s : State} (ht : s.todo = e :: l) (h : ∀ n, s.focusRank = some n → (s.eventRank e).getD 0 ≤ n) :
    s.idle = State.tryEvent e { s with todo := l } := by
  cases hm : s.focusRank with
  | none =>
    unfold State.focusRank at hm
    unfold State.idle
    rw [ht, hm]
  | some n =>
    have hle := h n hm
    unfold State.focusRank at hm
    unfold State.idle
    rw [ht, hm]
    exact if_pos hle

/-- Settles O55, turn by turn of the agenda and then of the cycle's order. -/
theorem stepRunsTheDecodedInstruction : Obligations.StepRunsTheDecodedInstruction := by
  unfold Obligations.StepRunsTheDecodedInstruction
  intro s hs
  refine ⟨fun c l ha => ⟨fun k hk => ?_, fun hk => ?_⟩, fun n l ha => ?_, fun e l n ha he => ⟨_, rfl, fun t ht => ?_⟩, fun ha => ?_⟩
  · exact ⟨_, step_cons hs ha, State.issue_issues hk⟩
  · rw [step_cons hs ha]
    exact congrArg _ (State.issue_none hk)
  · rw [step_cons hs ha, State.inTime_tick]
    rfl
  · rw [step_cons hs ha]
    exact congrArg _ (State.andThen_take he ht)
  · rw [step_nil hs ha]
    refine ⟨fun ht hm => ?_, fun n k hm hk ht => ?_, fun e l ht hm => ⟨fun hl => ?_, fun m hl he => ⟨_, rfl, fun t hx => ?_⟩⟩⟩
    · rw [State.idle_tick ht hm]
    · rw [State.idle_issue hm ht]
      exact ⟨_, rfl, State.issue_issues hk⟩
    · rw [State.idle_event ht hm, State.tryEvent_tooLate hl]
    · rw [State.idle_event ht hm, State.tryEvent_inTime hl, State.andThen_take he hx]

end Sys2Proof.Machine

namespace Sys2Proof.Machine

/-! # Misaligned accesses (O12) -/

@[simp] theorem toBytes_length (n v : Nat) : (toBytes n v).length = n := by
  induction n generalizing v with
  | zero => rfl
  | succ n ih => exact congrArg (· + 1) (ih _)

theorem State.fenced_of_nil {s : State} (h : s.me.fences = []) (mask : BitVec 4) : s.fenced s.cur mask = false := by
  unfold State.fenced
  rw [show (s.slot s.cur).fences = [] from h]
  rfl

theorem State.place_misaligned {s : State} {ea : Word} {n : Nat} (h : ea.toNat % n ≠ 0) (need : Need) :
    s.place ea n need = (.bad cMISALIGN none, s) := if_pos h

theorem State.access_misaligned {s : State} {ea : Word} {n : Nat} (h : ea.toNat % n ≠ 0) (need : Need) (ok disc win) :
    s.access ea n need ok disc win = s.trap cMISALIGN ea := by
  unfold State.access
  rw [State.place_misaligned h]
  rfl

theorem State.load_misaligned {s : State} {ea : Word} {n : Nat} {rd : Reg} {toF : Bool} (hf : s.me.fences = []) (h : ea.toNat % n ≠ 0)
    (hs : toF = true → s.streamAt rd = none) (i : Sys2Proof.Instr) (signed : Bool) (sc : Nat) :
    s.load i ea n rd toF signed sc = s.trap cMISALIGN ea := by
  have hn : (if toF = true then s.streamAt rd else none) = none := by
    split
    next ht => exact hs ht
    · rfl
  unfold State.load
  dsimp only
  rw [hn, if_neg nofun, if_neg (by rw [State.fenced_of_nil hf]; nofun), State.access_misaligned h]

theorem State.storeAccess_misaligned {s : State} {ea : Word} {l : List Byte} (h : ea.toNat % l.length ≠ 0) (fin : State → State) :
    s.storeAccess ea l fin = s.trap cMISALIGN ea := State.access_misaligned h ..

theorem State.storeX_misaligned {s : State} {ea : Word} {n : Nat} (h : ea.toNat % n ≠ 0) (v : Word) (len sc : Nat) :
    s.storeX ea n v len sc = s.trap cMISALIGN ea := State.storeAccess_misaligned (by rwa [toBytes_length]) _

theorem State.syncLoad_misaligned {s : State} {ra : Reg} (hf : s.me.fences = []) (h : (s.x ra).toNat % 8 ≠ 0) (take : Bool) (rd : Reg) (sc : Nat) :
    s.syncLoad take rd ra sc = s.trap cMISALIGN (s.x ra) :=
  (if_neg (by rw [State.fenced_of_nil hf]; nofun)).trans (State.access_misaligned h ..)

theorem State.amo_misaligned {s : State} {ra : Reg} {z : BitVec 1} (hf : s.me.fences = []) (h : (s.x ra).toNat % (if z = 1 then 8 else 4) ≠ 0)
    (op : Nat) (rd rb : Reg) (l q : BitVec 1) (c : BitVec 2) : s.amo op rd ra rb z l q c = s.trap cMISALIGN (s.x ra) :=
  (if_neg (by rw [State.fenced_of_nil hf]; nofun)).trans (State.access_misaligned h ..)

/-- An outcome of a MISALIGN trap. -/
theorem State.gives_misalign {s : State} {i : Sys2Proof.Instr} {ea : Word} {t : State} (e : exec i s = .next t) (h : t = s.trap cMISALIGN ea) :
    s.gives i (s.trapsWith cMISALIGN ea) := ⟨t, e, h ▸ State.trap_trapsWith _ _ s (by decide)⟩

/-- Settles O12: each instruction comes to `access`, whose first check is the alignment. -/
theorem misalignedAccessTraps : Obligations.MisalignedAccessTraps := by
  unfold Obligations.MisalignedAccessTraps
  intro s rd ra rb w imm sc z l q o c hf x ea fa ca n
  have hw (mask) : ¬ s.fenced s.cur mask = true := by rw [State.fenced_of_nil hf]; nofun
  refine ⟨fun h => ⟨?_, ?_, ?_⟩, fun h hs => ⟨?_, ?_⟩, fun h => ⟨?_, ?_, ?_⟩, fun h hn => ?_, fun h => ⟨?_, ?_⟩, fun h i hi => ?_⟩
  · exact State.gives_misalign rfl (State.load_misaligned hf h (fun ht => absurd ht Bool.false_ne_true) ..)
  · exact State.gives_misalign rfl (State.load_misaligned hf h (fun ht => absurd ht Bool.false_ne_true) ..)
  · exact State.gives_misalign rfl (State.storeX_misaligned h ..)
  · exact State.gives_misalign rfl (State.load_misaligned hf h (fun _ => hs) ..)
  · refine State.gives_misalign rfl ?_
    dsimp only
    rw [hs]
    exact State.storeAccess_misaligned (by rwa [toBytes_length]) _
  · exact State.gives_misalign rfl (State.syncLoad_misaligned hf h ..)
  · exact State.gives_misalign rfl (State.syncLoad_misaligned hf h ..)
  · exact State.gives_misalign rfl ((if_neg (hw _)).trans (State.access_misaligned h ..))
  · have hb : ¬ (s.x rb).toNat = 0 := fun e => hn (BitVec.eq_of_toNat_eq e)
    exact State.gives_misalign rfl ((if_neg hb).trans ((if_neg (hw _)).trans (if_pos h)))
  · exact State.gives_misalign rfl (State.load_misaligned hf h (fun ht => absurd ht Bool.false_ne_true) ..)
  · exact State.gives_misalign rfl (State.storeX_misaligned h ..)
  · have hamo (op) : s.amo op rd ra rb z l q c = s.trap cMISALIGN x := State.amo_misaligned hf h op rd rb l q c
    simp only [List.mem_cons, List.not_mem_nil, or_false] at hi
    rcases hi with rfl | rfl | rfl | rfl | rfl | rfl | rfl | rfl | rfl | rfl | rfl | rfl <;> exact State.gives_misalign rfl (hamo _)

end Sys2Proof.Machine

namespace Sys2Proof.Machine

/-! # Local loads (O16) -/

theorem ofBytes_lt (l : List Byte) : ofBytes l < 2 ^ (8 * l.length) := by
  induction l with
  | nil => decide
  | cons b l ih =>
    have hb := b.isLt
    rw [ofBytes, List.length_cons, Nat.mul_add, Nat.pow_add]
    omega

/-- Sign extension by shifts is sign extension of the low bits. -/
theorem sextN_eq_signExtend {w : Nat} (h0 : 0 < w) (h : w ≤ 64) (v : Word) : sextN v w = (v.setWidth w).signExtend 64 := by
  unfold sextN
  ext i hi
  simp only [BitVec.getElem_signExtend, BitVec.getElem_sshiftRight]
  by_cases hw : i < w
  · rw [dif_pos hw, dif_pos (by omega)]
    simp [BitVec.getElem_shiftLeft, BitVec.getLsbD_eq_getElem hi]
  · rw [dif_neg hw, dif_neg (by omega)]
    have e : 64 - 1 - (64 - w) = w - 1 := by omega
    simp only [BitVec.msb_eq_getLsbD_last, BitVec.getLsbD_shiftLeft, BitVec.getLsbD_setWidth, e]
    simp [show w - 1 < w by omega, show ¬ 63 < 64 - w by omega]

theorem loadValue_signed {l : List Byte} (h0 : 0 < l.length) (h : l.length ≤ 8) :
    loadValue true l = (BitVec.ofNat (8 * l.length) (ofBytes l)).signExtend 64 := by
  show sextN _ _ = _
  rw [sextN_eq_signExtend (by omega) (by omega), w64, BitVec.setWidth_ofNat_of_le (by omega)]

theorem loadValue_unsigned {l : List Byte} : loadValue false l = (BitVec.ofNat (8 * l.length) (ofBytes l)).setWidth 64 := by
  refine BitVec.eq_of_toNat_eq ?_
  show (w64 (ofBytes l)).toNat = _
  rw [BitVec.toNat_setWidth, w64, BitVec.toNat_ofNat, BitVec.toNat_ofNat, Nat.mod_eq_of_lt (ofBytes_lt l)]

@[simp] theorem State.bytesAt_length (s : State) (key n : Nat) : (s.bytesAt key n).length = n := by simp [State.bytesAt]

theorem State.homeBytes_sram (s : State) (k off n : Nat) : s.homeBytes (.sram k off) n = s.bytesAt (sramKey k off) n := by
  unfold State.homeBytes State.bytesAt sramKey
  refine List.map_congr_left fun i _ => ?_
  exact congrArg s.byteAt (Nat.add_assoc _ off i).symm

/-- What a core reads where its loads are served locally. -/
theorem State.read_local {s : State} {h : Home} (hl : s.servedLocally s.myCore h = true) (n : Nat) :
    s.read s.myCore h n = ((s.bytesAt (s.localKey h) n, s.poisonAt (s.localKey h)), s) := by
  unfold State.servedLocally at hl
  cases h with
  | sram k off => 
    show ((s.homeBytes (.sram k off) n, _), s) = _
    rw [State.homeBytes_sram]
    rfl
  | dram sl pa p ks =>
    simp only [Bool.and_eq_true, Bool.not_eq_true', decide_eq_true_eq] at hl
    obtain ⟨hc, rfl, h1⟩ := hl
    unfold State.read
    dsimp only
    rw [if_pos (by rw [hc, h1]; rfl)]
    refine congrArg (fun l => ((l, _), s)) (List.map_congr_left fun i _ => ?_)
    exact congrArg s.byteAt (Nat.add_assoc _ pa i).symm

theorem State.settleStores_apart {s : State} {k : Nat} {h : Home} {n : Nat} (hp : ∀ p ∈ (s.slot k).stores, p.overlaps h n = false) :
    s.settleStores k h n = s := by
  have : (s.slot k).stores.any (fun p => p.overlaps h n) = false := by
    rw [List.any_eq_false]
    exact fun p hm => by rw [hp p hm]; nofun
  unfold State.settleStores
  rw [this]
  rfl

/-- A load that is served locally, once the slot's own stores to its bytes have been performed. -/
theorem State.load_local {s : State} {ea : Word} {n : Nat} {rd : Reg} {toF : Bool} {h : Home} (hs : toF = true → s.streamAt rd = none)
    (hf : s.fenced s.cur 1 = false) (hp : s.place ea n .load = (.ok h, s)) (hl : s.servedLocally s.myCore h = true)
    {u : State} (hu : s.settleStores s.cur h n = u) (hl' : u.servedLocally u.myCore h = true)
    (hb : u.poisonAt (u.localKey h) = false) (i : Sys2Proof.Instr) (signed : Bool) (sc : Nat) :
    s.load i ea n rd toF signed sc = u.loaded ⟨ea, h, n, rd.toNat, toF, signed, none, false, none⟩ (u.bytesAt (u.localKey h) n) 4
      (fun s => s.retire i.len (if i.len = 2 then 3 else sc)) := by
  have hn : (if toF = true then s.streamAt rd else none) = none := by
    split
    next ht => exact hs ht
    · rfl
  unfold State.load State.access
  dsimp only
  rw [hn, if_neg nofun, if_neg (by rw [hf]; nofun), hp]
  dsimp only
  rw [if_pos hl, hu, State.read_local hl']
  dsimp only
  rw [if_neg (by rw [hb]; nofun)]
  rfl

theorem State.loaded_x (s : State) (ld : OutLoad) {rd : Reg} (h1 : ld.stream = none) (h2 : ld.toF = false) (h3 : ld.rd = rd.toNat) (l : List Byte)
    (len sc : Nat) : s.sendsX rd (loadValue ld.signed l) 4 len sc (s.loaded ld l 4 fun s => s.retire len sc) := by
  unfold State.loaded
  rw [h1, h2, h3]
  dsimp only
  rw [if_neg nofun, if_neg nofun, BitVec.ofNat_toNat, BitVec.setWidth_eq]
  exact State.resultX_sendsX (by decide) ..

theorem State.loaded_f {s : State} {ld : OutLoad} {rd : Reg} (h1 : ld.stream = none) (h2 : ld.toF = true) (h3 : ld.rd = rd.toNat) (l : List Byte)
    (len sc : Nat) : let t := s.loaded ld l 4 fun s => s.retire len sc
    s.onlySlot s.cur t ∧ s.me.keepsRest t.me ∧ s.stepped len sc t ∧ s.me.fComes rd (BitVec.ofNat 128 (ofBytes l)) (BitVec.allOnes 128) (s.cycle + 4) t.me := by
  intro t
  have ht : t = (s.result .f rd.toNat (BitVec.ofNat 128 (ofBytes l)) (BitVec.allOnes 128) 4).retire len sc := by
    unfold t State.loaded
    rw [h1, h2, h3]
    dsimp only
    rw [if_pos rfl, if_neg nofun, BitVec.ofNat_toNat, BitVec.setWidth_eq]
    rfl
  rw [ht]
  obtain ⟨h1, h2, h3, hx, hf, hp, h⟩ := State.result_retire .f rd.toNat (BitVec.ofNat 128 (ofBytes l)) (BitVec.allOnes 128) 4 len sc s
  exact ⟨h1, h2, h3, Slot.fComes_of hx hf hp h⟩

/-- A load into an x register that is served locally and meets no store of its own. -/
theorem State.gives_localLoad {s : State} {ea : Word} {n sc : Nat} {rd : Reg} {h : Home} {i : Sys2Proof.Instr} {signed : Bool}
    (hl : s.loadsLocally ea n h) (e : exec i s = .next (s.load i ea n rd false signed sc)) :
    s.gives i (s.sendsX rd (loadValue signed (s.bytesAt (s.localKey h) n)) 4 i.len (if i.len = 2 then 3 else sc)) := by
  obtain ⟨hf, hp, hs, ha, hb⟩ := hl
  refine ⟨_, e, ?_⟩
  rw [State.load_local (fun ht => absurd ht Bool.false_ne_true) hf hp hs (State.settleStores_apart ha) hs hb]
  exact State.loaded_x _ _ rfl rfl rfl ..

theorem size_bounds (z : BitVec 2) : 0 < 2 ^ z.toNat ∧ 2 ^ z.toNat ≤ 8 := by
  have := z.isLt
  exact ⟨Nat.two_pow_pos _, Nat.pow_le_pow_right (by decide) (by omega : z.toNat ≤ 3)⟩

theorem loadValue_signed_bytesAt {s : State} {key n : Nat} (h0 : 0 < n) (h : n ≤ 8) :
    loadValue true (s.bytesAt key n) = (BitVec.ofNat (8 * n) (ofBytes (s.bytesAt key n))).signExtend 64 := by
  rw [loadValue_signed (by rwa [State.bytesAt_length]) (by rwa [State.bytesAt_length]), State.bytesAt_length]

theorem loadValue_unsigned_bytesAt {s : State} {key n : Nat} :
    loadValue false (s.bytesAt key n) = (BitVec.ofNat (8 * n) (ofBytes (s.bytesAt key n))).setWidth 64 := by
  rw [loadValue_unsigned, State.bytesAt_length]

/-- Loads that meet no store of their own return what the copy that serves them holds (R69, R178). -/
theorem localLoadsReturnTheirBytes : localLoadsReturnTheirBytesRules := by
  intro s rd ra z imm o sc h n m ea fa ca v
  obtain ⟨h0, h8⟩ := size_bounds z
  refine ⟨fun hl => ⟨?_, ?_⟩, fun hl hs => ⟨_, rfl, ?_⟩, fun hl => ?_⟩
  · have hg : s.gives (.ld rd ra z imm sc) _ := State.gives_localLoad hl rfl
    rwa [loadValue_signed_bytesAt h0 h8] at hg
  · have hg : s.gives (.ldn rd ra z imm sc) _ := State.gives_localLoad hl rfl
    rwa [loadValue_unsigned_bytesAt] at hg
  · obtain ⟨hf, hp, hs', ha, hb⟩ := hl
    rw [show s.load (.fld rd ra z imm sc) (s.lsAddr ra imm (fBytes z)) (fBytes z) rd true false sc.toNat = _ from
      State.load_local (fun _ => hs) hf hp hs' (State.settleStores_apart ha) hs' hb ..]
    exact State.loaded_f rfl rfl rfl ..
  · have hg : s.gives (.cLd rd ra o) _ := State.gives_localLoad hl rfl
    rwa [loadValue_signed_bytesAt (by decide) (by decide), BitVec.signExtend_eq] at hg

theorem leafChk_ne_sram {l va rd wr ex win k off} : leafChk l va rd wr ex win ≠ .ok (.sram k off) := by
  unfold leafChk
  dsimp only
  repeat' split
  all_goals nofun

theorem State.closed_of_checkScratch {s : State} {c n k off : Nat} {a : Word} {rd wr : Bool} (h : s.checkScratch c a n rd wr = .ok (.sram k off)) :
    s.closed (.sram k off) = false := by
  unfold State.checkScratch at h
  dsimp only at h
  generalize (if wbits a 24 8 = 255 then clusterOf c else wbits a 24 8) = d at h
  split at h
  · cases h
  split at h
  · cases h
  split at h
  · cases h
  split at h
  · cases h
  next ho =>
    split at h
    · cases h
      exact Bool.or_eq_false_iff.2 ⟨Bool.eq_false_iff.2 fun e => ho (.inl e), Bool.eq_false_iff.2 fun e => ho (.inr (.inl e))⟩
    · cases h

/-- An access that passes its checks to a scratchpad finds it open. -/
theorem State.closed_of_place {ea n need k off} {s u : State} (h : s.place ea n need = (.ok (.sram k off), u)) : s.closed (.sram k off) = false := by
  unfold State.place at h
  split at h
  · cases h
  unfold State.check State.checkBy at h
  split at h
  · split at h
    · cases h
    · exact State.closed_of_checkScratch (Prod.mk.inj h).1
  split at h
  · cases h
  dsimp only at h
  split at h
  · cases h
  split at h
  · cases h
  · cases h
  · cases h
  · split at h
    · cases h
    · exact absurd (Prod.mk.inj h).1 leafChk_ne_sram

/-- The one store that stands out, of exactly the bytes of a load, is performed. -/
theorem State.settleStores_own {s : State} {k off : Nat} {l : List Byte} (hs : s.me.stores = [⟨.sram k off, .bytes l⟩]) (h0 : 0 < l.length)
    (hc : s.closed (.sram k off) = false) (hsup : isSup s.myCore = false) : s.settleStores s.cur (.sram k off) l.length =
      (s.modMe (Slot.dropStores fun p => p.overlaps (.sram k off) l.length)).setBytes (sramKey k off) l := by
  have ho : PendStore.overlaps ⟨.sram k off, .bytes l⟩ (.sram k off) l.length = true := by
    simp [PendStore.overlaps, StOp.size, h0]
  unfold State.settleStores
  rw [show (s.slot s.cur).stores = _ from hs]
  simp only [List.any_cons, List.any_nil, ho, Bool.or_false, Bool.not_true, Bool.false_eq_true, if_false, List.filter_cons, if_true, List.filter_nil,
    List.foldl_cons, List.foldl_nil]
  unfold State.performStore
  rw [if_neg, if_pos]
  · rfl
  · rw [show isSup (coreOf s.cur) = _ from hsup]; rfl
  · show ¬ s.closed (.sram k off) = true
    rw [hc]; nofun

theorem State.stepped_congr {s s' t : State} {len sc : Nat} (h1 : s'.me.pc = s.me.pc) (h2 : s'.me.lcount = s.me.lcount)
    (h3 : s'.me.lstart = s.me.lstart) (h4 : s'.me.lend = s.me.lend) (h5 : s'.me.retired = s.me.retired) (h6 : s'.cycle = s.cycle)
    (h : s'.stepped len sc t) : s.stepped len sc t := by
  obtain ⟨g1, g2⟩ := Slot.seq_congr len h1 h2 h3 h4
  obtain ⟨a, b, c, d⟩ := h
  exact ⟨a.trans g1, b.trans g2, c.trans (by rw [h5]), d.trans (by rw [h6])⟩

theorem Slot.xEnd_congr {a b : Slot} (hx : b.x = a.x) (hf : b.f = a.f) (hp : b.p = a.p) (hq : b.pend = a.pend) (q : Reg) : b.xEnd q = a.xEnd q := by
  have e : b.flush.x = a.flush.x := by
    have h := (Slot.landAll_congr b.pend hx hf hp).1
    rw [hq] at h
    rwa [Slot.flush, Slot.flush, hq]
  unfold Slot.xEnd Slot.getX
  rw [e]

theorem Slot.xComes_congr {rd : Reg} {v : Word} {land : Nat} {a a' b : Slot} (hx : a'.x = a.x) (hf : a'.f = a.f) (hp : a'.p = a.p)
    (hq : a'.pend = a.pend) (h : a'.xComes rd v land b) : a.xComes rd v land b := by
  obtain ⟨h1, h2, h3, h4, h5⟩ := h
  exact ⟨h1.trans hx, h2.trans hf, h3.trans hp, by rwa [hq] at h4, fun q => by rw [h5 q, Slot.xEnd_congr hx hf hp hq]⟩

theorem State.bytesAt_setBytes (key : Nat) (l : List Byte) (s : State) : (s.setBytes key l).bytesAt key l.length = l := by
  refine List.ext_getElem (by simp [State.bytesAt]) fun i h1 h2 => ?_
  simp only [State.bytesAt, List.getElem_map, List.getElem_range]
  exact State.byteAt_setBytes h2 s

/-- A load of exactly the bytes that the slot's one store stands out with returns them, and the store has been performed (R158). -/
theorem loadsSeeTheSlotsOwnStores : loadsSeeTheSlotsOwnStoresRules := by
  intro s rd ra z imm sc k off l n ea hf hp hs hb hst hlen
  obtain ⟨h0, -⟩ := size_bounds z
  have hsup : isSup s.myCore = false := by
    unfold State.servedLocally at hs
    simpa using (Bool.and_eq_true_iff.1 hs).1
  have hu := State.settleStores_own hst (by rw [hlen]; exact h0) (State.closed_of_place hp) hsup
  rw [hlen] at hu
  generalize hsl : (s.modMe (Slot.dropStores fun p => p.overlaps (.sram k off) n)).setBytes (sramKey k off) l = u at hu
  have hme : u.me = s.me.dropStores fun p => p.overlaps (.sram k off) n := by
    rw [← hsl]
    exact State.me_modMe ..
  have hbytes : u.bytesAt (sramKey k off) n = l := by
    rw [← hsl, ← hlen]
    exact State.bytesAt_setBytes ..
  have hex : ∃ t, exec (.ldn rd ra z imm sc) s = .next t ∧ u.sendsX rd (loadValue false l) 4 4 sc.toNat t := by
    refine ⟨_, rfl, ?_⟩
    rw [show s.load (.ldn rd ra z imm sc) (s.lsAddr ra imm (xBytes z)) (xBytes z) rd false false sc.toNat = _ from
      State.load_local (fun ht => absurd ht Bool.false_ne_true) (State.fenced_of_nil hf _) hp hs hu (by rw [← hsl]; exact hs) (by rw [← hsl]; exact hb) ..]
    rw [show u.bytesAt (u.localKey (.sram k off)) n = l from hbytes]
    exact State.loaded_x _ _ rfl rfl rfl ..
  obtain ⟨t, e, hslot, hrest, hstep, hx⟩ := hex
  have hcycle : u.cycle = s.cycle := by rw [← hsl]; rfl
  have hover : PendStore.overlaps ⟨.sram k off, .bytes l⟩ (.sram k off) n = true := by
    simp [PendStore.overlaps, StOp.size, hlen, n]
  refine ⟨t, e, State.stepped_congr ?_ ?_ ?_ ?_ ?_ hcycle hstep, ?_, ?_, ?_, fun a ha => ?_⟩
  iterate 5 · rw [hme]; rfl
  · rw [show t.me = _ from hrest]
    show u.me.stores = []
    rw [hme]
    simp [Slot.dropStores, hst, hover]
  · rw [hcycle] at hx
    exact Slot.xComes_congr (by rw [hme]; rfl) (by rw [hme]; rfl) (by rw [hme]; rfl) (by rw [hme]; rfl) hx
  · simp only [State.bytesAt, hslot.byteAt]
    exact hbytes
  · rw [hslot.byteAt, ← hsl]
    exact State.byteAt_setBytes_other (by rwa [hlen]) _

/-- Settles O16. -/
theorem localLoadsAndForwarding : Obligations.LocalLoadsAndForwarding := ⟨localLoadsReturnTheirBytes, loadsSeeTheSlotsOwnStores⟩

end Sys2Proof.Machine

namespace Sys2Proof.Machine

/-! # Control registers (O9) -/

/-- A core after reset but for bit 1 of its MFLAGS, which has no writer among the control-register instructions. -/
def strayFlag : State := State.reset.modCore 0 fun c => { c with mflags := 2 }

/-- Refutes O9: MFLAGS (0x012) holds five bits of which R121's map makes four RW (0x1D); `ctlwr` clears bit 1 where it is set,
and the statement, which is about every state, has each bit outside the mask keep its old value. -/
theorem not_controlRegisters : ¬ Obligations.ControlRegisters := by
  unfold Obligations.ControlRegisters controlRegisterWritesRules
  rintro ⟨-, h⟩
  obtain ⟨t, e, ht, -⟩ := (h strayFlag 0 0 0x012 (.ctlwr 0 0 0x012) (fun _ => strayFlag.x 0) (.inl ⟨rfl, fun _ => rfl⟩)).1 0x1D 2 (by decide) (by decide)
  have hr : (exec (.ctlwr 0 0 0x012) strayFlag = .next t) → t.ctlRead 0x012 = some 0 := by
    intro e
    cases e
    decide
  exact absurd ((hr e).symm.trans ht) (by decide)

end Sys2Proof.Machine

namespace Sys2Proof.Machine

/-! # Writes of configuration registers (O54) -/

/-! ## Fields of a word -/

theorem toNat_getLsbD {w : Nat} (v : BitVec w) (i : Nat) : (v.getLsbD i).toNat = v.toNat / 2 ^ i % 2 := by
  rw [BitVec.getLsbD, Nat.toNat_testBit]

theorem toNat_field (v : Word) (lo n : Nat) : (BitVec.ofNat n (wbits v lo n)).toNat = v.toNat / 2 ^ lo % 2 ^ n := by
  rw [BitVec.toNat_ofNat, wbits, Nat.mod_mod]

/-- The low bits of a word are its lowest field. -/
theorem setWidth_eq_field (v : Word) (n : Nat) : v.setWidth n = BitVec.ofNat n (bitsAt v 0 n) := by
  refine BitVec.eq_of_toNat_eq ?_
  rw [BitVec.toNat_setWidth, show bitsAt v 0 n = wbits v 0 n from rfl, toNat_field, Nat.pow_zero, Nat.div_one]

theorem and_lowMask {n : Nat} (h : n ≤ 64) (v : Word) : (v &&& BitVec.ofNat 64 (2 ^ n - 1)).toNat = v.toNat % 2 ^ n := by
  have hn : 2 ^ n - 1 < 2 ^ 64 := by
    have := Nat.pow_le_pow_right (show 0 < 2 by decide) h
    omega
  rw [BitVec.toNat_and, BitVec.toNat_ofNat, Nat.mod_eq_of_lt hn, Nat.and_two_pow_sub_one_eq_mod]

/-- `and` with a mask in two parts. -/
theorem and_eq_parts (x m k : Nat) : x &&& m = (x / 2 ^ k &&& m / 2 ^ k) * 2 ^ k + (x % 2 ^ k &&& m % 2 ^ k) := by
  rw [← Nat.and_div_two_pow, ← Nat.and_mod_two_pow, Nat.div_add_mod']

/-- The number that fields at their bits make. -/
def fieldSum : List (Nat × Nat) → Nat
  | [] => 0
  | (b, x) :: l => x * 2 ^ b + fieldSum l

theorem foldl_fields (l : List (Nat × Nat)) (n : Nat) : l.foldl (fun n f => n + f.2 * 2 ^ f.1) n = n + fieldSum l := by
  induction l generalizing n with
  | nil => rfl
  | cons f l ih => rw [List.foldl_cons, ih, fieldSum, Nat.add_assoc]

/-- A word of fields that do not run over. -/
theorem fields_eq {l : List (Nat × Nat)} {v : Word} (h : fieldSum l = v.toNat) : fields l = v := by
  unfold fields w64
  rw [foldl_fields, Nat.zero_add, h, BitVec.ofNat_toNat, BitVec.setWidth_eq]

theorem evenPc_toNat (p : BitVec 48) : (evenPc p).toNat = p.toNat / 2 * 2 := by
  unfold evenPc
  rw [BitVec.toNat_and, and_eq_parts _ _ 1, show BitVec.toNat (0xFFFFFFFFFFFE : BitVec 48) / 2 ^ 1 = 2 ^ 47 - 1 from rfl,
    show BitVec.toNat (0xFFFFFFFFFFFE : BitVec 48) % 2 ^ 1 = 0 from rfl, Nat.and_two_pow_sub_one_eq_mod, Nat.and_zero]
  have := p.isLt
  omega

theorem Handler.toWord_ofWord (v : Word) : (Handler.ofWord v).toWord = v &&& BitVec.ofNat 64 (2 ^ 52 - 2) := by
  refine fields_eq ?_
  simp only [Handler.ofWord, fieldSum, evenPc_toNat, BitVec.toNat_setWidth, toNat_field, toNat_getLsbD]
  rw [BitVec.toNat_and, and_eq_parts _ _ 1, show (BitVec.ofNat 64 (2 ^ 52 - 2)).toNat / 2 ^ 1 = 2 ^ 51 - 1 from rfl,
    show (BitVec.ofNat 64 (2 ^ 52 - 2)).toNat % 2 ^ 1 = 0 from rfl, Nat.and_two_pow_sub_one_eq_mod, Nat.and_zero]
  simp only [Nat.reducePow]
  omega

theorem ClassD.toWord_ofWord (v : Word) : (ClassD.ofWord v).toWord = v &&& 0x7F := by
  refine fields_eq ?_
  simp only [ClassD.ofWord, fieldSum, toNat_field, toNat_getLsbD]
  rw [show (0x7F : Word) = BitVec.ofNat 64 (2 ^ 7 - 1) from rfl, and_lowMask (by decide)]
  omega

theorem Region.toWord_withWord (v : Word) (r : Region) : (r.withWord false v).toWord = v &&& BitVec.ofNat 64 (2 ^ 50 - 1) := by
  refine fields_eq ?_
  simp only [Region.withWord, fieldSum, BitVec.toNat_setWidth, toNat_field, toNat_getLsbD, Bool.false_and, Bool.toNat_false]
  rw [and_lowMask (by decide)]
  simp only [Nat.reducePow]
  omega

/-- A protection region alone keeps its rights. -/
theorem Region.toWord_withWord_rights (v : Word) (r : Region) : (r.withWord true v).toWord = v &&& BitVec.ofNat 64 (2 ^ 52 - 1) := by
  refine fields_eq ?_
  simp only [Region.withWord, fieldSum, BitVec.toNat_setWidth, toNat_field, toNat_getLsbD, Bool.true_and]
  rw [and_lowMask (by decide)]
  simp only [Nat.reducePow]
  omega

/-- A field of the low bits reads back. -/
theorem setWidth_setWidth_eq_and {n : Nat} (h : n ≤ 64) (v : Word) : (v.setWidth n).setWidth 64 = v &&& BitVec.ofNat 64 (2 ^ n - 1) := by
  refine BitVec.eq_of_toNat_eq ?_
  rw [and_lowMask h, BitVec.toNat_setWidth, BitVec.toNat_setWidth, Nat.mod_eq_of_lt]
  have := Nat.pow_le_pow_right (show 0 < 2 by decide) h
  exact Nat.lt_of_lt_of_le (Nat.mod_lt _ (Nat.two_pow_pos n)) this

/-! ## Tables of registers -/

theorem tableAt_eq_some {off base size N n b : Nat} (h : off = base + size * n + b) (hn : n < N) (hb : b < size) :
    tableAt off base size N = some (n, b) := by
  have hm : size * n + b < size * N := by
    calc size * n + b < size * n + size := by omega
      _ = size * (n + 1) := by rw [Nat.mul_add, Nat.mul_one]
      _ ≤ size * N := Nat.mul_le_mul_left _ hn
  unfold tableAt
  rw [if_pos ⟨by omega, by omega⟩, h, Nat.add_assoc, Nat.add_sub_cancel_left, Nat.mul_add_div (by omega), Nat.mul_add_mod, Nat.div_eq_of_lt hb,
    Nat.mod_eq_of_lt hb, Nat.add_zero]

theorem tableAt_eq_none {off base size N : Nat} (h : off < base ∨ base + size * N ≤ off) : tableAt off base size N = none :=
  if_neg (by omega)

theorem mapIs_put {α : Type} {d : α} {n : Nat} {v : α} {m : SMap α} : mapIs d n v m (put n v m) := fun j => look_put d n j v m

/-! ## Cores -/

theorem look_of_above {α : Type} (d : α) {k : Nat} {m : SMap α} (h : ∀ e ∈ m, k < e.1) : look d m k = d := by
  induction m with
  | nil => rfl
  | cons e m ih =>
    have he : e.1 ≠ k := by have := h e (List.mem_cons_self ..); omega
    exact (if_neg he).trans (ih fun x hx => h x (List.mem_cons_of_mem _ hx))

/-- A table of queues whose queues are mapped one by one, the empty ones dropped. -/
theorem look_map_filter {α : Type} {f : Nat → List α → List α} (hf : ∀ i, f i [] = []) {m : SMap (List α)} (h : risingKeys m = true) (i : Nat) :
    look [] ((m.map fun e => (e.1, f e.1 e.2)).filter fun e => !e.2.isEmpty) i = f i (look [] m i) := by
  induction m with
  | nil => exact (hf i).symm
  | cons e m ih =>
    obtain ⟨habove, hrest⟩ := (risingKeys_cons e m).1 h
    rw [List.map_cons, List.filter_cons]
    by_cases hk : e.1 = i
    · have hl : look [] (e :: m) i = e.2 := if_pos hk
      have hm : look [] m i = [] := look_of_above [] fun x hx => hk ▸ habove x hx
      rw [hl, ← hk]
      split
      · exact if_pos rfl
      next hempty =>
        have he : f e.1 e.2 = [] := by simpa using hempty
        rw [hk, ih hrest, hm, hf, ← hk, he]
    · have hl : look [] (e :: m) i = look [] m i := if_neg hk
      rw [hl, ← ih hrest]
      split
      · exact if_neg hk
      · rfl

/-- Looking again at what waits leaves the queues as they were, but for the times at their heads. -/
theorem State.onlyCore_refreshHeads (c : Nat) (s : State) : s.onlyCore c (s.core c) (s.refreshHeads c) := by
  unfold State.refreshHeads
  extract_lets fix
  refine ⟨rfl, fun j hj => State.core_modCore_other hj .., ?_, ?_, fun hr i => ?_⟩
  · rw [State.core_modCore_same]
  · rw [State.core_modCore_same]
    simp
  · rw [State.core_modCore_same]
    dsimp only
    rw [look_map_filter (fun _ => rfl) hr]
    cases look [] (s.core c).queues i with
    | nil => rfl
    | cons it r =>
      unfold fix
      dsimp only
      split <;> rfl

/-- What a write of a core's block comes to: a change `f` of the core, after which what waits there looks again. -/
theorem State.onlyCore_stir (c : Nat) (f : Core → Core) (i : Sys2Proof.Instr) (a : Arg) (s : State) :
    s.onlyCore c (f (s.core c)) (((s.modCore c f).post i a).stir c) := by
  obtain ⟨heq, hother, hcore, hanon, hqueues⟩ := State.onlyCore_refreshHeads c ((s.modCore c f).post i a)
  rw [State.post_core, State.core_modCore_same] at hcore hanon hqueues
  refine ⟨?_, fun j hj => (hother j hj).trans (State.core_modCore_other hj ..), hcore, hanon, hqueues⟩
  unfold State.stir
  rw [heq]
  rfl

theorem exec_config_core {c : Nat} {s : State} (h : s.arg.blk = .core c) : exec .configRegisterWrite s = .next (s.writeCore c s.arg.a s.arg.v) := by
  show Host.Outcome.next _ = _
  rw [h]

end Sys2Proof.Machine

namespace Sys2Proof.Machine

section core
variable {c n : Nat} {s : State} (v : Word)

theorem State.writeCore_handler (h : n < 1024) (off) (e : off = 8 * n) :
    s.onlyCore c { s.core c with handlers := put n (Handler.ofWord v) (s.core c).handlers } (s.writeCore c off v) := by
  have h1 : tableAt off 0 8 1024 = some (n, 0) := tableAt_eq_some (by omega) h (by decide)
  unfold State.writeCore
  rw [h1]
  exact State.onlyCore_stir ..

theorem State.writeCore_class (h : n < 16) (off) (e : off = 0x2000 + 8 * n) :
    s.onlyCore c { s.core c with classes := put n (ClassD.ofWord v) (s.core c).classes } (s.writeCore c off v) := by
  have h1 : tableAt off 0 8 1024 = none := tableAt_eq_none (by omega)
  have h2 : tableAt off 0x2000 8 16 = some (n, 0) := tableAt_eq_some (by omega) h (by decide)
  unfold State.writeCore
  rw [h1, h2]
  exact State.onlyCore_stir ..

theorem State.writeCore_region (h : n < 16) (off) (e : off = 0x2100 + 16 * n) :
    s.onlyCore c { s.core c with regions := put n ((look Region.reset (s.core c).regions n).withWord false v) (s.core c).regions } (s.writeCore c off v) := by
  have h1 : tableAt off 0 8 1024 = none := tableAt_eq_none (by omega)
  have h2 : tableAt off 0x2000 8 16 = none := tableAt_eq_none (by omega)
  have h3 : tableAt off 0x2100 16 16 = some (n, 0) := tableAt_eq_some (by omega) h (by decide)
  unfold State.writeCore
  rw [h1, h2, h3]
  exact State.onlyCore_stir ..

theorem State.writeCore_regionName (h : n < 16) (off) (e : off = 0x2108 + 16 * n) :
    s.onlyCore c { s.core c with regions := put n { look Region.reset (s.core c).regions n with name := v } (s.core c).regions } (s.writeCore c off v) := by
  have h1 : tableAt off 0 8 1024 = none := tableAt_eq_none (by omega)
  have h2 : tableAt off 0x2000 8 16 = none := tableAt_eq_none (by omega)
  have h3 : tableAt off 0x2100 16 16 = some (n, 8) := tableAt_eq_some (by omega) h (by decide)
  unfold State.writeCore
  rw [h1, h2, h3]
  exact State.onlyCore_stir ..

/-- Past the tables, a core has HTBASE and AGEINT. -/
theorem State.writeCore_past {off} (h : 0x2200 ≤ off) : s.onlyCore c
    (if off = 0x2200 then { s.core c with htbase := v.setWidth 48 } else if off = 0x2300 then { s.core c with agesint := v.setWidth 24 } else s.core c)
    (s.writeCore c off v) := by
  have h1 : tableAt off 0 8 1024 = none := tableAt_eq_none (by omega)
  have h2 : tableAt off 0x2000 8 16 = none := tableAt_eq_none (by omega)
  have h3 : tableAt off 0x2100 16 16 = none := tableAt_eq_none (by omega)
  unfold State.writeCore
  rw [h1, h2, h3]
  exact State.onlyCore_stir ..

end core

section readCore
variable {c n off : Nat} {s : State}

theorem State.readCore_handler (h : n < 1024) (e : off = 8 * n) : s.readCore c off = (look Handler.reset (s.core c).handlers n).toWord := by
  have h1 : tableAt off 0 8 1024 = some (n, 0) := tableAt_eq_some (by omega) h (by decide)
  unfold State.readCore
  rw [h1]

theorem State.readCore_class (h : n < 16) (e : off = 0x2000 + 8 * n) : s.readCore c off = (look ClassD.reset (s.core c).classes n).toWord := by
  have h1 : tableAt off 0 8 1024 = none := tableAt_eq_none (by omega)
  have h2 : tableAt off 0x2000 8 16 = some (n, 0) := tableAt_eq_some (by omega) h (by decide)
  unfold State.readCore
  rw [h1, h2]

theorem State.readCore_region (h : n < 16) (e : off = 0x2100 + 16 * n) : s.readCore c off = (look Region.reset (s.core c).regions n).toWord := by
  have h1 : tableAt off 0 8 1024 = none := tableAt_eq_none (by omega)
  have h2 : tableAt off 0x2000 8 16 = none := tableAt_eq_none (by omega)
  have h3 : tableAt off 0x2100 16 16 = some (n, 0) := tableAt_eq_some (by omega) h (by decide)
  unfold State.readCore
  rw [h1, h2, h3]
  rfl

theorem State.readCore_regionName (h : n < 16) (e : off = 0x2108 + 16 * n) : s.readCore c off = (look Region.reset (s.core c).regions n).name := by
  have h1 : tableAt off 0 8 1024 = none := tableAt_eq_none (by omega)
  have h2 : tableAt off 0x2000 8 16 = none := tableAt_eq_none (by omega)
  have h3 : tableAt off 0x2100 16 16 = some (n, 8) := tableAt_eq_some (by omega) h (by decide)
  unfold State.readCore
  rw [h1, h2, h3]
  rfl

theorem State.readCore_past (h : 0x2200 ≤ off) : s.readCore c off =
    if off = 0x2200 then (s.core c).htbase.setWidth 64
    else if off = 0x2208 then fields [(0, (s.core c).seqbase.toNat), (48, (s.core c).sendlog.toNat), (52, (s.core c).recvlog.toNat)]
    else if off = 0x2210 then fields [(0, (s.core c).qbase.toNat), (48, (s.core c).qlog.toNat)]
    else if off = 0x2300 then (s.core c).agesint.setWidth 64
    else 0 := by
  have h1 : tableAt off 0 8 1024 = none := tableAt_eq_none (by omega)
  have h2 : tableAt off 0x2000 8 16 = none := tableAt_eq_none (by omega)
  have h3 : tableAt off 0x2100 16 16 = none := tableAt_eq_none (by omega)
  unfold State.readCore
  rw [h1, h2, h3]

end readCore

theorem State.gives_core {s : State} {c : Nat} {x : Core} (hb : s.arg.blk = .core c) (h : s.onlyCore c x (s.writeCore c s.arg.a s.arg.v)) :
    s.gives .configRegisterWrite (s.onlyCore c x) := ⟨_, exec_config_core hb, h⟩

/-- What a core's block reads after a write that leaves `x` in it, but for its queues. -/
theorem State.reads_core {s : State} {c : Nat} {x : Core} {w : Word} (hb : s.arg.blk = .core c) (h : s.onlyCore c x (s.writeCore c s.arg.a s.arg.v))
    (hr : ∀ t : State, t.core c = { x with queues := (t.core c).queues, anon := (t.core c).anon } → t.readCore c s.arg.a = w) :
    s.gives .configRegisterWrite fun t => t.configRead s.arg.blk s.arg.a = w := by
  refine ⟨_, exec_config_core hb, ?_⟩
  rw [hb]
  exact hr _ h.2.2.1

theorem and_allOnes (v : Word) : v &&& BitVec.ofNat 64 (2 ^ 64 - 1) = v := BitVec.and_allOnes

/-- The part of O54 about a core's block. -/
theorem configWrites_core {s : State} {c : Nat} (hb : s.arg.blk = .core c) :
    let off := s.arg.a; let v := s.arg.v; let k := s.core c; let bv := fun (n w : Nat) => (BitVec.ofNat w (bitsAt v n w) : BitVec w)
    let stores := fun (x : Core) => s.gives .configRegisterWrite (s.onlyCore c x)
    (∀ n, n < 1024 → off = 8 * n → ∃ m, mapIs Handler.reset n ⟨evenPc (bv 0 48), bv 48 2, v.getLsbD 50, v.getLsbD 51⟩ k.handlers m ∧ stores { k with handlers := m }) ∧
    (∀ n, n < 16 → off = 0x2000 + 8 * n → ∃ m, mapIs ClassD.reset n ⟨v.getLsbD 0, v.getLsbD 1, bv 2 4, v.getLsbD 6⟩ k.classes m ∧ stores { k with classes := m }) ∧
    (∀ n, n < 16 → off = 0x2100 + 16 * n → ∃ m, mapIs Region.reset n ⟨bv 0 20, bv 20 21, bv 41 8, v.getLsbD 49, false, false, (look Region.reset k.regions n).name⟩ k.regions m ∧
      stores { k with regions := m }) ∧
    (∀ n, n < 16 → off = 0x2108 + 16 * n → ∃ m, mapIs Region.reset n { look Region.reset k.regions n with name := v } k.regions m ∧ stores { k with regions := m }) ∧
    (off = 0x2200 → stores { k with htbase := bv 0 48 }) ∧ (off = 0x2300 → stores { k with agesint := bv 0 24 }) ∧ (0x2308 ≤ off → stores k) := by
  intro off v k bv stores
  refine ⟨fun n hn e => ⟨_, mapIs_put, ?_⟩, fun n hn e => ⟨_, mapIs_put, ?_⟩, fun n hn e => ⟨_, mapIs_put, ?_⟩, fun n hn e => ⟨_, mapIs_put, ?_⟩,
    fun e => ?_, fun e => ?_, fun e => ?_⟩
  · have h := State.gives_core hb (State.writeCore_handler v hn off e)
    rwa [Handler.ofWord, setWidth_eq_field] at h
  · exact State.gives_core hb (State.writeCore_class v hn off e)
  · have h := State.gives_core hb (State.writeCore_region v hn off e)
    rwa [Region.withWord, setWidth_eq_field] at h
  · exact State.gives_core hb (State.writeCore_regionName v hn off e)
  · have h := State.gives_core hb (State.writeCore_past v (by omega : 0x2200 ≤ off))
    rwa [if_pos e, setWidth_eq_field] at h
  · have h := State.gives_core hb (State.writeCore_past v (by omega : 0x2200 ≤ off))
    rwa [if_neg (by omega), if_pos e, setWidth_eq_field] at h
  · have h := State.gives_core hb (State.writeCore_past v (by omega : 0x2200 ≤ off))
    rwa [if_neg (by omega), if_neg (by omega)] at h

/-- What a core's block reads back. -/
theorem configReads_core {s : State} {c : Nat} (hb : s.arg.blk = .core c) :
    let off := s.arg.a; let reads := fun (mask : Nat) => s.gives .configRegisterWrite fun t => t.configRead s.arg.blk off = s.arg.v &&& BitVec.ofNat 64 mask
    (off % 8 = 0 → off < 0x2000 → reads (2 ^ 52 - 2)) ∧
    (∀ n, n < 16 → (off = 0x2000 + 8 * n → reads 0x7F) ∧ (off = 0x2100 + 16 * n → reads (2 ^ 50 - 1)) ∧ (off = 0x2108 + 16 * n → reads (2 ^ 64 - 1))) ∧
    (off = 0x2200 → reads (2 ^ 48 - 1)) ∧ (off = 0x2300 → reads (2 ^ 24 - 1)) ∧ (0x2308 ≤ off → s.configRead s.arg.blk off = 0) := by
  intro off reads
  refine ⟨fun e0 e1 => ?_, fun n hn => ⟨fun e => ?_, fun e => ?_, fun e => ?_⟩, fun e => ?_, fun e => ?_, fun e => ?_⟩
  · have hn : off / 8 < 1024 := by omega
    refine State.reads_core hb (State.writeCore_handler s.arg.v hn off (by omega)) fun t ht => ?_
    rw [State.readCore_handler hn (by omega), ht, look_put_same, Handler.toWord_ofWord]
  · refine State.reads_core hb (State.writeCore_class s.arg.v hn off e) fun t ht => ?_
    rw [State.readCore_class hn e, ht, look_put_same, ClassD.toWord_ofWord]
    rfl
  · refine State.reads_core hb (State.writeCore_region s.arg.v hn off e) fun t ht => ?_
    rw [State.readCore_region hn e, ht, look_put_same, Region.toWord_withWord]
  · refine State.reads_core hb (State.writeCore_regionName s.arg.v hn off e) fun t ht => ?_
    rw [State.readCore_regionName hn e, ht, look_put_same, and_allOnes]
  · refine State.reads_core hb (State.writeCore_past s.arg.v (by omega : 0x2200 ≤ off)) fun t ht => ?_
    rw [State.readCore_past (by omega), if_pos e, ht, if_pos e]
    exact setWidth_setWidth_eq_and (by decide) _
  · refine State.reads_core hb (State.writeCore_past s.arg.v (by omega : 0x2200 ≤ off)) fun t ht => ?_
    rw [State.readCore_past (by omega), if_neg (by omega), if_neg (by omega), if_neg (by omega), if_pos e, ht, if_neg (by omega), if_pos e]
    exact setWidth_setWidth_eq_and (by decide) _
  · rw [hb]
    show s.readCore c off = 0
    rw [State.readCore_past (by omega), if_neg (by omega), if_neg (by omega), if_neg (by omega), if_neg (by omega)]

end Sys2Proof.Machine

namespace Sys2Proof.Machine

/-! ## Clusters -/

theorem exec_config_cluster {c : Nat} {s : State} (h : s.arg.blk = .cluster c) :
    exec .configRegisterWrite s = .next (s.writeCluster c s.arg.a s.arg.v) := by
  show Host.Outcome.next _ = _
  rw [h]

theorem State.writeCluster_protection {c n off : Nat} (h : n < 16) (e : off = 16 * n) (v : Word) (s : State) : s.writeCluster c off v =
    s.modCluster c fun k => { k with prot := put n ((look Region.reset k.prot n).withWord true v) k.prot } := by
  have h1 : tableAt off 0 16 16 = some (n, 0) := tableAt_eq_some (by omega) h (by decide)
  unfold State.writeCluster
  rw [h1]
  rfl

/-- The grant weights of a word, one for each nibble. -/
def grantWeights (v : Word) : List (Nat × BitVec 4) := (List.range 8).map fun i => (i, BitVec.ofNat 4 (wbits v (4 * i) 4))

theorem State.writeCluster_past {c off : Nat} (h : 0x100 ≤ off) (v : Word) (s : State) : s.writeCluster c off v = s.modCluster c fun k =>
    if off = 0x300 then { k with weights := grantWeights v }
    else if off = 0x308 then (if s.chip.thermal = s.cycle + 1 then k else { k with budget := v.setWidth 8 })
    else if off = 0x310 then { k with biaspart := v.setWidth 8 }
    else k := by
  have h1 : tableAt off 0 16 16 = none := tableAt_eq_none (by omega)
  unfold State.writeCluster
  rw [h1]
  rfl

theorem look_grantWeights (d : BitVec 4) (v : Word) {j : Nat} (h : j < 8) : look d (grantWeights v) j = BitVec.ofNat 4 (wbits v (4 * j) 4) := by
  have hj : j = 0 ∨ j = 1 ∨ j = 2 ∨ j = 3 ∨ j = 4 ∨ j = 5 ∨ j = 6 ∨ j = 7 := by omega
  rcases hj with rfl | rfl | rfl | rfl | rfl | rfl | rfl | rfl <;> rfl

/-- A write of a cluster's block changes that cluster alone. -/
theorem State.gives_cluster {s : State} {c : Nat} {f : Cluster → Cluster} (hb : s.arg.blk = .cluster c)
    (h : s.writeCluster c s.arg.a s.arg.v = s.modCluster c f) :
    s.gives .configRegisterWrite fun t => t = { s with clusters := t.clusters } ∧ ∀ j, t.cluster j = if j = c then f (s.cluster c) else s.cluster j :=
  ⟨_, (exec_config_cluster hb).trans (congrArg _ h), rfl, fun j => State.cluster_modCluster c j f s⟩

/-- The part of O54 about a cluster's block. -/
theorem configWrites_cluster {s : State} {c : Nat} (hb : s.arg.blk = .cluster c) :
    let off := s.arg.a; let v := s.arg.v; let k := s.cluster c; let bv := fun (n w : Nat) => (BitVec.ofNat w (bitsAt v n w) : BitVec w)
    let stores := fun (x : Cluster) => s.gives .configRegisterWrite fun t => t = { s with clusters := t.clusters } ∧ ∀ j, t.cluster j = if j = c then x else s.cluster j
    (∀ n, n < 16 → off = 16 * n → ∃ m, mapIs Region.reset n ⟨bv 0 20, bv 20 21, bv 41 8, v.getLsbD 49, v.getLsbD 50, v.getLsbD 51, (look Region.reset k.prot n).name⟩ k.prot m ∧
      stores { k with prot := m }) ∧
    (off = 0x300 → ∃ m, (∀ j, j < 8 → look 0 m j = bv (4 * j) 4) ∧ stores { k with weights := m }) ∧
    (off = 0x308 → stores (if s.chip.thermal = s.cycle + 1 then k else { k with budget := bv 0 8 })) ∧
    (off = 0x310 → stores { k with biaspart := bv 0 8 }) ∧ (0x318 ≤ off → stores k) := by
  intro off v k bv stores
  have past (h : 0x100 ≤ off) := State.gives_cluster hb (State.writeCluster_past h v s)
  refine ⟨fun n hn e => ⟨_, mapIs_put, ?_⟩, fun e => ⟨grantWeights v, fun j hj => look_grantWeights 0 v hj, ?_⟩, fun e => ?_, fun e => ?_, fun e => ?_⟩
  · have h := State.gives_cluster hb (State.writeCluster_protection hn e v s)
    rwa [Region.withWord, setWidth_eq_field] at h
  · have h := past (by omega)
    rwa [if_pos e] at h
  · have h := past (by omega)
    rwa [if_neg (by omega), if_pos e, setWidth_eq_field] at h
  · have h := past (by omega)
    rwa [if_neg (by omega), if_neg (by omega), if_pos e, setWidth_eq_field] at h
  · have h := past (by omega)
    rwa [if_neg (by omega), if_neg (by omega), if_neg (by omega)] at h

theorem State.readCluster_protection {c n off : Nat} (h : n < 16) (e : off = 16 * n) (s : State) :
    s.readCluster c off = (look Region.reset (s.cluster c).prot n).toWord := by
  have h1 : tableAt off 0 16 16 = some (n, 0) := tableAt_eq_some (by omega) h (by decide)
  unfold State.readCluster
  rw [h1]
  rfl

theorem State.readCluster_past {c off : Nat} (h : 0x300 ≤ off) (s : State) : s.readCluster c off =
    if off = 0x300 then fields ((List.range 8).map fun i => (4 * i, (look 1 (s.cluster c).weights i).toNat))
    else if off = 0x308 then (s.cluster c).budget.setWidth 64
    else if off = 0x310 then (s.cluster c).biaspart.setWidth 64
    else if off = 0x320 then fields [(0, (s.cluster c).req.toNat), (2, (s.cluster c).pstate.toNat), (4, (s.cluster c).pbusy.toNat)]
    else 0 := by
  have h1 : tableAt off 0 16 16 = none := tableAt_eq_none (by omega)
  have h2 : tableAt off 0x100 8 32 = none := tableAt_eq_none (by omega)
  unfold State.readCluster
  rw [h1, h2]
  exact if_neg (by omega)

theorem fields_grantWeights (v : Word) :
    fields ((List.range 8).map fun i => (4 * i, (look 1 (grantWeights v) i).toNat)) = v &&& BitVec.ofNat 64 (2 ^ 32 - 1) := by
  have e : (List.range 8).map (fun i => (4 * i, (look 1 (grantWeights v) i).toNat)) =
      (List.range 8).map fun i => (4 * i, v.toNat / 2 ^ (4 * i) % 2 ^ 4) := by
    refine List.map_congr_left fun i hi => ?_
    rw [look_grantWeights 1 v (List.mem_range.1 hi), toNat_field]
  rw [e]
  refine fields_eq ?_
  rw [and_lowMask (by decide), show List.range 8 = [0, 1, 2, 3, 4, 5, 6, 7] from rfl]
  simp only [List.map_cons, List.map_nil, fieldSum, Nat.reducePow, Nat.reduceMul]
  omega

/-- What a cluster's block reads after a write of it. -/
theorem State.reads_cluster {s : State} {c : Nat} {f : Cluster → Cluster} {w : Word} (hb : s.arg.blk = .cluster c)
    (h : s.writeCluster c s.arg.a s.arg.v = s.modCluster c f) (hr : ∀ t : State, t.cluster c = f (s.cluster c) → t.readCluster c s.arg.a = w) :
    s.gives .configRegisterWrite fun t => t.configRead s.arg.blk s.arg.a = w := by
  refine ⟨_, (exec_config_cluster hb).trans (congrArg _ h), ?_⟩
  rw [hb]
  exact hr _ (State.cluster_modCluster_same ..)

theorem configReads_cluster {s : State} {c : Nat} (hb : s.arg.blk = .cluster c) :
    let off := s.arg.a; let reads := fun (mask : Nat) => s.gives .configRegisterWrite fun t => t.configRead s.arg.blk off = s.arg.v &&& BitVec.ofNat 64 mask
    (∀ n, n < 16 → off = 16 * n → reads (2 ^ 52 - 1)) ∧ (off = 0x300 → reads (2 ^ 32 - 1)) ∧ (off = 0x310 → reads 0xFF) ∧
    (0x328 ≤ off → s.configRead s.arg.blk off = 0) := by
  intro off reads
  refine ⟨fun n hn e => ?_, fun e => ?_, fun e => ?_, fun e => ?_⟩
  · refine State.reads_cluster hb (State.writeCluster_protection hn e _ s) fun t ht => ?_
    rw [State.readCluster_protection hn e, ht, look_put_same, Region.toWord_withWord_rights]
  · refine State.reads_cluster hb (State.writeCluster_past (by omega) _ s) fun t ht => ?_
    rw [State.readCluster_past (by omega), if_pos e, ht, if_pos e, fields_grantWeights]
  · refine State.reads_cluster hb (State.writeCluster_past (by omega) _ s) fun t ht => ?_
    rw [State.readCluster_past (by omega), if_neg (by omega), if_neg (by omega), if_pos e, ht, if_neg (by omega), if_neg (by omega), if_pos e]
    exact setWidth_setWidth_eq_and (by decide) _
  · rw [hb]
    show s.readCluster c off = 0
    rw [State.readCluster_past (by omega), if_neg (by omega), if_neg (by omega), if_neg (by omega), if_neg (by omega)]

/-! ## The launch unit -/

theorem exec_config_launch {s : State} (h : s.arg.blk = .launch) : exec .configRegisterWrite s = .next (s.writeLaunch s.arg.a s.arg.v) := by
  show Host.Outcome.next _ = _
  rw [h]

theorem State.writeLaunch_completion {n off : Nat} (h : n < 16) (e : off = 0x80 + 8 * n) (v : Word) (s : State) :
    s.writeLaunch off v = s.modComp n fun q => { q with part := v.setWidth 8, en := v.getLsbD 8 } := by
  have h1 : tableAt off 0x80 8 16 = some (n, 0) := tableAt_eq_some (by omega) h (by decide)
  unfold State.writeLaunch
  rw [h1]

theorem State.writeLaunch_event {n off : Nat} (h : n < 4096) (e : off = 0x1000 + 8 * n) (v : Word) (s : State) :
    s.writeLaunch off v = (s.modEvent n fun e => { e with
      count := v.setWidth 32, part := BitVec.ofNat 8 (wbits v 32 8), group := BitVec.ofNat 12 (wbits v 40 12), gbind := v.getLsbD 52,
      failed := e.failed && !v.getLsbD 53 }).post .launchRecordTake Arg.zero := by
  have h1 : tableAt off 0x80 8 16 = none := tableAt_eq_none (by omega)
  have h2 : tableAt off 0x1000 8 4096 = some (n, 0) := tableAt_eq_some (by omega) h (by decide)
  unfold State.writeLaunch
  rw [h1, h2]

/-- The part of O54 about the launch unit's block. -/
theorem configWrites_launch {s : State} (hb : s.arg.blk = .launch) :
    let off := s.arg.a; let v := s.arg.v; let l := s.launch; let bv := fun (n w : Nat) => (BitVec.ofNat w (bitsAt v n w) : BitVec w)
    (∀ n, n < 16 → off = 0x80 + 8 * n → ∃ m, mapIs CQueue.reset n { look CQueue.reset l.comps n with part := bv 0 8, en := v.getLsbD 8 } l.comps m ∧
      exec .configRegisterWrite s = .next { s with launch := { l with comps := m } }) ∧
    (∀ n, n < 4096 → off = 0x1000 + 8 * n → let e := look EvReg.reset l.events n
      ∃ m, mapIs EvReg.reset n { e with count := bv 0 32, part := bv 32 8, group := bv 40 12, gbind := v.getLsbD 52, failed := e.failed && !v.getLsbD 53 } l.events m ∧
        exec .configRegisterWrite s = .next { s with launch := { l with events := m }, work := s.work ++ [⟨.launchRecordTake, Arg.zero⟩] }) := by
  intro off v l bv
  refine ⟨fun n hn e => ⟨_, mapIs_put, ?_⟩, fun n hn e => ⟨_, mapIs_put, ?_⟩⟩
  · rw [exec_config_launch hb, State.writeLaunch_completion hn e, setWidth_eq_field]
    rfl
  · rw [exec_config_launch hb, State.writeLaunch_event hn e, setWidth_eq_field]
    rfl

end Sys2Proof.Machine

namespace Sys2Proof.Machine

/-! ## The switch -/

theorem exec_config_fabric {s : State} (h : s.arg.blk = .fabric) : exec .configRegisterWrite s = .next (s.writeFabric s.arg.a s.arg.v) := by
  show Host.Outcome.next _ = _
  rw [h]

section fabric
variable {n off : Nat} (v : Word) (s : State)

theorem State.writeFabric_tx (h : n < 1024) (e : off = 256 * n) :
    s.writeFabric off v = s.modFabric fun f => { f with tx := put n ((look TxEnt.reset f.tx n).write 0 v) f.tx } := by
  have h1 : tableAt off 0 256 1024 = some (n, 0) := tableAt_eq_some (by omega) h (by decide)
  unfold State.writeFabric
  rw [h1]

theorem State.writeFabric_rx (h : n < 1024) (e : off = 0x40000 + 64 * n) :
    s.writeFabric off v = s.modFabric fun f => { f with rx := put n ((look RxEnt.reset f.rx n).write 0 v) f.rx } := by
  have h1 : tableAt off 0 256 1024 = none := tableAt_eq_none (by omega)
  have h2 : tableAt off 0x40000 64 1024 = some (n, 0) := tableAt_eq_some (by omega) h (by decide)
  unfold State.writeFabric
  rw [h1, h2]

theorem State.writeFabric_rate (h : n < 256) (e : off = 0x60000 + 8 * n) : s.writeFabric off v = s.modFabric fun f =>
    { f with rates := put n { look RGroup.reset f.rates n with rate := v.setWidth 20, max := BitVec.ofNat 20 (wbits v 20 20) } f.rates } := by
  have h1 : tableAt off 0 256 1024 = none := tableAt_eq_none (by omega)
  have h2 : tableAt off 0x40000 64 1024 = none := tableAt_eq_none (by omega)
  have h3 : tableAt off 0x50000 64 1024 = none := tableAt_eq_none (by omega)
  have h4 : tableAt off 0x60000 8 256 = some (n, 0) := tableAt_eq_some (by omega) h (by decide)
  unfold State.writeFabric
  rw [h1, h2, h3, h4]

theorem State.writeFabric_group (h : n < 4096) (e : off = 0x80000 + 32 * n) : s.writeFabric off v = s.modFabric fun f =>
    { f with groups := put n ((look Group.reset f.groups n).write (f.rslots.any fun r => r.2.group = n) 0 v) f.groups } := by
  have h1 : tableAt off 0 256 1024 = none := tableAt_eq_none (by omega)
  have h2 : tableAt off 0x40000 64 1024 = none := tableAt_eq_none (by omega)
  have h3 : tableAt off 0x50000 64 1024 = none := tableAt_eq_none (by omega)
  have h4 : tableAt off 0x60000 8 256 = none := tableAt_eq_none (by omega)
  have h5 : tableAt off 0x80000 32 4096 = some (n, 0) := tableAt_eq_some (by omega) h (by decide)
  unfold State.writeFabric
  rw [h1, h2, h3, h4, h5]

theorem State.writeFabric_route (h : n < 16384) (e : off = 0xA0000 + 4 * n) :
    s.writeFabric off v = s.modFabric fun f => { f with routes := put n (v.setWidth 18) f.routes, routesSet := true } := by
  have h1 : tableAt off 0 256 1024 = none := tableAt_eq_none (by omega)
  have h2 : tableAt off 0x40000 64 1024 = none := tableAt_eq_none (by omega)
  have h3 : tableAt off 0x50000 64 1024 = none := tableAt_eq_none (by omega)
  have h4 : tableAt off 0x60000 8 256 = none := tableAt_eq_none (by omega)
  have h5 : tableAt off 0x80000 32 4096 = none := tableAt_eq_none (by omega)
  have h6 : tableAt off 0xA0000 4 16384 = some (n, 0) := tableAt_eq_some (by omega) h (by decide)
  unfold State.writeFabric
  rw [h1, h2, h3, h4, h5, h6]

theorem State.writeFabric_times : s.writeFabric 0x61000 v = s.modFabric fun f =>
    { f with closetmo := v.setWidth 16, placetmo := BitVec.ofNat 16 (wbits v 16 16), msglife := BitVec.ofNat 16 (wbits v 32 16) } := rfl

theorem State.writeFabric_coord : s.writeFabric 0x70000 v = s.modFabric fun f => { f with coord := v.setWidth 28, coordSet := true } := rfl

end fabric

theorem TxEnt.write_zero (v : Word) (e : TxEnt) :
    e.write 0 v = { e with valid := v.getLsbD 0, part := BitVec.ofNat 8 (wbits v 1 8), size := BitVec.ofNat 21 (wbits v 13 21) } := rfl

theorem RxEnt.write_zero (v : Word) (e : RxEnt) : e.write 0 v =
    if e.st = 0 then
      { e with loopback := v.getLsbD 2, redok := v.getLsbD 3, sendmap := v.getLsbD 4, part := BitVec.ofNat 8 (wbits v 5 8), keyslot := BitVec.ofNat 8 (wbits v 13 8), gen := BitVec.ofNat 16 (wbits v 21 16), size := BitVec.ofNat 21 (wbits v 37 21) }
    else { e with loopback := v.getLsbD 2, redok := v.getLsbD 3 } := by
  unfold RxEnt.write
  dsimp only
  rw [if_pos rfl]
  simp only [decide_eq_true_eq]

theorem Group.write_zero_busy (v : Word) (g : Group) : g.write true 0 v = { g with valid := v.getLsbD 0 } := rfl

theorem Group.write_zero_free (v : Word) (g : Group) : g.write false 0 v =
    { g with valid := v.getLsbD 0, part := BitVec.ofNat 8 (wbits v 1 8), op := BitVec.ofNat 4 (wbits v 9 4), parent := BitVec.ofNat 4 (wbits v 13 4), children := BitVec.ofNat 8 (wbits v 17 8) } := rfl

/-- The part of O54 about the switch's block. -/
theorem configWrites_fabric {s : State} (hb : s.arg.blk = .fabric) :
    let off := s.arg.a; let v := s.arg.v; let F := s.fabric; let bv := fun (n w : Nat) => (BitVec.ofNat w (bitsAt v n w) : BitVec w)
    let stores := fun (f : Fabric) => exec .configRegisterWrite s = .next { s with fabric := f }
    (∀ n, n < 1024 → off = 256 * n → ∃ m, mapIs TxEnt.reset n { look TxEnt.reset F.tx n with valid := v.getLsbD 0, part := bv 1 8, size := bv 13 21 } F.tx m ∧ stores { F with tx := m }) ∧
    (∀ n, n < 1024 → off = 0x40000 + 64 * n → let e := look RxEnt.reset F.rx n; let e' := { e with loopback := v.getLsbD 2, redok := v.getLsbD 3 }
      ∃ m, mapIs RxEnt.reset n (if e.st = 0 then { e' with sendmap := v.getLsbD 4, part := bv 5 8, keyslot := bv 13 8, gen := bv 21 16, size := bv 37 21 } else e') F.rx m ∧ stores { F with rx := m }) ∧
    (∀ n, n < 256 → off = 0x60000 + 8 * n → ∃ m, mapIs RGroup.reset n { look RGroup.reset F.rates n with rate := bv 0 20, max := bv 20 20 } F.rates m ∧ stores { F with rates := m }) ∧
    (∀ n, n < 4096 → off = 0x80000 + 32 * n → let g := { look Group.reset F.groups n with valid := v.getLsbD 0 }; let busy := ∃ r ∈ F.rslots, r.2.group = n
      ∃ m, (busy → mapIs Group.reset n g F.groups m) ∧ (¬ busy → mapIs Group.reset n { g with part := bv 1 8, op := bv 9 4, parent := bv 13 4, children := bv 17 8 } F.groups m) ∧ stores { F with groups := m }) ∧
    (∀ n, n < 16384 → off = 0xA0000 + 4 * n → ∃ m, mapIs 0 n (bv 0 18) F.routes m ∧ stores { F with routes := m, routesSet := true }) ∧
    (off = 0x61000 → stores { F with closetmo := bv 0 16, placetmo := bv 16 16, msglife := bv 32 16 }) ∧ (off = 0x70000 → stores { F with coord := bv 0 28, coordSet := true }) := by
  intro off v F bv stores
  have gives {f : Fabric → Fabric} (h : s.writeFabric off v = s.modFabric f) : stores (f F) := (exec_config_fabric hb).trans (congrArg _ h)
  refine ⟨fun n hn e => ⟨_, mapIs_put, ?_⟩, fun n hn e => ⟨_, mapIs_put, ?_⟩, fun n hn e => ⟨_, mapIs_put, ?_⟩, fun n hn e => ?_, fun n hn e => ⟨_, mapIs_put, ?_⟩,
    fun e => ?_, fun e => ?_⟩
  · exact gives (State.writeFabric_tx v s hn e)
  · have h := gives (State.writeFabric_rx v s hn e)
    rwa [RxEnt.write_zero] at h
  · have h := gives (State.writeFabric_rate v s hn e)
    rwa [setWidth_eq_field] at h
  · have h := gives (State.writeFabric_group v s hn e)
    refine ⟨_, fun hbusy => ?_, fun hfree => ?_, h⟩
    · have hany : F.rslots.any (fun r => r.2.group = n) = true := by simpa using hbusy
      rw [hany]
      exact mapIs_put
    · have hany : F.rslots.any (fun r => r.2.group = n) = false := by simpa using hfree
      rw [hany]
      exact mapIs_put
  · have h := gives (State.writeFabric_route v s hn e)
    rwa [setWidth_eq_field] at h
  · have h := gives (e ▸ State.writeFabric_times v s)
    rwa [setWidth_eq_field] at h
  · have h := gives (e ▸ State.writeFabric_coord v s)
    rwa [setWidth_eq_field] at h

end Sys2Proof.Machine

namespace Sys2Proof.Machine

/-! ## The chip control block -/

theorem exec_config_chip {s : State} (h : s.arg.blk = .chip) : exec .configRegisterWrite s = .next (s.writeChip s.arg.a s.arg.v) := by
  show Host.Outcome.next _ = _
  rw [h]

/-- The poison action map `a` with its word `n` replaced. -/
def pactionWith (a : BitVec 256) (n : Nat) (v : Word) : BitVec 256 :=
  BitVec.ofNat 256 (a.toNat / 2 ^ (64 * n + 64) * 2 ^ (64 * n + 64) + v.toNat * 2 ^ (64 * n) + a.toNat % 2 ^ (64 * n))

theorem getLsbD_pactionWith (a : BitVec 256) (n : Nat) (v : Word) {b : Nat} (hb : b < 256) :
    (pactionWith a n v).getLsbD b = if b / 64 = n then v.getLsbD (b % 64) else a.getLsbD b := by
  have parts : a.toNat / 2 ^ (64 * n + 64) * 2 ^ (64 * n + 64) + v.toNat * 2 ^ (64 * n) + a.toNat % 2 ^ (64 * n) =
      2 ^ (64 * n) * (2 ^ 64 * (a.toNat / 2 ^ (64 * n + 64)) + v.toNat) + a.toNat % 2 ^ (64 * n) := by ring
  have hlow : a.toNat % 2 ^ (64 * n) < 2 ^ (64 * n) := Nat.mod_lt _ (Nat.two_pow_pos _)
  unfold pactionWith
  rw [BitVec.getLsbD_ofNat, decide_eq_true hb, Bool.true_and, parts, Nat.testBit_two_pow_mul_add _ hlow, Nat.testBit_two_pow_mul_add _ v.isLt]
  by_cases h1 : b < 64 * n
  · rw [if_pos h1, if_neg (by omega), Nat.testBit_mod_two_pow, decide_eq_true h1, Bool.true_and]
    rfl
  · rw [if_neg h1]
    by_cases h2 : b - 64 * n < 64
    · rw [if_pos h2, if_pos (by omega), show b % 64 = b - 64 * n by omega]
      rfl
    · rw [if_neg h2, if_neg (by omega), Nat.testBit_div_two_pow, show b - 64 * n - 64 + (64 * n + 64) = b by omega]
      rfl

/-- The word written reads back. -/
theorem word_pactionWith (a : BitVec 256) {n : Nat} (h : n < 4) (v : Word) : (pactionWith a n v >>> (64 * n)).setWidth 64 = v := by
  refine BitVec.eq_of_getLsbD_eq fun j hj => ?_
  rw [BitVec.getLsbD_setWidth, decide_eq_true hj, Bool.true_and, BitVec.getLsbD_ushiftRight, getLsbD_pactionWith a n v (by omega),
    if_pos (by omega), show (64 * n + j) % 64 = j by omega]

section chip
variable {n off : Nat} (v : Word) (s : State)

theorem State.writeChip_paction (h : n < 4) (e : off = 0x200 + 8 * n) :
    s.writeChip off v = s.modChip fun c => { c with paction := pactionWith c.paction n v } := by
  have h1 : tableAt off 0x200 8 4 = some (n, 0) := tableAt_eq_some (by omega) h (by decide)
  unfold State.writeChip
  rw [h1]
  rfl

theorem State.writeChip_fhandle (h0 : 1 ≤ n) (h : n < 256) (e : off = 0xC00 + 8 * n) :
    s.writeChip off v = s.modChip fun c => { c with fhandle := put n v c.fhandle } := by
  have h1 : tableAt off 0x200 8 4 = none := tableAt_eq_none (by omega)
  have h2 : tableAt off 0xC00 8 256 = some (n, 0) := tableAt_eq_some (by omega) h (by decide)
  unfold State.writeChip
  rw [h1, h2]
  exact congrArg (fun f => s.modChip f) (funext fun c => if_neg (by omega))

theorem State.writeChip_sqbase : s.writeChip 0 v = s.modChip fun c => { c with sqbase := v.setWidth 48, sqlog := BitVec.ofNat 4 (wbits v 48 4) } := rfl

theorem State.writeChip_sqhead : s.writeChip 8 v = s.modChip fun c => { c with sqhead := v.setWidth 32 } := rfl

theorem State.writeChip_lost : s.writeChip 0x10 v = s.modChip fun c => { c with lost := c.lost &&& ~~~(v.setWidth 32) } := rfl

theorem State.writeChip_rstPart : s.writeChip 0x100 v = s.modChip fun c => { c with rstPart := v.setWidth 8 } := rfl

theorem State.writeChip_wdog : s.writeChip 0x310 v = s.modChip fun c => { c with wdog := s.cycle } := rfl

theorem State.writeChip_full : s.writeChip 0x1800 v = s.modChip fun c => { c with fullEn := v.getLsbD 0, fullBase := BitVec.ofNat 6 (wbits v 34 6) } := rfl

end chip

/-- The part of O54 about the chip control block. -/
theorem configWrites_chip {s : State} (hb : s.arg.blk = .chip) :
    let off := s.arg.a; let v := s.arg.v; let c := s.chip; let bv := fun (n w : Nat) => (BitVec.ofNat w (bitsAt v n w) : BitVec w)
    let stores := fun (x : Chip) => exec .configRegisterWrite s = .next { s with chip := x }
    (∀ n, n < 4 → off = 0x200 + 8 * n → ∃ a : BitVec 256, (∀ b, b < 256 → a.getLsbD b = if b / 64 = n then v.getLsbD (b % 64) else c.paction.getLsbD b) ∧
      stores { c with paction := a }) ∧
    (∀ p, 1 ≤ p → p < 256 → off = 0xC00 + 8 * p → ∃ m, mapIs 0 p v c.fhandle m ∧ stores { c with fhandle := m }) ∧
    (off = 0 → stores { c with sqbase := bv 0 48, sqlog := bv 48 4 }) ∧ (off = 8 → stores { c with sqhead := bv 0 32 }) ∧
    (off = 0x10 → stores { c with lost := c.lost &&& ~~~(bv 0 32) }) ∧ (off = 0x100 → stores { c with rstPart := bv 0 8 }) ∧
    (off = 0x310 → stores { c with wdog := s.cycle }) ∧ (off = 0x1800 → stores { c with fullEn := v.getLsbD 0, fullBase := bv 34 6 }) := by
  intro off v c bv stores
  have gives {f : Chip → Chip} (h : s.writeChip off v = s.modChip f) : stores (f c) := (exec_config_chip hb).trans (congrArg _ h)
  refine ⟨fun n hn e => ⟨pactionWith c.paction n v, fun b => getLsbD_pactionWith _ n v, gives (State.writeChip_paction v s hn e)⟩,
    fun p h0 hp e => ⟨_, mapIs_put, gives (State.writeChip_fhandle v s h0 hp e)⟩, fun e => ?_, fun e => ?_, fun e => ?_, fun e => ?_,
    fun e => gives (e ▸ State.writeChip_wdog v s), fun e => gives (e ▸ State.writeChip_full v s)⟩
  · have h := gives (e ▸ State.writeChip_sqbase v s)
    rwa [setWidth_eq_field] at h
  · have h := gives (e ▸ State.writeChip_sqhead v s)
    rwa [setWidth_eq_field] at h
  · have h := gives (e ▸ State.writeChip_lost v s)
    rwa [setWidth_eq_field] at h
  · have h := gives (e ▸ State.writeChip_rstPart v s)
    rwa [setWidth_eq_field] at h

theorem State.readChip_paction {n off : Nat} (h : n < 4) (e : off = 0x200 + 8 * n) (s : State) :
    s.readChip off = (s.chip.paction >>> (64 * n)).setWidth 64 := by
  have h1 : tableAt off 0x200 8 4 = some (n, 0) := tableAt_eq_some (by omega) h (by decide)
  unfold State.readChip
  rw [h1]

/-- FULLEN and FULLBASE are bit 0 and bits 34 to 39. -/
theorem fields_full (v : Word) : fields [(0, (v.getLsbD 0).toNat), (34, (BitVec.ofNat 6 (wbits v 34 6)).toNat)] = v &&& BitVec.ofNat 64 (0x3F * 2 ^ 34 + 1) := by
  refine fields_eq ?_
  rw [BitVec.toNat_and, and_eq_parts _ _ 34, show (BitVec.ofNat 64 (0x3F * 2 ^ 34 + 1)).toNat / 2 ^ 34 = 2 ^ 6 - 1 from rfl,
    show (BitVec.ofNat 64 (0x3F * 2 ^ 34 + 1)).toNat % 2 ^ 34 = 2 ^ 1 - 1 from rfl, Nat.and_two_pow_sub_one_eq_mod, Nat.and_two_pow_sub_one_eq_mod]
  simp only [fieldSum, toNat_field, toNat_getLsbD, Nat.reducePow]
  omega

theorem configReads_chip {s : State} (hb : s.arg.blk = .chip) :
    let off := s.arg.a; let reads := fun (mask : Nat) => s.gives .configRegisterWrite fun t => t.configRead s.arg.blk off = s.arg.v &&& BitVec.ofNat 64 mask
    (off = 0x1800 → reads (0x3F * 2 ^ 34 + 1)) ∧ (∀ n, n < 4 → off = 0x200 + 8 * n → reads (2 ^ 64 - 1)) ∧ (off = 0x310 → s.configRead s.arg.blk off = 0) := by
  intro off reads
  have gives {f : Chip → Chip} (h : s.writeChip off s.arg.v = s.modChip f) {w : Word} (hr : ∀ t : State, t.chip = f s.chip → t.readChip off = w) :
      s.gives .configRegisterWrite fun t => t.configRead s.arg.blk off = w :=
    ⟨_, (exec_config_chip hb).trans (congrArg _ h), hb ▸ hr _ rfl⟩
  refine ⟨fun e => ?_, fun n hn e => ?_, fun e => ?_⟩
  · refine gives (e ▸ State.writeChip_full s.arg.v s) fun t ht => ?_
    have hr : t.readChip 0x1800 = fields [(0, t.chip.fullEn.toNat), (34, t.chip.fullBase.toNat)] := rfl
    rw [e, hr, ht, fields_full]
  · refine gives (State.writeChip_paction s.arg.v s hn e) fun t ht => ?_
    rw [State.readChip_paction hn e, ht, word_pactionWith _ hn, and_allOnes]
  · rw [hb, e]
    rfl

end Sys2Proof.Machine

namespace Sys2Proof.Machine

/-! ## Partitions -/

theorem exec_config_partition {p : Nat} {s : State} (h : s.arg.blk = .partition p) :
    exec .configRegisterWrite s = .next (s.writePart p s.arg.a s.arg.v) := by
  show Host.Outcome.next _ = _
  rw [h]

/-- Partition descriptor `d` of partition `p` after a write of its word at `off`. -/
def Part.written (p off : Nat) (v : Word) (d : Part) : Part :=
  if off = 0 then { d with
    partno := v.setWidth 8, known := decide (wbits v 0 8 = p) && decide (p ≠ 0), collo := BitVec.ofNat 4 (wbits v 8 4), rowlo := BitVec.ofNat 4 (wbits v 12 4),
    colhi := BitVec.ofNat 4 (wbits v 16 4), rowhi := BitVec.ofNat 4 (wbits v 20 4), key := BitVec.ofNat 14 (wbits v 24 14),
    keyslot := BitVec.ofNat 8 (wbits v 38 8) }
  else if off = 8 then { d with runlimit := v.setWidth 32, gbase := BitVec.ofNat 12 (wbits v 32 12), gcount := BitVec.ofNat 13 (wbits v 44 13) }
  else d

theorem State.gives_partition {s : State} {p : Nat} (hb : s.arg.blk = .partition p) : s.gives .configRegisterWrite fun t =>
    t = { s with parts := t.parts } ∧ ∀ j, t.part j = if j = p then (s.part p).written p s.arg.a s.arg.v else s.part j :=
  ⟨_, exec_config_partition hb, rfl, fun j => State.part_modPart p j (Part.written p s.arg.a s.arg.v) s⟩

/-- The part of O54 about a partition's descriptor. -/
theorem configWrites_partition {s : State} {p : Nat} (hb : s.arg.blk = .partition p) :
    let off := s.arg.a; let v := s.arg.v; let d := s.part p; let bv := fun (n w : Nat) => (BitVec.ofNat w (bitsAt v n w) : BitVec w)
    let stores := fun (x : Part) => s.gives .configRegisterWrite fun t => t = { s with parts := t.parts } ∧ ∀ j, t.part j = if j = p then x else s.part j
    (off = 0 → stores { d with partno := bv 0 8, known := decide (bitsAt v 0 8 = p) && decide (p ≠ 0), collo := bv 8 4, rowlo := bv 12 4, colhi := bv 16 4, rowhi := bv 20 4, key := bv 24 14, keyslot := bv 38 8 }) ∧
    (off = 8 → stores { d with runlimit := bv 0 32, gbase := bv 32 12, gcount := bv 44 13 }) ∧ (off ≠ 0 → off ≠ 8 → stores d) := by
  intro off v d bv stores
  have h := State.gives_partition hb
  refine ⟨fun e => ?_, fun e => ?_, fun e0 e8 => ?_⟩
  · rwa [Part.written, if_pos e, setWidth_eq_field] at h
  · rwa [Part.written, if_neg (by omega), if_pos e, setWidth_eq_field] at h
  · rwa [Part.written, if_neg e0, if_neg e8] at h

/-- What the first word of a descriptor reads, STATE being `st`, after a write of it. -/
theorem Part.words_written_zero (p : Nat) (v : Word) (d : Part) (st : BitVec 2) :
    ({ d.written p 0 v with st := st } : Part).words.getD 0 0 = (v &&& BitVec.ofNat 64 (2 ^ 46 - 1)) ||| (st.setWidth 64 <<< 46) := by
  have hst : st.toNat < 2 ^ 2 := st.isLt
  have hlow : v.toNat % 2 ^ 46 < 2 ^ 46 := Nat.mod_lt _ (by decide)
  refine BitVec.eq_of_toNat_eq ?_
  rw [BitVec.toNat_or, and_lowMask (by decide), BitVec.toNat_shiftLeft, BitVec.toNat_setWidth, Nat.shiftLeft_eq, Nat.mod_eq_of_lt (by omega : st.toNat < 2 ^ 64),
    Nat.mod_eq_of_lt (by omega : st.toNat * 2 ^ 46 < 2 ^ 64), Nat.lor_comm, ← Nat.shiftLeft_eq, ← Nat.shiftLeft_add_eq_or_of_lt hlow, Nat.shiftLeft_eq]
  unfold Part.words Part.written w64
  rw [if_pos rfl]
  show (BitVec.ofNat 64 _).toNat = _
  simp only [BitVec.toNat_ofNat, BitVec.toNat_setWidth, wbits, Nat.reducePow] at hst hlow ⊢
  omega

/-- The second word reads back RUNLIMIT, GBASE and GCOUNT. -/
theorem Part.words_written_eight (p : Nat) (v : Word) (d : Part) (st : BitVec 2) :
    ({ d.written p 8 v with st := st } : Part).words.getD 1 0 = v &&& BitVec.ofNat 64 (2 ^ 57 - 1) := by
  refine BitVec.eq_of_toNat_eq ?_
  rw [and_lowMask (by decide)]
  unfold Part.words Part.written w64
  rw [if_neg (by decide), if_pos rfl]
  show (BitVec.ofNat 64 _).toNat = _
  simp only [BitVec.toNat_ofNat, BitVec.toNat_setWidth, wbits, Nat.reducePow]
  omega

theorem configReads_partition {s : State} {p : Nat} (hb : s.arg.blk = .partition p) :
    let off := s.arg.a; let v := s.arg.v
    (off = 0 → s.gives .configRegisterWrite fun t => t.configRead s.arg.blk off = (v &&& BitVec.ofNat 64 (2 ^ 46 - 1)) ||| ((t.stateOf p).setWidth 64 <<< 46)) ∧
    (off = 8 → s.gives .configRegisterWrite fun t => t.configRead s.arg.blk off = v &&& BitVec.ofNat 64 (2 ^ 57 - 1)) ∧
    (16 ≤ off → s.configRead s.arg.blk off = 0) := by
  intro off v
  obtain ⟨t, he, -, hpart⟩ := State.gives_partition hb
  have hp : t.part p = (s.part p).written p off v := (hpart p).trans (if_pos rfl)
  have read : t.configRead s.arg.blk off = ({ (s.part p).written p off v with st := t.stateOf p } : Part).words.getD (off / 8) 0 := by
    rw [hb, ← hp]
    rfl
  refine ⟨fun e => ⟨t, he, ?_⟩, fun e => ⟨t, he, ?_⟩, fun e => ?_⟩
  · refine read.trans ?_
    rw [e]
    exact Part.words_written_zero ..
  · refine read.trans ?_
    rw [e]
    exact Part.words_written_eight ..
  · rw [hb]
    exact List.getD_eq_default _ _ (by show 2 ≤ off / 8; omega)

/-! ## The whole -/

/-- A supervisor's registers are written by steps of their own. -/
theorem exec_config_supervisor {n : Nat} {s : State} (h : s.arg.blk = .supervisor n) : exec .configRegisterWrite s = .next s := by
  show Host.Outcome.next _ = _
  rw [h]

/-- Settles O54, block by block: the table that holds the offset is found, and the others do not. -/
theorem configurationWrites : Obligations.ConfigurationWrites := by
  unfold Obligations.ConfigurationWrites
  intro s
  exact ⟨fun c hb => configWrites_core hb, fun c hb => configWrites_cluster hb, configWrites_launch, configWrites_fabric, configWrites_chip,
    fun p hb => configWrites_partition hb, fun n hb => exec_config_supervisor hb,
    fun c hb => configReads_core hb, fun c hb => configReads_cluster hb, fun p hb => configReads_partition hb, configReads_chip⟩

end Sys2Proof.Machine

namespace Sys2Proof.Machine

/-! # The reset state (O58) -/

@[simp] theorem State.reset_slot (k : Nat) : State.reset.slot k = Slot.reset := rfl
@[simp] theorem State.reset_core (c : Nat) : State.reset.core c = Core.reset := rfl
@[simp] theorem State.reset_cluster (c : Nat) : State.reset.cluster c = Cluster.reset := rfl
@[simp] theorem State.reset_bank (c b : Nat) : State.reset.bank c b = Bank.reset := rfl
@[simp] theorem State.reset_part (p : Nat) : State.reset.part p = Part.reset := rfl
@[simp] theorem State.reset_launch : State.reset.launch = Launch.reset := rfl
@[simp] theorem State.reset_lqueue (q : Nat) : State.reset.lqueue q = LQueue.reset := rfl
@[simp] theorem State.reset_cqueue (q : Nat) : State.reset.cqueue q = CQueue.reset := rfl
@[simp] theorem State.reset_event (n : Nat) : State.reset.event n = EvReg.reset := rfl
@[simp] theorem State.reset_slice (p : Nat) : State.reset.slice p = Slice.reset := rfl
@[simp] theorem Slot.reset_getX (q : Reg) : Slot.reset.getX q = 0 := ite_self _

/-- Settles O58: every table of the reset state is empty, so that each of its entries reads its reset value. -/
theorem resetState : Obligations.ResetState := by
  have units : State.reset.cycle = 0 ∧ State.reset.time = 0 ∧ State.reset.halted = none ∧ State.reset.net = [] ∧ State.reset.chip = Chip.reset :=
    ⟨rfl, rfl, rfl, rfl, rfl⟩
  obtain ⟨hcycle, htime, hhalted, hnet, hchip⟩ := units
  refine ⟨hcycle, htime, hhalted, reset_mem_wf, by rw [hchip]; rfl, hnet, by rw [hchip]; rfl, by rw [hchip]; rfl, by rw [hchip]; rfl,
    fun a => ⟨rfl, rfl, rfl⟩, fun k => ?slots, fun c => ?cores, rfl, fun c => ?clusters, fun p => ?parts, fun k => rfl, fun q => ?launch, fun n => ?fabric⟩
  case slots =>
    rw [State.reset_slot]
    exact ⟨rfl, rfl, rfl, rfl, fun q => ⟨Slot.reset_getX q, rfl⟩⟩
  case cores =>
    rw [State.reset_core]
    exact ⟨rfl, rfl, rfl, rfl, rfl, rfl, rfl, rfl, rfl, rfl, rfl⟩
  case clusters =>
    rw [State.reset_cluster]
    refine ⟨rfl, rfl, rfl, rfl, fun b => ?_⟩
    rw [State.reset_bank]
    exact ⟨rfl, rfl, rfl⟩
  case parts =>
    rw [State.reset_part]
    exact ⟨rfl, rfl⟩
  case launch =>
    rw [State.reset_lqueue, State.reset_cqueue, State.reset_event, State.reset_slice]
    exact ⟨rfl, rfl, rfl, rfl, rfl, rfl, rfl, rfl, rfl, rfl, rfl, rfl⟩
  case fabric => exact ⟨rfl, rfl, rfl, rfl⟩

end Sys2Proof.Machine

namespace Sys2Proof.Machine

/-! # Wakes of parked slots (O22) -/

section wakes
variable {s : State} {k : Nat}

/-- Slot `k`'s parked instruction has retired with `v` in x[rd], and nothing else has changed but the slot's own account of its park. -/
def State.wakesWith (k : Nat) (rd : Reg) (v : Word) (s t : State) : Prop :=
  s.onlySlot k t ∧ (s.slot k).xIs rd v (t.slot k) ∧ (t.slot k).park = .run ∧ (t.slot k).retired = (s.slot k).retired + 1 ∧
  (t.slot k).pc = ((s.slot k).seq 4).pc

theorem State.wakesWith_deliverX (rd : Reg) (v : Word) : s.wakesWith k rd v (s.deliverX k rd v) := by
  unfold State.deliverX State.completeAt
  rw [State.modSlot_modSlot]
  refine ⟨State.onlySlot_modSlot .., ?_⟩
  rw [State.slot_modSlot_same]
  refine ⟨⟨?_, ?_, ?_, fun q => ?_⟩, rfl, ?_, ?_⟩
  · simp
  · simp
  · simp
  · rw [← Slot.getX_setX]
    unfold Slot.getX
    simp
  · simp
  · exact (Slot.seq_congr 4 (by simp) (by simp) (by simp) (by simp)).1

theorem State.finishWait_running (h : (s.slot k).frozen = false) (rd : Nat) (v : Word) (sc : Nat) :
    s.finishWait k rd v sc = s.deliverX k (BitVec.ofNat 5 rd) v := if_neg (by rw [h]; exact Bool.false_ne_true)

theorem State.finishWait_frozen (h : (s.slot k).frozen = true) (rd : Nat) (v : Word) (sc : Nat) :
    s.finishWait k rd v sc = s.modSlot k fun sl => { sl with park := .give rd v sc, woken := true } := if_pos h

theorem State.rerun_running (h : (s.slot k).frozen = false) : s.rerun k = s.unpark k := if_neg (by rw [h]; exact Bool.false_ne_true)

theorem State.rerun_frozen (h : (s.slot k).frozen = true) : s.rerun k = s.modSlot k fun sl => { sl with woken := true } := if_pos h

/-- An acquire where the L1 holds nothing changes nothing. -/
theorem State.acquire_of_nil (h : (s.cluster (domainOf (coreOf k))).l1 = []) (scope : Scope) : s.acquire k scope = s := by
  have hflush : s.flushL1 (domainOf (coreOf k)) = s := if_pos (by rw [h]; rfl)
  unfold State.acquire
  rw [hflush, ite_self]

theorem exec_slotWake_again {w : Wait} (h : (s.slot s.arg.a).park = .again w) :
    exec .slotWake s = .next (if s.waitOver s.arg.a w then s.rerun s.arg.a else s.defer) := by
  show Host.Outcome.next _ = _
  rw [h]

theorem exec_slotWake_give {rd sc : Nat} {v : Word} (h : (s.slot s.arg.a).park = .give rd v sc) :
    exec .slotWake s = .next (s.finishWait s.arg.a rd v sc) := by
  show Host.Outcome.next _ = _
  rw [h]

theorem exec_slotWake_barrier {h : Home} {a : Word} {p : Bool} {rd sc : Nat} {scope : Scope}
    (hp : (s.slot s.arg.a).park = .barrier (some h) a p rd sc scope) (hpoison : s.homePoison h = false) :
    exec .slotWake s = .next (if (s.word8 h).getLsbD 0 ≠ p then (s.acquire s.arg.a scope).finishWait s.arg.a rd (s.word8 h) sc else s.defer) := by
  show Host.Outcome.next _ = _
  rw [hp]
  exact congrArg _ (if_neg (by rw [hpoison]; exact Bool.false_ne_true))

theorem exec_slotWake_group {g sc : Nat} {join : Bool} (h : (s.slot s.arg.a).park = .group g join sc) :
    exec .slotWake s = .next (((s.recordGroup s.arg.a g join).map fun t => t.finishWait s.arg.a 0 0 sc).getD s.defer) := by
  show execSlotWake s = _
  unfold execSlotWake
  dsimp only
  rw [h]
  dsimp only
  cases s.recordGroup s.arg.a g join <;> rfl

theorem State.word8_sram (s : State) (c off : Nat) : s.word8 (.sram c off) = BitVec.ofNat 64 (ofBytes (s.bytesAt (sramKey c off) 8)) := by
  unfold State.word8
  rw [State.homeBytes_sram]

/-- A wake with a result: the slot gets it, or while frozen keeps it for the thaw (R123). -/
theorem State.finishWait_spec (rd : Reg) (v : Word) (sc : Nat) :
    ((s.slot k).frozen = false → s.wakesWith k rd v (s.finishWait k rd.toNat v sc)) ∧
    ((s.slot k).frozen = true → s.onlySlot k (s.finishWait k rd.toNat v sc) ∧
      (s.finishWait k rd.toNat v sc).slot k = { s.slot k with park := .give rd.toNat v sc, woken := true }) := by
  refine ⟨fun hf => ?_, fun hf => ?_⟩
  · rw [State.finishWait_running hf, BitVec.ofNat_toNat, BitVec.setWidth_eq]
    exact State.wakesWith_deliverX rd v
  · rw [State.finishWait_frozen hf]
    exact ⟨State.onlySlot_modSlot .., State.slot_modSlot_same ..⟩

end wakes

/-- Settles O22, park by park. -/
theorem slotWakes : Obligations.SlotWakes := by
  unfold Obligations.SlotWakes
  intro s k sl gets holds
  refine ⟨fun w hp hw => ?_, fun w hp hw hf => ?_, fun w hp hw hf => ?_, fun rd v sc hp => ?_, fun c off a p rd n sc hp hpoison => ?_⟩
  · rw [exec_slotWake_again hp, if_neg (by rw [hw]; exact Bool.false_ne_true)]
    rfl
  · refine ⟨_, (exec_slotWake_again hp).trans (congrArg _ (if_pos hw)), ?_⟩
    rw [State.rerun_running hf]
    refine ⟨State.onlySlot_modSlot .., (State.slot_modSlot_same ..).trans ?_⟩
    rw [hp, hf]
    rfl
  · refine ⟨_, (exec_slotWake_again hp).trans (congrArg _ (if_pos hw)), ?_⟩
    rw [State.rerun_frozen hf]
    exact ⟨State.onlySlot_modSlot .., State.slot_modSlot_same ..⟩
  · obtain ⟨hgets, hholds⟩ := State.finishWait_spec (s := s) (k := k) rd v sc
    exact ⟨fun hf => ⟨_, exec_slotWake_give hp, hgets hf⟩, fun hf => ⟨_, exec_slotWake_give hp, hholds hf⟩⟩
  · have e := exec_slotWake_barrier hp hpoison
    rw [State.word8_sram] at e
    refine ⟨fun hphase => ?_, fun hphase hl1 => ?_⟩
    · rw [e, if_neg (not_not_intro hphase)]
      rfl
    · rw [if_pos hphase, State.acquire_of_nil hl1] at e
      obtain ⟨hgets, hholds⟩ := State.finishWait_spec (s := s) (k := k) rd (BitVec.ofNat 64 (ofBytes (s.bytesAt (sramKey c off) 8))) n
      exact ⟨fun hf => ⟨_, e, hgets hf⟩, fun hf => ⟨_, e, hholds hf⟩⟩

end Sys2Proof.Machine

namespace Sys2Proof.Machine

/-! # Group membership (O23) -/

section groups
variable {s : State} {k : Nat}

/-- The slot in hand parks, and the wake that it waits for stands out. -/
theorem State.parkMe_post (p : Park) (sc : Nat) (s : State) : let t := (s.parkMe p sc).post .slotWake (arg1 s.cur)
    s.onlySlotPosts s.cur t ∧ t.work = s.work ++ [⟨.slotWake, arg1 s.cur⟩] ∧ s.me.parksAs p (s.cycle + 1 + sc) t.me := by
  obtain ⟨honly, hparks⟩ := State.parkMe_spec p sc s
  exact ⟨State.onlySlot_post honly .., rfl, hparks⟩

theorem State.gives_changeGroup_outside {i : Sys2Proof.Instr} {g : BitVec 12} {join : Bool} {sc : Nat} (e : exec i s = .next (s.changeGroup g join sc))
    (h : ¬ s.groupInRange s.myCore g.toNat = true) : s.gives i (s.trapsWith cPROTECTION (g.setWidth 64)) := by
  have ht : s.changeGroup g join sc = s.trap cPROTECTION (g.setWidth 64) := if_pos (by simpa using h)
  exact ⟨_, e, ht ▸ State.trap_trapsWith _ _ s (by decide)⟩

theorem State.gives_changeGroup_inRange {i : Sys2Proof.Instr} {g : BitVec 12} {join : Bool} {sc : Nat} (e : exec i s = .next (s.changeGroup g join sc))
    (h : s.groupInRange s.myCore g.toNat = true) : s.gives i fun t => s.onlySlotPosts s.cur t ∧ t.work = s.work ++ [⟨.slotWake, arg1 s.cur⟩] ∧
      s.me.parksAs (.group g.toNat join sc) (s.cycle + 1 + sc) t.me := by
  have ht : s.changeGroup g join sc = (s.parkMe (.group g.toNat join sc) sc).post .slotWake (arg1 s.cur) := if_neg (by rw [h]; nofun)
  exact ⟨_, e, ht ▸ State.parkMe_post ..⟩

theorem State.recordGroup_join (h : s.member k g = none) (hroom : s.fabric.members.length < 16384) :
    s.recordGroup k g true = some (s.joinGroup k g) := by
  unfold State.recordGroup
  rw [h]
  exact (if_neg nofun).trans (if_neg (Nat.not_le.2 hroom))

theorem State.recordGroup_full (h : s.member k g = none) (hfull : 16384 ≤ s.fabric.members.length) : s.recordGroup k g true = none := by
  unfold State.recordGroup
  rw [h]
  exact (if_neg nofun).trans (if_pos hfull)

/-- A join by a member and a leave by a non-member change nothing (R32). -/
theorem State.recordGroup_unchanged {join : Bool} (h : (s.member k g).isSome = join) : s.recordGroup k g join = some s := by
  unfold State.recordGroup
  cases hm : s.member k g <;> rw [hm] at h <;> subst h <;> rfl

theorem State.recordGroup_leave {m : Member} (h : s.member k g = some m) : s.recordGroup k g false = some (s.leaveGroup g m) := by
  unfold State.recordGroup
  rw [h]
  rfl

/-- Where nothing of the group is under way, a leave takes the member's record out and does no more. -/
theorem State.leaveGroup_of_no_instance {g : Nat} {m : Member} (h : ∀ r ∈ s.fabric.rslots, r.2.group ≠ g) :
    s.leaveGroup g m = s.modFabric fun fb => { fb with members := fb.members.erase m } := by
  have hnone : ∀ p : Nat × RSlot → Bool, s.fabric.rslots.filter (fun r => decide (r.2.group = g) && p r) = [] := fun p =>
    List.filter_eq_nil_iff.2 fun r hr => by simp [h r hr]
  unfold State.leaveGroup
  simp only [Bool.and_assoc]
  exact congrArg (List.foldl _ _) (hnone _)

/-- The members of the groups are `l`, and slot `k` has retired; nothing else has changed. -/
def State.changesMembers (k : Nat) (l : List Member) (s t : State) : Prop :=
  t = { s with slots := t.slots, fabric := { s.fabric with members := l } } ∧ (∀ j, j ≠ k → t.slot j = s.slot j) ∧ (s.slot k).keepsRegs (t.slot k) ∧
  (t.slot k).park = .run ∧ (t.slot k).retired = (s.slot k).retired + 1 ∧ (t.slot k).pc = ((s.slot k).seq 4).pc

/-- A running slot's gjoin or gleave completes once the table has taken the change. -/
theorem State.gives_recorded {g sc : Nat} {join : Bool} {l : List Member} {u : State} (hp : (s.slot s.arg.a).park = .group g join sc)
    (hf : (s.slot s.arg.a).frozen = false) (h : s.recordGroup s.arg.a g join = some u) (hu : u = { s with fabric := { s.fabric with members := l } }) :
    s.gives .slotWake (s.changesMembers s.arg.a l) := by
  have e := exec_slotWake_group hp
  rw [h] at e
  refine ⟨_, e, ?_⟩
  subst hu
  generalize hu : ({ s with fabric := { s.fabric with members := l } } : State) = u
  have hslot (j : Nat) : u.slot j = s.slot j := hu ▸ rfl
  show s.changesMembers s.arg.a l (u.finishWait s.arg.a 0 0 sc)
  rw [State.finishWait_running ((congrArg Slot.frozen (hslot _)).trans hf)]
  obtain ⟨⟨heq, hother⟩, -, hpark, hretired, hpc⟩ := State.wakesWith_deliverX (s := u) (k := s.arg.a) (0 : Reg) 0
  rw [hslot] at hretired hpc
  refine ⟨?_, fun j hj => (hother j hj).trans (hslot j), ?_, hpark, hretired, hpc⟩
  · rw [← hu] at heq ⊢
    exact heq
  · show (s.slot s.arg.a).keepsRegs ((u.deliverX s.arg.a 0 0).slot s.arg.a)
    unfold State.deliverX State.completeAt
    rw [State.modSlot_modSlot, State.slot_modSlot_same, hslot]
    exact ⟨Slot.seq_x .., Slot.seq_f .., Slot.seq_p .., Slot.seq_pend ..⟩

/-- What is put in at a key that is not listed, and that a selection passes over, changes nothing that it selects. -/
theorem filter_map_put {α : Type} {key : Nat} {v : α} {p : α → Bool} {m : SMap α} (h : ∀ e ∈ m, e.1 ≠ key) (hv : p v = false) :
    ((put key v m).map fun e => e.2).filter p = (m.map fun e => e.2).filter p := by
  have hcons (l : List α) : (v :: l).filter p = l.filter p := List.filter_cons_of_neg (by rw [hv]; nofun)
  induction m with
  | nil => exact hcons []
  | cons e m ih =>
    have he : ¬ key = e.1 := fun h' => h e (List.mem_cons_self ..) h'.symm
    rw [put]
    by_cases hlt : key < e.1
    · rw [if_pos hlt]
      exact hcons _
    · rw [if_neg hlt, if_neg he, List.map_cons, List.map_cons, List.filter_cons, List.filter_cons,
        ih fun x hx => h x (List.mem_cons_of_mem _ hx)]

/-- A leaver's part, present without a value, changes neither the fold nor the counts (R33). -/
theorem RSlot.fold_absent {op key : Nat} {r : RSlot} (h : ∀ e ∈ r.got, e.1 ≠ key) :
    RSlot.fold op { r with got := put key (0, 0, 0) r.got } = RSlot.fold op r := by
  unfold RSlot.fold
  dsimp only
  rw [filter_map_put h rfl]

end groups

/-- Settles O23: gjoin and gleave park, and the wake records the change; the fold passes over a part that carries no value. -/
theorem groupMembership : Obligations.GroupMembership := by
  unfold Obligations.GroupMembership
  refine ⟨?_, ?_, fun op key r h => RSlot.fold_absent h⟩
  · intro s g sc n fits parks
    exact ⟨fun h => ⟨State.gives_changeGroup_outside rfl h, State.gives_changeGroup_outside rfl h⟩,
      fun h => ⟨State.gives_changeGroup_inRange rfl h, State.gives_changeGroup_inRange rfl h⟩⟩
  · intro s n sc join k sl a changesMembers hp hf
    refine ⟨fun hj hm hroom => ?_, fun hj hm hfull => ?_, fun hj hm => ?_, fun hj hm => ?_, fun m hj hm hinst => ?_⟩ <;> subst hj
    · exact State.gives_recorded hp hf (State.recordGroup_join hm hroom) rfl
    · rw [exec_slotWake_group hp, State.recordGroup_full hm hfull]
      rfl
    · exact State.gives_recorded hp hf (State.recordGroup_unchanged hm) rfl
    · exact State.gives_recorded hp hf (State.recordGroup_unchanged (by rw [hm]; rfl)) rfl
    · exact State.gives_recorded hp hf (State.recordGroup_leave hm) (State.leaveGroup_of_no_instance hinst)

end Sys2Proof.Machine

namespace Sys2Proof.Machine

/-! # What leaves slots and memory alone

Groups, credits, packets and the ends of activations change the cores' and other units' books, and what is on its way. -/

/-- `t` is `s` but for the books of cores, engines, launch unit and switch, what is on its way, the steps that stand out, and the model's own counts. -/
def State.booksOnly (s t : State) : Prop :=
  t = { s with cores := t.cores, sectors := t.sectors, launch := t.launch, fabric := t.fabric, net := t.net, netOut := t.netOut, work := t.work,
               serial := t.serial, fresh := t.fresh }

namespace State.booksOnly
variable {s t u : State}

protected theorem rfl : s.booksOnly s := Eq.refl s

theorem trans (h : s.booksOnly t) (h' : t.booksOnly u) : s.booksOnly u := by
  unfold State.booksOnly at *
  rw [h', h]

theorem slots (h : s.booksOnly t) : t.slots = s.slots := by rw [h]
theorem slot (h : s.booksOnly t) (k : Nat) : t.slot k = s.slot k := by rw [State.slot, h.slots]; rfl
theorem cur (h : s.booksOnly t) : t.cur = s.cur := by rw [h]
theorem me (h : s.booksOnly t) : t.me = s.me := by rw [State.me, h.slot, h.cur]; rfl
theorem cycle (h : s.booksOnly t) : t.cycle = s.cycle := by rw [h]
theorem mem (h : s.booksOnly t) : t.mem = s.mem := by rw [h]
theorem full (h : s.booksOnly t) : t.full = s.full := by rw [h]
theorem poison (h : s.booksOnly t) : t.poison = s.poison := by rw [h]
theorem clusters (h : s.booksOnly t) : t.clusters = s.clusters := by rw [h]
theorem parts (h : s.booksOnly t) : t.parts = s.parts := by rw [h]
theorem chip (h : s.booksOnly t) : t.chip = s.chip := by rw [h]
theorem numOf (h : s.booksOnly t) (c : Nat) : t.numOf c = s.numOf c := by unfold State.numOf State.chipNo; rw [h.chip]

theorem ite {c : Prop} [Decidable c] (ht : s.booksOnly t) (hu : s.booksOnly u) : s.booksOnly (if c then t else u) := by
  split
  · exact ht
  · exact hu

theorem foldl {α : Type} {f : State → α → State} (hf : ∀ (u : State) a, u.booksOnly (f u a)) (l : List α) (h : s.booksOnly t) : s.booksOnly (l.foldl f t) := by
  induction l generalizing t with
  | nil => exact h
  | cons a l ih => exact ih (h.trans (hf t a))

end State.booksOnly

section books
variable (s : State)

theorem State.booksOnly_sendPacket (a b : Nat) (y : Body) : s.booksOnly (s.sendPacket a b y) := by
  unfold State.sendPacket State.number
  exact State.booksOnly.ite rfl rfl

theorem State.booksOnly_expEnd (c : Nat) (e : Option (Nat × Nat)) (reason : Nat) : s.booksOnly (s.expEnd c e reason) := by
  cases e with
  | none => exact State.booksOnly.rfl
  | some e => exact s.booksOnly_sendPacket ..

theorem State.booksOnly_groupEvents (g status : Nat) : s.booksOnly (s.groupEvents g status) := rfl

theorem State.booksOnly_groupDeliver (g : Nat) (num : BitVec 16) (v : Word) (status count nan : Nat) :
    s.booksOnly (s.groupDeliver g num v status count nan) := by
  unfold State.groupDeliver
  extract_lets e members next group events children
  have hpost (u : State) (j : Nat) : u.booksOnly (u.post .slotWake (arg1 j)) := rfl
  have hgroup : s.booksOnly group := rfl
  have hevents : group.booksOnly events := State.booksOnly_groupEvents ..
  have hchildren : events.booksOnly children := rfl
  exact State.booksOnly.foldl hpost _ (hgroup.trans (hevents.trans hchildren))

theorem State.booksOnly_groupComplete (i status : Nat) : s.booksOnly (s.groupComplete i status) := by
  unfold State.groupComplete
  split
  · exact State.booksOnly.rfl
  · exact State.booksOnly.ite (s.booksOnly_groupDeliver ..) (State.booksOnly.ite rfl rfl)

theorem State.booksOnly_leaveGroup (g : Nat) (m : Member) : s.booksOnly (s.leaveGroup g m) := by
  unfold State.leaveGroup
  refine State.booksOnly.foldl (fun u e => ?_) _ (Eq.refl _)
  extract_lets _ r present
  have hpresent : u.booksOnly present := rfl
  exact (hpresent.trans (State.booksOnly_groupComplete ..)).ite hpresent

theorem State.booksOnly_leaveAll (k : Nat) : s.booksOnly (s.leaveAll k) :=
  State.booksOnly.ite rfl (State.booksOnly.foldl (fun _ _ => State.booksOnly_leaveGroup ..) _ rfl)

theorem State.booksOnly_endAuctions (k : Nat) : s.booksOnly (s.endAuctions k) := State.booksOnly.ite rfl rfl

theorem State.booksOnly_forgetPops (k : Nat) : s.booksOnly (s.forgetPops k) := rfl

theorem State.booksOnly_stir (c : Nat) : s.booksOnly (s.stir c) := rfl

/-- A packet that has been handed to the network is there, or has left the chip. -/
theorem State.mem_sendPacket (a b : Nat) (y : Body) :
    ∃ q ∈ (s.sendPacket a b y).net ++ (s.sendPacket a b y).netOut, q.body = y ∧ q.src = a ∧ q.dst = b := by
  refine ⟨⟨s.serial + 1, a, b, y⟩, ?_, rfl, rfl, rfl⟩
  unfold State.sendPacket State.number
  dsimp only
  split
  · exact List.mem_append_left _ (List.mem_append_right _ (List.mem_singleton.2 rfl))
  · exact List.mem_append_right _ (List.mem_append_right _ (List.mem_singleton.2 rfl))

end books

/-! # The end of an activation (O10) -/

section ends
variable {s : State}

/-- What the slot of an ended activation is: free from the next cycle on, its registers free values (R28). -/
def Slot.freedAt (fresh now : Nat) (sl : Slot) : Slot :=
  { (sl.undefined fresh) with
    active := false, park := .run, frozen := false, woken := false, waited := false, act := Act.none, lcount := 0, inl := none,
    streams := [], auction := none, waiting := false, fences := sl.fences.filter fun f => f.sig.isSome, sends := [], pend := [], ready := now + 1 }

/-- The books as an ended activation leaves them, before its slot is freed. -/
def State.settled (k reason : Nat) (s : State) : State :=
  (((s.leaveAll k).endAuctions k).forgetPops k).expEnd (coreOf k) (s.slot k).act.expansion reason

theorem State.booksOnly_settled (k reason : Nat) (s : State) : s.booksOnly (s.settled k reason) :=
  ((s.booksOnly_leaveAll k).trans (State.booksOnly_endAuctions ..)).trans
    ((State.booksOnly_forgetPops ..).trans (State.booksOnly_expEnd ..))

/-- An expansion's activation tells its end (R304). -/
theorem State.mem_settled {k : Nat} {e : Nat × Nat} (he : (s.slot k).act.expansion = some e) (reason : Nat) :
    ∃ q ∈ (s.settled k reason).net ++ (s.settled k reason).netOut,
      q.body = .endNotice e (BitVec.ofNat 16 reason) ∧ q.src = coreNum s.chipNo (coreOf k) ∧ q.dst = e.1 / 2 ^ 40 * 2048 := by
  have hbooks : s.booksOnly (((s.leaveAll k).endAuctions k).forgetPops k) :=
    (s.booksOnly_leaveAll k).trans ((State.booksOnly_endAuctions ..).trans (State.booksOnly_forgetPops ..))
  unfold State.settled
  generalize ((s.leaveAll k).endAuctions k).forgetPops k = u at hbooks ⊢
  have hchip : u.chipNo = s.chipNo := congrArg (fun c => c.chipid.toNat) hbooks.chip
  rw [he, ← hchip]
  exact State.mem_sendPacket ..

theorem State.endActivation_eq (k reason : Nat) (s : State) : s.endActivation k reason =
    ({ (s.settled k reason).modSlot k (Slot.freedAt (s.settled k reason).fresh (s.settled k reason).cycle) with fresh := (s.settled k reason).fresh + 32 }.stir
      (coreOf k)).post .inboxCellAssignment (arg2 (coreOf k) (s.slot k).act.obj) := rfl

/-- The end of slot `k`'s activation: the slot is free, and nothing else has changed but the books. -/
theorem State.endActivation_spec (k reason : Nat) (s : State) : let t := s.endActivation k reason
    t = { s with slots := t.slots, cores := t.cores, sectors := t.sectors, launch := t.launch, fabric := t.fabric, net := t.net, netOut := t.netOut,
                 work := t.work, serial := t.serial, fresh := t.fresh } ∧
    (∀ j, j ≠ k → t.slot j = s.slot j) ∧ (∃ n, t.slot k = (s.slot k).freedAt n s.cycle) ∧ (⟨.activationAdmission, arg1 (coreOf k)⟩ : Event) ∈ t.work ∧
    t.net = (s.settled k reason).net ∧ t.netOut = (s.settled k reason).netOut := by
  intro t
  have hbooks := State.booksOnly_settled k reason s
  have hmem (w : List Event) : (⟨.activationAdmission, arg1 (coreOf k)⟩ : Event) ∈ (w ++ [⟨.activationAdmission, arg1 (coreOf k)⟩]) ++
      [⟨.inboxCellAssignment, arg2 (coreOf k) (s.slot k).act.obj⟩] :=
    List.mem_append_left _ (List.mem_append_right _ (List.mem_singleton.2 rfl))
  have ht : t = _ := State.endActivation_eq k reason s
  generalize s.settled k reason = u at hbooks ht ⊢
  refine ⟨?_, fun j hj => ?_, ⟨u.fresh, ?_⟩, ?_, ?_, ?_⟩
  · rw [ht, hbooks]
    rfl
  · rw [ht]
    exact (State.slot_modSlot_other hj ..).trans (hbooks.slot j)
  · rw [ht, ← hbooks.slot, ← hbooks.cycle]
    exact State.slot_modSlot_same ..
  · rw [ht]
    exact hmem _
  · rw [ht]
    rfl
  · rw [ht]
    rfl

/-- The end of a slot's activation as `done` lays it down (R28). -/
def State.ends (s t : State) : Prop :=
  t.me.active = false ∧ t.me.park = .run ∧ t.me.lcount = 0 ∧ t.me.pend = [] ∧ t.me.streams = [] ∧ t.me.ready = s.cycle + 1 ∧
  t.me.retired = s.me.retired + 1 ∧ (⟨.activationAdmission, arg1 s.myCore⟩ : Event) ∈ t.work ∧ t.cur = s.cur ∧
  (∀ j, j ≠ s.cur → t.slot j = s.slot j) ∧ t.mem = s.mem ∧ t.full = s.full ∧ t.poison = s.poison ∧ t.clusters = s.clusters ∧
  t.parts = s.parts ∧ t.chip = s.chip

/-- The slot's activation ends, its last instruction counted. -/
def State.retireAndEnd (s : State) : State := (s.modMe fun sl => { sl with retired := sl.retired + 1 }).endActivation s.cur 0

theorem State.ends_retireAndEnd (s : State) : s.ends s.retireAndEnd := by
  obtain ⟨heq, hother, ⟨n, hslot⟩, hwork, -, -⟩ := State.endActivation_spec s.cur 0 (s.modMe fun sl => { sl with retired := sl.retired + 1 })
  have hcur : s.retireAndEnd.cur = s.cur := by
    unfold State.retireAndEnd
    rw [heq]
    rfl
  have hme : s.retireAndEnd.me = ({ s.me with retired := s.me.retired + 1 } : Slot).freedAt n s.cycle := by
    rw [State.me, hcur]
    exact hslot.trans (congrArg (Slot.freedAt n s.cycle) (State.me_modMe ..))
  refine ⟨?_, ?_, ?_, ?_, ?_, ?_, ?_, hwork, hcur, fun j hj => (hother j hj).trans (State.slot_modMe_other _ s hj), ?_, ?_, ?_, ?_, ?_, ?_⟩
  iterate 7 rw [hme]; rfl
  all_goals
    unfold State.retireAndEnd
    rw [heq]
    rfl

/-- Where its parent goes on after an inline child (R31, R98). -/
def Slot.resumed (i : Inline) (sl : Slot) : Slot :=
  { sl with x := put 10 i.x10 (put 11 i.x11 (put 12 i.x12 (put 13 i.x13 sl.x))), inl := none, lstart := i.lstart, lend := i.lend,
            lcount := i.lcount, pc := i.pc }

theorem State.doneOrWait_inline {i : Inline} (h : s.me.inl = some i) :
    s.doneOrWait = s.modMe fun sl => ((sl.resumed i).seq 4).retired1 (s.cycle + 1) := by
  unfold State.doneOrWait State.finishActivation
  rw [h]
  rfl

theorem State.doneOrWait_waits {e : Nat × Nat} (h : s.me.inl = none) (he : s.me.act.expansion = some e) (hr : s.released s.cur .ch = false) :
    s.doneOrWait = s.waitFor (.release .ch) := by
  unfold State.doneOrWait
  rw [h, he, hr]
  rfl

theorem State.doneOrWait_ends (h : s.me.inl = none) (hr : s.me.act.expansion = none ∨ s.released s.cur .ch = true) :
    s.doneOrWait = s.retireAndEnd := by
  have hfin : s.finishActivation = s.retireAndEnd := by
    unfold State.finishActivation
    rw [h]
    rfl
  unfold State.doneOrWait
  rw [hfin]
  refine if_neg ?_
  rcases hr with hr | hr <;> simp [hr]

theorem Slot.getX_resumed (i : Inline) (sl : Slot) (q : Reg) : (sl.resumed i).getX q =
    if q = 10 then i.x10 else if q = 11 then i.x11 else if q = 12 then i.x12 else if q = 13 then i.x13 else sl.getX q := by
  have hset : sl.resumed i = { ((((sl.setX 13 i.x13).setX 12 i.x12).setX 11 i.x11).setX 10 i.x10) with
      inl := none, lstart := i.lstart, lend := i.lend, lcount := i.lcount, pc := i.pc } := rfl
  have hget : (sl.resumed i).getX q = ((((sl.setX 13 i.x13).setX 12 i.x12).setX 11 i.x11).setX 10 i.x10).getX q := by rw [hset]; rfl
  rw [hget]
  simp only [Slot.getX_setX]
  by_cases hq : q = 0
  · subst hq
    rfl
  · simp only [if_neg hq]

/-- The loop rule for an instruction that takes no transfer (R97, rules 2 and 3). -/
theorem Slot.seq_spec (n : Nat) (sl : Slot) : let next := sl.pc + BitVec.ofNat 48 n
    (sl.lcount = 0 → (sl.seq n).lcount = 0 ∧ (sl.seq n).pc = next) ∧
    (sl.lcount ≠ 0 → next = sl.lend → (sl.lcount ≠ 1 → (sl.seq n).lcount = sl.lcount - 1 ∧ (sl.seq n).pc = sl.lstart) ∧
      (sl.lcount = 1 → (sl.seq n).lcount = 0 ∧ (sl.seq n).pc = sl.lend)) ∧
    (sl.lcount ≠ 0 → next ≠ sl.lend → (sl.seq n).pc = next ∧
      (sl.seq n).lcount = if sl.pc.toNat < sl.lend.toNat ∧ sl.lend.toNat < next.toNat then 0 else sl.lcount) := by
  intro next
  refine ⟨fun h0 => ?_, fun h0 he => ⟨fun h1 => ?_, fun h1 => ?_⟩, fun h0 he => ?_⟩
  · have e : sl.seq n = { sl with pc := next } := if_pos h0
    exact ⟨by rw [e]; exact h0, by rw [e]⟩
  · have hgt : 1 < sl.lcount.toNat := by
      have g0 : sl.lcount.toNat ≠ 0 := fun h => h0 (BitVec.eq_of_toNat_eq h)
      have g1 : sl.lcount.toNat ≠ 1 := fun h => h1 (BitVec.eq_of_toNat_eq h)
      omega
    have e : sl.seq n = { sl with pc := sl.lstart, lcount := sl.lcount - 1 } := (if_neg h0).trans ((if_pos he).trans (if_pos hgt))
    exact ⟨by rw [e], by rw [e]⟩
  · have e : sl.seq n = { sl with pc := sl.lend, lcount := 0 } := (if_neg h0).trans ((if_pos he).trans (if_neg (by rw [h1]; decide)))
    exact ⟨by rw [e], by rw [e]⟩
  · have e : sl.seq n = if sl.pc.toNat < sl.lend.toNat ∧ sl.lend.toNat < next.toNat then { sl with pc := next, lcount := 0 } else { sl with pc := next } :=
      (if_neg h0).trans (if_neg he)
    rw [e]
    split <;> exact ⟨rfl, rfl⟩

end ends

/-- Settles O10: an inline child returns by the loop rule; an expansion's activation waits for its release; any other ends. -/
theorem doneEndsTheActivation : Obligations.DoneEndsTheActivation := by
  unfold Obligations.DoneEndsTheActivation
  intro s sc i hi ends
  have hexec : exec i s = .next s.doneOrWait := by
    rcases hi with rfl | rfl <;> rfl
  refine ⟨fun hinl hexp => ?_, fun e hinl hexp => ⟨fun hr => ?_, fun hr => ?_⟩, fun p hinl => ?_⟩
  · exact ⟨_, hexec.trans (congrArg _ (State.doneOrWait_ends hinl (.inl hexp))), State.ends_retireAndEnd s⟩
  · exact ⟨_, hexec.trans (congrArg _ (State.doneOrWait_waits hinl hexp hr)), State.parkMe_post (.again (.release .ch)) 0 s⟩
  · refine ⟨_, hexec.trans (congrArg _ (State.doneOrWait_ends hinl (.inr hr))), State.ends_retireAndEnd s, ?_⟩
    obtain ⟨-, -, -, -, hnet, hnetOut⟩ := State.endActivation_spec s.cur 0 (s.modMe fun sl => { sl with retired := sl.retired + 1 })
    have hme : ((s.modMe fun sl => { sl with retired := sl.retired + 1 }).slot s.cur).act.expansion = some e :=
      (congrArg (fun sl : Slot => sl.act.expansion) (State.me_modMe ..)).trans hexp
    unfold State.retireAndEnd
    rw [hnet, hnetOut]
    exact State.mem_settled hme 0
  · refine ⟨_, hexec.trans (congrArg _ (State.doneOrWait_inline hinl)), State.onlySlot_modMe _ s, ?_⟩
    have hme : (s.modMe fun sl => ((sl.resumed p).seq 4).retired1 (s.cycle + 1)).me = ((s.me.resumed p).seq 4).retired1 (s.cycle + 1) := State.me_modMe ..
    obtain ⟨hzero, hend, hon⟩ := Slot.seq_spec 4 (s.me.resumed p)
    refine ⟨by rw [hme, Slot.retired1_inl, Slot.seq_inl]; rfl, by rw [hme, Slot.retired1_f, Slot.seq_f]; rfl, by rw [hme, Slot.retired1_p, Slot.seq_p]; rfl, ?_,
      by rw [hme, Slot.retired1_lstart, Slot.seq_lstart]; rfl, by rw [hme, Slot.retired1_lend, Slot.seq_lend]; rfl, ?_, ?_, ?_, fun q => ?_⟩
    · rw [hme]
      exact congrArg (· + 1) (Slot.seq_retired ..)
    · rw [hme]
      exact hzero
    · rw [hme]
      exact hend
    · rw [hme]
      exact hon
    · refine Eq.trans ?_ (Slot.getX_resumed p s.me q)
      rw [State.x, hme]
      unfold Slot.getX
      rw [Slot.retired1_x, Slot.seq_x]

end Sys2Proof.Machine

namespace Sys2Proof.Machine

/-! # What writes at a home leave alone -/

/-- `t` is `s` but for its stored bytes with their marks, the records and repairs that reading and writing them brings, and the steps that stand out. -/
def State.storageOnly (s t : State) : Prop :=
  t = { s with work := t.work, fresh := t.fresh, chip := t.chip, mem := t.mem, full := t.full, poison := t.poison, l2 := t.l2, errors := t.errors,
               written := t.written, records := t.records }

namespace State.storageOnly
variable {s t u : State}

protected theorem rfl : s.storageOnly s := Eq.refl s

theorem trans (h : s.storageOnly t) (h' : t.storageOnly u) : s.storageOnly u := by
  unfold State.storageOnly at *
  rw [h', h]

theorem slots (h : s.storageOnly t) : t.slots = s.slots := by rw [h]
theorem slot (h : s.storageOnly t) (k : Nat) : t.slot k = s.slot k := by rw [State.slot, h.slots]; rfl
theorem cur (h : s.storageOnly t) : t.cur = s.cur := by rw [h]
theorem me (h : s.storageOnly t) : t.me = s.me := by rw [State.me, h.slot, h.cur]; rfl
theorem cycle (h : s.storageOnly t) : t.cycle = s.cycle := by rw [h]
theorem cores (h : s.storageOnly t) : t.cores = s.cores := by rw [h]
theorem core (h : s.storageOnly t) (c : Nat) : t.core c = s.core c := by rw [State.core, h.cores]; rfl

theorem ite {c : Prop} [Decidable c] (ht : s.storageOnly t) (hu : s.storageOnly u) : s.storageOnly (if c then t else u) := by
  split
  · exact ht
  · exact hu

theorem foldl {α : Type} {f : State → α → State} (hf : ∀ (u : State) a, u.storageOnly (f u a)) (l : List α) (h : s.storageOnly t) :
    s.storageOnly (l.foldl f t) := by
  induction l generalizing t with
  | nil => exact h
  | cons a l ih => exact ih (h.trans (hf t a))

end State.storageOnly

section storage
variable (s : State)

theorem State.storageOnly_recordPosition (line sym : Nat) : s.storageOnly (s.recordPosition line sym) := State.storageOnly.ite rfl rfl

theorem State.storageOnly_correctedAt (line : Nat) (once : Bool) (sym : Nat) : s.storageOnly (s.correctedAt line once sym) :=
  State.storageOnly.ite (s.storageOnly_recordPosition ..) rfl

theorem State.storageOnly_decodeLine (line : Nat) : s.storageOnly (s.decodeLine line) :=
  State.storageOnly.ite rfl (State.storageOnly.ite (State.storageOnly.foldl (fun _ _ => State.storageOnly_correctedAt ..) _ rfl) rfl)

theorem State.storageOnly_setPoison (k : Nat) (b : Bool) : s.storageOnly (s.setPoison k b) := rfl

theorem State.storageOnly_renew (pa : Nat) (whole : Bool) : s.storageOnly (s.renew pa whole) := by
  unfold State.renew
  extract_lets ok t
  have ht : s.storageOnly t := State.storageOnly.ite rfl (s.storageOnly_decodeLine ..)
  refine State.storageOnly.ite rfl ?_
  exact (ht.ite (ht.trans (t.storageOnly_setPoison pa true))).trans rfl

theorem State.storageOnly_keyRecord (ks pa : Nat) : s.storageOnly (s.keyRecord ks pa) := State.storageOnly.ite rfl rfl

theorem State.storageOnly_lpWrite (ks pa : Nat) (l : List Byte) : s.storageOnly (s.lpWrite ks pa l) := by
  unfold State.lpWrite
  extract_lets base t u
  have ht : s.storageOnly t := s.storageOnly_renew ..
  have hu : t.storageOnly u := by
    unfold u
    split
    · exact State.storageOnly.rfl
    · exact State.storageOnly.ite rfl rfl
  exact State.storageOnly.ite (s.storageOnly_keyRecord ..) ((ht.trans hu).trans rfl)

theorem State.storageOnly_setFullAt (k : Nat) (b : Bool) : s.storageOnly (s.setFullAt k b) := rfl

theorem State.storageOnly_post (i : Sys2Proof.Instr) (a : Arg) : s.storageOnly (s.post i a) := rfl

theorem State.storageOnly_setLineFull (k : Nat) (b : Byte) : s.storageOnly (s.setLineFull k b) :=
  State.storageOnly.foldl (fun _ _ => State.storageOnly_setFullAt ..) _ rfl

theorem State.storageOnly_cleanL2 (slice pa : Nat) : s.storageOnly (s.cleanL2 slice pa) := by
  unfold State.cleanL2
  split
  · exact State.storageOnly.rfl
  · extract_lets base k ks t
    have ht : s.storageOnly t := rfl
    refine State.storageOnly.ite rfl (State.storageOnly.ite (ht.trans (t.storageOnly_keyRecord ..)) (ht.trans ?_))
    refine State.storageOnly.trans (State.storageOnly.ite (t.storageOnly_lpWrite ..) ?_) (State.storageOnly_setPoison ..)
    exact State.storageOnly.foldl (fun _ _ => State.storageOnly_lpWrite ..) _ rfl

theorem State.storageOnly_setAreaBits (pa : Nat) (b : Byte) : s.storageOnly (s.setAreaBits pa b) :=
  State.storageOnly.ite (s.storageOnly_lpWrite ..) rfl

theorem State.storageOnly_evictL2 (slice pa : Nat) : s.storageOnly (s.evictL2 slice pa) := by
  unfold State.evictL2
  extract_lets base k t u
  have ht : s.storageOnly t := s.storageOnly_cleanL2 ..
  have hu : t.storageOnly u := t.storageOnly_setAreaBits ..
  refine State.storageOnly.ite rfl ((ht.trans hu).trans ?_)
  exact State.storageOnly.trans (State.storageOnly.trans (u.storageOnly_setPoison k false) (State.storageOnly_setLineFull _ k 0)) rfl

theorem State.storageOnly_roomL2 (slice pa : Nat) : s.storageOnly (s.roomL2 slice pa) := by
  unfold State.roomL2
  extract_lets l
  refine State.storageOnly.ite rfl ?_
  split
  · exact State.storageOnly.rfl
  · have hfresh : s.storageOnly { s with fresh := s.fresh + 1 } := rfl
    exact hfresh.trans (State.storageOnly_evictL2 ..)

theorem State.storageOnly_fillL2 (slice ks pa : Nat) : s.storageOnly (s.fillL2 slice ks pa) := by
  unfold State.fillL2
  extract_lets t base k bad u v m
  have ht : s.storageOnly t := s.storageOnly_roomL2 ..
  have hu : t.storageOnly u := t.storageOnly_decodeLine ..
  have hv : u.storageOnly v := State.storageOnly.ite (u.storageOnly_decodeLine ..) rfl
  refine State.storageOnly.ite rfl (((ht.trans hu).trans hv).trans ?_)
  have hline : v.storageOnly ({ v with mem := m, l2 := put (l2Index slice pa) ⟨false, 0, BitVec.ofNat 8 ks⟩ v.l2 }.setPoison k bad) := rfl
  exact (hline.trans (State.storageOnly_setLineFull ..)).trans (State.storageOnly_keyRecord ..)

theorem State.storageOnly_notice (pa : Nat) : s.storageOnly (s.notice pa) := State.storageOnly.foldl (fun _ _ => State.storageOnly_post ..) _ rfl

theorem State.storageOnly_homeWrite (h : Home) (l : List Byte) : s.storageOnly (s.homeWrite h l) := by
  unfold State.homeWrite
  split
  · rfl
  next sl pa p ks =>
    refine State.storageOnly.trans (State.storageOnly.ite (State.storageOnly.ite ?_ (s.storageOnly_lpWrite ..)) ?_) (State.storageOnly_notice ..)
    · have hmask : s.storageOnly ((s.setBytes (l2Key sl pa) l).maskL2 sl pa l.length ks) := rfl
      exact hmask.trans (State.storageOnly_cleanL2 ..)
    · exact (s.storageOnly_fillL2 ..).trans rfl

theorem State.storageOnly_setPair (c : Nat) (recv : Bool) (i : Nat) (p : Pair) : s.storageOnly (s.setPair c recv i p) := by
  unfold State.setPair
  split
  · exact State.storageOnly.rfl
  · exact s.storageOnly_homeWrite ..

theorem State.storageOnly_nextSeq {c peer : Nat} {target : Word} {n : BitVec 16} {v : State} (h : s.nextSeq c target peer = some (n, v)) :
    s.storageOnly v := by
  unfold State.nextSeq at h
  split at h
  · exact absurd h nofun
  · cases h
    exact s.storageOnly_setPair ..

end storage

end Sys2Proof.Machine

namespace Sys2Proof.Machine

/-! # Credits and sends (R57) -/

section credits
variable {s : State} {c key : Nat}

theorem State.booksOnly_setCredit (v : Credit) (s : State) : s.booksOnly (s.setCredit c key v) := rfl

theorem State.booksOnly_returnBlock (s : State) : s.booksOnly (s.returnBlock c key) :=
  (State.booksOnly_setCredit _ s).trans (State.booksOnly_sendPacket ..)

theorem State.booksOnly_hold (h : Held) (s : State) : s.booksOnly (s.hold c h) := rfl

theorem State.booksOnly_sendAsk {t : State} (h : s.sendAsk c key = some t) : s.booksOnly t := by
  unfold State.sendAsk at h
  dsimp only at h
  split at h
  · cases h
    exact State.booksOnly_sendPacket ..
  · obtain ⟨e, -, rfl⟩ := Option.map_eq_some_iff.1 h
    exact (State.booksOnly.foldl (fun u _ => State.booksOnly_returnBlock u) _ State.booksOnly.rfl).trans (State.booksOnly_sendPacket ..)

theorem State.booksOnly_askBlock (s : State) : s.booksOnly (s.askBlock c key) := by
  unfold State.askBlock
  extract_lets v t
  have ht : s.booksOnly t := State.booksOnly_setCredit ..
  refine State.booksOnly.ite State.booksOnly.rfl ?_
  split
  next h => exact ht.trans (State.booksOnly_sendAsk h)
  · exact ht.trans (State.booksOnly_hold ..)

theorem State.spend_of_avail_zero (h : (s.credit c key).avail = 0) : s.spend c key = none := if_pos h

theorem State.spend_of_avail (h : (s.credit c key).avail ≠ 0) : ∃ t, s.spend c key = some t := ⟨_, if_neg h⟩

theorem State.booksOnly_spend {t : State} (h : s.spend c key = some t) : s.booksOnly t := by
  unfold State.spend at h
  dsimp only at h
  split at h
  · exact absurd h nofun
  · cases h
    exact State.booksOnly.ite ((State.booksOnly_setCredit _ s).trans (State.booksOnly_askBlock _)) (State.booksOnly_setCredit _ s)

theorem State.hasCredit_iff : s.hasCredit key = true ↔ (s.credit s.myCore key).avail ≠ 0 := decide_eq_true_iff

/-- A message handed to the network on a credit that is there: it is on its way, and counts among the slot's sends. -/
theorem State.launchMsg_of_spend {m : Msg} {num : Nat} {w : State} (h : s.spend s.myCore (creditKey num) = some w) :
    let p := w.sendPacket (s.numOf s.myCore) num (.invoke m)
    s.launchMsg m num = p.modMe fun sl => { sl with sends := sl.sends ++ [(w.serial, p.serial)] } := by
  intro p
  have hw := State.booksOnly_spend h
  have hcur : p.cur = w.cur := (State.booksOnly_sendPacket ..).cur
  have hnum : w.numOf w.myCore = s.numOf s.myCore := (hw.numOf _).trans (congrArg (fun k => s.numOf (coreOf k)) hw.cur)
  unfold State.launchMsg State.asSend
  rw [h]
  dsimp only
  rw [hnum]
  exact congrArg (fun k => p.modSlot k _) hcur.symm

end credits

section retires
variable {s p : State}

/-- The instruction in hand retires on top of `p`, after `g` has changed what the slot has under way. -/
theorem State.retiresOn_modMe {g : Slot → Slot} (hcur : p.cur = s.cur) (hother : ∀ j, j ≠ s.cur → p.slot j = s.slot j) (hcycle : p.cycle = s.cycle)
    (hpc : (g p.me).pc = s.me.pc) (hlcount : (g p.me).lcount = s.me.lcount) (hlstart : (g p.me).lstart = s.me.lstart)
    (hlend : (g p.me).lend = s.me.lend) (hretired : (g p.me).retired = s.me.retired) (sc : BitVec 3) :
    let f := (p.modMe g).retire 4 sc.toNat
    p.retiresOn sc s f ∧ f.me = ((g p.me).seq 4).retired1 (s.cycle + 1 + sc.toNat) := by
  intro f
  have hf : f = p.modMe fun sl => ((g sl).seq 4).retired1 (p.cycle + 1 + sc.toNat) := State.modMe_modMe ..
  have hme : f.me = ((g p.me).seq 4).retired1 (s.cycle + 1 + sc.toNat) := by
    rw [hf, State.me_modMe, hcycle]
  obtain ⟨hseqPc, hseqCount⟩ := Slot.seq_congr 4 hpc hlcount hlstart hlend
  refine ⟨⟨by rw [hf]; rfl, fun j hj => ?_, ?_⟩, hme⟩
  · rw [hf, State.slot_modMe_other _ _ (hcur ▸ hj)]
    exact hother j hj
  · unfold State.stepped
    rw [hme]
    refine ⟨hseqPc, hseqCount, ?_, rfl⟩
    exact congrArg (· + 1) ((Slot.seq_retired ..).trans hretired)

/-- The slot in hand waits until `w` on top of `u`. -/
theorem State.waitsOn_waitFor {u : State} (h : s.booksOnly u) (w : Wait) : u.waitsOn w s (u.waitFor w) := by
  obtain ⟨⟨heq, hother⟩, hparks⟩ := State.parkMe_spec (.again w) 0 u
  have hcur : (u.waitFor w).cur = u.cur := rfl
  refine ⟨?_, fun j hj => (hother j (h.cur ▸ hj)).trans (h.slot j), ?_⟩
  · unfold State.waitFor State.post
    rw [heq, ← h.cur]
  · have hme : (u.waitFor w).me = (u.parkMe (.again w) 0).me := rfl
    rw [hme]
    rw [h.me, h.cycle] at hparks
    exact hparks

end retires

/-! # spawn (O27) -/

section spawn
variable {s : State}

/-- A slot that sends on a credit no longer takes note of a grant that could not be reached. -/
theorem State.onCredit_spec (s : State) : s.onlySlot s.cur s.onCredit ∧ s.onCredit.me = { s.me with lost := false } := by
  unfold State.onCredit
  split
  · exact ⟨State.onlySlot_modMe .., State.me_modMe ..⟩
  next h =>
    refine ⟨⟨rfl, fun _ _ => rfl⟩, ?_⟩
    have hl : s.me.lost = false := by simpa using h
    rw [← hl]

theorem State.onlySlot.sendReleased {k : Nat} {t : State} (h : s.onlySlot k t) (hs : (t.slot k).stores = (s.slot k).stores)
    (hc : (t.slot k).cmds = (s.slot k).cmds) (scope : Scope) : t.sendReleased k scope = s.sendReleased k scope := by
  have hcmds : t.cmdsPerformed = s.cmdsPerformed := by rw [h.1]; rfl
  have hwins : t.windowsPerformed = s.windowsPerformed := by rw [h.1]; rfl
  unfold State.sendReleased
  rw [hs, hc, hcmds, hwins]

theorem State.onCredit_sendReleased (scope : Scope) : s.onCredit.sendReleased s.cur scope = s.sendReleased s.cur scope := by
  obtain ⟨honly, hme⟩ := s.onCredit_spec
  have hslot : s.onCredit.slot s.cur = { s.me with lost := false } := honly.cur ▸ hme
  exact honly.sendReleased (by rw [hslot]; rfl) (by rw [hslot]; rfl) scope

theorem State.hasPair_of_nextSeq {c peer : Nat} {target : Word} {n : BitVec 16} {v : State} (h : s.nextSeq c target peer = some (n, v)) :
    s.hasPair c target = true := by
  unfold State.hasPair
  unfold State.nextSeq at h
  split at h
  · exact absurd h nofun
  next hfind => rw [hfind]; rfl

/-- The target word names a core of the partition (R110). -/
def State.spawnTarget (s : State) (a : Word) : Prop :=
  a.toNat < 2 ^ 11 ∧ s.corePart s.myCore ≠ 0 ∧ s.partOf (a.toNat / 8) = s.corePart s.myCore

theorem State.spawnTarget_iff (a : Word) : s.spawnTarget a ↔
    ¬ (wbits a 11 53 ≠ 0 ∨ s.corePart s.myCore = 0 ∨ s.partOf (wbits a 3 8) ≠ s.corePart s.myCore) := by
  have hhigh : wbits a 11 53 = 0 ↔ a.toNat < 2 ^ 11 := by
    have := a.isLt
    unfold wbits
    omega
  have hcluster : a.toNat < 2 ^ 11 → wbits a 3 8 = a.toNat / 8 := by
    unfold wbits
    omega
  unfold State.spawnTarget
  rw [not_or, not_or, not_ne_iff, not_ne_iff, hhigh]
  exact and_congr_right fun hlt => by rw [hcluster hlt]

section checks
variable {ra rb : Reg} (sc : BitVec 3)

theorem exec_spawn_badTarget (h : ¬ s.spawnTarget (s.x ra)) : exec (.spawn ra rb sc) s = .next (s.trap cPROTECTION (s.x ra)) :=
  congrArg _ (if_pos (not_not.1 (mt (State.spawnTarget_iff _).2 h)))

theorem getLsbD_zero_iff {v : Word} : v.getLsbD 0 = true ↔ v.toNat % 2 = 1 := by
  have := toNat_getLsbD v 0
  rw [pow_zero, Nat.div_one] at this
  rw [← Bool.toNat_eq_one, this]

theorem getLsbD_zero_of_even {v : Word} (h : v.toNat % 2 = 0) : ¬ v.getLsbD 0 = true := by
  rw [getLsbD_zero_iff, h]
  decide

theorem exec_spawn_odd (h : s.spawnTarget (s.x ra)) (hodd : (s.x rb).toNat % 2 = 1) : exec (.spawn ra rb sc) s = .next (s.trap cMISALIGN (s.x rb)) := by
  exact congrArg _ ((if_neg ((State.spawnTarget_iff _).1 h)).trans (if_pos (getLsbD_zero_iff.2 hodd)))

/-- The send of a spawn's message on a credit, or the wait for its release or its send pair (R110). -/
def State.spawnSend (num : Nat) (pc : Word) (sc : Nat) (s : State) : State :=
  let target := mkHandle num 0 0 0 (s.partKey s.myCore).toNat
  s.onCredit.sendReleasing .ch fun t =>
    if t.hasPair s.myCore target then (t.numberAndSend (t.header target pc 0 ([], false) false) num).retire 4 sc
    else (t.tableNotice s.myCore 2 target pc).waitFor (.pair target)

section named
variable (h : s.spawnTarget (s.x ra)) (heven : (s.x rb).toNat % 2 = 0)
include h heven

theorem exec_spawn_high (hhigh : 2 ^ 48 ≤ (s.x rb).toNat) : exec (.spawn ra rb sc) s = .next (s.trap cPROTECTION (s.x rb)) := by
  have hbits : wbits (s.x rb) 48 16 ≠ 0 := by
    have := (s.x rb).isLt
    unfold wbits
    omega
  exact congrArg _ ((if_neg ((State.spawnTarget_iff _).1 h)).trans ((if_neg (getLsbD_zero_of_even heven)).trans (if_pos hbits)))

theorem exec_spawn_eq (hlow : (s.x rb).toNat < 2 ^ 48) : let num := coreNum s.chipNo (s.x ra).toNat
    exec (.spawn ra rb sc) s = .next (
      if s.hasCredit (creditKey num) then s.spawnSend num (s.x rb) sc.toNat
      else if s.me.inl.isNone then (s.askBlock s.myCore (creditKey num)).runInline ((s.x rb).setWidth 48) sc.toNat
      else if s.me.lost then
        (s.modMe fun sl => { sl with lost := false }).lostRecord 1 num (mkHandle num 0 0 0 (s.partKey s.myCore).toNat) (s.x rb) |>.retire 4 sc.toNat
      else s.needCredit (creditKey num)) := by
  have hbits : ¬ wbits (s.x rb) 48 16 ≠ 0 := by
    unfold wbits
    omega
  have hnum : wbits (s.x ra) 0 11 = (s.x ra).toNat := by
    have := h.1
    unfold wbits
    omega
  rw [← hnum]
  exact congrArg _ ((if_neg ((State.spawnTarget_iff _).1 h)).trans ((if_neg (getLsbD_zero_of_even heven)).trans (if_neg hbits)))

end named

end checks

theorem State.numberAndSend_of_nextSeq {m : Msg} {num : Nat} {n : BitVec 16} {v : State} (h : s.nextSeq s.myCore m.target num = some (n, v)) :
    s.numberAndSend m num = v.launchMsg { m with seq := n } num := by
  unfold State.numberAndSend
  rw [h]

theorem State.spawnSend_eq {num : Nat} {pc : Word} {sc : Nat} {n : BitVec 16} {v : State} (hrel : s.sendReleased s.cur .ch = true)
    (hseq : s.onCredit.nextSeq s.myCore (mkHandle num 0 0 0 (s.partKey s.myCore).toNat) num = some (n, v)) :
    s.spawnSend num pc sc =
      (v.launchMsg { s.onCredit.header (mkHandle num 0 0 0 (s.partKey s.myCore).toNat) pc 0 ([], false) false with seq := n } num).retire 4 sc := by
  have hcur : s.onCredit.cur = s.cur := s.onCredit_spec.1.cur
  have hcore : s.onCredit.myCore = s.myCore := congrArg coreOf hcur
  unfold State.spawnSend State.sendReleasing
  dsimp only
  rw [hcur, State.onCredit_sendReleased, if_pos hrel, if_pos (State.hasPair_of_nextSeq hseq)]
  exact congrArg (State.retire 4 sc) (State.numberAndSend_of_nextSeq (by rw [hcore]; exact hseq))

/-- The message of an invocation send, as R100 and R101 lay it out. -/
theorem State.messageIs_header {t : State} (hme : t.me = { s.me with lost := false }) (hnum : t.numOf t.myCore = s.numOf s.myCore) (target reply d : Word)
    (pl : List Byte × Bool) (fwd : Bool) (n : BitVec 16) : s.messageIs { t.header target reply d pl fwd with seq := n } target reply d pl fwd := by
  have hx (q : Reg) : t.x q = s.x q := by
    unfold State.x
    rw [hme]
    rfl
  have harg (i k : Nat) (hk : d.toNat % 2 ^ 8 / 4 ^ i % 4 = k % 4) :
      t.argument (dKINDS d) i = if k % 4 = 3 then 0 else s.x (BitVec.ofNat 5 (10 + i)) := by
    unfold State.argument dKINDS
    rw [BitVec.toNat_setWidth, hk, hx]
  refine ⟨rfl, rfl, hnum, hnum, ?_, ?_, ?_, rfl, rfl, rfl, rfl, rfl, harg 0 d.toNat (by omega), harg 1 (d.toNat / 4) (by omega),
    harg 2 (d.toNat / 16) (by omega), harg 3 (d.toNat / 64) (by omega)⟩
  · show ((d >>> 8).setWidth 6).toNat = _
    rw [BitVec.toNat_setWidth, BitVec.toNat_ushiftRight, Nat.shiftRight_eq_div_pow]
  · exact BitVec.toNat_setWidth ..
  · exact BitVec.toNat_setWidth ..

/-- A spawn's message on a credit, its release met and its send pair numbered `n`. -/
theorem State.spawnSend_spec {num : Nat} {pc : Word} {sc : BitVec 3} {n : BitVec 16} {v : State} (hcredit : s.hasCredit (creditKey num) = true)
    (hrel : s.sendReleased s.cur .ch = true) (hseq : s.onCredit.nextSeq s.myCore (mkHandle num 0 0 0 (s.partKey s.myCore).toNat) num = some (n, v)) :
    ∃ m w, s.messageIs m (mkHandle num 0 0 0 (s.partKey s.myCore).toNat) pc 0 ([], false) false ∧ m.seq = n ∧ v.sentFrom s.myCore num m w ∧
      w.retiresOn sc s (s.spawnSend num pc sc.toNat) ∧ s.onCredit.me.keepsButSends (s.spawnSend num pc sc.toNat).me ∧
      s.me.keepsRegs (s.spawnSend num pc sc.toNat).me := by
  obtain ⟨honly, hme⟩ := s.onCredit_spec
  have hv := State.storageOnly_nextSeq _ hseq
  have hcore : v.myCore = s.myCore := congrArg coreOf (hv.cur.trans honly.cur)
  have hcoreState (c : Nat) : v.core c = s.core c := (hv.core c).trans (by rw [honly.1]; rfl)
  obtain ⟨w, hw⟩ := State.spend_of_avail (s := v) (c := v.myCore) (key := creditKey num) (by
    rw [hcore, State.credit, hcoreState]
    exact State.hasCredit_iff.1 hcredit)
  rw [State.spawnSend_eq hrel hseq, State.launchMsg_of_spend hw]
  have hmsg := State.messageIs_header hme (congrArg₂ coreNum (by rw [honly.1]; rfl) (congrArg coreOf honly.cur))
    (mkHandle num 0 0 0 (s.partKey s.myCore).toNat) pc 0 ([], false) false n
  have hmseq : ({ s.onCredit.header (mkHandle num 0 0 0 (s.partKey s.myCore).toNat) pc 0 ([], false) false with seq := n } : Msg).seq = n := rfl
  generalize ({ s.onCredit.header (mkHandle num 0 0 0 (s.partKey s.myCore).toNat) pc 0 ([], false) false with seq := n } : Msg) = m at hmsg hmseq ⊢
  have hp : v.booksOnly (w.sendPacket (v.numOf v.myCore) num (.invoke m)) := (State.booksOnly_spend hw).trans (State.booksOnly_sendPacket ..)
  refine ⟨m, w.sendPacket (v.numOf v.myCore) num (.invoke m), hmsg, hmseq, ⟨w, hcore ▸ hw, by rw [hcore]⟩, ?_⟩
  generalize w.sendPacket (v.numOf v.myCore) num (.invoke m) = p at hp ⊢
  have hpme : p.me = { s.me with lost := false } := hp.me.trans (hv.me.trans hme)
  obtain ⟨hretires, hfme⟩ := State.retiresOn_modMe (s := s) (p := p) (g := fun sl => { sl with sends := sl.sends ++ [(w.serial, p.serial)] })
    (hp.cur.trans (hv.cur.trans honly.cur)) (fun j hj => (hp.slot j).trans ((hv.slot j).trans (honly.2 j hj)))
    (hp.cycle.trans (hv.cycle.trans (by rw [honly.1]))) (by rw [hpme]) (by rw [hpme]) (by rw [hpme]) (by rw [hpme]) (by rw [hpme]) sc
  refine ⟨hretires, ?_, ?_⟩
  · rw [hfme, hme, hpme]
    unfold Slot.keepsButSends Slot.keepsRest Slot.retired1
    rw [Slot.seq_eq]
  · rw [hfme, hpme]
    exact ⟨Slot.seq_x .., Slot.seq_f .., Slot.seq_p .., Slot.seq_pend ..⟩

/-- A child that runs inline: the parent's registers, loop state and PC are kept for its return (R31, R98). -/
theorem State.runInline_spec {u : State} (h : s.booksOnly u) (pc : BitVec 48) (sc : Nat) : let f := u.runInline pc sc
    f = { u with slots := f.slots } ∧ (∀ j, j ≠ s.cur → f.slot j = s.slot j) ∧
    f.me = { s.me with inl := some ⟨s.x 10, s.x 11, s.x 12, s.x 13, s.me.lstart, s.me.lend, s.me.lcount, s.me.pc⟩, lcount := 0, pc := pc,
                       retired := s.me.retired + 1, ready := s.cycle + 1 + sc, waited := false } := by
  intro f
  refine ⟨rfl, fun j hj => (State.slot_modMe_other _ _ (h.cur ▸ hj)).trans (h.slot j), ?_⟩
  refine (State.me_modMe ..).trans ?_
  rw [h.me, h.cycle]
  rfl

end spawn

/-- Settles O27: the checks of the operands, and then a send, a child inline, or a wait. -/
theorem spawnSendsOrRunsInline : Obligations.SpawnSendsOrRunsInline := by
  unfold Obligations.SpawnSendsOrRunsInline
  intro s ra rb sc a pc c named num key target
  refine ⟨fun h => ?_, fun h hodd => ?_, fun h heven hhigh => ?_, fun h heven hlow => ?_⟩
  · exact ⟨_, exec_spawn_badTarget sc h, State.trap_trapsWith _ _ s (by decide)⟩
  · exact ⟨_, exec_spawn_odd sc h hodd, State.trap_trapsWith _ _ s (by decide)⟩
  · exact ⟨_, exec_spawn_high sc h heven hhigh, State.trap_trapsWith _ _ s (by decide)⟩
  · have e := exec_spawn_eq sc h heven hlow
    refine ⟨?send, ?inline, ?waits⟩
    case send =>
      intro n v o hcredit hrel _ hseq
      exact ⟨_, e.trans (congrArg _ (if_pos hcredit)), State.spawnSend_spec hcredit hrel hseq⟩
    case inline =>
      intro hcredit hinl
      exact ⟨_, e.trans (congrArg _ ((if_neg (by rw [hcredit]; nofun)).trans (if_pos (by rw [hinl]; rfl)))), State.runInline_spec (State.booksOnly_askBlock s) ..⟩
    case waits =>
      intro hcredit hinl hlost
      have hrun : ¬ s.me.inl.isNone = true := by simpa using hinl
      exact ⟨_, e.trans (congrArg _ ((if_neg (by rw [hcredit]; nofun)).trans ((if_neg hrun).trans (if_neg (by rw [hlost]; nofun))))), State.waitsOn_waitFor (State.booksOnly_askBlock s) _⟩

end Sys2Proof.Machine

namespace Sys2Proof.Machine

/-! # Held work (O31) -/

section held
variable {s : State} {c : Nat}

theorem exec_tableEntryWaitRelease (s : State) : exec .tableEntryWaitRelease s =
    .next ((State.tryHeld s.arg.a 0 (s.core s.arg.a).held s).getD s.defer) := by
  show Host.Outcome.next _ = _
  cases State.tryHeld s.arg.a 0 (s.core s.arg.a).held s <;> rfl

theorem State.tryHeld_one {h : Held} (hh : (s.core c).held = [h]) :
    State.tryHeld c 0 (s.core c).held s = (s.modCore c fun k => { k with held := [] }).retryHeld c h := by
  have hdrop : (s.modCore c fun k => { k with held := dropNth k.held 0 }) = s.modCore c fun k => { k with held := [] } := by
    unfold State.modCore
    dsimp only
    rw [hh]
    rfl
  rw [hh]
  unfold State.tryHeld
  rw [hdrop]
  cases (s.modCore c fun k => { k with held := [] }).retryHeld c h <;> rfl

theorem State.retryHeld_forward_spent {m : Msg} {dst n : Nat} {v : State} (h : s.spend c (creditKey dst) = some v) :
    s.retryHeld c (.forward m dst n) = some ((v.freeCell c n).sendPacket (s.numOf c) dst (.invoke { m with hop := s.numOf c })) := by
  have hnum := (State.booksOnly_spend h).numOf c
  unfold State.retryHeld
  dsimp only
  rw [h, ← hnum]
  rfl

theorem State.retryHeld_forward_waits {m : Msg} {dst n : Nat} (h : s.spend c (creditKey dst) = none) : s.retryHeld c (.forward m dst n) = none := by
  unfold State.retryHeld
  dsimp only
  rw [h]
  rfl

end held

/-! # Queues as something looks at them again -/

/-- A queue that holds something holds what its map makes of it, whatever else the table lists. -/
theorem look_map_filter_of_ne_nil {α : Type} {f : Nat → List α → List α} (hf : ∀ i l, l ≠ [] → f i l ≠ []) {m : SMap (List α)} {i : Nat}
    (h : look [] m i ≠ []) : look [] ((m.map fun e => (e.1, f e.1 e.2)).filter fun e => !e.2.isEmpty) i = f i (look [] m i) := by
  induction m with
  | nil => exact absurd rfl h
  | cons e m ih =>
    rw [List.map_cons, List.filter_cons]
    by_cases hk : e.1 = i
    · have hl : look [] (e :: m) i = e.2 := if_pos hk
      rw [hl] at h ⊢
      rw [if_pos (by simpa using hf e.1 e.2 h), ← hk]
      exact if_pos rfl
    · have hl : look [] (e :: m) i = look [] m i := if_neg hk
      rw [hl] at h ⊢
      rw [← ih h]
      split
      · exact if_neg hk
      · rfl

theorem State.queueBodies_stir {s : State} {c i : Nat} (h : look [] (s.core c).queues i ≠ []) :
    (look [] ((s.stir c).core c).queues i).map (·.body) = (look [] (s.core c).queues i).map (·.body) := by
  have hcore : (s.stir c).core c = (s.refreshHeads c).core c := rfl
  rw [hcore]
  unfold State.refreshHeads
  extract_lets fix
  rw [State.core_modCore_same]
  dsimp only
  rw [look_map_filter_of_ne_nil (f := fix) _ h]
  · cases look [] (s.core c).queues i with
    | nil => rfl
    | cons it r =>
      unfold fix
      dsimp only
      split <;> rfl
  · intro i l hl
    cases l with
    | nil => exact absurd rfl hl
    | cons it r => nofun

theorem State.anonBodies_stir (s : State) (c : Nat) : ((s.stir c).core c).anon.map (·.body) = (s.core c).anon.map (·.body) := by
  have hcore : (s.stir c).core c = (s.refreshHeads c).core c := rfl
  rw [hcore]
  unfold State.refreshHeads
  rw [State.core_modCore_same]
  exact List.map_map ..

/-! # Inbox cells (O31) -/

section cells
variable {s : State} {c : Nat}

theorem Memory.setList_append (k : Nat) (l l' : List Byte) (m : List Host.Cell) :
    Memory.setList k (l ++ l') m = Memory.setList (k + l.length) l' (Memory.setList k l m) := by
  induction l generalizing k m with
  | nil => rfl
  | cons b l ih => rw [List.cons_append, Memory.setList, Memory.setList, ih, List.length_cons, Nat.add_right_comm, Nat.add_assoc]

theorem State.engineWrite_sram (k off : Nat) (l : List Byte) (s : State) : s.engineWrite (.sram k off) l false =
    { s with mem := Memory.setList (sramKey k off) l s.mem, poison := (s.engineWrite (.sram k off) l false).poison } := by
  unfold State.engineWrite
  split
  next h => exact absurd h nofun
  · split <;> rfl

/-- A deposit line by line writes its bytes at one place of the cluster's SRAM. -/
theorem State.depositAt_eq {k n off : Nat} {l : List Byte} (hn : l.length ≤ n) {s : State} (hmoved : ∀ o, s.movedTo k o = none) :
    State.depositAt k n off l s = { s with mem := Memory.setList (sramKey k off) l s.mem, poison := (State.depositAt k n off l s).poison } := by
  induction n generalizing off l s with
  | zero =>
    obtain rfl : l = [] := List.length_eq_zero_iff.1 (Nat.le_zero.1 hn)
    rfl
  | succ n ih =>
    cases l with
    | nil => rfl
    | cons b r =>
      have hland : s.landHome (.sram k off) = .sram k off := by
        unfold State.landHome
        dsimp only
        rw [hmoved]
      have hstep : State.depositAt k (n + 1) off (b :: r) s = State.depositAt k n (off + (64 - off % 64)) ((b :: r).drop (64 - off % 64))
          (s.engineWrite (.sram k off) ((b :: r).take (64 - off % 64)) false) := by
        rw [State.depositAt, hland]
        exact nofun
      have hm : 0 < 64 - off % 64 := by omega
      rw [hstep]
      generalize 64 - off % 64 = m at hm ⊢
      have hwrite := State.engineWrite_sram k off ((b :: r).take m) s
      generalize s.engineWrite (.sram k off) ((b :: r).take m) false = t at hwrite ⊢
      have hmem : Memory.setList (sramKey k (off + m)) ((b :: r).drop m) t.mem = Memory.setList (sramKey k off) (b :: r) s.mem := by
        have ht : t.mem = Memory.setList (sramKey k off) ((b :: r).take m) s.mem := by rw [hwrite]
        rw [ht]
        by_cases hlen : (b :: r).length ≤ m
        · rw [List.drop_eq_nil_of_le hlen, List.take_of_length_le hlen]
          rfl
        · have hkey : sramKey k (off + m) = sramKey k off + ((b :: r).take m).length := by
            rw [List.length_take, Nat.min_eq_left (by omega)]
            exact (Nat.add_assoc ..).symm
          rw [hkey, ← Memory.setList_append, List.take_append_drop]
      have hrest := ih (off := off + m) (l := (b :: r).drop m) (by rw [List.length_drop]; omega) (s := t) (by rw [hwrite]; exact hmoved)
      rw [hmem] at hrest
      refine hrest.trans ?_
      rw [hwrite]

theorem State.deposit_eq {cell : Nat} {l : List Byte} (hrole : s.scratchRole (clusterOf c) cell l.length = true)
    (hmoved : ∀ o, s.movedTo (clusterOf c) o = none) :
    s.deposit c cell l = { s with mem := Memory.setList (sramKey (clusterOf c) cell) l s.mem, poison := (s.deposit c cell l).poison } := by
  have hdeposit : s.deposit c cell l = if l.isEmpty then s else State.depositAt (clusterOf c) (l.length + 1) cell l s := by
    unfold State.deposit
    rw [hrole]
    simp
  rw [hdeposit]
  split
  next h =>
    obtain rfl : l = [] := List.isEmpty_iff.1 h
    rfl
  · exact State.depositAt_eq (Nat.le_succ _) hmoved

theorem exec_inboxCellAssignment_none (h : ∀ e ∈ (s.core s.arg.a).queues, ∀ it ∈ e.2, it.needsCell = false) :
    exec .inboxCellAssignment s = .next s := by
  have hany : ((s.core s.arg.a).queues.any fun e => e.2.any QItem.needsCell) = false :=
    List.any_eq_false.2 fun e he => by simpa using h e he
  show execInboxCellAssignment s = _
  unfold execInboxCellAssignment
  dsimp only
  rw [hany]
  rfl

theorem State.giveCell_first {i sender cell : Nat} {m : Msg} {since : Option Nat} (hq : look [] (s.core c).queues i = [⟨.msg m none, sender, since⟩])
    (hpay : m.payload ≠ []) (hen : (look ClassD.reset (s.core c).classes (s.entry c i).cls).inboxen = true)
    (hfree : s.freeInbox c (s.entry c i).cls = some cell) : s.giveCell c i 0 = (s.deposit c cell m.payload).modCore c fun k =>
      { k with queues := put i [⟨.msg m (some cell), sender, since⟩] k.queues } := by
  have hneeds : (⟨.msg m none, sender, since⟩ : QItem).needsCell = true := by
    show (!m.payload.isEmpty) = true
    simpa using hpay
  unfold State.giveCell
  dsimp only
  rw [hq]
  dsimp only [List.getElem?_cons_zero]
  rw [hneeds, hen, hfree]
  rfl

/-- A head with its cell stays at the head. -/
theorem State.dropHeads_withCell {i f sender cell : Nat} {m : Msg} {since : Option Nat} {r : List QItem}
    (hq : look [] (s.core c).queues i = ⟨.msg m (some cell), sender, since⟩ :: r) : s.dropHeads c i f = s := by
  cases f with
  | zero => rfl
  | succ f =>
    unfold State.dropHeads
    rw [hq]
    rfl

/-- The one queue's head that waits for a cell gets it. -/
theorem exec_inboxCellAssignment_one {i sender cell : Nat} {m : Msg} {since : Option Nat}
    (hq : (s.core s.arg.a).queues = [(i, [⟨.msg m none, sender, since⟩])]) (hpay : m.payload ≠ [])
    (hen : (look ClassD.reset (s.core s.arg.a).classes (s.entry s.arg.a i).cls).inboxen = true)
    (hfree : s.freeInbox s.arg.a (s.entry s.arg.a i).cls = some cell) :
    exec .inboxCellAssignment s = .next (((s.deposit s.arg.a cell m.payload).modCore s.arg.a fun k =>
      { k with queues := put i [⟨.msg m (some cell), sender, since⟩] k.queues }).stir s.arg.a) := by
  have hlook : look [] (s.core s.arg.a).queues i = [⟨.msg m none, sender, since⟩] := by
    rw [hq]
    exact if_pos rfl
  have hgive := State.giveCell_first hlook hpay hen hfree
  have hdrop : (s.giveCell s.arg.a i 0).dropHeads s.arg.a i 1 = s.giveCell s.arg.a i 0 := by
    rw [hgive]
    exact State.dropHeads_withCell (r := []) (by rw [State.core_modCore_same]; exact look_put_same ..)
  have hany : ((s.core s.arg.a).queues.any fun e => e.2.any QItem.needsCell) = true := by
    rw [hq]
    simpa [QItem.needsCell] using hpay
  show execInboxCellAssignment s = _
  unfold execInboxCellAssignment
  dsimp only
  rw [hany, hq, ← hgive]
  exact congrArg (fun t : State => Host.Outcome.next (t.stir s.arg.a)) hdrop

end cells

section cells
variable {s : State} {c cell i : Nat} {l : List Byte} {it : QItem}

/-- What a core is after a payload's bytes have been put into a cell of its inbox, and the message at the head of queue `i` has the cell. -/
theorem State.deposit_queued (hrole : s.scratchRole (clusterOf c) cell l.length = true) (hmoved : ∀ o, s.movedTo (clusterOf c) o = none) :
    let t := ((s.deposit c cell l).modCore c fun k => { k with queues := put i [it] k.queues }).stir c
    t.slots = s.slots ∧ t.bytesAt (sramKey (clusterOf c) cell) l.length = l ∧
      (∀ a, (a < sramKey (clusterOf c) cell ∨ sramKey (clusterOf c) cell + l.length ≤ a) → t.byteAt a = s.byteAt a) ∧
      (look [] (t.core c).queues i).map (·.body) = [it.body] := by
  intro t
  have hdeposit := State.deposit_eq hrole hmoved
  have hslots : t.slots = (s.deposit c cell l).slots := rfl
  have hbyte (a : Nat) : t.byteAt a = (s.setBytes (sramKey (clusterOf c) cell) l).byteAt a := by
    have hmem : t.mem = (s.deposit c cell l).mem := rfl
    rw [State.byteAt, hmem, hdeposit]
    rfl
  have hbytes : t.bytesAt (sramKey (clusterOf c) cell) l.length = (s.setBytes (sramKey (clusterOf c) cell) l).bytesAt (sramKey (clusterOf c) cell) l.length :=
    List.map_congr_left fun j _ => hbyte _
  have hqueue : look [] (((s.deposit c cell l).modCore c fun k => { k with queues := put i [it] k.queues }).core c).queues i = [it] := by
    rw [State.core_modCore_same]
    exact look_put_same ..
  refine ⟨by rw [hslots, hdeposit], hbytes.trans (State.bytesAt_setBytes ..), fun a ha => (hbyte a).trans (State.byteAt_setBytes_other ha s), ?_⟩
  exact (State.queueBodies_stir (by rw [hqueue]; nofun)).trans (congrArg (List.map (·.body)) hqueue)

end cells

/-- Settles O31: the one thing held goes on once its credit is there, and the one message that waits for a cell gets the lowest free one. -/
theorem heldWorkAndInboxCells : Obligations.HeldWorkAndInboxCells := by
  unfold Obligations.HeldWorkAndInboxCells
  intro s c k
  refine ⟨fun hheld => ?_, fun m dst n v hheld hspend => ?_, fun m dst n hheld havail => ?_, exec_inboxCellAssignment_none,
    fun i m sender since cell hq hpay _ hen hfree hrole hmoved => ⟨_, exec_inboxCellAssignment_one hq hpay hen hfree, ?_⟩⟩
  · rw [exec_tableEntryWaitRelease, show (s.core s.arg.a).held = [] from hheld]
    rfl
  · rw [exec_tableEntryWaitRelease, State.tryHeld_one hheld, State.retryHeld_forward_spent hspend]
    rfl
  · rw [exec_tableEntryWaitRelease, State.tryHeld_one hheld, State.retryHeld_forward_waits]
    · rfl
    · refine State.spend_of_avail_zero ?_
      rw [State.credit, State.core_modCore_same]
      exact havail
  · exact State.deposit_queued hrole hmoved

end Sys2Proof.Machine

namespace Sys2Proof.Machine

/-! # Arrivals (O30) -/

section arrivals
variable {s u : State} {p : Packet} {m : Msg}

theorem State.takes_eq (h : s.takes p u) : u = { s with net := u.net } := by
  obtain ⟨htake, -⟩ := h
  unfold State.takePacket at htake
  split at htake
  · exact absurd htake nofun
  · cases htake
    rfl

theorem State.takeArrival_of_takes {t : State} (h : s.takes p u) (hb : p.body = .invoke m) (ht : u.arrive (numCore p.dst) m = .ok t) : s.takeArrival = t := by
  obtain ⟨htake, hcut⟩ := h
  have hbody : u.takeBody (numCore p.dst) p = .ok t := by
    unfold State.takeBody
    rw [hb]
    exact ht
  unfold State.takeArrival State.receive
  rw [htake]
  dsimp only
  rw [hcut, Bool.and_false, if_neg nofun, hbody]

theorem exec_invocationArrival {t : State} (h : s.takes p u) (hb : p.body = .invoke m) (ht : u.arrive (numCore p.dst) m = .ok t) :
    exec .invocationArrival s = .next t := congrArg _ (State.takeArrival_of_takes h hb ht)

theorem exec_forwardedInvocationArrival {t : State} (h : s.takes p u) (hb : p.body = .invoke m) (ht : u.arrive (numCore p.dst) m = .ok t) :
    exec .forwardedInvocationArrival s = .next t := congrArg _ (State.takeArrival_of_takes h hb ht)

end arrivals

section arrive
variable {u : State} {m : Msg} {c i : Nat}

/-- A message without a reply that is not taken: its credit goes back, and where it broke STALE its sender is told. -/
theorem State.failMsg_noReply (hr : m.reply = 0) (he : m.expansion = none) (hf : m.fault = none) (reason : Nat) (origin : Word) (cause : Nat) :
    u.failMsg c m reason origin cause = some ((u.tellStale c (m.breaks reason origin cause)).creditBack c m) := by
  unfold State.failMsg State.breakReply State.expEnd
  rw [hf, hr, he]
  rfl

theorem State.tellStale_other {reason : Nat} (hreason : reason ≠ rSTALE) (origin : Word) (cause : Nat) : u.tellStale c (m.breaks reason origin cause) = u := by
  unfold State.tellStale Msg.breaks
  rw [if_neg hreason]

/-- The sender of a message that broke STALE frees its send pair, at once or by a notice (R50). -/
theorem State.tellStale_stale (origin : Word) (cause : Nat) : u.tellStale c (m.breaks rSTALE origin cause) =
    if m.sender = u.numOf c then u.freeSend c m.target
    else u.sendPacket (u.numOf c) m.sender (.resolve 0 { Resol.brk rSTALE origin cause with stale := some (m.sender, m.target) } 2 0) := by
  unfold State.tellStale Msg.breaks
  rw [if_pos rfl]
  dsimp only
  split
  next h =>
    unfold State.freeStale
    exact if_pos h
  · rfl

theorem State.booksOnly_creditBack (c : Nat) (m : Msg) (s : State) : s.booksOnly (s.creditBack c m) :=
  State.booksOnly.ite State.booksOnly.rfl (State.booksOnly_sendPacket ..)

theorem State.arrive_foreign (hs : isSup c = false) (hf : m.fault = none) (he : m.expansion = none) (hr : m.reply = 0) (hcap : m.cap ≠ u.partKey c) :
    u.arrive c m = .ok ((u.record cCAPABILITY (m.channel.toNat + m.sender % 2 ^ 25 * 2 ^ 16) m.target m.reply).creditBack c m) := by
  have hcond : !isSup c ∧ m.fault.isNone ∧ m.cap ≠ u.partKey c := ⟨by rw [hs]; rfl, by rw [hf]; rfl, hcap⟩
  unfold State.arrive
  rw [if_pos hcond]
  dsimp only
  rw [State.failMsg_noReply hr he hf, State.tellStale_other (by decide)]

section ownKey
variable (hcap : m.cap = u.partKey c)
include hcap

theorem State.arrive_forward (hfwd : m.fwd = true) : u.arrive c m = u.atForward c m := by
  unfold State.arrive
  rw [if_neg fun h => h.2.2 hcap, if_pos hfwd]

theorem State.arrive_anon (hfwd : m.fwd = false) (hidx : hIdx m.target = 0) (hquar : (u.core c).quar = false) :
    u.arrive c m = .ok ((u.usePlace c).joinAnon c ⟨.anon (m.reply.setWidth 48) m.arg0 m.arg1 m.arg2 m.arg3 m.expansion, m.sender, none⟩) := by
  unfold State.arrive
  rw [if_neg fun h => h.2.2 hcap, if_neg (by rw [hfwd]; nofun), if_pos hidx, if_neg (by rw [hquar]; nofun)]

theorem State.arrive_target (hfwd : m.fwd = false) (hidx : hIdx m.target ≠ 0) (hkind : hKind m.target ≠ 1) :
    u.arrive c m = u.atTarget c (hIdx m.target) (hGen m.target) m := by
  unfold State.arrive
  rw [if_neg fun h => h.2.2 hcap, if_neg (by rw [hfwd]; nofun), if_neg hidx, if_neg fun h => hkind h.1]

end ownKey

/-! ## At the target -/

theorem State.atTarget_stale {gen : Nat} (hstale : (u.entry c i).st = 0 ∨ (u.entry c i).gen ≠ gen) (hr : m.reply = 0) (he : m.expansion = none)
    (hf : m.fault = none) : u.atTarget c i gen m = .ok ((u.tellStale c (m.breaks rSTALE (ownOrigin 0) 0)).creditBack c m) := by
  unfold State.atTarget
  dsimp only
  rw [if_pos hstale, State.failMsg_noReply hr he hf, hr]

/-- With nothing in the reorder area nothing follows a message that was in sequence. -/
theorem State.deliverHeld_of_nil (h : (u.core c).reorder = []) (keyh sender f : Nat) : u.deliverHeld c i keyh sender f = u := by
  cases f with
  | zero => rfl
  | succ f =>
    unfold State.deliverHeld
    split
    · rfl
    · rw [h]
      rfl

theorem State.atTarget_inSequence {gen n : Nat} {q : Pair} {v t : State} (hs : isSup c = false) (hst : (u.entry c i).st ≠ 0) (hgen : (u.entry c i).gen = gen)
    (hpair : u.recvPair c i m.sender (hKey m.target) = some (n, q, v)) (hseq : m.seq = q.num)
    (ht : (v.setPair c true n { q with num := q.num + 1 }).deliver c i m = .ok t) (hreorder : (t.core c).reorder = []) :
    u.atTarget c i gen m = .ok t := by
  have hdist : (m.seq - q.num).toNat = 0 := by
    rw [hseq, BitVec.sub_self]
    rfl
  unfold State.atTarget
  dsimp only
  rw [if_neg (not_or.2 ⟨hst, not_not_intro hgen⟩), if_neg (by rw [hs]; nofun), hpair]
  dsimp only
  rw [if_pos hdist, ht]
  dsimp only
  rw [State.deliverHeld_of_nil hreorder]

/-- The last row of R17, for a message without a reply and without a payload: it joins the tail of its object's queue. -/
theorem State.deliver_queues (hquar : (u.core c).quar = false) (hclass : (look ClassD.reset (u.core c).classes (u.entry c i).cls).valid = true)
    (hhandler : (look Handler.reset (u.core c).handlers (64 * (u.entry c i).cls + m.channel.toNat)).valid = true)
    (hrole : (u.entry c i).role = 0 ↔ (look ClassD.reset (u.core c).classes (u.entry c i).cls).datum = false) (hpay : m.payload = [])
    (hpoison : m.poisoned = false) (hargs : ∀ j < 4, m.kind j = 1 → u.brokenArg c (m.arg j) = none) (hr : m.reply = 0) :
    u.deliver c i m = .ok ((u.usePlace c).joinQueue c i ⟨.msg m none, m.sender, none⟩) := by
  have hkind : (decide ((u.entry c i).role = 0) == (look ClassD.reset (u.core c).classes (u.entry c i).cls).datum) = false := by
    cases hd : (look ClassD.reset (u.core c).classes (u.entry c i).cls).datum <;> simp [hrole, hd]
  have hbad : ((List.range 4).findSome? fun j => if m.kind j = 1 then u.brokenArg c (m.arg j) else none) = none :=
    List.findSome?_eq_none_iff.2 fun j hj => by
      split
      next h => exact hargs j (List.mem_range.1 hj) h
      · rfl
  have hreply : u.acceptReply c m = .ok u := if_pos hr
  unfold State.deliver
  dsimp only
  rw [if_neg (by rw [hquar]; nofun), if_neg (by rw [hclass, hhandler, hkind]; nofun), if_neg (by rw [hpay]; nofun), if_neg (by rw [hpoison]; nofun),
    hbad]
  dsimp only
  rw [hreply]
  dsimp only
  rw [if_pos (by rw [hpay]; rfl)]

/-! ## On a promise -/

theorem State.atForward_waits (hkey : u.keyedIndex c m.target = none) (hroom : (u.core c).reorder.length < 64) :
    u.atForward c m = .ok ((u.modCore c fun k => { k with reorder := k.reorder ++ [m] }).usePlace c) := by
  unfold State.atForward
  rw [hkey]
  exact if_pos hroom

theorem State.atForward_moved {j : Nat} {v : State} (hkey : u.keyedIndex c m.target = some j) (hst : (u.entry c j).st = 1)
    (hmoved : (u.entry c j).moved = true) (hfwd : u.forward c m (u.entry c j).loc = some v) : u.atForward c m = .ok (v.creditBack c m) := by
  have hpass : u.passOn c m m.fwd (u.entry c j).loc = .ok (v.creditBack c m) := by
    unfold State.passOn
    rw [hfwd]
  unfold State.atForward
  rw [hkey]
  exact (if_pos hst).trans ((if_pos hmoved).trans hpass)

end arrive

section places
variable {u : State} {c i : Nat}

theorem State.storageOnly_setEntry (c i : Nat) (e : HEntry) (s : State) : s.storageOnly (s.setEntry c i e) := by
  unfold State.setEntry
  refine State.storageOnly.ite State.storageOnly.rfl ?_
  split
  · exact State.storageOnly.rfl
  · exact s.storageOnly_homeWrite ..

theorem State.slots_recvPair {sender keyh n : Nat} {q : Pair} {v : State} (h : u.recvPair c i sender keyh = some (n, q, v)) : v.slots = u.slots := by
  unfold State.recvPair at h
  dsimp only at h
  split at h
  · cases h
    rfl
  · split at h
    · exact absurd h nofun
    · split at h
      · exact absurd h nofun
      · cases h
        exact (State.storageOnly_setEntry ..).slots.trans (State.storageOnly_setPair ..).slots

theorem domainOf_core (h : isSup c = false) : domainOf c = clusterOf c := if_neg (by rw [h]; nofun)

/-- A place in the receive queue of a core's cluster is taken. -/
theorem State.cluster_usePlace (h : isSup c = false) : (u.usePlace c).cluster (clusterOf c) =
    { u.cluster (clusterOf c) with used := (u.cluster (clusterOf c)).used + 1 } := by
  unfold State.usePlace
  rw [domainOf_core h]
  exact State.cluster_modCluster_same ..

theorem State.usePlace_core (j : Nat) : (u.usePlace c).core j = u.core j := rfl

theorem State.stir_reorder (s : State) (c : Nat) : ((s.stir c).core c).reorder = (s.core c).reorder := by
  have hcore : (s.stir c).core c = (s.refreshHeads c).core c := rfl
  rw [hcore]
  unfold State.refreshHeads
  rw [State.core_modCore_same]

theorem State.joinQueue_reorder (it : QItem) : (((u.usePlace c).joinQueue c i it).core c).reorder = (u.core c).reorder := by
  unfold State.joinQueue
  rw [State.stir_reorder, State.core_modCore_same, State.usePlace_core]

theorem State.joinQueue_bodies (it : QItem) : let t := (u.usePlace c).joinQueue c i it
    (look [] (t.core c).queues i).map (·.body) = (look [] (u.core c).queues i).map (·.body) ++ [it.body] := by
  intro t
  have hqueue : look [] (((u.usePlace c).modCore c fun k => { k with queues := put i (look [] k.queues i ++ [it]) k.queues }).core c).queues i =
      look [] (u.core c).queues i ++ [it] := by
    rw [State.core_modCore_same]
    exact look_put_same ..
  refine (State.queueBodies_stir (by rw [hqueue]; simp)).trans ?_
  rw [hqueue, List.map_append]
  rfl

theorem State.joinAnon_bodies (it : QItem) : let t := (u.usePlace c).joinAnon c it
    (t.core c).anon.map (·.body) = (u.core c).anon.map (·.body) ++ [it.body] := by
  intro t
  refine (State.anonBodies_stir ..).trans ?_
  rw [State.core_modCore_same]
  exact List.map_append ..

/-- A step that queues a message at its object (R19): the queue grows by it, and a place in the receive queue is taken. -/
theorem State.gives_joinQueue {s : State} {j : Sys2Proof.Instr} {it : QItem} (hexec : exec j s = .next ((u.usePlace c).joinQueue c i it)) (hsup : isSup c = false)
    (hslots : u.slots = s.slots) : s.gives j fun t => t.slots = s.slots ∧
      (look [] (t.core c).queues i).map (·.body) = (look [] (u.core c).queues i).map (·.body) ++ [it.body] ∧
      (t.cluster (clusterOf c)).used = (u.cluster (clusterOf c)).used + 1 :=
  ⟨_, hexec, hslots, State.joinQueue_bodies it, congrArg Cluster.used (State.cluster_usePlace hsup)⟩

end places

/-- Settles O30, by the branches of R16. -/
theorem invocationArrivalQueuesOrBreaks : Obligations.InvocationArrivalQueuesOrBreaks := by
  unfold Obligations.InvocationArrivalQueuesOrBreaks
  intro s u p m htakes hbody hexp hfault c i k e hsup
  have hu := State.takes_eq htakes
  have hslots : u.slots = s.slots := by rw [hu]
  have hmem : u.mem = s.mem := by rw [hu]
  refine ⟨fun pc hpc hcap hfwd hidx hquar => ?anonymous, fun hr => ⟨fun hcap => ?foreign, fun hcap hfwd hidx hkind hstale => ?stale, ?inSequence,
    fun hcap hfwd hkey hroom => ?waits, fun j v hcap hfwd hkey hst hmoved hv => ?moved⟩⟩
  case anonymous =>
    refine ⟨_, exec_invocationArrival htakes hbody (State.arrive_anon hcap hfwd hidx hquar), hslots, hmem, ?_, ?_⟩
    · rw [hpc, hexp]
      exact State.joinAnon_bodies _
    · exact congrArg Cluster.used (State.cluster_usePlace hsup)
  case foreign =>
    have hbooks := State.booksOnly_creditBack c m (u.record cCAPABILITY (m.channel.toNat + m.sender % 2 ^ 25 * 2 ^ 16) m.target m.reply)
    refine ⟨_, exec_invocationArrival htakes hbody (State.arrive_foreign hsup hfault hexp hr hcap), hbooks.slots.trans hslots, hbooks.mem.trans hmem, ?_⟩
    rw [hbooks, hr]
    rfl
  case stale =>
    have ht := State.atTarget_stale (m := m) hstale hr hexp hfault
    rw [State.tellStale_stale] at ht
    exact exec_invocationArrival htakes hbody ((State.arrive_target hcap hfwd hidx hkind).trans ht)
  case inSequence =>
    intro n q v hcap hfwd hidx hkind hst hgen hpair hseq w en cd hquar hclass hhandler hrole hpay hpoison hargs hreorder
    have hw : w.slots = s.slots := ((State.storageOnly_setPair ..).slots.trans (State.slots_recvPair hpair)).trans hslots
    have ht := State.atTarget_inSequence hsup hst hgen hpair hseq (State.deliver_queues hquar hclass hhandler hrole hpay hpoison hargs hr)
      ((State.joinQueue_reorder _).trans hreorder)
    exact State.gives_joinQueue (exec_invocationArrival htakes hbody ((State.arrive_target hcap hfwd hidx hkind).trans ht)) hsup hw
  case waits =>
    refine ⟨_, exec_forwardedInvocationArrival htakes hbody ((State.arrive_forward hcap hfwd).trans (State.atForward_waits hkey hroom)), rfl, ?_, ?_, ?_⟩
    · exact congrArg Core.reorder ((State.usePlace_core _).trans (State.core_modCore_same ..))
    · exact congrArg Cluster.used (State.cluster_usePlace hsup)
    · exact fun j hj => (State.usePlace_core _).trans (State.core_modCore_other hj ..)
  case moved =>
    exact exec_forwardedInvocationArrival htakes hbody ((State.arrive_forward hcap hfwd).trans (State.atForward_moved hkey hst hmoved hv))

end Sys2Proof.Machine

namespace Sys2Proof.Machine

/-! # Admission and the run limit (O32) -/

section admission
variable {s : State} {c k i : Nat} {m : Msg}

/-- The handle table of a core is found and read through no core register but HTBASE. -/
theorem State.entry_modCore (f : Core → Core) (h : (f (s.core c)).htbase = (s.core c).htbase) (i : Nat) :
    (s.modCore c f).entry c i = s.entry c i := by
  unfold State.entry
  rw [State.core_modCore_same, h]
  rfl

/-- A message's place in the receive queue frees with its start. -/
theorem State.slots_freePlace (m : Msg) : (s.freePlace c m).slots = s.slots := (State.booksOnly_creditBack ..).slots

theorem State.slots_flushL1 (n : Nat) : (s.flushL1 n).slots = s.slots := by
  unfold State.flushL1
  split <;> rfl

/-- The acquire that goes with a start (R165) leaves the slots alone. -/
theorem State.slots_acquireStart (wide : Bool) (n : Nat) : ((if wide then s.flushL1 n else s).stir c).slots = s.slots := by
  refine (State.booksOnly_stir ..).slots.trans ?_
  split
  · exact State.slots_flushL1 n
  · rfl

theorem State.slots_number_modSlot (v : State) (k : Nat) :
    (v.number.2.modSlot k fun sl => { sl with actNo := v.number.1 }).slots = (v.modSlot k fun sl => { sl with actNo := v.serial + 1 }).slots := rfl

/-- The slot that a message without a payload starts, of an object whose state is at `state` (R23). -/
def Slot.startedBy (now : Nat) (act : Act) (pc : BitVec 48) (state : Word) (m : Msg) (sl : Slot) : Slot :=
  let arg := fun (j : Nat) => if m.kind j = 3 then 0 else m.arg j
  { ((sl.admitted now act pc).setXs 3 [m.target, state]).setXs 10 [arg 0, arg 1, arg 2, arg 3, 0, 0, 0, 0] with replyh := m.reply, actarg := 0 }

/-- What an activation that a message without a payload starts is (R12, R23). -/
def State.messageAct (c i : Nat) (m : Msg) (s : State) : Act :=
  let cls := (s.entry c i).cls
  let hd := look Handler.reset (s.core c).handlers (64 * cls + m.channel.toNat)
  ⟨i, m.target, false, BitVec.ofNat 4 cls, m.channel, m.kinds, hd.prio, .message, 0, none, hd.pc, none⟩

theorem State.start_message {sender : Nat} {since : Option Nat} (hrole : (s.entry c i).role = 0) (hpay : m.payload = []) (hexp : m.expansion = none) :
    s.start c k (some i) ⟨.msg m none, sender, since⟩ =
      (s.freePlace c m).modSlot k (Slot.startedBy s.cycle (s.messageAct c i m) (s.messageAct c i m).handler (s.entry c i).w1 m) := by
  unfold State.start
  dsimp only [Option.getD_some]
  rw [hrole, hpay, hexp]
  rfl

theorem exec_activationAdmission_shut (h : s.admits s.arg.a = false) : exec .activationAdmission s = .next s := congrArg _ (if_pos (by rw [h]; rfl))

/-- The lowest slot of a core that holds no activation. -/
theorem State.lowestFree (hk : coreOf k = c) (hfree : (s.slot k).active = false) (hready : (s.slot k).ready ≤ s.cycle)
    (hlow : ∀ j, coreOf j = c → j < k → (s.slot j).active = true) :
    (((List.range 8).map fun i => c * 8 + i).filter fun j => !(s.slot j).active).find? (fun j => decide ((s.slot j).ready ≤ s.cycle)) = some k := by
  have hk8 : c * 8 + k % 8 = k := by unfold coreOf at hk; omega
  have hfind : (List.range 8).find? ((fun j => decide ((!(s.slot j).active) = true ∧ decide ((s.slot j).ready ≤ s.cycle) = true)) ∘ fun i => c * 8 + i) =
      some (k % 8) := by
    refine List.find?_range_eq_some.2 ⟨?_, List.mem_range.2 (Nat.mod_lt _ (by decide)), fun j hj => ?_⟩
    · simp [hk8, hfree, hready]
    · have hactive := hlow (c * 8 + j) (by unfold coreOf; omega) (by omega)
      simp [hactive]
  rw [List.find?_filter, List.find?_map, hfind]
  exact congrArg some hk8

/-- The state in which a core starts its chosen head: it has left its queue, and no other starts in this cycle. -/
def State.afterChoice (c : Nat) (a : Cand) (s : State) : State := (s.leaveQueue c a).modCore c fun x => { x with admitted := (s.leaveQueue c a).cycle + 1 }

/-- A core's free slot is started with its chosen head; only what stands around the slots changes after that. -/
theorem exec_activationAdmission_starts {a : Cand} (hadm : s.admits s.arg.a = true) (hchosen : s.chosen s.arg.a = some a)
    (htime : (s.core s.arg.a).admitted ≤ s.cycle) (hk : coreOf k = s.arg.a) (hfree : (s.slot k).active = false) (hready : (s.slot k).ready ≤ s.cycle)
    (hlow : ∀ j, coreOf j = s.arg.a → j < k → (s.slot j).active = true) :
    let v := (s.afterChoice s.arg.a a).start s.arg.a k a.obj a.item
    s.gives .activationAdmission fun t => t.slots = (v.modSlot k fun sl => { sl with actNo := v.serial + 1 }).slots := by
  intro v
  have hfind := State.lowestFree hk hfree hready hlow
  refine ⟨_, rfl, ?_⟩
  dsimp only
  rw [if_neg (by rw [hadm]; nofun), hchosen]
  generalize ((List.range 8).map fun i => s.arg.a * 8 + i).filter (fun j => !(s.slot j).active) = free at hfind
  cases free with
  | nil => exact absurd hfind nofun
  | cons j l =>
    dsimp only
    rw [if_neg (Nat.not_lt.2 htime), hfind]
    exact (State.slots_acquireStart ..).trans (State.slots_number_modSlot v k)

section started
variable {now : Nat} {act : Act} {pc : BitVec 48} {state : Word} {sl : Slot}

theorem Slot.setXs_other (l : List Word) (r : Nat) (sl : Slot) : ∃ x, Slot.setXs r l sl = { sl with x := x } := by
  induction l generalizing r sl with
  | nil => exact ⟨sl.x, rfl⟩
  | cons v l ih =>
    obtain ⟨x, hx⟩ := ih (r + 1) (sl.setX (BitVec.ofNat 5 r) v)
    unfold Slot.setXs
    rw [hx]
    unfold Slot.setX
    split <;> exact ⟨_, rfl⟩

/-- But for its x registers, REPLYH and ACTARG a started slot is as admission leaves it. -/
theorem Slot.startedBy_eq : ∃ x, sl.startedBy now act pc state m = { sl.admitted now act pc with x := x, replyh := m.reply, actarg := 0 } := by
  unfold Slot.startedBy
  dsimp only
  obtain ⟨x, hx⟩ := Slot.setXs_other [m.target, state] 3 (sl.admitted now act pc)
  rw [hx]
  obtain ⟨y, hy⟩ := Slot.setXs_other [if m.kind 0 = 3 then 0 else m.arg 0, if m.kind 1 = 3 then 0 else m.arg 1, if m.kind 2 = 3 then 0 else m.arg 2,
    if m.kind 3 = 3 then 0 else m.arg 3, 0, 0, 0, 0] 10 { sl.admitted now act pc with x := x }
  rw [hy]
  exact ⟨y, rfl⟩

/-- The target, the state address and four arguments with unused registers behind them, set in a slot whose registers read 0. -/
theorem Slot.getX_setXs_start {q : Reg} (h : sl.getX q = 0) (target state a0 a1 a2 a3 : Word) :
    ((sl.setXs 3 [target, state]).setXs 10 [a0, a1, a2, a3, 0, 0, 0, 0]).getX q = if q = 3 then target else if q = 4 then state
      else if q = 10 then a0 else if q = 11 then a1 else if q = 12 then a2 else if q = 13 then a3 else 0 := by
  simp only [Slot.setXs, Slot.getX_setX, h]
  obtain ⟨n, hn⟩ := q
  interval_cases n <;> rfl

/-- The x registers of a started slot (R23). -/
theorem Slot.getX_startedBy (q : Reg) : (sl.startedBy now act pc state m).getX q = if q = 3 then m.target else if q = 4 then state
    else if q = 10 then (if m.kind 0 = 3 then 0 else m.arg0) else if q = 11 then (if m.kind 1 = 3 then 0 else m.arg1)
    else if q = 12 then (if m.kind 2 = 3 then 0 else m.arg2) else if q = 13 then (if m.kind 3 = 3 then 0 else m.arg3) else 0 := by
  have hempty : (sl.admitted now act pc).getX q = 0 := by
    unfold Slot.getX
    split <;> rfl
  exact Slot.getX_setXs_start hempty ..

end started

/-- A head that leaves its queue leaves the core's handlers and its handle table as they are. -/
theorem State.core_leaveQueue (a : Cand) : ((s.leaveQueue c a).core c).handlers = (s.core c).handlers ∧ ((s.leaveQueue c a).core c).htbase = (s.core c).htbase := by
  unfold State.leaveQueue
  rw [State.core_modCore_same]
  split <;> exact ⟨rfl, rfl⟩

theorem State.entry_afterChoice (a : Cand) (i : Nat) : (s.afterChoice c a).entry c i = s.entry c i :=
  (State.entry_modCore _ rfl i).trans (State.entry_modCore _ (by split <;> rfl) i)

theorem State.messageAct_afterChoice (a : Cand) (i : Nat) (m : Msg) : (s.afterChoice c a).messageAct c i m = s.messageAct c i m := by
  have hhandlers : ((s.afterChoice c a).core c).handlers = (s.core c).handlers := by
    unfold State.afterChoice
    rw [State.core_modCore_same]
    exact (State.core_leaveQueue a).1
  unfold State.messageAct
  rw [State.entry_afterChoice, hhandlers]

theorem State.slot_of_slots {t w : State} {f g : Slot → Slot} (ht : t.slots = ((w.modSlot k f).modSlot k g).slots) (hw : w.slots = s.slots) :
    (∀ j, j ≠ k → t.slot j = s.slot j) ∧ t.slot k = g (f (s.slot k)) := by
  have hslot : ∀ j, t.slot j = ((w.modSlot k f).modSlot k g).slot j := fun j => congrArg (look Slot.reset · j) ht
  have hplace : ∀ j, w.slot j = s.slot j := fun j => congrArg (look Slot.reset · j) hw
  refine ⟨fun j hj => ?_, ?_⟩
  · rw [hslot, State.slot_modSlot_other hj, State.slot_modSlot_other hj, hplace]
  · rw [hslot, State.slot_modSlot_same, State.slot_modSlot_same, hplace]

/-- Admission of a message without a payload: slot `k` starts, and the other slots stay. -/
theorem exec_activationAdmission_message {sender prio : Nat} {since : Option Nat} (hadm : s.admits s.arg.a = true)
    (hchosen : s.chosen s.arg.a = some ⟨some i, 0, ⟨.msg m none, sender, since⟩, prio⟩) (htime : (s.core s.arg.a).admitted ≤ s.cycle)
    (hk : coreOf k = s.arg.a) (hfree : (s.slot k).active = false) (hready : (s.slot k).ready ≤ s.cycle)
    (hlow : ∀ j, coreOf j = s.arg.a → j < k → (s.slot j).active = true) (hrole : (s.entry s.arg.a i).role = 0) (hpay : m.payload = [])
    (hexp : m.expansion = none) : let act := s.messageAct s.arg.a i m
    s.gives .activationAdmission fun t => (∀ j, j ≠ k → t.slot j = s.slot j) ∧
      ∃ n, t.slot k = { (s.slot k).startedBy s.cycle act act.handler (s.entry s.arg.a i).w1 m with actNo := n } := by
  intro act
  obtain ⟨t, hexec, ht⟩ := exec_activationAdmission_starts hadm hchosen htime hk hfree hready hlow
  have hstart := State.start_message (s := s.afterChoice s.arg.a ⟨some i, 0, ⟨.msg m none, sender, since⟩, prio⟩) (k := k) (sender := sender)
    (since := since) ((congrArg HEntry.role (State.entry_afterChoice _ i)).trans hrole) hpay hexp
  rw [State.entry_afterChoice, State.messageAct_afterChoice] at hstart
  dsimp only at ht
  rw [hstart] at ht
  obtain ⟨hother, hthis⟩ := State.slot_of_slots ht (State.slots_freePlace ..)
  exact ⟨t, hexec, hother, _, hthis⟩

end admission

section runLimit
variable {s : State}

theorem State.tellHandler_record {c part chan : Nat} {a0 a1 a2 a3 : Word} (h : look 0 s.chip.fhandle part = 0) :
    (s.tellHandler c part chan a0 a1 a2 a3).records = s.records ++ [⟨BitVec.ofNat 16 (0xF0 + chan), BitVec.ofNat 48 part, a0, a1⟩] := by
  unfold State.tellHandler
  rw [if_pos (.inr h)]
  rfl

theorem State.overRun_iff (k : Nat) : s.overRun k = true ↔ (s.slot k).active = true ∧ (s.slot k).park = .run ∧ (s.slot k).frozen = false ∧
    (s.slot k).noticed = false ∧ (s.part (s.corePart (coreOf k))).runlimit.toNat ≠ 0 ∧
    (s.slot k).elapsed + (s.part (s.corePart (coreOf k))).runlimit.toNat ≤ s.cycle := by
  simp [State.overRun, and_assoc]

theorem exec_runLimitExpiry_within (h : s.overRun s.arg.a = false) : exec .runLimitExpiry s = .next s := congrArg _ (if_pos (by rw [h]; rfl))

theorem exec_runLimitExpiry_late (h : s.overRun s.arg.a = true) : let k := s.arg.a; let sl := s.slot k
    exec .runLimitExpiry s = .next ((s.modSlot k fun sl => { sl with noticed := true }).tellHandler (coreOf k) (s.corePart (coreOf k)) 1
      (w64 (s.cycle - sl.elapsed)) (sl.act.handler.setWidth 64) 0 (w64 (slotSpec k))) := congrArg _ (if_neg (by rw [h]; nofun))

end runLimit

/-- Settles O32: the start of a message's slot and the notice of the run limit. -/
theorem admissionStartsActivations : Obligations.AdmissionStartsActivations := by
  unfold Obligations.AdmissionStartsActivations
  refine ⟨fun s => exec_activationAdmission_shut, ?start, fun s => ⟨fun hlate => ?within, fun hlate => ?late⟩⟩
  case start =>
    intro s k i prio m sender since c e hadm hchosen htime hk hfree hready hlow hrole hpay hexp hd
    obtain ⟨t, hexec, hother, n, hthis⟩ := exec_activationAdmission_message hadm hchosen htime hk hfree hready hlow hrole hpay hexp
    obtain ⟨x, hx⟩ := Slot.startedBy_eq (sl := s.slot k) (now := s.cycle) (act := s.messageAct c i m) (pc := hd.pc) (state := e.w1) (m := m)
    have hregs := Slot.getX_startedBy (sl := s.slot k) (now := s.cycle) (act := s.messageAct c i m) (pc := hd.pc) (state := e.w1) (m := m)
    have hthis : t.slot k = { (s.slot k).startedBy s.cycle (s.messageAct c i m) hd.pc e.w1 m with actNo := n } := hthis
    refine ⟨t, hexec, hother, ?_⟩
    rw [hx] at hregs hthis
    rw [hthis]
    exact ⟨rfl, rfl, rfl, rfl, rfl, rfl, rfl, rfl, rfl, rfl, rfl, rfl, rfl, rfl, rfl, rfl, hregs, fun _ => rfl, fun _ => rfl⟩
  case within => exact exec_runLimitExpiry_within (Bool.eq_false_iff.2 fun h => hlate ((State.overRun_iff _).1 h))
  case late =>
    refine ⟨_, exec_runLimitExpiry_late ((State.overRun_iff _).2 hlate), State.onlyTells_of (State.onlySlot_modSlot ..) (State.tellHandler_tells ..),
      ?_, State.tellHandler_halted .., fun hnone => State.tellHandler_record hnone⟩
    exact ((State.tellHandler_tells ..).slot _).trans (State.slot_modSlot_same ..)

end Sys2Proof.Machine

namespace Sys2Proof.Machine

/-! # Reservations and credits (O33) -/

section reservations
variable {s u : State} {p : Packet} {c key : Nat}

/-- A packet for a core that is not cut off is handled as its step says. -/
theorem State.receive_of_takes (h : s.takes p u) (f : Packet → State → State) : s.receive f = f p u := by
  obtain ⟨htake, hcut⟩ := h
  unfold State.receive
  rw [htake]
  dsimp only
  rw [hcut, Bool.and_false, if_neg nofun]

theorem State.credit_setCredit (q : Nat) (v : Credit) : (s.setCredit c key v).credit c q = if q = key then v else s.credit c q := by
  unfold State.credit State.setCredit
  rw [State.core_modCore_same]
  exact look_put ..

theorem State.credit_setCredit_same (v : Credit) : (s.setCredit c key v).credit c key = v := (State.credit_setCredit key v).trans (if_pos rfl)

theorem State.core_setCredit_other {j : Nat} (h : j ≠ c) (v : Credit) : (s.setCredit c key v).core j = s.core j := State.core_modCore_other h ..

theorem State.credit_sendPacket (q a b : Nat) (y : Body) : (s.sendPacket a b y).credit c q = s.credit c q := by
  have hcores : (s.sendPacket a b y).cores = s.cores := (s.tells_sendPacket a b y) ▸ rfl
  unfold State.credit State.core
  rw [hcores]

/-- A step that sets credits of core `c` for one cluster, and has the return of its blocks looked at. -/
theorem State.setCredit_post_spec (v : Credit) (i : Sys2Proof.Instr) (a : Arg) : let t := (u.setCredit c key v).post i a
    t = { u with cores := t.cores, work := t.work } ∧ t.credit c key = v ∧ (∀ q, q ≠ key → t.credit c q = u.credit c q) ∧ ∀ j, j ≠ c → t.core j = u.core j :=
  ⟨rfl, State.credit_setCredit_same v, fun q hq => (State.credit_setCredit q v).trans (if_neg hq), fun _ hj => State.core_setCredit_other hj v⟩

theorem State.grantBlocks_lends {k n : Nat} (h : (u.cluster k).lent < 64) : u.grantBlocks k [n] =
    (u.modCluster k fun c => { c with lent := c.lent + 1, waiters := c.waiters.drop 1 }).sendPacket (coreNum u.chipNo (k * 8)) n (.grant k) :=
  if_neg (by omega)

theorem State.grantBlocks_waits {k n : Nat} (h : 64 ≤ (u.cluster k).lent) : u.grantBlocks k [n] = u := if_pos h

/-- A request at a cluster where nobody waits: it joins the waiting ones, and is served if a block is left. -/
theorem exec_reservationRequest {k : Nat} (h : s.takes p u) (hb : p.body = .resvReq k) (hw : (u.cluster k).waiters = []) :
    exec .reservationRequest s = .next ((u.modCluster k fun c => { c with waiters := c.waiters ++ [p.src] }).grantBlocks k [p.src]) := by
  have hwait : ((u.modCluster k fun c => { c with waiters := c.waiters ++ [p.src] }).cluster k).waiters = [p.src] := by
    rw [State.cluster_modCluster_same, hw]
    rfl
  unfold exec
  unfold execReservationRequest
  rw [h.1]
  dsimp only
  rw [State.receive_of_takes h, hb]
  dsimp only
  rw [hwait]

theorem exec_reservationGrant {k : Nat} (h : s.takes p u) (hb : p.body = .grant k) : let c := numCore p.dst; let key := numChip p.src * 256 + k
    let v := u.credit c key
    exec .reservationGrant s = .next ((u.setCredit c key { v with blocks := v.blocks + 1, avail := v.avail + 8, requested := false, last := u.cycle }).post
      .reservationBlockReturn (arg2 c key)) := by
  refine congrArg _ ((State.receive_of_takes h _).trans ?_)
  rw [hb]
  rfl

theorem exec_creditReturn {k : Nat} (h : s.takes p u) (hb : p.body = .credit k) : let c := numCore p.dst; let key := numChip p.src * 256 + k
    let v := u.credit c key
    exec .creditReturn s = .next ((u.setCredit c key { v with avail := min (v.avail + 1) (8 * v.blocks) }).post .reservationBlockReturn (arg2 c key)) := by
  refine congrArg _ ((State.receive_of_takes h _).trans ?_)
  rw [hb]
  rfl

theorem State.credit_returnBlock (q : Nat) : (s.returnBlock c key).credit c q =
    if q = key then { s.credit c key with blocks := (s.credit c key).blocks - 1, avail := (s.credit c key).avail - 8 } else s.credit c q :=
  (State.credit_sendPacket ..).trans (State.credit_setCredit ..)

/-- Blocks that go back one after the other. -/
theorem State.credit_returnBlocks (l : List Nat) (q : Nat) : (l.foldl (fun s _ => s.returnBlock c key) s).credit c q =
    if q = key then { s.credit c key with blocks := (s.credit c key).blocks - l.length, avail := (s.credit c key).avail - 8 * l.length } else s.credit c q := by
  induction l generalizing s with
  | nil => split <;> simp_all
  | cons a l ih =>
    rw [List.foldl_cons, ih, State.credit_returnBlock, State.credit_returnBlock, if_pos rfl]
    split
    · rw [List.length_cons, Nat.sub_sub, Nat.sub_sub, Nat.add_comm 1, Nat.mul_add, Nat.add_comm 8]
    · rfl

/-- The blocks that go back are all of the cluster key that the step names. -/
theorem State.returnBlocks_eq (l : List Nat) (h : s.arg.b = key) :
    l.foldl (fun (t : State) _ => t.returnBlock c t.arg.b) s = l.foldl (fun t _ => t.returnBlock c key) s := by
  induction l generalizing s with
  | nil => rfl
  | cons a l ih =>
    have harg : (s.returnBlock c key).arg = s.arg := by rw [State.booksOnly_returnBlock (c := c) (key := key) s]
    rw [List.foldl_cons, List.foldl_cons, h]
    exact ih (by rw [harg, h])

theorem exec_reservationBlockReturn_early (hblocks : (s.credit s.arg.a s.arg.b).blocks ≠ 0) (havail : 8 ≤ (s.credit s.arg.a s.arg.b).avail)
    (hlast : s.cycle < (s.credit s.arg.a s.arg.b).last + 10000) : exec .reservationBlockReturn s = .next s.defer :=
  congrArg Host.Outcome.next ((if_neg (by omega)).trans (if_pos hlast))

theorem exec_reservationBlockReturn_back (hblocks : (s.credit s.arg.a s.arg.b).blocks ≠ 0) (havail : 8 ≤ (s.credit s.arg.a s.arg.b).avail)
    (hlast : (s.credit s.arg.a s.arg.b).last + 10000 ≤ s.cycle) : exec .reservationBlockReturn s =
      .next ((List.range ((s.credit s.arg.a s.arg.b).avail / 8)).foldl (fun t _ => t.returnBlock s.arg.a s.arg.b) s) :=
  congrArg Host.Outcome.next ((if_neg (by omega)).trans ((if_neg (by omega)).trans (State.returnBlocks_eq _ rfl)))

end reservations

/-- Settles O33, step by step. -/
theorem reservationsAndCredits : Obligations.ReservationsAndCredits := by
  unfold Obligations.ReservationsAndCredits
  refine ⟨fun s u p htakes => ?packets, fun s => ?blocks, fun s c key => ?spend⟩
  case packets =>
    have hu := State.takes_eq htakes
    have hslots : u.slots = s.slots := by rw [hu]
    have hmem : u.mem = s.mem := by rw [hu]
    refine ⟨fun k hb hw => ⟨fun hlent => ?lends, fun hlent => ?waits⟩, fun k hb => ?grant, fun k hb => ?credit⟩
    case lends =>
      refine ⟨_, exec_reservationRequest htakes hb hw, ?_⟩
      rw [State.grantBlocks_lends (by rw [State.cluster_modCluster_same]; exact hlent)]
      generalize hv : State.modCluster k (fun c => { c with lent := c.lent + 1, waiters := c.waiters.drop 1 }) _ = v
      have hcluster : v.cluster k = { u.cluster k with lent := (u.cluster k).lent + 1, waiters := [] } := by
        rw [← hv, State.cluster_modCluster_same, State.cluster_modCluster_same, hw]
        rfl
      have hbooks : v.booksOnly (v.sendPacket (coreNum u.chipNo (k * 8)) p.src (.grant k)) := State.booksOnly_sendPacket ..
      have hsent : (v.sendPacket (coreNum u.chipNo (k * 8)) p.src (.grant k)).cluster k = v.cluster k := by
        unfold State.cluster
        rw [hbooks.clusters]
      refine ⟨?_, ?_, ?_, ?_, v, by rw [← hv]; rfl, by rw [← hv]; rfl, by rw [← hv]; rfl⟩
      · exact (hbooks.slots.trans (by rw [← hv]; rfl)).trans hslots
      · exact (hbooks.mem.trans (by rw [← hv]; rfl)).trans hmem
      · exact congrArg Cluster.lent (hsent.trans hcluster)
      · exact congrArg Cluster.waiters (hsent.trans hcluster)
    case waits =>
      refine ⟨_, exec_reservationRequest htakes hb hw, ?_⟩
      rw [State.grantBlocks_waits (by rw [State.cluster_modCluster_same]; exact hlent)]
      dsimp only
      rw [State.cluster_modCluster_same, hw]
      exact ⟨rfl, rfl, rfl⟩
    case grant => exact ⟨_, exec_reservationGrant htakes hb, State.setCredit_post_spec _ _ _⟩
    case credit => exact ⟨_, exec_creditReturn htakes hb, State.setCredit_post_spec _ _ _⟩
  case blocks =>
    refine ⟨fun h => congrArg _ (if_pos h), fun hblocks havail hlast => ?early, fun hblocks havail hlast => ?back⟩
    case early => exact exec_reservationBlockReturn_early hblocks havail hlast
    case back =>
      have hbooks : s.booksOnly ((List.range ((s.credit s.arg.a s.arg.b).avail / 8)).foldl (fun t _ => t.returnBlock s.arg.a s.arg.b) s) :=
        State.booksOnly.foldl (fun u _ => State.booksOnly_returnBlock u) _ State.booksOnly.rfl
      refine ⟨_, exec_reservationBlockReturn_back hblocks havail hlast, hbooks.slots, hbooks.mem, ?_, fun q hq => ?_⟩
      · rw [State.credit_returnBlocks, if_pos rfl, List.length_range]
        rw [show (s.credit s.arg.a s.arg.b).avail - 8 * ((s.credit s.arg.a s.arg.b).avail / 8) = (s.credit s.arg.a s.arg.b).avail % 8 by omega]
      · rw [State.credit_returnBlocks, if_neg hq]
  case spend =>
    constructor
    · intro h
      by_contra hne
      obtain ⟨t, ht⟩ := State.spend_of_avail hne
      exact absurd (h.symm.trans ht) nofun
    · exact State.spend_of_avail_zero
end Sys2Proof.Machine

namespace Sys2Proof.Machine

/-! # What a table is read from

A handle table, a sequence area and a translation table are read from the stored bytes with their marks, under the keys, through the roots. -/

/-- What reads at a home and through a translation root come to is the same in both states. -/
structure State.storesAs (s t : State) : Prop where
  mem : t.mem = s.mem
  poison : t.poison = s.poison
  l2 : t.l2 = s.l2
  errors : t.errors = s.errors
  written : t.written = s.written
  keys : t.chip.keys = s.chip.keys
  repair : t.chip.repair = s.chip.repair
  roots : ∀ d, t.rootOf d = s.rootOf d

section reads
variable {s t : State} (h : s.storesAs t)
include h

theorem State.storesAs.lpByte (ks pa : Nat) : t.lpByte ks pa = s.lpByte ks pa := by
  unfold State.lpByte State.keyOf State.byteAt
  rw [h.written, h.keys, h.mem]

theorem State.storesAs.homeByte (a : Home) : t.homeByte a = s.homeByte a := by
  cases a with
  | sram k off => exact congrArg (Memory.get · _) h.mem
  | dram sl pa p ks =>
    unfold State.homeByte State.l2Has State.byteAt
    dsimp only
    rw [h.l2, h.mem, h.lpByte]

theorem State.storesAs.homeBytes (a : Home) (n : Nat) : t.homeBytes a n = s.homeBytes a n :=
  List.map_congr_left fun _ _ => h.homeByte _

theorem State.storesAs.homePoison (a : Home) : t.homePoison a = s.homePoison a := by
  cases a with
  | sram k off => exact congrArg (look false · _) h.poison
  | dram sl pa p ks =>
    unfold State.homePoison State.l2Has State.lpPoison State.keyLoaded State.poisonAt State.correctable State.unknownErrors State.erasure State.badSymbols
    dsimp only
    rw [h.l2, h.keys, h.poison, h.errors, h.repair]

theorem State.storesAs.walkFrom (va n tab : Nat) : t.walkFrom va n tab = s.walkFrom va n tab := by
  induction n generalizing tab with
  | zero => rfl
  | succ n ih =>
    have hentry (pa : Nat) : t.tableEntry pa = s.tableEntry pa := by
      unfold State.tableEntry
      rw [h.homeBytes]
    unfold State.walkFrom
    dsimp only
    rw [hentry, h.homePoison, ih]

theorem State.storesAs.peek (c va : Nat) : t.peek c va = s.peek c va := by
  unfold State.peek
  dsimp only
  rw [h.roots, h.walkFrom]

variable {c : Nat} (hbase : (t.core c).htbase = (s.core c).htbase)
include hbase

theorem State.storesAs.entry (i : Nat) : t.entry c i = s.entry c i := by
  unfold State.entry
  dsimp only
  rw [hbase, h.peek]
  simp only [h.homeBytes]

theorem State.storesAs.tablePages : t.tablePages c = s.tablePages c := by
  unfold State.tablePages
  dsimp only
  rw [hbase]
  simp only [h.peek]

omit hbase in
theorem State.storesAs.entryWord (pages : List (Option Home)) (i j : Nat) : t.entryWord pages i j = s.entryWord pages i j := by
  unfold State.entryWord
  simp only [h.homeBytes]

theorem State.storesAs.freeIndex : t.freeIndex c = s.freeIndex c := by
  unfold State.freeIndex
  dsimp only
  rw [h.tablePages hbase]
  simp only [h.entryWord]

theorem State.storesAs.keyedIndex (key : Word) : t.keyedIndex c key = s.keyedIndex c key := by
  unfold State.keyedIndex
  dsimp only
  rw [h.tablePages hbase]
  simp only [h.entryWord]

end reads
end Sys2Proof.Machine

namespace Sys2Proof.Machine

/-! # What writes at a home do not look at

A write at a home looks neither at the cores' books nor at the chip's number, and changes none of them. -/

/-- `s` with other cores, on a chip of another number. -/
def State.rebook (cs : SMap Core) (n : BitVec 14) (s : State) : State := { s with cores := cs, chip := { s.chip with chipid := n } }

section rebook
variable (cs : SMap Core) (n : BitVec 14) (s : State)

theorem State.foldl_rebook {α : Type} {f : State → α → State} (hf : ∀ u a, f (u.rebook cs n) a = (f u a).rebook cs n) (l : List α) :
    l.foldl f (s.rebook cs n) = (l.foldl f s).rebook cs n := by
  induction l generalizing s with
  | nil => rfl
  | cons a l ih => rw [List.foldl_cons, hf, ih]; rfl

/-- A choice between two states, each of which comes of the rebooked state. -/
theorem State.rebook_ite {c : Prop} [Decidable c] {t u t' u' : State} (ht : t' = t.rebook cs n) (hu : u' = u.rebook cs n) :
    (if c then t' else u') = (if c then t else u).rebook cs n := by
  rw [ht, hu, apply_ite (State.rebook cs n)]

theorem State.recordPosition_rebook (line sym : Nat) : (s.rebook cs n).recordPosition line sym = (s.recordPosition line sym).rebook cs n := by
  exact State.rebook_ite cs n rfl rfl

theorem State.correctedAt_rebook (line : Nat) (once : Bool) (sym : Nat) : (s.rebook cs n).correctedAt line once sym = (s.correctedAt line once sym).rebook cs n := by
  exact State.rebook_ite cs n (State.recordPosition_rebook ..) rfl

theorem State.decodeLine_rebook (line : Nat) : (s.rebook cs n).decodeLine line = (s.decodeLine line).rebook cs n := by
  exact State.rebook_ite cs n rfl (State.rebook_ite cs n (State.foldl_rebook cs n s (fun _ _ => State.correctedAt_rebook ..) _) rfl)

theorem State.renew_rebook (pa : Nat) (whole : Bool) : (s.rebook cs n).renew pa whole = (s.renew pa whole).rebook cs n := by
  unfold State.renew
  extract_lets ok' t' src' ok t src
  have ht : t' = t.rebook cs n := State.rebook_ite cs n rfl (State.decodeLine_rebook ..)
  have hsrc : src' = src.rebook cs n := State.rebook_ite cs n ht (by rw [ht]; rfl)
  refine State.rebook_ite cs n rfl ?_
  rw [hsrc, ht]
  rfl

theorem State.keyRecord_rebook (ks pa : Nat) : (s.rebook cs n).keyRecord ks pa = (s.keyRecord ks pa).rebook cs n := by
  exact State.rebook_ite cs n rfl rfl

theorem State.lpByte_rebook (ks pa : Nat) : (s.rebook cs n).lpByte ks pa = s.lpByte ks pa := rfl

theorem State.setBytes_rebook (k : Nat) (l : List Byte) : (s.rebook cs n).setBytes k l = (s.setBytes k l).rebook cs n := rfl

theorem State.lpWrite_rebook (ks pa : Nat) (l : List Byte) : (s.rebook cs n).lpWrite ks pa l = (s.lpWrite ks pa l).rebook cs n := by
  unfold State.lpWrite
  extract_lets base t' u' src' t u src
  have ht : t' = t.rebook cs n := State.renew_rebook ..
  have hu : u' = u.rebook cs n := by
    unfold u' u
    rw [ht]
    cases hw : find? t.written (pa / 64) with
    | none =>
      have hw' : find? (t.rebook cs n).written (pa / 64) = none := hw
      rw [hw']
    | some w =>
      have hw' : find? (t.rebook cs n).written (pa / 64) = some w := hw
      rw [hw']
      refine State.rebook_ite cs n rfl ?_
      simp only [State.lpByte_rebook, State.setBytes_rebook]
  have hsrc : src' = src.rebook cs n := by
    unfold src' src
    rw [hu]
    rfl
  refine State.rebook_ite cs n (State.keyRecord_rebook ..) ?_
  rw [hsrc, ht]
  rfl

theorem State.setLineFull_rebook (k : Nat) (b : Byte) : (s.rebook cs n).setLineFull k b = (s.setLineFull k b).rebook cs n :=
  State.foldl_rebook cs n s (fun _ _ => rfl) _

theorem State.cleanL2_rebook (slice pa : Nat) : (s.rebook cs n).cleanL2 slice pa = (s.cleanL2 slice pa).rebook cs n := by
  unfold State.cleanL2
  cases hl : find? s.l2 (l2Index slice pa) with
  | none =>
    have hl' : find? (s.rebook cs n).l2 (l2Index slice pa) = none := hl
    rw [hl']
  | some l =>
    have hl' : find? (s.rebook cs n).l2 (l2Index slice pa) = some l := hl
    rw [hl']
    dsimp -zeta only
    extract_lets base k ks t' t
    have ht : t' = t.rebook cs n := rfl
    rw [ht]
    refine State.rebook_ite cs n rfl (State.rebook_ite cs n (State.keyRecord_rebook ..) ?_)
    have hbytes : (if l.mask = BitVec.allOnes 64 then (t.rebook cs n).lpWrite ks base ((List.range 64).map fun i => (t.rebook cs n).byteAt (k + i))
        else ((List.range 64).filter l.mask.getLsbD).foldl (fun (s : State) i => s.lpWrite ks (base + i) [s.byteAt (k + i)]) (t.rebook cs n)) =
        (if l.mask = BitVec.allOnes 64 then t.lpWrite ks base ((List.range 64).map fun i => t.byteAt (k + i))
        else ((List.range 64).filter l.mask.getLsbD).foldl (fun (s : State) i => s.lpWrite ks (base + i) [s.byteAt (k + i)]) t).rebook cs n :=
      State.rebook_ite cs n (State.lpWrite_rebook ..) (State.foldl_rebook cs n t (fun _ _ => State.lpWrite_rebook ..) _)
    rw [hbytes]
    rfl

theorem State.setAreaBits_rebook (pa : Nat) (b : Byte) : (s.rebook cs n).setAreaBits pa b = (s.setAreaBits pa b).rebook cs n := by
  exact State.rebook_ite cs n (State.lpWrite_rebook ..) rfl

theorem State.areaBits_rebook (pa : Nat) : (s.rebook cs n).areaBits pa = s.areaBits pa := rfl

theorem State.evictL2_rebook (slice pa : Nat) : (s.rebook cs n).evictL2 slice pa = (s.evictL2 slice pa).rebook cs n := by
  unfold State.evictL2
  extract_lets base k t' u' src' t u src
  have ht : t' = t.rebook cs n := State.cleanL2_rebook ..
  have hu : u' = u.rebook cs n := by
    unfold u' u
    rw [ht]
    exact State.setAreaBits_rebook ..
  have hsrc : src' = src.rebook cs n := by
    unfold src' src
    rw [hu]
    exact State.setLineFull_rebook cs n (u.setPoison k false) k 0
  refine State.rebook_ite cs n rfl ?_
  rw [hsrc, hu]
  rfl

theorem State.roomL2_rebook (slice pa : Nat) : (s.rebook cs n).roomL2 slice pa = (s.roomL2 slice pa).rebook cs n := by
  unfold State.roomL2
  extract_lets l' l
  refine State.rebook_ite cs n rfl ?_
  cases hv : s.pickVictim l with
  | none =>
    have hv' : (s.rebook cs n).pickVictim l' = none := hv
    rw [hv']
  | some v =>
    have hv' : (s.rebook cs n).pickVictim l' = some v := hv
    rw [hv']
    exact State.evictL2_rebook cs n { s with fresh := s.fresh + 1 } slice (v * 64)

theorem State.fillL2_rebook (slice ks pa : Nat) : (s.rebook cs n).fillL2 slice ks pa = (s.fillL2 slice ks pa).rebook cs n := by
  unfold State.fillL2
  extract_lets t' base k bad' u' v' m' t bad u v m
  have ht : t' = t.rebook cs n := State.roomL2_rebook ..
  have hu : u' = u.rebook cs n := by
    unfold u' u
    rw [ht]
    exact State.decodeLine_rebook ..
  have hv : v' = v.rebook cs n := by
    unfold v' v
    rw [hu]
    exact State.rebook_ite cs n (State.decodeLine_rebook ..) rfl
  have hm : m' = m := by
    unfold m' m
    rw [hv]
    rfl
  have hbad : bad' = bad := by
    unfold bad' bad
    rw [ht]
    rfl
  refine State.rebook_ite cs n rfl ?_
  rw [hv, hm, hbad]
  have hline : ({ v.rebook cs n with mem := m, l2 := put (l2Index slice pa) ⟨false, 0, BitVec.ofNat 8 ks⟩ (v.rebook cs n).l2 } : State).setPoison k bad =
    (({ v with mem := m, l2 := put (l2Index slice pa) ⟨false, 0, BitVec.ofNat 8 ks⟩ v.l2 } : State).setPoison k bad).rebook cs n := rfl
  rw [hline, State.areaBits_rebook, State.setLineFull_rebook, State.keyRecord_rebook]

theorem State.notice_rebook (pa : Nat) : (s.rebook cs n).notice pa = (s.notice pa).rebook cs n :=
  State.foldl_rebook cs n s (fun _ _ => rfl) _

theorem State.homeWrite_rebook (h : Home) (l : List Byte) : (s.rebook cs n).homeWrite h l = (s.homeWrite h l).rebook cs n := by
  cases h with
  | sram k off => rfl
  | dram sl pa p ks =>
    unfold State.homeWrite
    dsimp -zeta only
    extract_lets t' t
    have hmask (u : State) : ((u.rebook cs n).setBytes (l2Key sl pa) l).maskL2 sl pa l.length ks =
        ((u.setBytes (l2Key sl pa) l).maskL2 sl pa l.length ks).rebook cs n := rfl
    have ht : t' = t.rebook cs n := by
      refine State.rebook_ite cs n (State.rebook_ite cs n ?_ (State.lpWrite_rebook ..)) ?_
      · rw [hmask]
        exact State.cleanL2_rebook ..
      · rw [State.fillL2_rebook]
        exact hmask _
    rw [ht]
    exact State.notice_rebook ..

theorem State.storesAs_rebook : s.storesAs (s.rebook cs n) := ⟨rfl, rfl, rfl, rfl, rfl, rfl, rfl, fun _ => rfl⟩

variable {cs n s}

/-- A write of a handle-table entry, where the core's HTBASE is the same. -/
theorem State.setEntry_rebook {c : Nat} (h : (look Core.reset cs c).htbase = (s.core c).htbase) (i : Nat) (e : HEntry) :
    (s.rebook cs n).setEntry c i e = (s.setEntry c i e).rebook cs n := by
  unfold State.setEntry
  dsimp only
  rw [show ((s.rebook cs n).core c).htbase = (s.core c).htbase from h, (State.storesAs_rebook cs n s).peek]
  split
  · rfl
  · split
    · rfl
    · exact State.homeWrite_rebook ..

end rebook

/-- A write of an entry does not change the chip's number. -/
theorem State.numOf_setEntry (s : State) (c i : Nat) (e : HEntry) (k : Nat) : (s.setEntry c i e).numOf k = s.numOf k := by
  have h : s.setEntry c i e = (s.setEntry c i e).rebook s.cores s.chip.chipid := State.setEntry_rebook (s := s) rfl i e
  rw [h]
  rfl

end Sys2Proof.Machine

namespace Sys2Proof.Machine

/-! # Fields of a word -/

section fieldsOfWords
variable {w : Word} {lo n : Nat}

/-- A field of a word goes by its bits. -/
theorem testBit_wbits (w : Word) (a k j : Nat) : (wbits w a k).testBit j = (decide (j < k) && w.getLsbD (a + j)) := by
  unfold wbits
  rw [Nat.testBit_mod_two_pow, Nat.testBit_div_two_pow, BitVec.getLsbD, Nat.add_comm]

theorem wbits_lt (w : Word) (a k : Nat) : wbits w a k < 2 ^ k := Nat.mod_lt _ (Nat.two_pow_pos k)

/-- What a write of a field makes of each bit. -/
theorem getLsbD_wset (h : lo + n ≤ 64) (v i : Nat) : (wset w lo n v).getLsbD i =
    if i < lo then w.getLsbD i else if i < lo + n then v.testBit (i - lo) else w.getLsbD i := by
  have hsum : w.toNat / 2 ^ (lo + n) * 2 ^ (lo + n) + v % 2 ^ n * 2 ^ lo + w.toNat % 2 ^ lo =
      2 ^ lo * (2 ^ n * (w.toNat / 2 ^ (lo + n)) + v % 2 ^ n) + w.toNat % 2 ^ lo := by
    rw [Nat.pow_add]
    ring
  unfold wset
  rw [BitVec.getLsbD_ofNat, hsum, Nat.testBit_two_pow_mul_add _ (Nat.mod_lt _ (Nat.two_pow_pos lo)),
    Nat.testBit_two_pow_mul_add _ (Nat.mod_lt _ (Nat.two_pow_pos n)), Nat.testBit_mod_two_pow, Nat.testBit_mod_two_pow, Nat.testBit_div_two_pow]
  by_cases h1 : i < lo
  · simp only [h1, if_true, decide_true, Bool.true_and, show i < 64 by omega]
    rfl
  · by_cases h2 : i < lo + n
    · simp only [h1, h2, if_true, if_false, show i - lo < n by omega, show i < 64 by omega, decide_true, Bool.true_and]
    · have hi : lo + n + (i - lo - n) = i := by omega
      simp only [h1, h2, if_false, show ¬ i - lo < n by omega]
      rw [show i - lo - n + (lo + n) = i by omega]
      by_cases h3 : i < 64
      · simp only [h3, decide_true, Bool.true_and]
        rfl
      · simp only [h3, decide_false, Bool.false_and]
        exact (BitVec.getLsbD_of_ge w i (by omega)).symm

theorem wbits_wset_same (h : lo + n ≤ 64) (v : Nat) : wbits (wset w lo n v) lo n = v % 2 ^ n := by
  refine Nat.eq_of_testBit_eq fun j => ?_
  rw [testBit_wbits, getLsbD_wset h, Nat.testBit_mod_two_pow, if_neg (by omega), Nat.add_sub_cancel_left]
  by_cases hj : j < n
  · rw [if_pos (by omega)]
  · simp only [hj, decide_false, Bool.false_and]

/-- A write of a field leaves every other field. -/
theorem wbits_wset_other {a k : Nat} (h : lo + n ≤ 64) (hd : a + k ≤ lo ∨ lo + n ≤ a) (v : Nat) : wbits (wset w lo n v) a k = wbits w a k := by
  refine Nat.eq_of_testBit_eq fun j => ?_
  rw [testBit_wbits, testBit_wbits, getLsbD_wset h]
  by_cases hj : j < k
  · rcases hd with hd | hd
    · rw [if_pos (by omega)]
    · rw [if_neg (by omega), if_neg (by omega)]
  · simp only [hj, decide_false, Bool.false_and]

theorem getLsbD_wset_bit (h : lo + 1 ≤ 64) (v : Nat) : (wset w lo 1 v).getLsbD lo = v.testBit 0 := by
  rw [getLsbD_wset h, if_neg (by omega), if_pos (by omega), Nat.sub_self]

theorem getLsbD_wset_other {i : Nat} (h : lo + n ≤ 64) (hd : i < lo ∨ lo + n ≤ i) (v : Nat) : (wset w lo n v).getLsbD i = w.getLsbD i := by
  rw [getLsbD_wset h]
  rcases hd with hd | hd
  · rw [if_pos hd]
  · rw [if_neg (by omega), if_neg (by omega)]

end fieldsOfWords

/-! # Entries and handles (R38, R41) -/

section entries
variable (e : HEntry)

theorem HEntry.st_lt : e.st < 4 := wbits_lt ..
theorem HEntry.gen_lt : e.gen < 2 ^ 11 := wbits_lt ..
theorem HEntry.reason_lt : e.reason < 2 ^ 16 := wbits_lt ..
theorem HEntry.cause_lt : e.cause < 2 ^ 8 := wbits_lt ..
theorem hKind_lt (h : Word) : hKind h < 4 := wbits_lt ..

theorem getLsbD_eq_decide (v : Word) (i : Nat) : v.getLsbD i = decide (v.toNat / 2 ^ i % 2 = 1) := by
  rw [← toNat_getLsbD]
  cases v.getLsbD i <;> rfl

/-- A fresh pending entry has the role, LOC and generation in its first word, and nothing else there. -/
theorem HEntry.mk'_w0 {role loc : Nat} (hrole : role < 4) (hloc : loc < 2 ^ 25) (key : Word) :
    (e.mk' role loc key).w0.toNat = 1 + role * 4 + e.gen * 16 + loc * 2 ^ 23 := by
  have hgen := e.gen_lt
  refine (BitVec.toNat_ofNat ..).trans ?_
  rw [Nat.mod_eq_of_lt hloc]
  exact Nat.mod_eq_of_lt (by omega)

theorem HEntry.mk'_fields {role loc : Nat} (hrole : role < 4) (hloc : loc < 2 ^ 25) (key : Word) : let n := e.mk' role loc key
    n.st = 1 ∧ n.role = role ∧ n.gen = e.gen ∧ n.cls = 0 ∧ n.watch = false ∧ n.moved = false ∧ n.passed = false ∧ n.dropped = false ∧ n.loc = loc := by
  intro n
  have hw : n.w0.toNat = 1 + role * 4 + e.gen * 16 + loc * 2 ^ 23 := e.mk'_w0 hrole hloc key
  have hgen := e.gen_lt
  generalize e.gen = g at hw hgen
  refine ⟨?_, ?_, ?_, ?_, ?_, ?_, ?_, ?_, ?_⟩
  · show n.w0.toNat / 2 ^ 0 % 2 ^ 2 = 1
    omega
  · show n.w0.toNat / 2 ^ 2 % 2 ^ 2 = role
    omega
  · show n.w0.toNat / 2 ^ 4 % 2 ^ 11 = g
    omega
  · show n.w0.toNat / 2 ^ 15 % 2 ^ 4 = 0
    omega
  · show n.w0.getLsbD 19 = false
    rw [getLsbD_eq_decide, decide_eq_false_iff_not]
    omega
  · show n.w0.getLsbD 20 = false
    rw [getLsbD_eq_decide, decide_eq_false_iff_not]
    omega
  · show n.w0.getLsbD 21 = false
    rw [getLsbD_eq_decide, decide_eq_false_iff_not]
    omega
  · show n.w0.getLsbD 22 = false
    rw [getLsbD_eq_decide, decide_eq_false_iff_not]
    omega
  · show n.w0.toNat / 2 ^ 23 % 2 ^ 25 = loc
    omega

end entries
end Sys2Proof.Machine

namespace Sys2Proof.Machine

section entries
variable (e : HEntry)

theorem HEntry.set3_w3 (lo n v : Nat) : (e.set3 lo n v).w3 = wset e.w3 lo n v := rfl

theorem HEntry.set0_w3 (lo n v : Nat) : (e.set0 lo n v).w3 = e.w3 := rfl

theorem HEntry.set3_w2 (lo n v : Nat) : (e.set3 lo n v).w2 = e.w2 := rfl

theorem HEntry.set0_w2 (lo n v : Nat) : (e.set0 lo n v).w2 = e.w2 := rfl

theorem HEntry.withDatum_w2 (r : Resol) : (e.withDatum r).w2 = e.w2 := rfl

theorem HEntry.withDatum_w3 (r : Resol) : (e.withDatum r).w3 = e.w3 := rfl

theorem HEntry.resolved_of_broken {r : Resol} (h : r.broken = true) : e.resolved r =
    { ((e.set0 0 2 3).set0 19 1 0).set3 0 24 (r.reason.toNat + r.cause.toNat * 2 ^ 16) with w1 := r.handle, w4 := 0, w5 := 0, w6 := 0 } := if_pos h

theorem HEntry.resolved_of_value {r : Resol} (h : r.broken = false) : e.resolved r = { ((e.set0 0 2 2).set0 19 1 0).withDatum r with w1 := r.handle } :=
  if_neg (by rw [h]; nofun)

/-- The first word of a resolved entry: STATE is 2 or 3, WATCH is clear, and the rest is kept. -/
theorem HEntry.resolved_w0 (r : Resol) : (e.resolved r).w0 = wset (wset e.w0 0 2 (if r.broken then 3 else 2)) 19 1 0 := by
  cases h : r.broken
  · rw [e.resolved_of_value h]
    rfl
  · rw [e.resolved_of_broken h]
    rfl

/-- Where an entry breaks, REASON and CAUSE take the place of what stood there. -/
theorem HEntry.resolved_broken_w3 {r : Resol} (h : r.broken = true) : (e.resolved r).w3 = wset e.w3 0 24 (r.reason.toNat + r.cause.toNat * 2 ^ 16) := by
  rw [e.resolved_of_broken h]
  show (((e.set0 0 2 3).set0 19 1 0).set3 0 24 (r.reason.toNat + r.cause.toNat * 2 ^ 16)).w3 = _
  rw [HEntry.set3_w3, HEntry.set0_w3, HEntry.set0_w3]

theorem HEntry.resolved_value_w3 {r : Resol} (h : r.broken = false) : (e.resolved r).w3 = e.w3 := by
  rw [e.resolved_of_value h]
  show (((e.set0 0 2 2).set0 19 1 0).withDatum r).w3 = _
  rw [HEntry.withDatum_w3, HEntry.set0_w3, HEntry.set0_w3]

theorem HEntry.resolved_seqlist (r : Resol) : (e.resolved r).seqlist = e.seqlist := by
  unfold HEntry.seqlist
  cases h : r.broken
  · rw [e.resolved_value_w3 h]
  · rw [e.resolved_broken_w3 h, wbits_wset_other (by decide) (.inr (by decide))]

theorem HEntry.resolved_w1 (r : Resol) : (e.resolved r).w1 = r.handle := by
  cases h : r.broken
  · rw [e.resolved_of_value h]
  · rw [e.resolved_of_broken h]

theorem HEntry.resolved_w2 (r : Resol) : (e.resolved r).w2 = e.w2 := by
  cases h : r.broken
  · rw [e.resolved_of_value h]
    show (((e.set0 0 2 2).set0 19 1 0).withDatum r).w2 = _
    rw [HEntry.withDatum_w2, HEntry.set0_w2, HEntry.set0_w2]
  · rw [e.resolved_of_broken h]
    show (((e.set0 0 2 3).set0 19 1 0).set3 0 24 (r.reason.toNat + r.cause.toNat * 2 ^ 16)).w2 = _
    rw [HEntry.set3_w2, HEntry.set0_w2, HEntry.set0_w2]

/-- What a resolution keeps of the first word. -/
theorem HEntry.resolved_keeps (r : Resol) : let n := e.resolved r
    n.gen = e.gen ∧ n.role = e.role ∧ n.cls = e.cls ∧ n.loc = e.loc ∧ n.watch = false ∧ n.moved = e.moved ∧ n.passed = e.passed ∧ n.dropped = e.dropped := by
  intro n
  have hfield {a k : Nat} (ha : 2 ≤ a) (hd : a + k ≤ 19 ∨ 20 ≤ a) : wbits n.w0 a k = wbits e.w0 a k := by
    rw [e.resolved_w0 r, wbits_wset_other (by decide) hd, wbits_wset_other (by decide) (.inr ha)]
  have hflag {i : Nat} (hi : 20 ≤ i) : n.w0.getLsbD i = e.w0.getLsbD i := by
    rw [e.resolved_w0 r, getLsbD_wset_other (by decide) (.inr hi), getLsbD_wset_other (by decide) (.inr (by omega))]
  have hwatch : n.w0.getLsbD 19 = false := by
    rw [e.resolved_w0 r, getLsbD_wset_bit (by decide), Nat.zero_testBit]
  exact ⟨hfield (by decide) (by decide), hfield (by decide) (by decide), hfield (by decide) (by decide), hfield (by decide) (by decide),
    hwatch, hflag (by decide), hflag (by decide), hflag (by decide)⟩

theorem HEntry.resolved_st (r : Resol) : (e.resolved r).st = if r.broken then 3 else 2 := by
  unfold HEntry.st
  rw [e.resolved_w0 r, wbits_wset_other (by decide) (.inl (by decide)), wbits_wset_same (by decide)]
  cases r.broken <;> decide

theorem HEntry.resolved_value {r : Resol} (h : r.broken = false) : let n := e.resolved r
    n.w4 = r.d0 ∧ n.w5 = r.d1 ∧ n.w6 = r.d2 ∧ n.w7 = r.d3 := by
  intro n
  rw [show n = _ from e.resolved_of_value h]
  exact ⟨rfl, rfl, rfl, rfl⟩

theorem HEntry.resolved_broken {r : Resol} (h : r.broken = true) : (e.resolved r).reason = r.reason.toNat ∧ (e.resolved r).cause = r.cause.toNat := by
  have hlow : wbits (e.resolved r).w3 0 24 = r.reason.toNat + r.cause.toNat * 2 ^ 16 := by
    have := r.reason.isLt
    have := r.cause.isLt
    rw [e.resolved_broken_w3 h, wbits_wset_same (by decide)]
    omega
  have hr := r.reason.isLt
  unfold HEntry.reason HEntry.cause
  unfold wbits at *
  omega

/-- A freed entry keeps its generation, advanced, and nothing else. -/
theorem HEntry.freed_fields : e.freed.st = 0 ∧ e.freed.role = 0 ∧ e.freed.w1 = 0 ∧ e.freed.w2 = 0 ∧ e.freed.w3 = 0 ∧ e.freed.loc = 0 ∧
    e.freed.gen = if e.gen = 2047 then 1 else e.gen + 1 := by
  have hgen := e.gen_lt
  have hnext : (if e.gen = 2047 then 1 else e.gen + 1) < 2 ^ 11 := by split <;> omega
  have hw : e.freed.w0.toNat = (if e.gen = 2047 then 1 else e.gen + 1) * 16 := (BitVec.toNat_ofNat ..).trans (Nat.mod_eq_of_lt (by omega))
  generalize (if e.gen = 2047 then 1 else e.gen + 1) = g at hw hnext ⊢
  refine ⟨?_, ?_, rfl, rfl, rfl, ?_, ?_⟩
  · show e.freed.w0.toNat / 2 ^ 0 % 2 ^ 2 = 0
    omega
  · show e.freed.w0.toNat / 2 ^ 2 % 2 ^ 2 = 0
    omega
  · show e.freed.w0.toNat / 2 ^ 23 % 2 ^ 25 = 0
    omega
  · show e.freed.w0.toNat / 2 ^ 4 % 2 ^ 11 = g
    omega

end entries

section handles

theorem mkHandle_toNat {num idx gen kind cap : Nat} (hnum : num < 2 ^ 25) (hidx : idx < 2 ^ 12) (hgen : gen < 2 ^ 11) (hkind : kind < 4)
    (hcap : cap < 2 ^ 14) : (mkHandle num idx gen kind cap).toNat = num * 2 ^ 39 + idx * 2 ^ 27 + gen * 2 ^ 16 + kind * 2 ^ 14 + cap :=
  (BitVec.toNat_ofNat ..).trans (Nat.mod_eq_of_lt (by omega))

/-- The fields of a handle that is made are what it is made of. -/
theorem mkHandle_fields {num idx gen kind cap : Nat} (hnum : num < 2 ^ 25) (hidx : idx < 2 ^ 12) (hgen : gen < 2 ^ 11) (hkind : kind < 4)
    (hcap : cap < 2 ^ 14) : let h := mkHandle num idx gen kind cap; hNum h = num ∧ hIdx h = idx ∧ hGen h = gen ∧ hKind h = kind ∧ hCap h = cap := by
  intro h
  have hv : h.toNat = _ := mkHandle_toNat hnum hidx hgen hkind hcap
  unfold hNum hIdx hGen hKind hCap wbits
  rw [hv]
  omega

/-- The kind of a handle does not depend on its other fields. -/
theorem hKind_mkHandle {num idx gen kind cap : Nat} (hkind : kind < 4) (hcap : cap < 2 ^ 14) : hKind (mkHandle num idx gen kind cap) = kind := by
  have hv : (mkHandle num idx gen kind cap).toNat = (num * 2 ^ 39 + idx * 2 ^ 27 + gen * 2 ^ 16 + kind * 2 ^ 14 + cap) % 2 ^ 64 := BitVec.toNat_ofNat ..
  unfold hKind wbits
  rw [hv]
  omega

theorem hWithKind_fields (h : Word) {k : Nat} (hk : k < 4) : let n := hWithKind h k; hNum n = hNum h ∧ hIdx n = hIdx h ∧ hKind n = k := by
  intro n
  have hlt := h.isLt
  have hv : n.toNat = h.toNat / 2 ^ 16 * 2 ^ 16 + k * 2 ^ 14 + h.toNat % 2 ^ 14 := (BitVec.toNat_ofNat ..).trans (Nat.mod_eq_of_lt (by omega))
  unfold hNum hIdx hKind wbits
  rw [hv]
  omega

variable (s : State) (c i : Nat)

theorem State.hKind_handleOf {kind : Nat} (hkind : kind < 4) : hKind (s.handleOf c i kind) = kind := hKind_mkHandle hkind (s.partKey c).isLt

theorem State.hNum_handleOf {kind : Nat} (hi : i < 2 ^ 12) (hkind : kind < 4) : hNum (s.handleOf c i kind) = s.numOf c % 2 ^ 25 :=
  (mkHandle_fields (Nat.mod_lt _ (by decide)) hi (s.entry c i).gen_lt hkind (s.partKey c).isLt).1

end handles

/-- The layout of an entry and of a handle (R38, R41, R42). -/
theorem handleEntryLayout : handleEntryLayoutRules := by
  refine ⟨fun e role loc key hrole hloc => ?fresh, fun e r => ?resolved, fun e => e.freed_fields, fun num idx gen kind cap hnum hidx hgen hkind hcap => ?handle⟩
  case fresh =>
    obtain ⟨hst, hrole', hgen, hcls, hwatch, hmoved, hpassed, hdropped, hloc'⟩ := e.mk'_fields hrole hloc key
    exact ⟨hst, hrole', hgen, hcls, hwatch, hmoved, hpassed, hdropped, hloc', rfl, rfl, rfl, rfl, rfl, rfl, rfl⟩
  case resolved =>
    obtain ⟨hgen, hrole, hcls, hloc, hwatch, hmoved, hpassed, hdropped⟩ := e.resolved_keeps r
    refine ⟨hgen, hrole, hcls, hloc, e.resolved_w2 r, hwatch, hmoved, hpassed, hdropped, e.resolved_seqlist r, e.resolved_w1 r, fun h => ⟨?_, e.resolved_value h⟩, fun h => ⟨?_, e.resolved_broken h⟩⟩
    · rw [e.resolved_st, h]
      rfl
    · rw [e.resolved_st, h]
      rfl
  case handle =>
    obtain ⟨h1, h2, h3, h4, h5⟩ := mkHandle_fields hnum hidx hgen hkind hcap
    obtain ⟨k1, k2, k3⟩ := hWithKind_fields (mkHandle num idx gen kind cap) (show 3 < 4 by decide)
    exact ⟨h1, h2, h3, h4, h5, k1.trans h1, k2.trans h2, k3⟩

end Sys2Proof.Machine

namespace Sys2Proof.Machine

/-! # hnew, hstat and hdrop (O25) -/

section retiring
variable {s u : State}

/-- The instruction in hand retires on top of `u`, which has the slots of `s`. -/
theorem State.retiresOn_retire (hcur : u.cur = s.cur) (hslots : u.slots = s.slots) (hcycle : u.cycle = s.cycle) (sc : BitVec 3) :
    let t := u.retire 4 sc.toNat; u.retiresOn sc s t ∧ s.me.keepsRest t.me ∧ s.me.keepsRegs t.me := by
  intro t
  obtain ⟨⟨heq, hother⟩, hrest, hregs, hstep⟩ := State.retire_stepsOnly 4 sc.toNat u
  have hslot (j : Nat) : u.slot j = s.slot j := by rw [State.slot, hslots]; rfl
  have hme : u.me = s.me := by rw [State.me, hslot, hcur]; rfl
  rw [hme] at hrest hregs
  refine ⟨⟨heq, fun j hj => (hother j (hcur ▸ hj)).trans (hslot j), ?_⟩, hrest, hregs⟩
  unfold State.stepped at hstep ⊢
  rw [hme, hcycle] at hstep
  exact hstep

/-- The instruction in hand parks with a result on top of `u`. -/
theorem State.givesOn_giveX (hcur : u.cur = s.cur) (hcycle : u.cycle = s.cycle) (rd : Reg) (v : Word) (sc : BitVec 3) :
    u.givesOn rd v sc s (u.giveX rd v sc.toNat) := by
  obtain ⟨⟨heq, hother⟩, hparks⟩ := State.parkMe_spec (.give rd.toNat v sc.toNat) sc.toNat u
  refine ⟨?_, fun j hj => hother j (hcur ▸ hj), ?_⟩
  · unfold State.giveX State.post
    rw [heq, ← hcur]
  · have hme : (u.giveX rd v sc.toNat).me = (u.parkMe (.give rd.toNat v sc.toNat) sc.toNat).me := rfl
    rw [hme, ← hcur, ← hcycle]
    exact hparks

end retiring

section instructions
variable {s : State} (rd ra : Reg) (sc : BitVec 3)

theorem exec_hnew_free {i : Nat} (h : s.freeIndex s.myCore = some i) : let n := s.handleOf s.myCore i 1
    exec (.hnew rd sc) s = .next ((s.setEntry s.myCore i ((s.entry s.myCore i).mk' 2 (s.numOf s.myCore) n)).giveX rd n sc.toNat) := by
  intro n
  show Host.Outcome.next _ = _
  rw [h]

theorem exec_hnew_full (h : s.freeIndex s.myCore = none) : exec (.hnew rd sc) s = .next (s.giveX rd s.noEntry sc.toNat) := by
  show Host.Outcome.next _ = _
  rw [h]

/-- R39's broken handle. -/
theorem State.noEntry_fields (s : State) : hKind s.noEntry = 3 ∧ hIdx s.noEntry = 0 ∧ hGen s.noEntry = 0 ∧ hNum s.noEntry = s.numOf s.myCore % 2 ^ 25 ∧
    hCap s.noEntry = (s.partKey s.myCore).toNat := by
  obtain ⟨hnum, hidx, hgen, hkind, hcap⟩ := mkHandle_fields (num := s.numOf s.myCore % 2 ^ 25) (idx := 0) (gen := 0) (kind := 3)
    (cap := (s.partKey s.myCore).toNat) (Nat.mod_lt _ (by decide)) (by decide) (by decide) (by decide) (s.partKey s.myCore).isLt
  exact ⟨hkind, hidx, hgen, hnum, hcap⟩

/-- The word of R108 for an own entry that stands. -/
theorem State.handleState_own {c : Nat} {h : Word} (hown : hNum h = s.numOf c % 2 ^ 25 ∧ hIdx h ≠ 0) (hst : (s.entry c (hIdx h)).st ≠ 0)
    (hgen : (s.entry c (hIdx h)).gen = hGen h) : let e := s.entry c (hIdx h); let v := s.handleState c h
    v.toNat % 4 = e.st ∧ v.toNat / 4 % 4 = (if e.st = 2 ∧ e.role ≠ 0 then hKind e.w1 else 0) ∧ v.getLsbD 4 = true ∧ v.getLsbD 5 = e.watch ∧
    v.toNat / 2 ^ 6 % 2 ^ 16 = (if e.st = 3 then e.reason else 0) ∧ v.toNat / 2 ^ 22 = (if e.st = 3 then e.cause else 0) := by
  intro e v
  have hv : v = w64 (e.st + (if e.st = 2 ∧ e.role ≠ 0 then hKind e.w1 * 4 else 0) + 16 + (if e.watch then 32 else 0) +
      (if e.st = 3 then e.reason * 2 ^ 6 + e.cause * 2 ^ 22 else 0)) :=
    (if_pos hown).trans (if_neg (not_or.2 ⟨hst, not_not_intro hgen⟩))
  have hstlt := e.st_lt
  have hkind := hKind_lt e.w1
  have hreason := e.reason_lt
  have hcause := e.cause_lt
  have hwatch : (if e.watch = true then 32 else 0) = e.watch.toNat * 32 := by cases e.watch <;> rfl
  have hres : (if e.st = 2 ∧ e.role ≠ 0 then hKind e.w1 * 4 else 0) = (if e.st = 2 ∧ e.role ≠ 0 then hKind e.w1 else 0) * 4 := by split <;> rfl
  have hbrk : (if e.st = 3 then e.reason * 2 ^ 6 + e.cause * 2 ^ 22 else 0) = (if e.st = 3 then e.reason else 0) * 2 ^ 6 + (if e.st = 3 then e.cause else 0) * 2 ^ 22 := by
    split <;> rfl
  have hr : (if e.st = 2 ∧ e.role ≠ 0 then hKind e.w1 else 0) < 4 := by split <;> omega
  have hb : (if e.st = 3 then e.reason else 0) < 2 ^ 16 := by split <;> omega
  have hc : (if e.st = 3 then e.cause else 0) < 2 ^ 8 := by split <;> omega
  have hw := Bool.toNat_lt e.watch
  rw [hwatch, hres, hbrk] at hv
  generalize (if e.st = 2 ∧ e.role ≠ 0 then hKind e.w1 else 0) = r at hr hv ⊢
  generalize (if e.st = 3 then e.reason else 0) = b at hb hv ⊢
  generalize (if e.st = 3 then e.cause else 0) = k at hc hv ⊢
  have hn : v.toNat = e.st + r * 4 + 16 + e.watch.toNat * 32 + (b * 2 ^ 6 + k * 2 ^ 22) := by
    rw [hv]
    exact (BitVec.toNat_ofNat ..).trans (Nat.mod_eq_of_lt (by omega))
  refine ⟨?_, ?_, ?_, ?_, ?_, ?_⟩
  · omega
  · omega
  · rw [getLsbD_eq_decide, decide_eq_true_iff]
    omega
  · rw [getLsbD_eq_decide, show v.toNat / 2 ^ 5 % 2 = e.watch.toNat by omega]
    cases e.watch <;> rfl
  · omega
  · omega

/-- The word of R108 for a handle that names no entry of the core goes by its kind. -/
theorem State.handleState_foreign {c : Nat} {h : Word} (hown : ¬ (hNum h = s.numOf c % 2 ^ 25 ∧ hIdx h ≠ 0)) : s.handleState c h =
    if hKind h = 0 then 2 else if hKind h = 1 then 1 else if hKind h = 2 then 0xA else if hIdx h = 0 ∧ hGen h = 0 then 0x303 else 0x43 := by
  unfold State.handleState
  rw [if_neg hown]
  match hk : hKind h with
  | 0 => rfl
  | 1 => rfl
  | 2 => rfl
  | k + 3 =>
    show w64 _ = ite (hIdx h = 0 ∧ hGen h = 0) 0x303 0x43
    split <;> rfl

/-- A result by parking, with nothing else changed. -/
theorem State.gives_hstat {v : Word} (h : s.handleState s.myCore (s.x ra) = v) : s.gives (.hstat rd ra sc) fun t =>
    s.onlySlotPosts s.cur t ∧ t.work = s.work ++ [⟨.slotWake, arg1 s.cur⟩] ∧ s.me.parksAs (.give rd.toNat v sc.toNat) (s.cycle + 1 + sc.toNat) t.me := by
  obtain ⟨heq, hother, hparks⟩ := State.givesOn_giveX (s := s) (u := s) rfl rfl rd v sc
  refine ⟨_, congrArg (fun w => Host.Outcome.next (s.giveX rd w sc.toNat)) h, ⟨?_, hother⟩, rfl, hparks⟩
  rw [heq]

/-- What `hdrop` does before it retires (R56, R107). -/
def State.dropped (s : State) (h : Word) : State :=
  let c := s.myCore
  let e := s.entry c (hIdx h)
  if hKind h = 0 then s
  else if hKind h = 2 then s.sendPacket (s.numOf c) (hNum h) (.release h true)
  else if !s.namesEntry c h || !(decide (e.role = 1) || s.isLocalPromise c (hIdx h)) then s
  else if e.st = 1 ∨ (s.core c).dataDue.contains (hIdx h) then s.setEntry c (hIdx h) (e.set0 22 1 1)
  else s.dropPromise c (hIdx h)

theorem exec_hdrop (s : State) : exec (.hdrop ra sc) s = .next ((s.dropped (s.x ra)).retire 4 sc.toNat) := rfl

/-- Whether a handle names an entry of core `c` that stands in its generation. -/
theorem State.namesEntry_iff {c : Nat} {h : Word} : s.namesEntry c h = true ↔
    (hNum h = s.numOf c % 2 ^ 25 ∧ hIdx h ≠ 0) ∧ (s.entry c (hIdx h)).st ≠ 0 ∧ (s.entry c (hIdx h)).gen = hGen h := by
  unfold State.namesEntry
  simp only [Bool.and_eq_true, decide_eq_true_eq]
  tauto

/-- hdrop of a handle that the core has no entry for, or an entry it may not drop, does nothing. -/
theorem State.dropped_other {h : Word} (hk : hKind h ≠ 2) (hno : s.namesEntry s.myCore h = false ∨
    ((s.entry s.myCore (hIdx h)).role ≠ 1 ∧ s.isLocalPromise s.myCore (hIdx h) = false)) : s.dropped h = s := by
  unfold State.dropped
  split
  · rfl
  · dsimp only
    rw [if_pos]
    simpa using hno

/-- hdrop of a pending promise marks it. -/
theorem State.dropped_pending {h : Word} (hk : hKind h = 1 ∨ hKind h = 3) (hnames : s.namesEntry s.myCore h = true)
    (hrole : (s.entry s.myCore (hIdx h)).role = 1 ∨ s.isLocalPromise s.myCore (hIdx h) = true) (hst : (s.entry s.myCore (hIdx h)).st = 1) :
    s.dropped h = s.setEntry s.myCore (hIdx h) ((s.entry s.myCore (hIdx h)).set0 22 1 1) := by
  unfold State.dropped
  rw [if_neg (by omega), if_neg (by omega), if_neg, if_pos (Or.inl hst)]
  simpa [hnames, or_iff_not_imp_left] using hrole

theorem handleInstructions : handleInstructionsRules := by
  intro s rd ra sc c here h e own given
  have hnot (k : ¬ own ∨ e.st = 0 ∨ e.gen ≠ hGen h) : s.namesEntry c h = false := by
    rw [Bool.eq_false_iff, ne_eq, State.namesEntry_iff]
    tauto
  refine ⟨fun i hi => ?_, fun hfull => ?_, fun hown hstale => ?_, fun hown hst hgen => ?_, fun hown => ?_, fun hk => ?_, fun hk => ?_,
    fun hk hno => ?_, fun hk hown hst hgen hrole => ?_⟩
  · have hkind := s.hKind_handleOf c i (kind := 1) (by decide)
    have hsto := s.storageOnly_setEntry c i ((s.entry c i).mk' 2 (s.numOf c) (s.handleOf c i 1))
    exact ⟨hkind, _, exec_hnew_free rd sc hi, State.givesOn_giveX hsto.cur hsto.cycle rd _ sc⟩
  · obtain ⟨hkind, hidx, hgen, hnum, hcap⟩ := s.noEntry_fields
    exact ⟨_, hkind, hidx, hgen, hnum, hcap, _, exec_hnew_full rd sc hfull, State.givesOn_giveX rfl rfl rd _ sc⟩
  · exact State.gives_hstat rd ra sc ((if_pos hown).trans (if_pos hstale))
  · obtain ⟨h1, h2, h3, h4, h5, h6⟩ := State.handleState_own hown hst hgen
    exact ⟨_, h1, h2, h3, h4, h5, h6, State.gives_hstat rd ra sc rfl⟩
  · refine State.gives_hstat rd ra sc ((State.handleState_foreign hown).trans ?_)
    match hKind h with
    | 0 => rfl
    | 1 => rfl
    | 2 => rfl
    | k + 3 => rfl
  · refine ⟨_, exec_hdrop ra sc s, ?_⟩
    rw [State.dropped, if_pos hk]
    exact s.retire_stepsOnly 4 sc.toNat
  · refine ⟨_, exec_hdrop ra sc s, ?_⟩
    rw [State.dropped, if_neg (by rw [hk]; decide), if_pos hk]
    have hbooks := s.booksOnly_sendPacket (s.numOf c) (hNum h) (.release h true)
    exact State.retiresOn_retire hbooks.cur hbooks.slots hbooks.cycle sc
  · refine ⟨_, exec_hdrop ra sc s, ?_⟩
    rw [State.dropped_other (by rcases hk with hk | hk <;> rw [hk] <;> decide) (by have := hnot; tauto)]
    exact s.retire_stepsOnly 4 sc.toNat
  · refine ⟨getLsbD_wset_bit (by decide) 1, _, exec_hdrop ra sc s, ?_⟩
    rw [State.dropped_pending hk (State.namesEntry_iff.2 ⟨hown, by rw [hst]; decide, hgen⟩) hrole hst]
    have hsto := s.storageOnly_setEntry c (hIdx h) (e.set0 22 1 1)
    exact State.retiresOn_retire hsto.cur hsto.slots hsto.cycle sc

/-- Settles O25: the entry's fields are read off the words that the writes build, and each instruction retires or parks on top of its one write. -/
theorem handleTable : Obligations.HandleTable := ⟨handleEntryLayout, handleInstructions⟩

end instructions

end Sys2Proof.Machine

namespace Sys2Proof.Machine

/-! # A bank that leaves the cache role (O50) -/

/-- Cluster 0 with bank 0 about to leave the cache role, and one line in its L1. -/
def drainCluster : Cluster := { Cluster.reset with banks := [(0, ⟨1, 0, true, 0⟩)], l1 := [0] }

/-- The drain step is due for that bank, nothing is in flight there, and the line that the L1 holds is poisoned. -/
def drainState : State := { State.reset with arg := arg2 0 0, clusters := [(0, drainCluster)], poison := [(2 ^ 46, true)] }

theorem drainState_idle : ¬ drainState.usesBank 0 0 := by
  rintro (⟨e, he, -⟩ | ⟨st, hst, -⟩)
  · exact absurd he List.not_mem_nil
  · have hnone : (drainState.cluster 0).array = none := rfl
    rw [hnone] at hst
    exact nomatch hst

theorem drainState_poison : drainState.poisonAt (l1Key 0 0) = true := by decide

/-- The line's poison bit goes with the line. -/
theorem drainState_drained {t : State} (h : exec .bankRoleDrainComplete drainState = .next t) : t.poisonAt (l1Key 0 0) = false := by
  obtain rfl := Host.Outcome.next.inj h
  decide

/-- Refutes O50: its drain clause keeps the poison bit of every key outside the bank, but the lines of the cluster's L1, which the drain
invalidates, have keys of their own there, and a poisoned one (`drainState`) loses its bit. -/
theorem not_banksEvictionsAndScrubbing : ¬ Obligations.BanksEvictionsAndScrubbing := by
  unfold Obligations.BanksEvictionsAndScrubbing
  rintro ⟨hbanks, -⟩
  obtain ⟨-, ⟨-, -, hdrain⟩, -⟩ := hbanks drainState
  obtain ⟨-, hleave⟩ := hdrain rfl drainState_idle
  obtain ⟨t, hexec, -, -, -, -, -, -, -, hkeeps⟩ := hleave rfl (by decide)
  obtain ⟨-, hpoison, -⟩ := hkeeps (l1Key 0 0) (by decide)
  rw [drainState_drained hexec, drainState_poison] at hpoison
  exact nomatch hpoison

end Sys2Proof.Machine

namespace Sys2Proof.Machine

/-! # Registrations and notices (O29) -/

section emptyLists
variable {s : State} {c : Nat} {e : HEntry}

theorem cellList_zero (cells : SMap QCell) (f : Nat) : cellList cells f 0 = [] := by
  cases f <;> rfl

/-- Nothing is queued on an entry whose queue field is clear. -/
theorem State.queued_of_zero (h : e.w4 = 0) : s.queued c e = [] := by
  unfold State.queued State.cellNo
  rw [if_pos h, cellList_zero]
  rfl

/-- Nothing is registered on an entry whose registration field is clear. -/
theorem State.watching_of_zero (h : e.w6 = 0) : s.watching c e = [] := by
  unfold State.watching State.cellNo
  rw [if_pos h, cellList_zero]
  rfl

theorem State.fireAll_nil (fuel : Nat) (h : Word) (r : Resol) (src : Nat) (s : State) : s.fireAll c fuel [] h r src = s := by
  cases fuel <;> rfl

theorem State.breakAll_nil (fuel : Nat) (r : Resol) (src : Nat) (s : State) : s.breakAll c fuel [] r src = s := by
  cases fuel <;> rfl

/-- A core that holds no message has none to pass on. -/
theorem State.passHeld_of_nil (h : (s.core c).reorder = []) (key : Word) : s.passHeld c key = s := by
  have hheld : s.heldOn c key = [] := by
    unfold State.heldOn
    rw [h]
    rfl
  unfold State.passHeld State.passSome
  rw [hheld]
  dsimp only [seqOrder, List.foldl_nil]
  rw [hheld]
  rfl

theorem State.freeRecv_of_nil (h : e.seqlist = 0) : s.freeRecv c e = s := by
  unfold State.freeRecv
  rw [h]
  rfl

/-- A write of an entry and another change of its core come to the same in either order, where HTBASE stays. -/
theorem State.setEntry_modCore {f : Core → Core} (h : (f (s.core c)).htbase = (s.core c).htbase) (i : Nat) (e : HEntry) :
    (s.modCore c f).setEntry c i e = { s.setEntry c i e with cores := (s.modCore c f).cores } := by
  have hown : s.setEntry c i e = (s.setEntry c i e).rebook s.cores s.chip.chipid := State.setEntry_rebook (s := s) rfl i e
  have hmod : s.modCore c f = s.rebook (s.modCore c f).cores s.chip.chipid := rfl
  have hbase : (look Core.reset (s.modCore c f).cores c).htbase = (s.core c).htbase := by
    refine Eq.trans ?_ h
    exact congrArg Core.htbase (State.core_modCore_same ..)
  rw [hmod, State.setEntry_rebook hbase, hown]
  rfl

end emptyLists

section whens
variable {s : State} {ra rb : Reg} {sc : BitVec 3} {d h : Word} {w : Watcher}

/-- A registration on an object handle fires at once. -/
theorem State.register_object {c n obj gen : Nat} {ch : BitVec 6} (hk : hKind h = 0) (hn : n = s.numOf c) :
    s.register c h (.object n obj gen ch) = some (s.fireWhen c obj gen ch h (Resol.val h) (s.numOf c)) := by
  subst hn
  exact (if_pos hk).trans (congrArg some (if_pos rfl))

theorem State.register_away {c : Nat} (hk : hKind h ≠ 0) (hn : hNum h ≠ s.numOf c % 2 ^ 25) (w : Watcher) :
    s.register c h w = some (s.sendPacket (s.numOf c) (hNum h) (.watch h w)) :=
  (if_neg hk).trans (if_neg hn)

theorem dCHANNEL_toNat (d : Word) : (dCHANNEL d).toNat = d.toNat / 2 ^ 8 % 64 := by
  unfold dCHANNEL
  rw [BitVec.toNat_setWidth, BitVec.toNat_ushiftRight, Nat.shiftRight_eq_div_pow]

theorem dCHANNEL_eq (d : Word) : dCHANNEL d = BitVec.ofNat 6 (d.toNat / 2 ^ 8 % 64) := by
  rw [← dCHANNEL_toNat, BitVec.ofNat_toNat, BitVec.setWidth_eq]

/-- The handler that the activation in hand has for the channel of descriptor `d` is valid. -/
def State.handles (s : State) (d : Word) : Prop :=
  (look Handler.reset (s.core s.myCore).handlers (64 * s.me.act.cls.toNat + d.toNat / 2 ^ 8 % 64)).valid = true

/-- What `when` registers for the activation in hand, with descriptor `d`. -/
def State.whenWatcher (s : State) (d : Word) : Watcher :=
  .object (s.numOf s.myCore) s.me.act.obj (s.entry s.myCore s.me.act.obj).gen (BitVec.ofNat 6 (d.toNat / 2 ^ 8 % 64))

theorem exec_when_trap (h : s.me.act.obj = 0 ∨ ¬ s.handles (s.x rb)) : exec (.when ra rb sc) s = .next (s.trap cPROTECTION (s.x rb)) := by
  have hcond : s.me.act.obj = 0 ∨ (!(look Handler.reset (s.core s.myCore).handlers (64 * s.me.act.cls.toNat + (dCHANNEL (s.x rb)).toNat)).valid) = true := by
    rw [dCHANNEL_toNat, Bool.not_eq_true', Bool.eq_false_iff]
    exact h
  exact congrArg Host.Outcome.next (if_pos hcond)

theorem exec_when {u : State} (hobj : s.me.act.obj ≠ 0) (hvalid : s.handles (s.x rb))
    (hreg : s.register s.myCore (s.x ra) (s.whenWatcher (s.x rb)) = some u) : exec (.when ra rb sc) s = .next (u.retire 4 sc.toNat) := by
  have hcond : ¬ (s.me.act.obj = 0 ∨ (!(look Handler.reset (s.core s.myCore).handlers (64 * s.me.act.cls.toNat + (dCHANNEL (s.x rb)).toNat)).valid) = true) := by
    rw [dCHANNEL_toNat, Bool.not_eq_true', not_or, Bool.not_eq_false]
    exact ⟨hobj, hvalid⟩
  refine congrArg Host.Outcome.next ((if_neg hcond).trans ?_)
  unfold State.whenWatcher at hreg
  rw [dCHANNEL_eq, hreg]

/-- The item joins the queue of an object that stands. -/
theorem State.fireWhen_eq (s : State) (c obj gen : Nat) (ch : BitVec 6) (h : Word) (r : Resol) (src : Nat) : s.fireWhen c obj gen ch h r src =
    if (s.entry c obj).st ≠ 0 ∧ (s.entry c obj).gen = gen then s.joinQueue c obj ⟨.whenRes ch h r, src, none⟩ else s := by
  unfold State.fireWhen State.stands
  simp only [Bool.and_eq_true, decide_eq_true_eq]

theorem State.booksOnly_joinQueue (c i : Nat) (it : QItem) (s : State) : s.booksOnly (s.joinQueue c i it) := rfl

theorem State.booksOnly_fireWhen (c obj gen : Nat) (ch : BitVec 6) (h : Word) (r : Resol) (src : Nat) (s : State) :
    s.booksOnly (s.fireWhen c obj gen ch h r src) := State.booksOnly.ite (s.booksOnly_joinQueue ..) State.booksOnly.rfl

/-- `when` with what it registers taken in `u`, which differs in its books. -/
theorem State.gives_when {u : State} (hobj : s.me.act.obj ≠ 0) (hvalid : s.handles (s.x rb))
    (hreg : s.register s.myCore (s.x ra) (s.whenWatcher (s.x rb)) = some u) (hbooks : s.booksOnly u) :
    s.gives (.when ra rb sc) fun t => u.retiresOn sc s t ∧ s.me.keepsRest t.me ∧ s.me.keepsRegs t.me :=
  ⟨_, exec_when hobj hvalid hreg, State.retiresOn_retire hbooks.cur hbooks.slots hbooks.cycle sc⟩

end whens

section notices
variable {s u : State} {p : Packet}

/-- The arriving packet's body is taken where the packet is. -/
theorem State.takeArrival_of_body {t : State} (h : s.takes p u) (hbody : u.takeBody (numCore p.dst) p = .ok t) : s.takeArrival = t := by
  unfold State.takeArrival
  rw [State.receive_of_takes h]
  dsimp only
  rw [hbody]

theorem State.takeBody_watch {c : Nat} {h : Word} {w : Watcher} {t : State} (hb : p.body = .watch h w) (ht : u.watchHere c h w = some t) :
    u.takeBody c p = .ok t := by
  unfold State.takeBody
  rw [hb]
  dsimp only
  rw [ht]

theorem State.takeBody_resolve {c : Nat} {key : Word} {r : Resol} {hop loc : Nat} (hb : p.body = .resolve key r hop loc) :
    u.takeBody c p = u.takeResolution c key r hop loc p.src := by
  unfold State.takeBody
  rw [hb]

theorem State.takeBody_release {c : Nat} {key : Word} {b : Bool} {t : State} (hb : p.body = .release key b) (ht : u.takeRelease c key b = some t) :
    u.takeBody c p = .ok t := by
  unfold State.takeBody
  rw [hb]
  dsimp only
  rw [ht]

/-- A registration on a stale handle is answered at once. -/
theorem State.watchHere_stale {c n obj gen : Nat} {ch : BitVec 6} {h : Word} (hstale : hIdx h = 0 ∨ (u.entry c (hIdx h)).st = 0 ∨ (u.entry c (hIdx h)).gen ≠ hGen h)
    (hn : n ≠ u.numOf c) : u.watchHere c h (.object n obj gen ch) =
      some (u.sendPacket (u.numOf c) n (.whenAns (.object n obj gen ch) (hWithKind h 3) (Resol.brk 2 (hWithKind h 1) 0))) :=
  (if_pos hstale).trans (congrArg some (if_neg hn))

/-- A notice for an earlier sender without an entry does no more than free the pair of a message that broke STALE. -/
theorem State.takeResolution_noEntry {c src : Nat} {key : Word} {r : Resol} (h : (u.freeStale c r).keyedIndex c key = none) :
    u.takeResolution c key r 2 0 src = .ok (u.freeStale c r) := by
  unfold State.takeResolution
  dsimp only
  rw [h]
  exact ite_self _

/-- A notice at the home of a pending promise that nothing waits on resolves it. -/
theorem State.resolveHome_pending {c src : Nat} {key : Word} {r : Resol} (hname : u.namesEntry c key = true) (hrole : (u.entry c (hIdx key)).role = 1)
    (hst : (u.entry c (hIdx key)).st = 1) (hdrop : (u.entry c (hIdx key)).dropped = false) (hwatch : (u.entry c (hIdx key)).w6 = 0)
    (hheld : (u.core c).reorder = []) : u.resolveHome c key r src = u.setEntry c (hIdx key)
      (if (u.entry c (hIdx key)).loc ≠ u.numOf c % 2 ^ 25 then (u.entry c (hIdx key)).resolved r else ((u.entry c (hIdx key)).resolved r).set0 23 25 src) := by
  unfold State.resolveHome
  dsimp only
  rw [hname, if_neg nofun, if_pos ⟨hrole, hst⟩, State.watching_of_zero hwatch, hdrop, if_neg nofun]
  unfold State.freeCells
  rw [List.map_nil, List.map_nil, List.foldl_nil, State.fireAll_nil]
  exact State.passHeld_of_nil ((congrArg Core.reorder ((State.storageOnly_setEntry ..).core c)).trans hheld) key

theorem State.namesEntry_key_ne_zero {c : Nat} {key : Word} (h : u.namesEntry c key = true) : key ≠ 0 := by
  rintro rfl
  obtain ⟨⟨-, hidx⟩, -⟩ := State.namesEntry_iff.1 h
  exact hidx (by decide)

/-- A release frees an entry that holds nothing. -/
theorem State.takeRelease_frees {c j : Nat} {key : Word} (hkey : u.keyedIndex c key = some j) (hdatum : (u.entry c j).ownDatum (u.handleOf c j 2) = false)
    (hmoved : (u.entry c j).moved = false) (hst : (u.entry c j).st ≠ 1) : u.takeRelease c key false = some (u.freeEntry c j) := by
  unfold State.takeRelease
  rw [if_neg nofun, hkey]
  dsimp only
  rw [hdatum, if_neg nofun, if_neg (fun h => hst h.1), hmoved, if_neg nofun]

/-- What the core of an entry that is freed and holds nothing notes of it. -/
def Core.forgets (j : Nat) (k : Core) : Core := { k with keyless := k.keyless.filter (· ≠ j) }

/-- An entry that holds nothing is freed by one write, and by what its core notes of it. -/
theorem State.freeEntry_empty {c j : Nat} (hst : (u.entry c j).st ≠ 1) (hseq : (u.entry c j).seqlist = 0) (hheld : (u.core c).reorder = [])
    (hdue : (u.core c).dataDue = []) :
    u.freeEntry c j = { u.setEntry c j (u.entry c j).freed with cores := (u.modCore c (Core.forgets j)).cores } := by
  have hcore : u.modCore c (fun k =>
      { k with reorder := k.reorder.filter (fun m => !((u.core c).reorder.filter (u.heldFor c j)).contains m), dataDue := k.dataDue.filter (· ≠ j), keyless := k.keyless.filter (· ≠ j) }) = u.modCore c (Core.forgets j) := by
    unfold State.modCore Core.forgets
    simp only [hheld, hdue, List.filter_nil]
  rw [← State.setEntry_modCore rfl]
  unfold State.freeEntry
  dsimp only
  rw [hcore, hheld, State.freeRecv_of_nil hseq, if_neg hst]
  rfl

/-- Settles O29: a registration fires, or leaves as a request; each notice is taken by the one step its body names. -/
theorem registrationsAndNotices : Obligations.RegistrationsAndNotices := by
  unfold Obligations.RegistrationsAndNotices
  refine ⟨fun s ra rb sc => ⟨fun h => ?_, fun hobj hvalid hk => ?_, fun hobj hvalid hk haway => ?_⟩, fun s u p h => ?_⟩
  · exact ⟨_, exec_when_trap (h.imp_right fun hv => by unfold State.handles; rw [hv]; decide), State.trap_trapsWith _ _ s (by decide)⟩
  · have hfire : s.fireWhen s.myCore s.me.act.obj (s.entry s.myCore s.me.act.obj).gen (BitVec.ofNat 6 ((s.x rb).toNat / 2 ^ 8 % 64)) (s.x ra)
        (Resol.val (s.x ra)) (s.numOf s.myCore) = if (s.entry s.myCore s.me.act.obj).st = 0 then s
          else s.joinQueue s.myCore s.me.act.obj ⟨.whenRes (BitVec.ofNat 6 ((s.x rb).toNat / 2 ^ 8 % 64)) (s.x ra) (Resol.val (s.x ra)), s.numOf s.myCore, none⟩ := by
      simp only [State.fireWhen_eq, and_true, ne_eq, ite_not]
    rw [← hfire]
    exact State.gives_when hobj hvalid (State.register_object hk rfl) (State.booksOnly_fireWhen ..)
  · exact State.gives_when hobj hvalid (State.register_away hk haway _) (State.booksOnly_sendPacket ..)
  have htake := State.takes_eq h
  refine ⟨fun n obj gen ch x r hb => ?_, fun x core obj gen ch hb hstale hn => ?_, fun key r hb hkey => ⟨fun hr => ?_, fun t hr hkey' => ?_⟩,
    fun key r => ?_, fun key num => ?_, fun key j => ?_⟩
  · refine congrArg Host.Outcome.next ((State.receive_of_takes h _).trans ?_)
    dsimp only
    rw [hb]
    exact State.fireWhen_eq ..
  · exact congrArg Host.Outcome.next (State.takeArrival_of_body h (State.takeBody_watch hb (State.watchHere_stale hstale hn)))
  · have hpair : u.freeStale (numCore p.dst) r = u := by
      unfold State.freeStale
      rw [hr]
    refine congrArg Host.Outcome.next (State.takeArrival_of_body h ((State.takeBody_resolve hb).trans ?_))
    rw [State.takeResolution_noEntry (by rw [hpair]; exact hkey), hpair]
  · have hpair : u.freeStale (numCore p.dst) r = u.freeSend (numCore p.dst) t := by
      unfold State.freeStale
      rw [hr]
      exact if_pos rfl
    refine congrArg Host.Outcome.next (State.takeArrival_of_body h ((State.takeBody_resolve hb).trans ?_))
    rw [State.takeResolution_noEntry (by rw [hpair]; exact hkey'), hpair]
  · intro e hb hname hrole hst hdrop hwatch hheld hr
    have hpair : u.freeStale (numCore p.dst) r = u := by
      unfold State.freeStale
      rw [hr]
    refine congrArg Host.Outcome.next (State.takeArrival_of_body h ((State.takeBody_resolve hb).trans ?_))
    unfold State.takeResolution
    dsimp only
    rw [hpair, if_neg (State.namesEntry_key_ne_zero hname)]
    exact congrArg Except.ok (State.resolveHome_pending hname hrole hst hdrop hwatch hheld)
  · intro e hb hname hrole hst hloc hheld
    refine congrArg Host.Outcome.next ((State.receive_of_takes h _).trans ?_)
    dsimp only
    rw [hb]
    refine (if_pos ⟨hname, hrole, hst, hloc⟩).trans (State.passHeld_of_nil ?_ key)
    exact (congrArg Core.reorder ((State.storageOnly_setEntry ..).core _)).trans hheld
  · intro e hb hkey hdatum hmoved hst hseq hheld hdue
    refine ⟨_, congrArg Host.Outcome.next (State.takeArrival_of_body h
      (State.takeBody_release hb (State.takeRelease_frees hkey hdatum hmoved hst))), ?_⟩
    rw [State.freeEntry_empty hst hseq hheld hdue]
    have hslots : (u.setEntry (numCore p.dst) j e.freed).slots = s.slots := by
      rw [(State.storageOnly_setEntry ..).slots, htake]
    refine ⟨hslots, rfl, fun k => ?_⟩
    split
    · next hk =>
      rw [hk]
      exact State.core_modCore_same ..
    · next hk => exact State.core_modCore_other hk ..

end notices

end Sys2Proof.Machine

namespace Sys2Proof.Machine

/-! # The resolution of an entry that nothing waits on -/

section resolution
variable {s : State} {c i : Nat} {r : Resol} {key : Word}

theorem State.core_sendPacket (a b : Nat) (y : Body) (c : Nat) (s : State) : (s.sendPacket a b y).core c = s.core c := by
  unfold State.sendPacket State.number
  dsimp only
  split <;> rfl

theorem State.sendNotice_of_quiet (h : s.forwarding c key = false) (dst : Nat) (r : Resol) (hop loc : Nat) :
    s.sendNotice c key dst r hop loc = s.sendPacket (s.numOf c) dst (.resolve key r hop loc) := by
  unfold State.sendNotice
  rw [h, if_neg nofun]

theorem State.forwarding_of_core {t : State} (h : t.core c = s.core c) (key : Word) : t.forwarding c key = s.forwarding c key := by
  unfold State.forwarding
  rw [h]

/-- The two notices of a resolution that the key's home and LOC are told of. -/
theorem State.sendNotices_of_quiet (h : s.forwarding c key = false) (r : Resol) (loc : Nat) : s.sendNotices c key r loc =
    if loc ≠ hNum key then (s.sendPacket (s.numOf c) (hNum key) (.resolve key r 1 0)).sendPacket (s.numOf c) loc (.resolve key r 2 0)
    else s.sendPacket (s.numOf c) (hNum key) (.resolve key r 1 0) := by
  unfold State.sendNotices
  rw [State.sendNotice_of_quiet h]
  have hnext : (s.sendPacket (s.numOf c) (hNum key) (.resolve key r 1 0)).forwarding c key = false :=
    (State.forwarding_of_core (State.core_sendPacket ..) key).trans h
  dsimp only
  rw [State.sendNotice_of_quiet hnext, (State.booksOnly_sendPacket ..).numOf]

theorem chainFuel_eq : chainFuel = 8193 + 1 := rfl

/-- An entry that nothing is queued or registered on takes the resolution, and its notices are all that leaves. -/
theorem State.resolveEntry_quiet (hq : (s.entry c i).quiet) (hfw : s.forwarding c (s.entry c i).w2 = false)
    (hdue : s.isLocalPromise c i = true → r.broken = false → hNum r.handle ≠ s.numOf c % 2 ^ 25 → hKind r.handle ≠ 2) (src : Nat) :
    s.resolvedAt c i (s.entry c i) r (s.isLocalPromise c i) (s.resolveEntry c chainFuel i r true src) := by
  obtain ⟨-, hqueue, hwatch, hdrop⟩ := hq
  have hfw' : (s.setEntry c i ((s.entry c i).resolved r)).forwarding c (s.entry c i).w2 = false :=
    (State.forwarding_of_core ((State.storageOnly_setEntry ..).core c) _).trans hfw
  have hnotdue : ¬ (s.isLocalPromise c i && (!r.broken && decide (hNum r.handle ≠ s.numOf c % 2 ^ 25)) && decide (hKind r.handle = 2)) = true := by
    simp only [Bool.and_eq_true, Bool.not_eq_true', decide_eq_true_eq]
    exact fun ⟨⟨hown, hval, haway⟩, hk⟩ => hdue hown hval haway hk
  rw [chainFuel_eq]
  unfold State.resolveEntry
  dsimp only
  rw [State.queued_of_zero hqueue, State.watching_of_zero hwatch, hdrop, Bool.and_false, Bool.false_and, if_neg nofun]
  unfold State.freeCells
  simp only [List.map_nil, List.foldl_nil, State.fireAll_nil, State.breakAll_nil, ite_self, Bool.not_true, Bool.false_eq_true, if_false]
  rw [if_neg hnotdue, State.sendNotice_of_quiet hfw', State.sendNotices_of_quiet hfw', State.numOf_setEntry]
  simp only [Bool.and_eq_true, Bool.not_eq_true', decide_eq_true_eq]
  refine ⟨fun haway => if_pos haway, fun haway hown => (if_neg haway).trans (if_pos hown), fun haway hown hloc => ?_, fun haway hown hloc => ?_⟩
  · rw [if_neg haway, hown, if_neg nofun, if_neg (not_not_intro hloc)]
  · rw [if_neg haway, hown, if_neg nofun, if_pos hloc]

/-- What resolves an entry that nothing waits on leaves all but the stored bytes and the network alone. -/
theorem State.resolvedAt.slots {u t : State} {e : HEntry} {own : Bool} (h : u.resolvedAt c i e r own t) : t.slots = u.slots ∧ t.cur = u.cur ∧ t.cycle = u.cycle := by
  obtain ⟨haway, hown, hhome, hboth⟩ := h
  have hsto := u.storageOnly_setEntry c i (e.resolved r)
  have hkeeps {t : State} (h : (u.setEntry c i (e.resolved r)).booksOnly t) : t.slots = u.slots ∧ t.cur = u.cur ∧ t.cycle = u.cycle :=
    ⟨h.slots.trans hsto.slots, h.cur.trans hsto.cur, h.cycle.trans hsto.cycle⟩
  by_cases ha : r.broken = false ∧ hNum r.handle ≠ u.numOf c % 2 ^ 25
  · rw [haway ha]
    exact hkeeps (State.booksOnly_sendPacket ..)
  · cases own with
    | true =>
      rw [hown ha rfl]
      exact hkeeps State.booksOnly.rfl
    | false =>
      by_cases hl : e.loc = hNum e.w2
      · rw [hhome ha rfl hl]
        exact hkeeps (State.booksOnly_sendPacket ..)
      · rw [hboth ha rfl hl]
        exact hkeeps ((State.booksOnly_sendPacket ..).trans (State.booksOnly_sendPacket ..))

end resolution

end Sys2Proof.Machine

namespace Sys2Proof.Machine

/-! # reply and rbreak (O28) -/

section resolving
variable {s u : State} {f : Nat → State → Option State} {j : Nat} {res : Option Word}

theorem State.asSend_eq (hcur : u.cur = s.cur) : (s.asSend fun _ => u) = u.modMe fun sl => { sl with sends := sl.sends ++ [(s.serial, u.serial)] } := by
  unfold State.asSend State.modMe
  rw [hcur]

/-- A resolution in `u`, with the send noted and REPLYH cleared, retires on top of `u`. -/
theorem State.retiresOn_mine (hkeeps : u.slots = s.slots ∧ u.cur = s.cur ∧ u.cycle = s.cycle) (sc : BitVec 3) :
    let f := ((s.asSend fun _ => u).modMe fun sl => { sl with replyh := 0 }).retire 4 sc.toNat
    u.retiresOn sc s f ∧ f.me.replyh = 0 ∧ s.me.keepsRegs f.me := by
  obtain ⟨hslots, hcur, hcycle⟩ := hkeeps
  have hslot (k : Nat) : u.slot k = s.slot k := by rw [State.slot, hslots]; rfl
  have hme : u.me = s.me := by rw [State.me, hslot, hcur]; rfl
  rw [State.asSend_eq hcur, State.modMe_modMe]
  obtain ⟨hretires, hfme⟩ := State.retiresOn_modMe (s := s) (p := u) (g := fun sl => { sl with sends := sl.sends ++ [(s.serial, u.serial)], replyh := 0 })
    hcur (fun k _ => hslot k) hcycle (by rw [hme]) (by rw [hme]) (by rw [hme]) (by rw [hme]) (by rw [hme]) sc
  refine ⟨hretires, ?_, ?_⟩
  · rw [hfme, Slot.retired1_replyh, Slot.seq_replyh]
  · rw [hfme, hme]
    exact ⟨Slot.seq_x .., Slot.seq_f .., Slot.seq_p .., Slot.seq_pend ..⟩

/-- A resolution of a local promise in `u`, with the send noted, retires on top of `u`. -/
theorem State.retiresOn_local (hkeeps : u.slots = s.slots ∧ u.cur = s.cur ∧ u.cycle = s.cycle) (sc : BitVec 3) :
    let f := (s.asSend fun _ => u).retire 4 sc.toNat
    u.retiresOn sc s f ∧ s.me.keepsButSends f.me ∧ s.me.keepsRegs f.me := by
  obtain ⟨hslots, hcur, hcycle⟩ := hkeeps
  have hslot (k : Nat) : u.slot k = s.slot k := by rw [State.slot, hslots]; rfl
  have hme : u.me = s.me := by rw [State.me, hslot, hcur]; rfl
  rw [State.asSend_eq hcur]
  obtain ⟨hretires, hfme⟩ := State.retiresOn_modMe (s := s) (p := u) (g := fun sl => { sl with sends := sl.sends ++ [(s.serial, u.serial)] })
    hcur (fun k _ => hslot k) hcycle (by rw [hme]) (by rw [hme]) (by rw [hme]) (by rw [hme]) (by rw [hme]) sc
  refine ⟨hretires, ?_, ?_⟩
  · rw [hfme, hme]
    unfold Slot.keepsButSends Slot.keepsRest Slot.retired1
    rw [Slot.seq_eq]
  · rw [hfme, hme]
    exact ⟨Slot.seq_x .., Slot.seq_f .., Slot.seq_p .., Slot.seq_pend ..⟩

theorem State.resolveMine_none (hreply : s.me.replyh = 0) (sc : Nat) : s.resolveMine res f sc = s.retire 4 sc := by
  unfold State.resolveMine
  dsimp only
  rw [if_pos hreply]

theorem State.resolveMine_eq (hreply : s.me.replyh ≠ 0) (hkey : s.keyedIndex s.myCore s.me.replyh = some j)
    (hrel : s.sendReleased s.cur (s.replyScope s.myCore j res) = true) (hst : (s.entry s.myCore j).st = 1) (hf : f j s = some u) (sc : Nat) :
    s.resolveMine res f sc = ((s.asSend fun _ => u).modMe fun sl => { sl with replyh := 0 }).retire 4 sc := by
  unfold State.resolveMine
  dsimp only
  rw [if_neg hreply, hkey]
  refine (if_pos hrel).trans ((if_neg (not_not_intro hst)).trans ?_)
  rw [hf]

variable {h : Word}

theorem State.resolveLocal_trap (hh : hNum h ≠ s.numOf s.myCore % 2 ^ 25 ∨ hIdx h = 0) (sc : Nat) : s.resolveLocal h res f sc = s.trap cPROTECTION h := if_pos hh

theorem State.resolveLocal_stale (hnum : hNum h = s.numOf s.myCore % 2 ^ 25) (hidx : hIdx h ≠ 0) (hgen : (s.entry s.myCore (hIdx h)).gen ≠ hGen h) (sc : Nat) :
    s.resolveLocal h res f sc = s.retire 4 sc := (if_neg (not_or.2 ⟨not_not_intro hnum, hidx⟩)).trans (if_pos (.inl hgen))

theorem State.resolveLocal_eq (hnum : hNum h = s.numOf s.myCore % 2 ^ 25) (hidx : hIdx h ≠ 0) (hgen : (s.entry s.myCore (hIdx h)).gen = hGen h)
    (hst : (s.entry s.myCore (hIdx h)).st = 1) (hlocal : s.isLocalPromise s.myCore (hIdx h) = true)
    (hrel : s.sendReleased s.cur (s.replyScope s.myCore (hIdx h) res) = true) (hf : f (hIdx h) s = some u) (sc : Nat) :
    s.resolveLocal h res f sc = (s.asSend fun _ => u).retire 4 sc := by
  unfold State.resolveLocal
  dsimp only
  rw [if_neg (not_or.2 ⟨not_not_intro hnum, hidx⟩), if_neg (by rw [hgen, hst]; simp), hst, hlocal, if_neg (by simp), if_neg (not_not_intro rfl)]
  refine (if_pos hrel).trans ?_
  dsimp only
  rw [hf]

end resolving

section resolutions
variable {s : State} {c j : Nat} {v : Word}

theorem State.replyHandle_value (hk : hKind v = 0) : s.replyHandle c j v = some (s.resolveEntry c chainFuel j (Resol.val v) true (s.numOf c)) := by
  have hbytes : s.withBytes c (Resol.val v) = Resol.val v := by
    have hnot : decide (hKind (Resol.val v).handle = 2) = false := decide_eq_false (by rw [show (Resol.val v).handle = v from rfl, hk]; decide)
    unfold State.withBytes
    rw [hnot, Bool.and_false, Bool.false_and, if_neg nofun]
  unfold State.replyHandle
  split
  · next hk' => exact absurd (hk.symm.trans hk') (by decide)
  · next hk' => exact absurd (hk.symm.trans hk') (by decide)
  · rw [hbytes]

/-- What depends on a broken handle names the first failure, where the core's own entry records it (R46, R54). -/
theorem State.replyHandle_broken (hk : hKind v = 3) : s.replyHandle c j v = some (s.resolveEntry c chainFuel j
    (if hNum v = s.numOf c % 2 ^ 25 ∧ hIdx v ≠ 0 ∧ (s.entry c (hIdx v)).st = 3 ∧ (s.entry c (hIdx v)).gen = hGen v
      then Resol.brk 1 (s.entry c (hIdx v)).w1 (s.entry c (hIdx v)).cause else Resol.brk 1 v (s.causeOf c v)) true (s.numOf c)) := by
  have hnames : (s.namesEntry c v = true ∧ (s.entry c (hIdx v)).st = 3) ↔
      hNum v = s.numOf c % 2 ^ 25 ∧ hIdx v ≠ 0 ∧ (s.entry c (hIdx v)).st = 3 ∧ (s.entry c (hIdx v)).gen = hGen v := by
    rw [State.namesEntry_iff]
    constructor
    · rintro ⟨⟨⟨hnum, hidx⟩, -, hgen⟩, hst⟩
      exact ⟨hnum, hidx, hst, hgen⟩
    · rintro ⟨hnum, hidx, hst, hgen⟩
      exact ⟨⟨⟨hnum, hidx⟩, by rw [hst]; decide, hgen⟩, hst⟩
  have hbroken : s.replyHandle c j v = some (s.resolveEntry c chainFuel j (Resol.brk 1 (s.originOf c v) (s.causeOf c v)) true (s.numOf c)) := by
    unfold State.replyHandle
    split
    · next hk' => exact absurd (hk.symm.trans hk') (by decide)
    · rfl
    · next hk' => exact absurd hk hk'
  refine hbroken.trans (congrArg (fun r => some (s.resolveEntry c chainFuel j r true (s.numOf c))) ?_)
  split
  · next own =>
    obtain ⟨hname, hst⟩ := hnames.2 own
    unfold State.originOf State.causeOf
    rw [if_pos ⟨hname, hst⟩, if_pos hname]
  · next own =>
    unfold State.originOf
    rw [if_neg (mt hnames.1 own)]

theorem State.replyHandle_promise (hk : hKind v = 1) (haway : hNum v ≠ s.numOf c % 2 ^ 25) :
    s.replyHandle c j v = some (s.sendPacket (s.numOf c) (hNum v) (.watch v (.entry (s.numOf c) j (s.entry c j).gen))) := by
  unfold State.replyHandle
  split
  · exact State.register_away (by rw [hk]; decide) haway _
  · next hk' => exact absurd (hk.symm.trans hk') (by decide)
  · next hk' _ => exact absurd hk hk'

theorem HEntry.set0_w4 (e : HEntry) (lo n v : Nat) : (e.set0 lo n v).w4 = e.w4 := rfl
theorem HEntry.set0_w6 (e : HEntry) (lo n v : Nat) : (e.set0 lo n v).w6 = e.w6 := rfl

/-- A write of its class leaves an entry as one that nothing waits on. -/
theorem HEntry.quiet_set0 {e : HEntry} (h : e.quiet) (cls : Nat) : (e.set0 15 4 cls).quiet := by
  obtain ⟨hst, hqueue, hwatch, hdrop⟩ := h
  have hw : (e.set0 15 4 cls).w0 = wset e.w0 15 4 cls := rfl
  refine ⟨?_, (HEntry.set0_w4 ..).trans hqueue, (HEntry.set0_w6 ..).trans hwatch, ?_⟩
  · unfold HEntry.st
    rw [hw, wbits_wset_other (by decide) (by decide)]
    exact hst
  · unfold HEntry.dropped
    rw [hw, getLsbD_wset_other (by decide) (by decide)]
    exact hdrop

theorem rbreakReason_eq (v : Word) : rbreakReason v = 0x8000 + v.toNat % 2 ^ 15 := by
  unfold rbreakReason wbits
  rw [Nat.pow_zero, Nat.div_one]

/-- A handle that keeps its place on the core of `u` is not away. -/
theorem State.notAway_handleOf {u : State} (hnum : u.numOf c = s.numOf c) (hj : j < 2 ^ 12) (kind : Nat) (hkind : kind < 4) :
    hNum (s.handleOf c j kind) = u.numOf c % 2 ^ 25 := by
  rw [hnum]
  exact s.hNum_handleOf c j hj hkind

/-- An answer entry or a local promise becomes a datum of the class that `cls` names. -/
theorem State.replyDatumAt_quiet (cls : Word) (hq : (s.entry c j).quiet) (hfw : s.forwarding c (s.entry c j).w2 = false) :
    let e1 := (s.entry c j).set0 15 4 (cls.toNat % 16); let u := s.setEntry c j e1
    u.entry c j = e1 → (u.isLocalPromise c j = true → j < 2 ^ 12) →
    u.resolvedAt c j e1 ⟨false, s.handleOf c j 2, 0, 0, s.x 10, s.x 11, s.x 12, s.x 13, none⟩ (u.isLocalPromise c j) (s.replyDatumAt c j cls) := by
  intro e1 u hread hown
  have hcls : wbits cls 0 4 = cls.toNat % 16 := by
    unfold wbits
    rw [Nat.pow_zero, Nat.div_one]
    rfl
  have hq1 : (u.entry c j).quiet := by
    rw [hread]
    exact HEntry.quiet_set0 hq _
  have hfw1 : u.forwarding c (u.entry c j).w2 = false := by
    rw [hread, HEntry.set0_w2]
    exact (State.forwarding_of_core ((s.storageOnly_setEntry c j e1).core c) _).trans hfw
  have hres := State.resolveEntry_quiet (r := ⟨false, s.handleOf c j 2, 0, 0, s.x 10, s.x 11, s.x 12, s.x 13, none⟩) hq1 hfw1
    (fun hloc _ haway => absurd (State.notAway_handleOf (State.numOf_setEntry ..) (hown hloc) 2 (by decide)) haway) (s.numOf c)
  rw [hread] at hres
  unfold State.replyDatumAt
  dsimp only
  rw [hcls]
  exact hres

end resolutions

section instructions
variable {s : State} (ra rb : Reg) (sc : BitVec 3)

/-- The instructions that resolve REPLYH's answer entry. -/
theorem repliesResolve_mine (j : Nat) (hreply : s.me.replyh ≠ 0) (hkey : s.keyedIndex s.myCore s.me.replyh = some j)
    (hq : (s.entry s.myCore j).quiet) (hfw : s.forwarding s.myCore (s.entry s.myCore j).w2 = false) (hown : s.isLocalPromise s.myCore j = false) :
    let c := s.myCore; let here := s.numOf c; let v := s.x ra; let e := s.entry c j; let reason := 0x8000 + v.toNat % 2 ^ 15
    let freed := fun (res : Option Word) => s.sendReleased s.cur (s.replyScope c j res) = true
    let done := fun (w f : State) => w.retiresOn sc s f ∧ f.me.replyh = 0 ∧ s.me.keepsRegs f.me
    (hKind v = 0 → freed (some v) → s.gives (.reply ra sc) fun f => ∃ w, s.resolvedAt c j e (Resol.val v) false w ∧ done w f) ∧
    (hKind v = 3 → freed (some v) → let own := hNum v = here % 2 ^ 25 ∧ hIdx v ≠ 0 ∧ (s.entry c (hIdx v)).st = 3 ∧ (s.entry c (hIdx v)).gen = hGen v
      s.gives (.reply ra sc) fun f => ∃ w, s.resolvedAt c j e (if own then Resol.brk 1 (s.entry c (hIdx v)).w1 (s.entry c (hIdx v)).cause
        else Resol.brk 1 v (s.causeOf c v)) false w ∧ done w f) ∧
    (hKind v = 1 → hNum v ≠ here % 2 ^ 25 → freed (some v) → s.gives (.reply ra sc) (done (s.sendPacket here (hNum v) (.watch v (.entry here j e.gen))))) ∧
    (freed none → s.gives (.rbreak ra sc) fun f => ∃ w, s.resolvedAt c j e (Resol.brk reason (hWithKind e.w2 1) 0) false w ∧ done w f) ∧
    (let e1 := e.set0 15 4 (v.toNat % 16); let u := s.setEntry c j e1
     freed none → u.entry c j = e1 → u.isLocalPromise c j = false → s.gives (.replyDatum ra sc) fun f =>
      ∃ w, u.resolvedAt c j e1 ⟨false, s.handleOf c j 2, 0, 0, s.x 10, s.x 11, s.x 12, s.x 13, none⟩ false w ∧ done w f) := by
  intro c here v e reason freed done
  have hst := hq.1
  have hres (r : Resol) : s.resolvedAt c j e r false (s.resolveEntry c chainFuel j r true here) := by
    have h := State.resolveEntry_quiet (r := r) hq hfw (fun hloc => absurd hloc (by rw [hown]; nofun)) here
    rw [hown] at h
    exact h
  refine ⟨fun hk hrel => ?_, fun hk hrel => ?_, fun hk haway hrel => ?_, fun hrel => ?_, fun hrel hread hown' => ?_⟩
  · exact ⟨_, congrArg Host.Outcome.next (State.resolveMine_eq hreply hkey hrel hst (State.replyHandle_value hk) _), _, hres _, State.retiresOn_mine (hres _).slots sc⟩
  · exact ⟨_, congrArg Host.Outcome.next (State.resolveMine_eq hreply hkey hrel hst (State.replyHandle_broken hk) _), _, hres _, State.retiresOn_mine (hres _).slots sc⟩
  · have hbooks := s.booksOnly_sendPacket here (hNum v) (.watch v (.entry here j e.gen))
    exact ⟨_, congrArg Host.Outcome.next (State.resolveMine_eq hreply hkey hrel hst (State.replyHandle_promise hk haway) _),
      State.retiresOn_mine ⟨hbooks.slots, hbooks.cur, hbooks.cycle⟩ sc⟩
  · refine ⟨_, congrArg Host.Outcome.next (State.resolveMine_eq hreply hkey hrel hst rfl _), _, hres _, ?_⟩
    rw [rbreakReason_eq]
    exact State.retiresOn_mine (hres _).slots sc
  · have hres := State.replyDatumAt_quiet v hq hfw hread (fun hloc => absurd hloc (by rw [hown']; nofun))
    rw [hown'] at hres
    have hsto := s.storageOnly_setEntry c j (e.set0 15 4 (v.toNat % 16))
    obtain ⟨hslots, hcur, hcycle⟩ := hres.slots
    exact ⟨_, congrArg Host.Outcome.next (State.resolveMine_eq hreply hkey hrel hst rfl _), _, hres,
      State.retiresOn_mine ⟨hslots.trans hsto.slots, hcur.trans hsto.cur, hcycle.trans hsto.cycle⟩ sc⟩

/-- The instructions that resolve a local promise. -/
theorem repliesResolve_local (hnum : hNum (s.x rb) = s.numOf s.myCore % 2 ^ 25) (hidx : hIdx (s.x rb) ≠ 0)
    (hgen : (s.entry s.myCore (hIdx (s.x rb))).gen = hGen (s.x rb)) (hq : (s.entry s.myCore (hIdx (s.x rb))).quiet)
    (hfw : s.forwarding s.myCore (s.entry s.myCore (hIdx (s.x rb))).w2 = false) (hown : s.isLocalPromise s.myCore (hIdx (s.x rb)) = true) :
    let c := s.myCore; let v := s.x ra; let j := hIdx (s.x rb); let e := s.entry c j; let reason := 0x8000 + v.toNat % 2 ^ 15
    let freed := fun (res : Option Word) => s.sendReleased s.cur (s.replyScope c j res) = true
    let done := fun (w f : State) => w.retiresOn sc s f ∧ s.me.keepsButSends f.me ∧ s.me.keepsRegs f.me
    (hKind v = 0 → freed (some v) → s.gives (.replyLocalPromise ra rb sc) fun f => ∃ w, s.resolvedAt c j e (Resol.val v) true w ∧ done w f) ∧
    (freed none → s.gives (.rbreakLocalPromise ra rb sc) fun f => ∃ w, s.resolvedAt c j e (Resol.brk reason (hWithKind e.w2 1) 0) true w ∧ done w f) ∧
    (let e1 := e.set0 15 4 (v.toNat % 16); let u := s.setEntry c j e1
     freed none → u.entry c j = e1 → u.isLocalPromise c j = true → s.gives (.replyDatumLocalPromise ra rb sc) fun f =>
      ∃ w, u.resolvedAt c j e1 ⟨false, s.handleOf c j 2, 0, 0, s.x 10, s.x 11, s.x 12, s.x 13, none⟩ true w ∧ done w f) := by
  intro c v j e reason freed done
  have hst := hq.1
  have hj : j < 2 ^ 12 := wbits_lt ..
  have hres (r : Resol) (hdue : r.broken = false → hKind r.handle ≠ 2) : s.resolvedAt c j e r true (s.resolveEntry c chainFuel j r true (s.numOf c)) := by
    have h := State.resolveEntry_quiet (r := r) hq hfw (fun _ hval _ => hdue hval) (s.numOf c)
    rw [hown] at h
    exact h
  refine ⟨fun hk hrel => ?_, fun hrel => ?_, fun hrel hread hown' => ?_⟩
  · have hval := hres (Resol.val v) (fun _ h2 => absurd (hk.symm.trans h2) (by decide))
    exact ⟨_, congrArg Host.Outcome.next (State.resolveLocal_eq hnum hidx hgen hst hown hrel (State.replyHandle_value hk) _), _, hval, State.retiresOn_local hval.slots sc⟩
  · have hbrk := hres (Resol.brk reason (hWithKind e.w2 1) 0) nofun
    refine ⟨_, congrArg Host.Outcome.next (State.resolveLocal_eq hnum hidx hgen hst hown hrel rfl _), _, hbrk, ?_⟩
    rw [rbreakReason_eq]
    exact State.retiresOn_local hbrk.slots sc
  · have hres := State.replyDatumAt_quiet v hq hfw hread (fun _ => hj)
    rw [hown'] at hres
    have hsto := s.storageOnly_setEntry c j (e.set0 15 4 (v.toNat % 16))
    obtain ⟨hslots, hcur, hcycle⟩ := hres.slots
    exact ⟨_, congrArg Host.Outcome.next (State.resolveLocal_eq hnum hidx hgen hst hown hrel rfl _), _, hres,
      State.retiresOn_local ⟨hslots.trans hsto.slots, hcur.trans hsto.cur, hcycle.trans hsto.cycle⟩ sc⟩

end instructions

/-- Settles O28: each instruction comes to one resolution of an entry that nothing waits on, whose notices are all that leaves. -/
theorem repliesResolve : Obligations.RepliesResolve := by
  unfold Obligations.RepliesResolve
  intro s ra rb sc c here v h reason
  refine ⟨fun hreply i hi => ?_, fun j => repliesResolve_mine ra sc j, fun hbad i hi => ?_,
    fun hnum hidx hgen i hi => ?_, fun hnum hidx hgen hq hfw hown => repliesResolve_local ra rb sc hnum hidx hgen hq hfw hown⟩
  · have hretire := s.retire_stepsOnly 4 sc.toNat
    simp only [List.mem_cons, List.not_mem_nil, or_false] at hi
    rcases hi with rfl | rfl | rfl <;> exact ⟨_, congrArg Host.Outcome.next (State.resolveMine_none hreply _), hretire⟩
  · have htrap := State.trap_trapsWith cPROTECTION h s (by decide)
    simp only [List.mem_cons, List.not_mem_nil, or_false] at hi
    rcases hi with rfl | rfl | rfl <;> exact ⟨_, congrArg Host.Outcome.next (State.resolveLocal_trap hbad _), htrap⟩
  · have hretire := s.retire_stepsOnly 4 sc.toNat
    simp only [List.mem_cons, List.not_mem_nil, or_false] at hi
    rcases hi with rfl | rfl | rfl <;> exact ⟨_, congrArg Host.Outcome.next (State.resolveLocal_stale hnum hidx hgen _), hretire⟩

end Sys2Proof.Machine

namespace Sys2Proof.Machine

/-! # inv and invp (O26) -/

section sending
variable {s : State} {t d : Word} {pl : List Byte × Bool} {f : List Byte × Bool → Route → State → State}

variable {num : Nat} {fwd : Bool}

/-- A send on a route that stands waits for its release and for its credit. -/
theorem State.sending_go (hfence : s.me.fences = []) (hpl : s.payload d = .ok (pl, s)) (hroute : s.route s.myCore t = .go num fwd) : s.sending t d f =
    s.sendReleasing (s.sendScope t) fun s =>
      if s.hasCredit (creditKey num) then f pl (.go num fwd) s.onCredit
      else if s.me.lost then f pl (.broken rUNREACHABLE none 0) (s.modMe fun sl => { sl with lost := false })
      else s.needCredit (creditKey num) := by
  unfold State.sending
  rw [State.fenced_of_nil hfence, Bool.false_and, if_neg nofun, hpl]
  dsimp only
  rw [hroute]

theorem State.sending_credit (hfence : s.me.fences = []) (hpl : s.payload d = .ok (pl, s)) (hroute : s.route s.myCore t = .go num fwd)
    (hrel : s.sendReleased s.cur (s.sendScope t) = true) (hcredit : s.hasCredit (creditKey num) = true) :
    s.sending t d f = f pl (.go num fwd) s.onCredit := by
  rw [State.sending_go hfence hpl hroute]
  exact (if_pos hrel).trans (if_pos hcredit)

theorem State.sending_waits (hfence : s.me.fences = []) (hpl : s.payload d = .ok (pl, s)) (hroute : s.route s.myCore t = .go num fwd)
    (hrel : s.sendReleased s.cur (s.sendScope t) = true) (hcredit : s.hasCredit (creditKey num) = false) (hlost : s.me.lost = false) :
    s.sending t d f = (s.askBlock s.myCore (creditKey num)).waitFor (.credit (creditKey num)) := by
  rw [State.sending_go hfence hpl hroute]
  exact (if_pos hrel).trans ((if_neg (by rw [hcredit]; nofun)).trans (if_neg (by rw [hlost]; nofun)))

theorem State.sending_broken {reason cause : Nat} {origin : Option Word} (hfence : s.me.fences = []) (hpl : s.payload d = .ok (pl, s))
    (hroute : s.route s.myCore t = .broken reason origin cause) : s.sending t d f = f pl (.broken reason origin cause) s := by
  unfold State.sending
  rw [State.fenced_of_nil hfence, Bool.false_and, if_neg nofun, hpl]
  dsimp only
  rw [hroute]

/-- What depends on the registers of the slot in hand alone is the same where those and the core's number are. -/
theorem State.header_congr {u v : State} (hx : ∀ q, u.x q = v.x q) (hnum : u.numOf u.myCore = v.numOf v.myCore) (target reply d : Word)
    (pl : List Byte × Bool) (fwd : Bool) : u.header target reply d pl fwd = v.header target reply d pl fwd := by
  simp only [State.header, State.argument, hx, hnum]

end sending

section onCredit
variable (s : State)

theorem State.onCredit_myCore : s.onCredit.myCore = s.myCore := congrArg coreOf s.onCredit_spec.1.cur

theorem State.onCredit_core (c : Nat) : s.onCredit.core c = s.core c := by
  rw [s.onCredit_spec.1.1]
  rfl

theorem State.onCredit_numOf (c : Nat) : s.onCredit.numOf c = s.numOf c := by
  rw [s.onCredit_spec.1.1]
  rfl

theorem State.onCredit_cycle : s.onCredit.cycle = s.cycle := by
  rw [s.onCredit_spec.1.1]

theorem State.storesAs_onCredit : s.storesAs s.onCredit := by
  rw [s.onCredit_spec.1.1]
  exact ⟨rfl, rfl, rfl, rfl, rfl, rfl, rfl, fun _ => rfl⟩

theorem State.onCredit_entry (c i : Nat) : s.onCredit.entry c i = s.entry c i :=
  s.storesAs_onCredit.entry (congrArg Core.htbase (s.onCredit_core c)) i

theorem State.onCredit_freeIndex (c : Nat) : s.onCredit.freeIndex c = s.freeIndex c :=
  s.storesAs_onCredit.freeIndex (congrArg Core.htbase (s.onCredit_core c))

theorem State.onCredit_keyedIndex (c : Nat) (key : Word) : s.onCredit.keyedIndex c key = s.keyedIndex c key :=
  s.storesAs_onCredit.keyedIndex (congrArg Core.htbase (s.onCredit_core c)) key

end onCredit

section launch
variable {s u v : State} {m : Msg} {num : Nat} {n : BitVec 16}

theorem State.modMe_congr {f g : Slot → Slot} (h : f s.me = g s.me) : s.modMe f = s.modMe g := by
  unfold State.modMe State.modSlot
  rw [show f (s.slot s.cur) = g (s.slot s.cur) from h]

/-- A message with a credit and a number is on its way, and counts among the slot's sends. -/
theorem State.numberAndSend_spec (hseq : u.nextSeq u.myCore m.target num = some (n, v)) (hcredit : (u.credit u.myCore (creditKey num)).avail ≠ 0) :
    ∃ p sent, v.sentFrom u.myCore num { m with seq := n } p ∧
      u.numberAndSend m num = p.modMe (fun sl => { sl with sends := sl.sends ++ [sent] }) ∧
      p.cur = u.cur ∧ p.cycle = u.cycle ∧ ∀ k, p.slot k = u.slot k := by
  have hv := State.storageOnly_nextSeq _ hseq
  have hcore : v.myCore = u.myCore := congrArg coreOf hv.cur
  obtain ⟨w, hw⟩ := State.spend_of_avail (s := v) (c := v.myCore) (key := creditKey num) (by
    rw [hcore, State.credit, hv.core]
    exact hcredit)
  have hp : v.booksOnly (w.sendPacket (v.numOf v.myCore) num (.invoke { m with seq := n })) := (State.booksOnly_spend hw).trans (State.booksOnly_sendPacket ..)
  have hlaunch := State.launchMsg_of_spend (m := { m with seq := n }) hw
  have hsent : v.sentFrom u.myCore num { m with seq := n } (w.sendPacket (v.numOf v.myCore) num (.invoke { m with seq := n })) :=
    ⟨w, hcore ▸ hw, by rw [hcore]⟩
  generalize w.sendPacket (v.numOf v.myCore) num (.invoke { m with seq := n }) = p at hp hlaunch hsent
  exact ⟨p, _, hsent, (State.numberAndSend_of_nextSeq hseq).trans hlaunch, hp.cur.trans hv.cur, hp.cycle.trans hv.cycle, fun k => (hp.slot k).trans (hv.slot k)⟩

theorem Slot.landOne_sends (w : PendWrite) (sl : Slot) : (sl.landOne w).sends = sl.sends := by
  unfold Slot.landOne
  cases w.kind <;> simp

/-- Results that land do not concern the sends under way. -/
theorem Slot.flush_sends (sl : Slot) : sl.flush.sends = sl.sends := by
  have hland (l : List PendWrite) (a : Slot) : (l.foldl (fun sl w => sl.landOne w) a).sends = a.sends := by
    induction l generalizing a with
    | nil => rfl
    | cons w l ih => exact (ih _).trans (Slot.landOne_sends w a)
  exact hland sl.pend sl

/-- A send noted in the slot in hand, and a result by parking: the slots of `p` but for the noted sends. -/
theorem State.givesOn_sent {p : State} {sent : Nat × Nat} (hcur : p.cur = s.cur) (hcycle : p.cycle = s.cycle) (rd : Reg) (h : Word) (sc : BitVec 3) :
    let f := (p.modMe fun sl => { sl with sends := sl.sends ++ [sent] }).giveX rd h sc.toNat
    (p.modMe fun sl => { sl with sends := f.me.sends }).givesOn rd h sc s f := by
  intro f
  have hsends : f.me.sends = p.me.sends ++ [sent] := by
    obtain ⟨-, hparks⟩ := State.parkMe_spec (.give rd.toNat h sc.toNat) sc.toNat (p.modMe fun sl => { sl with sends := sl.sends ++ [sent] })
    have hme : f.me = ((p.modMe fun sl => { sl with sends := sl.sends ++ [sent] }).parkMe (.give rd.toNat h sc.toNat) sc.toNat).me := rfl
    rw [hme, hparks, State.me_modMe]
    exact Slot.flush_sends _
  have heq : (p.modMe fun sl => { sl with sends := f.me.sends }) = p.modMe fun sl => { sl with sends := sl.sends ++ [sent] } :=
    State.modMe_congr (by rw [hsends])
  rw [heq]
  exact State.givesOn_giveX (u := p.modMe fun sl => { sl with sends := sl.sends ++ [sent] }) hcur hcycle rd h sc

end launch

section inv
variable {s : State} {rd ra rb : Reg} {sc : BitVec 3} {pl : List Byte × Bool} {num i j : Nat} {fwd : Bool} {n : BitVec 16} {v : State}

/-- inv's broken handle, where no entry is free (R39). -/
theorem exec_inv_full (hfence : s.me.fences = []) (hpl : s.payload (s.x rb) = .ok (pl, s)) (hroute : s.route s.myCore (s.x ra) = .go num fwd)
    (hrel : s.sendReleased s.cur (s.sendScope (s.x ra)) = true) (hcredit : s.hasCredit (creditKey num) = true) (hfull : s.freeIndex s.myCore = none) :
    exec (.inv rd ra rb sc) s = .next (s.onCredit.giveX rd s.onCredit.noEntry sc.toNat) := by
  refine congrArg Host.Outcome.next ((State.sending_credit hfence hpl hroute hrel hcredit).trans ?_)
  dsimp only
  rw [s.onCredit_myCore, s.onCredit_freeIndex, hfull]

/-- inv's message leaves for the new promise. -/
theorem exec_inv_sends (hfence : s.me.fences = []) (hpl : s.payload (s.x rb) = .ok (pl, s)) (hroute : s.route s.myCore (s.x ra) = .go num fwd)
    (hrel : s.sendReleased s.cur (s.sendScope (s.x ra)) = true) (hcredit : s.hasCredit (creditKey num) = true) (hfree : s.freeIndex s.myCore = some i) :
    let loc := if hKind (s.x ra) = 1 ∧ hNum (s.x ra) ≠ s.numOf s.myCore % 2 ^ 25 then s.numOf s.myCore else num
    let u := s.onCredit.setEntry s.myCore i ((s.entry s.myCore i).mk' 1 loc (s.x ra)); let h := u.handleOf s.myCore i 1
    u.hasPair s.myCore (s.x ra) = true →
    exec (.inv rd ra rb sc) s = .next ((u.numberAndSend (u.header (s.x ra) h (s.x rb) pl fwd) num).giveX rd h sc.toNat) := by
  intro loc u h hpair
  refine congrArg Host.Outcome.next ((State.sending_credit hfence hpl hroute hrel hcredit).trans ?_)
  dsimp only
  rw [s.onCredit_myCore, s.onCredit_freeIndex, hfree, s.onCredit_numOf]
  dsimp only
  rw [s.onCredit_entry, if_pos hpair]

/-- inv whose route is refused breaks the new promise. -/
theorem exec_inv_broken {reason cause : Nat} {origin : Option Word} (hfence : s.me.fences = []) (hpl : s.payload (s.x rb) = .ok (pl, s))
    (hroute : s.route s.myCore (s.x ra) = .broken reason origin cause) (hfree : s.freeIndex s.myCore = some i) :
    let u := s.setEntry s.myCore i ((s.entry s.myCore i).mk' 1 (s.numOf s.myCore) (s.x ra)); let h := u.handleOf s.myCore i 1
    exec (.inv rd ra rb sc) s =
      .next ((u.setEntry s.myCore i ((u.entry s.myCore i).resolved (Resol.brk reason (origin.getD h) cause))).giveX rd h sc.toNat) := by
  intro u h
  refine congrArg Host.Outcome.next ((State.sending_broken hfence hpl hroute).trans ?_)
  dsimp only
  rw [hfree]

/-- invp's message leaves with REPLYH. -/
theorem exec_invp_sends (hfence : s.me.fences = []) (hpl : s.payload (s.x rb) = .ok (pl, s)) (hroute : s.route s.myCore (s.x ra) = .go num fwd)
    (hrel : s.sendReleased s.cur (s.sendScope (s.x ra)) = true) (hcredit : s.hasCredit (creditKey num) = true)
    (hreply : s.me.replyh ≠ 0) (hkey : s.keyedIndex s.myCore s.me.replyh = some j) :
    let u := (s.onCredit.setEntry s.myCore j ((s.entry s.myCore j).set0 21 1 1)).modMe fun sl => { sl with replyh := 0 }
    u.hasPair s.myCore (s.x ra) = true →
    exec (.invp ra rb sc) s = .next ((u.numberAndSend (u.header (s.x ra) s.me.replyh (s.x rb) pl fwd) num).retire 4 sc.toNat) := by
  intro u hpair
  have hme : s.onCredit.me.replyh = s.me.replyh := by rw [s.onCredit_spec.2]
  have hu : (s.onCredit.setEntry s.myCore j ((s.onCredit.entry s.myCore j).set0 21 1 1)).modMe (fun sl => { sl with replyh := 0 }) = u := by
    unfold u
    rw [s.onCredit_entry s.myCore j]
  have hexec : exec (.invp ra rb sc) s = execInvp ra rb sc s := rfl
  unfold execInvp at hexec
  dsimp only at hexec
  rw [hexec, State.sending_credit hfence hpl hroute hrel hcredit]
  dsimp only
  rw [s.onCredit_myCore, hme, if_neg hreply, s.onCredit_keyedIndex, hkey]
  dsimp only
  rw [hu, if_pos hpair]

theorem exec_inv_waits (hfence : s.me.fences = []) (hpl : s.payload (s.x rb) = .ok (pl, s)) (hroute : s.route s.myCore (s.x ra) = .go num fwd)
    (hrel : s.sendReleased s.cur (s.sendScope (s.x ra)) = true) (hcredit : s.hasCredit (creditKey num) = false) (hlost : s.me.lost = false) :
    let w := Host.Outcome.next ((s.askBlock s.myCore (creditKey num)).waitFor (.credit (creditKey num)))
    exec (.inv rd ra rb sc) s = w ∧ exec (.invp ra rb sc) s = w :=
  ⟨congrArg Host.Outcome.next (State.sending_waits hfence hpl hroute hrel hcredit hlost),
   congrArg Host.Outcome.next (State.sending_waits hfence hpl hroute hrel hcredit hlost)⟩

end inv

/-- Settles O26: the checks of a send, and then one message with its promise or with REPLYH, a broken promise, or a wait. -/
theorem invSendsAndPromises : Obligations.InvSendsAndPromises := by
  unfold Obligations.InvSendsAndPromises
  intro s rd ra rb sc pl num fwd t d c hfence hpl
  obtain ⟨honly, hme⟩ := s.onCredit_spec
  have hcycle := s.onCredit_cycle
  refine ⟨fun hroute hrel => ⟨fun hcredit => ⟨fun i n v hfree => ?sends, fun hfull => ?full, fun j n v hreply hkey => ?passes⟩, fun hcredit hlost => ?waits⟩,
    fun reason origin cause i hroute hfree => ?broken⟩
  case sends =>
    intro loc u h hpair hseq
    have hu := s.onCredit.storageOnly_setEntry c i ((s.entry c i).mk' 1 loc t)
    have hcore : u.myCore = c := congrArg coreOf (hu.cur.trans honly.cur)
    have hnum : u.numOf u.myCore = s.numOf c := by rw [hcore, State.numOf_setEntry, s.onCredit_numOf]
    have hkind : hKind h = 1 := u.hKind_handleOf c i (kind := 1) (by decide)
    obtain ⟨p, sent, hsent, heq, hcur, hcyc, -⟩ := State.numberAndSend_spec (u := u) (m := u.header t h d pl fwd) (hcore.symm ▸ hseq) (by
      rw [hcore, State.credit, hu.core, s.onCredit_core]
      exact State.hasCredit_iff.1 hcredit)
    rw [hcore] at hsent
    refine ⟨hkind, _, exec_inv_sends hfence hpl hroute hrel hcredit hfree hpair, _, p, State.messageIs_header (hu.me.trans hme) hnum t h d pl fwd n, rfl,
      hsent, ?_⟩
    rw [heq]
    exact State.givesOn_sent (hcur.trans (hu.cur.trans honly.cur)) (hcyc.trans (hu.cycle.trans hcycle)) rd h sc
  case full =>
    obtain ⟨hkind, hidx, hgen, -, -⟩ := s.onCredit.noEntry_fields
    exact ⟨_, hkind, hidx, hgen, _, exec_inv_full hfence hpl hroute hrel hcredit hfull, State.givesOn_giveX honly.cur hcycle rd _ sc⟩
  case passes =>
    intro u hpair hseq
    have hu := s.onCredit.storageOnly_setEntry c j ((s.entry c j).set0 21 1 1)
    have hcur : u.cur = s.cur := hu.cur.trans honly.cur
    have hcore : u.myCore = c := congrArg coreOf hcur
    have hnum : u.numOf u.myCore = s.numOf c := by
      rw [hcore]
      exact (State.numOf_setEntry ..).trans (s.onCredit_numOf c)
    have hume : u.me = { s.me with lost := false, replyh := 0 } := by
      refine (State.me_modMe ..).trans ?_
      rw [hu.me, hme]
    have hslot (k : Nat) (hk : k ≠ s.cur) : u.slot k = s.slot k :=
      (State.slot_modMe_other _ _ (hu.cur.trans honly.cur ▸ hk)).trans ((hu.slot k).trans (honly.2 k hk))
    obtain ⟨p, sent, hsent, heq, hpcur, hcyc, hpslot⟩ := State.numberAndSend_spec (u := u) (m := u.header t s.me.replyh d pl fwd) (hcore.symm ▸ hseq) (by
      rw [hcore, State.credit, show u.core c = s.core c from (hu.core c).trans (s.onCredit_core c)]
      exact State.hasCredit_iff.1 hcredit)
    rw [hcore] at hsent
    have hpme : p.me = { s.me with lost := false, replyh := 0 } := by
      rw [State.me, hpslot, hpcur]
      exact hume
    have hheader : u.header t s.me.replyh d pl fwd = s.onCredit.header t s.me.replyh d pl fwd := State.header_congr (fun q => by
        unfold State.x
        rw [hume, hme]
        rfl) (by rw [hnum, s.onCredit_myCore, s.onCredit_numOf]) ..
    have hmsg := State.messageIs_header (s := s) hme (by rw [s.onCredit_myCore, s.onCredit_numOf]) t s.me.replyh d pl fwd n
    rw [← hheader] at hmsg
    obtain ⟨hretires, hfme⟩ := State.retiresOn_modMe (s := s) (p := p) (g := fun sl => { sl with sends := sl.sends ++ [sent] }) (hpcur.trans hcur)
      (fun k hk => (hpslot k).trans (hslot k hk)) (hcyc.trans (hu.cycle.trans hcycle)) (by rw [hpme]) (by rw [hpme]) (by rw [hpme]) (by rw [hpme]) (by rw [hpme]) sc
    rw [← heq] at hretires hfme
    refine ⟨getLsbD_wset_bit (by decide) 1, _, exec_invp_sends hfence hpl hroute hrel hcredit hreply hkey hpair, _, p, hmsg, rfl, hsent, hretires, ?_, ?_⟩
    · rw [hfme, Slot.retired1_replyh, Slot.seq_replyh, hpme]
    · rw [hfme, hpme]
      exact ⟨Slot.seq_x .., Slot.seq_f .., Slot.seq_p .., Slot.seq_pend ..⟩
  case waits =>
    intro u
    have hwaits := State.waitsOn_waitFor (State.booksOnly_askBlock (c := c) (key := creditKey num) s) (.credit (creditKey num))
    obtain ⟨hinv, hinvp⟩ := exec_inv_waits (rd := rd) (sc := sc) hfence hpl hroute hrel hcredit hlost
    exact ⟨⟨_, hinv, hwaits⟩, _, hinvp, hwaits⟩
  case broken =>
    intro u h
    have hu := s.storageOnly_setEntry c i ((s.entry c i).mk' 1 (s.numOf c) t)
    have hb := u.storageOnly_setEntry c i ((u.entry c i).resolved (Resol.brk reason (origin.getD h) cause))
    exact ⟨_, exec_inv_broken hfence hpl hroute hfree, State.givesOn_giveX (hb.cur.trans hu.cur) (hb.cycle.trans hu.cycle) rd h sc⟩

end Sys2Proof.Machine

namespace Sys2Proof.Machine

/-! # A packet that is turned back changes no partition (R373) -/

/-- `t` has the partitions of `s`. -/
def State.sameParts (s t : State) : Prop := t.parts = s.parts

namespace State.sameParts
variable {s t u : State} {c i key : Nat} {r : Resol}

theorem books (h : s.sameParts t) (hb : t.booksOnly u) : s.sameParts u := hb.parts.trans h

theorem stores (h : s.sameParts t) (hb : t.storageOnly u) : s.sameParts u := by
  have hparts : u.parts = t.parts := by rw [hb]
  exact hparts.trans h

theorem ite {p : Prop} [Decidable p] (h : s.sameParts t) (h' : s.sameParts u) : s.sameParts (if p then t else u) := by
  split
  · exact h
  · exact h'

theorem foldl {α : Type} {f : State → α → State} (h : s.sameParts t) (hf : ∀ (u : State) a, s.sameParts u → s.sameParts (f u a)) (l : List α) :
    s.sameParts (l.foldl f t) := by
  induction l generalizing t with
  | nil => exact h
  | cons a l ih => exact ih (hf t a h)

theorem sendPacket (h : s.sameParts t) (a b : Nat) (y : Body) : s.sameParts (t.sendPacket a b y) := h.books (State.booksOnly_sendPacket ..)

theorem expEnd (h : s.sameParts t) (e : Option (Nat × Nat)) (reason : Nat) : s.sameParts (t.expEnd c e reason) := h.books (State.booksOnly_expEnd ..)

theorem setEntry (h : s.sameParts t) (e : HEntry) : s.sameParts (t.setEntry c i e) := h.stores (State.storageOnly_setEntry ..)

theorem modCore (h : s.sameParts t) (f : Core → Core) : s.sameParts (t.modCore c f) := h

theorem setCredit (h : s.sameParts t) (v : Credit) : s.sameParts (t.setCredit c key v) := h

theorem post (h : s.sameParts t) (i : Sys2Proof.Instr) (a : Arg) : s.sameParts (t.post i a) := h

theorem hold (h : s.sameParts t) (x : Held) : s.sameParts (t.hold c x) := h

theorem freeCell (h : s.sameParts t) (n : Nat) : s.sameParts (t.freeCell c n) := h

theorem freeCells (h : s.sameParts t) (l : List Nat) : s.sameParts (t.freeCells c l) := h.foldl (fun _ _ h => h.freeCell _) l

theorem creditBack (h : s.sameParts t) (m : Msg) : s.sameParts (t.creditBack c m) := h.ite (h.sendPacket ..)

theorem freePlace (h : s.sameParts t) (m : Msg) : s.sameParts (t.freePlace c m) := creditBack (show s.sameParts (t.modCluster _ _) from h) m

theorem freeRecv (h : s.sameParts t) (e : HEntry) : s.sameParts (t.freeRecv c e) :=
  h.foldl (fun _ _ h => stores (show s.sameParts (State.modCore _ _ _) from h) (State.storageOnly_setPair ..)) _

theorem freeEntry (h : s.sameParts t) : s.sameParts (t.freeEntry c i) := by
  unfold State.freeEntry
  refine foldl (setEntry ?_ _) (fun _ _ h => ((h.freePlace _).expEnd _ _).hold _) _
  exact ite (foldl ((h.modCore _).freeRecv _) (fun _ _ h => h.freeCell _) _) ((h.modCore _).freeRecv _)

theorem dropPromise (h : s.sameParts t) : s.sameParts (t.dropPromise c i) := by
  have hfreed := h.freeEntry (c := c) (i := i)
  refine ite (h.setEntry _) (ite (sendPacket (ite hfreed (hfreed.sendPacket ..)) ..) (ite hfreed (hfreed.sendPacket ..)))

theorem forwardCell (h : s.sameParts t) (n : Nat) (m : Msg) (dst : Nat) : s.sameParts (t.forwardCell c n m dst) := by
  unfold State.forwardCell
  split
  next v hv =>
    split at hv
    · exact nomatch hv
    · have hspent : s.sameParts v := h.books (State.booksOnly_spend hv)
      exact (hspent.freeCell n).sendPacket ..
  · exact hold (books (h.modCore _) (State.booksOnly_askBlock _)) _

theorem moveAnswer (h : s.sameParts t) (dst f : Nat) (reply : Word) : s.sameParts (t.moveAnswer c dst f reply) := by
  induction f generalizing t reply with
  | zero => exact h
  | succ f ih =>
    refine h.ite ?_
    split
    · exact h
    · exact h.ite ((h.setEntry _).foldl (fun _ _ h => ih (h.forwardCell ..) _) _)

theorem sendNotice (h : s.sameParts t) (key : Word) (dst : Nat) (r : Resol) (hop loc : Nat) : s.sameParts (t.sendNotice c key dst r hop loc) :=
  (h.hold _).ite (h.sendPacket ..)

theorem sendNotices (h : s.sameParts t) (key : Word) (r : Resol) (loc : Nat) : s.sameParts (t.sendNotices c key r loc) :=
  ((h.sendNotice ..).sendNotice ..).ite (h.sendNotice ..)

theorem closeGap (h : s.sameParts t) {n m g f i : Nat} : s.sameParts (t.closeGap c n m g f i) := by
  induction f generalizing t g i with
  | zero => exact h
  | succ f ih =>
    unfold State.closeGap
    split
    · exact h
    · exact h.ite ((ih h).ite (ih ((h.stores (State.storageOnly_setPair ..)).stores (State.storageOnly_setPair ..))))

theorem freeSend (h : s.sameParts t) (target : Word) : s.sameParts (t.freeSend c target) := by
  unfold State.freeSend
  split
  · exact h
  · exact h.ite (closeGap (h.stores (State.storageOnly_setPair ..)))

theorem freeStale (h : s.sameParts t) (r : Resol) : s.sameParts (t.freeStale c r) := by
  unfold State.freeStale
  split
  · exact (h.freeSend _).ite h
  · exact h

theorem tellStale (h : s.sameParts t) (r : Resol) : s.sameParts (t.tellStale c r) := by
  unfold State.tellStale
  split
  · exact (h.freeStale _).ite (h.sendPacket ..)
  · exact h

/-- What the three functions that resolve entries in a chain keep, at one depth of the chain. -/
def inChain (s : State) (fuel : Nat) : Prop :=
  (∀ c i r tell src (t : State), s.sameParts t → s.sameParts (t.resolveEntry c fuel i r tell src)) ∧
  (∀ c l r src (t : State), s.sameParts t → s.sameParts (t.breakAll c fuel l r src)) ∧
  ∀ c l h r src (t : State), s.sameParts t → s.sameParts (t.fireAll c fuel l h r src)

theorem resolveEntry_succ {fuel : Nat} (hf : inChain s fuel) (h : s.sameParts t) (tell : Bool) (src : Nat) : s.sameParts (t.resolveEntry c (fuel + 1) i r tell src) := by
  obtain ⟨-, hbreak, hfire⟩ := hf
  have hwritten {q : Prop} [Decidable q] {e e' : HEntry} {l : List Nat} {f : Core → Core} :
      s.sameParts (if q then (t.setEntry c i e).modCore c f else (t.freeCells c l).setEntry c i e') := ((h.setEntry _).modCore f).ite ((h.freeCells _).setEntry _)
  have hdropped {q : Prop} [Decidable q] {v : State} (h : s.sameParts v) : s.sameParts (if q then v.dropPromise c i else v) := h.dropPromise.ite h
  have htold {q q' q'' : Prop} [Decidable q] [Decidable q'] [Decidable q''] {key key' : Word} {dst hop loc loc' : Nat} {r' : Resol} {v : State} (h : s.sameParts v) :
      s.sameParts (if q then v else if q' then v.sendNotice c key dst r hop loc else if q'' then v else v.sendNotices c key' r' loc') :=
    h.ite ((h.sendNotice ..).ite (h.ite (h.sendNotices ..)))
  have hfired {q : Prop} [Decidable q] {l : List Watcher} {key : Word} {r : Resol} {v : State} (h : s.sameParts v) :
      s.sameParts (if q then v else v.fireAll c fuel l key r src) := h.ite (hfire _ _ _ _ _ _ h)
  rw [State.resolveEntry]
  refine hdropped (htold (hfired (ite (hbreak _ _ _ _ _ (foldl (freeCells hwritten _) (fun _ _ h => h.expEnd ..) _)) (hwritten.foldl (fun _ _ h => ?_) _))))
  exact ite ((h.forwardCell ..).moveAnswer ..) (h.forwardCell ..)

theorem breakAll_succ {fuel : Nat} (hf : inChain s fuel) (h : s.sameParts t) (l : List Word) (src : Nat) : s.sameParts (t.breakAll c (fuel + 1) l r src) := by
  rw [State.breakAll_succ]
  refine h.foldl (fun _ _ h => h.ite ?_) _
  split
  · exact h
  · exact ite (hf.1 _ _ _ _ _ _ h) h

theorem fireAll_succ {fuel : Nat} (hf : inChain s fuel) (h : s.sameParts t) (l : List Watcher) (key : Word) (src : Nat) :
    s.sameParts (t.fireAll c (fuel + 1) l key r src) := by
  rw [State.fireAll]
  refine h.foldl (fun _ _ h => ite ?_ (h.sendPacket ..)) _
  split
  · exact h.books (State.booksOnly_fireWhen ..)
  · exact ite (hf.1 _ _ _ _ _ _ h) h

theorem inChain_all (s : State) (fuel : Nat) : inChain s fuel := by
  induction fuel with
  | zero =>
    exact ⟨fun _ _ _ _ _ _ h => by rwa [State.resolveEntry], fun c l r src t h => (rfl : t.breakAll c 0 l r src = t) ▸ h, fun _ _ _ _ _ _ h => by rwa [State.fireAll]⟩
  | succ fuel ih =>
    exact ⟨fun _ _ _ _ _ _ h => resolveEntry_succ ih h .., fun _ _ _ _ _ h => breakAll_succ ih h .., fun _ _ _ _ _ _ h => fireAll_succ ih h ..⟩

theorem resolveEntry (h : s.sameParts t) (fuel : Nat) (tell : Bool) (src : Nat) : s.sameParts (t.resolveEntry c fuel i r tell src) :=
  (inChain_all s fuel).1 _ _ _ _ _ _ h

theorem fireAll (h : s.sameParts t) (fuel : Nat) (l : List Watcher) (key : Word) (src : Nat) : s.sameParts (t.fireAll c fuel l key r src) :=
  (inChain_all s fuel).2.2 _ _ _ _ _ _ h

theorem recheck (h : s.sameParts t) (key : Word) : s.sameParts (t.recheck c key) :=
  (h.modCore _).foldl (fun _ _ h => sendPacket (show s.sameParts (State.modCluster _ _ _) from h) ..) _

theorem breakReply (h : s.sameParts t) {reply : Word} {loc : Nat} (hu : t.breakReply c reply loc r = some u) : s.sameParts u := by
  unfold State.breakReply at hu
  split at hu
  · cases hu
    exact h.tellStale _
  · split at hu
    · cases hu
      exact tellStale (ite (h.resolveEntry ..) h) _
    · obtain ⟨i, -, rfl⟩ := Option.map_eq_some_iff.1 hu
      exact freeStale (sendNotices (recheck (h.setEntry _) _) ..) _

theorem tableNotice (h : s.sameParts t) (table : Nat) (a b : Word) : s.sameParts (t.tableNotice c table a b) := by
  refine ite ?_ h
  unfold State.tellHandler
  exact ite (show s.sameParts (State.record _ _ _ _ _) from h) (sendPacket (h.modCore _) ..)

theorem breakOrHold (h : s.sameParts t) (target reply : Word) (loc : Nat) (r : Resol) : s.sameParts (t.breakOrHold c target reply loc r) := by
  unfold State.breakOrHold
  split
  next hu => exact h.breakReply hu
  · exact hold (h.tableNotice ..) _

theorem lostRecord (h : s.sameParts t) (kind dst : Nat) (a b : Word) : s.sameParts (t.lostRecord kind dst a b) := h

theorem nacked (h : s.sameParts t) (reason : Nat) (p : Packet) : s.sameParts (t.nacked reason p) := by
  unfold State.nacked
  split
  · next m _ =>
    split
    · exact h
    · have hback {q : Nat} {v : Credit} {x : Sys2Proof.Instr} {y : Arg} : s.sameParts (((t.setCredit q (creditKey p.dst) v).post x y).expEnd q m.expansion reason) :=
        ((h.setCredit _).post ..).expEnd ..
      exact ite (hback.lostRecord ..) (hback.breakOrHold ..)
  · exact h.fireAll ..
  · refine foldl (modCore (foldl (ite ?_ ?_) (fun _ _ h => ite ?_ h) _) _) (fun v x h => ?_) _
    · exact h
    · exact h
    · exact h
    · split
      · exact ((h.freeCell _).expEnd ..).breakOrHold ..
      · exact h
  all_goals exact h

theorem nackPacket (h : s.sameParts t) (p : Packet) : s.sameParts (t.nackPacket p) := by
  unfold State.nackPacket
  split
  · exact h.nacked ..
  · split
    · exact h.ite h
    · exact h

theorem turnBack (h : s.sameParts t) (p : Packet) : s.sameParts (t.turnBack p) := h.ite ((h.nackPacket p).ite (h.nacked ..))

theorem fence (s : State) (p : Nat) : s.sameParts (s.fence p) := foldl (t := { s with net := _ }) rfl (fun _ _ h => h.turnBack _) _

end State.sameParts

end Sys2Proof.Machine

namespace Sys2Proof.Machine

/-! # A scratchpad that is cleared (R371, R394) -/

section keys
variable {α : Type}

/-- What a list reads as once the keys that fail `p` are gone. -/
theorem look_filter_keys (d : α) (p : Nat → Bool) (m : SMap α) (j : Nat) : look d (m.filter fun e => p e.1) j = if p j = true then look d m j else d := by
  induction m with
  | nil => exact (ite_self _).symm
  | cons e m ih =>
    obtain ⟨k, v⟩ := e
    rw [List.filter_cons]
    by_cases hkj : k = j
    · subst hkj
      cases hp : p k with
      | true => rw [if_pos rfl, look, if_pos rfl, if_pos rfl, look, if_pos rfl]
      | false => simpa [hp] using ih
    · cases hp : p k with
      | true => simpa [hp, look, hkj] using ih
      | false => simpa [hp, look, hkj] using ih

theorem look_filter_false {p : Nat → Bool} {m : SMap Bool} {j : Nat} (h : look false m j = false) : look false (m.filter fun e => p e.1) j = false := by
  rw [look_filter_keys, h]
  exact ite_self _

end keys

/-- Every byte of a cluster's scratchpad is zero, with neither poison nor full bits. -/
def State.sramClear (s : State) (cl : Nat) : Prop :=
  ∀ a, sramKey cl 0 ≤ a → a < sramKey cl 0x100000 → s.byteAt a = 0 ∧ s.poisonAt a = false ∧ s.fullAt a = false

section clear
variable {s : State} {cl : Nat}

theorem State.sramClear_clearSram (cl : Nat) (s : State) : (s.clearSram cl 0 0x100000).sramClear cl := by
  intro a hlo hhi
  unfold sramKey at hlo hhi
  refine ⟨?_, ?_, ?_⟩
  · refine (Memory.get_drop ..).trans (if_pos ?_)
    unfold sramKey
    omega
  · refine (look_filter_keys _ (fun n => !(decide (sramKey cl 0 / 64 ≤ n) && decide (n < (sramKey cl 0 + 0x100000) / 64))) s.poison _).trans (if_neg ?_)
    unfold sramKey
    simp only [Bool.not_eq_true', Bool.and_eq_false_iff, decide_eq_false_iff_not]
    omega
  · refine (look_filter_keys _ (fun n => !(decide (sramKey cl 0 / 8 ≤ n) && decide (n < (sramKey cl 0 + 0x100000) / 8))) s.full _).trans (if_neg ?_)
    unfold sramKey
    simp only [Bool.not_eq_true', Bool.and_eq_false_iff, decide_eq_false_iff_not]
    omega

theorem State.sramClear.clearSram (h : s.sramClear cl) (k off n : Nat) : (s.clearSram k off n).sramClear cl := by
  intro a hlo hhi
  obtain ⟨hbyte, hpoison, hfull⟩ := h a hlo hhi
  refine ⟨?_, look_filter_false (p := fun e => !(decide (_ ≤ e) && decide (e < _))) hpoison, look_filter_false (p := fun e => !(decide (_ ≤ e) && decide (e < _))) hfull⟩
  refine (Memory.get_drop ..).trans ?_
  split
  · rfl
  · exact hbyte

theorem State.sramClear.flushL1 (h : s.sramClear cl) (k : Nat) : (s.flushL1 k).sramClear cl := by
  unfold State.flushL1
  split
  · exact h
  · intro a hlo hhi
    obtain ⟨hbyte, hpoison, hfull⟩ := h a hlo hhi
    refine ⟨?_, look_filter_false (p := fun e => decide (e * 64 / 2 ^ 40 ≠ l1Key k 0 / 2 ^ 40)) hpoison, hfull⟩
    refine (Memory.get_drop ..).trans ?_
    split
    · rfl
    · exact hbyte

/-- Invalidating an L1 changes nothing but what it held. -/
theorem State.cluster_flushL1 (k j : Nat) (s : State) : (s.flushL1 k).cluster j = if j = k then { s.cluster k with l1 := [] } else s.cluster j := by
  unfold State.flushL1
  split
  next h =>
    split
    next hj =>
      have hnil : (s.cluster k).l1 = [] := List.isEmpty_iff.1 h
      rw [hj, ← hnil]
    · rfl
  · exact look_put ..

theorem State.flushL1_eq (k : Nat) (s : State) : s.flushL1 k = { s with clusters := (s.flushL1 k).clusters, mem := (s.flushL1 k).mem, poison := (s.flushL1 k).poison } := by
  unfold State.flushL1
  split <;> rfl

end clear

/-! # The completing step of a containment reset (R373) -/

/-- What the reset leaves of a cluster. -/
structure State.cleared (s : State) (cl : Nat) : Prop where
  cluster : s.cluster cl = { Cluster.reset with wq := (s.cluster cl).wq }
  sram : s.sramClear cl
  cores : ∀ i, i < 8 → ∃ q, s.core (cl * 8 + i) = { Core.reset with quar := q }
  engine : cl = cornerOf (sectorOf cl) → (s.sector (sectorOf cl)).bias = [] ∧ (s.sector (sectorOf cl)).gen = 0 ∧ (s.sector (sectorOf cl)).frozen = false

/-- Core `i` of a cluster at its reset values, but for a quarantine whose self-test fails (R379). -/
def State.resetOne (cl : Nat) (s : State) (i : Nat) : State :=
  { s.setCore (cl * 8 + i) { Core.reset with quar := (s.core (cl * 8 + i)).quar && !Config.selfTest s.fresh (cl * 8 + i) } with fresh := s.fresh + 1 }

section cores
variable {cl : Nat}

theorem State.core_resetOne (s : State) (i c : Nat) : (s.resetOne cl i).core c =
    if c = cl * 8 + i then { Core.reset with quar := (s.core (cl * 8 + i)).quar && !Config.selfTest s.fresh (cl * 8 + i) } else s.core c := look_put ..

/-- A core is at its reset values, but for its quarantine. -/
def Core.blank (k : Core) : Prop := ∃ q, k = { Core.reset with quar := q }

theorem State.resetCores_spec (l : List Nat) (s : State) : let t := l.foldl (State.resetOne cl) s
    t = { s with cores := t.cores, fresh := t.fresh } ∧
    ∀ c, ((t.core c).quar = true → (s.core c).quar = true) ∧ ((s.core c).blank ∨ c ∈ l.map (cl * 8 + ·) → (t.core c).blank) := by
  induction l generalizing s with
  | nil => exact ⟨rfl, fun c => ⟨id, fun h => h.resolve_right (List.not_mem_nil)⟩⟩
  | cons i l ih =>
    obtain ⟨heq, hcore⟩ := ih (s.resetOne cl i)
    refine ⟨heq.trans rfl, fun c => ?_⟩
    obtain ⟨hquar, hblank⟩ := hcore c
    rw [State.core_resetOne] at hquar hblank
    refine ⟨fun h => ?_, fun h => hblank ?_⟩
    · have hq := hquar h
      split at hq
      next hc =>
        rw [hc]
        exact (Bool.and_eq_true_iff.1 hq).1
      · exact hq
    · split
      · exact .inl ⟨_, rfl⟩
      next hc =>
        rcases h with h | h
        · exact .inl h
        · exact .inr ((List.mem_cons.1 h).resolve_left hc)

end cores

section cluster
variable {s : State} {cl : Nat}

/-- A cluster without its contents, before its engine and its cores are cleared. -/
def State.emptied (cl : Nat) (s : State) : State := ((s.flushL1 cl).clearSram cl 0 0x100000).setCluster cl { Cluster.reset with wq := (s.cluster cl).wq }

theorem State.cluster_emptied (cl j : Nat) (s : State) :
    (s.emptied cl).cluster j = if j = cl then { Cluster.reset with wq := (s.cluster cl).wq } else s.cluster j := by
  refine (look_put ..).trans ?_
  split
  · rfl
  next hj => exact (s.cluster_flushL1 cl j).trans (if_neg hj)

theorem State.emptied_eq (cl : Nat) (s : State) : s.emptied cl = { s with
    clusters := (s.emptied cl).clusters, mem := (s.emptied cl).mem, poison := (s.emptied cl).poison, full := (s.emptied cl).full } := by
  unfold State.emptied
  rw [State.flushL1_eq]
  rfl

theorem State.sramClear_emptied (cl : Nat) (s : State) : (s.emptied cl).sramClear cl := State.sramClear_clearSram cl (s.flushL1 cl)

theorem State.sramClear.emptied (h : s.sramClear cl) (b : Nat) : (s.emptied b).sramClear cl := (h.flushL1 b).clearSram b 0 0x100000

theorem State.clearEngine_eq (cl : Nat) (s : State) : s.clearEngine cl = { s with sectors := (s.clearEngine cl).sectors, work := (s.clearEngine cl).work } := by
  unfold State.clearEngine
  dsimp only
  split <;> rfl

theorem State.sector_clearEngine (cl n : Nat) (s : State) : (s.clearEngine cl).sector n =
    if n = sectorOf cl ∧ cl = cornerOf (sectorOf cl) then { s.sector n with bias := [], gen := 0, frozen := false } else s.sector n := by
  unfold State.clearEngine
  dsimp only
  split
  next hcorner =>
    refine (look_put ..).trans ?_
    by_cases hn : n = sectorOf cl
    · rw [if_pos hn, if_pos ⟨hn, hcorner⟩, hn]
    · rw [if_neg hn, if_neg (fun h => hn h.1)]
      rfl
  next hcorner => rw [if_neg (fun h => hcorner h.2)]

/-- `t` is `s` but for what the clearing of clusters may change. -/
def State.contentsOnly (s t : State) : Prop :=
  t = { s with clusters := t.clusters, mem := t.mem, poison := t.poison, full := t.full, sectors := t.sectors, work := t.work, cores := t.cores, fresh := t.fresh }

theorem State.contentsOnly.trans {s t u : State} (h : s.contentsOnly t) (h' : t.contentsOnly u) : s.contentsOnly u := by
  unfold State.contentsOnly at *
  rw [h', h]

/-- What a cleared cluster's step does to the rest: all but contents, cores and engines of other clusters stays. -/
theorem State.clearCluster_spec (cl : Nat) (s : State) : let t := s.clearCluster cl
    s.contentsOnly t ∧
    (∀ j, t.cluster j = if j = cl then { Cluster.reset with wq := (s.cluster cl).wq } else s.cluster j) ∧
    (∀ b, t.sramClear b ↔ (s.emptied cl).sramClear b) ∧
    (∀ n, t.sector n = if n = sectorOf cl ∧ cl = cornerOf (sectorOf cl) then { s.sector n with bias := [], gen := 0, frozen := false } else s.sector n) ∧
    ∀ c, ((t.core c).quar = true → (s.core c).quar = true) ∧ ((s.core c).blank ∨ c ∈ (List.range 8).map (cl * 8 + ·) → (t.core c).blank) := by
  intro t
  obtain ⟨heq, hcores⟩ := State.resetCores_spec (cl := cl) (List.range 8) ((s.emptied cl).clearEngine cl)
  have hengine := (s.emptied cl).clearEngine_eq cl
  have hempty := s.emptied_eq cl
  have ht : t = { (s.emptied cl).clearEngine cl with cores := t.cores, fresh := t.fresh } := heq
  have hcore (c : Nat) : ((s.emptied cl).clearEngine cl).core c = s.core c := by
    unfold State.core
    rw [hengine, hempty]
  refine ⟨?_, fun j => ?_, fun b => ?_, fun n => ?_, fun c => ?_⟩
  · unfold State.contentsOnly
    rw [ht, hengine, hempty]
  · rw [← State.cluster_emptied]
    unfold State.cluster
    rw [ht, hengine]
  · unfold State.sramClear State.byteAt State.poisonAt State.fullAt
    rw [ht, hengine]
  · have hsector : (s.emptied cl).sector n = s.sector n := by
      unfold State.sector
      rw [hempty]
    rw [← hsector, ← State.sector_clearEngine]
    unfold State.sector
    rw [ht]
  · rw [← hcore c]
    exact hcores c

theorem State.cleared_clearCluster (cl : Nat) (s : State) : (s.clearCluster cl).cleared cl := by
  obtain ⟨-, hcluster, hsram, hsector, hcore⟩ := s.clearCluster_spec cl
  refine ⟨?_, (hsram cl).2 (s.sramClear_emptied cl), fun i hi => ?_, fun hcorner => ?_⟩
  · rw [hcluster, if_pos rfl]
  · exact (hcore _).2 (.inr (List.mem_map_of_mem (List.mem_range.2 hi)))
  · rw [hsector, if_pos ⟨rfl, hcorner⟩]
    exact ⟨rfl, rfl, rfl⟩

theorem State.cleared.clearCluster (h : s.cleared cl) (b : Nat) : (s.clearCluster b).cleared cl := by
  obtain ⟨hcluster, hsram, hsector, hcore⟩ := (s.clearCluster_spec b).2
  refine ⟨?_, (hsram cl).2 (h.sram.emptied b), fun i hi => (hcore _).2 (.inl (h.cores i hi)), fun hcorner => ?_⟩
  · rw [hcluster]
    split
    · rfl
    · exact h.cluster
  · have hengine := h.engine hcorner
    rw [hsector]
    split
    · exact ⟨rfl, rfl, rfl⟩
    · exact hengine

/-- A list of clusters cleared: each of them, with its window port's stores as they were, and no quarantine added. -/
theorem State.clearClusters_spec (l : List Nat) (s : State) : let t := l.foldl (fun s cl => s.clearCluster cl) s
    s.contentsOnly t ∧
    (∀ cl, s.cleared cl ∨ cl ∈ l → t.cleared cl) ∧ (∀ j, (t.cluster j).wq = (s.cluster j).wq) ∧ ∀ c, (t.core c).quar = true → (s.core c).quar = true := by
  induction l generalizing s with
  | nil => exact ⟨rfl, fun cl h => h.resolve_right List.not_mem_nil, fun _ => rfl, fun _ => id⟩
  | cons b l ih =>
    obtain ⟨heq, hcleared, hwq, hquar⟩ := ih (s.clearCluster b)
    obtain ⟨hb, hcluster, -, -, hcore⟩ := s.clearCluster_spec b
    refine ⟨hb.trans heq, fun cl h => hcleared cl ?_, fun j => (hwq j).trans ?_, fun c h => (hcore c).1 (hquar c h)⟩
    · rcases h with h | h
      · exact .inl (h.clearCluster b)
      · rcases List.mem_cons.1 h with rfl | h
        · exact .inl (s.cleared_clearCluster cl)
        · exact .inr h
    · rw [hcluster]
      split
      next hj => rw [hj]
      · rfl

end cluster

section complete
variable {s : State}

theorem State.fence_of_nil (h : s.net = []) (p : Nat) : s.fence p = s := by
  unfold State.fence
  dsimp only
  rw [h, List.filter_nil, List.filter_nil, List.foldl_nil, ← h]

/-- A slot of the partition's rectangle stops; any other stays. -/
theorem State.slot_stopSlots (p k : Nat) (s : State) :
    (s.stopSlots p).slot k = if isSup (coreOf k) = false ∧ (s.part p).owns (clusterOf (coreOf k)) = true then Slot.reset else s.slot k := by
  refine (look_filter_keys _ (fun n => !(!isSup (coreOf n) && (s.part p).owns (clusterOf (coreOf n)))) s.slots k).trans ?_
  cases hsup : isSup (coreOf k) <;> cases howns : (s.part p).owns (clusterOf (coreOf k)) <;> rfl

/-- What the completing step of a reset clears, and then says. -/
def State.resetCleared (s : State) (p : Nat) : State := (s.part p).clusters.foldl (fun s cl => s.clearCluster cl) ((s.fence p).stopSlots p)

/-- The end of partition `p`'s reset, of `n` clusters, is said. -/
def State.resetDone (p n : Nat) (s : State) : State :=
  ((s.modPart p fun d => { d with st := 0 }).modChip fun c => { c with rstBusy := false }).record 0xD0 p (w64 n) 0

theorem State.part_resetDone (p n : Nat) (s : State) : ((s.resetDone p n).part p).st = 0 := congrArg Part.st (look_put_same Part.reset p _ s.parts)

theorem exec_containmentResetComplete (h : (s.part s.arg.a).st = 3) :
    exec .containmentResetComplete s = .next ((s.resetCleared s.arg.a).resetDone s.arg.a (s.part s.arg.a).clusters.length) :=
  congrArg Host.Outcome.next (if_neg (not_not_intro h))

theorem cornerOf_lt {n : Nat} (hn : n < 16) : cornerOf n < 256 := by
  unfold cornerOf
  omega

theorem sectorOf_cornerOf (n : Nat) : sectorOf (cornerOf n) = n := by
  unfold sectorOf cornerOf
  omega

theorem Part.mem_clusters {d : Part} {cl : Nat} : cl ∈ d.clusters ↔ cl < 256 ∧ d.owns cl = true := by
  unfold Part.clusters
  rw [List.mem_filter, List.mem_range]

theorem containmentResetCompletes (s : State) : let p := s.arg.a; let d := s.part p
    (d.st ≠ 3 → exec .containmentResetComplete s = .next s) ∧
    (d.st = 3 → s.gives .containmentResetComplete fun t => (t.part p).st = 0 ∧ t.chip.rstBusy = false ∧ (∃ l, t.records = l ++ [⟨0xD0, BitVec.ofNat 48 p, BitVec.ofNat 64 d.clusters.length, 0⟩]) ∧
      (∀ n, n < 16 → d.owns (cornerOf n) = true → (t.sector n).bias = [] ∧ (t.sector n).gen = 0 ∧ (t.sector n).frozen = false) ∧
      (∀ k, isSup (coreOf k) = false → d.owns (clusterOf (coreOf k)) = true → t.slot k = Slot.reset) ∧
      ∀ cl, cl < 256 → d.owns cl = true → t.cluster cl = { Cluster.reset with wq := (t.cluster cl).wq } ∧ (s.net = [] → (t.cluster cl).wq = (s.cluster cl).wq) ∧ (∀ a, sramKey cl 0 ≤ a → a < sramKey cl 0x100000 → t.byteAt a = 0 ∧ t.poisonAt a = false ∧ t.fullAt a = false) ∧
        ∀ i, i < 8 → (∃ q, t.core (cl * 8 + i) = { Core.reset with quar := q }) ∧ (s.net = [] → (t.core (cl * 8 + i)).quar = true → (s.core (cl * 8 + i)).quar = true)) := by
  intro p d
  refine ⟨fun h => congrArg Host.Outcome.next (if_pos h), fun h => ⟨_, exec_containmentResetComplete h, ?_⟩⟩
  obtain ⟨heq, hcleared, hwq, hquar⟩ := State.clearClusters_spec d.clusters ((s.fence p).stopSlots p)
  rw [show d.clusters.foldl (fun s cl => s.clearCluster cl) ((s.fence p).stopSlots p) = s.resetCleared p from rfl] at heq hcleared hwq hquar
  have hslots : (s.resetCleared p).slots = ((s.fence p).stopSlots p).slots := by rw [heq]
  generalize s.resetCleared p = v at hcleared hwq hquar hslots
  have hpart : (s.fence p).part p = d := congrArg (look Part.reset · p) (State.sameParts.fence s p)
  refine ⟨v.part_resetDone p _, rfl, ⟨_, rfl⟩, fun n hn howns => ?_, fun k hsup howns => ?_, fun cl hlt howns => ?_⟩
  · have hengine := (hcleared (cornerOf n) (.inr (Part.mem_clusters.2 ⟨cornerOf_lt hn, howns⟩))).engine
    rw [sectorOf_cornerOf] at hengine
    exact hengine rfl
  · have hslot : v.slot k = ((s.fence p).stopSlots p).slot k := congrArg (look Slot.reset · k) hslots
    have hstopped := State.slot_stopSlots p k (s.fence p)
    rw [hpart, if_pos ⟨hsup, howns⟩] at hstopped
    exact hslot.trans hstopped
  · have hc := hcleared cl (.inr (Part.mem_clusters.2 ⟨hlt, howns⟩))
    have hnet (h : s.net = []) : (s.fence p).stopSlots p = s.stopSlots p := by rw [State.fence_of_nil h]
    refine ⟨hc.cluster, fun h => ?_, hc.sram, fun i hi => ⟨hc.cores i hi, fun h hq => ?_⟩⟩
    · have hw := hwq cl
      rw [hnet h] at hw
      exact hw
    · have hkept := hquar _ hq
      rw [hnet h] at hkept
      exact hkept

end complete

end Sys2Proof.Machine

namespace Sys2Proof.Machine

/-! # The power states of a cluster (R394) -/

section power
variable {s : State} {cl : Nat}

theorem State.clusterBusy_iff (s : State) (cl : Nat) : s.clusterBusy cl = true ↔
    (∃ i, i < 64 ∧ (s.slot (cl * 64 + i)).active = true) ∨
    (∃ i, i < 8 ∧ ((s.core (cl * 8 + i)).xq ≠ [] ∨ (s.core (cl * 8 + i)).mq ≠ [] ∨ (s.core (cl * 8 + i)).epi.running.isSome = true)) ∨
    (s.cluster cl).pending ≠ [] ∨ (s.cluster cl).engine0.cmd.isSome = true ∨ (s.cluster cl).engine1.cmd.isSome = true ∨ (s.cluster cl).array.isSome = true := by
  unfold State.clusterBusy
  simp only [Bool.or_eq_true, List.any_eq_true, List.mem_range, Bool.not_eq_true', List.isEmpty_eq_false_iff, or_assoc]

/-- The cores of a powered-down cluster. -/
def State.coldCores (cl : Nat) (q : List Bool) (l : List Nat) (s : State) : State :=
  l.foldl (fun (s : State) i => s.setCore (cl * 8 + i) { Core.reset with quar := q.getD i false }) s

theorem State.coldCores_spec (q : List Bool) (l : List Nat) (s : State) : let t := s.coldCores cl q l
    t = { s with cores := t.cores } ∧ ∀ i, i ∈ l ∨ s.core (cl * 8 + i) = { Core.reset with quar := q.getD i false } →
      t.core (cl * 8 + i) = { Core.reset with quar := q.getD i false } := by
  induction l generalizing s with
  | nil => exact ⟨rfl, fun i h => h.resolve_left List.not_mem_nil⟩
  | cons j l ih =>
    obtain ⟨heq, hcore⟩ := ih (s.setCore (cl * 8 + j) { Core.reset with quar := q.getD j false })
    refine ⟨heq.trans rfl, fun i h => hcore i ?_⟩
    by_cases hij : i = j
    · subst hij
      exact .inr (look_put_same ..)
    · refine (h.imp_left fun h => (List.mem_cons.1 h).resolve_left hij).imp_right fun h => ?_
      exact (look_put_other _ (by omega) ..).trans h

/-- Something may be admitted on the cores of a list. -/
def State.stirAll (cl : Nat) (l : List Nat) (s : State) : State := l.foldl (fun (s : State) i => s.stir (cl * 8 + i)) s

theorem State.quar_stir (c k : Nat) (s : State) : ((s.stir c).core k).quar = (s.core k).quar := by
  refine (congrArg Core.quar (look_put ..)).trans ?_
  split
  next hk => rw [hk]
  · rfl

theorem State.stirAll_spec (l : List Nat) (s : State) : s.booksOnly (s.stirAll cl l) ∧ ∀ k, ((s.stirAll cl l).core k).quar = (s.core k).quar := by
  induction l generalizing s with
  | nil => exact ⟨State.booksOnly.rfl, fun _ => rfl⟩
  | cons i l ih =>
    obtain ⟨hbooks, hquar⟩ := ih (s.stir (cl * 8 + i))
    exact ⟨(s.booksOnly_stir _).trans hbooks, fun k => (hquar k).trans (s.quar_stir ..)⟩

/-- A cluster whose SRAM and L1 are cleared, without the power change being said. -/
def State.scrubbed (cl : Nat) (s : State) : State := (s.flushL1 cl).clearSram cl 0 0x100000

/-- What a change of a cluster's power state does before it is said. -/
def State.repowered (s : State) (cl : Nat) : State :=
  if (s.cluster cl).req = 0 then s.powerDown cl else if (s.cluster cl).pstate = 0 then s.scrubbed cl else s

/-- The new power state is said, and the cluster's cores look for work. -/
def State.saysPower (cl : Nat) (s : State) : State := (s.modCluster cl fun k => { k with pstate := k.req, pbusy := false }).stirAll cl (List.range 8)

theorem exec_clusterPowerChangeComplete (hbusy : (s.cluster s.arg.a).pbusy = true) (h : ¬ ((s.cluster s.arg.a).req = 2 ∧ s.clusterBusy s.arg.a = true)) :
    exec .clusterPowerChangeComplete s = .next ((s.repowered s.arg.a).saysPower s.arg.a) := by
  refine congrArg Host.Outcome.next ((if_neg ?_).trans (if_neg h))
  rw [hbusy]
  nofun

theorem State.saysPower_spec (cl : Nat) (s : State) : let t := s.saysPower cl
    t.slots = s.slots ∧ t.mem = s.mem ∧ t.poison = s.poison ∧ t.full = s.full ∧
    (∀ j, t.cluster j = if j = cl then { s.cluster cl with pstate := (s.cluster cl).req, pbusy := false } else s.cluster j) ∧
    ∀ k, (t.core k).quar = (s.core k).quar := by
  obtain ⟨hbooks, hquar⟩ := State.stirAll_spec (cl := cl) (List.range 8) (s.modCluster cl fun k => { k with pstate := k.req, pbusy := false })
  refine ⟨hbooks.slots, hbooks.mem, hbooks.poison, hbooks.full, fun j => ?_, hquar⟩
  exact (congrArg (look Cluster.reset · j) hbooks.clusters).trans (look_put ..)

theorem State.cluster_scrubbed (cl j : Nat) (s : State) : (s.scrubbed cl).cluster j = if j = cl then { s.cluster cl with l1 := [] } else s.cluster j :=
  State.cluster_flushL1 cl j s

theorem State.sramClear_scrubbed (cl : Nat) (s : State) : (s.scrubbed cl).sramClear cl := State.sramClear_clearSram cl (s.flushL1 cl)

theorem State.slots_scrubbed (cl : Nat) (s : State) : (s.scrubbed cl).slots = s.slots := State.slots_flushL1 cl

/-- A cluster that is powered down, before its cores' registers go. -/
def State.unpowered (cl : Nat) (s : State) : State :=
  { s.scrubbed cl with slots := s.slots.filter fun e => !decide (e.1 / 64 = cl) }.setCluster cl
    { Cluster.reset with req := (s.cluster cl).req, pstate := 0, pbusy := (s.cluster cl).pbusy }

theorem State.slot_unpowered (cl j : Nat) (s : State) : (s.unpowered cl).slot j = if j / 64 = cl then Slot.reset else s.slot j := by
  refine (look_filter_keys _ (fun n => !decide (n / 64 = cl)) s.slots j).trans ?_
  by_cases h : j / 64 = cl
  · rw [if_pos h, if_neg (by simpa using h)]
  · rw [if_neg h, if_pos (by simpa using h)]
    rfl

theorem State.cluster_unpowered (cl j : Nat) (s : State) : (s.unpowered cl).cluster j =
    if j = cl then { Cluster.reset with req := (s.cluster cl).req, pstate := 0, pbusy := (s.cluster cl).pbusy } else s.cluster j := by
  refine (look_put ..).trans ?_
  split
  · rfl
  next h => exact (State.cluster_scrubbed ..).trans (if_neg h)

/-- The slots, the registers and the SRAM of a cluster that is off (log entry 30). -/
theorem State.powerDown_spec (cl : Nat) (s : State) : let t := s.powerDown cl
    t.sramClear cl ∧ (∀ j, t.slot j = if j / 64 = cl then Slot.reset else s.slot j) ∧
    (∀ j, t.cluster j = if j = cl then { Cluster.reset with req := (s.cluster cl).req, pstate := 0, pbusy := (s.cluster cl).pbusy } else s.cluster j) ∧
    ∀ i, i < 8 → (t.core (cl * 8 + i)).quar = (s.core (cl * 8 + i)).quar := by
  intro t
  have ht : t = (s.unpowered cl).coldCores cl ((List.range 8).map fun i => (s.core (cl * 8 + i)).quar) (List.range 8) := rfl
  have hsram : (s.unpowered cl).sramClear cl := s.sramClear_scrubbed cl
  have hslot (j : Nat) := s.slot_unpowered cl j
  have hcluster (j : Nat) := s.cluster_unpowered cl j
  generalize s.unpowered cl = v at ht hsram hslot hcluster
  obtain ⟨heq, hcore⟩ := State.coldCores_spec (cl := cl) ((List.range 8).map fun i => (s.core (cl * 8 + i)).quar) (List.range 8) v
  rw [← ht] at heq hcore
  refine ⟨?_, fun j => ?_, fun j => ?_, fun i hi => ?_⟩
  · rw [heq]
    exact hsram
  · rw [heq]
    exact hslot j
  · rw [heq]
    exact hcluster j
  · rw [hcore i (.inl (List.mem_range.2 hi))]
    simp [hi]

/-- A request is taken unless a change is under way, and starts one where it asks for another state. -/
theorem clusterPowerRequested (s : State) : let cl := s.arg.a; let k := s.cluster cl; let r : BitVec 2 := s.arg.v.setWidth 2
    (k.pbusy = true ∨ r = 3 → exec .clusterPowerRequest s = .next s) ∧
    (k.pbusy = false → r ≠ 3 → s.gives .clusterPowerRequest fun t => t = { s with clusters := t.clusters, work := if r = k.pstate then s.work else s.work ++ [⟨.clusterPowerChangeComplete, arg1 cl⟩] } ∧
      ∀ j, t.cluster j = if j ≠ cl then s.cluster j else if r = k.pstate then { k with req := r } else { k with req := r, pbusy := true }) := by
  intro cl k r
  refine ⟨fun h => congrArg Host.Outcome.next (if_pos h), fun hbusy hr => ?_⟩
  have hgo : ¬ (k.pbusy = true ∨ r = 3) := not_or.2 ⟨by rw [hbusy]; nofun, hr⟩
  have hread (x : Cluster) (j : Nat) : (s.setCluster cl x).cluster j = if j ≠ cl then s.cluster j else x := by
    rw [ite_not]
    exact look_put ..
  by_cases hsame : r = k.pstate
  · refine ⟨_, congrArg Host.Outcome.next ((if_neg hgo).trans (if_pos hsame)), ?_, fun j => ?_⟩
    · rw [if_pos hsame]
      rfl
    · rw [if_pos hsame]
      exact hread ..
  · refine ⟨_, congrArg Host.Outcome.next ((if_neg hgo).trans (if_neg hsame)), ?_, fun j => ?_⟩
    · rw [if_neg hsame]
      rfl
    · rw [if_neg hsame]
      exact hread ..

/-- A change of power state waits, or clears what the new state asks for and is said. -/
theorem clusterPowerChanges (s : State) : let cl := s.arg.a; let k := s.cluster cl
    (k.pbusy = false → exec .clusterPowerChangeComplete s = .next s) ∧
    (let outstanding := (∃ i, i < 64 ∧ (s.slot (cl * 64 + i)).active = true) ∨ (∃ i, i < 8 ∧ ((s.core (cl * 8 + i)).xq ≠ [] ∨ (s.core (cl * 8 + i)).mq ≠ [] ∨ (s.core (cl * 8 + i)).epi.running.isSome = true)) ∨
        k.pending ≠ [] ∨ k.engine0.cmd.isSome = true ∨ k.engine1.cmd.isSome = true ∨ k.array.isSome = true;
      (k.pbusy = true → k.req = 2 → outstanding → exec .clusterPowerChangeComplete s = .next { s with deferred := true }) ∧
      (k.pbusy = true → ¬ (k.req = 2 ∧ outstanding) → s.gives .clusterPowerChangeComplete fun t => (∀ j, j ≠ cl → t.cluster j = s.cluster j) ∧ (t.cluster cl).pstate = k.req ∧ (t.cluster cl).req = k.req ∧ (t.cluster cl).pbusy = false ∧
        let clears := k.req = 0 ∨ k.pstate = 0
        (clears → (∀ a, sramKey cl 0 ≤ a → a < sramKey cl 0x100000 → t.byteAt a = 0 ∧ t.poisonAt a = false ∧ t.fullAt a = false) ∧ (t.cluster cl).l1 = []) ∧ (¬ clears → t.mem = s.mem ∧ t.poison = s.poison ∧ t.full = s.full) ∧
        (k.req = 0 → (∀ j, t.slot j = if j / 64 = cl then Slot.reset else s.slot j) ∧ t.cluster cl = { Cluster.reset with req := 0, pstate := 0 } ∧ ∀ i, i < 8 → (t.core (cl * 8 + i)).quar = (s.core (cl * 8 + i)).quar) ∧
        (k.req ≠ 0 → t.slots = s.slots ∧ t.cluster cl = { k with l1 := (t.cluster cl).l1, pstate := k.req, pbusy := false }))) := by
  intro cl k
  refine ⟨fun hbusy => congrArg Host.Outcome.next (if_pos ?_), ?_⟩
  · rw [show (s.cluster s.arg.a).pbusy = false from hbusy]
    rfl
  intro outstanding
  have hout : s.clusterBusy cl = true ↔ outstanding := s.clusterBusy_iff cl
  refine ⟨fun hbusy hreq h => congrArg Host.Outcome.next ((if_neg ?_).trans (if_pos ⟨hreq, hout.2 h⟩)), fun hbusy h => ?_⟩
  · rw [show (s.cluster s.arg.a).pbusy = true from hbusy]
    nofun
  refine ⟨_, exec_clusterPowerChangeComplete hbusy (by rw [hout]; exact h), ?_⟩
  obtain ⟨hslots, hmem, hpoison, hfull, hcluster, hquar⟩ := (s.repowered cl).saysPower_spec cl
  have hsram (h : (s.repowered cl).sramClear cl) : ((s.repowered cl).saysPower cl).sramClear cl := by
    unfold State.sramClear State.byteAt State.poisonAt State.fullAt at h ⊢
    rw [hmem, hpoison, hfull]
    exact h
  have hsaid := (hcluster cl).trans (if_pos rfl)
  generalize (s.repowered cl).saysPower cl = t at hslots hmem hpoison hfull hcluster hquar hsram hsaid
  by_cases hreq : k.req = 0
  · have hdown : s.repowered cl = s.powerDown cl := if_pos hreq
    obtain ⟨hclear, hslot, hreset, hq⟩ := s.powerDown_spec cl
    rw [hdown] at hslots hcluster hquar hsram hsaid
    have hcl : t.cluster cl = { Cluster.reset with req := 0, pstate := 0 } := by
      rw [hsaid, hreset, if_pos rfl]
      show { Cluster.reset with req := k.req, pstate := k.req, pbusy := false } = _
      rw [hreq]
      rfl
    refine ⟨fun j hj => ?_, ?_, ?_, ?_, fun _ => ⟨hsram hclear, ?_⟩, fun hno => absurd (.inl hreq) hno, fun _ => ⟨fun j => ?_, hcl, fun i hi => ?_⟩, fun hno => absurd hreq hno⟩
    · rw [hcluster, if_neg hj, hreset, if_neg hj]
    · rw [hcl, hreq]
    · rw [hcl, hreq]
    · rw [hcl]
      rfl
    · rw [hcl]
      rfl
    · exact (congrArg (look Slot.reset · j) hslots).trans (hslot j)
    · rw [hquar, hq i hi]
  · by_cases hoff : k.pstate = 0
    · have hon : s.repowered cl = s.scrubbed cl := (if_neg hreq).trans (if_pos hoff)
      rw [hon] at hslots hcluster hquar hsram hsaid
      have hcl : t.cluster cl = { k with l1 := [], pstate := k.req, pbusy := false } := by
        rw [hsaid, State.cluster_scrubbed, if_pos rfl]
      refine ⟨fun j hj => ?_, ?_, ?_, ?_, fun _ => ⟨hsram (s.sramClear_scrubbed cl), ?_⟩, fun hno => absurd (.inr hoff) hno, fun h0 => absurd h0 hreq, fun _ => ⟨?_, ?_⟩⟩
      · rw [hcluster, if_neg hj, State.cluster_scrubbed, if_neg hj]
      · rw [hcl]
      · rw [hcl]
      · rw [hcl]
      · rw [hcl]
      · exact hslots.trans (s.slots_scrubbed cl)
      · rw [hcl]
    · have hsame : s.repowered cl = s := (if_neg hreq).trans (if_neg hoff)
      rw [hsame] at hslots hcluster hquar hsaid hmem hpoison hfull
      have hcl : t.cluster cl = { k with pstate := k.req, pbusy := false } := hsaid
      refine ⟨fun j hj => ?_, ?_, ?_, ?_, fun hyes => absurd hyes (not_or.2 ⟨hreq, hoff⟩), fun _ => ⟨hmem, hpoison, hfull⟩, fun h0 => absurd h0 hreq, fun _ => ⟨hslots, ?_⟩⟩
      · rw [hcluster, if_neg hj]
      · rw [hcl]
      · rw [hcl]
      · rw [hcl]
      · rw [hcl]

end power

end Sys2Proof.Machine

namespace Sys2Proof.Machine

/-! # What a containment reset breaks: pending answers and held commands (R54, R247) -/

section breaks
variable {s : State} {c i p : Nat}

/-- A pending answer entry of the rectangle breaks with RESET, its own key as origin. -/
theorem State.resetEntry_quiet (hq : (s.entry c i).quiet) (hrole : 2 ≤ (s.entry c i).role) (hmoved : (s.entry c i).moved = false)
    (hin : s.insideRect p (s.numOf c) = true) (hlocal : s.isLocalPromise c i = false) (hfw : s.forwarding c (s.entry c i).w2 = false) :
    s.resolvedAt c i (s.entry c i) (Resol.brk 8 (hWithKind (s.entry c i).w2 1) 0) false (s.resetEntry p c i) := by
  have hst := hq.1
  have hplace : ¬ ((s.entry c i).role = 1 ∨ (s.entry c i).moved = true) := not_or.2 ⟨by omega, by rw [hmoved]; nofun⟩
  have hbreaks : s.resetEntry p c i = s.resolveEntry c chainFuel i (Resol.brk rRESET (hWithKind (s.entry c i).w2 1) 0) true (s.numOf c) := by
    unfold State.resetEntry
    dsimp only
    rw [if_neg hplace, hin, if_neg (by rw [hst]; simp; omega), if_neg (by omega)]
  have hres := State.resolveEntry_quiet (r := Resol.brk rRESET (hWithKind (s.entry c i).w2 1) 0) hq hfw (fun hloc => absurd hloc (by rw [hlocal]; nofun)) (s.numOf c)
  rw [hlocal] at hres
  rw [hbreaks]
  exact hres

end breaks

section held
variable {s : State} (c : CopyCmd)

/-- A status other than success stands, whatever the completion does. -/
theorem State.completeModes_status (b : Option Nat) {st : BitVec 8} (h : st ≠ 0) (n : Nat) (s : State) : (s.completeModes c b st n).1 = st := by
  unfold State.completeModes
  dsimp only
  split
  · rfl
  · split
    · split
      · rfl
      · split
        · rfl
        · rfl
    · rfl

/-- The entry of command `c` in its core's status table. -/
def State.xstatOf (s : State) : XStat := look XStat.empty (s.core c.core).xstat (c.id.toNat % 64)

theorem State.xstatOf_setXstat (state : BitVec 3) (st : BitVec 8) (s : State) : (s.setXstat c state st).xstatOf c =
    ⟨true, c.id, state, st, BitVec.ofNat 32 (Nat.min c.failed 0xFFFFFFFF)⟩ := by
  unfold State.xstatOf State.setXstat
  rw [State.core_modCore_same]
  exact look_put_same ..

theorem State.xstat_stir (k : Nat) (s : State) (j : Nat) : ((s.stir k).core j).xstat = (s.core j).xstat := by
  refine (congrArg Core.xstat (look_put ..)).trans ?_
  split
  next hj => rw [hj]
  · rfl

theorem State.xstat_joinAnon (k : Nat) (it : QItem) (s : State) (j : Nat) : ((s.joinAnon k it).core j).xstat = (s.core j).xstat := by
  refine (State.xstat_stir ..).trans ((congrArg Core.xstat (look_put ..)).trans ?_)
  split
  next hj => rw [hj]
  · rfl

/-- A command that no engine holds completes with the status it is given, where that is not success. -/
theorem State.finishAway_xstat {st : BitVec 8} (h : st ≠ 0) (n : Nat) (s : State) :
    let x := (s.finishAway c st n).xstatOf c; x.used = true ∧ x.id = c.id ∧ x.status = st := by
  have hst := State.completeModes_status c none h n s
  unfold State.finishAway
  generalize s.completeModes c none st n = q at hst
  obtain ⟨st', v⟩ := q
  obtain rfl : st' = st := hst
  dsimp only
  have hset := State.xstatOf_setXstat c (c.stateNow st') st' v
  generalize v.setXstat c (c.stateNow st') st' = u at hset
  have hkept {w : State} (hw : (w.core c.core).xstat = (u.core c.core).xstat) : (w.xstatOf c).used = true ∧ (w.xstatOf c).id = c.id ∧ (w.xstatOf c).status = st' := by
    have hx : w.xstatOf c = u.xstatOf c := congrArg (look XStat.empty · _) hw
    rw [hx, hset]
    exact ⟨rfl, rfl, rfl⟩
  split
  · exact hkept rfl
  · split
    · unfold State.completeActivate
      exact hkept (State.xstat_joinAnon ..)
    · exact hkept rfl

/-- The same, told by the command's core and number. -/
theorem State.finishAway_names {k : Nat} {id : BitVec 16} (hcore : c.core = k) (hid : c.id = id) {st : BitVec 8} (h : st ≠ 0) (n : Nat) (s : State) :
    let x := look XStat.empty ((s.finishAway c st n).core k).xstat (id.toNat % 64); x.used = true ∧ x.id = id ∧ x.status = st := by
  subst hcore hid
  exact State.finishAway_xstat c h n s

theorem CopyCmd.failItem_keeps (n st : Nat) (c : CopyCmd) : (c.failItem n st).core = c.core ∧ (c.failItem n st).id = c.id := by
  unfold CopyCmd.failItem
  dsimp only
  split <;> exact ⟨rfl, rfl⟩

/-- Items that fail leave a command's core and its number alone. -/
theorem CopyCmd.failItems_keeps {α : Type} (f : α → Nat) (st : Nat) (l : List α) (c : CopyCmd) :
    (l.foldl (fun (c : CopyCmd) x => c.failItem (f x) st) c).core = c.core ∧ (l.foldl (fun (c : CopyCmd) x => c.failItem (f x) st) c).id = c.id := by
  induction l generalizing c with
  | nil => exact ⟨rfl, rfl⟩
  | cons x l ih =>
    obtain ⟨hcore, hid⟩ := ih (c.failItem (f x) st)
    obtain ⟨hcore', hid'⟩ := c.failItem_keeps (f x) st
    exact ⟨hcore.trans hcore', hid.trans hid'⟩

/-- A held triggered command shows NACK (R247). -/
theorem State.breakHeld_xstat (s : State) : let x := look XStat.empty ((s.breakHeld c).core c.core).xstat (c.id.toNat % 64)
    x.used = true ∧ x.id = c.id ∧ x.status = 5 := by
  have hkeeps := CopyCmd.failItems_keeps (fun x : Nat × Word => x.1) 5 (s.itemsLeft c 0) { c with stage := .done }
  dsimp only at hkeeps
  unfold State.breakHeld
  dsimp only
  generalize (s.itemsLeft c 0).foldl (fun (c : CopyCmd) x => c.failItem x.1 5) { c with stage := .done } = d at hkeeps ⊢
  obtain ⟨hcore, hid⟩ := hkeeps
  generalize (s.itemsLeft c 0).foldl _ s = v
  exact State.finishAway_names d hcore hid (show (5 : BitVec 8) ≠ 0 by decide) ..

end held

end Sys2Proof.Machine

namespace Sys2Proof.Machine

/-! # The beginning of a containment reset (R371 to R374) -/

section lists
variable {α : Type}

theorem mem_range_drop_one {n j : Nat} (h : j ∈ (List.range n).drop 1) : 1 ≤ j ∧ j < n := by
  obtain ⟨i, hi, rfl⟩ := List.mem_iff_getElem.1 h
  rw [List.length_drop, List.length_range] at hi
  rw [List.getElem_drop, List.getElem_range]
  omega

/-- Steps that each leave the state leave it together. -/
theorem foldl_of_fixed {β : Type} {f : β → α → β} {b : β} {l : List α} (h : ∀ a ∈ l, f b a = b) : l.foldl f b = b := by
  induction l with
  | nil => rfl
  | cons a l ih =>
    rw [List.foldl_cons, h a List.mem_cons_self]
    exact ih fun x hx => h x (List.mem_cons_of_mem _ hx)

/-- A change of every listed value that leaves the unlisted one alone. -/
theorem look_map_values {f : α → α} {d : α} (hd : f d = d) (m : SMap α) (k : Nat) : look d (m.map fun e => (e.1, f e.2)) k = f (look d m k) := by
  induction m with
  | nil => exact hd.symm
  | cons e m ih =>
    obtain ⟨j, v⟩ := e
    rw [List.map_cons, look, look]
    split
    · rfl
    · exact ih

theorem find?_del_same (k : Nat) (m : SMap α) : find? (del k m) k = none := by
  induction m with
  | nil => rfl
  | cons e m ih =>
    obtain ⟨j, v⟩ := e
    unfold del at ih ⊢
    rw [List.filter_cons]
    split
    next hj =>
      rw [find?, if_neg (by simpa using hj)]
      exact ih
    · exact ih

theorem mem_coresOf {d : Part} {k : Nat} : k ∈ coresOf d.clusters ↔ k < 2048 ∧ d.owns (clusterOf k) = true := by
  unfold coresOf clusterOf
  simp only [List.mem_flatMap, Part.mem_clusters, List.mem_map, List.mem_range]
  constructor
  · rintro ⟨cl, ⟨hlt, howns⟩, i, hi, rfl⟩
    rw [show (cl * 8 + i) / 8 = cl by omega]
    exact ⟨by omega, howns⟩
  · rintro ⟨hlt, howns⟩
    exact ⟨k / 8, ⟨by omega, howns⟩, k % 8, by omega, by omega⟩

end lists

/-! ## The cores and the clusters -/

/-- A core whose commands and queues are emptied. -/
def Core.stopped (k : Core) : Core := { k with xq := [], mq := [], anon := [], queues := [] }

/-- Core `c` holds nothing, and has no entry that a reset may break. -/
structure State.idleCore (s : State) (c : Nat) : Prop where
  reorder : (s.core c).reorder = []
  held : (s.core c).held = []
  entries : ∀ j, 1 ≤ j → j < 4096 → (s.entry c j).st ≠ 1 ∨ (s.entry c j).role = 0

/-- What a reset of partition `p` does to core `c`. -/
def State.stopCore (p : Nat) (s : State) (c : Nat) : State := (s.resetCore p c).modCore c fun k => { k with xq := [], mq := [], anon := [], queues := [] }

section cores
variable {s : State} {c p : Nat}

theorem State.modCore_congr {f g : Core → Core} (h : f (s.core c) = g (s.core c)) : s.modCore c f = s.modCore c g := by
  unfold State.modCore
  rw [h]

theorem State.stopCore_idle (h : s.idleCore c) : s.stopCore p c = s.modCore c Core.stopped := by
  have hentries : ((List.range 4096).drop 1).foldl (State.resetEntry p c) s = s := foldl_of_fixed fun j hj => by
    obtain ⟨hlo, hhi⟩ := mem_range_drop_one hj
    unfold State.resetEntry
    dsimp only
    exact if_pos ((h.entries j hlo hhi).imp_right .inl)
  unfold State.stopCore State.resetCore
  dsimp only
  rw [hentries, h.reorder, h.held, List.foldl_nil, List.foldl_nil, State.modCore_modCore]
  refine State.modCore_congr ?_
  unfold Core.stopped
  rw [← h.reorder, ← h.held]

/-- Cores with the same HTBASE, and nothing else new, leave a core idle. -/
theorem State.idleCore.of_stores {t : State} (h : s.idleCore c) (hst : s.storesAs t) (hbase : (t.core c).htbase = (s.core c).htbase)
    (hreorder : (t.core c).reorder = (s.core c).reorder) (hheld : (t.core c).held = (s.core c).held) : t.idleCore c :=
  ⟨hreorder.trans h.reorder, hheld.trans h.held, fun j hlo hhi => by
    rw [hst.entry hbase]
    exact h.entries j hlo hhi⟩

theorem State.idleCore.modCore_stopped (h : s.idleCore c) (k : Nat) : (s.modCore k Core.stopped).idleCore c := by
  have hcore : (s.modCore k Core.stopped).core c = if c = k then (s.core k).stopped else s.core c := look_put ..
  refine h.of_stores (State.storesAs_rebook (s.modCore k Core.stopped).cores s.chip.chipid s) ?_ ?_ ?_ <;>
  · rw [hcore]
    split
    next hc => rw [hc]; rfl
    · rfl

theorem State.stopCores_spec (l : List Nat) (s : State) (h : ∀ c ∈ l, s.idleCore c) : let t := l.foldl (State.stopCore p) s
    t = { s with cores := t.cores } ∧ ∀ k, t.core k = if k ∈ l then (s.core k).stopped else s.core k := by
  induction l generalizing s with
  | nil => exact ⟨rfl, fun k => (if_neg List.not_mem_nil).symm⟩
  | cons c l ih =>
    have hhead : s.stopCore p c = s.modCore c Core.stopped := State.stopCore_idle (h c List.mem_cons_self)
    obtain ⟨heq, hcore⟩ := ih (s.modCore c Core.stopped) fun k hk => (h k (List.mem_cons_of_mem _ hk)).modCore_stopped c
    rw [List.foldl_cons, hhead]
    refine ⟨heq.trans rfl, fun k => (hcore k).trans ?_⟩
    have hread : (s.modCore c Core.stopped).core k = if k = c then (s.core c).stopped else s.core k := look_put ..
    rw [hread]
    by_cases hk : k = c
    · subst hk
      rw [if_pos rfl, if_pos List.mem_cons_self]
      exact ite_self _
    · rw [if_neg hk]
      simp only [List.mem_cons, hk, false_or]

end cores

/-- A cluster whose commands are emptied. -/
def Cluster.stopped (k : Cluster) : Cluster := { k with pending := [], engine0 := Engine.idle, engine1 := Engine.idle, array := none }

theorem State.stopClusters_spec (l : List Nat) (s : State) : let t := l.foldl (fun (s : State) cl => s.modCluster cl Cluster.stopped) s
    t = { s with clusters := t.clusters } ∧ ∀ k, t.cluster k = if k ∈ l then (s.cluster k).stopped else s.cluster k := by
  induction l generalizing s with
  | nil => exact ⟨rfl, fun k => (if_neg List.not_mem_nil).symm⟩
  | cons c l ih =>
    obtain ⟨heq, hcluster⟩ := ih (s.modCluster c Cluster.stopped)
    refine ⟨heq.trans rfl, fun k => (hcluster k).trans ?_⟩
    have hread : (s.modCluster c Cluster.stopped).cluster k = if k = c then (s.cluster c).stopped else s.cluster k := look_put ..
    rw [hread]
    by_cases hk : k = c
    · subst hk
      rw [if_pos rfl, if_pos List.mem_cons_self]
      exact ite_self _
    · rw [if_neg hk]
      simp only [List.mem_cons, hk, false_or]

/-! ## Slots, launch unit, auctions and groups -/

section units
variable {s : State} {p : Nat}

theorem Part.holds_eq_within (d : Part) : (fun w : PendStore => d.holds w.home) = d.within := by
  funext w
  unfold Part.holds Part.within
  cases w.home <;> rfl

/-- The slots of a rectangle are empty, and the retired writes of the others into it are gone. -/
theorem State.slot_stopped (p k : Nat) (s : State) : ((s.discardWrites p).stopSlots p).slot k =
    if isSup (coreOf k) = false ∧ (s.part p).owns (clusterOf (coreOf k)) = true then Slot.reset else (s.slot k).dropStores (s.part p).within := by
  refine (State.slot_stopSlots p k (s.discardWrites p)).trans ?_
  have hslot : (s.discardWrites p).slot k = (s.slot k).dropStores (s.part p).within := by
    rw [← Part.holds_eq_within]
    exact look_map_values rfl s.slots k
  rw [hslot]
  rfl

theorem State.resetAuctions_eq (p : Nat) (s : State) : let t := s.resetAuctions p; t = { s with sectors := t.sectors, work := t.work } := by
  have hfold (l : List Nat) {f : State → Nat → State} (hf : ∀ u i, f u i = { u with sectors := (f u i).sectors, work := (f u i).work }) (u : State) :
      l.foldl f u = { u with sectors := (l.foldl f u).sectors, work := (l.foldl f u).work } := by
    induction l generalizing u with
    | nil => rfl
    | cons i l ih =>
      rw [List.foldl_cons, ih, hf]
  exact hfold _ (fun _ _ => rfl) s

/-- The groups that a reset closes instances of. -/
theorem State.resetGroups_spec (p : Nat) (s : State) : let t := s.resetGroups p; let d := s.part p
    t = { s with fabric := t.fabric } ∧
    t.fabric.members = s.fabric.members.filter (fun m => !(decide (m.core < 2048) && d.owns (clusterOf m.core))) ∧
    t.fabric.rslots = s.fabric.rslots.filter fun r => !(decide ((s.group r.2.group).part.toNat = p) && decide ((s.group r.2.group).children = 0)) := by
  have hfold (l : List (Nat × RSlot)) (f : Nat × RSlot → Group → Group) (u : State) : let t := l.foldl (fun (s : State) r => s.modGroup r.2.group (f r)) u
      t = { u with fabric := t.fabric } ∧ t.fabric.members = u.fabric.members ∧ t.fabric.rslots = u.fabric.rslots := by
    induction l generalizing u with
    | nil => exact ⟨rfl, rfl, rfl⟩
    | cons r l ih =>
      obtain ⟨heq, hmembers, hrslots⟩ := ih (u.modGroup r.2.group (f r))
      exact ⟨heq.trans rfl, hmembers, hrslots⟩
  exact hfold _ _ (s.modFabric _)

end units

/-! ## The step -/

/-- A reset of partition `p` has begun. -/
def State.begun (p : Nat) (s : State) : State := (s.modPart p fun d => { d with st := 3 }).modChip fun c => { c with rstBusy := true }

/-- The slots, the launch state and the auctions of a partition, stopped. -/
def State.unitsStopped (p : Nat) (s : State) : State := (((s.discardWrites p).stopSlots p).resetLaunch p).resetAuctions p

section begins
variable {s : State} {p : Nat}

theorem State.part_begun (p q : Nat) (s : State) : (s.begun p).part q = if q = p then { s.part p with st := 3 } else s.part q := look_put ..

theorem State.heldCommands_begun (p : Nat) (s : State) : (s.begun p).heldCommands p = s.heldCommands p := by
  have hclusters : ((s.begun p).part p).clusters = (s.part p).clusters := by
    rw [State.part_begun, if_pos rfl]
    rfl
  unfold State.heldCommands
  rw [hclusters]
  rfl

theorem State.unitsStopped_spec (p : Nat) (s : State) : let t := s.unitsStopped p
    t = { s with slots := t.slots, saved := t.saved, launch := t.launch, sectors := t.sectors, work := t.work } ∧
    (∀ k, t.slot k = if isSup (coreOf k) = false ∧ (s.part p).owns (clusterOf (coreOf k)) = true then Slot.reset else (s.slot k).dropStores (s.part p).within) ∧
    t.saved = del p s.saved ∧ t.launch = (s.resetLaunch p).launch := by
  intro t
  have heq : t = { ((s.discardWrites p).stopSlots p).resetLaunch p with sectors := t.sectors, work := t.work } := State.resetAuctions_eq ..
  clear_value t
  refine ⟨?_, fun k => ?_, ?_, ?_⟩
  · rw [heq]
    unfold State.resetLaunch State.stopSlots State.discardWrites State.modLaunch State.post
    rfl
  · rw [← State.slot_stopped, State.slot, heq]
    rfl
  · rw [heq]
    rfl
  · rw [heq]
    rfl

theorem State.beginReset_eq (hnet : s.net = []) (hheld : s.heldCommands p = []) : s.beginReset p =
    ((((s.part p).clusters.foldl (fun (s : State) cl => s.modCluster cl Cluster.stopped)
      ((coresOf (s.part p).clusters).foldl (State.stopCore p) ((s.begun p).unitsStopped p))).resetGroups p).fence p).post .containmentResetComplete (arg1 p) := by
  have hnet' : (s.begun p).net = [] := hnet
  have hheld' : (s.begun p).heldCommands p = [] := (s.heldCommands_begun p).trans hheld
  unfold State.beginReset
  dsimp only
  rw [show (s.modPart p fun d => { d with st := 3 }).modChip (fun c => { c with rstBusy := true }) = s.begun p from rfl, hheld', List.foldl_nil, State.fence_of_nil hnet']
  rfl

/-- What the launch unit keeps of a partition under reset. -/
theorem State.resetLaunch_spec (p : Nat) (s : State) : let l := (s.resetLaunch p).launch
    (∀ e ∈ l.queues, e.2.part.toNat = p → e.2.recs = []) ∧ (∀ e ∈ l.comps, e.2.part.toNat = p → e.2.recs = [] ∧ e.2.arm = none ∧ e.2.regs = []) ∧
    (∀ e ∈ l.events, e.2.part.toNat = p → e.2.count = 0 ∧ e.2.failed = false) ∧ ∀ x ∈ l.exps, x.lrec.part ≠ p := by
  refine ⟨fun e he hp => ?_, fun e he hp => ?_, fun e he hp => ?_, fun x hx => ?_⟩
  · obtain ⟨e, -, rfl⟩ := List.mem_map.1 he
    dsimp only at hp ⊢
    split at hp
    · rw [if_pos ‹_›]
    · exact absurd hp ‹_›
  · obtain ⟨e, -, rfl⟩ := List.mem_map.1 he
    dsimp only at hp ⊢
    split at hp
    · rw [if_pos ‹_›]
      exact ⟨rfl, rfl, rfl⟩
    · exact absurd hp ‹_›
  · obtain ⟨e, -, rfl⟩ := List.mem_map.1 he
    dsimp only at hp ⊢
    split at hp
    · rw [if_pos ‹_›]
      exact ⟨rfl, rfl⟩
    · exact absurd hp ‹_›
  · simpa using (List.mem_filter.1 hx).2

/-- The reset of a partition that nothing is under way to, with no command held and no promise pending there. -/
theorem State.beginReset_spec (hnet : s.net = []) (hheld : s.heldCommands p = []) (hidle : ∀ c ∈ coresOf (s.part p).clusters, s.idleCore c) :
    let t := s.beginReset p; let d := s.part p
    (∀ q, t.part q = if q = p then { d with st := 3 } else s.part q) ∧ t.chip = { s.chip with rstBusy := true } ∧ t.mem = s.mem ∧ t.net = [] ∧
    t.saved = del p s.saved ∧ ⟨.containmentResetComplete, arg1 p⟩ ∈ t.work ∧ t.launch = (s.resetLaunch p).launch ∧
    (∀ k, t.slot k = if isSup (coreOf k) = false ∧ d.owns (clusterOf (coreOf k)) = true then Slot.reset else (s.slot k).dropStores d.within) ∧
    (∀ k, t.core k = if k ∈ coresOf d.clusters then (s.core k).stopped else s.core k) ∧
    (∀ cl, t.cluster cl = if cl ∈ d.clusters then (s.cluster cl).stopped else s.cluster cl) ∧
    t.fabric.members = s.fabric.members.filter (fun m => !(decide (m.core < 2048) && d.owns (clusterOf m.core))) ∧
    t.fabric.rslots = s.fabric.rslots.filter fun r => !(decide ((s.group r.2.group).part.toNat = p) && decide ((s.group r.2.group).children = 0)) := by
  intro t d
  have ht : t = _ := State.beginReset_eq hnet hheld
  obtain ⟨hunits, hslot, hsaved, hlaunch⟩ := (s.begun p).unitsStopped_spec p
  generalize (s.begun p).unitsStopped p = v at hunits hslot hsaved hlaunch ht
  have hcores : v.cores = s.cores := by
    rw [hunits]
    rfl
  have hstores : s.storesAs v := by
    rw [hunits]
    exact ⟨rfl, rfl, rfl, rfl, rfl, rfl, rfl, fun _ => rfl⟩
  have hcore (c : Nat) : v.core c = s.core c := congrArg (look Core.reset · c) hcores
  obtain ⟨hcoreEq, hcoreOf⟩ := State.stopCores_spec (p := p) (coresOf d.clusters) v fun c hc =>
    (hidle c hc).of_stores hstores (congrArg _ (hcore c)) (congrArg _ (hcore c)) (congrArg _ (hcore c))
  generalize (coresOf d.clusters).foldl (State.stopCore p) v = w at hcoreEq hcoreOf ht
  obtain ⟨hclEq, hclOf⟩ := State.stopClusters_spec d.clusters w
  generalize d.clusters.foldl (fun (s : State) cl => s.modCluster cl Cluster.stopped) w = x at hclEq hclOf ht
  obtain ⟨hfabric, hmembers, hrslots⟩ := x.resetGroups_spec p
  generalize x.resetGroups p = y at hfabric hmembers hrslots ht
  have hy : y = { s.begun p with
      slots := v.slots, saved := v.saved, launch := v.launch, sectors := v.sectors, work := v.work, cores := w.cores,
      clusters := x.clusters, fabric := y.fabric } := by
    rw [hfabric, hclEq, hcoreEq, hunits]
  have hxfabric : x.fabric = s.fabric := by
    rw [hclEq, hcoreEq, hunits]
    rfl
  have hpart (q : Nat) : y.part q = (s.begun p).part q := by
    rw [State.part, hy]
    rfl
  have howns (q : Nat) : (x.part p).owns q = d.owns q := by
    have hx : x.parts = (s.begun p).parts := by rw [hclEq, hcoreEq, hunits]
    rw [State.part, hx]
    refine (congrArg (Part.owns · q) (s.part_begun p p)).trans ?_
    rw [if_pos rfl]
    rfl
  have hnety : y.net = [] := by
    rw [hy]
    exact hnet
  rw [State.fence_of_nil hnety] at ht
  clear_value t
  subst ht
  refine ⟨fun q => (hpart q).trans (s.part_begun p q), ?_, ?_, hnety, ?_, List.mem_append_right _ List.mem_cons_self, ?_, fun k => ?_, fun k => ?_, fun cl => ?_, ?_, ?_⟩
  · show y.chip = _
    rw [hy]
    rfl
  · show y.mem = _
    rw [hy]
    rfl
  · show y.saved = _
    rw [hy]
    exact hsaved
  · show y.launch = _
    rw [hy]
    exact hlaunch
  · have hk := hslot k
    rw [State.part_begun, if_pos rfl] at hk
    refine Eq.trans ?_ hk
    show y.slot k = _
    rw [State.slot, hy]
    rfl
  · refine Eq.trans ?_ ((hcoreOf k).trans (by rw [hcore]))
    show y.core k = _
    rw [State.core, hy]
    rfl
  · have hw : w.cluster cl = s.cluster cl := by
      rw [State.cluster, hcoreEq, hunits]
      rfl
    refine Eq.trans ?_ ((hclOf cl).trans (by rw [hw]))
    show y.cluster cl = _
    rw [State.cluster, hy]
    rfl
  · refine hmembers.trans ?_
    simp only [hxfabric, howns]
  · refine hrslots.trans ?_
    have hgroup (g : Nat) : x.group g = s.group g := by
      unfold State.group
      rw [hxfabric]
    simp only [hxfabric, hgroup]

end begins

section go
variable {s : State}

/-- Whether a write of `v` to the reset register begins a reset. -/
def State.resetGoes (s : State) (v : Word) : Prop :=
  v.getLsbD 8 = true ∧ s.chip.rstBusy = false ∧ bitsAt v 0 8 ≠ 0 ∧ (s.part (bitsAt v 0 8)).known = true

theorem State.resetGoes_iff (s : State) (v : Word) :
    (v.getLsbD 8 && !s.chip.rstBusy && decide (wbits v 0 8 ≠ 0) && (s.part (wbits v 0 8)).known) = true ↔ s.resetGoes v := by
  unfold State.resetGoes
  simp only [Bool.and_eq_true, Bool.not_eq_true', decide_eq_true_eq, and_assoc]
  rfl

/-- The reset register names partition `p`. -/
def State.namesReset (p : Nat) (s : State) : State := s.modChip fun c => { c with rstPart := BitVec.ofNat 8 p }

theorem exec_containmentResetGo_not (h : ¬ s.resetGoes s.arg.v) : exec .containmentResetGo s = .next (s.namesReset (bitsAt s.arg.v 0 8)) :=
  congrArg Host.Outcome.next (if_neg (mt (s.resetGoes_iff s.arg.v).1 h))

theorem exec_containmentResetGo (h : s.resetGoes s.arg.v) :
    exec .containmentResetGo s = .next ((s.namesReset (bitsAt s.arg.v 0 8)).beginReset (bitsAt s.arg.v 0 8)) :=
  congrArg Host.Outcome.next (if_pos ((s.resetGoes_iff s.arg.v).2 h))

theorem containmentResetBegins (s : State) : let v := s.arg.v; let p := bitsAt v 0 8; let d := s.part p; let c := { s.chip with rstPart := BitVec.ofNat 8 p }; let go := v.getLsbD 8 = true ∧ s.chip.rstBusy = false ∧ p ≠ 0 ∧ d.known = true
    (¬ go → exec .containmentResetGo s = .next { s with chip := c }) ∧
    (go → s.net = [] → s.heldCommands p = [] → (∀ cl ∈ d.clusters, ∀ i < 8, (s.core (cl * 8 + i)).reorder = [] ∧ (s.core (cl * 8 + i)).held = [] ∧ ∀ j, 1 ≤ j → j < 4096 → (s.entry (cl * 8 + i) j).st ≠ 1 ∨ (s.entry (cl * 8 + i) j).role = 0) →
      s.gives .containmentResetGo fun t => (∀ q, t.part q = if q = p then { d with st := 3 } else s.part q) ∧ t.chip = { c with rstBusy := true } ∧ t.mem = s.mem ∧ t.net = [] ∧ (find? t.saved p).isNone = true ∧ ⟨.containmentResetComplete, arg1 p⟩ ∈ t.work ∧
        (∀ k, t.slot k = if isSup (coreOf k) = false ∧ d.owns (clusterOf (coreOf k)) = true then Slot.reset else (s.slot k).dropStores d.within) ∧
        (∀ k, t.core k = if k < 2048 ∧ d.owns (clusterOf k) = true then { s.core k with xq := [], mq := [], anon := [], queues := [] } else s.core k) ∧
        (∀ cl, t.cluster cl = if cl < 256 ∧ d.owns cl = true then { s.cluster cl with pending := [], engine0 := Engine.idle, engine1 := Engine.idle, array := none } else s.cluster cl) ∧
        (∀ e ∈ t.launch.queues, e.2.part.toNat = p → e.2.recs = []) ∧ (∀ e ∈ t.launch.comps, e.2.part.toNat = p → e.2.recs = [] ∧ e.2.arm = none ∧ e.2.regs = []) ∧
        (∀ e ∈ t.launch.events, e.2.part.toNat = p → e.2.count = 0 ∧ e.2.failed = false) ∧ (∀ x ∈ t.launch.exps, x.lrec.part ≠ p) ∧
        (∀ m ∈ t.fabric.members, ¬ (m.core < 2048 ∧ d.owns (clusterOf m.core) = true)) ∧ (∀ r ∈ t.fabric.rslots, ¬ ((s.group r.2.group).part.toNat = p ∧ (s.group r.2.group).children = 0))) := by
  intro v p d c go
  refine ⟨fun h => exec_containmentResetGo_not h, fun h hnet hheld hcores => ⟨_, exec_containmentResetGo h, ?_⟩⟩
  have hidle : ∀ k ∈ coresOf ((s.namesReset p).part p).clusters, (s.namesReset p).idleCore k := by
    intro k hk
    obtain ⟨cl, hcl, hk⟩ := List.mem_flatMap.1 hk
    obtain ⟨i, hi, rfl⟩ := List.mem_map.1 hk
    obtain ⟨hreorder, hheld, hentries⟩ := hcores cl hcl i (List.mem_range.1 hi)
    exact State.idleCore.of_stores ⟨hreorder, hheld, hentries⟩ ⟨rfl, rfl, rfl, rfl, rfl, rfl, rfl, fun _ => rfl⟩ rfl rfl rfl
  have hnet' : (s.namesReset p).net = [] := hnet
  have hheld' : (s.namesReset p).heldCommands p = [] := hheld
  obtain ⟨hpart, hchip, hmem, hnet, hsaved, hwork, hlaunch, hslot, hcore, hcluster, hmembers, hrslots⟩ := State.beginReset_spec hnet' hheld' hidle
  obtain ⟨hqueues, hcomps, hevents, hexps⟩ := (s.namesReset p).resetLaunch_spec p
  rw [← hlaunch] at hqueues hcomps hevents hexps
  refine ⟨hpart, hchip, hmem, hnet, ?_, hwork, hslot, fun k => ?_, fun cl => ?_, hqueues, hcomps, hevents, hexps, fun m hm => ?_, fun r hr => ?_⟩
  · rw [hsaved, find?_del_same]
    rfl
  · rw [hcore k]
    simp only [mem_coresOf]
    rfl
  · rw [hcluster cl]
    simp only [Part.mem_clusters]
    rfl
  · rw [hmembers, List.mem_filter] at hm
    have hkept := hm.2
    simp only [Bool.not_eq_true', Bool.and_eq_false_iff, decide_eq_false_iff_not] at hkept
    rintro ⟨hlt, howns⟩
    exact hkept.elim (· hlt) fun hno => Bool.false_ne_true (hno.symm.trans howns)
  · rw [hrslots, List.mem_filter] at hr
    have hkept := hr.2
    simp only [Bool.not_eq_true', Bool.and_eq_false_iff, decide_eq_false_iff_not] at hkept
    exact not_and_or.2 hkept

end go

/-- Settles O53: the beginning and the end of a reset, what it breaks, and the power states of a cluster. -/
theorem containmentAndPower : Obligations.ContainmentAndPower := by
  unfold Obligations.ContainmentAndPower
  refine ⟨containmentResetBegins, fun s p c i => ?_, fun s c => State.breakHeld_xstat c s, containmentResetCompletes, fun s => ?_⟩
  · intro e hq hrole hmoved hin hlocal hfw
    exact State.resetEntry_quiet hq hrole hmoved hin hlocal hfw
  · obtain ⟨hignored, htaken⟩ := clusterPowerRequested s
    obtain ⟨hnone, hchange⟩ := clusterPowerChanges s
    exact ⟨hignored, htaken, hnone, hchange⟩

end Sys2Proof.Machine

namespace Sys2Proof

/-! # Encoding and decoding (O57, O56) -/

/-! ## Fields of a word (R61 to R66) -/

/-- The `n` one bits from bit `lo` on. -/
def fieldMask (lo n : Nat) : Nat := 2 ^ lo * (2 ^ n - 1)

theorem testBit_fieldMask (lo n j : Nat) : (fieldMask lo n).testBit j = (decide (lo ≤ j) && decide (j - lo < n)) := by
  rw [fieldMask, Nat.testBit_two_pow_mul, Nat.testBit_two_pow_sub_one]

theorem testBit_bits (w lo n j : Nat) : (bits w lo n).testBit j = (decide (j < n) && w.testBit (j + lo)) := by
  rw [bits, Nat.testBit_mod_two_pow, Nat.testBit_div_two_pow]

theorem bits_lor (a b lo n : Nat) : bits (a ||| b) lo n = bits a lo n ||| bits b lo n :=
  Nat.eq_of_testBit_eq fun j => by simp only [testBit_bits, Nat.testBit_or, Bool.and_or_distrib_left]

theorem bits_eq_zero_of_fieldMask {r lo n : Nat} (h : r &&& fieldMask lo n = 0) : bits r lo n = 0 := by
  refine Nat.zero_of_testBit_eq_false fun j => ?_
  have hj := congrArg (Nat.testBit · (j + lo)) h
  rw [testBit_bits]
  by_cases hn : j < n
  · simpa [testBit_fieldMask, hn] using hj
  · simp [hn]

theorem toNat_fld (w lo n : Nat) : (fld w lo n).toNat = bits w lo n := BitVec.toNat_ofNat ..

theorem fld_eq_of_bits {w lo n : Nat} {v : BitVec n} (h : bits w lo n = v.toNat) : fld w lo n = v :=
  BitVec.eq_of_toNat_eq ((toNat_fld w lo n).trans h)

/-- A field put where a word is clear carries into no other bit. -/
theorem testBit_add_field {r lo n v : Nat} (hv : v < 2 ^ n) (h : r &&& fieldMask lo n = 0) (j : Nat) :
    (v * 2 ^ lo + r).testBit j = if lo ≤ j ∧ j - lo < n then v.testBit (j - lo) else r.testBit j := by
  have hclear : r / 2 ^ lo % 2 ^ n = 0 := bits_eq_zero_of_fieldMask h
  have hr : r = 2 ^ lo * (2 ^ n * (r / 2 ^ lo / 2 ^ n)) + r % 2 ^ lo := by
    have hhigh := Nat.div_add_mod (r / 2 ^ lo) (2 ^ n)
    rw [hclear, Nat.add_zero] at hhigh
    rw [hhigh, Nat.div_add_mod]
  have hsum : v * 2 ^ lo + r = 2 ^ lo * (2 ^ n * (r / 2 ^ lo / 2 ^ n) + v) + r % 2 ^ lo := by
    rw [Nat.mul_add, Nat.mul_comm v]
    omega
  have hlow : r % 2 ^ lo < 2 ^ lo := Nat.mod_lt _ (Nat.two_pow_pos lo)
  rw [hsum, Nat.testBit_two_pow_mul_add _ hlow, Nat.testBit_two_pow_mul_add _ hv]
  conv_rhs => rw [hr, Nat.testBit_two_pow_mul_add _ hlow, Nat.testBit_two_pow_mul]
  by_cases hj : j < lo
  · rw [if_pos hj, if_neg (by omega), if_pos hj]
  · by_cases hn : j - lo < n
    · rw [if_neg hj, if_pos hn, if_pos ⟨by omega, hn⟩]
    · rw [if_neg hj, if_neg hn, if_neg (fun h => hn h.2), if_neg hj]
      simp [show n ≤ j - lo by omega]

/-- The test `p` of a row of the decoder's table compares the bits of `w` in the mask `m` with those of `c`. -/
inductive Fixes (w : Nat) : Prop → Nat → Nat → Prop
  | bits (lo n a : Nat) : Fixes w (bits w lo n = a) (fieldMask lo n) (a * 2 ^ lo)
  | and {p q : Prop} {m c m' c' : Nat} : Fixes w p m c → Fixes w q m' c' → (c ||| c') &&& m = c → (c ||| c') &&& m' = c' →
      Fixes w (p ∧ q) (m ||| m') (c ||| c')

theorem land_fieldMask (w lo n : Nat) : w &&& fieldMask lo n = bits w lo n * 2 ^ lo := by
  refine Nat.eq_of_testBit_eq fun j => ?_
  rw [Nat.testBit_and, testBit_fieldMask, Nat.testBit_mul_two_pow, testBit_bits]
  by_cases hj : lo ≤ j
  · rw [Nat.sub_add_cancel hj, Bool.and_comm, Bool.and_assoc]
  · simp [hj]

theorem Fixes.iff {w m c : Nat} {p : Prop} (h : Fixes w p m c) : p ↔ w &&& m = c := by
  induction h with
  | bits lo n a => rw [land_fieldMask, Nat.mul_left_inj (Nat.two_pow_pos lo).ne']
  | @and p q m c m' c' _ _ hc hc' ihp ihq =>
    have hpart : ∀ a b : Nat, w &&& (a ||| b) &&& a = w &&& a := fun a b => Nat.eq_of_testBit_eq fun j => by
      simp only [Nat.testBit_and, Nat.testBit_or]
      cases a.testBit j <;> simp
    rw [ihp, ihq]
    refine ⟨fun ⟨hp, hq⟩ => by rw [Nat.and_or_distrib_left, hp, hq], fun h => ⟨?_, ?_⟩⟩
    · rw [← hc, ← h, hpart]
    · rw [← hc', ← h, Nat.or_comm m m', hpart]

/-! ## From an instruction to its word -/

/-- A field of a word, with its value. -/
structure WordField where
  width : Nat
  lo : Nat
  value : BitVec width

/-- The word `w` has the fields `fs`, which lie in the mask `m`, and outside of `m` the bits of `c`. -/
structure Reads (w c m : Nat) (fs : List WordField) : Prop where
  lor : w ||| m = c ||| m
  inMask : ∀ f ∈ fs, fieldMask f.lo f.width &&& m = fieldMask f.lo f.width
  field : ∀ f ∈ fs, bits w f.lo f.width = f.value.toNat

/-- The list `l` packs the fields `fs`: they lie apart from each other in the mask `m`, where `c` is clear. -/
inductive Packs (c : Nat) : List (Nat × Nat) → Nat → List WordField → Prop
  | nil : Packs c [] 0 []
  | cons {m lo n : Nat} {l : List (Nat × Nat)} {fs : List WordField} {v : BitVec n} : Packs c l m fs → (c ||| m) &&& fieldMask lo n = 0 →
      Packs c ((v.toNat, lo) :: l) (fieldMask lo n ||| m) (⟨n, lo, v⟩ :: fs)

theorem Reads.nil (c : Nat) : Reads (pack c []) c 0 [] := ⟨rfl, nofun, nofun⟩

theorem Reads.clear {w c m k : Nat} {fs : List WordField} (h : Reads w c m fs) (hfree : (c ||| m) &&& k = 0) : w &&& k = 0 := by
  refine Nat.zero_of_testBit_eq_false fun j => ?_
  have hj := congrArg (Nat.testBit · j) hfree
  simp only [← h.lor, Nat.testBit_or, Nat.testBit_and, Nat.zero_testBit] at hj ⊢
  revert hj
  cases w.testBit j <;> simp

theorem Reads.cons {c m lo n : Nat} {l : List (Nat × Nat)} {fs : List WordField} {v : BitVec n} (h : Reads (pack c l) c m fs)
    (hfree : (c ||| m) &&& fieldMask lo n = 0) : Reads (pack c ((v.toNat, lo) :: l)) c (fieldMask lo n ||| m) (⟨n, lo, v⟩ :: fs) := by
  have hbit := testBit_add_field v.isLt (h.clear hfree)
  have hapart : ∀ j, m.testBit j = true → ¬ (lo ≤ j ∧ j - lo < n) := by
    intro j hm hin
    have hj := congrArg (Nat.testBit · j) hfree
    simp [testBit_fieldMask, hm, hin] at hj
  refine ⟨Nat.eq_of_testBit_eq fun j => ?_, fun f hf => ?_, fun f hf => ?_⟩
  · have hj := congrArg (Nat.testBit · j) h.lor
    simp only [Nat.testBit_or, testBit_fieldMask, pack] at hj ⊢
    rw [hbit]
    split
    · next hin => simp [hin]
    · next hin =>
      have hout : (decide (lo ≤ j) && decide (j - lo < n)) = false := by simpa using hin
      rw [hout, Bool.false_or, hj]
  · refine Nat.eq_of_testBit_eq fun j => ?_
    rcases List.mem_cons.1 hf with rfl | hf
    · simp only [Nat.testBit_and, Nat.testBit_or]
      cases (fieldMask lo n).testBit j <;> rfl
    · have hj := congrArg (Nat.testBit · j) (h.inMask f hf)
      simp only [Nat.testBit_and, Nat.testBit_or] at hj ⊢
      rw [Bool.and_or_distrib_left, hj]
      cases (fieldMask lo n).testBit j <;> simp
  · refine Nat.eq_of_testBit_eq fun j => ?_
    rw [testBit_bits, pack, hbit]
    rcases List.mem_cons.1 hf with rfl | hf
    · by_cases hj : j < n
      · simp [hj]
      · simp [hj, Nat.testBit_lt_two_pow (lt_of_lt_of_le v.isLt (Nat.pow_le_pow_right (by omega) (Nat.le_of_not_lt hj)))]
    · rw [← h.field f hf, testBit_bits]
      by_cases hj : j < f.width
      · have hm := congrArg (Nat.testBit · (j + f.lo)) (h.inMask f hf)
        simp [testBit_fieldMask, hj] at hm
        rw [if_neg (hapart _ hm)]
      · simp [hj]

theorem Packs.reads {c m : Nat} {l : List (Nat × Nat)} {fs : List WordField} (h : Packs c l m fs) : Reads (pack c l) c m fs := by
  induction h with
  | nil => exact .nil c
  | cons _ hfree ih => exact ih.cons hfree

section reads
variable {w c m : Nat} {fs : List WordField} (h : Reads w c m fs) {lo n : Nat}
include h

theorem Reads.bits_lor : bits w lo n ||| bits m lo n = bits c lo n ||| bits m lo n := by
  rw [← Sys2Proof.bits_lor, h.lor, Sys2Proof.bits_lor]

/-- A test of bits outside the fields reads the fixed bits. -/
theorem Reads.bits_eq (hm : bits m lo n = 0) : bits w lo n = c / 2 ^ lo % 2 ^ n := by
  have hbits := h.bits_lor (lo := lo) (n := n)
  rwa [hm, Nat.or_zero, Nat.or_zero] at hbits

/-- A row whose test a fixed bit fails is passed over, whatever the fields hold. -/
theorem Reads.skip {M C : Nat} {p : Prop} [Decidable p] {x o : Option Instr} {i : Instr} (hp : Fixes w p M C)
    (hd : C ||| m ≠ c &&& M ||| m) (ho : o = some i) : (if p then x else o) = some i := by
  refine (if_neg fun hpass => hd ?_).trans ho
  rw [← hp.iff.1 hpass]
  refine Nat.eq_of_testBit_eq fun j => ?_
  have hj := congrArg (Nat.testBit · j) h.lor
  simp only [Nat.testBit_or, Nat.testBit_and] at hj ⊢
  rw [Bool.or_and_distrib_right, hj, Bool.or_and_distrib_right]

/-- A row whose test the fixed bits pass is taken. -/
theorem Reads.take {M C : Nat} {p : Prop} [Decidable p] {x i : Instr} {o : Option Instr} (hp : Fixes w p M C)
    (hd : M &&& m = 0 ∧ c &&& M = C) (hx : x = i) : (if p then some x else o) = some i := by
  obtain ⟨hapart, hc⟩ := hd
  have hw : w &&& M = C := by
    have hM := congrArg (· &&& M) h.lor
    simp only [Nat.and_or_distrib_right, Nat.and_comm m M, hapart, Nat.or_zero] at hM
    rw [hM, hc]
  rw [if_pos (hp.iff.2 hw), hx]

theorem Reads.bits_field {v : BitVec n} (hf : ⟨n, lo, v⟩ ∈ fs) : bits w lo n = v.toNat := h.field _ hf

theorem Reads.fld_eq {v : BitVec n} (hf : ⟨n, lo, v⟩ ∈ fs) : fld w lo n = v := fld_eq_of_bits (h.bits_field hf)

theorem Reads.lt {k : Nat} (hk : c ||| m < 2 ^ k) : w < 2 ^ k :=
  lt_of_le_of_lt (h.lor ▸ Nat.left_le_or) hk

end reads

/-- The instruction has a word of its length, which the table of that length reads as this instruction. -/
def Instr.readsBack (i : Instr) : Prop :=
  ∃ w, encodeWord i = some w ∧
    (i.len = 2 ∧ w < 2 ^ 16 ∧ w % 2 = 0 ∧ rawWord16 w = some i ∨ i.len = 4 ∧ w < 2 ^ 32 ∧ w % 2 = 1 ∧ rawWord32 w = some i)

section words
variable {c m : Nat} {fs : List WordField} {l : List (Nat × Nat)} {i : Instr} (henc : encodeWord i = some (pack c l))
include henc

theorem Instr.readsBack.of_word32 (hlen : i.len = 4) (hp : Packs c l m fs) (hfit : c ||| m < 2 ^ 32 ∧ bits m 0 1 = 0 ∧ c % 2 = 1)
    (hdec : ∀ w, Reads w c m fs → rawWord32 w = some i) : i.readsBack := by
  obtain ⟨hlt, hbit, hodd⟩ := hfit
  have hw : pack c l % 2 = 1 := by simpa [bits, hodd] using hp.reads.bits_eq hbit
  exact ⟨_, henc, .inr ⟨hlen, hp.reads.lt hlt, hw, hdec _ hp.reads⟩⟩

theorem Instr.readsBack.of_word16 (hlen : i.len = 2) (hp : Packs c l m fs) (hfit : c ||| m < 2 ^ 16 ∧ bits m 0 1 = 0 ∧ c % 2 = 0)
    (hdec : ∀ w, Reads w c m fs → rawWord16 w = some i) : i.readsBack := by
  obtain ⟨hlt, hbit, heven⟩ := hfit
  have hw : pack c l % 2 = 0 := by simpa [bits, heven] using hp.reads.bits_eq hbit
  exact ⟨_, henc, .inl ⟨hlen, hp.reads.lt hlt, hw, hdec _ hp.reads⟩⟩

end words

/-! ### A group number lies in two pieces (R117) -/

theorem group_low (g : BitVec 12) : g.toNat % 1024 = (g.setWidth 10).toNat := (BitVec.toNat_setWidth 10 g).symm

theorem group_high (g : BitVec 12) : g.toNat / 1024 = (g.extractLsb' 10 2).toNat := by
  rw [BitVec.extractLsb'_toNat, Nat.shiftRight_eq_div_pow]
  omega

theorem group_join (g : BitVec 12) : BitVec.ofNat 12 (g.toNat >>> 10 % 4 * 1024 + g.toNat % 1024) = g := by
  rw [Nat.shiftRight_eq_div_pow, Nat.mod_eq_of_lt (by omega), Nat.div_add_mod', BitVec.ofNat_toNat, BitVec.setWidth_eq]

theorem group_fields (w : Nat) : (BitVec.ofNat 12 (bits w 25 2 * 1024 + bits w 12 10)).setWidth 10 = fld w 12 10 ∧
    (BitVec.ofNat 12 (bits w 25 2 * 1024 + bits w 12 10)).extractLsb' 10 2 = fld w 25 2 := by
  have hlow : bits w 12 10 < 1024 := Nat.mod_lt _ (by decide)
  have hhigh : bits w 25 2 < 4 := Nat.mod_lt _ (by decide)
  constructor <;> refine BitVec.eq_of_toNat_eq ?_ <;> rw [toNat_fld]
  · rw [← group_low, BitVec.toNat_ofNat]
    omega
  · rw [← group_high, BitVec.toNat_ofNat]
    omega

/-- The group instructions (R117, R324, R325). -/
@[simp] theorem readsBack_groups :
    (∀ g sc, Instr.readsBack (.gjoin g sc)) ∧ (∀ g sc, Instr.readsBack (.gleave g sc)) ∧
    (∀ rd g sc, Instr.readsBack (.gcontrib rd g sc)) ∧ (∀ rd g sc, Instr.readsBack (.gread rd g sc)) := by
  and_intros <;> intros <;> refine .of_word32 rfl rfl (by simp only [group_low, group_high]; repeat' constructor) (by decide) fun w h => ?_ <;>
    rw [rawWord32, h.bits_eq (by decide)] <;> dsimp only [decMajor21] <;> repeat refine h.skip (by repeat' constructor) (by decide) ?_
  all_goals exact h.take (by repeat' constructor) (by decide) (by simp [h.bits_field, h.fld_eq, group_join])

/-! ### The rows of the table

For each instruction its fields are laid out (`Packs`), its major opcode is found, the rows above its own are passed over, each for a
fixed bit (`Reads.skip`), and its own row is taken (`Reads.take`). -/

/-- The instructions that have a major opcode to themselves. -/
@[simp] theorem readsBack_only :
    (∀ rd ra imm sc, Instr.readsBack (.addi rd ra imm sc)) ∧ (∀ rd ra imm sc, Instr.readsBack (.andi rd ra imm sc)) ∧
    (∀ rd ra imm sc, Instr.readsBack (.ori rd ra imm sc)) ∧ (∀ rd ra imm sc, Instr.readsBack (.xori rd ra imm sc)) ∧
    (∀ rd ra imm sc, Instr.readsBack (.slti rd ra imm sc)) ∧ (∀ rd ra imm sc, Instr.readsBack (.sltni rd ra imm sc)) ∧
    (∀ rd imm, Instr.readsBack (.lui rd imm)) ∧ (∀ rd imm, Instr.readsBack (.adpc rd imm)) ∧ (∀ rd ra o w sc, Instr.readsBack (.bexs rd ra o w sc)) ∧
    (∀ rd ra o w sc, Instr.readsBack (.bexn rd ra o w sc)) ∧ (∀ rd ra o w sc, Instr.readsBack (.bins rd ra o w sc)) ∧
    (∀ rd o, Instr.readsBack (.jal rd o)) ∧ (∀ rd ra imm sc, Instr.readsBack (.jalr rd ra imm sc)) ∧
    (∀ rd ra z imm sc, Instr.readsBack (.ld rd ra z imm sc)) ∧ (∀ rd ra z imm sc, Instr.readsBack (.ldn rd ra z imm sc)) ∧
    (∀ rd ra z imm sc, Instr.readsBack (.fld rd ra z imm sc)) ∧ (∀ rd ra z imm sc, Instr.readsBack (.st rd ra z imm sc)) ∧
    (∀ rd ra z imm sc, Instr.readsBack (.fst rd ra z imm sc)) ∧ (∀ rd ra u r t sc, Instr.readsBack (.fcvt rd ra u r t sc)) := by
  and_intros <;> intros <;> refine .of_word32 rfl rfl (by repeat' constructor) (by decide) fun w h => ?_ <;>
    rw [rawWord32, h.bits_eq (by decide)] <;> exact congrArg some (by simp [h.fld_eq])

/-- The register forms, shifts and unary operations (R81, R82, R84, R87). -/
@[simp] theorem readsBack_scalar :
    (∀ rd ra rb sc, Instr.readsBack (.add rd ra rb sc)) ∧ (∀ rd ra rb sc, Instr.readsBack (.sub rd ra rb sc)) ∧
    (∀ rd ra rb sc, Instr.readsBack (.and rd ra rb sc)) ∧ (∀ rd ra rb sc, Instr.readsBack (.or rd ra rb sc)) ∧
    (∀ rd ra rb sc, Instr.readsBack (.xor rd ra rb sc)) ∧ (∀ rd ra rb sc, Instr.readsBack (.sll rd ra rb sc)) ∧
    (∀ rd ra rb sc, Instr.readsBack (.srl rd ra rb sc)) ∧ (∀ rd ra rb sc, Instr.readsBack (.sra rd ra rb sc)) ∧
    (∀ rd ra rb sc, Instr.readsBack (.slt rd ra rb sc)) ∧ (∀ rd ra rb sc, Instr.readsBack (.sltn rd ra rb sc)) ∧
    (∀ rd ra rb sc, Instr.readsBack (.min rd ra rb sc)) ∧ (∀ rd ra rb sc, Instr.readsBack (.max rd ra rb sc)) ∧
    (∀ rd ra rb sc, Instr.readsBack (.minn rd ra rb sc)) ∧ (∀ rd ra rb sc, Instr.readsBack (.maxn rd ra rb sc)) ∧
    (∀ rd ra rb sc, Instr.readsBack (.mul rd ra rb sc)) ∧ (∀ rd ra rb sc, Instr.readsBack (.mulh rd ra rb sc)) ∧
    (∀ rd ra rb sc, Instr.readsBack (.mulhn rd ra rb sc)) ∧ (∀ rd ra rb sc, Instr.readsBack (.div rd ra rb sc)) ∧
    (∀ rd ra rb sc, Instr.readsBack (.divn rd ra rb sc)) ∧ (∀ rd ra rb sc, Instr.readsBack (.rem rd ra rb sc)) ∧
    (∀ rd ra rb sc, Instr.readsBack (.remn rd ra rb sc)) ∧ (∀ rd ra rb k sc, Instr.readsBack (.lea rd ra rb k sc)) ∧
    (∀ rd ra rb sc, Instr.readsBack (.sel rd ra rb sc)) ∧ (∀ rd ra h sc, Instr.readsBack (.slli rd ra h sc)) ∧
    (∀ rd ra h sc, Instr.readsBack (.srli rd ra h sc)) ∧ (∀ rd ra h sc, Instr.readsBack (.srai rd ra h sc)) ∧
    (∀ rd ra sc, Instr.readsBack (.clz rd ra sc)) ∧ (∀ rd ra sc, Instr.readsBack (.ctz rd ra sc)) ∧ (∀ rd ra sc, Instr.readsBack (.popc rd ra sc)) ∧
    (∀ rd ra sc, Instr.readsBack (.sxb rd ra sc)) ∧ (∀ rd ra sc, Instr.readsBack (.sxh rd ra sc)) ∧ (∀ rd ra sc, Instr.readsBack (.sxw rd ra sc)) ∧
    (∀ rd ra sc, Instr.readsBack (.zxb rd ra sc)) ∧ (∀ rd ra sc, Instr.readsBack (.zxh rd ra sc)) ∧ (∀ rd ra sc, Instr.readsBack (.zxw rd ra sc)) := by
  and_intros <;> intros <;> refine .of_word32 rfl rfl (by repeat' constructor) (by decide) fun w h => ?_ <;>
    rw [rawWord32, h.bits_eq (by decide)] <;> dsimp only [decMajor01, decMajor08, decMajor0B] <;>
    repeat refine h.skip (by repeat' constructor) (by decide) ?_
  all_goals exact h.take (by repeat' constructor) (by decide) (by simp [h.fld_eq])

/-- The predicates, branches and control (R89 to R91, R95, R118 to R120). -/
@[simp] theorem readsBack_control :
    (∀ p ra rb sc, Instr.readsBack (.psetEq p ra rb sc)) ∧ (∀ p ra rb sc, Instr.readsBack (.psetNe p ra rb sc)) ∧
    (∀ p ra rb sc, Instr.readsBack (.psetLt p ra rb sc)) ∧ (∀ p ra rb sc, Instr.readsBack (.psetGe p ra rb sc)) ∧
    (∀ p ra rb sc, Instr.readsBack (.psetLtn p ra rb sc)) ∧ (∀ p ra rb sc, Instr.readsBack (.psetGen p ra rb sc)) ∧
    (∀ rd ra rb sc, Instr.readsBack (.pand rd ra rb sc)) ∧ (∀ rd ra rb sc, Instr.readsBack (.por rd ra rb sc)) ∧
    (∀ rd ra sc, Instr.readsBack (.pnot rd ra sc)) ∧ (∀ rd ra sc, Instr.readsBack (.pmovToPredicate rd ra sc)) ∧
    (∀ rd ra sc, Instr.readsBack (.pmovFromPredicate rd ra sc)) ∧ (∀ ra rb o, Instr.readsBack (.beq ra rb o)) ∧
    (∀ ra rb o, Instr.readsBack (.bne ra rb o)) ∧ (∀ ra rb o, Instr.readsBack (.blt ra rb o)) ∧ (∀ ra rb o, Instr.readsBack (.bge ra rb o)) ∧
    (∀ ra rb o, Instr.readsBack (.bltn ra rb o)) ∧ (∀ ra rb o, Instr.readsBack (.bgen ra rb o)) ∧ (∀ p o, Instr.readsBack (.bpt p o)) ∧
    (∀ p o, Instr.readsBack (.bpf p o)) ∧ (∀ ra imm sc, Instr.readsBack (.loop ra imm sc)) ∧ (∀ sc, Instr.readsBack (.done sc)) ∧
    (∀ c sc, Instr.readsBack (.sys c sc)) ∧ (∀ sc, Instr.readsBack (.tret sc)) ∧ (∀ c sc, Instr.readsBack (.brk c sc)) ∧
    (∀ rd r, Instr.readsBack (.ctlrd rd r)) ∧ (∀ rd ra r, Instr.readsBack (.ctlwr rd ra r)) ∧ (∀ rd ra r, Instr.readsBack (.ctlset rd ra r)) ∧
    (∀ rd ra r, Instr.readsBack (.ctlclr rd ra r)) := by
  and_intros <;> intros <;> refine .of_word32 rfl rfl (by repeat' constructor) (by decide) fun w h => ?_ <;>
    rw [rawWord32, h.bits_eq (by decide)] <;> dsimp only [decMajor0F, decMajor10, decMajor11, decMajor14, decMajor15, decMajor16] <;>
    repeat refine h.skip (by repeat' constructor) (by decide) ?_
  all_goals exact h.take (by repeat' constructor) (by decide) (by simp [h.fld_eq])

/-- The full/empty words, atomics, fences and barriers (R115, R180 to R192). -/
@[simp] theorem readsBack_memory :
    (∀ rd ra sc, Instr.readsBack (.ldsync rd ra sc)) ∧ (∀ rd ra sc, Instr.readsBack (.ldtake rd ra sc)) ∧
    (∀ rd ra sc, Instr.readsBack (.stfill rd ra sc)) ∧ (∀ ra rb sc, Instr.readsBack (.feclr ra rb sc)) ∧
    (∀ rd ra rb sc, Instr.readsBack (.stnib rd ra rb sc)) ∧ (∀ rd ra rb z l q c, Instr.readsBack (.amoAdd rd ra rb z l q c)) ∧
    (∀ rd ra rb z l q c, Instr.readsBack (.amoAnd rd ra rb z l q c)) ∧ (∀ rd ra rb z l q c, Instr.readsBack (.amoOr rd ra rb z l q c)) ∧
    (∀ rd ra rb z l q c, Instr.readsBack (.amoXor rd ra rb z l q c)) ∧ (∀ rd ra rb z l q c, Instr.readsBack (.amoMin rd ra rb z l q c)) ∧
    (∀ rd ra rb z l q c, Instr.readsBack (.amoMax rd ra rb z l q c)) ∧ (∀ rd ra rb z l q c, Instr.readsBack (.amoMinn rd ra rb z l q c)) ∧
    (∀ rd ra rb z l q c, Instr.readsBack (.amoMaxn rd ra rb z l q c)) ∧ (∀ rd ra rb z l q c, Instr.readsBack (.amoSwap rd ra rb z l q c)) ∧
    (∀ rd ra rb z l q c, Instr.readsBack (.amoCas rd ra rb z l q c)) ∧ (∀ rd ra rb z l q c, Instr.readsBack (.amoFadd rd ra rb z l q c)) ∧
    (∀ rd ra rb z l q c, Instr.readsBack (.amoFmax rd ra rb z l q c)) ∧ (∀ p u c sc, Instr.readsBack (.fence p u c sc)) ∧
    (∀ c sc, Instr.readsBack (.acq c sc)) ∧ (∀ c sc, Instr.readsBack (.rel c sc)) ∧ (∀ sc, Instr.readsBack (.l1inv sc)) ∧
    (∀ ra sc, Instr.readsBack (.l2wb ra sc)) ∧ (∀ ra sc, Instr.readsBack (.l2zero ra sc)) ∧ (∀ ra sc, Instr.readsBack (.pfetch ra sc)) ∧
    (∀ rd ra rb m sc, Instr.readsBack (.wfa rd ra rb m sc)) ∧ (∀ rd ra rb m sc, Instr.readsBack (.wfp rd ra rb m sc)) ∧
    (∀ rd ra rb m sc, Instr.readsBack (.arr rd ra rb m sc)) ∧ (∀ rd ra rb m sc, Instr.readsBack (.arrx rd ra rb m sc)) := by
  and_intros <;> intros <;> refine .of_word32 rfl rfl (by repeat' constructor) (by decide) fun w h => ?_ <;>
    rw [rawWord32, h.bits_eq (by decide)] <;> dsimp only [decMajor1C, decMajor1D, decMajor1E, decMajor1F, decMajor20] <;>
    repeat refine h.skip (by repeat' constructor) (by decide) ?_
  all_goals exact h.take (by repeat' constructor) (by decide) (by simp [h.fld_eq])

/-- The invocation and copies (R101 to R110, R244 to R254). -/
@[simp] theorem readsBack_invocation :
    (∀ rd ra rb sc, Instr.readsBack (.inv rd ra rb sc)) ∧ (∀ ra rb sc, Instr.readsBack (.invp ra rb sc)) ∧
    (∀ ra sc, Instr.readsBack (.reply ra sc)) ∧ (∀ ra sc, Instr.readsBack (.replyDatum ra sc)) ∧
    (∀ ra rb sc, Instr.readsBack (.replyLocalPromise ra rb sc)) ∧ (∀ ra rb sc, Instr.readsBack (.replyDatumLocalPromise ra rb sc)) ∧
    (∀ ra sc, Instr.readsBack (.rbreak ra sc)) ∧ (∀ ra rb sc, Instr.readsBack (.rbreakLocalPromise ra rb sc)) ∧
    (∀ ra rb sc, Instr.readsBack (.spawn ra rb sc)) ∧ (∀ rd sc, Instr.readsBack (.hnew rd sc)) ∧ (∀ ra sc, Instr.readsBack (.hdrop ra sc)) ∧
    (∀ rd ra sc, Instr.readsBack (.hstat rd ra sc)) ∧ (∀ ra rb sc, Instr.readsBack (.when ra rb sc)) ∧
    (∀ t ra sc, Instr.readsBack (.tmset t ra sc)) ∧ (∀ t sc, Instr.readsBack (.tmclr t sc)) ∧ (∀ t ra sc, Instr.readsBack (.xsrcLocal t ra sc)) ∧
    (∀ t sc, Instr.readsBack (.xsrcImageBase t sc)) ∧ (∀ t ra rb sc, Instr.readsBack (.xsrcRemote t ra rb sc)) ∧
    (∀ t ra sc, Instr.readsBack (.xdstLocal t ra sc)) ∧ (∀ t sc, Instr.readsBack (.xdstImageBase t sc)) ∧
    (∀ o sc, Instr.readsBack (.xdstRing o sc)) ∧ (∀ t ra rb sc, Instr.readsBack (.xdstRemote t ra rb sc)) ∧
    (∀ ra rb sc, Instr.readsBack (.xset ra rb sc)) ∧ (∀ ra rb sc, Instr.readsBack (.xsetPost ra rb sc)) ∧
    (∀ ra rb sc, Instr.readsBack (.xsetAct ra rb sc)) ∧ (∀ ra sc, Instr.readsBack (.xsetChain ra sc)) ∧ (∀ rd sc, Instr.readsBack (.xgo rd sc)) ∧
    (∀ rd ra rb sc, Instr.readsBack (.xloop rd ra rb sc)) ∧ (∀ ra sc, Instr.readsBack (.xrel ra sc)) ∧
    (∀ rd ra rb sc, Instr.readsBack (.xarm rd ra rb sc)) ∧ (∀ rd ra sc, Instr.readsBack (.xstat rd ra sc)) ∧
    (∀ rd ra sc, Instr.readsBack (.xcancel rd ra sc)) := by
  and_intros <;> intros <;> refine .of_word32 rfl rfl (by repeat' constructor) (by decide) fun w h => ?_ <;>
    rw [rawWord32, h.bits_eq (by decide)] <;> dsimp only [decMajor22, decMajor23] <;>
    repeat refine h.skip (by repeat' constructor) (by decide) ?_
  all_goals exact h.take (by repeat' constructor) (by decide) (by simp [h.fld_eq])

/-- The vectors and streams (R220 to R229). -/
@[simp] theorem readsBack_vectors :
    (∀ rd ra rb m sc, Instr.readsBack (.fadd rd ra rb m sc)) ∧ (∀ rd ra rb m sc, Instr.readsBack (.fsub rd ra rb m sc)) ∧
    (∀ rd ra rb m sc, Instr.readsBack (.fmul rd ra rb m sc)) ∧ (∀ rd ra rb m sc, Instr.readsBack (.fmin rd ra rb m sc)) ∧
    (∀ rd ra rb m sc, Instr.readsBack (.fmax rd ra rb m sc)) ∧ (∀ rd ra m sc, Instr.readsBack (.fabs rd ra m sc)) ∧
    (∀ rd ra m sc, Instr.readsBack (.fneg rd ra m sc)) ∧ (∀ rd ra rb m sc, Instr.readsBack (.fsel rd ra rb m sc)) ∧
    (∀ rd ra m sc, Instr.readsBack (.fmv rd ra m sc)) ∧ (∀ rd ra rb m sc, Instr.readsBack (.fdiv rd ra rb m sc)) ∧
    (∀ rd ra m sc, Instr.readsBack (.fsqrt rd ra m sc)) ∧ (∀ rd ra rb c f sc, Instr.readsBack (.fma rd ra rb c f sc)) ∧
    (∀ rd ra rb c f sc, Instr.readsBack (.fnma rd ra rb c f sc)) ∧ (∀ rd ra m sc, Instr.readsBack (.frcp rd ra m sc)) ∧
    (∀ rd ra m sc, Instr.readsBack (.frsq rd ra m sc)) ∧ (∀ rd ra m sc, Instr.readsBack (.fexp2 rd ra m sc)) ∧
    (∀ rd ra m sc, Instr.readsBack (.flog2 rd ra m sc)) ∧ (∀ rd ra m sc, Instr.readsBack (.fsum rd ra m sc)) ∧
    (∀ rd ra m sc, Instr.readsBack (.fmaxr rd ra m sc)) ∧ (∀ p k ra rb m sc, Instr.readsBack (.fcmp p k ra rb m sc)) ∧
    (∀ f ra rb m sc, Instr.readsBack (.sscfg f ra rb m sc)) ∧ (∀ f sc, Instr.readsBack (.ssen f sc)) ∧
    (∀ rd f sc, Instr.readsBack (.ssdis rd f sc)) ∧ (∀ rd ra rb m sc, Instr.readsBack (.fpack rd ra rb m sc)) ∧
    (∀ rd ra h m sc, Instr.readsBack (.funpack rd ra h m sc)) ∧ (∀ rd ra rb m sc, Instr.readsBack (.fshuf rd ra rb m sc)) := by
  and_intros <;> intros <;> refine .of_word32 rfl rfl (by repeat' constructor) (by decide) fun w h => ?_ <;>
    rw [rawWord32, h.bits_eq (by decide)] <;> dsimp only [decMajor24, decMajor25, decMajor26, decMajor28] <;>
    repeat refine h.skip (by repeat' constructor) (by decide) ?_
  all_goals exact h.take (by repeat' constructor) (by decide) (by simp [h.fld_eq])

/-- The matrix unit and Meridian (R271 to R297). -/
@[simp] theorem readsBack_matrix :
    (∀ n ra sc, Instr.readsBack (.mring n ra sc)) ∧ (∀ n ra rb sc, Instr.readsBack (.mringScale n ra rb sc)) ∧
    (∀ ra rb m sc, Instr.readsBack (.mma ra rb m sc)) ∧ (∀ c ra rb m sc, Instr.readsBack (.mmaq c ra rb m sc)) ∧
    (∀ sc, Instr.readsBack (.mzero sc)) ∧ (∀ sc, Instr.readsBack (.mswap sc)) ∧ (∀ ra sc, Instr.readsBack (.mepi ra sc)) ∧
    (∀ rd ra sc, Instr.readsBack (.mtopk rd ra sc)) ∧ (∀ ra sc, Instr.readsBack (.mseed ra sc)) ∧ (∀ rd ra sc, Instr.readsBack (.mstat rd ra sc)) ∧
    (∀ ra rb sc, Instr.readsBack (.merLoadTile ra rb sc)) ∧ (∀ ra rb sc, Instr.readsBack (.merLoadCand ra rb sc)) ∧
    (∀ ra sc, Instr.readsBack (.merCap ra sc)) ∧ (∀ ra sc, Instr.readsBack (.merCapAll ra sc)) ∧ (∀ ra rb sc, Instr.readsBack (.merCfg ra rb sc)) ∧
    (∀ rd sc, Instr.readsBack (.merGo rd sc)) ∧ (∀ rd sc, Instr.readsBack (.merStat rd sc)) ∧ (∀ ra rb sc, Instr.readsBack (.merOut ra rb sc)) ∧
    (∀ rd ra sc, Instr.readsBack (.merBias rd ra sc)) ∧ (∀ rd ra sc, Instr.readsBack (.merBiasAdd rd ra sc)) ∧
    (∀ rd ra sc, Instr.readsBack (.merBiasCopy rd ra sc)) ∧ (∀ rd ra sc, Instr.readsBack (.merSnap rd ra sc)) ∧
    (∀ rd ra sc, Instr.readsBack (.merSnapBias rd ra sc)) := by
  and_intros <;> intros <;> refine .of_word32 rfl rfl (by repeat' constructor) (by decide) fun w h => ?_ <;>
    rw [rawWord32, h.bits_eq (by decide)] <;> dsimp only [decMajor29, decMajor2A] <;>
    repeat refine h.skip (by repeat' constructor) (by decide) ?_
  all_goals exact h.take (by repeat' constructor) (by decide) (by simp [h.fld_eq])

/-- The launch unit, windows and supervisor (R123, R193, R302 to R342). -/
@[simp] theorem readsBack_launch :
    (∀ q ra sc, Instr.readsBack (.lqPush q ra sc)) ∧ (∀ rd q sc, Instr.readsBack (.lqStat rd q sc)) ∧
    (∀ ra rb sc, Instr.readsBack (.evSig ra rb sc)) ∧ (∀ ra rb sc, Instr.readsBack (.evSigSet ra rb sc)) ∧
    (∀ rd ra c sc, Instr.readsBack (.cqPop rd ra c sc)) ∧ (∀ p ra c sc, Instr.readsBack (.cqPopAct p ra c sc)) ∧
    (∀ rd sc, Instr.readsBack (.rfence rd sc)) ∧ (∀ rd ra sc, Instr.readsBack (.rflush rd ra sc)) ∧
    (∀ rd ra sc, Instr.readsBack (.svResume rd ra sc)) ∧ (∀ rd ra rb sc, Instr.readsBack (.svResumeX10 rd ra rb sc)) ∧
    (∀ rd ra sc, Instr.readsBack (.svBreak rd ra sc)) ∧ (∀ rd ra sc, Instr.readsBack (.svFreeze rd ra sc)) ∧
    (∀ rd ra sc, Instr.readsBack (.svThaw rd ra sc)) ∧ (∀ rd ra rb sc, Instr.readsBack (.svSave rd ra rb sc)) ∧
    (∀ rd ra rb sc, Instr.readsBack (.svLoad rd ra rb sc)) ∧ (∀ rd ra rb sc, Instr.readsBack (.tlbinv rd ra rb sc)) := by
  and_intros <;> intros <;> refine .of_word32 rfl rfl (by repeat' constructor) (by decide) fun w h => ?_ <;>
    rw [rawWord32, h.bits_eq (by decide)] <;> dsimp only [decMajor2B, decMajor2C, decMajor2D] <;>
    repeat refine h.skip (by repeat' constructor) (by decide) ?_
  all_goals exact h.take (by repeat' constructor) (by decide) (by simp [h.fld_eq])

/-- The 16-bit forms whose bit 15 is a field (R64). -/
@[simp] theorem readsBack_compressedOnly :
    (∀ rd imm, Instr.readsBack (.cAddi rd imm)) ∧ (∀ rd imm, Instr.readsBack (.cLi rd imm)) ∧ (∀ rd h, Instr.readsBack (.cSlli rd h)) ∧
    (∀ rd h, Instr.readsBack (.cSrli rd h)) ∧ (∀ rd ra o, Instr.readsBack (.cLd rd ra o)) ∧ (∀ rd ra o, Instr.readsBack (.cSd rd ra o)) ∧
    (∀ ra o, Instr.readsBack (.cBeqz ra o)) ∧ (∀ ra o, Instr.readsBack (.cBnez ra o)) ∧ (∀ o, Instr.readsBack (.cJ o)) := by
  and_intros <;> intros <;> refine .of_word16 rfl rfl (by repeat' constructor) (by decide) fun w h => ?_ <;>
    rw [rawWord16, h.bits_eq (by decide)] <;> exact congrArg some (by simp [h.fld_eq])

/-- The 16-bit forms with fixed bits (R64). -/
@[simp] theorem readsBack_compressed :
    (∀ rd rb, Instr.readsBack (.cMv rd rb)) ∧ (∀ rd rb, Instr.readsBack (.cAdd rd rb)) ∧ (∀ rd rb, Instr.readsBack (.cSub rd rb)) ∧
    (∀ rd rb, Instr.readsBack (.cAnd rd rb)) ∧ (∀ rd rb, Instr.readsBack (.cOr rd rb)) ∧ Instr.readsBack .cDone := by
  and_intros <;> intros <;> refine .of_word16 rfl rfl (by repeat' constructor) (by decide) fun w h => ?_ <;>
    rw [rawWord16, h.bits_eq (by decide)] <;> exact h.take (by repeat' constructor) (by decide) (by simp [h.fld_eq])

/-- Every encoded instruction has a word, which the table gives back. -/
theorem Instr.readsBack_of_encoded (i : Instr) (h : i.encoded = true) : i.readsBack := by
  cases i <;> cases h <;> simp

/-! ## From a word to its instruction -/

/-- The list `l` holds the fields of `w` that lie in the mask `m`. -/
inductive Cuts (w m₀ : Nat) : List (Nat × Nat) → Nat → Prop
  | nil : Cuts w m₀ [] m₀
  | cons {m lo n : Nat} {l : List (Nat × Nat)} : Cuts w m₀ l m → m &&& fieldMask lo n = 0 →
      Cuts w m₀ (((fld w lo n).toNat, lo) :: l) (fieldMask lo n ||| m)

/-- A word is made of its fixed bits and its fields. -/
theorem Cuts.pack_eq {w c m₀ m : Nat} {l : List (Nat × Nat)} (h : Cuts w m₀ l m) (hc : w &&& m₀ = c) : pack c l = w &&& m := by
  induction h with
  | nil => exact hc.symm
  | @cons m lo n l _ hfree ih =>
    have hclear : w &&& m &&& fieldMask lo n = 0 := by rw [Nat.and_assoc, hfree, Nat.and_zero]
    refine Nat.eq_of_testBit_eq fun j => ?_
    rw [pack, ih, testBit_add_field (fld w lo n).isLt hclear, toNat_fld, testBit_bits]
    simp only [Nat.testBit_and, Nat.testBit_or, testBit_fieldMask]
    split
    · next hin => simp [hin]
    · next hout =>
      have hout : (decide (lo ≤ j) && decide (j - lo < n)) = false := by simpa using hout
      rw [hout, Bool.false_or]

/-- What a row of the decoder's table answers is an encoded instruction of length `len` whose word is `w`. -/
def Owns (w len : Nat) (o : Option Instr) : Prop := ∀ i, o = some i → i.encoded = true ∧ encodeWord i = some w ∧ i.len = len

theorem Owns.none (w len : Nat) : Owns w len none := nofun

section rows
variable {w len m₀ c₀ m' : Nat} {i : Instr} {l : List (Nat × Nat)} (hw : w < 2 ^ (8 * len)) (h₀ : w &&& m₀ = c₀)
include hw h₀

/-- A row without a test: the fixed bits `c₀` and the fields of its instruction make up the whole word. -/
theorem Owns.only (henc : encodeWord i = some (pack c₀ l)) (hi : i.encoded = true ∧ i.len = len) (hcut : Cuts w m₀ l m')
    (hall : m' = 2 ^ (8 * len) - 1) : Owns w len (some i) := by
  rintro _ ⟨⟩
  refine ⟨hi.1, ?_, hi.2⟩
  rw [henc, hcut.pack_eq h₀, hall, Nat.and_two_pow_sub_one_eq_mod, Nat.mod_eq_of_lt hw]

/-- A row with a test, which fixes further bits. -/
theorem Owns.row {m c : Nat} {p : Prop} [Decidable p] {o : Option Instr} (hfix : Fixes w p m c)
    (henc : encodeWord i = some (pack (c ||| c₀) l)) (hi : i.encoded = true ∧ i.len = len) (hcut : Cuts w (m ||| m₀) l m')
    (hall : m' = 2 ^ (8 * len) - 1) (ho : Owns w len o) : Owns w len (if p then some i else o) := by
  split
  · next hp => exact .only hw (by rw [Nat.and_or_distrib_left, hfix.iff.1 hp, h₀]) henc hi hcut hall
  · exact ho

end rows

/-- The rows of the group instructions. -/
theorem owns_decMajor21 {w : Nat} (hw : w < 2 ^ 32) (hmajor : w &&& 127 = 67) : Owns w 4 (decMajor21 w) := by
  obtain ⟨hlow, hhigh⟩ := group_fields w
  unfold decMajor21
  repeat refine .row hw hmajor (by repeat' constructor) rfl ⟨rfl, rfl⟩
              (by simp only [group_low, group_high, hlow, hhigh]; repeat' constructor) (by rfl) ?_
  exact .none w 4

/-- Every row of the 32-bit table owns the words that it decodes. -/
theorem owns_rawWord32 {w : Nat} (hw : w < 2 ^ 32) (hodd : w % 2 = 1) : Owns w 4 (rawWord32 w) := by
  have hmajor : ∀ {m}, bits w 1 6 = m → w &&& 127 = m * 2 + 1 := by
    intro m hm
    rw [show 127 = 2 ^ 7 - 1 from rfl, Nat.and_two_pow_sub_one_eq_mod]
    simp only [bits] at hm
    omega
  unfold rawWord32
  split
  case h_2 | h_3 | h_4 | h_5 | h_6 | h_7 | h_9 | h_10 | h_12 | h_13 | h_14 | h_18 | h_19 | h_23 | h_24 | h_25 | h_26 | h_27 | h_39 =>
    next hm => exact .only hw (hmajor hm) rfl ⟨rfl, rfl⟩ (by repeat' constructor) (by rfl)
  case h_33 => next hm => exact owns_decMajor21 hw (hmajor hm)
  case h_46 => exact .none w 4
  all_goals
    next hm =>
    dsimp only [decMajor01, decMajor08, decMajor0B, decMajor0F, decMajor10, decMajor11, decMajor14, decMajor15, decMajor16, decMajor1C, decMajor1D, decMajor1E,
      decMajor1F, decMajor20, decMajor22, decMajor23, decMajor24, decMajor25, decMajor26, decMajor28, decMajor29, decMajor2A, decMajor2B, decMajor2C,
      decMajor2D]
    repeat refine .row hw (hmajor hm) (by repeat' constructor) rfl ⟨rfl, rfl⟩ (by repeat' constructor) (by rfl) ?_
    exact .none w 4

/-- Every row of the 16-bit table owns the words that it decodes. -/
theorem owns_rawWord16 {w : Nat} (hw : w < 2 ^ 16) (heven : w % 2 = 0) : Owns w 2 (rawWord16 w) := by
  have hop : ∀ {m}, bits w 1 4 = m → w &&& 31 = m * 2 := by
    intro m hm
    rw [show 31 = 2 ^ 5 - 1 from rfl, Nat.and_two_pow_sub_one_eq_mod]
    simp only [bits] at hm
    omega
  unfold rawWord16
  split
  case h_16 => exact .none w 2
  case h_1 | h_2 | h_3 | h_6 | h_7 | h_15 => next hm =>
    exact .row hw (hop hm) (by repeat' constructor) rfl ⟨rfl, rfl⟩ (by repeat' constructor) (by rfl) (.none w 2)
  all_goals next hm => exact .only hw (hop hm) rfl ⟨rfl, rfl⟩ (by repeat' constructor) (by rfl)

/-! ## The bytes of an instruction -/

/-- The instruction of a word that the table reads, if it is well formed. -/
theorem decodeWord_eq_some {w : Nat} {i : Instr} :
    decodeWord w = some i ↔ (if w % 2 = 1 then rawWord32 w else rawWord16 w) = some i ∧ i.wf = true := by
  rw [decodeWord, Option.filter_eq_some_iff]

theorem decode_leBytes_two {w : Nat} {i : Instr} (hw : w < 2 ^ 16) (heven : w % 2 = 0) (hdec : decodeWord w = some i) (rest : List Byte) :
    decode (leBytes 2 w ++ rest) = .instr i 2 := by
  have hhalf : half (BitVec.ofNat 8 (w / 2 ^ (8 * 0))) (BitVec.ofNat 8 (w / 2 ^ (8 * 1))) = w := by
    simp only [half, BitVec.toNat_ofNat]
    omega
  have hbit : (BitVec.ofNat 8 (w / 2 ^ (8 * 0))).toNat % 2 = 0 := by
    simp only [BitVec.toNat_ofNat]
    omega
  show decode (_ :: _ :: rest) = _
  simp only [decode, if_pos hbit, hhalf, hdec]

theorem decode_leBytes_four {w : Nat} {i : Instr} (hw : w < 2 ^ 32) (hodd : w % 2 = 1) (hdec : decodeWord w = some i) (rest : List Byte) :
    decode (leBytes 4 w ++ rest) = .instr i 4 := by
  have hword : half (BitVec.ofNat 8 (w / 2 ^ (8 * 0))) (BitVec.ofNat 8 (w / 2 ^ (8 * 1))) +
      65536 * half (BitVec.ofNat 8 (w / 2 ^ (8 * 2))) (BitVec.ofNat 8 (w / 2 ^ (8 * 3))) = w := by
    simp only [half, BitVec.toNat_ofNat]
    omega
  have hbit : (BitVec.ofNat 8 (w / 2 ^ (8 * 0))).toNat % 2 ≠ 0 := by
    simp only [BitVec.toNat_ofNat]
    omega
  show decode (_ :: _ :: _ :: _ :: rest) = _
  simp only [decode, if_neg hbit, hword, hdec]

/-- Settles O56, word by word. -/
theorem wordsDecodeAsTheTablesSay : Obligations.WordsDecodeAsTheTablesSay := by
  unfold Obligations.WordsDecodeAsTheTablesSay
  decide +kernel

/-- Settles O57: every encoded instruction's word reads back, and every row of the decoder's table owns the words it decodes. -/
theorem encodingRoundTrips : Obligations.EncodingRoundTrips := by
  unfold Obligations.EncodingRoundTrips
  refine ⟨fun i hwf hencoded => ?_, fun w i hw hdec => ?_⟩
  · obtain ⟨w, henc, ⟨hlen, hlt, hpar, hraw⟩ | ⟨hlen, hlt, hpar, hraw⟩⟩ := i.readsBack_of_encoded hencoded <;>
      have hdec : decodeWord w = some i := decodeWord_eq_some.2 ⟨by simpa [hpar] using hraw, hwf⟩ <;>
      refine ⟨w, leBytes i.len w, henc, by rwa [hlen], by rwa [hlen], hdec, by rw [encode, henc]; rfl, by simp [leBytes], ?_⟩ <;> rw [hlen]
    · exact decode_leBytes_two hlt hpar hdec
    · exact decode_leBytes_four hlt hpar hdec
  · obtain ⟨hraw, hwf⟩ := decodeWord_eq_some.1 hdec
    refine ⟨hwf, ?_⟩
    rcases Nat.mod_two_eq_zero_or_one w with hpar | hpar <;> simp only [hpar] at hraw hw ⊢
    · exact owns_rawWord16 hw hpar i hraw
    · exact owns_rawWord32 hw hpar i hraw

end Sys2Proof

namespace Sys2Proof.Machine

/-! # The 16-bit arithmetic, branch and jump forms (O6) -/

/-- The target of a PC-relative transfer as R90 writes it: the offset doubled, added to the PC. -/
theorem State.target_eq {n : Nat} (o : BitVec n) (s : State) : s.target o = s.me.pc + o.signExtend 48 * 2 := by
  have hdouble : ∀ a : BitVec 48, a <<< 1 = a * 2 := fun a => by bv_omega
  rw [State.target, hdouble]

/-- The branch forms by the proposition that they test. -/
theorem State.branch_decide {n : Nat} (len : Nat) (taken : Prop) [Decidable taken] (o : BitVec n) (s : State) :
    s.branches taken (s.me.pc + o.signExtend 48 * 2) len (s.branch len (decide taken) o) := by
  have h := s.branch_branches len (decide taken) o
  rwa [decide_eq_true_eq, s.target_eq] at h

/-- A jump to a PC-relative target is a branch that is always taken. -/
theorem State.jump_target_branches {n : Nat} (len : Nat) (o : BitVec n) (s : State) :
    s.branches True (s.me.pc + o.signExtend 48 * 2) len (s.jump (s.target o) 0) := by
  simpa [State.branch] using s.branch_decide len True o

/-- Settles O6: a result form is a write of latency 1 and a retirement of two bytes, a transfer the branch or jump of the
32-bit forms at that length. -/
theorem compressedArithmeticExpands : Obligations.CompressedArithmeticExpands := by
  intro s rd ra rb i j
  have hresult : ∀ v, s.setsX rd v 2 0 (s.aluC rd v) := fun v => s.setX_setsX rd v 2 0
  exact ⟨⟨_, rfl, hresult _⟩, ⟨_, rfl, hresult _⟩, ⟨_, rfl, hresult _⟩, ⟨_, rfl, hresult _⟩, ⟨_, rfl, hresult _⟩, ⟨_, rfl, hresult _⟩,
    ⟨_, rfl, hresult _⟩, ⟨_, rfl, hresult _⟩, ⟨_, rfl, hresult _⟩, ⟨_, rfl, s.branch_decide 2 (s.x ra = 0) i⟩,
    ⟨_, rfl, s.branch_decide 2 (s.x ra ≠ 0) i⟩, ⟨_, rfl, s.jump_target_branches 2 j⟩⟩

end Sys2Proof.Machine

namespace Sys2Proof.Machine

/-! # sys, brk and tret (O7) -/

/-! ## Frames of a trap that follows a retirement -/

theorem State.onlySlot.onlyTells {k : Nat} {s u t : State} (h : s.onlySlot k u) (h' : u.onlyTells k t) : s.onlyTells k t := by
  refine ⟨?_, fun j hj => (h'.2 j hj).trans (h.2 j hj)⟩
  rw [h'.1, h.1]

theorem State.onlyTells.modSlot {k : Nat} {s t : State} (h : s.onlyTells k t) (f : Slot → Slot) : s.onlyTells k (t.modSlot k f) := by
  refine ⟨?_, fun j hj => (State.slot_modSlot_other hj f t).trans (h.2 j hj)⟩
  have hmod := (State.onlySlot_modSlot k f t).1
  rw [hmod, h.1]

theorem State.onlyTells.cur {k : Nat} {s t : State} (h : s.onlyTells k t) : t.cur = s.cur := by rw [h.1]

theorem State.slot_fatal (cause k : Nat) (s : State) : (s.fatal cause).slot k = s.slot k := rfl

/-- A slot that takes a trap may issue from the next cycle on. -/
theorem State.trapAt_ready (k cause : Nat) (addr : Word) (pc : BitVec 48) (s : State) (hc : cause ≠ cPOISON) :
    ((s.trapAt k cause addr pc none).slot k).ready = s.cycle + 1 := by
  unfold State.trapAt
  dsimp only
  split
  · split
    · rw [State.slot_fatal, State.slot_modSlot_same]
    · rw [State.slot_modSlot_same, State.slot_modSlot_same]
  · rw [if_neg fun h => hc h.1, State.slot_modSlot_same, (State.tellHandler_tells ..).slot, State.slot_modSlot_same]

/-! ## sys and brk -/

/-- What `retire` leaves in the slot in hand. -/
theorem State.me_retire (len sc : Nat) (s : State) : (s.retire len sc).me = (s.me.seq len).retired1 (s.cycle + 1 + sc) := State.me_modMe ..

/-- The retirement before the trap leaves what every register reads once the results under way have landed. -/
theorem State.xEnd_retire (len sc : Nat) (s : State) (q : Reg) : (s.retire len sc).me.xEnd q = s.me.xEnd q := by
  obtain ⟨-, -, ⟨hx, hf, hp, hpend⟩, -⟩ := s.retire_stepsOnly len sc
  exact Slot.xEnd_congr hx hf hp hpend q

/-- `sys` and `brk`: a retirement of four bytes, then a trap with the instruction's own address, and the stall count kept for the
resumption. -/
theorem State.trapAfter_trapped (cause : Nat) (code : Word) (sc : Nat) (s : State) (hc : cause ≠ cPOISON) :
    ∃ t, s.trapAfter cause code sc = t.modMe (fun sl => { sl with tsc := sc }) ∧
      (s.retire 4 sc).trapped s.cur cause code s.me.pc none t ∧ t.cur = s.cur ∧ (t.slot s.cur).ready = s.cycle + 1 :=
  have htrapped := (s.retire 4 sc).trapAt_trapped s.cur cause code s.me.pc none fun h => absurd h hc
  ⟨_, rfl, htrapped, htrapped.1.cur, State.trapAt_ready _ _ _ _ (s.retire 4 sc) hc⟩

/-- R118 and R119 for an instruction that retires and then traps with `cause` and `code`. -/
theorem State.trapAfter_spec (cause : Nat) (code : Word) (sc : Nat) (s : State) (hc : cause ≠ cPOISON) :
    let t := s.trapAfter cause code sc
    s.onlyTells s.cur t ∧ t.me.tcause = BitVec.ofNat 8 cause ∧ t.me.taddr = code ∧ t.me.tpc = s.me.pc ∧
      t.me.retired = s.me.retired + 1 ∧ t.me.lcount = (s.me.seq 4).lcount ∧ (∀ q, t.me.getX q = s.me.xEnd q) ∧
      (isSup s.myCore = false → t.me.park = .trap none ∧ t.me.pc = (s.me.seq 4).pc ∧ t.me.ready = s.cycle + 1 ∧ t.me.tsc = sc ∧ t.halted = s.halted) ∧
      (isSup s.myCore = true → s.me.intrap = false → s.me.vec ≠ 0 →
        t.me.intrap = true ∧ t.me.pc = evenPc s.me.vec ∧ t.me.ready = s.cycle + 1 ∧ t.me.tsc = sc ∧ t.halted = s.halted) ∧
      (isSup s.myCore = true → (s.me.intrap = true ∨ s.me.vec = 0) → t.halted = some 1) := by
  obtain ⟨hframe, -, -, hpc, hlcount, hretired, -⟩ := s.retire_stepsOnly 4 sc
  have hkept : (s.retire 4 sc).me.intrap = s.me.intrap ∧ (s.retire 4 sc).me.vec = s.me.vec := by
    rw [State.me_retire]; exact ⟨by simp, by simp⟩
  obtain ⟨hintrap, hvec⟩ := hkept
  obtain ⟨t, ht, ⟨htells, hregs, hcompute, hsup, hfatal⟩, hcur, hready⟩ := s.trapAfter_trapped cause code sc hc
  obtain ⟨hcause, haddr, htpc, hx, -, -, -, hlc, hret⟩ := hregs
  have hme : (t.modMe fun sl => { sl with tsc := sc }).me = { t.slot s.cur with tsc := sc } := by
    rw [State.me_modMe, State.me, hcur]
  intro t'
  have ht' : t' = t.modMe fun sl => { sl with tsc := sc } := ht
  rw [ht', hme]
  refine ⟨?_, hcause, haddr, htpc, hret.trans hretired, hlc.trans hlcount, fun q => ?_, fun hcore => ?_, fun hcore hin hv => ?_,
    fun hcore h => hfatal hcore (h.imp hintrap.trans hvec.trans)⟩
  · rw [State.modMe, hcur]
    exact (hframe.onlyTells htells).modSlot _
  · calc ({ t.slot s.cur with tsc := sc } : Slot).getX q = (s.retire 4 sc).me.xEnd q := by unfold Slot.getX Slot.xEnd; rw [hx]; rfl
      _ = s.me.xEnd q := s.xEnd_retire 4 sc q
  · obtain ⟨hpark, hpc', hhalt⟩ := hcompute hcore
    exact ⟨hpark, hpc'.trans hpc, hready, rfl, hhalt⟩
  · obtain ⟨hin', hpc', -, hhalt⟩ := hsup hcore (hintrap.trans hin) fun h => hv (hvec.symm.trans h)
    exact ⟨hin', hpc'.trans (congrArg evenPc hvec), hready, rfl, hhalt⟩

/-! ## tret and the resumption -/

/-- R119: the return from a trap on a supervisor core. -/
theorem State.trapReturn_spec (s : State) :
    s.onlySlot s.cur s.trapReturn ∧ s.me.keepsRegs s.trapReturn.me ∧ s.trapReturn.me.intrap = false ∧
      s.trapReturn.me.retired = s.me.retired + 1 ∧ s.trapReturn.me.ready = s.cycle + 1 + s.me.tsc ∧ s.trapReturn.me.tsc = 0 ∧
      s.trapReturn.me.pc = evenPc (if s.me.tcause.toNat = cSYS ∨ s.me.tcause.toNat = cBREAK then s.me.tpc + 4 else s.me.tpc) := by
  have hcode : ∀ c : Nat, c < 256 → (s.me.tcause = BitVec.ofNat 8 c ↔ s.me.tcause.toNat = c) := fun c hc => by
    rw [← BitVec.toNat_inj, BitVec.toNat_ofNat, Nat.mod_eq_of_lt hc]
  simp only [← hcode cSYS (by decide), ← hcode cBREAK (by decide)]
  refine ⟨State.onlySlot_modMe .., ?_⟩
  rw [State.trapReturn, State.me_modMe]
  exact ⟨⟨by simp, by simp, by simp, by simp⟩, rfl, congrArg (· + 1) (Slot.goto_retired ..), rfl, rfl, by simp⟩

/-- R118: the stall count of a `sys` or `brk` runs from the resume of its slot. -/
theorem State.resumeSlot_ready {w : Word} {k : Nat} (x10 : Option Word) {s : State} (hw : slotOf w = some k) (htrap : (s.slot k).park.isTrap = true) :
    ((s.resumeSlot w x10).2.slot k).ready = s.cycle + 1 + (s.slot k).tsc := by
  unfold State.resumeSlot State.unpark
  rw [hw]
  dsimp only
  rw [if_neg (by rw [htrap]; decide), State.slot_modSlot_same]
  cases x10 with
  | none => simp
  | some v => simp

/-- Settles O7: sys and brk are `trapAfter`, and tret is a trap or `trapReturn` by its guard. -/
theorem sysAndBrkRetireThenTrap : Obligations.SysAndBrkRetireThenTrap := by
  refine ⟨fun s code sc i cause h => ?_, fun s sc => ⟨fun hguard => ?_, fun hsup hin => ?_, fun w x10 k => s.resumeSlot_ready x10⟩⟩
  · rcases h with ⟨rfl, rfl⟩ | ⟨rfl, rfl⟩
    · exact ⟨_, rfl, s.trapAfter_spec cSYS _ sc.toNat (by decide)⟩
    · exact ⟨_, rfl, s.trapAfter_spec cBREAK _ sc.toNat (by decide)⟩
  · refine ⟨_, congrArg Host.Outcome.next (if_pos ?_), s.trap_trapsWith cPROTECTION _ (by decide)⟩
    rcases hguard with h | h <;> simp [h]
  · exact ⟨_, congrArg Host.Outcome.next (if_neg (by simp [hsup, hin])), s.trapReturn_spec⟩

end Sys2Proof.Machine

namespace Sys2Proof.Machine

/-! # Stores that retire and stand out (O14) -/

/-! ## The bytes of a store -/

/-- Byte `j` of a number's little-endian bytes. -/
theorem toNat_getElem_toBytes (n v : Nat) {j : Nat} (hj : j < (toBytes n v).length) : (toBytes n v)[j].toNat = v / 256 ^ j % 256 := by
  induction n generalizing v j with
  | zero => exact absurd hj (Nat.not_lt_zero j)
  | succ n ih =>
    cases j with
    | zero => simp [toBytes]
    | succ j =>
      calc (toBytes (n + 1) v)[j + 1].toNat = v / 256 / 256 ^ j % 256 := ih (v / 256) _
        _ = v / 256 ^ (j + 1) % 256 := by rw [Nat.div_div_eq_div_mul, Nat.pow_succ, Nat.mul_comm]

/-! ## Writes that come to stand out -/

/-- Slot `k`'s pending writes grow by `l`, whose performing comes to stand out. -/
def State.queueStores (k : Nat) (l : List PendStore) (s : State) : State :=
  l.foldl (fun (s : State) p => (s.modSlot k fun sl => { sl with stores := sl.stores ++ [p] }).post .storePerformedAtHome (arg2 k 0)) s

theorem State.slot_queueStores (k : Nat) (l : List PendStore) (s : State) :
    (s.queueStores k l).slot k = { s.slot k with stores := (s.slot k).stores ++ l } := by
  induction l generalizing s with
  | nil => simp [State.queueStores]
  | cons p l ih =>
    refine (ih _).trans ?_
    rw [State.post_slot, State.slot_modSlot_same, List.append_assoc]
    rfl

theorem State.work_queueStores (k : Nat) (l : List PendStore) (s : State) :
    (s.queueStores k l).work = s.work ++ List.replicate l.length ⟨.storePerformedAtHome, arg2 k 0⟩ := by
  induction l generalizing s with
  | nil => simp [State.queueStores]
  | cons p l ih =>
    refine (ih _).trans ?_
    show (s.work ++ [_]) ++ _ = _
    rw [List.append_assoc]
    rfl

theorem State.onlySlotPosts.trans {k : Nat} {s t u : State} (h : s.onlySlotPosts k t) (h' : t.onlySlotPosts k u) : s.onlySlotPosts k u := by
  refine ⟨?_, fun j hj => (h'.2 j hj).trans (h.2 j hj)⟩
  rw [h'.1, h.1]

theorem State.onlySlot.posts {k : Nat} {s t : State} (h : s.onlySlot k t) : s.onlySlotPosts k t := by
  refine ⟨?_, h.2⟩
  rw [h.1]

theorem State.queueStores_onlySlotPosts (k : Nat) (l : List PendStore) (s : State) : s.onlySlotPosts k (s.queueStores k l) := by
  induction l generalizing s with
  | nil => exact ⟨rfl, fun _ _ => rfl⟩
  | cons p l ih => exact (State.onlySlot_post (State.onlySlot_modSlot ..) _ _).trans (ih _)

/-- A store of bytes to a home that its cluster's L1 does not hold joins the slot's pending writes, and does no more (R177). -/
theorem State.store_bytes {k : Nat} {h : Home} {s : State}
    (hmiss : ∀ sl pa p ks, h = .dram sl pa p ks → s.l1Has (clusterOf (coreOf k)) pa = false) (l : List Byte) :
    s.store k h (.bytes l) = s.queueStores k (storeParts h (.bytes l)) := by
  cases h with
  | sram c off => rfl
  | dram sl pa p ks =>
    unfold State.store
    simp [StOp.dropsLine, hmiss sl pa p ks rfl, State.queueStores]

/-- The writes of a store of `l` (R155). -/
theorem storeParts_bytes (h : Home) (l : List Byte) :
    storeParts h (.bytes l) = if l.length = 16 then [⟨h, .bytes (l.take 8)⟩, ⟨h.plus 8, .bytes (l.drop 8)⟩] else [⟨h, .bytes l⟩] := rfl

theorem length_storeParts_bytes (h : Home) (l : List Byte) : (storeParts h (.bytes l)).length = if l.length = 16 then 2 else 1 := by
  rw [storeParts_bytes]
  split <;> rfl

/-! ## The instructions -/

/-- A store whose checks pass, that no fence holds back. -/
theorem State.storeAccess_ok {s : State} {ea : Word} {l : List Byte} {h : Home} (hp : s.place ea l.length .store = (.ok h, s))
    (hf : s.fenced s.cur 2 = false) (fin : State → State) : s.storeAccess ea l fin = fin (s.store s.cur h (.bytes l)) := by
  unfold State.storeAccess State.access
  rw [hp]
  dsimp only
  rw [if_neg (by rw [hf]; nofun)]

/-- An instruction that retires with `l` on its way to the home `h`, the slot's writes behind those that stand out already. -/
theorem State.queueStores_retire (l : List PendStore) (len sc : Nat) (s : State) :
    let t := (s.queueStores s.cur l).retire len sc
    s.onlySlotPosts s.cur t ∧ t.work = s.work ++ List.replicate l.length ⟨.storePerformedAtHome, arg2 s.cur 0⟩ ∧
      s.me.keepsRegs t.me ∧ s.stepped len sc t ∧ t.me.stores = s.me.stores ++ l ∧
      { t.me with stores := s.me.stores } =
        { s.me with pc := t.me.pc, lcount := t.me.lcount, retired := t.me.retired, ready := t.me.ready, waited := false } := by
  intro t
  have hposts := s.queueStores_onlySlotPosts s.cur l
  have hcur : (s.queueStores s.cur l).cur = s.cur := by rw [hposts.1]
  have hcycle : (s.queueStores s.cur l).cycle = s.cycle := by rw [hposts.1]
  have hme : (s.queueStores s.cur l).me = { s.me with stores := s.me.stores ++ l } := by
    rw [State.me, hcur, State.slot_queueStores]; rfl
  obtain ⟨hframe, -, ⟨hx, hf, hp, hpend⟩, hstep⟩ := (s.queueStores s.cur l).retire_stepsOnly len sc
  have ht : t.me = (({ s.me with stores := s.me.stores ++ l } : Slot).seq len).retired1 (s.cycle + 1 + sc) := by
    rw [← hme, ← hcycle]; exact State.me_retire ..
  rw [hcur] at hframe
  rw [hme] at hx hf hp hpend
  refine ⟨hposts.trans hframe.posts, s.work_queueStores s.cur l, ⟨hx, hf, hp, hpend⟩,
    State.stepped_congr (by rw [hme]) (by rw [hme]) (by rw [hme]) (by rw [hme]) (by rw [hme]) hcycle hstep, ?_, ?_⟩
  · rw [ht]; simp
  · rw [ht, Slot.seq_eq]; rfl

/-- Settles O14: each form is `storeAccess` of the register's bytes, which joins them to the slot's pending writes and retires. -/
theorem storesRetireAndStandOut : Obligations.StoresRetireAndStandOut := by
  intro s rd ra z imm o sc h i ea n len c v hfence hi hplace hmiss
  have hexec : exec i s = .next (s.storeAccess ea (toBytes n v) fun s => s.retire len c) := by
    rcases hi with ⟨rfl, rfl, rfl, rfl, rfl, rfl⟩ | ⟨rfl, hstream, rfl, rfl, rfl, rfl, rfl⟩ | ⟨rfl, rfl, rfl, rfl, rfl, rfl⟩
    · rfl
    · show execFst rd ra z imm sc s = _
      unfold execFst
      rw [hstream]
      rfl
    · rfl
  have hresult : s.storeAccess ea (toBytes n v) (fun s => s.retire len c) =
      (s.queueStores s.cur (storeParts h (.bytes (toBytes n v)))).retire len c := by
    rw [State.storeAccess_ok (by rwa [toBytes_length]) hfence, State.store_bytes hmiss]
  obtain ⟨hposts, hwork, hregs, hstep, hstores, hrest⟩ := s.queueStores_retire (storeParts h (.bytes (toBytes n v))) len c
  rw [length_storeParts_bytes, toBytes_length] at hwork
  exact ⟨_, hexec.trans (congrArg Host.Outcome.next hresult), hposts, hwork, hregs, hstep,
    ⟨toBytes n v, toBytes_length n v, fun _ hj => toNat_getElem_toBytes n v hj,
      hstores.trans (by rw [storeParts_bytes, toBytes_length])⟩, hrest⟩

end Sys2Proof.Machine

namespace Sys2Proof.Machine

/-! # Loads that park, and the return of their data (O13) -/

/-! ## The load parks -/

/-- The slot in hand parks in the load `ld`, and the return of its data stands out. -/
def State.parkLoad (ld : OutLoad) (len sc : Nat) (s : State) : State :=
  (s.parkMe (.load ld len sc) sc).post .loadDataReturn (arg1 s.cur)

theorem State.parkLoad_spec (ld : OutLoad) (len sc : Nat) (s : State) :
    s.onlySlotPosts s.cur (s.parkLoad ld len sc) ∧ (s.parkLoad ld len sc).work = s.work ++ [⟨.loadDataReturn, arg1 s.cur⟩] ∧
      s.me.parksAs (.load ld len sc) (s.cycle + 1 + sc) (s.parkLoad ld len sc).me := by
  obtain ⟨hframe, hpark⟩ := s.parkMe_spec (.load ld len sc) sc
  exact ⟨State.onlySlot_post hframe _ _, rfl, hpark⟩

/-- A load whose checks pass parks unless it is served locally; one of a discarded page parks with zero for its data (R150). -/
theorem State.load_parks {s u : State} {ea : Word} {n : Nat} {rd : Reg} {toF zero : Bool} {home : Home}
    (hs : toF = true → s.streamAt rd = none) (hf : s.fenced s.cur 1 = false)
    (hp : s.place ea n .load = (.ok home, u) ∧ u.servedLocally u.myCore home = false ∧ zero = false ∨
      s.place ea n .load = (.disc, u) ∧ home = .sram 0 0 ∧ zero = true)
    (i : Sys2Proof.Instr) (signed : Bool) (sc : Nat) :
    s.load i ea n rd toF signed sc = u.parkLoad ⟨ea, home, n, rd.toNat, toF, signed, none, zero, none⟩ i.len sc := by
  have hn : (if toF = true then s.streamAt rd else none) = none := by
    split
    next ht => exact hs ht
    · rfl
  unfold State.load State.access
  dsimp only
  rw [hn, if_neg nofun, if_neg (by rw [hf]; nofun)]
  rcases hp with ⟨hp, hremote, rfl⟩ | ⟨hp, rfl, rfl⟩
  · rw [hp]
    dsimp only
    rw [if_neg (by rw [hremote]; nofun)]
    rfl
  · rw [hp]
    rfl

/-! ## Frames, whichever slot is in hand

A step of another agent takes the slot that it serves in hand for as long as it works on it. -/

theorem State.onlySlot.withCur {k : Nat} {s t : State} (h : s.onlySlot k t) (c : Nat) : State.onlySlot k { s with cur := c } { t with cur := c } :=
  ⟨congrArg (fun x : State => { x with cur := c }) h.1, h.2⟩

theorem State.onlySlotPosts.withCur {k : Nat} {s t : State} (h : s.onlySlotPosts k t) (c : Nat) :
    State.onlySlotPosts k { s with cur := c } { t with cur := c } :=
  ⟨congrArg (fun x : State => { x with cur := c }) h.1, h.2⟩

theorem State.loadEnds.withCur {k len : Nat} {ld : OutLoad} {l : List Byte} {s t : State} (h : s.loadEnds k ld len l t) (c : Nat) :
    State.loadEnds k ld len l { s with cur := c } { t with cur := c } :=
  ⟨h.1.withCur c, h.2⟩

theorem State.trapped.withCur {k cause : Nat} {addr : Word} {pc : BitVec 48} {entry : Option Nat} {s t : State}
    (h : s.trapped k cause addr pc entry t) (c : Nat) : State.trapped k cause addr pc entry { s with cur := c } { t with cur := c } :=
  ⟨⟨congrArg (fun x : State => { x with cur := c }) h.1.1, h.1.2⟩, h.2⟩

/-! ## The end of a parked load -/

/-- What `completeAt` leaves of a slot whose registers `g` has written. -/
theorem State.completeAt_modSlot (g : Slot → Slot) (k len : Nat) (s : State) (hpc : (g (s.slot k)).pc = (s.slot k).pc)
    (hlcount : (g (s.slot k)).lcount = (s.slot k).lcount) (hlstart : (g (s.slot k)).lstart = (s.slot k).lstart)
    (hlend : (g (s.slot k)).lend = (s.slot k).lend) (hretired : (g (s.slot k)).retired = (s.slot k).retired) :
    let t := (s.modSlot k g).completeAt k len
    s.onlySlot k t ∧ (t.slot k).park = .run ∧ (t.slot k).retired = (s.slot k).retired + 1 ∧ (t.slot k).pc = ((s.slot k).seq len).pc ∧
      (t.slot k).x = (g (s.slot k)).x ∧ (t.slot k).f = (g (s.slot k)).f ∧ (t.slot k).p = (g (s.slot k)).p := by
  intro t
  have ht : t.slot k = { (g (s.slot k)).seq len with
      retired := (g (s.slot k)).retired + 1, park := .run, waited := false,
      elapsed := if (g (s.slot k)).frozen then 0 else s.cycle, noticed := false } := by
    refine (State.slot_modSlot_same ..).trans ?_
    rw [State.slot_modSlot_same]
    rfl
  refine ⟨(State.onlySlot_modSlot ..).trans (State.onlySlot_modSlot ..), ?_⟩
  rw [ht]
  exact ⟨rfl, congrArg (· + 1) hretired, (Slot.seq_congr len hpc hlcount hlstart hlend).1, Slot.seq_x .., Slot.seq_f .., Slot.seq_p ..⟩

/-- The data of a parked load goes to its register, and the load retires. -/
theorem State.loaded_ends {k : Nat} {ld : OutLoad} {s : State} (hcur : s.cur = k) (hstream : ld.stream = none) (len : Nat) (l : List Byte) :
    s.loadEnds k ld len l (s.loaded ld l 0 fun s => s.completeAt k len) := by
  subst hcur
  unfold State.loaded
  rw [hstream]
  dsimp only
  cases htoF : ld.toF with
  | true =>
    obtain ⟨hframe, hpark, hret, hpc, hx, hf, hp⟩ :=
      s.completeAt_modSlot (Slot.setF (BitVec.ofNat 5 ld.rd) (BitVec.ofNat 128 (ofBytes l))) s.cur len rfl rfl rfl rfl rfl
    refine ⟨hframe, hpark, hret, hpc, hp, fun h => absurd (htoF.symm.trans h) nofun, fun _ => ⟨hx, fun q => ?_⟩⟩
    rw [← Slot.getF_setF]
    exact congrArg (fun f => look 0 f q.toNat) hf
  | false =>
    obtain ⟨hframe, hpark, hret, hpc, hx, hf, hp⟩ :=
      s.completeAt_modSlot (Slot.setX (BitVec.ofNat 5 ld.rd) (loadValue ld.signed l)) s.cur len (by simp) (by simp) (by simp) (by simp) (by simp)
    refine ⟨hframe, hpark, hret, hpc, hp.trans (by simp), fun _ => ⟨hf.trans (by simp), fun q => ?_⟩, fun h => absurd (htoF.symm.trans h) nofun⟩
    show _ = if q = 0 then 0 else if q = _ then loadValue ld.signed l else _
    rw [← Slot.getX_setX]
    exact congrArg (fun x => if q = 0 then 0 else look 0 x q.toNat) hx

/-! ## A part of a load's data -/

/-- `n` bytes of the load of slot `k` come back from `h`, and `f` goes on with them: `get` of `returnLoad`. -/
def State.returnPart (k : Nat) (ld : OutLoad) (h : Home) (n : Nat) (f : List Byte → State → State) (s : State) : State :=
  if s.closed h then s.trap cPROTECTION ld.addr else
  match (s.settleStores k h n).read (coreOf k) h n with
  | ((l, bad), s) => if bad then s.trap cPOISON ld.addr else f l s

/-- Of `n` bytes at `h`, which no pending store of slot `k` overlaps, the home gives `l`, poisoned if `bad`; `u` is what reading them
leaves, with slot `k` in hand. -/
def State.partReads (k : Nat) (h : Home) (n : Nat) (l : List Byte) (bad : Bool) (s u : State) : Prop :=
  (∀ p ∈ (s.slot k).stores, p.overlaps h n = false) ∧ State.read (coreOf k) h n { s with cur := k } = ((l, bad), u) ∧
    u.slot k = s.slot k ∧ u.cur = k ∧ s.closed h = false

theorem State.returnPart_reads {k n : Nat} {h : Home} {l : List Byte} {bad : Bool} {s u : State} (hpart : s.partReads k h n l bad u)
    (ld : OutLoad) (f : List Byte → State → State) :
    State.returnPart k ld h n f { s with cur := k } = if bad then u.trap cPOISON ld.addr else f l u := by
  obtain ⟨hapart, hread, -, -, hclosed⟩ := hpart
  have hsettled : State.settleStores k h n { s with cur := k } = { s with cur := k } := State.settleStores_apart hapart
  have hopen : State.closed { s with cur := k } h = false := hclosed
  unfold State.returnPart
  rw [if_neg (by rw [hopen]; nofun), hsettled, hread]

/-- Poisoned bytes trap POISON, unless the poison action map ends the activation. -/
theorem State.returnPart_poisoned {k n : Nat} {h : Home} {l : List Byte} {s u : State} (hpart : s.partReads k h n l true u)
    (hpaction : u.chip.paction = 0) (ld : OutLoad) (f : List Byte → State → State) :
    u.trapped k cPOISON ld.addr (s.slot k).pc none (State.returnPart k ld h n f { s with cur := k }) := by
  rw [State.returnPart_reads hpart, if_pos rfl]
  obtain ⟨-, -, hslot, hcur, -⟩ := hpart
  have htrap : u.trap cPOISON ld.addr = u.trapAt k cPOISON ld.addr (s.slot k).pc none := by
    rw [State.trap, State.me, hcur, hslot]
  rw [htrap]
  exact State.trapAt_trapped _ _ _ _ _ _ fun _ _ => by rw [hpaction]; exact BitVec.getLsbD_zero

/-- A home whose scratchpad is in reset traps PROTECTION (log entry 38). -/
theorem State.returnPart_closed {k : Nat} {h : Home} {s : State} (hclosed : s.closed h = true) (ld : OutLoad) (n : Nat)
    (f : List Byte → State → State) :
    State.trapped k cPROTECTION ld.addr (s.slot k).pc none { s with cur := k } (State.returnPart k ld h n f { s with cur := k }) := by
  have hshut : State.closed { s with cur := k } h = true := hclosed
  unfold State.returnPart
  rw [if_pos hshut]
  exact State.trap_trapsWith cPROTECTION ld.addr { s with cur := k } (by decide)

/-! ## The return of the data, by what has come of it -/

/-- `fin` of `returnLoad`: the data `l` is complete. -/
def State.endLoad (k : Nat) (ld : OutLoad) (len : Nat) (l : List Byte) (s : State) : State := s.loaded ld l 0 fun s => s.completeAt k len

/-- The first half of a 128-bit load has come; the slot goes on waiting for the other. -/
def State.keepHalf (k : Nat) (ld : OutLoad) (len sc : Nat) (upper : Bool) (l : List Byte) (s : State) : State :=
  (s.modSlot k fun sl => { sl with park := .load { ld with half := some (upper, l) } len sc }).post .loadDataReturn (arg1 k)

theorem State.slot_keepHalf (k : Nat) (ld : OutLoad) (len sc : Nat) (upper : Bool) (l : List Byte) (s : State) :
    (State.keepHalf k ld len sc upper l s).slot k = { s.slot k with park := .load { ld with half := some (upper, l) } len sc } := by
  rw [State.keepHalf, State.post_slot, State.slot_modSlot_same]

section returns
variable {k len sc : Nat} {ld : OutLoad} {upper : Bool} {s : State}

theorem State.returnLoad_zero (hzero : ld.zero = true) :
    s.returnLoad k ld len sc upper = { State.endLoad k ld len (List.replicate ld.size 0) { s with cur := k } with cur := s.cur } := by
  unfold State.returnLoad
  dsimp only
  rw [if_pos hzero]
  rfl

theorem State.returnLoad_whole (hzero : ld.zero = false) (hsize : ld.size ≠ 16) :
    s.returnLoad k ld len sc upper =
      { State.returnPart k ld ld.home ld.size (State.endLoad k ld len) { s with cur := k } with cur := s.cur } := by
  unfold State.returnLoad
  dsimp only
  rw [if_neg (by rw [hzero]; nofun), if_pos hsize]
  rfl

theorem State.returnLoad_firstHalf (hzero : ld.zero = false) (hsize : ld.size = 16) (hhalf : ld.half = none) :
    s.returnLoad k ld len sc upper =
      { State.returnPart k ld (ld.home.plus (if upper then 8 else 0)) 8 (State.keepHalf k ld len sc upper) { s with cur := k } with cur := s.cur } := by
  unfold State.returnLoad
  dsimp only
  rw [if_neg (by rw [hzero]; nofun), if_neg (not_not_intro hsize), hhalf]
  rfl

theorem State.returnLoad_secondHalf {up : Bool} {first : List Byte} (hzero : ld.zero = false) (hsize : ld.size = 16)
    (hhalf : ld.half = some (up, first)) :
    s.returnLoad k ld len sc upper =
      { State.returnPart k ld (ld.home.plus (if up then 0 else 8)) 8
          (fun l => State.endLoad k ld len (if up then l ++ first else first ++ l)) { s with cur := k } with cur := s.cur } := by
  have hplus : ld.home.plus 0 = ld.home := by cases ld.home <;> rfl
  unfold State.returnLoad
  dsimp only
  rw [if_neg (by rw [hzero]; nofun), if_neg (not_not_intro hsize), hhalf]
  cases up with
  | true =>
    dsimp only
    rw [if_pos rfl, hplus]
    rfl
  | false => rfl

/-- Which half of a 128-bit load comes back, whatever then becomes of it. -/
theorem State.returnLoad_half {h : Home} (hzero : ld.zero = false) (hsize : ld.size = 16)
    (hhalf : ld.half = none ∧ h = ld.home.plus (if upper then 8 else 0) ∨
      ∃ up first, ld.half = some (up, first) ∧ h = ld.home.plus (if up then 0 else 8)) :
    ∃ f, s.returnLoad k ld len sc upper = { State.returnPart k ld h 8 f { s with cur := k } with cur := s.cur } := by
  rcases hhalf with ⟨hnone, rfl⟩ | ⟨up, first, hsome, rfl⟩
  · exact ⟨_, State.returnLoad_firstHalf hzero hsize hnone⟩
  · exact ⟨_, State.returnLoad_secondHalf hzero hsize hsome⟩

/-! ## What the return leaves, by what the home answers -/

variable {u : State} {h : Home} {l : List Byte}

theorem State.endLoad_ends (hstream : ld.stream = none) (hcur : u.cur = k) (l : List Byte) (c : Nat) :
    State.loadEnds k ld len l { u with cur := c } { State.endLoad k ld len l u with cur := c } :=
  (State.loaded_ends hcur hstream len l).withCur c

theorem State.returnLoad_zero_ends (hstream : ld.stream = none) (hzero : ld.zero = true) :
    s.loadEnds k ld len (List.replicate ld.size 0) (s.returnLoad k ld len sc upper) := by
  rw [State.returnLoad_zero hzero]
  exact State.endLoad_ends (u := { s with cur := k }) hstream rfl _ s.cur

theorem State.returnLoad_whole_ends (hstream : ld.stream = none) (hzero : ld.zero = false) (hsize : ld.size ≠ 16)
    (hpart : s.partReads k ld.home ld.size l false u) :
    State.loadEnds k ld len l { u with cur := s.cur } (s.returnLoad k ld len sc upper) := by
  obtain ⟨-, -, -, hcur, -⟩ := id hpart
  rw [State.returnLoad_whole hzero hsize, State.returnPart_reads hpart, if_neg Bool.false_ne_true]
  exact State.endLoad_ends hstream hcur l s.cur

/-- The first half is kept in the park, and the return of the other stands out (R155). -/
theorem State.returnLoad_firstHalf_keeps (hzero : ld.zero = false) (hsize : ld.size = 16) (hhalf : ld.half = none)
    (hpart : s.partReads k (ld.home.plus (if upper then 8 else 0)) 8 l false u) :
    let t := s.returnLoad k ld len sc upper
    State.onlySlotPosts k { u with cur := s.cur } t ∧ t.work = u.work ++ [⟨.loadDataReturn, arg1 k⟩] ∧
      t.slot k = { s.slot k with park := .load { ld with half := some (upper, l) } len sc } := by
  obtain ⟨-, -, hslot, -⟩ := id hpart
  intro t
  have ht : t = { State.keepHalf k ld len sc upper l u with cur := s.cur } := by
    rw [show t = _ from State.returnLoad_firstHalf hzero hsize hhalf, State.returnPart_reads hpart, if_neg Bool.false_ne_true]
  rw [ht]
  refine ⟨(State.onlySlot_post (State.onlySlot_modSlot ..) ..).withCur s.cur, rfl, ?_⟩
  rw [← hslot]
  exact State.slot_keepHalf k ld len sc upper l u

theorem State.returnLoad_secondHalf_ends {up : Bool} {first : List Byte} (hstream : ld.stream = none) (hzero : ld.zero = false)
    (hsize : ld.size = 16) (hhalf : ld.half = some (up, first)) (hpart : s.partReads k (ld.home.plus (if up then 0 else 8)) 8 l false u) :
    State.loadEnds k ld len (if up then l ++ first else first ++ l) { u with cur := s.cur } (s.returnLoad k ld len sc upper) := by
  obtain ⟨-, -, -, hcur, -⟩ := id hpart
  rw [State.returnLoad_secondHalf hzero hsize hhalf, State.returnPart_reads hpart, if_neg Bool.false_ne_true]
  exact State.endLoad_ends hstream hcur _ s.cur

/-- A return that asks `n` bytes of `h` traps where they are poisoned or their scratchpad is closed, whatever else it would do. -/
theorem State.returnPart_traps {n : Nat} {f : List Byte → State → State} {t : State}
    (ht : t = { State.returnPart k ld h n f { s with cur := k } with cur := s.cur }) :
    (s.partReads k h n l true u → u.chip.paction = 0 →
      State.trapped k cPOISON ld.addr (s.slot k).pc none { u with cur := s.cur } t) ∧
    (s.closed h = true → s.trapped k cPROTECTION ld.addr (s.slot k).pc none t) := by
  subst ht
  exact ⟨fun hpart hpaction => (State.returnPart_poisoned hpart hpaction ld f).withCur s.cur,
    fun hclosed => (State.returnPart_closed hclosed ld n f).withCur s.cur⟩

/-- LOAD_DATA_RETURN of a slot that is parked in a load. -/
theorem State.gives_loadDataReturn {P : State → Prop} (hpark : (s.slot s.arg.a).park = .load ld len sc)
    (h : P (s.returnLoad s.arg.a ld len sc (decide (s.arg.b % 2 = 1)))) : s.gives .loadDataReturn P := by
  refine ⟨_, ?_, h⟩
  show execLoadDataReturn s = _
  unfold execLoadDataReturn
  rw [hpark]

end returns

/-! ## The obligation -/

/-- Settles O13: a load that is not served locally is `parkLoad`; its data's return is `returnLoad` of the slot's park, by the half
that has come and by what the home answers. -/
theorem otherLoadsParkForTheirData : Obligations.OtherLoadsParkForTheirData := by
  refine ⟨fun s u rd ra z imm o sc h i ea n len c toF signed hfence hstream hi => ?_, fun s u ld len sc l bad => ?_⟩
  · have hload : exec i s = .next (s.load i ea n rd toF signed c) ∧ i.len = len := by
      rcases hi with ⟨rfl, rfl, rfl, rfl, rfl, rfl, rfl⟩ | ⟨rfl, rfl, rfl, rfl, rfl, rfl, rfl⟩ | ⟨rfl, rfl, rfl, rfl, rfl, rfl, rfl⟩ |
        ⟨rfl, rfl, rfl, rfl, rfl, rfl, rfl⟩ <;> exact ⟨rfl, rfl⟩
    obtain ⟨hexec, rfl⟩ := hload
    exact ⟨fun hplace hremote =>
        ⟨_, hexec.trans (congrArg _ (State.load_parks hstream hfence (.inl ⟨hplace, hremote, rfl⟩) ..)), u.parkLoad_spec ..⟩,
      fun hplace =>
        ⟨_, hexec.trans (congrArg _ (State.load_parks hstream hfence (.inr ⟨hplace, rfl, rfl⟩) ..)), u.parkLoad_spec ..⟩⟩
  · intro k hpark hstream upper part v
    refine ⟨fun hzero => ?_, fun hzero hsize hpart hbad => ?_, fun hzero hsize hhalf hpart hbad => ?_,
      fun up first hzero hsize hhalf hpart hbad => ?_, fun hzero hsize hpart hbad hpaction => ?_, fun hzero hsize hclosed => ?_,
      fun h hzero hsize hhalf => ?_⟩
    · exact State.gives_loadDataReturn hpark (State.returnLoad_zero_ends hstream hzero)
    · subst hbad
      exact State.gives_loadDataReturn hpark (State.returnLoad_whole_ends hstream hzero hsize hpart)
    · subst hbad
      exact State.gives_loadDataReturn hpark (State.returnLoad_firstHalf_keeps hzero hsize hhalf hpart)
    · subst hbad
      exact State.gives_loadDataReturn hpark (State.returnLoad_secondHalf_ends hstream hzero hsize hhalf hpart)
    · subst hbad
      exact State.gives_loadDataReturn hpark ((State.returnPart_traps (State.returnLoad_whole hzero hsize)).1 hpart hpaction)
    · exact State.gives_loadDataReturn hpark ((State.returnPart_traps (l := l) (u := u) (State.returnLoad_whole hzero hsize)).2 hclosed)
    · obtain ⟨f, hreturn⟩ := State.returnLoad_half (len := len) (sc := sc) (s := s) (k := k) (upper := upper) hzero hsize hhalf
      obtain ⟨hpoisoned, hclosed⟩ := State.returnPart_traps (l := l) (u := u) hreturn
      refine ⟨fun hpart hbad hpaction => ?_, fun h => State.gives_loadDataReturn hpark (hclosed h)⟩
      subst hbad
      exact State.gives_loadDataReturn hpark (hpoisoned hpart hpaction)

end Sys2Proof.Machine

namespace Sys2Proof.Machine

/-! # Divisions and remainders (O1) -/

/-! ## The values of R82 -/

theorem quotU_eq (a b : Word) : quotU a b = if b = 0 then 0xFFFFFFFFFFFFFFFF else a / b :=
  ite_congr rfl (fun _ => rfl) fun _ => BitVec.udiv_def.symm

/-- What is left of `a` above the whole multiples of `b`. -/
theorem sub_udiv_mul (a b : Word) : a - a / b * b = a % b := by
  refine sub_eq_of_eq_add' (BitVec.eq_of_toNat_eq ?_)
  have hle : a.toNat / b.toNat * b.toNat ≤ a.toNat := Nat.div_mul_le_self ..
  have hmod : a.toNat / b.toNat * b.toNat + a.toNat % b.toNat = a.toNat := by rw [mul_comm]; exact Nat.div_add_mod ..
  have hlt := a.isLt
  rw [BitVec.toNat_add, BitVec.toNat_mul, BitVec.toNat_udiv, BitVec.toNat_umod, Nat.mod_eq_of_lt (lt_of_le_of_lt hle hlt), hmod, Nat.mod_eq_of_lt hlt]

theorem remU_eq (a b : Word) : remU a b = if b = 0 then a else a % b := by
  unfold remU
  refine ite_congr rfl (fun _ => rfl) fun hb => ?_
  rw [quotU_eq, if_neg hb, sub_udiv_mul]

theorem quotS_eq (a b : Word) : quotS a b = if b = 0 then 0xFFFFFFFFFFFFFFFF
    else if a = 0x8000000000000000 ∧ b = 0xFFFFFFFFFFFFFFFF then a else BitVec.ofInt 64 (Int.tdiv a.toInt b.toInt) := rfl

/-- What is left of `a` above the quotient that R82 truncates toward zero. -/
theorem sub_tdiv_mul (a b : Word) : a - BitVec.ofInt 64 (Int.tdiv a.toInt b.toInt) * b = BitVec.ofInt 64 (Int.tmod a.toInt b.toInt) := by
  refine sub_eq_of_eq_add' ?_
  calc a = BitVec.ofInt 64 (Int.tdiv a.toInt b.toInt * b.toInt + Int.tmod a.toInt b.toInt) := by rw [Int.tdiv_mul_add_tmod, BitVec.ofInt_toInt]
    _ = BitVec.ofInt 64 (Int.tdiv a.toInt b.toInt) * b + BitVec.ofInt 64 (Int.tmod a.toInt b.toInt) := by
      rw [BitVec.ofInt_add, BitVec.ofInt_mul, BitVec.ofInt_toInt]

theorem remS_eq (a b : Word) : remS a b = if b = 0 then a
    else if a = 0x8000000000000000 ∧ b = 0xFFFFFFFFFFFFFFFF then 0 else BitVec.ofInt 64 (Int.tmod a.toInt b.toInt) := by
  refine ite_congr rfl (fun _ => rfl) fun hb => ite_congr rfl (fun _ => rfl) fun hover => ?_
  rw [quotS_eq, if_neg hb, if_neg hover, sub_tdiv_mul]

/-! ## The park -/

theorem State.divide_dividesTo (rd : Reg) (v : Word) (sc : BitVec 3) (s : State) : s.dividesTo rd v sc.toNat (s.divide rd v sc) := by
  obtain ⟨hframe, hpark⟩ := s.parkMe_spec (.divide rd.toNat v (s.cycle + 33) sc.toNat) sc.toNat
  exact ⟨State.onlySlot_post hframe .., rfl, hpark⟩

/-- An instruction that is `divide` of `v` parks for the value that `v` is. -/
theorem State.gives.of_divide {i : Sys2Proof.Instr} {rd : Reg} {v q : Word} {sc : BitVec 3} {s : State}
    (hexec : exec i s = .next (s.divide rd v sc)) (hv : v = q) : s.gives i (s.dividesTo rd q sc.toNat) :=
  ⟨_, hexec, hv ▸ s.divide_dividesTo rd v sc⟩

/-! ## The result -/

theorem exec_divideResult {s : State} {rd due sc : Nat} {q : Word} (hpark : (s.slot s.arg.a).park = .divide rd q due sc) :
    exec .divideResult s = .next (if due < s.cycle then s.divideDone s.arg.a rd q due sc else s.defer) := by
  show execDivideResult s = _
  unfold execDivideResult
  dsimp only
  rw [hpark]

/-- A result's delivery takes the loop rule of R97 like any other retirement. -/
theorem State.lcount_deliverX (k : Nat) (rd : Reg) (v : Word) (s : State) : ((s.deliverX k rd v).slot k).lcount = ((s.slot k).seq 4).lcount := by
  unfold State.deliverX State.completeAt
  rw [State.modSlot_modSlot, State.slot_modSlot_same]
  exact (Slot.seq_congr 4 (by simp) (by simp) (by simp) (by simp)).2

theorem State.divideDone_spec (k : Nat) (rd : Reg) (q : Word) (due sc : Nat) (s : State) :
    let t := s.divideDone k rd.toNat q due sc
    s.onlySlot k t ∧ (s.slot k).xIs rd q (t.slot k) ∧ (t.slot k).park = .run ∧ (t.slot k).ready = due + 1 + sc ∧
      (t.slot k).retired = (s.slot k).retired + 1 ∧ (t.slot k).pc = ((s.slot k).seq 4).pc ∧ (t.slot k).lcount = ((s.slot k).seq 4).lcount := by
  obtain ⟨hframe, hx, hpark, hretired, hpc⟩ := State.wakesWith_deliverX (s := s) (k := k) rd q
  have hlcount := s.lcount_deliverX k rd q
  unfold State.divideDone
  rw [BitVec.ofNat_toNat, BitVec.setWidth_eq]
  intro t
  refine ⟨hframe.trans (State.onlySlot_modSlot ..), ?_⟩
  rw [show t.slot k = { (s.deliverX k rd q).slot k with ready := due + 1 + sc } from State.slot_modSlot_same ..]
  exact ⟨hx, hpark, rfl, hretired, hpc, hlcount⟩

/-- Settles O1: the four divisions are `divide` of their values, and the step of their result is `divideDone` once its cycle is past. -/
theorem divisionParksThenWrites : Obligations.DivisionParksThenWrites := by
  refine ⟨fun s rd ra rb sc => ?_, fun s rd q due sc => ?_⟩
  · exact ⟨.of_divide rfl (quotS_eq ..), .of_divide rfl (remS_eq ..), .of_divide rfl (quotU_eq ..), .of_divide rfl (remU_eq ..)⟩
  · intro k hpark
    refine ⟨fun hbefore => ?_, fun hpast => ?_⟩
    · exact (exec_divideResult hpark).trans (congrArg _ (if_neg (not_lt.2 hbefore)))
    · exact ⟨_, (exec_divideResult hpark).trans (congrArg _ (if_pos hpast)), s.divideDone_spec ..⟩

end Sys2Proof.Machine

namespace Sys2Proof.Machine

/-! # The register and immediate forms (O2) -/

/-! ## Instructions that retire with a result -/

section results
variable {s : State} {i : Sys2Proof.Instr} {rd : Reg} {v w : Word} {sc : BitVec 3}

/-- An instruction that is `alu` of `v` writes the value that `v` is. -/
theorem State.gives.of_alu (hexec : exec i s = .next (s.alu rd v sc)) (hv : v = w) : s.gives i (s.setsX rd w 4 sc.toNat) :=
  ⟨_, hexec, hv ▸ s.setX_setsX rd v 4 sc.toNat⟩

/-- One without a stall count. -/
theorem State.gives.of_setX_retire (hexec : exec i s = .next ((s.setX rd v).retire 4 0)) (hv : v = w) : s.gives i (s.setsX rd w 4 0) :=
  ⟨_, hexec, hv ▸ s.setX_setsX rd v 4 0⟩

/-- One of latency 3 sends it on its way. -/
theorem State.gives.of_aluLate (hexec : exec i s = .next (s.aluLate rd v 3 sc)) (hv : v = w) : s.gives i (s.sendsX rd w 3 4 sc.toNat) :=
  ⟨_, hexec, hv ▸ State.resultX_sendsX (by decide) rd v 4 sc.toNat s⟩

end results

/-! ## The values -/

/-- The amount of a shift is the low six bits of its register. -/
theorem wbits_zero_six (b : Word) : wbits b 0 6 = b.toNat % 64 := by
  rw [wbits, pow_zero, Nat.div_one]
  rfl

theorem flag_decide (p : Prop) [Decidable p] : flag (decide p) = if p then 1 else 0 := by
  unfold flag
  simp only [decide_eq_true_eq]

theorem signed_min (a b : Word) : (if a.toInt < b.toInt then a else b) = BitVec.ofInt 64 (min a.toInt b.toInt) := by
  rw [min_def_lt, apply_ite (BitVec.ofInt 64), BitVec.ofInt_toInt, BitVec.ofInt_toInt]

theorem signed_max (a b : Word) : (if a.toInt < b.toInt then b else a) = BitVec.ofInt 64 (max a.toInt b.toInt) := by
  rw [max_def_lt, apply_ite (BitVec.ofInt 64), BitVec.ofInt_toInt, BitVec.ofInt_toInt]

theorem unsigned_min (a b : Word) : (if a.toNat < b.toNat then a else b) = BitVec.ofNat 64 (min a.toNat b.toNat) := by
  rw [min_def_lt, apply_ite (BitVec.ofNat 64), BitVec.ofNat_toNat, BitVec.ofNat_toNat, BitVec.setWidth_eq, BitVec.setWidth_eq]

theorem unsigned_max (a b : Word) : (if a.toNat < b.toNat then b else a) = BitVec.ofNat 64 (max a.toNat b.toNat) := by
  rw [max_def_lt, apply_ite (BitVec.ofNat 64), BitVec.ofNat_toNat, BitVec.ofNat_toNat, BitVec.setWidth_eq, BitVec.setWidth_eq]

/-- The high half of a number of 128 bits in two's complement. -/
theorem highHalf_eq (p : Int) : highHalf p = (BitVec.ofInt 128 p >>> 64).setWidth 64 := by
  refine BitVec.eq_of_toNat_eq ?_
  rw [highHalf, BitVec.toNat_setWidth, BitVec.toNat_ushiftRight, BitVec.toNat_ofInt, BitVec.toNat_ofInt, Nat.shiftRight_eq_div_pow]
  omega

theorem highHalf_signed (a b : Word) : highHalf (a.toInt * b.toInt) = ((a.signExtend 128 * b.signExtend 128) >>> 64).setWidth 64 := by
  rw [highHalf_eq, BitVec.ofInt_mul]
  rfl

theorem highHalf_unsigned (a b : Word) :
    BitVec.ofNat 64 (a.toNat * b.toNat / 2 ^ 64) = ((a.setWidth 128 * b.setWidth 128) >>> 64).setWidth 64 := by
  have hproduct : a.toNat * b.toNat < 2 ^ 128 := lt_of_lt_of_eq (Nat.mul_lt_mul'' a.isLt b.isLt) (by norm_num)
  refine BitVec.eq_of_toNat_eq ?_
  rw [BitVec.toNat_ofNat, BitVec.toNat_setWidth, BitVec.toNat_ushiftRight, BitVec.toNat_mul, BitVec.toNat_setWidth, BitVec.toNat_setWidth,
    Nat.mod_eq_of_lt (a := a.toNat) (by omega), Nat.mod_eq_of_lt (a := b.toNat) (by omega), Nat.mod_eq_of_lt hproduct, Nat.shiftRight_eq_div_pow]

theorem shiftLeft_eq_mul {n : Nat} (a : BitVec n) (k : Nat) : a <<< k = a * BitVec.ofNat n (2 ^ k) := by
  rw [BitVec.shiftLeft_eq_mul_twoPow]
  refine congrArg (a * ·) (BitVec.eq_of_toNat_eq ?_)
  rw [BitVec.toNat_twoPow, BitVec.toNat_ofNat]

/-- R86's address: an offset in halfwords from the PC, modulo 2^48. -/
theorem State.target_setWidth {n : Nat} (u : BitVec n) (s : State) :
    (s.target u).setWidth 64 = BitVec.ofInt 64 ((s.me.pc.toNat + u.toInt * 2) % 2 ^ 48) := by
  have htarget : s.target u = BitVec.ofInt 48 (s.me.pc.toNat + u.toInt * 2) := by
    rw [s.target_eq, BitVec.ofInt_add, BitVec.ofInt_mul, BitVec.ofInt_natCast, BitVec.ofNat_toNat, BitVec.setWidth_eq]
    rfl
  refine BitVec.eq_of_toNat_eq ?_
  rw [htarget, BitVec.toNat_setWidth, BitVec.toNat_ofInt, BitVec.toNat_ofInt]
  omega

/-! ## The forms -/

/-- R81: each operation is `alu` of its value, the products `aluLate` of theirs. -/
theorem registerFormResults : registerFormResultsRules := by
  intro s rd ra rb sc k a b n c
  have hn : wbits b 0 6 = n := wbits_zero_six b
  exact ⟨
    .of_alu rfl rfl, .of_alu rfl rfl, .of_alu rfl rfl, .of_alu rfl rfl, .of_alu rfl rfl,
    .of_alu rfl (congrArg (a <<< ·) hn), .of_alu rfl (congrArg (a >>> ·) hn), .of_alu rfl (congrArg a.sshiftRight hn),
    .of_alu rfl (flag_decide _), .of_alu rfl (flag_decide _),
    .of_alu rfl (signed_min a b), .of_alu rfl (signed_max a b), .of_alu rfl (unsigned_min a b), .of_alu rfl (unsigned_max a b),
    .of_aluLate rfl rfl, .of_aluLate rfl (highHalf_signed a b), .of_aluLate rfl (highHalf_unsigned a b),
    .of_alu rfl (congrArg (a + ·) (shiftLeft_eq_mul b k.toNat)), .of_alu rfl (ite_not ..)⟩

/-- R83 to R86, likewise. -/
theorem immediateFormResults : immediateFormResultsRules := by
  intro s rd ra imm h u sc a k c
  exact ⟨
    .of_alu rfl rfl, .of_alu rfl rfl, .of_alu rfl rfl, .of_alu rfl rfl,
    .of_alu rfl (flag_decide _), .of_alu rfl (flag_decide _),
    .of_alu rfl rfl, .of_alu rfl rfl, .of_alu rfl rfl,
    .of_setX_retire rfl (shiftLeft_eq_mul _ 12), .of_setX_retire rfl (s.target_setWidth u)⟩

/-- Settles O2, by the two groups of forms. -/
theorem registerAndImmediateResults : Obligations.RegisterAndImmediateResults := ⟨registerFormResults, immediateFormResults⟩

end Sys2Proof.Machine

namespace Sys2Proof.Machine

/-! # Counts, extensions, bit fields and predicates (O3) -/

/-! ## Counts (R87) -/

/-- The leading zeros of an `n`-bit number: all of them, or those above its highest one bit. -/
theorem clzN_spec (n v : Nat) (hv : v < 2 ^ n) :
    v = 0 ∧ clzN n v = n ∨ clzN n v < n ∧ 2 ^ (n - 1 - clzN n v) ≤ v ∧ v < 2 ^ (n - clzN n v) := by
  induction n with
  | zero => exact .inl ⟨Nat.lt_one_iff.1 hv, rfl⟩
  | succ n ih =>
    rw [clzN]
    by_cases hbit : v / 2 ^ n % 2 = 1
    · rw [if_pos hbit]
      have hdiv : v / 2 ^ n ≠ 0 := fun h => by rw [h] at hbit; cases hbit
      exact .inr ⟨n.succ_pos, Nat.le_of_not_lt (mt Nat.div_eq_of_lt hdiv), hv⟩
    · rw [if_neg hbit]
      have hdiv : v / 2 ^ n < 2 := Nat.div_lt_of_lt_mul hv
      rw [Nat.mod_eq_of_lt hdiv] at hbit
      have hlow : v < 2 ^ n := (Nat.div_eq_zero_iff_lt (Nat.two_pow_pos n)).1 (Nat.lt_one_iff.1 (Nat.lt_of_le_of_ne (Nat.le_of_lt_succ hdiv) hbit))
      refine (ih hlow).imp (fun ⟨h0, hn⟩ => ⟨h0, by omega⟩) fun ⟨hlt, hge, hup⟩ => ⟨by omega, ?_, ?_⟩
      · rwa [show n + 1 - 1 - (1 + clzN n v) = n - 1 - clzN n v by omega]
      · rwa [show n + 1 - (1 + clzN n v) = n - clzN n v by omega]

/-- The trailing zeros of an `n`-bit number: all of them, or the power of two that divides it just. -/
theorem ctzN_spec (n v : Nat) (hv : v < 2 ^ n) :
    v = 0 ∧ ctzN n v = n ∨ ctzN n v < n ∧ 2 ^ ctzN n v ∣ v ∧ ¬ 2 ^ (ctzN n v + 1) ∣ v := by
  induction n generalizing v with
  | zero => exact .inl ⟨Nat.lt_one_iff.1 hv, rfl⟩
  | succ n ih =>
    rw [ctzN]
    by_cases hodd : v % 2 = 1
    · rw [if_pos hodd]
      exact .inr ⟨n.succ_pos, one_dvd v, by omega⟩
    · rw [if_neg hodd]
      obtain ⟨m, rfl⟩ : 2 ∣ v := by omega
      rw [Nat.mul_div_cancel_left m two_pos, Nat.add_comm 1]
      refine (ih m (by omega)).imp (fun ⟨h0, hn⟩ => ⟨by omega, by omega⟩) fun ⟨hlt, hdvd, hndvd⟩ => ⟨by omega, ?_, ?_⟩
      · rw [pow_succ']
        exact Nat.mul_dvd_mul_left 2 hdvd
      · rw [pow_succ']
        exact mt (Nat.dvd_of_mul_dvd_mul_left two_pos) hndvd

/-- The one bits of a number among its lowest `n`. -/
theorem popN_eq_countP (n v : Nat) : popN n v = (List.range n).countP v.testBit := by
  induction n generalizing v with
  | zero => rfl
  | succ n ih =>
    have hshift : v.testBit ∘ Nat.succ = (v / 2).testBit := funext fun i => Nat.testBit_succ v i
    have hlow : v % 2 = if v.testBit 0 = true then 1 else 0 := by
      rw [Nat.testBit_zero]
      rcases Nat.mod_two_eq_zero_or_one v with h | h <;> simp [h]
    rw [popN, ih, List.range_succ_eq_map, List.countP_cons, List.countP_map, hshift, hlow, Nat.add_comm]

/-! ## Extensions and fields (R87, R88) -/

/-- Zero extension by shifts is zero extension of the low bits. -/
theorem zextN_eq_setWidth {w : Nat} (h : w ≤ 64) (v : Word) : zextN v w = (v.setWidth w).setWidth 64 := by
  unfold zextN
  ext i hi
  simp only [BitVec.getElem_ushiftRight, BitVec.getElem_setWidth, BitVec.getLsbD_shiftLeft, BitVec.getLsbD_setWidth]
  by_cases hw : i < w
  · simp [hw, show 64 - w + i < 64 by omega]
  · simp [hw, show ¬ 64 - w + i < 64 by omega]

/-- A field of no bits is 0, however it is extended. -/
theorem extensions_of_empty {n : Nat} (hn : n = 0) (v : BitVec n) : v.signExtend 64 = 0 ∧ v.setWidth 64 = 0 := by
  subst hn
  rw [BitVec.of_length_zero (x := v)]
  decide

section fields
variable {off : Nat} (hoff : off < 64) (wid : Nat) (v : Word)
include hoff

theorem extractS_eq : extractS v off wid = (v.extractLsb' off (min wid (64 - off))).signExtend 64 := by
  unfold extractS
  by_cases hwid : wid = 0
  · rw [if_pos hwid, (extensions_of_empty (by omega) _).1]
  · rw [if_neg hwid, ← BitVec.setWidth_ushiftRight_eq_extractLsb]
    exact sextN_eq_signExtend (w := min wid (64 - off)) (by omega) (by omega) _

theorem extractU_eq : extractU v off wid = (v.extractLsb' off (min wid (64 - off))).setWidth 64 := by
  unfold extractU
  by_cases hwid : wid = 0
  · rw [if_pos hwid, (extensions_of_empty (by omega) _).2]
  · rw [if_neg hwid, ← BitVec.setWidth_ushiftRight_eq_extractLsb]
    exact zextN_eq_setWidth (w := min wid (64 - off)) (by omega) _

end fields

/-- The bits that `bins` replaces. -/
theorem getLsbD_fieldMask (off n : Nat) {i : Nat} (hi : i < 64) :
    (BitVec.ofNat 64 (2 ^ n - 1) <<< off).getLsbD i = decide (off ≤ i ∧ i < off + n) := by
  rw [BitVec.getLsbD_shiftLeft, BitVec.getLsbD_ofNat, Nat.testBit_two_pow_sub_one, decide_eq_true hi, decide_eq_true (show i - off < 64 by omega),
    Bool.true_and, Bool.true_and, ← decide_not, ← Bool.decide_and, decide_eq_decide]
  omega

theorem getLsbD_insertBits (old v : Word) (off wid : Nat) {i : Nat} (hi : i < 64) :
    (insertBits old v off wid).getLsbD i =
      if off ≤ i ∧ i < off + min wid (64 - off) then v.getLsbD (i - off) else old.getLsbD i := by
  unfold insertBits
  by_cases hwid : wid = 0
  · rw [if_pos hwid, if_neg (by omega)]
  · have hmask : (BitVec.ofNat 64 (2 ^ cutWidth off wid - 1) <<< off).getLsbD i = decide (off ≤ i ∧ i < off + min wid (64 - off)) :=
      getLsbD_fieldMask off (cutWidth off wid) hi
    rw [if_neg hwid]
    dsimp only
    rw [BitVec.getLsbD_or, BitVec.getLsbD_and, BitVec.getLsbD_and, BitVec.getLsbD_not, hmask, BitVec.getLsbD_shiftLeft]
    by_cases hin : off ≤ i ∧ i < off + min wid (64 - off)
    · simp [hin, hi, not_lt.2 hin.1]
    · simp [hin, hi]

/-! ## Predicates (R89) -/

theorem allLanes_decide (p : Prop) [Decidable p] : allLanes (decide p) = if p then 0xFF else 0 := by
  unfold allLanes
  simp only [decide_eq_true_eq]

/-- An instruction that is `aluP` of `v` writes the value that `v` is. -/
theorem State.gives.of_aluP {s : State} {i : Sys2Proof.Instr} {rd : PReg} {v w : Byte} {sc : BitVec 3}
    (hexec : exec i s = .next (s.aluP rd v sc)) (hv : v = w) : s.gives i (s.setsP rd w 4 sc.toNat) :=
  ⟨_, hexec, hv ▸ s.setP_setsP rd v 4 sc.toNat⟩

/-! ## The instructions -/

theorem unaryAndBitFieldResults : unaryAndBitFieldResultsRules := by
  intro s rd ra o w sc a c off n
  have hoff : off < 64 := o.isLt
  have hzero : a.toNat = 0 → a = 0 := fun h => BitVec.eq_of_toNat_eq h
  exact ⟨
    ⟨clzN 64 a.toNat, (clzN_spec 64 a.toNat a.isLt).imp_left (.imp_left hzero), .of_alu rfl rfl⟩,
    ⟨ctzN 64 a.toNat, (ctzN_spec 64 a.toNat a.isLt).imp_left (.imp_left hzero), .of_alu rfl rfl⟩,
    .of_alu rfl (congrArg (BitVec.ofNat 64) (popN_eq_countP 64 a.toNat)),
    .of_alu rfl (sextN_eq_signExtend (by decide) (by decide) a), .of_alu rfl (sextN_eq_signExtend (by decide) (by decide) a),
    .of_alu rfl (sextN_eq_signExtend (by decide) (by decide) a),
    .of_alu rfl (zextN_eq_setWidth (by decide) a), .of_alu rfl (zextN_eq_setWidth (by decide) a), .of_alu rfl (zextN_eq_setWidth (by decide) a),
    .of_alu rfl (extractS_eq hoff w.toNat a), .of_alu rfl (extractU_eq hoff w.toNat a),
    ⟨insertBits (s.x rd) a off w.toNat, fun _ => getLsbD_insertBits (s.x rd) a off w.toNat, .of_alu rfl rfl⟩⟩

theorem predicateResults : predicateResultsRules := by
  intro s p q r rd ra rb sc a b c
  exact ⟨
    .of_aluP rfl (allLanes_decide _), .of_aluP rfl (allLanes_decide _), .of_aluP rfl (allLanes_decide _), .of_aluP rfl (allLanes_decide _),
    .of_aluP rfl (allLanes_decide _), .of_aluP rfl (allLanes_decide _),
    .of_aluP rfl rfl, .of_aluP rfl rfl, .of_aluP rfl rfl, .of_aluP rfl rfl, .of_alu rfl rfl⟩

/-- Settles O3, by the unary and field results and the predicates. -/
theorem bitFieldAndPredicateResults : Obligations.BitFieldAndPredicateResults := ⟨unaryAndBitFieldResults, predicateResults⟩

end Sys2Proof.Machine

namespace Sys2Proof.Machine

/-! # Branches and jumps (O4) -/

section jalr
variable {s : State} {ra : Reg} {o : BitVec 12} (rd : Reg) (sc : BitVec 3)

/-- The bits of an address above the 48 of the PC (R93). -/
theorem wbits_high_eq_zero_iff {v : Word} : wbits v 48 16 = 0 ↔ v.toNat < 2 ^ 48 := by
  have := v.isLt
  unfold wbits
  omega

theorem exec_jalr_odd (hodd : (s.x ra + sx o).toNat % 2 = 1) :
    exec (.jalr rd ra o sc) s = .next (s.trap cMISALIGN (s.x ra + sx o)) :=
  congrArg _ (if_pos (getLsbD_zero_iff.2 hodd))

theorem exec_jalr_high (heven : (s.x ra + sx o).toNat % 2 = 0) (hhigh : 2 ^ 48 ≤ (s.x ra + sx o).toNat) :
    exec (.jalr rd ra o sc) s = .next (s.trap cPROTECTION (s.x ra + sx o)) :=
  congrArg _ ((if_neg (getLsbD_zero_of_even heven)).trans (if_pos (wbits_high_eq_zero_iff.not.2 (not_lt.2 hhigh))))

theorem exec_jalr_jumps (heven : (s.x ra + sx o).toNat % 2 = 0) (hlow : (s.x ra + sx o).toNat < 2 ^ 48) :
    exec (.jalr rd ra o sc) s = .next ((s.setX rd ((s.me.pc + 4).setWidth 64)).jump ((s.x ra + sx o).setWidth 48) sc.toNat) :=
  congrArg _ ((if_neg (getLsbD_zero_of_even heven)).trans (if_neg (not_not.2 (wbits_high_eq_zero_iff.2 hlow))))

end jalr

/-- Settles O4: a branch is `branch` of the proposition it tests, a jump writes its link and goes to its target, and `jalr` takes one
of its three ways by the target. -/
theorem branchesAndJumps : Obligations.BranchesAndJumps := by
  intro s p rd ra rb o u sc a b there far link t
  refine ⟨
    ⟨_, rfl, s.branch_decide 4 (a = b) o⟩, ⟨_, rfl, s.branch_decide 4 (a ≠ b) o⟩,
    ⟨_, rfl, s.branch_decide 4 (a.toInt < b.toInt) o⟩, ⟨_, rfl, s.branch_decide 4 (b.toInt ≤ a.toInt) o⟩,
    ⟨_, rfl, s.branch_decide 4 (a.toNat < b.toNat) o⟩, ⟨_, rfl, s.branch_decide 4 (b.toNat ≤ a.toNat) o⟩,
    ⟨_, rfl, s.branch_decide 4 (s.p p ≠ 0) u⟩, ⟨_, rfl, s.branch_decide 4 (s.p p = 0) u⟩,
    ⟨_, rfl, ?_⟩, fun hodd => ?_, fun heven hhigh => ?_, fun heven hlow => ?_⟩
  · have hfar : s.target u = far := s.target_eq u
    rw [← hfar]
    exact s.setX_jump rd link (s.target u) 0
  · exact ⟨_, exec_jalr_odd rd sc hodd, s.trap_trapsWith cMISALIGN t (by decide)⟩
  · exact ⟨_, exec_jalr_high rd sc heven hhigh, s.trap_trapsWith cPROTECTION t (by decide)⟩
  · exact ⟨_, exec_jalr_jumps rd sc heven hlow, s.setX_jump rd link (t.setWidth 48) sc.toNat⟩

end Sys2Proof.Machine

namespace Sys2Proof.Machine

/-! # Loops (O5) -/

/-! ## The loop rule of a retiring instruction (R97) -/

section loopRule
variable {sl : Slot} {len : Nat} {a : BitVec 48}

theorem Slot.seq_closed (hclosed : sl.lcount = 0) : sl.seq len = { sl with pc := sl.pc + BitVec.ofNat 48 len } := if_pos hclosed

theorem Slot.seq_again (hopen : sl.lcount ≠ 0) (hend : sl.pc + BitVec.ofNat 48 len = sl.lend) (hmore : sl.lcount ≠ 1) :
    sl.seq len = { sl with pc := sl.lstart, lcount := sl.lcount - 1 } := by
  have hcount : 1 < sl.lcount.toNat := by bv_omega
  unfold Slot.seq
  dsimp only
  rw [if_neg hopen, if_pos hend, if_pos hcount]

theorem Slot.seq_last (hend : sl.pc + BitVec.ofNat 48 len = sl.lend) (hone : sl.lcount = 1) :
    sl.seq len = { sl with pc := sl.lend, lcount := 0 } := by
  unfold Slot.seq
  dsimp only
  rw [hone, if_neg (by decide), if_pos hend, if_neg (by decide)]

theorem Slot.seq_straddles (hopen : sl.lcount ≠ 0) (hend : sl.pc + BitVec.ofNat 48 len ≠ sl.lend)
    (hstraddle : sl.pc.toNat < sl.lend.toNat ∧ sl.lend.toNat < (sl.pc + BitVec.ofNat 48 len).toNat) :
    sl.seq len = { sl with pc := sl.pc + BitVec.ofNat 48 len, lcount := 0 } := by
  unfold Slot.seq
  dsimp only
  rw [if_neg hopen, if_neg hend, if_pos hstraddle]

theorem Slot.seq_goesOn (hend : sl.pc + BitVec.ofNat 48 len ≠ sl.lend)
    (hwithin : ¬ (sl.pc.toNat < sl.lend.toNat ∧ sl.lend.toNat < (sl.pc + BitVec.ofNat 48 len).toNat)) :
    sl.seq len = { sl with pc := sl.pc + BitVec.ofNat 48 len } := by
  unfold Slot.seq
  dsimp only
  rw [if_neg hend, if_neg hwithin, ite_self]

theorem Slot.goto_inside (hinside : sl.lstart.toNat ≤ a.toNat ∧ a.toNat < sl.lend.toNat) : (sl.goto a).lcount = sl.lcount := by
  unfold Slot.goto
  rw [if_neg fun h => h.2 hinside]

theorem Slot.goto_outside (houtside : ¬ (sl.lstart.toNat ≤ a.toNat ∧ a.toNat < sl.lend.toNat)) : (sl.goto a).lcount = 0 := by
  unfold Slot.goto
  by_cases hopen : sl.lcount = 0
  · rw [if_neg fun h => h.1 hopen]
    exact hopen
  · rw [if_pos ⟨hopen, houtside⟩]

theorem Slot.goto_closed (hclosed : sl.lcount = 0) : (sl.goto a).lcount = 0 := by
  unfold Slot.goto
  rw [if_neg fun h => h.1 hclosed]
  exact hclosed

end loopRule

/-! ## The loop instruction (R95) -/

/-- The slot in hand takes a loop's bounds, goes to `pc` with a count of `n`, and retires. -/
def State.enterLoop (lstart lend pc : BitVec 48) (n : Word) (sc : Nat) (s : State) : State :=
  s.modMe fun sl => { sl with lstart := lstart, lend := lend, pc := pc, lcount := n, retired := sl.retired + 1, ready := s.cycle + 1 + sc, waited := false }

theorem State.me_enterLoop (lstart lend pc : BitVec 48) (n : Word) (sc : Nat) (s : State) : (s.enterLoop lstart lend pc n sc).me =
    { s.me with lstart := lstart, lend := lend, pc := pc, lcount := n, retired := s.me.retired + 1, ready := s.cycle + 1 + sc, waited := false } :=
  State.me_modMe ..

section loop
variable {s : State} {ra : Reg} (imm : BitVec 12) (sc : BitVec 3)

theorem exec_loop_open (hopen : s.me.lcount ≠ 0) : exec (.loop ra imm sc) s = .next (s.illegal (.loop ra imm sc)) :=
  congrArg _ (if_pos hopen)

/-- The end of a loop's body as R95 writes it: the distance doubled, added to the next address. -/
theorem loopEnd_eq (pc : BitVec 48) (imm : BitVec 12) : pc + (imm.setWidth 48 <<< 1) = pc + 2 * imm.setWidth 48 := by
  rw [shiftLeft_eq_mul, mul_comm]
  rfl

theorem exec_loop_closed (hclosed : s.me.lcount = 0) : exec (.loop ra imm sc) s = .next
    (s.enterLoop (s.me.pc + 4) (s.me.pc + 4 + 2 * imm.setWidth 48) (if s.x ra = 0 then s.me.pc + 4 + 2 * imm.setWidth 48 else s.me.pc + 4)
      (s.x ra) sc.toNat) := by
  show execLoop ra imm sc s = _
  unfold execLoop
  dsimp only
  rw [if_neg (not_not.2 hclosed), loopEnd_eq, State.modMe_modMe, State.modMe_modMe]
  by_cases hskip : s.x ra = 0
  · rw [if_pos hskip, if_pos hskip]
    refine congrArg Host.Outcome.next (State.modMe_congr ?_)
    simp [Slot.retired1, hskip, hclosed]
  · rw [if_neg hskip, if_neg hskip]
    rfl

end loop

/-- Settles O5: `loop` traps or enters by whether a loop is open, and the rules of R97 are the branches of `seq` and `goto`. -/
theorem loopOpensAndCloses : Obligations.LoopOpensAndCloses := by
  refine ⟨fun s ra imm sc => ⟨fun hopen => ?_, fun hclosed => ?_⟩, fun sl len a => ?_⟩
  · exact ⟨_, exec_loop_open imm sc hopen, s.trap_trapsWith cILLEGAL _ (by decide)⟩
  · refine ⟨_, exec_loop_closed imm sc hclosed, State.onlySlot_modMe .., ?_⟩
    rw [State.me_enterLoop]
    exact ⟨rfl, fun hcount => ⟨if_neg hcount, rfl⟩, fun hskip => ⟨if_pos (not_not.1 hskip), not_not.1 hskip⟩⟩
  · intro next
    refine ⟨fun hclosed => ?_, fun hopen hend hmore => ?_, fun hend hone => ?_, fun hend hlow hhigh => ?_, fun hend hwithin => ?_,
      Slot.goto_pc a sl, Slot.goto_inside, Slot.goto_outside⟩
    · rw [Slot.seq_closed hclosed]
      exact ⟨rfl, hclosed, Slot.goto_closed hclosed⟩
    · rw [Slot.seq_again hopen hend hmore]
      exact ⟨rfl, rfl⟩
    · rw [Slot.seq_last hend hone]
      exact ⟨rfl, rfl⟩
    · by_cases hopen : sl.lcount = 0
      · rw [Slot.seq_closed hopen]
        exact ⟨rfl, hopen⟩
      · rw [Slot.seq_straddles hopen hend ⟨hlow, hhigh⟩]
        exact ⟨rfl, rfl⟩
    · rw [Slot.seq_goesOn hend hwithin]
      exact ⟨rfl, rfl⟩

end Sys2Proof.Machine

namespace Sys2Proof.Machine

/-! # Barrier words (O21) -/

/-! ## One arrival (R114) -/

namespace Barrier
variable {w : Barrier} {p : Bool} {b : Int}

/-- The arrivals that R114 lets fail. -/
def refuses (w : Barrier) (p : Bool) (b : Int) : Prop :=
  w.expected = 0 ∨ w.top = true ∨ (p = w.phase ∧ (w.arrived = w.expected ∨ w.bytes + b < -2147483648 ∨ 2147483647 < w.bytes + b)) ∨
    (p ≠ w.phase ∧ (b ≠ 0 ∨ w.early = Nat.min w.expected 63))

/-- The word with an arrival counted, in its phase or as an early one. -/
def counted (w : Barrier) (p : Bool) (b : Int) : Barrier :=
  if p = w.phase then { w with arrived := w.arrived + 1, bytes := w.bytes + b } else { w with early := w.early + 1 }

/-- A word whose phase turns where it is complete, and turns once more where the early arrivals complete the new one. -/
def turned (w : Barrier) : Barrier :=
  if w.arrived = w.expected ∧ w.bytes = 0 then
    if w.early = w.expected then { w with arrived := 0, early := 0 } else { w with phase := !w.phase, arrived := w.early, early := 0 }
  else w

theorem arrive_of_refuses (h : w.refuses p b) : w.arrive p b = none := by
  unfold arrive
  dsimp only
  rcases h with h | h | ⟨hphase, h⟩ | ⟨hphase, h⟩
  · rw [if_pos (.inl h)]
  · rw [if_pos (.inr h)]
  · rw [if_pos hphase, if_pos h, ite_self]
  · rw [if_neg hphase, if_pos h, ite_self]

theorem arrive_of_not_refuses (h : ¬ w.refuses p b) : w.arrive p b = some (w.counted p b).turned := by
  unfold refuses at h
  simp only [not_or, not_and] at h
  obtain ⟨hexpected, htop, hsame, hearly⟩ := h
  unfold arrive counted turned
  dsimp only
  rw [if_neg (not_or.2 ⟨hexpected, htop⟩)]
  by_cases hphase : p = w.phase
  · rw [if_pos hphase, if_pos hphase, if_neg (by simpa only [not_or] using hsame hphase), Bool.not_not]
  · rw [if_neg hphase, if_neg hphase, if_neg (by simpa only [not_or] using hearly hphase), Bool.not_not]

theorem arrive_eq_none_iff : w.arrive p b = none ↔ w.refuses p b := by
  refine ⟨fun h => by_contra fun hn => ?_, arrive_of_refuses⟩
  rw [arrive_of_not_refuses hn] at h
  exact nomatch h

theorem turned_of_open (h : w.arrived ≠ w.expected ∨ w.bytes ≠ 0) : w.turned = w := if_neg (by rwa [not_and_or])

theorem turned_of_complete (h : w.arrived = w.expected ∧ w.bytes = 0) (hearly : w.early ≠ w.expected) :
    w.turned = { w with phase := !w.phase, arrived := w.early, early := 0 } := (if_pos h).trans (if_neg hearly)

theorem turned_twice (h : w.arrived = w.expected ∧ w.bytes = 0) (hearly : w.early = w.expected) :
    w.turned = { w with arrived := 0, early := 0 } := (if_pos h).trans (if_pos hearly)

theorem counted_eq (w : Barrier) (p : Bool) (b : Int) : w.counted p b =
    ⟨w.phase, if p = w.phase then w.bytes + b else w.bytes, w.expected, if p = w.phase then w.arrived + 1 else w.arrived,
      if p = w.phase then w.early else w.early + 1, w.top⟩ := by
  unfold counted
  split <;> rfl

theorem top_of_not_refuses (h : ¬ w.refuses p b) : w.top = false := by
  by_contra htop
  exact h (.inr (.inl (by simpa using htop)))

/-! ## The layout (R113) -/

/-- The number that the word of a barrier is, its fields in their ranges. -/
theorem toNat_word (hexpected : w.expected < 4096) (harrived : w.arrived < 4096) (hearly : w.early < 64) :
    w.word.toNat = w.phase.toNat + (w.bytes % (2 ^ 32 : Nat)).toNat * 2 + w.expected * 2 ^ 33 + w.arrived * 2 ^ 45 + w.early * 2 ^ 57 +
      w.top.toNat * 2 ^ 63 := by
  have hp : (if w.phase = true then 1 else 0) = w.phase.toNat := by cases w.phase <;> rfl
  have ht : (if w.top = true then 2 ^ 63 else 0) = w.top.toNat * 2 ^ 63 := by cases w.top <;> rfl
  unfold word w64
  rw [hp, ht, BitVec.toNat_ofNat, Nat.mod_eq_of_lt]
  have := w.phase.toNat_le
  have := w.top.toNat_le
  omega

/-- A signed 32-bit number comes back from its residue. -/
theorem toInt_ofNat_residue {x : Int} (hlow : -2 ^ 31 ≤ x) (hhigh : x < 2 ^ 31) : (BitVec.ofNat 32 (x % (2 ^ 32 : Nat)).toNat).toInt = x := by
  rw [BitVec.toInt_eq_toNat_cond, BitVec.toNat_ofNat]
  omega

theorem ofWord_word (hlow : -2 ^ 31 ≤ w.bytes) (hhigh : w.bytes < 2 ^ 31) (hexpected : w.expected < 4096) (harrived : w.arrived < 4096)
    (hearly : w.early < 64) : ofWord w.word = w ∧ w.word.getLsbD 0 = w.phase ∧ w.word.getLsbD 63 = w.top := by
  have hword := toNat_word hexpected harrived hearly
  have hphase := w.phase.toNat_le
  have htop := w.top.toNat_le
  have hbit (b : Bool) : decide (b.toNat = 1) = b := by cases b <;> rfl
  have h0 : w.word.getLsbD 0 = w.phase := by
    rw [getLsbD_eq_decide, ← hbit w.phase, hword]
    exact decide_eq_decide.2 (by omega)
  have h63 : w.word.getLsbD 63 = w.top := by
    rw [getLsbD_eq_decide, ← hbit w.top, hword]
    exact decide_eq_decide.2 (by omega)
  have hbytes : (BitVec.ofNat 32 (w.word.toNat / 2)).toInt = w.bytes := by
    rw [← toInt_ofNat_residue hlow hhigh]
    congr 1
    apply BitVec.eq_of_toNat_eq
    rw [BitVec.toNat_ofNat, BitVec.toNat_ofNat, hword]
    omega
  refine ⟨?_, h0, h63⟩
  unfold ofWord wbits
  rw [h0, h63, hbytes, hword]
  congr 1 <;> omega

end Barrier

/-- R113 and R114: a refused arrival fails, any other is counted and may turn the phase once or twice; the fields read back. -/
theorem barrierArrivalRule : barrierArrivalRuleRules := by
  refine ⟨fun w p b => ?_, fun w => Barrier.ofWord_word⟩
  intro fails n bytes e
  have hcount (hok : ¬ fails) : w.counted p b = ⟨w.phase, bytes, w.expected, n, e, false⟩ := by
    rw [Barrier.counted_eq, Barrier.top_of_not_refuses hok]
  refine ⟨Barrier.arrive_eq_none_iff, fun hok hopen => ?_, fun hok hn hbytes he => ?_, fun hok hn hbytes he => ?_⟩
  · rw [Barrier.arrive_of_not_refuses hok, hcount hok, Barrier.turned_of_open hopen]
  · rw [Barrier.arrive_of_not_refuses hok, hcount hok, Barrier.turned_of_complete ⟨hn, hbytes⟩ he, hbytes]
  · rw [Barrier.arrive_of_not_refuses hok, hcount hok, Barrier.turned_twice ⟨hn, hbytes⟩ he, hbytes]

end Sys2Proof.Machine

namespace Sys2Proof.Machine

/-! # The instructions on a barrier word (O21) -/

/-- The little-endian bytes of a number hold it, as far as they reach. -/
theorem ofBytes_toBytes (n v : Nat) : ofBytes (toBytes n v) = v % 256 ^ n := by
  induction n generalizing v with
  | zero => rw [Nat.pow_zero, Nat.mod_one]; rfl
  | succ n ih =>
    show (BitVec.ofNat 8 v).toNat + 256 * ofBytes (toBytes n (v / 256)) = _
    rw [ih, BitVec.toNat_ofNat, Nat.pow_succ' (m := 256), Nat.mod_mul]

/-- A word that has been written reads back. -/
theorem State.word_setBytes (key : Nat) (v : Word) (s : State) :
    BitVec.ofNat 64 (ofBytes ((s.setBytes key (toBytes 8 v.toNat)).bytesAt key 8)) = v := by
  have h := s.bytesAt_setBytes key (toBytes 8 v.toNat)
  rw [toBytes_length] at h
  rw [h, ofBytes_toBytes, Nat.mod_eq_of_lt (by have := v.isLt; omega), BitVec.ofNat_toNat, BitVec.setWidth_eq]

section barriers
variable {s : State} {ea : Word} {k off : Nat} {m : BitVec 2} {p : Bool} {b : Int} {fin : Home → Word → State → State}

/-- The slot in hand parks, and its wake stands out. -/
def State.parkToWake (park : Park) (sc : Nat) (s : State) : State := (s.parkMe park sc).post .slotWake (arg1 s.cur)

theorem State.giveX_eq (rd : Reg) (v : Word) (sc : Nat) (s : State) : s.giveX rd v sc = s.parkToWake (.give rd.toNat v sc) sc := rfl

theorem State.awaitPhase_eq (h : Home) (ea : Word) (p : Bool) (rd : Reg) (sc : Nat) (m : BitVec 2) (s : State) :
    s.awaitPhase h ea p rd sc m = s.parkToWake (.barrier (some h) ea p rd.toNat sc (scopeOf m)) sc := rfl

theorem State.parkToWake_spec (park : Park) (sc : Nat) (s : State) : let t := s.parkToWake park sc
    s.onlySlotPosts s.cur t ∧ t.work = s.work ++ [⟨.slotWake, arg1 s.cur⟩] ∧ s.me.parksAs park (s.cycle + 1 + sc) t.me :=
  have hpark := s.parkMe_spec park sc
  ⟨State.onlySlot_post hpark.1 .., rfl, hpark.2⟩

/-- A park behind a word written at `key`. -/
theorem State.parkToWake_writesWord (key : Nat) (v : Word) (park : Park) (sc : Nat) (s : State) :
    let t := (s.setBytes key (toBytes 8 v.toNat)).parkToWake park sc
    s.writesWord key v t ∧ t.work = s.work ++ [⟨.slotWake, arg1 s.cur⟩] ∧ s.me.parksAs park (s.cycle + 1 + sc) t.me := by
  obtain ⟨⟨hframe, hslots⟩, hwork, hpark⟩ := State.parkToWake_spec park sc (s.setBytes key (toBytes 8 v.toNat))
  refine ⟨⟨?_, hslots, State.word_setBytes key v s, fun a ha => State.byteAt_setBytes_other (by rwa [toBytes_length]) s⟩, hwork, hpark⟩
  rw [hframe]
  rfl

/-- An arrival that its checks and its release let through to a scratchpad word. -/
theorem State.arrival_reaches (h : s.reachesBarrier ea k off m) : s.arrival ea p b m fin =
    ((s.arriveAt (.sram k off) p b).map fun x => fin (.sram k off) x.1 x.2).getD (s.trap cPHASE ea) := by
  obtain ⟨hplace, hpoison, hreleased, -⟩ := h
  have hclean : ¬ s.homePoison (.sram k off) = true := by
    rw [show s.homePoison (.sram k off) = false from hpoison]
    nofun
  unfold State.arrival State.access State.releasing
  rw [hplace]
  dsimp only
  rw [if_pos hreleased]
  refine (if_neg hclean).trans ?_
  show (match s.arriveAt (.sram k off) p b with | none => s.trap cPHASE ea | some (w, u) => fin (.sram k off) w u) = _
  cases s.arriveAt (.sram k off) p b <;> rfl

/-- An arrival that fails PHASE. -/
theorem State.arrival_fails (h : s.reachesBarrier ea k off m) (hfails : (Barrier.ofWord (s.word8 (.sram k off))).arrive p b = none) :
    s.arrival ea p b m fin = s.trap cPHASE ea := by
  have hnone : s.arriveAt (.sram k off) p b = none := by
    unfold State.arriveAt
    dsimp only
    rw [hfails]
  rw [State.arrival_reaches h, hnone]
  rfl

/-- An arrival that is counted. -/
theorem State.arrival_counts {v : Barrier} (h : s.reachesBarrier ea k off m)
    (hcounts : (Barrier.ofWord (s.word8 (.sram k off))).arrive p b = some v) :
    s.arrival ea p b m fin = fin (.sram k off) (s.word8 (.sram k off)) (s.setBytes (sramKey k off) (toBytes 8 v.word.toNat)) := by
  have hsome : s.arriveAt (.sram k off) p b = some (s.word8 (.sram k off), s.setBytes (sramKey k off) (toBytes 8 v.word.toNat)) := by
    unfold State.arriveAt
    dsimp only
    rw [hcounts]
    rfl
  rw [State.arrival_reaches h, hsome]
  rfl

theorem State.loadsPerformed_of_released {scope : Scope} (h : s.released s.cur scope = true) :
    s.loadsPerformed s.cur = true ∧ s.sendsPerformed s.cur = true := by
  unfold State.released State.sendReleased at h
  simp only [Bool.and_eq_true, List.isEmpty_iff] at h
  obtain ⟨⟨⟨hstores, -⟩, -⟩, hsends⟩ := h
  unfold State.loadsPerformed
  rw [hstores]
  exact ⟨rfl, hsends⟩

variable {rd ra rb : Reg} {sc : BitVec 3}

/-- `wfp` on a scratchpad word that it reaches: it returns the word, or waits for its phase. -/
theorem exec_wfp_reaches (h : s.reachesBarrier (s.x ra) k off m) : exec (.wfp rd ra rb m sc) s =
    .next (if (s.word8 (.sram k off)).getLsbD 0 ≠ (s.x rb).getLsbD 0 then (s.setX rd (s.word8 (.sram k off))).retire 4 sc.toNat
      else s.awaitPhase (.sram k off) (s.x ra) ((s.x rb).getLsbD 0) rd sc.toNat m) := by
  obtain ⟨hplace, hpoison, hreleased, ⟨-, happart⟩, hl1⟩ := h
  obtain ⟨hloads, hsends⟩ := State.loadsPerformed_of_released hreleased
  have hclean : ¬ s.homePoison (.sram k off) = true := by
    rw [show s.homePoison (.sram k off) = false from hpoison]
    nofun
  show execWfp rd ra rb m sc s = _
  unfold execWfp State.access State.afterLoads
  dsimp only
  rw [hplace]
  dsimp only
  rw [State.settleStores_apart happart, show s.touch (.sram k off) = s from rfl, if_neg hclean, hloads, hsends, Bool.and_self, if_pos rfl,
    State.acquire_of_nil hl1]

theorem exec_arrx_top (h : (s.x rb).getLsbD 63 = true) : exec (.arrx rd ra rb m sc) s = .next (s.trap cPHASE (s.x ra)) := congrArg Host.Outcome.next (if_pos h)

/-- `arrx` arrives with the upper half of x[rb] where its bit 63 is clear. -/
theorem exec_arrx_arrives (h : (s.x rb).getLsbD 63 = false) : exec (.arrx rd ra rb m sc) s =
    .next (s.arrival (s.x ra) ((s.x rb).getLsbD 0) ((s.x rb).toNat / 2 ^ 32 : Nat) m fun _ w s => s.giveX rd w sc.toNat) := by
  have hhigh : wbits (s.x rb) 32 32 = (s.x rb).toNat / 2 ^ 32 := Nat.mod_eq_of_lt (by have := (s.x rb).isLt; omega)
  rw [← hhigh]
  exact congrArg Host.Outcome.next (if_neg (by rw [h]; nofun))

end barriers

/-- R115: arrivals come to one update of the word and one park, failed ones to one trap, and `wfp` to a retirement or the park. -/
theorem barrierInstructions : barrierInstructionsRules := by
  intro s rd ra rb m sc k off ea key p w parked given returns
  have hw : s.word8 (.sram k off) = w := s.word8_sram k off
  have htrap : s.trapsWith cPHASE ea (s.trap cPHASE ea) := State.trap_trapsWith _ _ _ (by decide)
  have hgiven (v : Barrier) : let t := (s.setBytes key (toBytes 8 v.word.toNat)).giveX rd w sc.toNat; s.writesWord key v.word t ∧ given w t :=
    State.parkToWake_writesWord key v.word (.give rd.toNat w sc.toNat) sc.toNat s
  have hparked (v : Barrier) : let t := (s.setBytes key (toBytes 8 v.word.toNat)).awaitPhase (.sram k off) ea p rd sc.toNat m
      s.writesWord key v.word t ∧ parked t :=
    State.parkToWake_writesWord key v.word (.barrier (some (.sram k off)) ea p rd.toNat sc.toNat (scopeOf m)) sc.toNat s
  refine ⟨fun htop => ⟨_, exec_arrx_top htop, htrap⟩, fun hreach => ?_⟩
  have hfails {b : Int} (fin : Home → Word → State → State) (h : (Barrier.ofWord w).arrive p b = none) :
      s.arrival ea p b m fin = s.trap cPHASE ea := State.arrival_fails hreach (by rwa [hw])
  have hcounts {b : Int} {v : Barrier} (fin : Home → Word → State → State) (h : (Barrier.ofWord w).arrive p b = some v) :
      s.arrival ea p b m fin = fin (.sram k off) w (s.setBytes key (toBytes 8 v.word.toNat)) := by
    rw [State.arrival_counts hreach (by rwa [hw]), hw]
  have hwfp : exec (.wfp rd ra rb m sc) s = _ := exec_wfp_reaches hreach
  rw [hw] at hwfp
  refine ⟨fun hn => ⟨⟨_, congrArg Host.Outcome.next (hfails _ hn), htrap⟩, ⟨_, congrArg Host.Outcome.next (hfails _ hn), htrap⟩⟩,
    fun hclear hn => ⟨_, (exec_arrx_arrives hclear).trans (congrArg Host.Outcome.next (hfails _ hn)), htrap⟩,
    fun v hv => ⟨⟨_, congrArg Host.Outcome.next (hcounts _ hv), hgiven v⟩, ⟨_, congrArg Host.Outcome.next (hcounts _ hv), hparked v⟩⟩,
    fun v hclear hv => ⟨_, (exec_arrx_arrives hclear).trans (congrArg Host.Outcome.next (hcounts _ hv)), hgiven v⟩, fun hother => ?_, fun hsame => ?_⟩
  · obtain ⟨hslot, hrest, hstep, hx⟩ := s.setX_setsX rd w 4 sc.toNat
    exact ⟨_, hwfp.trans (congrArg Host.Outcome.next (if_pos hother)), hslot, hrest, hstep, hx, rfl⟩
  · exact ⟨_, hwfp.trans (congrArg Host.Outcome.next (if_neg (not_not_intro hsame))), State.parkToWake_spec _ _ s⟩

/-- Settles O21, by the rule of one arrival and the four instructions that make or await one. -/
theorem barriers : Obligations.Barriers := ⟨barrierArrivalRule, barrierInstructions⟩

end Sys2Proof.Machine

namespace Sys2Proof.Machine

/-! # The break of a reply whose entry lies under an empty key slot (O51) -/

/-- Core 9's promise, which the activation answers. -/
def strandedKey : Word := mkHandle 9 3 1 1 5

/-- Domain 0's tables map its first GiB to itself, uncached and under key slot 1; entry 1 of the handle table at 0x40000 is a plain
pending answer entry for that promise. -/
def strandedMemory : List Host.Cell :=
  [(0x20000, 0x21001), (0x21000, 0x1AD), (0x40040, ((HEntry.zero.freed.mk' 2 9 strandedKey).w0 : Word)), (0x40050, strandedKey)].foldl
    (fun m (e : Nat × Word) => Memory.setList e.1 (toBytes 8 e.2.toNat) m) []

/-- A supervisor slot in hand, and slot 0 with an activation that owes a reply. Key slot 1 is empty, so that an uncached write to the
handle table is lost (R383). -/
def strandedState : State :=
  { State.reset with
    cur := 16384, mem := strandedMemory, slots := [(0, { Slot.reset with active := true, replyh := strandedKey })],
    cores := [(0, { Core.reset with htbase := 0x40000 })], clusters := [(0, { Cluster.reset with en := true, root := 0x20 })],
    chip := { Chip.reset with keys := [(0, ⟨true, 1, 0⟩)] } }

theorem strandedState_keyed : strandedState.keyedIndex 0 (strandedState.slot 0).replyh = some 1 := by decide +kernel

theorem strandedState_quiet : (strandedState.entry 0 1).quiet := by
  unfold HEntry.quiet
  decide +kernel

theorem strandedState_forwards : strandedState.forwarding 0 (strandedState.entry 0 1).w2 = false := by decide +kernel

theorem strandedState_notLocal : strandedState.isLocalPromise 0 1 = false := by decide +kernel

/-- The entry stands as it did: its write was lost. -/
theorem strandedState_stillPending : ((strandedState.breakActivation 0 rSUPERVISOR 0).entry 0 1).st = 1 := by decide +kernel

/-- Refutes O51: its clause on sv.break has the reply's entry read broken, but where the handle table lies uncached under an empty key
slot (`strandedState`) the write that breaks the entry is lost (R383), and it stays pending. -/
theorem not_supervisorInstructionsAndSlices : ¬ Obligations.SupervisorInstructionsAndSlices := by
  unfold Obligations.SupervisorInstructionsAndSlices
  rintro ⟨⟨hinstructions, -⟩, -⟩
  obtain ⟨-, hsup⟩ := hinstructions strandedState 0 0 0 0
  obtain ⟨-, hslot, -⟩ := hsup rfl
  obtain ⟨-, -, -, hbreak, -⟩ := hslot (by decide)
  obtain ⟨-, -, -, -, -, -, hentry⟩ := hbreak rfl
  obtain ⟨hbroken, -⟩ := hentry 1 (by decide) strandedState_keyed strandedState_quiet strandedState_forwards strandedState_notLocal
  exact absurd (hbroken.symm.trans strandedState_stillPending) (by decide)

end Sys2Proof.Machine

namespace Sys2Proof.Machine

/-! # What a table walk does (R138, R145, R146) -/

/-! ## Lines that are read -/

/-- No step has come to stand out, and of the chip's registers only the repair books have changed. -/
def State.repairsOnly (s t : State) : Prop :=
  t.work = s.work ∧ t.chip = { s.chip with corrected := t.chip.corrected, repair := t.chip.repair, pendRep := t.chip.pendRep }

namespace State.repairsOnly
variable {s t u : State}

protected theorem rfl : s.repairsOnly s := ⟨Eq.refl _, Eq.refl _⟩

theorem trans (h : s.repairsOnly t) (h' : t.repairsOnly u) : s.repairsOnly u := by
  obtain ⟨hwork, hchip⟩ := h
  obtain ⟨hwork', hchip'⟩ := h'
  exact ⟨hwork'.trans hwork, by rw [hchip', hchip]⟩

theorem ite {c : Prop} [Decidable c] (ht : s.repairsOnly t) (hu : s.repairsOnly u) : s.repairsOnly (if c then t else u) := by
  split
  · exact ht
  · exact hu

theorem foldl {α : Type} {f : State → α → State} (hf : ∀ (u : State) a, u.repairsOnly (f u a)) (l : List α) (h : s.repairsOnly t) :
    s.repairsOnly (l.foldl f t) := by
  induction l generalizing t with
  | nil => exact h
  | cons a l ih => exact ih (h.trans (hf t a))

end State.repairsOnly

section repairs
variable (s : State)

theorem State.repairsOnly_recordPosition (line sym : Nat) : s.repairsOnly (s.recordPosition line sym) := State.repairsOnly.ite .rfl ⟨rfl, rfl⟩

theorem State.repairsOnly_correctedAt (line : Nat) (once : Bool) (sym : Nat) : s.repairsOnly (s.correctedAt line once sym) :=
  State.repairsOnly.ite (s.repairsOnly_recordPosition ..) ⟨rfl, rfl⟩

theorem State.repairsOnly_decodeLine (line : Nat) : s.repairsOnly (s.decodeLine line) :=
  State.repairsOnly.ite .rfl (State.repairsOnly.ite (State.repairsOnly.foldl (fun _ _ => State.repairsOnly_correctedAt ..) _ .rfl) ⟨rfl, rfl⟩)

theorem State.repairsOnly_setPoison (k : Nat) (b : Bool) : s.repairsOnly (s.setPoison k b) := ⟨rfl, rfl⟩

theorem State.repairsOnly_setMemL2 (m : List Host.Cell) (l : SMap L2Line) : s.repairsOnly { s with mem := m, l2 := l } := ⟨rfl, rfl⟩

theorem State.repairsOnly_renew (pa : Nat) (whole : Bool) : s.repairsOnly (s.renew pa whole) := by
  unfold State.renew
  extract_lets ok t
  have ht : s.repairsOnly t := State.repairsOnly.ite .rfl (s.repairsOnly_decodeLine ..)
  exact State.repairsOnly.ite .rfl ((State.repairsOnly.ite ht (ht.trans (t.repairsOnly_setPoison pa true))).trans ⟨rfl, rfl⟩)

theorem State.repairsOnly_keyRecord (ks pa : Nat) : s.repairsOnly (s.keyRecord ks pa) := State.repairsOnly.ite .rfl ⟨rfl, rfl⟩

theorem State.repairsOnly_lpWrite (ks pa : Nat) (l : List Byte) : s.repairsOnly (s.lpWrite ks pa l) := by
  unfold State.lpWrite
  extract_lets base t u
  have ht : s.repairsOnly t := s.repairsOnly_renew ..
  have hu : t.repairsOnly u := by
    unfold u
    split
    · exact .rfl
    · exact State.repairsOnly.ite .rfl ⟨rfl, rfl⟩
  exact State.repairsOnly.ite (s.repairsOnly_keyRecord ..) ((ht.trans hu).trans ⟨rfl, rfl⟩)

theorem State.repairsOnly_setLineFull (k : Nat) (b : Byte) : s.repairsOnly (s.setLineFull k b) :=
  State.repairsOnly.foldl (f := fun s i => s.setFullAt (k / 64 * 64 + 8 * i) (b.getLsbD i)) (fun _ _ => ⟨rfl, rfl⟩) _ .rfl

theorem State.repairsOnly_cleanL2 (slice pa : Nat) : s.repairsOnly (s.cleanL2 slice pa) := by
  unfold State.cleanL2
  split
  · exact .rfl
  · extract_lets base k ks t
    have ht : s.repairsOnly t := s.repairsOnly_setMemL2 s.mem _
    refine State.repairsOnly.ite .rfl (State.repairsOnly.ite (ht.trans (t.repairsOnly_keyRecord ..)) (ht.trans ?_))
    refine State.repairsOnly.trans (State.repairsOnly.ite (t.repairsOnly_lpWrite ..) ?_) (State.repairsOnly_setPoison ..)
    exact State.repairsOnly.foldl (fun _ _ => State.repairsOnly_lpWrite ..) _ .rfl

theorem State.repairsOnly_evictL2 (slice pa : Nat) : s.repairsOnly (s.evictL2 slice pa) := by
  unfold State.evictL2
  extract_lets base k t u
  have ht : s.repairsOnly t := s.repairsOnly_cleanL2 ..
  have hu : t.repairsOnly u := State.repairsOnly.ite (t.repairsOnly_lpWrite ..) .rfl
  refine State.repairsOnly.ite .rfl ((ht.trans hu).trans ?_)
  exact State.repairsOnly.trans (State.repairsOnly.trans (u.repairsOnly_setPoison k false) (State.repairsOnly_setLineFull _ k 0)) (State.repairsOnly_setMemL2 ..)

theorem State.repairsOnly_roomL2 (slice pa : Nat) : s.repairsOnly (s.roomL2 slice pa) := by
  unfold State.roomL2
  extract_lets l
  refine State.repairsOnly.ite .rfl ?_
  split
  · exact .rfl
  · have hfresh : s.repairsOnly { s with fresh := s.fresh + 1 } := ⟨rfl, rfl⟩
    exact hfresh.trans (State.repairsOnly_evictL2 ..)

theorem State.repairsOnly_fillL2 (slice ks pa : Nat) : s.repairsOnly (s.fillL2 slice ks pa) := by
  unfold State.fillL2
  extract_lets t base k bad u v m
  have ht : s.repairsOnly t := s.repairsOnly_roomL2 ..
  have hu : t.repairsOnly u := t.repairsOnly_decodeLine ..
  have hv : u.repairsOnly v := State.repairsOnly.ite (u.repairsOnly_decodeLine ..) .rfl
  refine State.repairsOnly.ite .rfl (((ht.trans hu).trans hv).trans ?_)
  have hline : v.repairsOnly ({ v with mem := m, l2 := put (l2Index slice pa) ⟨false, 0, BitVec.ofNat 8 ks⟩ v.l2 }.setPoison k bad) :=
    (v.repairsOnly_setMemL2 ..).trans (State.repairsOnly_setPoison ..)
  exact (hline.trans (State.repairsOnly_setLineFull ..)).trans (State.repairsOnly_keyRecord ..)

theorem State.setLineFull_l2 (k : Nat) (b : Byte) : (s.setLineFull k b).l2 = s.l2 := by
  unfold State.setLineFull
  generalize List.range 8 = l
  induction l generalizing s with
  | nil => rfl
  | cons i l ih => exact ih _

theorem State.keyRecord_l2 (ks pa : Nat) : (s.keyRecord ks pa).l2 = s.l2 := by
  unfold State.keyRecord
  split <;> rfl

theorem find?_put_same {α : Type} (k : Nat) (v : α) (m : SMap α) : find? (put k v m) k = some v := by
  induction m with
  | nil => simp [put, find?]
  | cons e m ih =>
    obtain ⟨j, w⟩ := e
    simp only [put]
    split
    · simp [find?]
    · split
      · simp [find?]
      next hlt hne => rw [find?, if_neg (Ne.symm hne), ih]

/-- A line that is brought into its slice is there. -/
theorem State.l2Has_fillL2 (slice ks pa : Nat) : (s.fillL2 slice ks pa).l2Has slice pa = true := by
  unfold State.fillL2
  extract_lets t base k bad u v m
  split
  · assumption
  · unfold State.l2Has
    rw [State.keyRecord_l2, State.setLineFull_l2]
    exact congrArg Option.isSome (find?_put_same ..)

/-- The lines of table entries read one after the other, each allocated in its slice (R138). -/
def State.readLines (l : List Nat) (s : State) : State := l.foldl (fun (s : State) pa => s.touch (tableHome pa)) s

theorem State.touch_tableHome (pa : Nat) : s.touch (tableHome pa) = s.fillL2 (pa / 2 ^ 16 % 256) 0 pa := rfl

theorem State.storageOnly_readLines (l : List Nat) : s.storageOnly (s.readLines l) :=
  State.storageOnly.foldl (fun u pa => by rw [State.touch_tableHome]; exact u.storageOnly_fillL2 ..) _ State.storageOnly.rfl

theorem State.repairsOnly_readLines (l : List Nat) : s.repairsOnly (s.readLines l) :=
  State.repairsOnly.foldl (fun u pa => by rw [State.touch_tableHome]; exact u.repairsOnly_fillL2 ..) _ .rfl

/-- The line read last is in its slice. -/
theorem State.l2Has_readLines {l : List Nat} {a : Nat} (h : l.getLast? = some a) : (s.readLines l).l2Has (a / 2 ^ 16 % 256) a = true := by
  obtain ⟨l, rfl⟩ := List.getLast?_eq_some_iff.1 h
  unfold State.readLines
  rw [List.foldl_append, List.foldl_cons, List.foldl_nil, State.touch_tableHome]
  exact State.l2Has_fillL2 ..

end repairs

/-! ## The frame of a walk -/

/-- `t` is `s` but for held translations, walks under way, and what reading table lines brings. -/
def State.walkOnly (s t : State) : Prop :=
  t = { s with clusters := t.clusters, sectors := t.sectors, mem := t.mem, l2 := t.l2, poison := t.poison, full := t.full, written := t.written,
               records := t.records, fresh := t.fresh, errors := t.errors,
               chip := { s.chip with corrected := t.chip.corrected, repair := t.chip.repair, pendRep := t.chip.pendRep } }

namespace State.walkOnly
variable {s t u : State}

protected theorem rfl : s.walkOnly s := Eq.refl s

theorem trans (h : s.walkOnly t) (h' : t.walkOnly u) : s.walkOnly u := by
  unfold State.walkOnly at *
  rw [h', h]

theorem slots (h : s.walkOnly t) : t.slots = s.slots := by rw [h]
theorem cur (h : s.walkOnly t) : t.cur = s.cur := by rw [h]
theorem me (h : s.walkOnly t) : t.me = s.me := by rw [State.me, State.slot, h.slots, h.cur]; rfl
theorem myCore (h : s.walkOnly t) : t.myCore = s.myCore := congrArg coreOf h.cur

end State.walkOnly

theorem State.storageOnly.clusters {s t : State} (h : s.storageOnly t) : t.clusters = s.clusters := by rw [h]
theorem State.storageOnly.sectors {s t : State} (h : s.storageOnly t) : t.sectors = s.sectors := by rw [h]

theorem State.storageOnly.walkOnly {s t : State} (h : s.storageOnly t) (h' : s.repairsOnly t) : s.walkOnly t := by
  obtain ⟨hwork, hchip⟩ := h'
  unfold State.walkOnly
  rw [← hchip, h.clusters, h.sectors, ← hwork]
  exact h

theorem State.walkOnly_readLines (s : State) (l : List Nat) : s.walkOnly (s.readLines l) :=
  (s.storageOnly_readLines l).walkOnly (s.repairsOnly_readLines l)

section walks
variable {s v : State} {u : TUnit} {dom va : Nat}

/-- A walk that is taken touches its sector's account of walks at most. -/
theorem State.takeWalk_sectors {page : Nat} (h : s.takeWalk u dom page = some v) : v = { s with sectors := v.sectors } := by
  unfold State.takeWalk at h
  split at h
  · cases h
    rfl
  · extract_lets e now key at h
    split at h
    · cases h
      rfl
    · split at h
      · cases h
      · cases h
        rfl

/-- Taking a walk changes nothing that a table is read from. -/
theorem State.storesAs_takeWalk {page : Nat} (h : s.takeWalk u dom page = some v) : s.storesAs v := by
  rw [State.takeWalk_sectors h]
  exact ⟨rfl, rfl, rfl, rfl, rfl, rfl, rfl, fun _ => rfl⟩

theorem State.storesAs.tableEntry (h : s.storesAs v) (pa : Nat) : v.tableEntry pa = s.tableEntry pa := by
  unfold State.tableEntry
  rw [h.homeBytes]

theorem State.storesAs.walkReads (h : s.storesAs v) (va n tab : Nat) : v.walkReads va n tab = s.walkReads va n tab := by
  induction n generalizing tab with
  | zero => rfl
  | succ n ih =>
    unfold State.walkReads
    dsimp only
    rw [h.tableEntry, h.homePoison, ih]

theorem State.walk_busy (h : s.takeWalk u dom (va / 65536) = none) : s.walk u dom va = (.busy, s) := by
  unfold State.walk
  rw [h]

/-- What a walk for a page makes of the translations held, the pages of its domain being numbered from `base` on. -/
def Walk.keeps (w : Walk) (base page cap : Nat) (m : SMap Leaf) : SMap Leaf := match w with
  | .leaf l first => tlbHold m (base + first) l cap
  | _ => tlbForget m (base + page)

/-- A walk that is taken reads its lines, and holds the leaf it finds or forgets what was held for the page. -/
theorem State.walk_taken (h : s.takeWalk u dom (va / 65536) = some v) :
    s.walk u dom va = (s.walkFrom va 4 (s.rootOf dom).2, (v.readLines (s.walkReads va 4 (s.rootOf dom).2)).modHeld u dom
      ((s.walkFrom va 4 (s.rootOf dom).2).keeps (u.base dom) (va / 65536) u.cap)) := by
  have hv := State.storesAs_takeWalk h
  unfold State.walk
  rw [h]
  dsimp only
  rw [hv.roots, hv.walkFrom, hv.walkReads]
  unfold State.readLines
  cases s.walkFrom va 4 (s.rootOf dom).2 <;> rfl

theorem State.walkOnly_modHeld (f : SMap Leaf → SMap Leaf) (s : State) : s.walkOnly (s.modHeld u dom f) := by
  cases u <;> rfl

theorem State.walkOnly_walk : s.walkOnly (s.walk u dom va).2 := by
  cases h : s.takeWalk u dom (va / 65536) with
  | none => rw [State.walk_busy h]; exact .rfl
  | some v =>
    rw [State.walk_taken h]
    dsimp only
    have hv : s.walkOnly v := by
      rw [State.takeWalk_sectors h]
      rfl
    have hreads := hv.trans (v.walkOnly_readLines (s.walkReads va 4 (s.rootOf dom).2))
    exact hreads.trans (State.walkOnly_modHeld ..)

theorem State.walkOnly_translate : s.walkOnly (s.translate u dom va).2 := by
  unfold State.translate
  split
  · split
    · exact State.walkOnly_walk
    · exact .rfl
  · exact State.walkOnly_walk

/-- The checks of an access change nothing but what a walk does. -/
theorem State.walkOnly_checkBy {c n : Nat} {a : Word} {need : Need} : s.walkOnly (s.checkBy u c a n need).2 := by
  unfold State.checkBy
  split
  · exact .rfl
  split
  · exact .rfl
  extract_lets dom
  split
  · exact .rfl
  · have hwalk : s.walkOnly (s.translate u dom a.toNat).2 := State.walkOnly_translate
    generalize s.translate u dom a.toNat = p at hwalk ⊢
    obtain ⟨w, t⟩ := p
    cases w with
    | leaf l first =>
      dsimp only
      split <;> exact hwalk
    | invalid e => exact hwalk
    | poison e => exact hwalk
    | busy => exact hwalk

theorem State.walkOnly_place {ea : Word} {n : Nat} {need : Need} {r : Chk} (h : s.place ea n need = (r, v)) : s.walkOnly v := by
  unfold State.place at h
  split at h
  · cases h
    exact .rfl
  · have hcheck := State.walkOnly_checkBy (s := s) (u := .tlb) (c := s.myCore) (n := n) (a := ea) (need := need)
    rwa [show s.checkBy .tlb s.myCore ea n need = _ from h] at hcheck

end walks

end Sys2Proof.Machine

namespace Sys2Proof.Machine

/-! # The checks of an access (O11) -/

/-! ## The scratchpad form (R128, R131, R133) -/

/-- A region serves an access if it is valid, aligned and of the requester's partition, covers the bytes, and gives the rights (R131). -/
theorem Region.allows_iff (r : Region) (q off n : Nat) (rd wr : Bool) : r.allows q off n rd wr = true ↔
    r.valid = true ∧ q ≠ 0 ∧ r.part.toNat = q ∧ r.base.toNat % 64 = 0 ∧ r.size.toNat % 64 = 0 ∧ r.base.toNat ≤ off ∧
      off + n ≤ min (r.base.toNat + r.size.toNat) 0x100000 ∧ (rd = true → r.rd = true) ∧ (wr = true → r.wr = true) := by
  have himp (a b : Bool) : (!a || b) = true ↔ (a = true → b = true) := by cases a <;> simp
  unfold Region.allows
  simp only [Bool.and_eq_true, decide_eq_true_eq, himp, and_assoc]

theorem getLsbD_top_iff (a : Word) : a.getLsbD 63 = true ↔ 2 ^ 63 ≤ a.toNat := by
  have := a.isLt
  rw [BitVec.getLsbD, Nat.testBit_eq_decide_div_mod_eq, decide_eq_true_eq]
  omega

/-- What a check of the scratchpad form asks of the address, of the cluster and of the requester. -/
structure State.scratchServes (s : State) (c : Nat) (a : Word) (n : Nat) (rd wr : Bool) (k off : Nat) : Prop where
  form : scratchForm a = true
  named : ¬ (wbits a 24 8 = 255 ∧ isSup c = true)
  fits : off + n ≤ 0x100000
  opened : s.resetting k = false ∧ s.powered k = true ∧ s.scratchRole k off n = true
  granted : isSup c = true ∨ (s.cluster k).prot.any (fun r => r.2.allows (s.corePart c) off n rd wr) = true

section scratch
variable {s : State} {c n : Nat} {a : Word} {rd wr : Bool}

theorem State.checkScratch_passes {k off : Nat} (hk : k = if wbits a 24 8 = 255 then clusterOf c else wbits a 24 8) (hoff : off = wbits a 0 20)
    (h : s.scratchServes c a n rd wr k off) : s.checkScratch c a n rd wr = .ok (.sram k off) := by
  obtain ⟨hform, hnamed, hfits, ⟨hreset, hpower, hrole⟩, hgranted⟩ := h
  unfold State.checkScratch
  dsimp only
  rw [← hk, ← hoff, hform, if_neg (by decide), if_neg hnamed, if_neg (Nat.not_lt.2 hfits), hreset, hpower, hrole, if_neg (by decide), if_pos hgranted]

theorem State.checkScratch_fails {k off : Nat} (hk : k = if wbits a 24 8 = 255 then clusterOf c else wbits a 24 8) (hoff : off = wbits a 0 20)
    (h : ¬ s.scratchServes c a n rd wr k off) : s.checkScratch c a n rd wr = .bad cPROTECTION none := by
  unfold State.checkScratch
  dsimp only
  rw [← hk, ← hoff]
  split
  · rfl
  next hform =>
    split
    · rfl
    next hnamed =>
      split
      · rfl
      next hfits =>
        split
        · rfl
        next hopened =>
          split
          next hgranted =>
            refine absurd ⟨by simpa using hform, hnamed, Nat.not_lt.1 hfits, ?_, hgranted⟩ h
            simpa using hopened
          · rfl

end scratch

/-- Scratchpad accesses are checked by one chain of tests. -/
theorem scratchpadAccessIsChecked : scratchpadAccessIsCheckedRules := by
  intro s c a n need htop hex named k off formed served covered
  have hbit : a.getLsbD 63 = true := (getLsbD_top_iff a).2 htop
  have hoff : off = wbits a 0 20 := by
    unfold wbits
    rw [pow_zero, Nat.div_one]
  have hserves : s.scratchServes c a n need.rd need.wr k off ↔ formed ∧ served ∧ (isSup c = true ∨ covered) := by
    have hcovered : (s.cluster k).prot.any (fun r => r.2.allows (s.corePart c) off n need.rd need.wr) = true ↔ covered := by
      simp only [List.any_eq_true, Region.allows_iff, covered]
    have hform : scratchForm a = true ↔ a.toNat / 2 ^ 32 % 2 ^ 31 = 0 ∧ a.toNat / 2 ^ 20 % 16 = 0 := by
      unfold scratchForm
      rw [Bool.and_eq_true, decide_eq_true_eq, decide_eq_true_eq]
      rfl
    have hnamed : ¬ (wbits a 24 8 = 255 ∧ isSup c = true) ↔ (named = 255 → isSup c = false) := by
      rw [not_and, Bool.not_eq_true]
      rfl
    have hpower : s.powered k = true ↔ (s.cluster k).pstate ≠ 0 := decide_eq_true_iff
    constructor
    · rintro ⟨h1, h2, h3, ⟨h4, h5, h6⟩, h7⟩
      obtain ⟨h1, h1'⟩ := hform.1 h1
      exact ⟨⟨h1, h1', hnamed.1 h2, h3⟩, ⟨h4, hpower.1 h5, h6⟩, h7.imp_right hcovered.1⟩
    · rintro ⟨⟨h1, h1', h2, h3⟩, ⟨h4, h5, h6⟩, h7⟩
      exact ⟨hform.2 ⟨h1, h1'⟩, hnamed.2 h2, h3, ⟨h4, hpower.2 h5, h6⟩, h7.imp_right hcovered.2⟩
  have hcheck : s.check c a n need = (s.checkScratch c a n need.rd need.wr, s) := by
    unfold State.check State.checkBy
    rw [if_pos hbit, hex, if_neg (by decide)]
  refine ⟨fun h1 h2 h3 => ?_, fun h => ?_, ?_⟩
  · rw [hcheck, State.checkScratch_passes (k := k) rfl hoff (hserves.2 ⟨h1, h2, h3⟩)]
  · rw [hcheck, State.checkScratch_fails rfl hoff fun hs => h (hserves.1 hs)]
  · unfold State.check State.checkBy
    rw [if_pos hbit]
    rfl

/-! ## Virtual addresses (R140 to R150) -/

section virtual
variable {s u : State} {c n : Nat} {a : Word} {need : Need}

theorem State.check_virtual_outside (ha : a.toNat < 2 ^ 63) (h : 2 ^ 48 ≤ a.toNat ∨ (s.cluster (domainOf c)).en = false) :
    s.check c a n need = (.bad cPROTECTION none, s) := by
  have hbit : ¬ a.getLsbD 63 = true := fun e => absurd ((getLsbD_top_iff a).1 e) (Nat.not_le.2 ha)
  unfold State.check State.checkBy
  rw [if_neg hbit]
  split
  · rfl
  next hhigh =>
    have hen : (s.cluster (domainOf c)).en = false := h.resolve_left fun hge => by
      unfold wbits at hhigh
      omega
    exact if_pos (by show (!(s.cluster (domainOf c)).en) = true; rw [hen]; rfl)

/-- What a walk's answer makes of an access. -/
def Walk.checked (w : Walk) (va : Nat) (need : Need) : Chk := match w with
  | .poison _ => .bad cPOISON none
  | .busy => .busy
  | .invalid e => .bad cNOTPRESENT (some e)
  | .leaf l _ => leafChk l va need.rd need.wr need.ex need.win

theorem State.check_translated {w : Walk} (ha : a.toNat < 2 ^ 48) (hen : (s.cluster (domainOf c)).en = true)
    (ht : s.translate .tlb (domainOf c) a.toNat = (w, u)) : s.check c a n need = (w.checked a.toNat need, u) := by
  have hbit : ¬ a.getLsbD 63 = true := fun e => by
    have := (getLsbD_top_iff a).1 e
    omega
  have hhigh : ¬ wbits a 48 15 ≠ 0 := by
    unfold wbits
    omega
  have hroot : ¬ (!(s.rootOf (domainOf c)).1) = true := by
    show ¬ (!(s.cluster (domainOf c)).en) = true
    rw [hen]
    decide
  unfold State.check State.checkBy
  rw [if_neg hbit, if_neg hhigh]
  dsimp only
  rw [if_neg hroot, ht]
  cases w with
  | leaf l first =>
    unfold Walk.checked
    dsimp only
    cases leafChk l a.toNat need.rd need.wr need.ex need.win <;> rfl
  | invalid e => rfl
  | poison e => rfl
  | busy => rfl

end virtual

section leaf
variable {l : Leaf} {va : Nat} {need : Need}

/-- The rights that an access needs are among those of a leaf (R143). -/
def Need.within (need : Need) (l : Leaf) : Prop :=
  (need.rd = true → l.word.getLsbD 2 = true) ∧ (need.wr = true → l.word.getLsbD 3 = true) ∧ (need.ex = true → l.word.getLsbD 4 = true)

theorem Need.within_iff : need.within l ↔
    ¬ ((need.rd && !l.word.getLsbD 2) || (need.wr && !l.word.getLsbD 3) || (need.ex && !l.word.getLsbD 4)) = true := by
  unfold Need.within
  cases need.rd <;> cases need.wr <;> cases need.ex <;> simp [and_assoc]

/-- The check of a leaf for an access. -/
abbrev Need.leafChk (need : Need) (l : Leaf) (va : Nat) : Chk := Sys2Proof.Machine.leafChk l va need.rd need.wr need.ex need.win

/-- A fetch finds a discarded page absent. -/
theorem Need.leafChk_fetch_discarded (hd : l.word.getLsbD 1 = true) (hex : need.ex = true) :
    need.leafChk l va = .bad cNOTPRESENT (some l.line) := if_pos (by rw [hex, hd]; rfl)

section present
variable (hp : l.word.getLsbD 1 = true → need.ex = false)
include hp

theorem Need.not_absent : ¬ (need.ex && l.word.getLsbD 1) = true := fun e => by
  obtain ⟨hex, hd⟩ := Bool.and_eq_true_iff.1 e
  rw [hp hd] at hex
  cases hex

theorem Need.leafChk_violation (hr : ¬ need.within l) : need.leafChk l va = .bad cPROTECTION none := by
  exact (if_neg (Need.not_absent hp)).trans (if_pos (not_not.1 fun e => hr (Need.within_iff.2 e)))

variable (hr : need.within l)
include hr

/-- With its rights, an access is left to the window bits and the mark of a discarded page. -/
theorem Need.leafChk_within : need.leafChk l va =
    if (need.win && decide (wbits l.word 34 2 = 1)) = true then .bad cWINDOWLOAD none
    else if l.word.getLsbD 1 = true then .disc
    else if wbits l.word 34 2 = 1 then .window (wbits l.word 24 10)
    else .ok (.dram (wbits l.word 16 8) (l.pa va) (wbits l.word 6 2) (wbits l.word 8 8)) := by
  exact (if_neg (Need.not_absent hp)).trans (if_neg (Need.within_iff.1 hr))

end present
end leaf

/-! ## Instructions whose check fails (R147, R150) -/

section traps
variable {s u : State} {i : Sys2Proof.Instr} {ea : Word} {n : Nat} {need : Need}

theorem State.access_bad {cause : Nat} {entry : Option Nat} (h : s.place ea n need = (.bad cause entry, u)) (ok disc win) :
    s.access ea n need ok disc win = u.trapEntry cause ea entry := by
  unfold State.access
  rw [h]

theorem State.access_disc (h : s.place ea n need = (.disc, u)) (ok disc win) : s.access ea n need ok disc win = disc u := by
  unfold State.access
  rw [h]

/-- Instruction `i` comes to an access of `n` bytes at `ea` that asks for `need`, and one that writes traps on a discarded page. -/
def State.comesToAccess (s : State) (i : Sys2Proof.Instr) (ea : Word) (n : Nat) (need : Need) : Prop :=
  ∃ ok disc win, exec i s = .next (s.access ea n need ok disc win) ∧ (need.wr = true → disc = State.discardTrap ea)

/-- A failed check is a trap in the state that the checks leave. -/
theorem State.comesToAccess.traps_bad (hi : s.comesToAccess i ea n need) {cause : Nat} {entry : Option Nat}
    (h : s.place ea n need = (.bad cause entry, u)) (hc : cause ≠ cPOISON) : s.gives i (u.trapped s.cur cause ea s.me.pc entry) := by
  obtain ⟨ok, disc, win, he, -⟩ := hi
  have hu := State.walkOnly_place h
  refine ⟨_, he.trans (congrArg _ (State.access_bad h ..)), ?_⟩
  rw [← hu.cur, ← hu.me]
  exact State.trapAt_trapped _ _ _ _ _ _ fun e => absurd e hc

/-- A write to a discarded page traps DISCARDWRITE, and watches the entry that maps it. -/
theorem State.comesToAccess.traps_disc (hi : s.comesToAccess i ea n need) (h : s.place ea n need = (.disc, u)) (hw : need.wr = true) :
    s.gives i (u.trapped s.cur cDISCARDWRITE ea s.me.pc (u.entryOf s.myCore ea)) := by
  obtain ⟨ok, disc, win, he, hdisc⟩ := hi
  have hu := State.walkOnly_place h
  refine ⟨_, he.trans (congrArg _ (State.access_disc h ..)), ?_⟩
  rw [hdisc hw, ← hu.cur, ← hu.me, ← hu.myCore]
  exact State.trapAt_trapped _ _ _ _ _ _ fun e => absurd e (by decide)

end traps

section instructions
variable {s : State} {i : Sys2Proof.Instr} {ea : Word} {rd ra rb : Reg}

theorem State.comesToAccess_load {n sc : Nat} {toF signed : Bool} (hf : s.me.fences = []) (hs : toF = true → s.streamAt rd = none)
    (he : exec i s = .next (s.load i ea n rd toF signed sc)) : s.comesToAccess i ea n .load := by
  have hn : (if toF = true then s.streamAt rd else none) = none := by
    split
    next ht => exact hs ht
    · rfl
  unfold State.load at he
  dsimp only at he
  rw [hn, if_neg nofun, if_neg (by rw [State.fenced_of_nil hf]; nofun)] at he
  exact ⟨_, _, _, he, fun h => absurd h (by decide)⟩

theorem State.comesToAccess_store {l : List Byte} {n : Nat} {fin : State → State} (hl : l.length = n)
    (he : exec i s = .next (s.storeAccess ea l fin)) : s.comesToAccess i ea n .store := by
  subst hl
  exact ⟨_, _, _, he, fun _ => rfl⟩

theorem State.comesToAccess_home {n : Nat} {need : Need} {mask : BitVec 4} {w : Wait} {ok : Home → State → State} (hf : s.me.fences = [])
    (he : exec i s = .next (if s.fenced s.cur mask then s.waitFor w else s.accessHome ea n need ok)) : s.comesToAccess i ea n need :=
  ⟨_, _, _, he.trans (congrArg _ (if_neg (by rw [State.fenced_of_nil hf]; nofun))), fun _ => rfl⟩

theorem ushiftRight_one_eq_div_two (a : Word) : a >>> 1 = a / 2 := by
  refine BitVec.eq_of_toNat_eq ?_
  rw [BitVec.toNat_ushiftRight, BitVec.toNat_udiv, Nat.shiftRight_eq_div_pow]
  rfl

/-- Each listed instruction comes to the access it is listed with. -/
theorem State.comesToAccess_of_mem {w : BitVec 2} {imm : BitVec 10} {sc : BitVec 3} {z q o : BitVec 1} {c : BitVec 2} (hf : s.me.fences = [])
    {e : Sys2Proof.Instr × Word × Nat × Need} (h : e ∈ s.accesses rd ra rb w imm sc z q o c) : s.comesToAccess e.1 e.2.1 e.2.2.1 e.2.2.2 := by
  have hx : ¬ (false = true) := Bool.false_ne_true
  unfold State.accesses at h
  simp only [List.mem_append, List.mem_map] at h
  rcases h with (h | h) | ⟨i, hi, rfl⟩
  · simp only [List.mem_cons, List.not_mem_nil, or_false] at h
    rcases h with rfl | rfl | rfl | rfl | rfl | rfl | rfl | rfl | rfl
    · exact State.comesToAccess_load hf (fun ht => absurd ht hx) rfl
    · exact State.comesToAccess_load hf (fun ht => absurd ht hx) rfl
    · exact State.comesToAccess_load hf (fun ht => absurd ht hx) rfl
    · exact State.comesToAccess_store (toBytes_length ..) rfl
    · exact State.comesToAccess_store (toBytes_length ..) rfl
    · exact State.comesToAccess_home hf rfl
    · exact State.comesToAccess_home hf rfl
    · exact State.comesToAccess_home hf rfl
    · dsimp only
      rw [← ushiftRight_one_eq_div_two]
      exact State.comesToAccess_home hf rfl
  · split at h
    next hs =>
      simp only [List.mem_cons, List.not_mem_nil, or_false] at h
      rw [show 2 * 2 ^ w.toNat = fBytes w from (pow_succ' 2 w.toNat).symm] at h
      rcases h with rfl | rfl
      · exact State.comesToAccess_load hf (fun _ => hs) rfl
      · refine State.comesToAccess_store (l := toBytes (fBytes w) (s.f rd).toNat) (fin := fun s => s.retire 4 sc.toNat) (toBytes_length ..) ?_
        show execFst rd ra w imm sc s = _
        unfold execFst
        dsimp only
        rw [hs]
        rfl
    · cases h
  · simp only [List.mem_cons, List.not_mem_nil, or_false] at hi
    rcases hi with rfl | rfl | rfl | rfl | rfl | rfl | rfl | rfl | rfl | rfl | rfl | rfl <;> exact State.comesToAccess_home hf rfl

end instructions

/-! ## The obligation -/

/-- What a translation's answer makes of an access, and the instructions that trap on it. -/
theorem virtualAddressIsChecked : virtualAddressIsCheckedRules := by
  refine ⟨fun s c a n need ha => ?_, fun s u rd ra rb w imm sc z q o c hf e he =>
    ⟨fun cause entry => (State.comesToAccess_of_mem hf he).traps_bad, (State.comesToAccess_of_mem hf he).traps_disc⟩⟩
  intro d va
  refine ⟨State.check_virtual_outside ha, fun l hl hd => ?_, fun w u hva hen ht => ?_⟩
  · unfold State.translate
    rw [show State.held s .tlb d = (s.cluster d).tlb from rfl, show TUnit.base .tlb d + va / 65536 = va / 65536 from Nat.zero_add _, hl]
    exact if_neg (by rw [hd]; decide)
  · have hcheck : s.check c a n need = (w.checked va need, u) := State.check_translated hva hen ht
    rw [hcheck]
    refine ⟨fun e hw => by rw [hw]; rfl, fun e hw => by rw [hw]; rfl, fun l first hw => ?_⟩
    subst hw
    intro e disc wtype rights
    show (disc = true → need.ex = true → (need.leafChk l va, u) = _) ∧ _
    refine ⟨fun hd hex => by rw [Need.leafChk_fetch_discarded hd hex], fun hp => ⟨fun hr => ?_, fun hr hwin htype => ?_, fun hr hload => ?_⟩⟩
    · exact congrArg (·, u) (Need.leafChk_violation hp hr)
    · exact congrArg (·, u) ((Need.leafChk_within hp hr).trans (if_pos (by rw [hwin]; exact decide_eq_true htype)))
    · have hw := (Need.leafChk_within (va := va) hp hr).trans (if_neg fun e => ?_)
      · exact ⟨fun hd => congrArg (·, u) (hw.trans (if_pos hd)),
          fun hd htype => congrArg (·, u) (hw.trans ((if_neg (by rw [show l.word.getLsbD 1 = false from hd]; decide)).trans (if_pos htype))),
          fun hd htype => congrArg (·, u) (hw.trans ((if_neg (by rw [show l.word.getLsbD 1 = false from hd]; decide)).trans (if_neg htype)))⟩
      · obtain ⟨hwin, htype⟩ := Bool.and_eq_true_iff.1 e
        exact hload hwin (of_decide_eq_true htype)

/-- Settles O11. -/
theorem accessesAreChecked : Obligations.AccessesAreChecked := ⟨scratchpadAccessIsChecked, virtualAddressIsChecked⟩

end Sys2Proof.Machine

namespace Sys2Proof.Machine

/-! # Walks (O49) -/

/-! ## The entries that a walk goes through (R141, R144) -/

section path
variable {s : State} {va n tab pa a l : Nat}

/-- A walk with its table at `tab` ends at a leaf, entry `a` of level `l`, which it reads last. -/
def State.walkReaches (s : State) (va n tab a l : Nat) : Prop :=
  s.walkFrom va n tab = .leaf ⟨s.tableEntry a, levelPages l, a + l⟩ (va / 2 ^ 16 / levelPages l * levelPages l) ∧ (s.walkReads va n tab).getLast? = some a

variable (hpa : tab + 8 * levelIndex va (3 - n) = pa)
include hpa

theorem State.walkReaches_leaf (hg : s.goodEntry (3 - n) pa) (hleaf : (s.tableEntry pa).getLsbD 5 = true) : s.walkReaches va (n + 1) tab pa (3 - n) := by
  obtain ⟨hpoison, hvalid, hform⟩ := hg
  unfold State.walkReaches State.walkFrom State.walkReads
  dsimp only
  rw [hpa, hpoison, hvalid, hform, hleaf]
  exact ⟨rfl, rfl⟩

theorem State.walkReaches_pointer (hg : s.goodEntry (3 - n) pa) (hleaf : ¬ (s.tableEntry pa).getLsbD 5 = true)
    (h : s.walkReaches va n (bitsAt (s.tableEntry pa) 12 28 * 4096) a l) : s.walkReaches va (n + 1) tab a l := by
  obtain ⟨hpoison, hvalid, hform⟩ := hg
  obtain ⟨hfrom, hreads⟩ := h
  unfold State.walkReaches State.walkFrom State.walkReads
  dsimp only
  rw [hpa, hpoison, hvalid, hform, Bool.eq_false_iff.2 hleaf]
  refine ⟨hfrom, ?_⟩
  have hlast : (pa :: s.walkReads va n (bitsAt (s.tableEntry pa) 12 28 * 4096)).getLast? = some a := by
    rw [List.getLast?_cons, hreads]
    rfl
  exact hlast

/-- At an entry that does not serve, a walk ends without a leaf. -/
theorem State.walk_ends (hg : ¬ s.goodEntry (3 - n) pa) :
    (∀ l first, s.walkFrom va (n + 1) tab ≠ .leaf l first) ∧ s.walkReads va (n + 1) tab = [pa] := by
  unfold State.walkFrom State.walkReads
  dsimp only
  rw [hpa]
  cases hpoison : s.homePoison (tableHome pa) with
  | true => exact ⟨nofun, rfl⟩
  | false =>
    have hbad : (!(s.tableEntry pa).getLsbD 0 || entryMalformed (3 - n) (s.tableEntry pa)) = true := by
      by_contra h
      rw [Bool.not_eq_true, Bool.or_eq_false_iff, Bool.not_eq_false'] at h
      exact hg ⟨hpoison, h.1, h.2⟩
    rw [hbad]
    exact ⟨nofun, if_pos (by rw [Bool.false_or, hbad]; rfl)⟩

end path

/-! ## The walks of a sector (R146) -/

section walks
variable {s v t : State} {d page a : Nat}

/-- The walks that the sector of domain `d` has taken in this cycle. -/
def State.walksNow (s : State) (d : Nat) : List Nat := if (s.sector (sectorOf d)).walkAt = s.cycle + 1 then (s.sector (sectorOf d)).walks else []

/-- A walk for the page can be taken: a supervisor's, one merged with another, or one of fewer than 65. -/
def State.walkFree (s : State) (d page : Nat) : Prop := d < 256 → d * 2 ^ 32 + page ∈ s.walksNow d ∨ (s.walksNow d).length < 64

/-- The sector of domain `d` in `t` counts the walk for the page among those of this cycle. -/
def State.countsWalk (d page : Nat) (s t : State) : Prop :=
  d < 256 → t.sector (sectorOf d) = { s.sector (sectorOf d) with walkAt := s.cycle + 1, walks := (t.sector (sectorOf d)).walks } ∨
    (d * 2 ^ 32 + page ∈ s.walksNow d ∧ t.sector (sectorOf d) = s.sector (sectorOf d))

theorem State.takeWalk_tlb (s : State) (d page : Nat) : s.takeWalk .tlb d page =
    if d < 256 then
      if (s.walksNow d).contains (d * 2 ^ 32 + page) then some s
      else if 64 ≤ (s.walksNow d).length then none
      else some (s.modSector (sectorOf d) fun e => { e with walkAt := s.cycle + 1, walks := (d * 2 ^ 32 + page) :: s.walksNow d })
    else some s := by
  unfold State.takeWalk
  by_cases hd : d < 256
  · rw [show TUnit.walker .tlb d = some (sectorOf d) from if_pos hd, if_pos hd]
    rfl
  · rw [show TUnit.walker .tlb d = none from if_neg hd, if_neg hd]

theorem State.takeWalk_busy (h : ¬ s.walkFree d page) : s.takeWalk .tlb d page = none := by
  unfold State.walkFree at h
  push Not at h
  obtain ⟨hd, hnew, hfull⟩ := h
  rw [State.takeWalk_tlb, if_pos hd, if_neg (by rwa [List.contains_iff_mem]), if_pos hfull]

theorem State.takeWalk_free (h : s.walkFree d page) : ∃ v, s.takeWalk .tlb d page = some v ∧ s.countsWalk d page v := by
  rw [State.takeWalk_tlb]
  split
  next hd =>
    split
    next hmem => exact ⟨s, rfl, fun _ => .inr ⟨List.contains_iff_mem.1 hmem, rfl⟩⟩
    next hmem =>
      have hroom := (h hd).resolve_left fun e => hmem (List.contains_iff_mem.2 e)
      rw [if_neg (Nat.not_le.2 hroom)]
      exact ⟨_, rfl, fun _ => .inl (by rw [State.sector_modSector_same])⟩
  next hd => exact ⟨s, rfl, fun e => absurd e hd⟩

/-! ## What a walk leaves (R138, R145) -/

/-- A walk of domain `d` for the page has been made: its TLB is as `tlb` says, the line of table entry `a` stands in its slice, and
nothing has changed but what a walk touches. -/
def State.walksTo (d page a : Nat) (tlb : SMap Leaf → Prop) (s t : State) : Prop :=
  s.walkOnly t ∧ (∀ j, j ≠ d → t.cluster j = s.cluster j) ∧ t.cluster d = { s.cluster d with tlb := (t.cluster d).tlb } ∧ tlb (t.cluster d).tlb ∧
  t.l2Has (a / 2 ^ 16 % 256) a = true ∧ s.countsWalk d page t

theorem State.walksTo_of_taken {f : SMap Leaf → SMap Leaf} {reads : List Nat} {tlb : SMap Leaf → Prop} (hv : s.takeWalk .tlb d page = some v)
    (hcount : s.countsWalk d page v) (hlast : reads.getLast? = some a) (hf : tlb (f (s.cluster d).tlb)) :
    s.walksTo d page a tlb ((v.readLines reads).modHeld .tlb d f) := by
  have hsect := State.takeWalk_sectors hv
  have hstore := v.storageOnly_readLines reads
  have hcluster (j : Nat) : (v.readLines reads).cluster j = s.cluster j := by
    unfold State.cluster
    rw [hstore.clusters, hsect]
  have hwalk : s.walkOnly v := by
    rw [hsect]
    rfl
  have hd : ((v.readLines reads).modHeld .tlb d f).cluster d = { s.cluster d with tlb := f (s.cluster d).tlb } := by
    rw [← hcluster d]
    exact State.cluster_modCluster_same ..
  have hsector : ((v.readLines reads).modHeld .tlb d f).sector (sectorOf d) = v.sector (sectorOf d) := congrArg (look Sector.reset · _) hstore.sectors
  refine ⟨(hwalk.trans (v.walkOnly_readLines reads)).trans (State.walkOnly_modHeld ..), fun j hj => ?_, ?_, ?_, State.l2Has_readLines v hlast, ?_⟩
  · exact (State.cluster_modCluster_other hj ..).trans (hcluster j)
  · rw [hd]
  · rw [hd]
    exact hf
  · unfold State.countsWalk
    rw [hsector]
    exact hcount

end walks

/-! ## Held translations (R146) -/

section held
variable {m : SMap Leaf} {first vpn cap : Nat} {l : Leaf}

theorem find?_tlbHold : find? (tlbHold m first l cap) first = some l := find?_put_same ..

theorem mem_of_mem_tlbHold {e : Nat × Leaf} (h : e ∈ tlbHold m first l cap) (hne : e.1 ≠ first) : e ∈ m := by
  unfold tlbHold at h
  dsimp only at h
  rcases mem_put h with rfl | h
  · exact absurd rfl hne
  · split at h
    · exact List.mem_of_mem_filter h
    · exact List.mem_of_mem_filter (List.mem_of_mem_drop h)

theorem length_put_le {α : Type} (k : Nat) (v : α) (m : SMap α) : (put k v m).length ≤ m.length + 1 := by
  induction m with
  | nil => exact Nat.le_refl _
  | cons e m ih =>
    obtain ⟨j, w⟩ := e
    simp only [put]
    split
    · exact Nat.le_refl _
    · split
      · exact Nat.le_succ _
      · exact Nat.succ_le_succ ih

theorem length_tlbHold_le (hcap : 0 < cap) (h : m.length ≤ cap) : (tlbHold m first l cap).length ≤ cap := by
  unfold tlbHold
  extract_lets m'
  have hm' : m'.length ≤ m.length := List.length_filter_le ..
  refine (length_put_le ..).trans ?_
  split
  next hlt => exact hlt
  · rw [List.length_drop]
    omega

theorem tlbFind_tlbForget : tlbFind (tlbForget m vpn) vpn = none := by
  unfold tlbFind tlbForget
  rw [List.find?_filter, Option.map_eq_none_iff, List.find?_eq_none]
  intro e _
  rw [decide_eq_true_iff]
  rintro ⟨hkept, hcovers⟩
  rw [hcovers] at hkept
  cases hkept

theorem mem_of_mem_tlbForget {e : Nat × Leaf} (h : e ∈ tlbForget m vpn) : e ∈ m := List.mem_of_mem_filter h

end held

/-! ## TRANSLATION_WALK -/

section step
variable {s : State}

theorem exec_translationWalk_off (h : (s.cluster s.arg.a).en = false) : exec .translationWalk s = .next s :=
  congrArg Host.Outcome.next (if_neg (by show ¬ (s.cluster s.arg.a).en = true; rw [h]; decide))

theorem State.translate_page (d page : Nat) : s.translate .tlb d (page * 65536) = match tlbFind (s.cluster d).tlb page with
    | some l => if l.word.getLsbD 1 then s.walk .tlb d (page * 65536) else (.leaf l (page * 65536 / 65536 / l.pages * l.pages), s)
    | none => s.walk .tlb d (page * 65536) := by
  have hpage : TUnit.base .tlb d + page * 65536 / 65536 = page := (Nat.zero_add _).trans (Nat.mul_div_cancel _ (by decide))
  unfold State.translate
  rw [hpage]
  rfl

variable (hen : (s.cluster s.arg.a).en = true)
include hen

theorem exec_translationWalk_on : exec .translationWalk s = .next (s.translate .tlb s.arg.a (s.arg.b * 65536)).2 := congrArg Host.Outcome.next (if_pos hen)

theorem exec_translationWalk_held {l : Leaf} (hl : tlbFind (s.cluster s.arg.a).tlb s.arg.b = some l) (hd : l.word.getLsbD 1 = false) :
    exec .translationWalk s = .next s := by
  rw [exec_translationWalk_on hen, State.translate_page, hl]
  dsimp only
  rw [if_neg (by rw [hd]; decide)]

variable (hmiss : ∀ l, tlbFind (s.cluster s.arg.a).tlb s.arg.b = some l → l.word.getLsbD 1 = true)
include hmiss

theorem exec_translationWalk_misses : exec .translationWalk s = .next (s.walk .tlb s.arg.a (s.arg.b * 65536)).2 := by
  rw [exec_translationWalk_on hen, State.translate_page]
  split
  next l hl => rw [if_pos (hmiss l hl)]
  · rfl

theorem exec_translationWalk_busy (h : ¬ s.walkFree s.arg.a s.arg.b) : exec .translationWalk s = .next s := by
  have hbusy : s.takeWalk .tlb s.arg.a (s.arg.b * 65536 / 65536) = none := by
    rw [Nat.mul_div_cancel _ (by decide)]
    exact State.takeWalk_busy h
  rw [exec_translationWalk_misses hen hmiss, State.walk_busy hbusy]

variable (hfree : s.walkFree s.arg.a s.arg.b)
include hfree

/-- A walk that is free is made, and leaves the TLB as its end says. -/
theorem translationWalk_walks {w : Walk} {a : Nat} {tlb : SMap Leaf → Prop}
    (hfrom : s.walkFrom (s.arg.b * 65536) 4 ((s.cluster s.arg.a).root.toNat * 4096) = w)
    (hlast : (s.walkReads (s.arg.b * 65536) 4 ((s.cluster s.arg.a).root.toNat * 4096)).getLast? = some a)
    (htlb : tlb (w.keeps 0 s.arg.b 512 (s.cluster s.arg.a).tlb)) : s.gives .translationWalk (s.walksTo s.arg.a s.arg.b a tlb) := by
  obtain ⟨v, hv, hcount⟩ := State.takeWalk_free hfree
  have hpage : s.arg.b * 65536 / 65536 = s.arg.b := Nat.mul_div_cancel _ (by decide)
  have htaken := State.walk_taken (va := s.arg.b * 65536) (by rw [hpage]; exact hv)
  rw [hpage, show (s.rootOf s.arg.a).2 = (s.cluster s.arg.a).root.toNat * 4096 from rfl, hfrom] at htaken
  refine ⟨_, exec_translationWalk_misses hen hmiss, ?_⟩
  rw [htaken]
  exact State.walksTo_of_taken hv hcount hlast htlb

/-- A walk that reaches a leaf holds it. -/
theorem translationWalk_holds {a l : Nat} (h : s.walkReaches (s.arg.b * 65536) 4 ((s.cluster s.arg.a).root.toNat * 4096) a l) :
    let first := s.arg.b / levelPages l * levelPages l
    s.gives .translationWalk (s.walksTo s.arg.a s.arg.b a fun tlb => find? tlb first = some ⟨s.tableEntry a, levelPages l, a + l⟩ ∧
      (∀ e ∈ tlb, e.1 ≠ first → e ∈ (s.cluster s.arg.a).tlb) ∧ ((s.cluster s.arg.a).tlb.length ≤ 512 → tlb.length ≤ 512)) := by
  intro first
  obtain ⟨hfrom, hlast⟩ := h
  refine translationWalk_walks hen hmiss hfree hfrom hlast ?_
  have hfirst : 0 + s.arg.b * 65536 / 2 ^ 16 / levelPages l * levelPages l = first := by
    rw [Nat.zero_add, show s.arg.b * 65536 / 2 ^ 16 = s.arg.b from Nat.mul_div_cancel _ (by decide)]
  unfold Walk.keeps
  dsimp only
  rw [hfirst]
  exact ⟨find?_tlbHold, fun e he hne => mem_of_mem_tlbHold he hne, length_tlbHold_le (by decide)⟩

/-- A walk whose first entry does not serve leaves nothing held for the page. -/
theorem translationWalk_forgets {a : Nat} (ha : (s.cluster s.arg.a).root.toNat * 4096 + 8 * levelIndex (s.arg.b * 65536) 0 = a) (h : ¬ s.goodEntry 0 a) :
    s.gives .translationWalk (s.walksTo s.arg.a s.arg.b a fun tlb => tlbFind tlb s.arg.b = none ∧ ∀ e ∈ tlb, e ∈ (s.cluster s.arg.a).tlb) := by
  obtain ⟨hfrom, hreads⟩ := State.walk_ends (n := 3) ha h
  refine translationWalk_walks hen hmiss hfree rfl (by rw [hreads]; rfl) ?_
  unfold Walk.keeps
  split
  next l first hl => exact absurd hl (hfrom l first)
  · rw [Nat.zero_add]
    exact ⟨tlbFind_tlbForget, fun e he => mem_of_mem_tlbForget he⟩

end step

/-- Where each level indexes the address of a page (R141). -/
theorem levelIndex_page (page : Nat) : levelIndex (page * 65536) 0 = page / 2 ^ 23 % 512 ∧ levelIndex (page * 65536) 1 = page / 2 ^ 14 % 512 ∧
    levelIndex (page * 65536) 2 = page / 2 ^ 5 % 512 ∧ levelIndex (page * 65536) 3 = page % 32 := by
  refine ⟨?_, ?_, ?_, ?_⟩
  · show page * 65536 / 2 ^ 39 % 512 = _
    omega
  · show page * 65536 / 2 ^ 30 % 512 = _
    omega
  · show page * 65536 / 2 ^ 21 % 512 = _
    omega
  · show page * 65536 / 2 ^ 16 % 32 = _
    omega

end Sys2Proof.Machine

namespace Sys2Proof.Machine

/-! # Watched lines (O49) -/

section maps
variable {α : Type} {m : SMap α} {k j : Nat} {v : α}

theorem look_of_find? (d : α) (h : find? m k = some v) : look d m k = v := by
  induction m with
  | nil => cases h
  | cons e m ih =>
    obtain ⟨i, w⟩ := e
    rw [find?] at h
    rw [look]
    split at h
    · cases h
      exact if_pos ‹_›
    · exact (if_neg ‹_›).trans (ih h)

theorem find?_del_other (h : j ≠ k) : find? (del k m) j = find? m j := by
  induction m with
  | nil => rfl
  | cons e m ih =>
    obtain ⟨i, w⟩ := e
    unfold del at ih ⊢
    rw [List.filter_cons]
    split
    · rw [find?, find?, ih]
    next hi =>
      have hik : i = k := by simpa using hi
      rw [find?, if_neg (by rw [hik]; exact Ne.symm h), ih]

theorem mem_keys_iff : k ∈ m.map (·.1) ↔ ∃ v, find? m k = some v := by
  induction m with
  | nil => simp [find?]
  | cons e m ih =>
    obtain ⟨i, w⟩ := e
    rw [List.map_cons, List.mem_cons, ih, find?]
    split
    next hi => exact ⟨fun _ => ⟨w, rfl⟩, fun _ => .inl hi.symm⟩
    next hi => exact ⟨fun h => h.resolve_left fun e => hi e.symm, .inr⟩

end maps

/-! ## Who waits on a line -/

section waiters
variable {s : State} {line key k e : Nat} {m : Monitor}

theorem State.watches_eq_some : s.watches line k = some e ↔ (s.slot k).park = .trap (some e) ∧ e / 64 = line := by
  unfold State.watches
  split
  next e' h =>
    rw [h]
    split
    next hl => exact ⟨fun h => by cases h; exact ⟨rfl, hl⟩, fun ⟨h, _⟩ => by cases h; rfl⟩
    next hl => exact ⟨nofun, fun ⟨h, h'⟩ => by cases h; exact absurd h' hl⟩
  next h => exact ⟨nofun, fun ⟨h', _⟩ => absurd h' (h e)⟩

theorem State.watches_isSome : (s.watches line k).isSome = true ↔ ∃ e, (s.slot k).park = .trap (some e) ∧ e / 64 = line := by
  rw [Option.isSome_iff_exists]
  exact exists_congr fun _ => State.watches_eq_some

theorem State.entryReady_iff : s.entryReady e = true ↔ s.wakesAt e := by
  unfold State.entryReady State.wakesAt
  simp only [Bool.and_eq_true, Bool.not_eq_true', Bool.and_eq_false_iff, not_and_or, Bool.not_eq_true, and_assoc]

theorem State.waiters_of_find? (h : find? s.monitors key = some m) :
    s.waiters key = (m.slots.filter fun k => (s.watches (key % 2 ^ 34) k).isSome, m.cmds.filter fun x => (s.heldIn (key / 2 ^ 34) x.1).isSome) := by
  unfold State.waiters
  dsimp only
  rw [look_of_find? _ h]

theorem State.mem_waiters : k ∈ (s.waiters key).1 ↔
    k ∈ (look Monitor.none s.monitors key).slots ∧ (s.watches (key % 2 ^ 34) k).isSome = true := List.mem_filter

theorem State.mem_waiters_of_find? (h : find? s.monitors key = some m) :
    k ∈ (s.waiters key).1 ↔ k ∈ m.slots ∧ ∃ e, (s.slot k).park = .trap (some e) ∧ e / 64 = key % 2 ^ 34 := by
  rw [State.mem_waiters, look_of_find? _ h, State.watches_isSome]

/-- The numbers under which a table line is watched: one for each sector whose walker does. -/
def State.lineKeys (s : State) (line : Nat) : List Nat := (s.monitors.map (·.1)).filter fun k => k % 2 ^ 34 = line

theorem State.mem_lineKeys : key ∈ s.lineKeys line ↔ (∃ m, find? s.monitors key = some m) ∧ key % 2 ^ 34 = line := by
  unfold State.lineKeys
  rw [List.mem_filter, mem_keys_iff, decide_eq_true_iff]

/-- A line is ready once an entry that a slot or a held command waits on is. -/
theorem State.lineReady_iff (h : find? s.monitors key = some m) : s.lineReady key = true ↔
    (∃ k e, k ∈ m.slots ∧ (s.slot k).park = .trap (some e) ∧ e / 64 = key % 2 ^ 34 ∧ s.wakesAt e) ∨
    ∃ x cl, x ∈ m.cmds ∧ s.heldIn (key / 2 ^ 34) x.1 = some cl ∧ s.wakesAt x.2 := by
  unfold State.lineReady
  rw [State.waiters_of_find? h]
  dsimp only
  rw [Bool.or_eq_true, List.any_filter, List.any_filter, List.any_eq_true, List.any_eq_true]
  refine or_congr (exists_congr fun k => ?_) (exists_congr fun x => ?_)
  · rw [Bool.and_eq_true, Option.any_eq_true]
    constructor
    · rintro ⟨hk, -, e, he, hready⟩
      obtain ⟨hpark, hline⟩ := State.watches_eq_some.1 he
      exact ⟨e, hk, hpark, hline, State.entryReady_iff.1 hready⟩
    · rintro ⟨e, hk, hpark, hline, hready⟩
      have he := State.watches_eq_some.2 ⟨hpark, hline⟩
      exact ⟨hk, by rw [he]; rfl, e, he, State.entryReady_iff.2 hready⟩
  · rw [Bool.and_eq_true, Option.isSome_iff_exists, State.entryReady_iff]
    exact ⟨fun ⟨hx, ⟨cl, hcl⟩, hready⟩ => ⟨cl, hx, hcl, hready⟩, fun ⟨cl, hx, hcl, hready⟩ => ⟨hx, ⟨cl, hcl⟩, hready⟩⟩

end waiters

/-! ## Waking a line -/

/-- A slot that waited on a table entry runs on at cycle `now`. -/
def Slot.wokenAt (now : Nat) (sl : Slot) : Slot :=
  { sl with park := .run, waited := false, ready := now + 1, noticed := false, elapsed := if sl.frozen then 0 else now }

/-- A cluster without the translations that the entries of a table line gave. -/
def Cluster.forgetLine (line : Nat) (c : Cluster) : Cluster := { c with tlb := c.tlb.filter fun e => e.2.line / 64 ≠ line }

/-- Without the translations of watched line `key`, which is watched no more. -/
def State.unwatched (key : Nat) (s : State) : State := { s.dropLineTranslations (key % 2 ^ 34) with monitors := del key s.monitors }

/-- A slot runs on, and may issue from the next cycle. -/
def State.runOn (s : State) (k : Nat) : State := (s.unpark k).modSlot k fun sl => { sl with ready := s.cycle + 1 }

/-- The step that a held command's wake brings to stand out. -/
def State.fireOf (s : State) (sec : Nat) (x : Nat × Nat) : Option Event := (s.heldIn sec x.1).map fun cl => ⟨.triggeredCopyFire, arg2 cl x.1⟩

section wake
variable {s : State} {k : Nat}

theorem State.runOn_eq (h : (s.slot k).park.again? = false) : s.runOn k = s.modSlot k (Slot.wokenAt s.cycle) := by
  unfold State.runOn State.unpark
  rw [State.modSlot_modSlot]
  refine congrArg (s.setSlot k ·) ?_
  show { s.slot k with park := .run, waited := (s.slot k).park.again?, ready := s.cycle + 1, noticed := false, elapsed := if (s.slot k).frozen then 0 else s.cycle } = _
  rw [h]
  rfl

theorem State.foldl_runOn (l : List Nat) (h : ∀ k ∈ l, (s.slot k).park.again? = false) : let t := l.foldl State.runOn s
    t = { s with slots := t.slots } ∧ (∀ k ∈ l, t.slot k = (s.slot k).wokenAt s.cycle) ∧ ∀ k, k ∉ l → t.slot k = s.slot k := by
  induction l generalizing s with
  | nil => exact ⟨rfl, nofun, fun _ _ => rfl⟩
  | cons j l ih =>
    have hj := State.runOn_eq (h j List.mem_cons_self)
    have hslot (k : Nat) : (s.runOn j).slot k = if k = j then (s.slot j).wokenAt s.cycle else s.slot k := by
      rw [hj]
      exact State.slot_modSlot ..
    have hcycle : (s.runOn j).cycle = s.cycle := by rw [hj]; rfl
    obtain ⟨hframe, hin, hout⟩ := ih (s := s.runOn j) fun k hk => by
      rw [hslot]
      split
      · rfl
      · exact h k (List.mem_cons_of_mem _ hk)
    rw [List.foldl_cons]
    refine ⟨?_, fun k hk => ?_, fun k hk => ?_⟩
    · rw [hframe, hj]
      rfl
    · by_cases hkl : k ∈ l
      · rw [hin k hkl, hslot, hcycle]
        split
        next e => rw [e]; rfl
        · rfl
      · rw [hout k hkl, hslot, if_pos ((List.mem_cons.1 hk).resolve_right hkl), (List.mem_cons.1 hk).resolve_right hkl]
    · rw [List.mem_cons, not_or] at hk
      rw [hout k hk.2, hslot, if_neg hk.1]

theorem State.foldl_fires (u : State) (sec : Nat) (l : List (Nat × Nat)) : (l.foldl (fun (t : State) x => match s.heldIn sec x.1 with
    | some cl => t.post .triggeredCopyFire (arg2 cl x.1)
    | none => t) u) = { u with work := u.work ++ l.filterMap (s.fireOf sec) } := by
  induction l generalizing u with
  | nil => rw [List.filterMap_nil, List.append_nil]; rfl
  | cons x l ih =>
    rw [List.foldl_cons, ih, List.filterMap_cons]
    unfold State.fireOf
    cases s.heldIn sec x.1 with
    | none => rfl
    | some cl =>
      dsimp only [Option.map_some]
      rw [List.append_cons]
      rfl

theorem State.cluster_dropLineTranslations (line cl : Nat) : (s.dropLineTranslations line).cluster cl = (s.cluster cl).forgetLine line :=
  look_map_values (f := Cluster.forgetLine line) rfl ..

/-- What waking a line comes to. -/
theorem State.wakeLine_spec (s : State) (key : Nat) : let t := s.wakeLine key
    t = { s with slots := t.slots, clusters := t.clusters, monitors := del key s.monitors, work := s.work ++ (s.waiters key).2.filterMap (s.fireOf (key / 2 ^ 34)) } ∧
    (∀ k ∈ (s.waiters key).1, t.slot k = (s.slot k).wokenAt s.cycle) ∧ (∀ k, k ∉ (s.waiters key).1 → t.slot k = s.slot k) ∧
    ∀ cl, t.cluster cl = (s.cluster cl).forgetLine (key % 2 ^ 34) := by
  intro t
  obtain ⟨hframe, hin, hout⟩ := State.foldl_runOn (s := s.unwatched key) (s.waiters key).1
    fun k hk => by
      obtain ⟨e, hpark, -⟩ := State.watches_isSome.1 (State.mem_waiters.1 hk).2
      exact congrArg Park.again? hpark
  have ht := State.foldl_fires (s := s) ((s.waiters key).1.foldl State.runOn (s.unwatched key))
    (key / 2 ^ 34) (s.waiters key).2
  change t = _ at ht
  refine ⟨?_, fun k hk => ?_, fun k hk => ?_, fun cl => ?_⟩
  · rw [ht, hframe]
    rfl
  · rw [ht]
    exact hin k hk
  · rw [ht]
    exact hout k hk
  · rw [ht, hframe]
    exact State.cluster_dropLineTranslations ..

end wake

end Sys2Proof.Machine

namespace Sys2Proof.Machine

/-! # Lines that are read again, and the obligation (O49) -/

/-! ## One walker reads its line again -/

section reread
variable {s : State} {key : Nat} {m : Monitor}

theorem State.mem_fires {sec cl : Nat} {x : Nat × Nat} {l : List (Nat × Nat)} (hx : x ∈ l) (hcl : s.heldIn sec x.1 = some cl) :
    (⟨.triggeredCopyFire, arg2 cl x.1⟩ : Event) ∈ (l.filter fun x => (s.heldIn sec x.1).isSome).filterMap (s.fireOf sec) := by
  refine List.mem_filterMap.2 ⟨x, List.mem_filter.2 ⟨hx, by rw [hcl]; rfl⟩, ?_⟩
  unfold State.fireOf
  rw [hcl]
  rfl

theorem State.planPoll_unwatched (h : find? s.monitors key = none) : s.planPoll key = s := by
  unfold State.planPoll
  rw [h]

/-- The walker must read a line again of its own accord, and no reread stands out yet. -/
abbrev State.mustPoll (s : State) (key : Nat) (m : Monitor) : Prop :=
  (m.armed = false ∨ s.homePoison (tableHome (key % 2 ^ 34 * 64)) = true) ∧ m.due = none

theorem State.mustPoll_iff : ((!m.armed || s.homePoison (tableHome (key % 2 ^ 34 * 64))) && m.due.isNone) = true ↔ s.mustPoll key m := by
  rw [Bool.and_eq_true, Bool.or_eq_true, Bool.not_eq_true', Option.isNone_iff_eq_none]

theorem State.planPoll_needed (h : s.mustPoll key m) : State.planPoll key { s with monitors := put key m s.monitors } =
    { s with monitors := put key { m with due := some (s.cycle + 4096) } s.monitors, work := s.work ++ [⟨.monitorPoll, arg1 key⟩] } := by
  unfold State.planPoll State.polls
  rw [find?_put_same]
  dsimp only
  refine (if_pos (State.mustPoll_iff.2 h)).trans ?_
  rw [put_put]
  rfl

theorem State.planPoll_unneeded (h : ¬ s.mustPoll key m) : State.planPoll key { s with monitors := put key m s.monitors } =
    { s with monitors := put key m s.monitors } := by
  unfold State.planPoll State.polls
  rw [find?_put_same]
  exact if_neg fun e => h (State.mustPoll_iff.1 e)

/-- Watched line `key` with those that still wait there. -/
def State.stillWaiting (s : State) (key : Nat) (m : Monitor) : Monitor :=
  { m with slots := m.slots.filter fun k => (s.watches (key % 2 ^ 34) k).isSome, cmds := m.cmds.filter fun x => (s.heldIn (key / 2 ^ 34) x.1).isSome }

/-- A line with no entry that is ready keeps those that still wait there, and is watched no more where none does. -/
theorem State.reread_waits (hm : find? s.monitors key = some m) (h : ¬ s.lineReady key = true) : let w := s.stillWaiting key m
    s.reread key = { s with monitors := if w.slots = [] ∧ w.cmds = [] then del key s.monitors else put key w s.monitors } := by
  intro w
  have hempty : (w.slots.isEmpty && w.cmds.isEmpty) = true ↔ w.slots = [] ∧ w.cmds = [] := by
    rw [Bool.and_eq_true, List.isEmpty_iff, List.isEmpty_iff]
  unfold State.reread
  rw [if_neg h, State.waiters_of_find? hm, look_of_find? _ hm]
  exact congrArg (fun l => { s with monitors := l }) (if_congr hempty rfl rfl)

/-- So the line is read again of the walker's own accord where something still waits there and no monitor will tell. -/
theorem State.planPoll_reread_waits (hm : find? s.monitors key = some m) (h : ¬ s.lineReady key = true) :
    let w := s.stillWaiting key m; let t := (s.reread key).planPoll key
    t = { s with monitors := t.monitors, work := if find? t.monitors key ≠ none ∧ s.mustPoll key m then s.work ++ [⟨.monitorPoll, arg1 key⟩] else s.work } ∧
    find? t.monitors key = if w.slots = [] ∧ w.cmds = [] then none else some { w with due := if s.mustPoll key m then some (s.cycle + 4096) else m.due } := by
  intro w t
  have hw : s.reread key = { s with monitors := if w.slots = [] ∧ w.cmds = [] then del key s.monitors else put key w s.monitors } := State.reread_waits hm h
  by_cases hnone : w.slots = [] ∧ w.cmds = []
  · have ht : t = { s with monitors := del key s.monitors } := by
      unfold t
      rw [hw, if_pos hnone, State.planPoll_unwatched (find?_del_same ..)]
    have hfind : find? t.monitors key = none := by rw [ht]; exact find?_del_same ..
    rw [hfind, if_pos hnone, if_neg fun h => h.1 rfl, ht]
    exact ⟨rfl, rfl⟩
  rw [if_neg hnone]
  by_cases hpoll : s.mustPoll key m
  · have ht : t = { s with monitors := put key { w with due := some (s.cycle + 4096) } s.monitors, work := s.work ++ [⟨.monitorPoll, arg1 key⟩] } := by
      unfold t
      rw [hw, if_neg hnone, State.planPoll_needed (m := w) hpoll]
    have hfind : find? t.monitors key = some { w with due := some (s.cycle + 4096) } := by rw [ht]; exact find?_put_same ..
    rw [hfind, if_pos ⟨nofun, hpoll⟩, if_pos hpoll, ht]
    exact ⟨rfl, rfl⟩
  · have ht : t = { s with monitors := put key w s.monitors } := by
      unfold t
      rw [hw, if_neg hnone, State.planPoll_unneeded (m := w) hpoll]
    have hfind : find? t.monitors key = some w := by rw [ht]; exact find?_put_same ..
    rw [hfind, if_neg fun h => hpoll h.2, if_neg hpoll, ht]
    exact ⟨rfl, rfl⟩

/-- What reading a watched line again comes to. -/
theorem State.reread_rereadsTo (hm : find? s.monitors key = some m) : s.rereadsTo key m ((s.reread key).planPoll key) := by
  unfold State.rereadsTo
  intro line waits holds slots cmds polls
  have hready := State.lineReady_iff hm
  have hwaits (k : Nat) : k ∈ (s.waiters key).1 ↔ ∃ e, waits k e := by
    rw [State.mem_waiters_of_find? hm]
    exact ⟨fun ⟨hk, e, he⟩ => ⟨e, hk, he⟩, fun ⟨e, hk, he⟩ => ⟨hk, e, he⟩⟩
  refine ⟨fun h => ?_, fun hslots hcmds => ?_⟩
  · have hline : s.lineReady key = true := by
      refine hready.2 (h.imp ?_ ?_)
      · rintro ⟨k, e, ⟨hk, hpark, hl⟩, hwakes⟩
        exact ⟨k, e, hk, hpark, hl, hwakes⟩
      · rintro ⟨x, cl, ⟨hx, hcl⟩, hwakes⟩
        exact ⟨x, cl, hx, hcl, hwakes⟩
    have hre : s.reread key = s.wakeLine key := if_pos hline
    obtain ⟨hframe, hin, hout, hclusters⟩ := s.wakeLine_spec key
    have hmon : (s.wakeLine key).monitors = del key s.monitors := by rw [hframe]
    have hwork : (s.wakeLine key).work = s.work ++ (s.waiters key).2.filterMap (s.fireOf (key / 2 ^ 34)) := by rw [hframe]
    rw [hre, State.planPoll_unwatched (by rw [hmon]; exact find?_del_same ..)]
    refine ⟨?_, fun k e hk => hin k ((hwaits k).2 ⟨e, hk⟩), fun k hk => hout k fun hmem => ?_, hclusters, fun x cl hx => ?_, ?_⟩
    · rw [hwork]
      exact hframe
    · obtain ⟨e, he⟩ := (hwaits k).1 hmem
      exact hk e he
    · rw [hwork, State.waiters_of_find? hm]
      exact List.mem_append_right _ (State.mem_fires hx.1 hx.2)
    · rw [hwork]
      exact List.prefix_append ..
  · have hline : ¬ s.lineReady key = true := fun hl => by
      rcases hready.1 hl with ⟨k, e, hk, hpark, hl, hwakes⟩ | ⟨x, cl, hx, hcl, hwakes⟩
      · exact hslots k e ⟨hk, hpark, hl⟩ hwakes
      · exact hcmds x cl ⟨hx, hcl⟩ hwakes
    exact State.planPoll_reread_waits hm hline

end reread

/-! ## Every walker that watches the line -/

section lines
variable {line : Nat}

theorem Cluster.forgetLine_forgetLine (c : Cluster) : (c.forgetLine line).forgetLine line = c.forgetLine line := by
  unfold Cluster.forgetLine
  rw [List.filter_filter]
  simp only [Bool.and_self]

theorem State.heldIn_wakeLine (s : State) (key sec serial : Nat) : (s.wakeLine key).heldIn sec serial = s.heldIn sec serial := by
  obtain ⟨-, -, -, hclusters⟩ := s.wakeLine_spec key
  unfold State.heldIn
  simp only [hclusters, Cluster.forgetLine]

/-- Once one of a line's numbers has woken, those that wait under another are the rest. -/
theorem State.mem_waiters_wakeLine {s : State} {key key' k : Nat} :
    k ∈ ((s.wakeLine key).waiters key').1 ↔ key' ≠ key ∧ k ∈ (s.waiters key').1 ∧ k ∉ (s.waiters key).1 := by
  obtain ⟨hframe, hin, hout, -⟩ := s.wakeLine_spec key
  have hmon : (s.wakeLine key).monitors = del key s.monitors := by rw [hframe]
  rw [State.mem_waiters, State.mem_waiters, hmon]
  by_cases hkey : key' = key
  · rw [hkey, look_del_same]
    exact ⟨nofun, fun h => absurd rfl h.1⟩
  · rw [look_del_other _ hkey]
    by_cases hk : k ∈ (s.waiters key).1
    · have hrun : (s.wakeLine key).watches (key' % 2 ^ 34) k = none := by
        unfold State.watches
        rw [hin k hk]
        rfl
      rw [hrun]
      exact ⟨nofun, fun h => absurd hk h.2.2⟩
    · have hsame : (s.wakeLine key).watches (key' % 2 ^ 34) k = s.watches (key' % 2 ^ 34) k := by
        unfold State.watches
        rw [hout k hk]
      rw [hsame]
      exact ⟨fun h => ⟨hkey, h, hk⟩, fun h => h.2.1⟩

/-- `t` is `s` with all that waits under the numbers `l` of a line woken: the slots run on, the commands' steps stand out, nothing is watched under these
numbers, and no TLB has the line's translations. -/
structure State.wakesUnder (line : Nat) (l : List Nat) (s t : State) : Prop where
  frame : t = { s with slots := t.slots, clusters := t.clusters, monitors := t.monitors, work := t.work }
  monitor : ∀ j, find? t.monitors j = if j ∈ l then none else find? s.monitors j
  woken : ∀ key ∈ l, ∀ k ∈ (s.waiters key).1, t.slot k = (s.slot k).wokenAt s.cycle
  other : ∀ k, (∀ key ∈ l, k ∉ (s.waiters key).1) → t.slot k = s.slot k
  cluster : ∀ cl, t.cluster cl = if l = [] then s.cluster cl else (s.cluster cl).forgetLine line
  work : ∀ e ∈ s.work, e ∈ t.work
  fires : ∀ key ∈ l, ∀ x ∈ (look Monitor.none s.monitors key).cmds, ∀ cl, s.heldIn (key / 2 ^ 34) x.1 = some cl → ⟨.triggeredCopyFire, arg2 cl x.1⟩ ∈ t.work

/-- A line is woken number by number. -/
theorem State.wakesUnder_cons {s t : State} {key : Nat} {l : List Nat} (hkey : key % 2 ^ 34 = line) (h : (s.wakeLine key).wakesUnder line l t) :
    s.wakesUnder line (key :: l) t := by
  obtain ⟨hframe, hin, hout, hclusters⟩ := s.wakeLine_spec key
  have hmon : (s.wakeLine key).monitors = del key s.monitors := by rw [hframe]
  have hwork : (s.wakeLine key).work = s.work ++ (s.waiters key).2.filterMap (s.fireOf (key / 2 ^ 34)) := by rw [hframe]
  have hcycle : (s.wakeLine key).cycle = s.cycle := by rw [hframe]
  refine ⟨?_, fun j => ?_, fun key' hkey' k hk => ?_, fun k hk => ?_, fun cl => ?_, fun e he => ?_, fun key' hkey' x hx cl hcl => ?_⟩
  · rw [h.frame, hframe]
  · rw [h.monitor, hmon]
    by_cases hj : j = key
    · rw [hj, find?_del_same, ite_self, if_pos List.mem_cons_self]
    · rw [find?_del_other hj]
      exact if_congr (by rw [List.mem_cons, or_iff_right hj]) rfl rfl
  · by_cases hk' : k ∈ (s.waiters key).1
    · rw [h.other k fun _ _ hmem => (State.mem_waiters_wakeLine.1 hmem).2.2 hk', hin k hk']
    · have hne : key' ≠ key := fun e => hk' (e ▸ hk)
      rw [h.woken key' ((List.mem_cons.1 hkey').resolve_left hne) k (State.mem_waiters_wakeLine.2 ⟨hne, hk, hk'⟩), hcycle, hout k hk']
  · rw [h.other k fun key' hl hmem => hk key' (List.mem_cons_of_mem _ hl) (State.mem_waiters_wakeLine.1 hmem).2.1, hout k (hk key List.mem_cons_self)]
  · rw [h.cluster, hclusters, hkey, if_neg (List.cons_ne_nil _ _)]
    split
    · rfl
    · exact Cluster.forgetLine_forgetLine ..
  · exact h.work e (by rw [hwork]; exact List.mem_append_left _ he)
  · by_cases hne : key' = key
    · rw [hne] at hx hcl
      exact h.work _ (by rw [hwork]; exact List.mem_append_right _ (State.mem_fires hx hcl))
    · refine h.fires key' ((List.mem_cons.1 hkey').resolve_left hne) x ?_ cl ((State.heldIn_wakeLine ..).trans hcl)
      rw [hmon, look_del_other _ hne]
      exact hx

theorem State.wakesUnder_foldl (s : State) (l : List Nat) (hl : ∀ key ∈ l, key % 2 ^ 34 = line) :
    s.wakesUnder line l (l.foldl (fun (s : State) k => s.wakeLine k) s) := by
  induction l generalizing s with
  | nil => exact ⟨rfl, fun _ => rfl, nofun, fun _ _ => rfl, fun _ => rfl, fun _ he => he, nofun⟩
  | cons key l ih =>
    exact State.wakesUnder_cons (hl key List.mem_cons_self) (ih (s.wakeLine key) fun key' h => hl key' (List.mem_cons_of_mem _ h))

end lines

/-! ## PAGE_MONITOR_WAKE and MONITOR_POLL -/

section steps
variable {s : State} {m : Monitor} (hm : find? s.monitors s.arg.a = some m)

theorem exec_pageMonitorWake_unwatched (h : find? s.monitors s.arg.a = none) : exec .pageMonitorWake s = .next s := by
  show execPageMonitorWake s = _
  unfold execPageMonitorWake
  dsimp only
  rw [h]

theorem exec_monitorPoll_unwatched (h : find? s.monitors s.arg.a = none) : exec .monitorPoll s = .next s := by
  show execMonitorPoll s = _
  unfold execMonitorPoll
  dsimp only
  rw [h]

include hm

theorem exec_pageMonitorWake_watched : exec .pageMonitorWake s = .next (if (!m.armed) = true then s
    else if (s.arg.b = 1 && s.lineReady s.arg.a) = true then
      (s.lineKeys (s.arg.a % 2 ^ 34)).foldl (fun (s : State) k => s.wakeLine k) s
    else (s.reread s.arg.a).planPoll s.arg.a) := by
  show execPageMonitorWake s = _
  unfold execPageMonitorWake
  dsimp only
  rw [hm]
  rfl

theorem exec_pageMonitorWake_unarmed (ha : m.armed = false) : exec .pageMonitorWake s = .next s :=
  (exec_pageMonitorWake_watched hm).trans (congrArg _ (if_pos (by rw [ha]; rfl)))

theorem exec_pageMonitorWake_rereads (ha : m.armed = true) (h : ¬ (s.arg.b = 1 ∧ s.lineReady s.arg.a = true)) :
    exec .pageMonitorWake s = .next ((s.reread s.arg.a).planPoll s.arg.a) := by
  rw [exec_pageMonitorWake_watched hm, if_neg (by rw [ha]; decide), if_neg]
  rwa [Bool.and_eq_true, decide_eq_true_iff]

theorem exec_pageMonitorWake_wakes (ha : m.armed = true) (hb : s.arg.b = 1) (hready : s.lineReady s.arg.a = true) : exec .pageMonitorWake s =
    .next ((s.lineKeys (s.arg.a % 2 ^ 34)).foldl (fun (s : State) k => s.wakeLine k) s) := by
  rw [exec_pageMonitorWake_watched hm, if_neg (by rw [ha]; decide), if_pos]
  rw [Bool.and_eq_true, decide_eq_true_iff]
  exact ⟨hb, hready⟩

theorem exec_monitorPoll_idle (hd : m.due = none) : exec .monitorPoll s = .next s := by
  show execMonitorPoll s = _
  unfold execMonitorPoll
  dsimp only
  rw [hm]
  dsimp only
  rw [hd]

theorem exec_monitorPoll_planned {n : Nat} (hd : m.due = some n) : exec .monitorPoll s = .next (if s.cycle < n then s.defer
    else (State.reread s.arg.a { s with monitors := put s.arg.a { m with due := none } s.monitors }).planPoll s.arg.a) := by
  show execMonitorPoll s = _
  unfold execMonitorPoll
  dsimp only
  rw [hm]
  dsimp only
  rw [hd]

end steps

/-! ## The obligation -/

/-- At level 3 only a leaf is well-formed (R144). -/
theorem State.goodEntry.leaf {s : State} {pa : Nat} (h : s.goodEntry 3 pa) : (s.tableEntry pa).getLsbD 5 = true := by
  obtain ⟨-, -, hform⟩ := h
  by_contra hleaf
  unfold entryMalformed at hform
  rw [if_neg hleaf] at hform
  cases hform

/-- Settles O49: a walk by the entries on its way, a watched line by who waits there. -/
theorem walksAndWatchedLines : Obligations.WalksAndWatchedLines := by
  unfold Obligations.WalksAndWatchedLines
  intro s
  constructor
  · intro d page c sec a0 next a1 a2 a3 leaf now free walked held
    obtain ⟨h0, h1, h2, h3⟩ := levelIndex_page page
    have e0 : c.root.toNat * 4096 + 8 * levelIndex (page * 65536) 0 = a0 := by rw [h0]
    have e1 : next a0 + 8 * levelIndex (page * 65536) 1 = a1 := by rw [h1]
    have e2 : next a1 + 8 * levelIndex (page * 65536) 2 = a2 := by rw [h2]
    have e3 : next a2 + 8 * levelIndex (page * 65536) 3 = a3 := by rw [h3]
    refine ⟨exec_translationWalk_off, fun l hen hl hd => exec_translationWalk_held hen hl hd, fun hen hmiss =>
      ⟨exec_translationWalk_busy hen hmiss, fun hfree g0 p0 g1 => ⟨fun l1 => ?_, fun p1 g2 => ⟨fun l2 => ?_, fun p2 g3 => ?_⟩⟩, fun hfree => ?_⟩⟩
    · exact translationWalk_holds hen hmiss hfree (State.walkReaches_pointer (n := 3) e0 g0 p0 (State.walkReaches_leaf (n := 2) e1 g1 l1))
    · exact translationWalk_holds hen hmiss hfree (State.walkReaches_pointer (n := 3) e0 g0 p0
        (State.walkReaches_pointer (n := 2) e1 g1 p1 (State.walkReaches_leaf (n := 1) e2 g2 l2)))
    · have hreach : s.walkReaches (page * 65536) 4 (c.root.toNat * 4096) a3 3 := State.walkReaches_pointer (n := 3) e0 g0 p0
        (State.walkReaches_pointer (n := 2) e1 g1 p1 (State.walkReaches_pointer (n := 1) e2 g2 p2 (State.walkReaches_leaf (n := 0) e3 g3 g3.leaf)))
      exact translationWalk_holds hen hmiss hfree hreach
    · exact translationWalk_forgets hen hmiss hfree e0
  · intro key
    refine ⟨fun h => ⟨exec_pageMonitorWake_unwatched h, exec_monitorPoll_unwatched h⟩, fun m hm =>
      ⟨exec_pageMonitorWake_unarmed hm, ?_, exec_monitorPoll_idle hm, fun n hd hlt => ?_, fun n hd hle => ?_⟩⟩
    · intro line waits ready
      have hready : s.lineReady key = true ↔ ready := State.lineReady_iff hm
      refine ⟨fun ha hnot => ⟨_, exec_pageMonitorWake_rereads hm ha fun h => hnot ⟨h.1, hready.1 h.2⟩, State.reread_rereadsTo hm⟩,
        fun ha hb hr _ => ⟨_, exec_pageMonitorWake_wakes hm ha hb (hready.2 hr), ?_⟩⟩
      have hall := s.wakesUnder_foldl (s.lineKeys line) fun j hj => (State.mem_lineKeys.1 hj).2
      refine ⟨hall.frame, fun j => ?_, fun k e hk => ?_, fun k hk => hall.other k fun j hj hkj => ?_, fun cl => ?_, fun j m' x cl hj hl hx hcl => ?_⟩
      · rw [hall.monitor]
        by_cases hl : j % 2 ^ 34 = line
        · rw [if_pos hl]
          cases hj : find? s.monitors j with
          | none => exact ite_self _
          | some m' => exact if_pos (State.mem_lineKeys.2 ⟨⟨m', hj⟩, hl⟩)
        · rw [if_neg hl, if_neg fun h => hl (State.mem_lineKeys.1 h).2]
      · obtain ⟨⟨j, m', hj, hl, hkm⟩, hpark, he⟩ := hk
        exact hall.woken j (State.mem_lineKeys.2 ⟨⟨m', hj⟩, hl⟩) k ((State.mem_waiters_of_find? hj).2 ⟨hkm, e, hpark, he.trans hl.symm⟩)
      · obtain ⟨⟨m', hm'⟩, hl⟩ := State.mem_lineKeys.1 hj
        obtain ⟨hkm, e, hpark, he⟩ := (State.mem_waiters_of_find? hm').1 hkj
        exact hk e ⟨⟨j, m', hm', hl, hkm⟩, hpark, he.trans hl⟩
      · exact (hall.cluster cl).trans (if_neg (List.ne_nil_of_mem (State.mem_lineKeys.2 ⟨⟨m, hm⟩, rfl⟩)))
      · exact hall.fires j (State.mem_lineKeys.2 ⟨⟨m', hj⟩, hl⟩) x (by rw [look_of_find? _ hj]; exact hx) cl hcl
    · exact (exec_monitorPoll_planned hm hd).trans (congrArg _ (if_pos hlt))
    · exact ⟨_, (exec_monitorPoll_planned hm hd).trans (congrArg _ (if_neg (Nat.not_lt.2 hle))), State.reread_rereadsTo (find?_put_same ..)⟩

end Sys2Proof.Machine
